-- ==== Sys2Proof/Word.lean ====
section
/-! DEFINITION. The word types of the J5 and their plainest arithmetic (R6 to R9). -/

namespace Sys2Proof

/-- One byte of any store of the part. -/
abbrev Byte := BitVec 8
/-- A 16-bit field. -/
abbrev W16 := BitVec 16
/-- A 32-bit word. -/
abbrev W32 := BitVec 32
/-- A 64-bit word: a scalar register, a parameter field, a local count. -/
abbrev W64 := BitVec 64
/-- A lane mask register (Table 3.1). -/
abbrev W128 := BitVec 128
/-- A chain configuration register (Table 6.1). -/
abbrev W256 := BitVec 256
/-- A 64-byte tensor descriptor (Table 4.1). -/
abbrev W512 := BitVec 512

/-- The bits `[lo + w - 1 : lo]` of a word (R6). -/
def bits {n : Nat} (x : BitVec n) (lo w : Nat) : BitVec w := x.extractLsb' lo w

/-- One bit of a word (R6). -/
def bit {n : Nat} (x : BitVec n) (i : Nat) : Bool := x.getLsbD i

end Sys2Proof
end

