-- ==== Sys2Proof/Syntax.lean ====
section
/-! DEFINITION. The commands of the block: one constructor of `Instr` per row of spec/opcode_table.json.
The operand structures come first: the fields of each instruction class (Tables 3.3 to 3.14), the command
header (Table 18.3), the fabric packet (Table 15.3) and the facts an event row reports. -/

namespace Sys2Proof

/-- A logical stall, hall.aisle.stall (R15, Table 1.1). -/
structure StallId where
  hall : Fin 4
  aisle : Fin 36
  stall : Fin 16
  deriving DecidableEq, Repr

/-- A thread context of a stall: context number 0 to 1,023 (R94, Table 3.15). -/
structure ThreadRef where
  st : StallId
  ctx : Fin 1024
  deriving DecidableEq, Repr

/-- Scalar class fields (Table 3.3). `low` is bits [42:0]: IMM when `i` is set, else XB and reserved bits. -/
structure ScalarF where
  xd : BitVec 5
  xa : BitVec 5
  i : Bool
  low : BitVec 43
  deriving DecidableEq, Repr

/-- Control class fields (Table 3.5). -/
structure ControlF where
  xa : BitVec 5
  xb : BitVec 5
  xl : BitVec 5
  link : Bool
  rsv : BitVec 6
  offs : BitVec 32
  deriving DecidableEq, Repr

/-- Tensor class fields (Table 3.7). -/
structure TensorF where
  slot : BitVec 6
  sh : Bool
  da : BitVec 4
  xia : BitVec 5
  db : BitVec 4
  xib : BitVec 5
  dc : BitVec 4
  xic : BitVec 5
  fmt : BitVec 4
  accw : BitVec 2
  beginF : Bool
  close : Bool
  drain : BitVec 2
  cc : BitVec 3
  tap : Bool
  tslot : BitVec 6
  deriving DecidableEq, Repr

/-- Chain class fields (Table 3.9). -/
structure ChainF where
  ds : BitVec 4
  xis : BitVec 5
  ds2 : BitVec 4
  xis2 : BitVec 5
  s2en : Bool
  dd : BitVec 4
  xid : BitVec 5
  cc : BitVec 3
  mreg : BitVec 2
  men : Bool
  rsv : BitVec 20
  deriving DecidableEq, Repr

/-- Move class fields, copy format (Table 3.10). -/
structure CopyF where
  ds : BitVec 4
  xis : BitVec 5
  dd : BitVec 4
  xid : BitVec 5
  async : Bool
  tok : BitVec 2
  perm : BitVec 15
  rsv : BitVec 18
  deriving DecidableEq, Repr

/-- Move class fields, register format (Table 3.11). -/
structure MoveRegF where
  xa : BitVec 5
  dreg : BitVec 4
  dsrc : BitVec 4
  creg : BitVec 3
  mreg : BitVec 2
  rsv : BitVec 36
  deriving DecidableEq, Repr

/-- Sync class fields (Table 3.12). -/
structure SyncF where
  xd : BitVec 5
  xa : BitVec 5
  xb : BitVec 5
  cmp : BitVec 2
  timeout : BitVec 16
  tokmask : BitVec 4
  rsv : BitVec 17
  deriving DecidableEq, Repr

/-- Privileged class fields (Table 3.14). -/
structure PrivF where
  xd : BitVec 5
  xa : BitVec 5
  dreg : BitVec 4
  slot : BitVec 6
  nm1 : BitVec 4
  mode : BitVec 3
  rsv : BitVec 27
  deriving DecidableEq, Repr

/-- The command header of a slot but its OPCODE (Table 18.3), reserved bytes included. -/
structure CmdHdr where
  flags : W16 := 0
  plen : W16 := 0
  job : Byte := 0
  rsv0 : Byte := 0
  tag : W64 := 0
  seq : W32 := 0
  expire : W32 := 0
  bulkAddr : W64 := 0
  bulkLen : W32 := 0
  rsv1 : BitVec 224 := 0
  deriving DecidableEq, Repr

/-- A fabric packet: the header of Table 15.3 and its payload bytes (R439). -/
structure Pkt where
  type : Byte
  ctrl : Byte
  dst : W16
  src : W16
  plen : W16
  tags : W64 := 0
  addr : W64 := 0
  seq : W32 := 0
  rid : W16 := 0
  opx : Byte := 0
  rsv : Byte := 0
  payload : List Byte := []
  deriving DecidableEq, Repr

/-- The resets of scope "host interface" (Table 19.1, R511). -/
inductive HostReset where
  | flr | hot | perst
  deriving DecidableEq, Repr

/-- The outcome of a Bell watch (Table 12.5). -/
inductive BellOutcome where
  | held | timeout | lost
  deriving DecidableEq, Repr

/-- Where a watch's completion message goes (Table 12.2). A thread or gate of another part is named by
the part alone: what it does there is that part's. -/
inductive BellDest where
  | thread (t : ThreadRef)
  | gate (graph : Fin 8) (task : Nat)
  | host (watch : W32) (cookie : W64)
  | remote (part : Fin 8192) (waiter : W64)
  deriving DecidableEq, Repr

/-- A watch completion message (R357, R361). -/
structure BellMsg where
  dest : BellDest
  index : W16
  part : Fin 8192
  outcome : BellOutcome
  tie : Bool
  value : W64
  lc : W64
  /-- The watch, or the registration, that it completes: the id its waiter gave it. -/
  watch : Nat := 0
  deriving DecidableEq, Repr

/-- What the start-up steps of one start met in the world outside the sequencer (Table 19.4): one bit per
unit that failed, and which objects failed step 3. A step with no failure bit succeeds. -/
structure StartupFacts where
  /-- The step that is still running when the report ends, 2 to 9; 0 when every step ended. -/
  hangAt : Nat := 0
  /-- Step 2: neither flash header copy is readable and valid (R552). -/
  noHeader : Bool := false
  /-- Step 2 fails otherwise. -/
  step2Fail : Bool := false
  /-- Step 3: the firmware image fails (R559). -/
  fwFail : Bool := false
  /-- Step 3: the configuration bundle fails (R559). -/
  cfgFail : Bool := false
  /-- Step 4 fails (R562). -/
  step4Fail : Bool := false
  /-- Step 5: halls that failed to come up, bit h. -/
  hallFail : BitVec 4 := 0
  /-- Step 5: halls whose mesh passed although they failed to come up (Table 19.6). -/
  meshPass : BitVec 4 := 0xF
  /-- Step 5: the extended self-test failed. -/
  extFail : Bool := false
  /-- Step 5: stalls that failed the self-test (R544). -/
  stallFail : List StallId := []
  /-- Step 5: halls whose ROOT tests failed (R262, R544). -/
  rootFail : BitVec 4 := 0
  /-- Step 6: stacks that failed to train, bit k. -/
  stackFail : BitVec 12 := 0
  /-- Step 7: Tills that failed to load, bit k. -/
  tillFail : BitVec 12 := 0
  /-- Step 8: halls whose counter failed to calibrate, bit h. -/
  calFail : BitVec 4 := 0
  /-- Step 9: ports that failed to train, bit n. -/
  portFail : BitVec 8 := 0
  deriving DecidableEq, Repr

/-- The straps sampled when a part reset is released (Table 19.2). -/
structure Straps where
  quadPos : BitVec 2 := 0
  bootSel : BitVec 2 := 0
  deriving DecidableEq, Repr

/-- The failures a self-test run found (R631): stalls, Tills that lost a pipeline, ROOTs, and a hall whose
mesh failed; `sagged` when VBUS fell below 42 V during it. -/
structure SelfTestFacts where
  stalls : List StallId := []
  aisles : List (Fin 4 × Fin 36) := []
  meshes : BitVec 4 := 0
  tills : BitVec 12 := 0
  roots : BitVec 4 := 0
  sagged : Bool := false
  deriving DecidableEq, Repr

/-- One sample of the power manager's sensors (Table 21.2). Signed temperatures are in 0.25 °C. -/
structure PowerSample where
  pin : Nat := 0
  mean1ms : Nat := 0
  vbusMv : Nat := 0
  iinMa : Nat := 0
  hallW : List Nat := []
  hallTemp : List Int := []
  hubTemp : Int := 0
  deriving DecidableEq, Repr

/-- What the other partitions of a solve contribute to the passes one event runs, in the order of those passes (R275,
R277, R278, R291); a solve of one partition has none. -/
structure SolvePeer where
  /-- The other partitions' exact partial sums of each dot product. -/
  dots : List Int := []
  /-- Their largest measured M, or exponent in setup. -/
  exps : List Int := []
  /-- Whether a writing pass saturated in one of them. -/
  sats : List Bool := []
  /-- Pivots they regularised in setup. -/
  pivots : Nat := 0
  /-- Partition 0's METHOD, and its decision at the boundary: 0 to continue, or the outcome. -/
  method : Nat := 0
  decision : Nat := 0
  deriving DecidableEq, Repr

/-- The rails of Table 20.6. -/
inductive Rail where
  | core (h : Fin 4)
  | bus
  | hub
  | base (k : Fin 12)
  | hbm (k : Fin 12)
  | opt (n : Fin 6)
  | phy
  deriving DecidableEq, Repr

/-- The inbound RDMA operations of R461. -/
inductive RdmaOp where
  | read | write
  deriving DecidableEq, Repr

/-- Every command of the block, one per row of spec/opcode_table.json. -/
inductive Instr where
  -- scalar class (R99, Table 3.4)
  | add (t : ThreadRef) (f : ScalarF)
  | sub (t : ThreadRef) (f : ScalarF)
  | mul (t : ThreadRef) (f : ScalarF)
  | mulhu (t : ThreadRef) (f : ScalarF)
  | and (t : ThreadRef) (f : ScalarF)
  | or (t : ThreadRef) (f : ScalarF)
  | xor (t : ThreadRef) (f : ScalarF)
  | shl (t : ThreadRef) (f : ScalarF)
  | shr (t : ThreadRef) (f : ScalarF)
  | sar (t : ThreadRef) (f : ScalarF)
  | min (t : ThreadRef) (f : ScalarF)
  | max (t : ThreadRef) (f : ScalarF)
  | slt (t : ThreadRef) (f : ScalarF)
  | sltu (t : ThreadRef) (f : ScalarF)
  | movi (t : ThreadRef) (f : ScalarF)
  | movhi (t : ThreadRef) (f : ScalarF)
  | ld (t : ThreadRef) (f : ScalarF)
  | st (t : ThreadRef) (f : ScalarF)
  | rdsys (t : ThreadRef) (f : ScalarF)
  -- control class (Table 3.6)
  | br (t : ThreadRef) (f : ControlF)
  | beq (t : ThreadRef) (f : ControlF)
  | bne (t : ThreadRef) (f : ControlF)
  | blt (t : ThreadRef) (f : ControlF)
  | bge (t : ThreadRef) (f : ControlF)
  | bltu (t : ThreadRef) (f : ControlF)
  | bgeu (t : ThreadRef) (f : ControlF)
  | jr (t : ThreadRef) (f : ControlF)
  | trap (t : ThreadRef) (f : ControlF)
  | endI (t : ThreadRef) (f : ControlF)
  -- tensor class (Table 3.7)
  | mma (t : ThreadRef) (f : TensorF)
  | mmaTa (t : ThreadRef) (f : TensorF)
  | mmaTb (t : ThreadRef) (f : TensorF)
  -- chain class (Table 3.9)
  | pass (t : ThreadRef) (f : ChainF)
  -- move class (Tables 3.10 and 3.11)
  | copy (t : ThreadRef) (f : CopyF)
  | tcopy (t : ThreadRef) (f : CopyF)
  | pcopy (t : ThreadRef) (f : CopyF)
  | dmov (t : ThreadRef) (f : MoveRegF)
  | dld (t : ThreadRef) (f : MoveRegF)
  | dst (t : ThreadRef) (f : MoveRegF)
  | cld (t : ThreadRef) (f : MoveRegF)
  | cst (t : ThreadRef) (f : MoveRegF)
  | mld (t : ThreadRef) (f : MoveRegF)
  | mst (t : ThreadRef) (f : MoveRegF)
  -- sync class (Table 3.13)
  | sig (t : ThreadRef) (f : SyncF)
  | wait (t : ThreadRef) (f : SyncF)
  | barrier (t : ThreadRef) (f : SyncF)
  | waittok (t : ThreadRef) (f : SyncF)
  | fence (t : ThreadRef) (f : SyncF)
  | yield (t : ThreadRef) (f : SyncF)
  -- privileged class (Table 3.14)
  | dcreate (t : ThreadRef) (f : PrivF)
  | splitk (t : ThreadRef) (f : PrivF)
  | xslice (t : ThreadRef) (f : PrivF)
  | tallyrd (t : ThreadRef) (f : PrivF)
  -- events of a stall
  /-- The move of token `tok` (0 to 3), or the synchronous move (4), finishes. -/
  | moveComplete (t : ThreadRef) (tok : Fin 5)
  /-- The oldest drain of the stall completes (R168). -/
  | drainComplete (st : StallId)
  | slotBeginGrant (t : ThreadRef)
  | slotPressureTimeout (t : ThreadRef)
  /-- The group of SPLITKs with this SLOT, NM1 and job forms in one aisle (R174). -/
  | splitkGroupForm (hall : Fin 4) (aisle : Fin 36) (slot : BitVec 6) (nm1 : BitVec 4) (job : Byte)
  | splitkTimeout (t : ThreadRef)
  | xsliceModeSet (t : ThreadRef)
  -- BAR0 and the command rings
  | bar0Doorbell (v : W64)
  | bar0EnableWrite (v : W64)
  | bar0RplHeadWrite (v : W64)
  | bar0ErrClear (v : W64)
  | bar0RegWrite (offset : W16) (v : W64)
  /-- The J5 fetches the slot CMD_HEAD names; the operands are what the ring holds there. -/
  | commandFetch (opcode : W16) (h : CmdHdr)
  | commandExpire (seq : W32)
  | longCommand (seq : W32)
  | unknownOpcode (opcode : W16) (h : CmdHdr)
  | eventBufferDrain
  | interruptHoldoff (kind : Fin 8)
  | hostDmaError
  | hostInterfaceReset (kind : HostReset)
  | pciePowerStateChange (d3hot : Bool)
  -- host commands: the header, then each parameter field in the order of the command's table; bulk data
  -- the command reads is an operand too
  | deviceInfo (h : CmdHdr)
  | ping (h : CmdHdr)
  | idCertRead (h : CmdHdr)
  | attest (h : CmdHdr) (n0 n1 n2 n3 n4 n5 : W64)
  | allocReg (h : CmdHdr) (va len : W64)
  | allocFree (h : CmdHdr) (handle : W64)
  | memWrite (h : CmdHdr) (va len : W64) (bulk : List Byte)
  | memRead (h : CmdHdr) (va len : W64)
  | memHealth (h : CmdHdr) (stack va : W64)
  | memRetired (h : CmdHdr) (stack va cap : W64)
  | memScrubSet (h : CmdHdr) (stack period : W64)
  | xltSpaceSet (h : CmdHdr) (root limit : W64)
  | xltSpaceClear (h : CmdHdr)
  | xltInvalidate (h : CmdHdr) (va len : W64)
  | xltFaultResolve (h : CmdHdr) (fault action : W64)
  | xltSaveAreaSet (h : CmdHdr) (hall off size : W64)
  | xltReserveSet (h : CmdHdr) (hall off units : W64)
  | descCreate (h : CmdHdr) (drafts count out : W64)
  | descCheck (h : CmdHdr) (va : W64)
  | graphSubmit (h : CmdHdr) (va : W64)
  | graphStop (h : CmdHdr) (handle mode : W64)
  | graphStatus (h : CmdHdr) (handle : W64)
  | graphRelease (h : CmdHdr) (handle : W64)
  | bellRead (h : CmdHdr) (part index : W64)
  | bellSignal (h : CmdHdr) (part index inc : W64)
  | bellWatch (h : CmdHdr) (part index target cmp timeout cookie : W64)
  | bellCancel (h : CmdHdr) (watch : W64)
  | bellReset (h : CmdHdr) (first count : W64)
  | bellBarrierSet (h : CmdHdr) (index n scope : W64)
  | bellBarrierClear (h : CmdHdr) (index : W64)
  | bellPairSet (h : CmdHdr) (p c b : W64)
  | bellPairClear (h : CmdHdr) (pair : W64)
  | bellLendSet (h : CmdHdr) (enable theta : W64)
  | bellDump (h : CmdHdr) (va flags : W64)
  | weightSetReg (h : CmdHdr) (set ncopy base size stride : W64)
  | weightSetClear (h : CmdHdr) (set : W64)
  | weightLoad (h : CmdHdr) (set manifest stOff stSize nsrc : W64) (srcs : List (W64 × W64 × W64))
      (timeout flags : W64)
  | weightSwitch (h : CmdHdr) (timeout : W64)
  | weightStatus (h : CmdHdr)
  | tillGroupSet (h : CmdHdr) (va : W64)
  | tillGroupClear (h : CmdHdr) (gid : W64)
  | tillGroupStatus (h : CmdHdr) (gid va : W64)
  | tillGroupEpoch (h : CmdHdr) (gid wepoch lepoch : W64)
  | tillDigestVerify (h : CmdHdr) (gid flags : W64)
  | gmaskSet (h : CmdHdr) (va : W64)
  | gmaskClear (h : CmdHdr) (mid : W64)
  | gmaskBind (h : CmdHdr) (gid mid : W64)
  | fabPortStatus (h : CmdHdr) (port va : W64)
  /-- `groups`: the lane groups that trained, 0 when the retrain failed. -/
  | fabPortRetrain (h : CmdHdr) (port : W64) (groups : BitVec 16)
  | fabAtomic (h : CmdHdr) (addr opx a b : W64)
  | layoutSwitch (h : CmdHdr) (epoch timeout : W64)
  | layoutStatus (h : CmdHdr)
  | collStatus (h : CmdHdr) (clear : W64)
  | ingestMrReg (h : CmdHdr) (off len key : W64)
  | ingestMrClear (h : CmdHdr) (region : W64)
  | ingestQpCreate (h : CmdHdr) (port ring depth counter : W64)
  | ingestQpModify (h : CmdHdr) (qp state raddr rqp mtu cut : W64)
  | ingestQpClear (h : CmdHdr) (qp : W64)
  | powerCapSet (h : CmdHdr) (cap : W64)
  | powerHallSet (h : CmdHdr) (hall floor ceil : W64)
  | powerStatus (h : CmdHdr)
  | tallyRead (h : CmdHdr) (first count : W64)
  | tallyClear (h : CmdHdr) (first count : W64)
  | tallyMap (h : CmdHdr)
  | alertConfig (h : CmdHdr) (alert enable entry threshold : W64)
  | alertAck (h : CmdHdr) (mask : W64)
  | valveSet (h : CmdHdr) (mode value : W64)
  | lcMark (h : CmdHdr) (id scope : W64)
  | lcMarkRead (h : CmdHdr) (count : W64)
  | trapLogRead (h : CmdHdr) (stall : W64)
  | claimStatus (h : CmdHdr)
  | xchkConfig (h : CmdHdr) (base entries entry threads alerts : W64)
  | xchkStatus (h : CmdHdr) (clear va : W64)
  | replayConfig (h : CmdHdr) (hall mode step buf batch list count : W64)
  | replayRead (h : CmdHdr) (step va : W64)
  | replayCheck (h : CmdHdr) (step header : W64)
  | replayRun (h : CmdHdr) (step header flags : W64)
  | replicaSet (h : CmdHdr) (graph axes k snap size list count first ncnt : W64)
  | replicaClear (h : CmdHdr)
  | replicaStatus (h : CmdHdr)
  | replicaResume (h : CmdHdr)
  | pairSet (h : CmdHdr) (role qp region raddr rkey hb0 hb1 timeout : W64)
  | pairClear (h : CmdHdr)
  | pairStatus (h : CmdHdr)
  | faultLogRead (h : CmdHdr) (count : W64)
  | postmortem (h : CmdHdr) (flags : W64)
  | selftest (h : CmdHdr) (mask : W64) (facts : SelfTestFacts)
  /-- `pass`: for each selected pseudo-channel, the 64 offsets from −32 to +31 that passed (R633). -/
  | marginHbm (h : CmdHdr) (stack mask param : W64) (pass : List (BitVec 64))
  | marginLink (h : CmdHdr) (port maskLo maskHi param : W64) (pass : List (BitVec 64))
  | traceConfig (h : CmdHdr) (va size trig cls events post : W64)
  | traceArm (h : CmdHdr) (flags : W64)
  | traceRelease (h : CmdHdr)
  | traceStatus (h : CmdHdr)
  | jobSeedSet (h : CmdHdr) (seed : W64)
  | wkeyInstall (h : CmdHdr) (slot : W64) (bulk : List Byte)
  | wkeyClear (h : CmdHdr) (slot : W64)
  | fwStage (h : CmdHdr) (target : W64) (bulk : List Byte)
  | fwCommit (h : CmdHdr) (target : W64)
  | rootFactorSet (h : CmdHdr) (va : W64)
  | rootFactorClear (h : CmdHdr) (fid : W64)
  | rootStatus (h : CmdHdr) (fid va : W64)
  | rootReset (h : CmdHdr) (fid flags : W64)
  /-- `pass`: whether the hall's tests passed (R262). -/
  | rootSelftest (h : CmdHdr) (hall : W64) (pass : Bool)
  | solveImageSet (h : CmdHdr) (va : W64)
  | solveImageClear (h : CmdHdr) (image : W64)
  | solveStatus (h : CmdHdr) (image va : W64)
  -- dispatch
  | taskPlace (graph : Fin 8) (task : Nat)
  | taskComplete (graph : Fin 8) (task : Nat)
  | stepStart (graph : Fin 8)
  | deadlockTimeout (graph : Fin 8)
  | gateHeld (graph : Fin 8) (task : Nat)
  | syncInEdge
  | holdExpire (graph : Fin 8)
  | admitMb (job : Byte) (step : W32) (mb : W16)
  | close (job : Byte) (step : W32) (c : W16)
  | start (job : Byte) (step : W32) (expired : Bool)
  | midtaskPreemptTimeout (graph : Fin 8) (task : Nat) (st : StallId)
  | taskSave (graph : Fin 8) (task : Nat)
  | taskRestore (graph : Fin 8) (task : Nat) (st : StallId)
  /-- A quiet point of an aisle (`some` stall) or of a hall (`none`: the aisle) with the spare's self-test result. -/
  | stallQuietPoint (hall : Fin 4) (aisle : Fin 36) (stall : Option (Fin 16)) (sparePass : Bool)
  -- Bell
  | bellSig (src : Fin 8192) (index : W16) (inc : W64) (seq : W32) (rid : W16) (replay : Bool)
  | bellReg (src : Fin 8192) (index : W16) (target : W64) (cmp : BitVec 2) (timeout : W32) (waiter : W64)
  | bellMsg (m : BellMsg)
  /-- The timeout of the stored watch with this id expires; `also` lists signals of the same arbitration (R357). -/
  | watchTimeout (watch : W32) (also : List (W16 × W64))
  | watchTableFree (home : Fin 5)
  | barrierRelease (part : Fin 8192) (index : W16) (gen : W64)
  | barrierReleaseAck (index : W16)
  /-- An 8-byte access to the counter window that writes: any other width or alignment is an address error. -/
  | bellWindowWrite (src : Fin 8192) (off : W32) (size : Nat) (v : W64)
  -- Till
  | tillCommandWrite (src : Fin 8192) (stack : Fin 12) (bytes : List Byte)
  | tillCommandStart
  | tillUnitDone (stack : Fin 12) (unit : Nat)
  | tillCommandDone
  | tillPipeFail (stack : Fin 12)
  -- translation and the Porter
  | faultLimitExpire (fault : W32)
  | pinProbe (graph : Fin 8) (task : Nat)
  | moveTransferStart (graph : Fin 8) (task : Nat)
  | moveTransferDone (graph : Fin 8) (task : Nat)
  | unitRetire (stack : Fin 12) (unit : Nat)
  -- fabric
  | read (p : Pkt)
  | write (p : Pkt)
  | atomic (p : Pkt)
  | resp (p : Pkt)
  | remoteTimeout (rid : W16)
  | epochAheadRetry (rid : W16)
  /-- A frame with this sequence number arrives on a port; `crcOk` is the result of its CRC-32. -/
  | linkFrame (port : Fin 8) (seq : W32) (flits : Fin 17) (crcOk : Bool)
  | linkNak (port : Fin 8) (firstUnacked : W32)
  | linkAckTimeout (port : Fin 8)
  | creditUpdate (port : Fin 8) (pool : Bool) (vc : Fin 6) (cls : Fin 3) (count : Nat)
  | headAgeTimeout (port : Fin 8) (vc : Fin 6) (input : Nat)
  | laneGroupLoss (port : Fin 8) (rx : Bool) (group : Fin 12)
  | widthChangeDone (port : Fin 8) (rx : Bool)
  | portSilenceTimeout (port : Fin 8)
  | portFail (port : Fin 8)
  | depart (port : Fin 8)
  | partnerProbeTimeout (port : Fin 8)
  /-- A ring-state packet: the link leaving part `a` by its + port on `axis` failed or is restored. -/
  | ringState (axis : Fin 4) (a : Fin 8192) (restored : Bool)
  | lostPart (part : Fin 8192)
  | coll (p : Pkt) (rank : Nat) (params : List Byte) (first : Nat) (data : List Byte) (collId : W32) (step : W32)
  | collStart (graph : Fin 8) (task : Nat)
  | collDone (graph : Fin 8) (task : Nat)
  | collTimeout (graph : Fin 8) (task : Nat)
  -- layout and weight epochs
  | layoutPrepare (coord : Fin 8192) (job : Byte) (epoch : W16)
  | layoutReady (part : Fin 8192) (job : Byte)
  | layoutCommit (coord : Fin 8192) (job : Byte) (epoch : W16)
  | layoutAbort (coord : Fin 8192) (job : Byte)
  | layoutRefuse (part : Fin 8192) (job : Byte)
  | layoutSwitchTimeout (job : Byte)
  | weightPrepare (coord : Fin 8192) (job : Byte) (epoch : W16)
  | weightReady (part : Fin 8192) (job : Byte) (step : W32) (mb : W16)
  | weightCommit (coord : Fin 8192) (job : Byte) (epoch : W16) (step : W32) (mb : W16)
  | weightAbort (coord : Fin 8192) (job : Byte)
  | weightSwitchTimeout (job : Byte)
  /-- A shard's SLEN stored bytes landed in the staging range, or (`none`) the fetch ended in error. -/
  | shardFetchDone (job : Byte) (bytes : Option (List Byte))
  | shardTimeout (job : Byte)
  /-- A CRIER packet of the load (job, set, epoch): the manifest, or the stored bytes of one shard. -/
  | crier (src : Fin 8192) (job : Byte) (set : Fin 16) (epoch : W16) (shard : Option Nat) (bytes : List Byte)
  | loaded (part : Fin 8192) (job : Byte)
  | loadMismatch (part : Fin 8192) (job : Byte)
  -- ingest
  | ingestRdmaAccess (qp : Nat) (op : RdmaOp) (key : W32) (off : W64) (data : List Byte) (len : Nat)
  | workRequestDone (qp : Nat) (ok : Bool)
  | cnp (qp : Nat)
  | rateRecoveryTick (qp : Nat)
  -- ROOT and SLV
  | rootTaskRun (hall : Fin 4) (graph : Fin 8) (task : Nat)
  | rootIterationBoundary (hall : Fin 4) (deadlinePassed : Bool)
  | rootPanelBoundary (hall : Fin 4) (deadlinePassed : Bool)
  | rootTaskDone (hall : Fin 4)
  | solveTaskRun (hall : Fin 4) (graph : Fin 8) (task : Nat) (peer : SolvePeer)
  | solveIterationBoundary (hall : Fin 4) (deadlinePassed : Bool) (peer : SolvePeer)
  | solveReadiness (hall : Fin 4) (partition : Nat) (words : List W32) (peer : SolvePeer)
  | solvePeerTimeout (hall : Fin 4)
  | solveDone (hall : Fin 4)
  -- HBM
  | granuleRecon (stack : Fin 12) (addr : Nat)
  | poisonRead (stack : Fin 12) (addr : Nat)
  | pcFailed (stack : Fin 12) (pc : Fin 64)
  | pcRebuildDone (stack : Fin 12)
  | rowRemap (stack : Fin 12) (pc : Fin 64) (bank : Fin 64) (row : Fin 16384)
  | rowActivationLimit (stack : Fin 12) (pc : Fin 64) (bank : Fin 64) (row : Fin 16384)
  | scrubPass (stack : Fin 12) (corrected : Nat)
  | hbmTempRead (stack : Fin 12) (temp : Int)
  -- supply
  | phaseLoss (rail : Rail)
  | railLoss (rail : Rail)
  | vbusBelow44v
  | vbusAbove45v
  | vbusBelow42v
  | vbusAbove43v
  | vbusBelow40v
  | vbusAbove41v
  | vbusBelow38v
  | vbusBelow36v
  | vbusOvervoltage
  | vbusDisconnect
  | vbusLockout
  | pwrEnRise (inWindow : Bool)
  | pwrEnFall
  | partReset (straps : Straps)
  | watchdogReset
  | restart
  | supplyCheckDone (facts : StartupFacts)
  | startupStepBound (step : Fin 12)
  /-- The expected partner of a port answers discovery with this serial number. -/
  | discoveryPartner (port : Fin 8) (serial : BitVec 128)
  | discTimeout
  -- power manager, cooling, telemetry
  | powerSample (p : PowerSample)
  | hallVoltageStep (raise : Bool)
  | hallPark (hall : Fin 4)
  | powerOvercapTimeout
  | junctionReduction (hall : Fin 4) (temp : Int)
  | flowGate (edges : Nat) (inlet outlet : Int)
  | lowFlow
  | flowLoss
  | inletHot (inlet : Int) (held5s : Bool)
  | outletHot
  | thermistorFault (b : Bool)
  | junctionTrip (temp : Int)
  | capLift (inlet : Bool)
  | lcRecalibrate (hall : Fin 4)
  | lcMarkPacket (origin : Fin 8192) (id : W64) (hops : W16)
  | smbAlertsWrite (v : W16)
  | smbCapWrite (v : W16)
  | smbTallyValueRead
  | smbAlertResponse
  | smbRegWrite (code : Byte) (v : W16)
  -- faults
  | stallUe (st : StallId)
  | stallTimeout (st : StallId)
  | aisleUe (hall : Fin 4) (aisle : Fin 36)
  | aisleTimeout (hall : Fin 4) (aisle : Fin 36)
  | hallUe (hall : Fin 4) (mesh : Bool)
  | hallTimeout (hall : Fin 4)
  | ctxParity (t : ThreadRef)
  -- the mirrored pair
  | exchangeTable (job : Byte) (step : W32) (table : List W64)
  | exchTimeout (job : Byte)
  | heartbeatSend (job : Byte)
  | heartbeatLoss (job : Byte)
  | withdraw (job : Byte)
  | pairLossBroadcast (job : Byte)
  -- the rest
  | trigInEdge
  | powerOn
  /-- A probe from `src` reaches this part (`answer` false), or the answer to this part's probe returns. -/
  | partnerProbe (port : Fin 8) (answer : Bool) (src : Fin 8192)
  | snapshotCopyDone (job : Byte) (gid : Fin 4096)
  | perBankRefresh (stack : Fin 12) (pc : Fin 64) (bank : Fin 64)
  | creditUpdateTimer (port : Fin 8)
  deriving DecidableEq, Repr

end Sys2Proof
end

