-- ==== Sys2Proof/Config.lean ====
section
/-! DEFINITION. The free values of the model: constants with no body, so nothing can be proved of their values.
Each has a log entry. -/

namespace Sys2Proof

/-- An entry of the firmware's Tally directory (R598, Table 21.9): the model's key of the value, and what TALLY_MAP
writes of it. -/
structure TallyEntry where
  key : Nat
  gauge : Bool
  unit : Byte
  name : List Byte

/-- The running firmware image's Tally directory, by entry index (R598): the spec fixes no assignment. Free value, log entry 100. -/
opaque Config.tallyDir : Nat → Option TallyEntry

/-- The 256-bit seal key the security engine draws at start number `n` (R138). Free value, log entry 51. -/
opaque Config.sealKey : Nat → W256

/-- SCL with an infinite operand B and an A that is no NaN: the FP32 result, by the patterns of A and B (Table 6.3 states none). Free value, log entry 50. -/
opaque Config.sclSpecial : Nat → Nat → W32

/-- The FP32 stream after a direct CVT, which only a reduction with ROUT ≠ 0 sees (R198, R201 state no FP32 step there), by
the patterns of X1 and X2, E0's field and the element's first three indices. Free value, log entry 116. -/
opaque Config.directStream : Nat → Nat → Nat → Nat → Nat → Nat → W32

/-- The exponent X2 gives the slice results of a row whose elements have different ones, by these (R204, R210 state none). Free
value, log entry 116. -/
opaque Config.routExp : List Int → Int

/-- The digest a capture forms of bytes it cannot read, by their address (R341 states none). Free value, log entry 70. -/
opaque Config.lostDigest : Nat → List Byte

/-- What a heartbeat (0) and a WITHDRAW (1) message of a mirrored pair hold (R623, R624 state none). Free value, log entry 103. -/
opaque Config.pairMessage : Nat → List Byte

/-- `Σ a·b` of a power iteration's product in FP32, by its operands in order (R253 states no rounding of F·v). Free value, log entry 55. -/
opaque Config.dot32 : List (Nat × Nat) → Nat

/-- The normalised vector of a power iteration, in FP32, by the product F·v (R253 states neither norm nor rounding). Free value, log
entry 55. -/
opaque Config.normalise : List Nat → List Nat

/-- The Rayleigh quotient in FP64, by v and F·v (R253 states no form of it). Free value, log entry 55. -/
opaque Config.quotient : List Nat → List Nat → Nat

/-- After how many of its LOGP square roots `v^(−1/2^LOGP)` divides (R253 and R260 state no order). Free value, log entry 55. -/
opaque Config.invRootAt : Nat → Nat

/-- `acc − Σ a·b` in FP64 within a panel (R260, R280 state no rounding points). Free value, log entry 55. -/
opaque Config.dot64 : Nat → List (Nat × Nat) → Nat

/-- The exponent of an operand row of an FP64 exact-slice product, by its values (R260 states none). Free value, log entry 55. -/
opaque Config.sliceExp : List Nat → Int

/-- Element (i, j), i > j, of the inverse of a lower-triangular FP64 matrix of size n held by columns (R260 states no order). Free
value, log entry 55. -/
opaque Config.triInv : Nat → List (List Nat) → Nat → Nat → Nat

/-- How the j-th squaring of a warm start's M_0 drains, by σ: to Q1.31 rather than Q3.29, and the power of two it takes (R256
states neither). Free value, log entry 55. -/
opaque Config.warmDrain : Nat → Int → Bool × Int

/-- A byte of a work area after a root or solve task, by its address and the lc at which the task wrote it (R242 and
R283 state no layout). Free value, log entry 59. -/
opaque Config.workByte : Nat → Nat → Byte

/-- The exponent of the vector between the two triangular solves, by the words and exponent of the right-hand side
(Table 9.3 has no entry for it). Free value, log entry 62. -/
opaque Config.forwardExp : List Int → Int → Int

/-- Whether a firmware certificate (DER) names a public key and is signed by the Tovenan root key (R560): the spec gives
neither the root key nor a certificate's fields. Free value, log entry 90. -/
opaque Config.certTrusted : List Byte → List Byte → Bool

/-- The identity key's signature over a report (R562, R563): the device secret and the nonce of the signature are the
part's own. Free value, log entry 90. -/
opaque Config.identitySign : List Byte → List Byte

/-- SHA-384 of the boot ROM (Table 19.9). Free value, log entry 90. -/
opaque Config.romDigest : List Byte

/-- BODY_DIGEST of the firmware image (0) and of the configuration bundle (1) that the flash first holds. Free value, log entry 90. -/
opaque Config.flashDigest : Nat → List Byte

/-- SHA-384 of the repair log with `n` entries of each kind, in the order of Table 19.3 (the spec gives the log no
layout). Free value, log entry 90. -/
opaque Config.repairDigest : List Nat → List Byte

/-- The firmware version DEVICE_INFO returns, by the digest of the running image (Table 18.9 gives it no coding). Free value, log entry 89. -/
opaque Config.firmwareVersion : List Byte → W64

/-- T_START (even) and T_END (odd) of step i of a start, in ms (Table 19.5): times are no part of the model. Free value, log entry 94. -/
opaque Config.stepTime : Nat → Nat → W32

/-- Whether a unit is in a pipeline when VBUS falls below 40 V, by the unit and the REFCLK count (R325 says that those
complete; which they are is time's). Free value, log entry 133. -/
opaque Config.inPipe : Nat → Nat → Bool

/-- Whether a partition gathers words of this part's, by the image's registration: only the other partitions' images say (R290).
Free value, log entry 136. -/
opaque Config.gathersFrom : Nat → Nat → Bool

/-- Whether a row of an erased pseudo-channel (stack, pseudo-channel, bank, row) is already rebuilt at a local count: how far the
background rebuild of Table 13.4 has come is timing (log entry 137). -/
opaque Config.rowRebuilt : Nat → Nat → Nat → Nat → BitVec 64 → Bool

/-- On-die corrections of a stack, and transfers it retried, since the controller last read its counts: no command of the table
stands for these physical events (log entry 138). Arguments: stack, local count, the count so far. -/
opaque Config.onDieErrs : Nat → BitVec 64 → BitVec 64 → Nat
opaque Config.linkRetries : Nat → BitVec 64 → BitVec 32 → Nat

end Sys2Proof
end

