-- ==== Sys2Proof/Machine/Bytes.lean ====
section
/-! DEFINITION. Byte order: little-endian fields in memory, packets and records (R7). -/

namespace Sys2Proof.Machine

/-- The `n` little-endian bytes of a number. -/
def leBytes : Nat → Nat → List Byte
  | 0, _ => []
  | n + 1, x => BitVec.ofNat 8 x :: leBytes n (x / 256)

/-- The number a little-endian byte list spells. -/
def ofLe : List Byte → Nat
  | [] => 0
  | b :: bs => b.toNat + 256 * ofLe bs

/-- The field of `n` bytes at offset `o` of a record. -/
def leAt (bs : List Byte) (o n : Nat) : Nat := ofLe ((bs.drop o).take n)

/-- The ceiling of `a / b`. -/
def cdiv (a b : Nat) : Nat := (a + b - 1) / b

/-- Pad with zero bytes to `n`. -/
def padTo (n : Nat) (bs : List Byte) : List Byte := bs ++ List.replicate (n - bs.length) 0

/-- A list of exactly `n` bytes: cut, or zeros appended. -/
def fixTo (n : Nat) (bs : List Byte) : List Byte := (padTo n bs).take n

end Sys2Proof.Machine
end

