-- ==== Sys2Proof/Machine/Hash.lean ====
section
/-! DEFINITION. SHA-384 and HMAC-SHA-384 over byte lists, as FIPS 180-4 and FIPS 198-1 define them (R138). -/

namespace Sys2Proof.Machine

/-- Round constants, part 0. -/
def shaK0 : List W64 := [0x428A2F98D728AE22, 0x7137449123EF65CD, 0xB5C0FBCFEC4D3B2F, 0xE9B5DBA58189DBBC,
  0x3956C25BF348B538, 0x59F111F1B605D019, 0x923F82A4AF194F9B, 0xAB1C5ED5DA6D8118,
  0xD807AA98A3030242, 0x12835B0145706FBE, 0x243185BE4EE4B28C, 0x550C7DC3D5FFB4E2,
  0x72BE5D74F27B896F, 0x80DEB1FE3B1696B1, 0x9BDC06A725C71235, 0xC19BF174CF692694,
  0xE49B69C19EF14AD2, 0xEFBE4786384F25E3, 0x0FC19DC68B8CD5B5, 0x240CA1CC77AC9C65]
/-- Round constants, part 1. -/
def shaK1 : List W64 := [0x2DE92C6F592B0275, 0x4A7484AA6EA6E483, 0x5CB0A9DCBD41FBD4, 0x76F988DA831153B5,
  0x983E5152EE66DFAB, 0xA831C66D2DB43210, 0xB00327C898FB213F, 0xBF597FC7BEEF0EE4,
  0xC6E00BF33DA88FC2, 0xD5A79147930AA725, 0x06CA6351E003826F, 0x142929670A0E6E70,
  0x27B70A8546D22FFC, 0x2E1B21385C26C926, 0x4D2C6DFC5AC42AED, 0x53380D139D95B3DF,
  0x650A73548BAF63DE, 0x766A0ABB3C77B2A8, 0x81C2C92E47EDAEE6, 0x92722C851482353B]
/-- Round constants, part 2. -/
def shaK2 : List W64 := [0xA2BFE8A14CF10364, 0xA81A664BBC423001, 0xC24B8B70D0F89791, 0xC76C51A30654BE30,
  0xD192E819D6EF5218, 0xD69906245565A910, 0xF40E35855771202A, 0x106AA07032BBD1B8,
  0x19A4C116B8D2D0C8, 0x1E376C085141AB53, 0x2748774CDF8EEB99, 0x34B0BCB5E19B48A8,
  0x391C0CB3C5C95A63, 0x4ED8AA4AE3418ACB, 0x5B9CCA4F7763E373, 0x682E6FF3D6B2B8A3,
  0x748F82EE5DEFB2FC, 0x78A5636F43172F60, 0x84C87814A1F0AB72, 0x8CC702081A6439EC]
/-- Round constants, part 3. -/
def shaK3 : List W64 := [0x90BEFFFA23631E28, 0xA4506CEBDE82BDE9, 0xBEF9A3F7B2C67915, 0xC67178F2E372532B,
  0xCA273ECEEA26619C, 0xD186B8C721C0C207, 0xEADA7DD6CDE0EB1E, 0xF57D4F7FEE6ED178,
  0x06F067AA72176FBA, 0x0A637DC5A2C898A6, 0x113F9804BEF90DAE, 0x1B710B35131C471B,
  0x28DB77F523047D84, 0x32CAAB7B40C72493, 0x3C9EBE0A15C9BEBC, 0x431D67C49C100D4C,
  0x4CC5D4BECB3E42B6, 0x597F299CFC657E2A, 0x5FCB6FAB3AD6FAEC, 0x6C44198C4A475817]

/-- The initial hash value of SHA-384. -/
def sha384Iv : List W64 := [0xCBBB9D5DC1059ED8, 0x629A292A367CD507, 0x9159015A3070DD17, 0x152FECD8F70E5939,
  0x67332667FFC00B31, 0x8EB44A8768581511, 0xDB0C2E0D64F98FA7, 0x47B5481DBEFA4FA4]

/-- The working variables of a block. -/
structure Sha where
  a : W64
  b : W64
  c : W64
  d : W64
  e : W64
  f : W64
  g : W64
  h : W64
  deriving DecidableEq, Repr

def rotr (x : W64) (n : Nat) : W64 := x.rotateRight n

/-- One round. -/
def Sha.round (s : Sha) (k w : W64) : Sha :=
  let t1 := s.h + (rotr s.e 14 ^^^ rotr s.e 18 ^^^ rotr s.e 41) + ((s.e &&& s.f) ^^^ (~~~s.e &&& s.g)) + k + w
  let t2 := (rotr s.a 28 ^^^ rotr s.a 34 ^^^ rotr s.a 39) + ((s.a &&& s.b) ^^^ (s.a &&& s.c) ^^^ (s.b &&& s.c))
  ⟨t1 + t2, s.a, s.b, s.c, s.d + t1, s.e, s.f, s.g⟩

/-- The next schedule word from the last 16, oldest first. -/
def shaNext (w : List W64) : W64 :=
  let g := fun i => w.getD i 0
  let s0 := rotr (g 1) 1 ^^^ rotr (g 1) 8 ^^^ (g 1 >>> 7)
  let s1 := rotr (g 14) 19 ^^^ rotr (g 14) 61 ^^^ (g 14 >>> 6)
  g 0 + s0 + g 9 + s1

/-- Rounds over the constants, with the window of 16 schedule words. -/
def shaRounds : List W64 → List W64 → Sha → Sha
  | [], _, s => s
  | k :: ks, w, s =>
    match w with
    | [] => s
    | w0 :: ws => shaRounds ks (ws ++ [shaNext w]) (s.round k w0)

/-- Eight big-endian bytes as a word. -/
def be64 (bs : List Byte) : W64 := bs.foldl (fun acc b => (acc <<< 8) ||| b.setWidth 64) 0

/-- A byte list as words. -/
def beWords : Nat → List Byte → List W64
  | 0, _ => []
  | n + 1, bs => be64 (bs.take 8) :: beWords n (bs.drop 8)

/-- One 128-byte block. -/
def shaBlock (h : List W64) (bs : List Byte) : List W64 :=
  let g := fun i => h.getD i 0
  let s0 : Sha := ⟨g 0, g 1, g 2, g 3, g 4, g 5, g 6, g 7⟩
  let s := shaRounds (shaK0 ++ shaK1 ++ shaK2 ++ shaK3) (beWords 16 bs) s0
  [g 0 + s.a, g 1 + s.b, g 2 + s.c, g 3 + s.d, g 4 + s.e, g 5 + s.f, g 6 + s.g, g 7 + s.h]

/-- All blocks. -/
def shaBlocks : Nat → List W64 → List Byte → List W64
  | 0, h, _ => h
  | n + 1, h, bs => shaBlocks n (shaBlock h (bs.take 128)) (bs.drop 128)

/-- The big-endian bytes of a number. -/
def beBytes : Nat → Nat → List Byte
  | 0, _ => []
  | n + 1, x => BitVec.ofNat 8 (x / 256 ^ n) :: beBytes n x

/-- SHA-384 of a byte list: 48 bytes. -/
def sha384 (m : List Byte) : List Byte :=
  let z := (128 - (m.length + 17) % 128) % 128
  let p := m ++ [0x80] ++ List.replicate z 0 ++ beBytes 16 (8 * m.length)
  ((shaBlocks (p.length / 128) sha384Iv p).take 6).flatMap fun w => beBytes 8 w.toNat

/-- HMAC-SHA-384 with a key of at most 128 bytes. -/
def hmac384 (key m : List Byte) : List Byte :=
  let k := key ++ List.replicate (128 - key.length) 0
  sha384 (k.map (· ^^^ 0x5C) ++ sha384 (k.map (· ^^^ 0x36) ++ m))

end Sys2Proof.Machine
end

