-- ==== Sys2Proof/Machine/Num.lean ====
section
/-! DEFINITION. Exact arithmetic and rounding: element formats (Table 4.2), their decoding and conversion
(Tables 6.6, R157, R200 to R203), the FP32 functions of the chain (R202) and Philox (R212). -/

namespace Sys2Proof.Machine

/-- An exact value: NaN, an infinity, or `± man × 2^exp` with its sign kept for zero. -/
inductive FVal where
  | nan
  | inf (neg : Bool)
  | fin (neg : Bool) (man : Nat) (exp : Int)
  deriving DecidableEq, Repr

/-- A binary floating-point format. `special` 0: IEEE infinities and NaN; 1: E4M3, whose one special code is
NaN; 2: no special code (R157, Table 6.6). -/
structure FFmt where
  ebits : Nat
  mbits : Nat
  special : Nat
  deriving DecidableEq, Repr

def fmtF32 : FFmt := ⟨8, 23, 0⟩
def fmtF16 : FFmt := ⟨5, 10, 0⟩
def fmtBF16 : FFmt := ⟨8, 7, 0⟩
def fmtF64 : FFmt := ⟨11, 52, 0⟩
def fmtE4M3 : FFmt := ⟨4, 3, 1⟩
def fmtE5M2 : FFmt := ⟨5, 2, 0⟩
def fmtE3M2 : FFmt := ⟨3, 2, 2⟩
def fmtE2M3 : FFmt := ⟨2, 3, 2⟩
def fmtE2M1 : FFmt := ⟨2, 1, 2⟩

/-- The exponent bias of a format. -/
def FFmt.bias (f : FFmt) : Nat := 2 ^ (f.ebits - 1) - 1
/-- The exponent of the least subnormal's unit. -/
def FFmt.emin (f : FFmt) : Int := 1 - (f.bias : Int) - f.mbits
/-- The largest biased exponent field that holds finite numbers. -/
def FFmt.emaxField (f : FFmt) : Nat := if f.special = 0 then 2 ^ f.ebits - 2 else 2 ^ f.ebits - 1
/-- The largest mantissa at the largest exponent. -/
def FFmt.manMax (f : FFmt) : Nat := if f.special = 1 then 2 ^ (f.mbits + 1) - 2 else 2 ^ (f.mbits + 1) - 1
/-- The largest finite magnitude, as mantissa and exponent. -/
def FFmt.maxFin (f : FFmt) : Nat × Int := (f.manMax, (f.emaxField : Int) - 1 + f.emin)

/-- The value of a bit pattern. -/
def FFmt.decode (f : FFmt) (w : Nat) : FVal :=
  let man := w % 2 ^ f.mbits
  let ex := (w / 2 ^ f.mbits) % 2 ^ f.ebits
  let neg := (w / 2 ^ (f.mbits + f.ebits)) % 2 = 1
  if f.special = 0 ∧ ex = 2 ^ f.ebits - 1 then
    if man = 0 then .inf neg else .nan
  else if f.special = 1 ∧ ex = 2 ^ f.ebits - 1 ∧ man = 2 ^ f.mbits - 1 then .nan
  else if ex = 0 then .fin neg man f.emin
  else .fin neg (2 ^ f.mbits + man) ((ex : Int) - 1 + f.emin)

/-- `m × 2^e` rounded to nearest even at the unit `2^q`: the count of units. -/
def rneAt (m : Nat) (e q : Int) : Nat :=
  if q ≤ e then m * 2 ^ (e - q).toNat
  else
    let d := 2 ^ (q - e).toNat
    let n := m / d
    let r := m % d
    if 2 * r > d ∨ (2 * r = d ∧ n % 2 = 1) then n + 1 else n

/-- The number of significant bits of a Nat. -/
def bitLen (n : Nat) : Nat := if n = 0 then 0 else Nat.log2 n + 1

/-- `m × 2^e` rounded to the precision of a format with unbounded exponent: units and unit exponent (R203). -/
def FFmt.roundMag (f : FFmt) (m : Nat) (e : Int) : Nat × Int :=
  let q := max (e + bitLen m - (f.mbits + 1)) f.emin
  (rneAt m e q, q)

/-- `a × 2^i ≤ b × 2^j`. -/
def magLe (a : Nat) (i : Int) (b : Nat) (j : Int) : Bool :=
  if i ≤ j then a ≤ b * 2 ^ (j - i).toNat else a * 2 ^ (i - j).toNat ≤ b

/-- Whether a rounded magnitude is beyond the largest finite one. -/
def FFmt.over (f : FFmt) (n : Nat) (q : Int) : Bool := !(magLe n q f.maxFin.1 f.maxFin.2)

/-- The bit pattern of a representable magnitude `n × 2^q` with its sign. -/
def FFmt.pack (f : FFmt) (neg : Bool) (n : Nat) (q : Int) : Nat :=
  let s := if neg then 2 ^ (f.ebits + f.mbits) else 0
  let (n, q) := if n = 2 ^ (f.mbits + 1) then (2 ^ f.mbits, q + 1) else (n, q)
  if n < 2 ^ f.mbits then s + n
  else s + ((q - f.emin + 1).toNat * 2 ^ f.mbits + (n - 2 ^ f.mbits))

/-- The canonical quiet NaN (R157, Table 6.6). -/
def FFmt.qnan (f : FFmt) : Nat :=
  if f.special = 0 then (2 ^ f.ebits - 1) * 2 ^ f.mbits + (2 ^ f.mbits / 2) else 2 ^ (f.ebits + f.mbits) - 1
/-- Infinity of a sign. -/
def FFmt.infty (f : FFmt) (neg : Bool) : Nat :=
  (if neg then 2 ^ (f.ebits + f.mbits) else 0) + (2 ^ f.ebits - 1) * 2 ^ f.mbits
/-- The largest finite pattern of a sign. -/
def FFmt.maxPat (f : FFmt) (neg : Bool) : Nat := f.pack neg f.maxFin.1 f.maxFin.2

/-- Round to nearest even into an IEEE format: overflow goes to infinity (R156, R157). -/
def FFmt.encode (f : FFmt) : FVal → Nat
  | .nan => f.qnan
  | .inf neg => f.infty neg
  | .fin neg m e =>
    let (n, q) := f.roundMag m e
    if f.over n q then f.infty neg else f.pack neg n q

/-- Conversion to a saturating format (Table 6.6): pattern, and whether it was counted. -/
def FFmt.encodeSat (f : FFmt) (infStays : Bool) : FVal → Nat × Bool
  | .nan => (f.qnan, false)
  | .inf neg => if infStays then (f.infty neg, false) else (f.maxPat neg, true)
  | .fin neg m e =>
    let (n, q) := f.roundMag m e
    if f.over n q then (f.maxPat neg, true) else (f.pack neg n q, false)

/-- `± man` as an integer. -/
def signed (neg : Bool) (m : Nat) : Int := if neg then -(m : Int) else m

/-- The exact sum of two values. A zero sum is −0 only when both terms are −0 (PRESUMED, log entry 2). -/
def FVal.add : FVal → FVal → FVal
  | .nan, _ => .nan
  | _, .nan => .nan
  | .inf a, .inf b => if a = b then .inf a else .nan
  | .inf a, _ => .inf a
  | _, .inf b => .inf b
  | .fin a m e, .fin b n f =>
    let q := min e f
    let v := signed a (m * 2 ^ (e - q).toNat) + signed b (n * 2 ^ (f - q).toNat)
    if v = 0 then .fin (a && b) 0 q else .fin (v < 0) v.natAbs q

/-- The exact product. -/
def FVal.mul : FVal → FVal → FVal
  | .nan, _ => .nan
  | _, .nan => .nan
  | .inf a, .inf b => .inf (a != b)
  | .inf a, .fin b m _ => if m = 0 then .nan else .inf (a != b)
  | .fin a m _, .inf b => if m = 0 then .nan else .inf (a != b)
  | .fin a m e, .fin b n f => .fin (a != b) (m * n) (e + f)

/-- Negation. -/
def FVal.neg : FVal → FVal
  | .nan => .nan
  | .inf a => .inf (!a)
  | .fin a m e => .fin (!a) m e

/-- The value times `2^n`, exactly. -/
def FVal.scale (n : Int) : FVal → FVal
  | .fin a m e => .fin a m (e + n)
  | v => v

/-- An integer as a value. -/
def FVal.ofInt (i : Int) : FVal := .fin (i < 0) i.natAbs 0

/-- Whether `a < b`, both finite or infinite; zeros of either sign are equal. -/
def FVal.lt : FVal → FVal → Bool
  | .nan, _ => false
  | _, .nan => false
  | .inf a, .inf b => a && !b
  | .inf a, _ => a
  | _, .inf b => !b
  | .fin a m e, .fin b n f =>
    let q := min e f
    signed a (m * 2 ^ (e - q).toNat) < signed b (n * 2 ^ (f - q).toNat)

/-- The exact sum of a list, in one exact addition (R156). -/
def FVal.sum : List FVal → FVal
  | [] => .fin true 0 0
  | v :: vs => v.add (FVal.sum vs)

/-- Round to nearest even at `2^q` to a signed integer count of units; `none` for NaN, `some (Sum)` for
infinities is the caller's. -/
def FVal.toUnits (q : Int) : FVal → Option Int
  | .fin neg m e => some (signed neg (rneAt m e q))
  | _ => none

/-- Clamp to `[lo, hi]`. -/
def clampI (lo hi v : Int) : Int × Bool := if v < lo then (lo, true) else if v > hi then (hi, true) else (v, false)

/-- Conversion to an integer or Q format with unit `2^q` (Table 6.6): value and whether it was counted. -/
def FVal.toFixed (q lo hi : Int) : FVal → Int × Bool
  | .nan => (0, true)
  | .inf neg => (if neg then lo else hi, true)
  | .fin neg m e => clampI lo hi (signed neg (rneAt m e q))

/-- A two's-complement field of `w` bits as an integer. -/
def toSigned (w n : Nat) : Int := if n % 2 ^ w < 2 ^ (w - 1) then (n % 2 ^ w : Nat) else ((n % 2 ^ w : Nat) : Int) - (2 ^ w : Nat)
/-- The low `w` bits of an integer. -/
def ofSigned (w : Nat) (i : Int) : Nat := (i % (2 ^ w : Nat)).toNat

/-! ### Element formats (Table 4.2) -/

/-- Whether a format code is in Table 4.2. -/
def fmtKnown (c : Nat) : Bool := c ≤ 0x11
/-- Element size in bits (Table 4.2). -/
def fmtBits (c : Nat) : Nat :=
  if c ≤ 1 then 16 else if c ≤ 5 then 8 else if c ≤ 7 then 6 else if c = 8 then 4 else if c = 9 then 8
  else if c = 0xA then 32 else if c = 0xB then 8 else if c = 0xC then 64 else 32
/-- Whether the format is an MX format. -/
def fmtMx (c : Nat) : Bool := 4 ≤ c && c ≤ 8
/-- The floating-point format of a code, if it is one. -/
def fmtFloat (c : Nat) : Option FFmt :=
  match c with
  | 0 => some fmtBF16 | 1 => some fmtF16 | 2 => some fmtE4M3 | 3 => some fmtE5M2 | 4 => some fmtE4M3
  | 5 => some fmtE5M2 | 6 => some fmtE3M2 | 7 => some fmtE2M3 | 8 => some fmtE2M1 | 0xA => some fmtF32
  | 0xC => some fmtF64 | _ => none

/-- The value of an element without its scale. -/
def fmtDecode (c raw : Nat) : FVal :=
  match fmtFloat c with
  | some f => f.decode raw
  | none =>
    if c = 9 then .ofInt (toSigned 8 raw)
    else if c = 0xB then .ofInt raw
    else if c = 0xD then .ofInt (toSigned 32 raw)
    else if c = 0xE then (FVal.ofInt (toSigned 32 raw)).scale (-31)
    else if c = 0xF then (FVal.ofInt (toSigned 32 raw)).scale (-29)
    else if c = 0x10 then (FVal.ofInt raw).scale (-31)
    else (FVal.ofInt raw).scale (-29)

/-- What a write conversion did besides its pattern (Table 6.6). -/
structure Conv where
  raw : Nat
  counted : Bool := false
  flag : Bool := false
  /-- The block's scale byte becomes 0xFF. -/
  nanBlock : Bool := false
  deriving DecidableEq, Repr

/-- Conversion of a value to a format's element (Table 6.6), after any scaling. -/
def fmtConvert (c : Nat) (v : FVal) : Conv :=
  if c = 2 ∨ c = 4 then
    let (r, k) := fmtE4M3.encodeSat false v
    { raw := if v = .nan then 0x7F else r, counted := k, flag := k }
  else if c = 3 ∨ c = 5 then
    let (r, k) := fmtE5M2.encodeSat true v
    { raw := if v = .nan then 0x7E else r, counted := k, flag := k }
  else if c = 6 ∨ c = 7 ∨ c = 8 then
    if v = .nan then { raw := 0, flag := true, nanBlock := true }
    else
      let f := if c = 6 then fmtE3M2 else if c = 7 then fmtE2M3 else fmtE2M1
      let (r, k) := f.encodeSat false v
      { raw := r, counted := k, flag := k }
  else match fmtFloat c with
  | some f => { raw := f.encode v }
  | none =>
    let fix := fun (w : Nat) (q lo hi : Int) =>
      let (i, k) := v.toFixed q lo hi
      ({ raw := ofSigned w i, counted := k } : Conv)
    if c = 9 then fix 8 0 (-128) 127
    else if c = 0xD then fix 32 0 (-(2 ^ 31)) (2 ^ 31 - 1)
    else if c = 0xE then fix 32 (-31) (-(2 ^ 31)) (2 ^ 31 - 1)
    else if c = 0xF then fix 32 (-29) (-(2 ^ 31)) (2 ^ 31 - 1)
    else if c = 0x10 then fix 32 (-31) 0 (2 ^ 32 - 1)
    else if c = 0x11 then fix 32 (-29) 0 (2 ^ 32 - 1)
    else fix 8 0 0 255

/-- An element with its scale byte (R202, R214): 0xFF makes it NaN. -/
def fmtScaled (c raw scale : Nat) : FVal :=
  if scale = 0xFF then .nan else (fmtDecode c raw).scale ((scale : Int) - 127)

/-! ### FP32 arithmetic of the chain (R202) -/

/-- A chain value: an FP32 bit pattern. -/
abbrev F32 := Nat

def f32 (v : FVal) : F32 := fmtF32.encode v
def val32 (x : F32) : FVal := fmtF32.decode x
def f32nan : F32 := 0x7FC00000
def f32one : F32 := 0x3F800000
def f32inf (neg : Bool) : F32 := fmtF32.infty neg
/-- A BF16 constant widened to FP32. -/
def bf16Widen (b : Nat) : F32 := b % 65536 * 65536

def f32add (a b : F32) : F32 := f32 ((val32 a).add (val32 b))
def f32sub (a b : F32) : F32 := f32 ((val32 a).add (val32 b).neg)
def f32mul (a b : F32) : F32 := f32 ((val32 a).mul (val32 b))
def f32fma (a b c : F32) : F32 := f32 (((val32 a).mul (val32 b)).add (val32 c))

/-- The sign bit of a pattern. -/
def f32neg? (a : F32) : Bool := a ≥ 0x80000000

/-- Larger of two, NaN if either is; `max(−0, +0) = +0` (Table 6.3). -/
def f32max (a b : F32) : F32 :=
  if val32 a = .nan ∨ val32 b = .nan then f32nan
  else if (val32 a).lt (val32 b) then b else if (val32 b).lt (val32 a) then a
  else if f32neg? a then b else a
/-- Smaller of two, NaN if either is; `min(−0, +0) = −0` (Table 6.3). -/
def f32min (a b : F32) : F32 :=
  if val32 a = .nan ∨ val32 b = .nan then f32nan
  else if (val32 a).lt (val32 b) then a else if (val32 b).lt (val32 a) then b
  else if f32neg? a then a else b

/-- Truncation toward zero to an integer. -/
def FVal.trunc : FVal → Int
  | .fin neg m e => signed neg (if 0 ≤ e then m * 2 ^ e.toNat else m / 2 ^ (-e).toNat)
  | _ => 0

/-- The quotient `n / d` of Nats, rounded once: `2^k n / d` with a sticky bit below it. -/
def divSticky (n d : Nat) (k : Nat) : Nat :=
  let x := n * 2 ^ k
  2 * (x / d) + (if x % d = 0 then 0 else 1)

/-- The exact quotient of two values, ready to round once in any format of up to 64 bits of precision. -/
def FVal.div : FVal → FVal → FVal
  | .nan, _ => .nan
  | _, .nan => .nan
  | .inf _, .inf _ => .nan
  | .inf a, .fin b _ _ => .inf (a != b)
  | .fin a _ _, .inf b => .fin (a != b) 0 0
  | .fin a m e, .fin b n f =>
    if n = 0 then (if m = 0 then .nan else .inf (a != b))
    else
      let k := 80 + bitLen n
      .fin (a != b) (divSticky m n k) (e - f - k - 1)

/-- The integer square root by Newton steps from above. -/
def isqrtAux : Nat → Nat → Nat → Nat
  | 0, _, x => x
  | fuel + 1, n, x => let y := (x + n / x) / 2; if y < x then isqrtAux fuel n y else x

/-- The integer square root. -/
def isqrt (n : Nat) : Nat := if n = 0 then 0 else isqrtAux (bitLen n + 8) n (2 ^ (bitLen n / 2 + 1))

/-- The exact square root with a sticky bit, ready to round once. -/
def FVal.sqrt : FVal → FVal
  | .nan => .nan
  | .inf neg => if neg then .nan else .inf false
  | .fin neg m e =>
    if m = 0 then .fin neg 0 0
    else if neg then .nan
    else
      let (m, e) := if e % 2 = 0 then (m, e) else (2 * m, e - 1)
      let x := m * 2 ^ 160
      let r := isqrt x
      .fin false (2 * r + (if r * r = x then 0 else 1)) (e / 2 - 81)

/-- RCP: `1 / a`, with `RCP(±0) = ±∞` (R202). -/
def f32rcp (a : F32) : F32 :=
  match val32 a with
  | .fin neg 0 _ => f32inf neg
  | v => f32 ((FVal.fin false 1 0).div v)

/-- RSQRT: `1 / √a`, with `RSQRT(±0) = ±∞` and NaN below zero (R202). Rounded once: the reciprocal of the
root is taken as `√(1 / a)` on integers with a sticky bit. -/
def f32rsqrt (a : F32) : F32 :=
  match val32 a with
  | .nan => f32nan
  | .inf neg => if neg then f32nan else 0
  | .fin neg m e =>
    if m = 0 then f32inf neg
    else if neg then f32nan
    else
      let (m, e) := if e % 2 = 0 then (m, e) else (2 * m, e - 1)
      let x := 2 ^ 240 / m
      let r := isqrt x
      let exact := r * r * m = 2 ^ 240
      f32 (.fin false (2 * r + (if exact then 0 else 1)) (-e / 2 - 121))

/-- ln 2 in units of 2^−256. -/
def ln2q : Nat := 80260960185991308862233904206310070533990667611589946606122867505419956976171

/-- Taylor sum of `exp(x)`, fixed point 2^−256: the running term and sum. -/
def expTaylor : Nat → Nat → Nat → Nat → Nat → Nat
  | 0, _, _, _, sum => sum
  | fuel + 1, k, x, term, sum =>
    let t := term * x / 2 ^ 256 / k
    expTaylor fuel (k + 1) x t (sum + t)

/-- EXP2: `2^a` rounded once (R202). An inexact result carries a sticky bit below 250 bits (DEDUCED, log entry 3). -/
def f32exp2 (a : F32) : F32 :=
  match val32 a with
  | .nan => f32nan
  | .inf neg => if neg then 0 else f32inf false
  | .fin neg m e =>
    if m = 0 then f32one
    else if bitLen m + e > 12 then (if neg then 0 else f32inf false)
    else
      let units := signed neg (m * 2 ^ (e + 256).toNat)   -- a in units of 2^−256; exact, since e ≥ −149
      let k := units / (2 ^ 256 : Nat)
      let fr := (units % (2 ^ 256 : Nat)).toNat
      if fr = 0 then f32 (.fin false 1 k)
      else
        let s := expTaylor 70 1 (fr * ln2q / 2 ^ 256) (2 ^ 256) (2 ^ 256)
        f32 (.fin false (2 * s + 1) (k - 257))

/-- Bits of log2 of `y` in `[1, 2)`, fixed point 2^−256, by repeated squaring. -/
def log2Bits : Nat → Nat → Nat → Nat
  | 0, _, acc => acc
  | n + 1, y, acc =>
    let z := y * y / 2 ^ 256
    if z ≥ 2 ^ 257 then log2Bits n (z / 2) (2 * acc + 1) else log2Bits n z (2 * acc)

/-- LOG2: `log2 a` rounded once (R202, DEDUCED, log entry 3). -/
def f32log2 (a : F32) : F32 :=
  match val32 a with
  | .nan => f32nan
  | .inf neg => if neg then f32nan else f32inf false
  | .fin neg m e =>
    if m = 0 then f32inf true
    else if neg then f32nan
    else
      let l := bitLen m - 1
      let k := e + l
      if m = 2 ^ l then f32 (.ofInt k)
      else
        let fr := log2Bits 120 (m * 2 ^ (256 - l)) 0
        let u := k * (2 ^ 121 : Nat) + ((2 * fr + 1 : Nat) : Int)
        f32 (.fin (u < 0) u.natAbs (-121))

/-! ### Philox-4×32-10 (R212) -/

/-- High and low halves of a 32 × 32 product. -/
def mulhilo (a b : W32) : W32 × W32 :=
  let p := a.toNat * b.toNat
  (BitVec.ofNat 32 (p / 2 ^ 32), BitVec.ofNat 32 p)

/-- Rounds of Philox. -/
def philoxRounds : Nat → W32 → W32 → W32 → W32 → W32 → W32 → W32
  | 0, _, _, c0, _, _, _ => c0
  | n + 1, k0, k1, c0, c1, c2, c3 =>
    let (h0, l0) := mulhilo 0xD2511F53 c0
    let (h1, l1) := mulhilo 0xCD9E8D57 c2
    philoxRounds n (k0 + 0x9E3779B9) (k1 + 0xBB67AE85) (h1 ^^^ c1 ^^^ k0) l1 (h0 ^^^ c3 ^^^ k1) l0

/-- The random word of a key and counter (R212). -/
def philox (key : W64) (ctr : W128) : W32 :=
  philoxRounds 10 (bits key 0 32) (bits key 32 32) (bits ctr 0 32) (bits ctr 32 32) (bits ctr 64 32) (bits ctr 96 32)

/-- A counter of R211, R229 or R231: index, step, id and purpose. -/
def philoxCtr (lin : BitVec 48) (step : W32) (id : W32) (purpose : W16) : W128 := purpose ++ id ++ step ++ lin

end Sys2Proof.Machine
end

