-- ==== Sys2Proof/Machine/SMap.lean ====
section
/-! DEFINITION. Sparse maps from Nat keys: a list of (key, value) pairs in one canonical form (keys strictly
rising, no value equal to what an unlisted key reads as). Memories, register files and tables all use it. -/

namespace Sys2Proof.Machine

/-- A sparse map: unlisted keys read as a default the operations name. -/
abbrev SMap (α : Type) := List (Nat × α)

/-- A byte store in the host's cell form; an unlisted byte reads as zero (DESIGN CHOICE, log entry 1). -/
abbrev Memory := List Host.Cell

namespace SMap

variable {α : Type}

/-- The value at `a`, the default `d` where the map lists none. -/
def get (d : α) : SMap α → Nat → α
  | [], _ => d
  | (k, v) :: m, a => if k = a then v else get d m a

/-- The map without key `a`. -/
def erase : SMap α → Nat → SMap α
  | [], _ => []
  | (k, v) :: m, a => if k = a then erase m a else (k, v) :: erase m a

/-- The map with key `a` listed as `v`. -/
def ins : SMap α → Nat → α → SMap α
  | [], a, v => [(a, v)]
  | (k, w) :: m, a, v =>
    if a < k then (a, v) :: (k, w) :: m
    else if a = k then (a, v) :: m
    else (k, w) :: ins m a v

/-- Write `v` at `a`, keeping the canonical form: the default is never listed. -/
def set [DecidableEq α] (d : α) (m : SMap α) (a : Nat) (v : α) : SMap α :=
  if v = d then erase m a else ins m a v

/-- Every key of the map is above `a`. -/
def above (a : Nat) (m : SMap α) : Prop := ∀ p ∈ m, a < p.1

/-- The canonical form: keys strictly rising, no default value listed. -/
def wf [DecidableEq α] (d : α) : SMap α → Bool
  | [] => true
  | (k, v) :: m => v ≠ d && (m.all fun p => k < p.1) && wf d m

end SMap

/-- What an unlisted byte of every store reads as. -/
def Memory.unlisted : Byte := 0

/-- The canonical form of a byte store. -/
def Memory.wf (m : Memory) : Bool := SMap.wf Memory.unlisted m

/-- One byte of a store. -/
def Memory.get (m : Memory) (a : Nat) : Byte := SMap.get Memory.unlisted m a

/-- Write one byte of a store. -/
def Memory.set (m : Memory) (a : Nat) (v : Byte) : Memory := SMap.set Memory.unlisted m a v

/-- `n` bytes of a store from `a`, lowest address first. -/
def Memory.read (m : Memory) (a : Nat) : Nat → List Byte
  | 0 => []
  | n + 1 => m.get a :: Memory.read m (a + 1) n

/-- Write bytes at consecutive addresses from `a`. -/
def Memory.write (m : Memory) (a : Nat) : List Byte → Memory
  | [] => m
  | b :: bs => Memory.write (m.set a b) (a + 1) bs

end Sys2Proof.Machine
end

