-- ==== Sys2Proof/Machine/Types/Base.lean ====
section
/-! DEFINITION. What every unit of the J5 reports: fault records (Table 22.1), Tally counters, and the things
that leave the part (reply entries, host writes, packets, pulses). -/

namespace Sys2Proof.Machine

/-- The fault classes of Table 22.2. -/
inductive FaultClass where
  | ctxParity | stallUe | stallTimeout | aisleUe | aisleTimeout | hallUe | hallTimeout | hubUe
  | granuleRecon | poison | pcFailed | pcSecond | rowRemap | unitRetired | stackThrottle
  | tillPipe | tillFailed | laneGroup | portFailed | ringSplit | partLost | ingestQp
  | phase | railLoss | supply | cooling | sensor | stop
  | trap | staleTag | pairBound | barrierOverrun | counterSat | rescale | address | rootFailed
  | replicaRepaired | replicaRederived | rollback | replicaPersistent | pairLost
  deriving DecidableEq, Repr

/-- The code of a fault class (Table 22.2). -/
def FaultClass.code : FaultClass → Byte
  | .ctxParity => 0x01 | .stallUe => 0x02 | .stallTimeout => 0x03 | .aisleUe => 0x04 | .aisleTimeout => 0x05
  | .hallUe => 0x06 | .hallTimeout => 0x07 | .hubUe => 0x08
  | .granuleRecon => 0x10 | .poison => 0x11 | .pcFailed => 0x12 | .pcSecond => 0x13 | .rowRemap => 0x14
  | .unitRetired => 0x15 | .stackThrottle => 0x16
  | .tillPipe => 0x20 | .tillFailed => 0x21
  | .laneGroup => 0x30 | .portFailed => 0x31 | .ringSplit => 0x32 | .partLost => 0x33 | .ingestQp => 0x34
  | .phase => 0x40 | .railLoss => 0x41 | .supply => 0x42 | .cooling => 0x43 | .sensor => 0x44 | .stop => 0x45
  | .trap => 0x50 | .staleTag => 0x51 | .pairBound => 0x52 | .barrierOverrun => 0x53 | .counterSat => 0x54
  | .rescale => 0x55 | .address => 0x56 | .rootFailed => 0x57
  | .replicaRepaired => 0x60 | .replicaRederived => 0x61 | .rollback => 0x62 | .replicaPersistent => 0x63
  | .pairLost => 0x64

/-- A fault record (Table 22.1). -/
structure FaultRec where
  level : BitVec 2
  lcHall : Fin 4
  cls : FaultClass
  utype : Byte
  action : Byte
  lunit : W16
  punit : W16
  tags : W64
  lc : W64
  detail : W64
  deriving DecidableEq, Repr

/-- The counters of Tally the chapters name. `unit` of the key separates halls, stacks, ports, stalls, Tills
or seals where the spec counts per unit. -/
inductive TallyName where
  /-- Elements saturated at an INT32 drain, per hall (R158, Table 21.3); at unit 4, results of collectives (R470). -/ | int32Saturated
  /-- Saturated exact-slice sums, per hall (R183). -/ | exactSaturated
  /-- Conversions counted by Table 6.6, summed over a hall's stalls (Table 21.3); at unit 4, those of Porters. -/ | conversions
  /-- Samples of the cross-check (R231). -/ | xchkSamples
  | xchkUnchecked
  | xchkDisagree
  | rescaleBlocks | scaleCeiling | sweepFailed
  | remainderClip | srSaturate
  /-- Counts of a Till (Table 10.10). -/ | tillNonFinite | tillClamp
  | staleTag
  | bellFull
  | bellTie
  | pairBreach
  | syncEdges
  | granuleRecon
  | correctedOnDie
  | correctedCode
  | crcRetry
  | poisonRead
  | retired
  | stallCorrected
  | traceDropped
  | ingestDrops
  | cnpReceived
  | linkReplays
  | linkDropped
  | collDrops
  | weightRefetch
  | weightDrops
  | rootRefresh
  | rootSkipped | rootPivots
  | solveIterations | solveSaturated
  | gradSilent
  | topkDropped
  | maskFrozen
  | energy
  | droppedEntries
  | tillAbsurd
  | graftSkip
  | tillStale
  /-- Traps of a hall's threads, and units the hall fenced (Table 21.3). -/ | traps | fences
  /-- Crossings of 42 V, 40 V and 38 V (R578, Table 21.3). -/ | supplyCrossings
  /-- Rows a stack remapped (R394, Table 21.3). -/ | remaps
  | other
  deriving DecidableEq, Repr

/-- The key of a Tally counter in the sparse table. -/
def TallyName.key (n : TallyName) (unit : Nat) : Nat := n.ctorIdx * 4294967296 + unit

/-- Messages of the management virtual channel that the chapters name. -/
inductive MgmtMsg where
  | admitMb (job : Byte) (step : W32) (mb : W16)
  | close (job : Byte) (step : W32) (c : W16)
  | start (job : Byte) (step : W32) (expired : Bool)
  | layoutPrepare (job : Byte) (epoch : W16)
  | layoutReady (job : Byte)
  | layoutCommit (job : Byte) (epoch : W16)
  | layoutAbort (job : Byte)
  | layoutRefuse (job : Byte)
  | weightPrepare (job : Byte) (epoch : W16)
  | weightReady (job : Byte) (step : W32) (mb : W16)
  | weightCommit (job : Byte) (epoch : W16) (step : W32) (mb : W16)
  | weightAbort (job : Byte)
  | loaded (job : Byte)
  | loadMismatch (job : Byte)
  /-- A part's copy for a load is held, or a graph of the job is resident (R501). -/ | loadBusy (job : Byte)
  | lostPart (part : Nat)
  | ringState (axis : Fin 4) (a : Nat) (restored : Bool)
  | lcMark (origin : Nat) (id : W64) (hops : W16)
  | pairLoss (job : Byte)
  | barrierRelease (index : W16) (gen : W64)
  | barrierAck (index : W16)
  | solveReadiness (partition : Nat) (words : List W32)
  | probe (port : Nat)
  | probeAnswer (port : Nat)
  deriving DecidableEq, Repr

/-- What the part sends out: the block's outputs, newest first in the state's log. -/
inductive Sent where
  /-- A 64-byte entry written to the reply ring at this index (R522). -/
  | replyEntry (index : Nat) (bytes : List Byte)
  /-- The J5 writes host memory. -/
  | hostWrite (addr : W64) (bytes : List Byte)
  /-- The J5 writes the BAR2 staging window. -/
  | bar2Write (off : W64) (bytes : List Byte)
  | msix (vector : Nat)
  /-- A packet leaves by a port. -/ | packet (port : Nat) (p : Pkt)
  | linkAck (port : Nat) (seq : W32)
  /-- `none`: every part of the domain. -/
  | mgmt (dest : Option Nat) (m : MgmtMsg)
  | syncOut
  | trigOut
  | depart (port : Nat)
  | portClosed (port : Nat)
  | creditReturn (port : Nat) (pool : Bool) (vc cls count : Nat)
  /-- The port replays its buffered frames from this sequence number (R435). -/
  | linkReplay (port : Nat) (from_ : W32)
  | linkNak (port : Nat) (seq : W32)
  | rdmaWrite (qp : Nat) (addr : W64) (bytes : List Byte)
  | rdmaSend (qp : Nat) (bytes : List Byte)
  /-- An RDMA READ of a source object (R492). -/ | rdmaRead (qp : Nat) (key addr : W64) (len : Nat)
  /-- CRIER packets of a load leave by a port: the manifest, or a shard's stored bytes (R495). -/
  | crier (port : Nat) (job : Byte) (set : Nat) (epoch : W16) (shard : Option Nat) (bytes : List Byte)
  /-- The answer to an inbound RDMA READ, or (`none`) to a WRITE. -/ | rdmaAnswer (qp : Nat) (data : Option (List Byte))
  | rdmaError (qp : Nat)
  | smbAlert (low : Bool)
  | smbRead (bytes : List Byte)
  | discovery (port : Nat)
  /-- A readiness message of a solve to a partition's part (R290). -/ | solveReady (part : Nat) (job : Byte)
  /-- A solve's contributions to partition 0's part, or partition 0's totals and decision to another's (R275, R291). -/ | solveMsg (part : Nat) (job : Byte) (m : SolvePeer)
  deriving DecidableEq, Repr

end Sys2Proof.Machine
end

