-- ==== Sys2Proof/Machine/Types/Host.lean ====
section
/-! DEFINITION. The host interface: BAR0 (Table 18.2), admission and running commands (R520 to R522), the
reply ring and event buffer (R525, R526), claims (Table 18.8), allocations (R533). -/

namespace Sys2Proof.Machine

/-- What a command that has not replied waits for. -/
inductive CmdWait where
  | none
  /-- ALLOC_FREE: accepted instructions that name the allocation (R135). -/ | allocFree (handle : W16)
  | graphStop (graph : Nat)
  | invalidate (job : Byte) (lo len : Nat)
  /-- Acknowledgements of remote writes; then this reply. -/ | acks (results : List W64)
  | atomic
  | layoutSwitch (job : Byte)
  | weightLoad (job : Byte)
  | weightSwitch (job : Byte)
  | tillDone (gid : Nat)
  | replay (job : Byte)
  /-- Started, and its row comes again: at once when `fault` is 0, else once that translation fault ends. -/ | again (fault : Nat)
  /-- DESC_CREATE: the acknowledgement of one output entry on another part (R637). -/ | sealing (d : W512)
  deriving DecidableEq, Repr

/-- Where an admitted command stands (R520 to R522). -/
inductive CmdPhase where
  | admitted | running | long
  deriving DecidableEq, Repr

/-- An admitted command and its reserved reply entry. -/
structure Cmd where
  op : W16
  hdr : CmdHdr
  fetched : W64
  started : W64 := 0
  phase : CmdPhase := .admitted
  wait : CmdWait := .none
  /-- Its reply will be lost: the interface was reset (R511). -/
  lostReply : Bool := false
  /-- DESC_CREATE: the descriptors sealed and written so far, newest first (R153, R637). -/
  sealed : List W512 := []
  deriving DecidableEq, Repr

/-- An MSI-X table entry (R513). -/
structure Msix where
  addr : W64 := 0
  data : W32 := 0
  masked : Bool := true
  deriving DecidableEq, Repr

/-- The claimable resources of Table 18.8. -/
inductive ClaimKind where
  | syncIn | hallStoreTop | checkRing | mrRange | tillArea | allocRange
  deriving DecidableEq, Repr

/-- A claim (R531). -/
structure Claim where
  kind : ClaimKind
  index : Nat
  job : Byte
  opcode : W16
  /-- The graph that holds it, for SYNC_IN. -/
  graph : Option Nat := none
  deriving DecidableEq, Repr

/-- A live allocation (R135, R533). -/
structure Alloc where
  handle : W16
  gen : W16
  job : Byte
  va : Nat
  len : Nat
  deriving DecidableEq, Repr

/-- The host interface and the management cores' own records. -/
structure HostIf where
  enable : Bool := false
  cmdLoc : Bool := false
  cmdBase : BitVec 52 := 0
  cmdLog2 : BitVec 4 := 4
  cmdTail : W32 := 0
  cmdHead : W32 := 0
  rplBase : BitVec 52 := 0
  rplLog2 : BitVec 5 := 6
  rplTail : W32 := 0
  rplHead : W32 := 0
  err : BitVec 4 := 0
  lostCount : W32 := 0
  irqMap : W64 := 0
  holdoff : W16 := 0
  coalesce : Byte := 1
  msix : SMap Msix := []
  pba : W64 := 0
  d3hot : Bool := false
  dmaStopped : Bool := false
  /-- Admitted, running and long commands, in admission order. -/
  cmds : List Cmd := []
  /-- Held entries, oldest first: the entry kind, its bytes 1 to 63 (R526). -/
  events : List (Nat × List Byte) := []
  /-- Replies that wait because the interface is stopped (R512, R514, R529). -/
  replies : List (List Byte) := []
  /-- Entries lost since the last loss marker. -/
  lostSince : W64 := 0
  /-- Entries written since the last message, per kind 1 to 6 (R528). -/
  irqCount : SMap Nat := []
  claims : List Claim := []
  allocs : List Alloc := []
  lastGen : SMap W16 := []
  /-- Job seeds (R211), 0 until set. -/
  seeds : SMap W64 := []
  wkeys : SMap (List Byte) := []
  /-- Verified staged images, by target (R535). -/
  staged : SMap (Option (List Byte)) := []
  /-- The newest 4,096 fault records, newest first (R607). -/
  faultLog : List FaultRec := []
  deriving DecidableEq, Repr

end Sys2Proof.Machine
end

