-- ==== Sys2Proof/Machine/Desc.lean ====
section
/-! DEFINITION. Tensor descriptors: fields (Table 4.1), reachable ranges (R132, R133), creation checks
(Table 4.4), seals (R138) and element addressing (R146, R147). -/

namespace Sys2Proof.Machine

/-- A descriptor's fields (Table 4.1). `str` holds STRIDE1 to STRIDE4, `ext` EXT0 to EXT4. -/
structure Desc where
  raw : W512
  base : Nat
  str : List Nat
  ext : List Nat
  fmt : Nat
  space : Nat
  wr : Bool
  b0 : Bool
  zfill : Bool
  sel : Nat
  scale : Nat
  xchk : Bool
  xk : Nat
  xthr : Nat
  job : Byte
  alloc : W16
  agen : W16
  scaleOff : Nat
  pair : W32
  code : W32
  deriving DecidableEq, Repr

/-- `n` bytes of a descriptor at offset `o` as a number. -/
def dField (w : W512) (o n : Nat) : Nat := (w.toNat / 2 ^ (8 * o)) % 2 ^ (8 * n)

/-- The fields of a 64-byte descriptor or draft. -/
def Desc.parse (w : W512) : Desc where
  raw := w
  base := dField w 0 8
  str := [dField w 0x08 4, dField w 0x0C 4, dField w 0x10 4, dField w 0x14 4]
  ext := [dField w 0x18 4 % 2 ^ 18, dField w 0x1C 4 % 2 ^ 18, dField w 0x20 2 % 2 ^ 13, dField w 0x22 2 % 2 ^ 13,
    dField w 0x24 2 % 2 ^ 13]
  fmt := dField w 0x26 1
  space := dField w 0x27 1 % 4
  wr := w.getLsbD (8 * 0x27 + 2)
  b0 := w.getLsbD (8 * 0x27 + 3)
  zfill := w.getLsbD (8 * 0x27 + 4)
  sel := dField w 0x27 1 / 32
  scale := dField w 0x28 1 % 4
  xchk := w.getLsbD (8 * 0x29)
  xk := dField w 0x29 1 / 2 % 32
  xthr := dField w 0x2A 1
  job := bits w (8 * 0x2B) 8
  alloc := bits w (8 * 0x2C) 16
  agen := bits w (8 * 0x2E) 16
  scaleOff := dField w 0x30 4
  pair := bits w (8 * 0x34) 32
  code := bits w (8 * 0x3C) 32

/-- Extent of dimension `i`. -/
def Desc.extent (d : Desc) (i : Nat) : Nat := d.ext.getD i 1
/-- Stride of dimension `i` in bytes; dimension 0 has none. -/
def Desc.stride (d : Desc) (i : Nat) : Nat := if i = 0 then 0 else d.str.getD (i - 1) 0 * 128
/-- Whether dimension `i` (2 to 4) is a selector. -/
def Desc.isSel (d : Desc) (i : Nat) : Bool := 2 ≤ i && (d.sel / 2 ^ (i - 2)) % 2 = 1
/-- Whether dimension `i` broadcasts: stride 0, or B0 for dimension 0 (Table 4.1). -/
def Desc.bcast (d : Desc) (i : Nat) : Bool := if i = 0 then d.b0 else d.str.getD (i - 1) 0 = 0

/-! ### Reachable range -/

/-- The row span in bytes (R132). -/
def Desc.rowSpan (d : Desc) : Nat := if d.b0 then cdiv (fmtBits d.fmt) 8 else d.extent 0 * fmtBits d.fmt / 8
/-- The highest reachable byte of the elements (R132). -/
def Desc.hi (d : Desc) : Nat :=
  d.base + (d.extent 1 - 1) * d.stride 1 + (d.extent 2 - 1) * d.stride 2 + (d.extent 3 - 1) * d.stride 3
    + (d.extent 4 - 1) * d.stride 4 + d.rowSpan - 1
/-- Blocks or tiles along dimension 0. -/
def Desc.blk0 (d : Desc) : Nat := cdiv (d.extent 0) 32
/-- Blocks along dimension 1: rows for MX, tiles for SCALE 2 (R133). -/
def Desc.blk1 (d : Desc) : Nat := if d.scale = 2 then cdiv (d.extent 1) 32 else d.extent 1
/-- Number of scale bytes (R133). -/
def Desc.blocks (d : Desc) : Nat := d.blk0 * d.blk1 * d.extent 2 * d.extent 3 * d.extent 4
/-- First scale byte. -/
def Desc.scaleBase (d : Desc) : Nat := d.base + d.scaleOff * 128
/-- First byte of the overflow flag bitmap (R133). -/
def Desc.flagBase (d : Desc) : Nat := d.scaleBase + cdiv d.blocks 128 * 128
/-- The intervals of the reachable range, first and last byte (R132). -/
def Desc.ranges (d : Desc) : List (Nat × Nat) :=
  (d.base, d.hi) :: (if d.scale = 0 then [] else [(d.scaleBase, d.flagBase + cdiv d.blocks 8 - 1)])
/-- Whether any interval of one list meets any of the other. -/
def rangesMeet (a b : List (Nat × Nat)) : Bool := a.any fun x => b.any fun y => x.1 ≤ y.2 && y.1 ≤ x.2

/-! ### Seals -/

/-- The seal of a descriptor whose bytes 0x00 to 0x3B are those of `w` (R138). -/
def sealOf (startNo : Nat) (w : W512) : W32 :=
  let t := BitVec.ofNat 32 (leAt (hmac384 (leBytes 32 (Config.sealKey startNo).toNat) (leBytes 60 w.toNat)) 0 4)
  if t = 0 then 1 else t
/-- `w` with its SEAL field replaced. -/
def withSeal (w : W512) (t : W32) : W512 := t ++ (bits w 0 480)
/-- `w` with its PAIR field replaced. -/
def withPair (w : W512) (p : W32) : W512 := bits w 448 64 ++ p ++ bits w 0 416
/-- The sealed form of a descriptor. -/
def sealDesc (startNo : Nat) (w : W512) : W512 := withSeal w (sealOf startNo w)
/-- Whether a seal verifies (R143). -/
def sealOk (startNo : Nat) (w : W512) : Bool := bits w 480 32 = sealOf startNo w

/-! ### Creation (Table 4.4) -/

/-- Whether SCALE is allowed for FMT (Table 4.2). -/
def scaleAllowed (fmt scale : Nat) : Bool :=
  if fmtMx fmt then scale = 1 else if fmt = 2 ∨ fmt = 3 ∨ fmt = 9 then scale = 0 || scale = 2 else scale = 0

/-- RESERVED of Table 4.4 but for DREG's own rule. -/
def Desc.reservedBad (d : Desc) : Bool :=
  dField d.raw 0x18 4 / 2 ^ 18 ≠ 0 || dField d.raw 0x1C 4 / 2 ^ 18 ≠ 0 || dField d.raw 0x20 2 / 2 ^ 13 ≠ 0
    || dField d.raw 0x22 2 / 2 ^ 13 ≠ 0 || dField d.raw 0x24 2 / 2 ^ 13 ≠ 0
    || dField d.raw 0x28 1 / 4 ≠ 0 || dField d.raw 0x29 1 / 64 ≠ 0 || dField d.raw 0x38 4 ≠ 0
    || d.code ≠ 0 || (d.scaleOff ≠ 0 && d.scale = 0)
    || (d.pair ≠ 0 && !(d.pair.getLsbD 31)) || bits d.pair 12 19 ≠ 0

/-- EXTENT of Table 4.4. -/
def Desc.extentBad (d : Desc) : Bool :=
  d.extent 0 = 0 || d.extent 0 > 131072 || d.extent 1 = 0 || d.extent 1 > 131072
    || d.extent 2 = 0 || d.extent 2 > 4096 || d.extent 3 = 0 || d.extent 3 > 4096
    || d.extent 4 = 0 || d.extent 4 > 4096 || (fmtMx d.fmt && d.extent 0 % 32 ≠ 0)

/-- The live allocation a descriptor names, with its generation and job. -/
def findAlloc (allocs : List Alloc) (d : Desc) : Option Alloc :=
  allocs.find? fun a => a.handle = d.alloc && a.gen = d.agen && a.job = d.job

/-- The bounds of a descriptor's space (Table 4.3). -/
def Desc.bounds (d : Desc) (allocs : List Alloc) : Nat × Nat :=
  if d.space = 0 then (0, 786431) else if d.space = 1 then (0, 4194303)
  else match findAlloc allocs d with
    | some a => (a.va, a.va + a.len - 1)
    | none => (1, 0)

/-- The span of dimensions in ascending order of stride: whether each stride is at least the span below it
(R137). -/
def strideOk : List (Nat × Nat) → Nat → Bool
  | [], _ => true
  | (st, ex) :: r, span => st ≥ span && strideOk r ((ex - 1) * st + span)

/-- Insert by stride. -/
def insStride (x : Nat × Nat) : List (Nat × Nat) → List (Nat × Nat)
  | [] => [x]
  | y :: r => if x.1 ≤ y.1 then x :: y :: r else y :: insStride x r

/-- SELF_OVERLAP of Table 4.4 for the elements (R137). -/
def Desc.selfOverlap (d : Desc) : Bool :=
  let dims := ([1, 2, 3, 4].filter fun i => d.extent i > 1).map fun i => (d.stride i, d.extent i)
  !(strideOk (dims.foldr insStride []) d.rowSpan)

/-- The checks of Table 4.4 in table order; `src` is the pairing source: `none` when it is empty, out of the
batch or fails its seal. Answers the code. -/
def createCheck (allocs : List Alloc) (job : Byte) (dcreate : Bool) (src : Option W512) (w : W512) : Nat :=
  let d := Desc.parse w
  let paired := d.pair.getLsbD 31
  if d.reservedBad || (dcreate && bits d.pair 4 8 ≠ 0) then 0x01
  else if !(fmtKnown d.fmt) || d.space = 3 || !(scaleAllowed d.fmt d.scale) || (d.b0 && fmtMx d.fmt) then 0x02
  else if d.base % 128 ≠ 0 then 0x03
  else if d.extentBad then 0x04
  else if (d.space ≠ 2 && (d.alloc ≠ 0 || d.agen ≠ 0)) || (d.space = 2 && (findAlloc allocs d).isNone)
    || d.job ≠ job then 0x05
  else if d.hi ≥ 2 ^ 64 || d.ranges.any (fun r => r.1 < (d.bounds allocs).1 || r.2 > (d.bounds allocs).2) then 0x06
  else if d.wr && (d.b0 || [1, 2, 3, 4].any fun i => d.stride i = 0 && d.extent i > 1) then 0x07
  else if d.wr && (d.selfOverlap || (d.scale ≠ 0 && rangesMeet [(d.base, d.hi)] (d.ranges.drop 1))) then 0x08
  else if paired && (match src with | none => true | some sw => (Desc.parse sw).job ≠ d.job) then 0x09
  else if paired && (match src with
      | none => false
      | some sw => (Desc.parse sw).space = d.space && rangesMeet (Desc.parse sw).ranges d.ranges) then 0x0A
  else if (d.xchk && (d.xk < 4 || d.xk > 16 || d.xthr < 1 || d.xthr > 23))
    || (!d.xchk && (d.xk ≠ 0 || d.xthr ≠ 0)) then 0x0B
  else 0

/-- The sealed descriptor of a draft that passed its checks (R138, R140). -/
def createDesc (startNo : Nat) (src : Option W512) (w : W512) : W512 :=
  let p : W32 := if (Desc.parse w).pair.getLsbD 31 then (match src with | some sw => bits sw 480 32 | none => 0) else 0
  sealDesc startNo (withPair w p)

/-! ### Element addressing -/

/-- The element indices of an origin value: tiles in dimensions 0 and 1 (R100, R146). -/
def originIdx (o : W64) : List Nat :=
  [(bits o 0 12).toNat * 32, (bits o 12 12).toNat * 32, (bits o 24 12).toNat, (bits o 36 12).toNat, (bits o 48 12).toNat]

/-- The index a read really uses in dimension `i`: broadcast, then clamp (R147). -/
def Desc.clampIdx (d : Desc) (idx : List Nat) (i : Nat) : Nat :=
  let x := idx.getD i 0
  if d.bcast i then 0 else if x ≥ d.extent i then d.extent i - 1 else x

/-- Whether a read lies beyond the extent in a dimension that does not broadcast (R147). -/
def Desc.beyond (d : Desc) (idx : List Nat) : Bool :=
  [0, 1, 2, 3, 4].any fun i => !(d.bcast i) && idx.getD i 0 ≥ d.extent i
/-- Whether a write lies beyond the extent of any dimension (R148). -/
def Desc.outside (d : Desc) (idx : List Nat) : Bool := [0, 1, 2, 3, 4].any fun i => idx.getD i 0 ≥ d.extent i

/-- The indices after clamping. -/
def Desc.clamped (d : Desc) (idx : List Nat) : List Nat := [0, 1, 2, 3, 4].map (d.clampIdx idx)

/-- The bit address of an element inside its space (Table 4.1). -/
def Desc.elemBit (d : Desc) (idx : List Nat) : Nat :=
  8 * (d.base + idx.getD 1 0 * d.stride 1 + idx.getD 2 0 * d.stride 2 + idx.getD 3 0 * d.stride 3
    + idx.getD 4 0 * d.stride 4) + (if d.b0 then 0 else idx.getD 0 0 * fmtBits d.fmt)

/-- The block number of an element (R133). -/
def Desc.block (d : Desc) (idx : List Nat) : Nat :=
  let g := fun i => idx.getD i 0
  let r1 := if d.scale = 2 then g 1 / 32 else g 1
  (((g 4 * d.extent 3 + g 3) * d.extent 2 + g 2) * d.blk1 + r1) * d.blk0 + g 0 / 32

end Sys2Proof.Machine
end

