-- ==== Sys2Proof/Machine/Types/Bell.lean ====
section
/-! DEFINITION. The state of Bell: counters, watches, pairs, barriers, lending (chapter 12). -/

namespace Sys2Proof.Machine

/-- Who waits on a watch (Table 12.2). -/
inductive Waiter where
  | thread (t : Nat)
  | gate (graph : Nat) (task : Nat)
  | host (cookie : W64)
  /-- A restored BARRIER wait (R372): `≥ j × N`, answering j. -/
  | barrierWait (t : Nat) (gen : W64)
  | remote (part : Nat) (waiter : W64)
  deriving DecidableEq, Repr

/-- A stored watch, or a registration held at a full table (R355). -/
structure Watch where
  id : Nat
  index : W16
  target : W64
  cmp : BitVec 2
  /-- Limit in lc; 0 for none. -/
  timeout : W32
  waiter : Waiter
  /-- Local count of the home when stored (R356). -/
  since : W64
  deriving DecidableEq, Repr

/-- A bounded pair (R363). -/
structure BellPair where
  id : Nat
  p : W16
  c : W16
  b : W16
  breaches : W64 := 0
  deriving DecidableEq, Repr

/-- A barrier (R364 to R367). -/
structure Barrier where
  index : W16
  n : Nat
  /-- Scope 1: the whole domain. -/
  domain : Bool
  openGen : W64 := 1
  /-- The generation whose release is incomplete. -/
  releasing : Option W64 := none
  /-- Acknowledgements still to come. -/
  acks : Nat := 0
  /-- Halls (by bit) that have not yet received the release. -/
  pendingHalls : BitVec 4 := 0
  deriving DecidableEq, Repr

/-- Bell's state on this part. -/
structure Bell where
  counters : SMap W64 := []
  /-- In the order stored (R361). -/
  watches : List Watch := []
  heldRegs : List Watch := []
  nextWatch : Nat := 1
  pairs : List BellPair := []
  nextPair : Nat := 1
  barriers : List Barrier := []
  /-- Completion messages on their way (R361). -/
  msgs : List BellMsg := []
  /-- Watches of the host on counters of other parts, until their events are written or they are cancelled: the id, the part
  and the counter. -/
  away : List (Nat × Nat × W16) := []
  lendEnable : Bool := false
  lendTheta : W64 := 1
  /-- Halls reported as lendable (R376), bit h. -/
  lendable : BitVec 4 := 0
  /-- Last 8 wait durations per hall and counter, newest first: key hall × 2^29 + part × 2^16 + index (R375). -/
  waits : SMap (List W64) := []
  deriving DecidableEq, Repr

end Sys2Proof.Machine
end

