-- ==== Sys2Proof/Machine/Types/Boot.lean ====
section
/-! DEFINITION. Start-up, the boot flash and the fuses (chapter 19). -/

namespace Sys2Proof.Machine

/-- One step entry of a step record (Table 19.5). -/
structure StepEntry where
  started : Bool := false
  /-- END, once it is written with its complement. -/
  ended : Option Byte := none
  action : Byte := 0
  detail : W32 := 0
  /-- What the sequencer keeps beyond DETAIL for the next start: step 3, [0] the firmware image failed, [1] the
  configuration bundle; step 5, [0] the extended test failed, [4:1] halls whose mesh passed. -/
  note : Byte := 0
  deriving DecidableEq, Repr

/-- A step record (Table 19.5). -/
structure StepRec where
  startNo : Nat
  cause : Byte
  straps : Straps
  fwArea : Bool := false
  cfgArea : Bool := false
  mode : Byte := 0
  /-- Steps 1 to 11. -/
  steps : List StepEntry := List.replicate 11 {}
  /-- A FW_COMMIT succeeded in this start, so failure counts do not reach back past it (R548). -/
  commit : Bool := false
  deriving DecidableEq, Repr

/-- A copy of the flash header (R541). -/
structure FlashHeader where
  gen : Nat := 0
  fwArea : Bool := false
  cfgArea : Bool := false
  valid : Bool := true
  deriving DecidableEq, Repr

/-- The configuration bundle's body in force (Table 19.7). -/
structure Bundle where
  domainId : W64 := 0
  shape : Nat × Nat × Nat × Nat := (4, 1, 1, 1)
  /-- DISC_TIMEOUT in ms. -/
  discTimeout : Nat := 1000
  clear : W16 := 0
  /-- Serial numbers by part number; zero where no part sits. The flash's first contents: DESIGN CHOICE, log entry 29. -/
  members : SMap (BitVec 128) := [(0, 1), (1, 2), (2, 3), (3, 4)]
  /-- Its BODY_DIGEST; empty for the flash's first contents. -/
  digest : List Byte := []
  deriving DecidableEq, Repr

/-- The positions a stack's training moves down through (Table 19.6). -/
inductive StackPos where
  | full | conservative | excluded
  deriving DecidableEq, Repr

/-- The repair log's degradations (R550, Table 19.3). -/
structure Repair where
  /-- Logical stalls that SX serves, by aisle key; logical aisles that AX serves, by hall. -/
  stallMap : SMap (Option Nat) := []
  aisleMap : SMap (Option Nat) := []
  hallFence : BitVec 4 := 0
  /-- Fenced halls whose mesh did not pass: their stacks are excluded (Table 19.6). -/
  meshFail : BitVec 4 := 0
  stackPos : SMap StackPos := []
  /-- Ports at half rate, and dropped ports. -/
  portHalf : BitVec 8 := 0
  portDrop : BitVec 8 := 0
  skipExt : Bool := false
  tillFail : BitVec 12 := 0
  /-- VHUB or VPHY lost: the next start fails step 1 (R575). -/
  railFail : Bool := false
  /-- Digests of bundles whose CLEAR acted (R551). -/
  cleared : List (List Byte) := []
  deriving DecidableEq, Repr

/-- Start-up state: what survives a part reset lies here. -/
structure Boot where
  /-- The part's serial number (DESIGN CHOICE, log entry 29). -/
  serial : BitVec 128 := 1
  /-- The cause of this start (Table 19.1). -/
  cause : Byte := 1
  /-- The OWNER fuse: a SHA-384 digest, or blank (R560). -/
  owner : Option (List Byte) := none
  /-- The fused SVN floor. -/
  svnFloor : Nat := 0
  certificate : List Byte := []
  headers : List FlashHeader := [{}, { valid := false }]
  /-- Firmware and configuration areas 0 and 1: the signed objects they hold. -/
  fwAreas : SMap (List Byte) := []
  cfgAreas : SMap (List Byte) := []
  bundle : Bundle := {}
  /-- BODY_DIGEST and SVN of the running firmware image; empty and 1 for the flash's first image. -/
  fwDigest : List Byte := []
  fwSvn : Nat := 1
  /-- Step records, newest first, 512 at most (R545). -/
  records : List StepRec := []
  repair : Repair := {}
  mode : Byte := 0
  straps : Straps := {}
  /-- A mandatory step failed: RESTART follows (R549). -/
  restart : Bool := false
  /-- Step whose failures caused recovery (R553). -/
  recoveryStep : Nat := 0
  /-- Ports whose expected partner has answered, and ports with a wrong partner (R556, R557). -/
  partnerOk : BitVec 8 := 0
  partnerWrong : BitVec 8 := 0
  deriving DecidableEq, Repr

end Sys2Proof.Machine
end

