-- ==== Sys2Proof/Machine/Types/Coll.lean ====
section
/-! DEFINITION. The collectives engine (R465 to R479). -/

namespace Sys2Proof.Machine

/-- A collective parameter block (Table 16.2). -/
structure CollParams where
  op : Nat
  axes : Nat
  red : Nat
  sfmt : Nat
  dfmt : Nat
  comp : Nat
  k : Nat
  mid : Nat
  collId : W32
  root : Nat
  count : Nat
  src : Nat
  dst : Nat
  res : Nat
  moff : Nat
  timeout : Nat
  deriving DecidableEq, Repr

/-- A COLL packet that has arrived for a collective of this part (R469): who sent it, the parameters the member's first
packet carries, the first element and the data. -/
structure CollMsg where
  job : Byte
  step : W32
  collId : W32
  rank : Nat
  tags : W64
  params : List Byte
  first : Nat
  data : List Byte
  deriving DecidableEq, Repr

/-- A collective task that the engine has taken. -/
structure CollRun where
  graph : Nat
  task : Nat
  job : Byte
  step : W32
  /-- The parameter block as read. -/
  block : List Byte
  /-- The local count at which it began to send. -/
  started : Option W64 := none
  /-- Packets received: rank and first element. -/
  got : List (Nat × Nat) := []
  /-- Contributions, key rank × 2^41 + source element: an element's pattern, or FP32 once decoded (R477). -/
  parts : SMap Nat := []
  /-- Destination elements known so far, by destination index. -/
  out : SMap Nat := []
  /-- An all-reduce has reduced its own chunk and sent it. -/
  gathered : Bool := false
  /-- Residuals to write before completion: element and BF16 pattern (R338). -/
  resid : List (Nat × Nat) := []
  /-- The bitmap bytes of the mask it names, from this byte of the bitmap (R331, R333). -/
  bitsAt : Nat := 0
  bits : List Byte := []
  deriving DecidableEq, Repr

/-- Counts of a job's collectives (Table 16.6). -/
structure CollCounts where
  done : Nat := 0
  mismatches : Nat := 0
  timeouts : Nat := 0
  sent : Nat := 0
  received : Nat := 0
  deriving DecidableEq, Repr

/-- The collectives engine. -/
structure Colls where
  runs : List CollRun := []
  /-- Packets of collectives that have not started here (R470), oldest first. -/
  held : List CollMsg := []
  counts : SMap CollCounts := []
  deriving DecidableEq, Repr

end Sys2Proof.Machine
end

