-- ==== Sys2Proof/Machine/Types/Fab.lean ====
section
/-! DEFINITION. The torus fabric: ports and their links (Tables 15.1, 15.12), request ids (R453), routing state
(R448 to R460) and Ethernet ingest (R461 to R463). -/

namespace Sys2Proof.Machine

/-- Port states (Table 15.12). -/
inductive PortState where
  | dark | training | inService | failed | partnerLost
  deriving DecidableEq, Repr

/-- One fabric port. -/
structure Port where
  st : PortState := .dark
  /-- Lane groups in service, sending and receiving. -/
  tx : BitVec 12 := 0
  rx : BitVec 12 := 0
  /-- A width change runs on the direction (Table 15.6). -/
  txChanging : Bool := false
  rxChanging : Bool := false
  partner : Option Nat := none
  /-- Frames sent and not acknowledged, oldest first: sequence number and flits (R436). -/
  replay : List (W32 × Nat) := []
  /-- The packets in the replay buffer, oldest first, each with its last frame (Table 15.7). -/
  replayPkts : List (W32 × Pkt) := []
  /-- Packets that wait to leave by the port, oldest first, each with its input: a port, or 8 for the part's own units. -/
  outq : List (Nat × Pkt) := []
  /-- The next of VCs 0, 2 and 3 in round robin (Table 15.5). -/
  rr : Nat := 0
  txSeq : W32 := 0
  rxSeq : W32 := 0
  replays : W64 := 0
  corrected : W64 := 0
  dropped : W64 := 0
  flitsTx : W64 := 0
  flitsRx : W64 := 0
  lc : W64 := 0
  /-- Credits the sender holds per VC × 3 + class, and of the pool (R442). -/
  credits : SMap Nat := []
  pool : Nat := 0
  /-- Flits whose credit is still to be returned, per VC × 3 + class and pool (key 18). -/
  owed : SMap Nat := []
  /-- A probe to the partner is outstanding (R458). -/
  probing : Bool := false
  /-- The failure has its fault record (Table 15.7 step 1). -/
  recorded : Bool := false
  /-- The packet served next because it waited 10 lc: VC and input (R443). -/
  urgent : List (Nat × Nat) := []
  deriving DecidableEq, Repr

/-- Who waits for a response (R449, R453). -/
inductive ReqOwner where
  /-- The data a thread's move needs (token). -/ | moveRead (t : Nat) (tok : Nat) (va : W64)
  /-- A remote write of a thread's move, with the PC and the word of its instruction. -/ | moveWrite (t : Nat) (pc word : W64)
  | portRead (graph task : Nat) (va : W64)
  | portWrite (graph task : Nat)
  /-- The instruction word at a thread's PC (R103). -/ | fetch (t : Nat) (pc : W64)
  /-- A signal of a unit of the part, such as a DONE signal (R352). -/ | signal
  /-- A window signal or Bell request of a thread. -/ | bell (t : Nat)
  | till (stack : Nat)
  | sweep (hall : Nat) (va : W64)
  /-- A write of a hall's rescale sweep (R220). -/ | sweepWrite (hall : Nat)
  /-- A write of a check entry's ERR or VERDICT: hall and entry (R235). -/ | verdict (hall entry : Nat)
  /-- Data a hub unit reads for a job. -/ | hub (job : Byte) (va : W64)
  | cmd (seq : W32)
  /-- A write for a job whose answer releases nothing. -/ | posted (job : Byte)
  deriving DecidableEq, Repr

/-- Whether an owner is the write of a thread's move. -/
def ReqOwner.writeOf (o : ReqOwner) (t : Nat) : Bool :=
  match o with
  | .moveWrite k _ _ => k = t
  | _ => false

/-- Whether an owner is a thread of these contexts. -/
def ReqOwner.ofThread (o : ReqOwner) (keys : List Nat) : Bool :=
  match o with
  | .moveRead k _ _ => keys.contains k
  | .moveWrite k _ _ => keys.contains k
  | .fetch k _ => keys.contains k
  | .bell k => keys.contains k
  | _ => false

/-- An outstanding request of this part. -/
structure Req where
  rid : Nat
  pkt : Pkt
  owner : ReqOwner
  firstSent : W64
  /-- Waits 2 lc before it is sent again (R456). -/
  retry : Bool := false
  /-- The status with which this part answers its own request: PART_LOST or UNREACHABLE (R450, R459). -/
  answer : Option Byte := none
  deriving DecidableEq, Repr

/-- A registered ingest memory region (R462). -/
structure Mr where
  id : Nat
  job : Byte
  off : Nat
  len : Nat
  key : W32
  deriving DecidableEq, Repr

/-- Queue pair states: those of RoCE v2 the command reaches (R464). -/
inductive QpState where
  | reset | init | rtr | rts | sqd | err
  deriving DecidableEq, Repr

/-- An ingest queue pair (R461, R463). -/
structure Qp where
  id : Nat
  job : Byte
  port : Nat
  ring : W64
  depth : Nat
  counter : W16
  st : QpState := .reset
  raddr : W64 := 0
  rqp : W64 := 0
  mtu : Nat := 1024
  /-- RATE_CUT in 1/256. -/
  cut : Nat := 1
  /-- Rate in 1/65,536 of full. -/
  rate : Nat := 65536
  completed : Nat := 0
  deriving DecidableEq, Repr

/-- What a hub unit has fetched from other parts for a job, until the work that needs it is done. -/
structure HubBuf where
  have_ : List Nat := []
  buf : Memory := []
  /-- Fetches that ended with an error status; true for poison. -/
  errs : List (Nat × Bool) := []
  deriving DecidableEq, Repr

/-- A request of HBM that waits at the controllers while the stacks are in self-refresh: a fabric packet, or an inbound RDMA access
that passed its check (R399). -/
inductive HeldReq where
  | packet (p : Pkt)
  | rdma (qp : Nat) (write : Bool) (off : Nat) (data : List Byte) (len : Nat)
  deriving DecidableEq, Repr

/-- The fabric's state. -/
structure Fab where
  ports : List Port := List.replicate 8 {}
  /-- Axis sizes T, P, D, S of the current domain (R434). -/
  shape : Nat × Nat × Nat × Nat := (4, 1, 1, 1)
  reqs : List Req := []
  /-- Requests that wait for a free request id, oldest first (R453). -/
  waiting : List (Pkt × ReqOwner) := []
  nextRid : Nat := 0
  seqOut : SMap W32 := []
  /-- SEQ of packets applied, per source, newest first with the lc of application (R449). -/
  seen : SMap (List (W32 × W64)) := []
  /-- Failed links: axis and the part whose + port it leaves (R448). -/
  failedLinks : List (Nat × Nat) := []
  lost : List Nat := []
  broken : Bool := false
  mrs : List Mr := []
  nextMr : Nat := 1
  qps : List Qp := []
  hubBufs : SMap HubBuf := []
  /-- Packets that wait for HBM to leave self-refresh, oldest first (R399). -/
  heldPkts : List HeldReq := []
  deriving DecidableEq, Repr

end Sys2Proof.Machine
end

