-- ==== Sys2Proof/Machine/Types/Hbm.lean ====
section
/-! DEFINITION. The state of one HBM4E stack and its controller (chapter 13, Table 13.8). -/

namespace Sys2Proof.Machine

/-- One stack. -/
structure Stack where
  conservative : Bool := false
  excluded : Bool := false
  throttled : Bool := false
  marked : Bool := false
  /-- 1, 2 or 4 (Table 13.5). -/
  refresh : Nat := 1
  /-- The rate that the next per-bank refresh of each bank takes up (R391). -/
  refreshNext : Nat := 1
  /-- Per-bank refreshes done. -/
  refreshes : Nat := 0
  /-- Erased pseudo-channels, one per parity group; true once rebuilt (R388, R389). -/
  erased : List (Nat × Bool) := []
  /-- Signed, in 0.25 °C. -/
  temp : Int := 0
  corrOnDie : W64 := 0
  corrCode : W64 := 0
  recon : W64 := 0
  crcRetry : W32 := 0
  remaps : W32 := 0
  /-- Row key (bank × 64 + pc) × 16,384 + row: the spare it points to (R394). -/
  rowMap : SMap (Option Nat) := []
  /-- Spares used up per bank key (R395). -/
  sparesUsed : SMap Nat := []
  /-- Pseudo-channels whose every granule was lost; a granule written whole since is no longer poisoned (R387, R389). -/
  lostPcs : List Nat := []
  /-- Pseudo-channels whose rebuild a second failure of their group cut short, and the local count then: the rows rebuilt by then
  stand in the parity pseudo-channel (R388, R389). -/
  halted : SMap (Option W64) := []
  /-- Rows whose neighbours were refreshed (R393). -/
  rfm : Nat := 0
  /-- Retired stack units u, newest first (R396, R397). -/
  retired : List Nat := []
  scrubLc : W64 := 0
  scrubHours : Nat := 24
  selfRefresh : Bool := false
  deriving DecidableEq, Repr

end Sys2Proof.Machine
end

