-- ==== Sys2Proof/Machine/Types/Power.lean ====
section
/-! DEFINITION. Supply, power manager, cooling, alerts, SMBus and sync marks (chapters 20 and 21). -/

namespace Sys2Proof.Machine

/-- Causes of an orderly stop (R579), in the order R579, Table 20.11 and R575 list them. -/
inductive StopCause where
  | vbus38 | pwrEn | flow | inlet | outlet | junction | hbmTemp | overvoltage | railLoss
  deriving DecidableEq, Repr

/-- Where the supply stands (Table 20.8, R572). -/
inductive Supply where
  | off
  | on
  /-- Orderly stop, Table 20.8 steps 1 to 3 done: the cause. -/
  | stopped (c : StopCause)
  deriving DecidableEq, Repr

/-- One hall as the power manager sees it (R586 to R589). -/
structure HallPower where
  /-- Core voltage in mV; 0 while the hall is unpowered. -/
  mv : Nat := 0
  floor : Nat := 550
  ceil : Nat := 850
  /-- Junction reduction of Table 20.11 in mV. -/
  jred : Nat := 0
  parked : Bool := false
  /-- Parked because Bell reported it lendable (R589). -/
  lent : Bool := false
  /-- Withdrawn from lending and rising (R589). -/
  returning : Bool := false
  /-- A stack of the hall holds it at 0.55 V (R392). -/
  hbmHold : Bool := false
  deriving DecidableEq, Repr

/-- A mark record (Table 21.6). -/
structure Mark where
  kind : Nat
  hops : W16
  origin : Nat
  id : W64
  lcs : List W64
  deriving DecidableEq, Repr

/-- The power manager's state. -/
structure Power where
  supply : Supply := .on
  pwrEn : Bool := true
  /-- The 44 V, 42 V and 40 V rows of Table 20.7 in force. -/
  below44 : Bool := false
  below42 : Bool := false
  below40 : Bool := false
  /-- Dispatch stopped by R590. -/
  overcap : Bool := false
  hostCap : Nat := 3200
  smbCap : Nat := 3400
  /-- Caps of Table 20.11 in force, in W. -/
  flowCap : Option Nat := none
  /-- W by which the inlet lowers the cap. -/
  inletCut : Nat := 0
  thermCap : Bool := false
  /-- Phases or units lost per rail index. -/
  lost : SMap Nat := []
  halls : SMap HallPower := []
  pin : Nat := 0
  mean : Nat := 0
  vbusMv : Nat := 0
  iinMa : Nat := 0
  /-- Input current samples of the last 2 ms, newest first (R586). -/
  iinHist : List Nat := []
  hallW : List Nat := []
  hallTemp : List Int := []
  hubTemp : Int := 0
  /-- Signed, 0.25 °C. -/
  inlet : Int := 0
  outlet : Int := 0
  /-- 0.01 L/min. -/
  flow : Nat := 0
  /-- A thermistor is faulted: A, B (R569). -/
  thermFault : BitVec 2 := 0
  manualValve : Bool := false
  riseTarget : Nat := 12
  duty : Int := 1024
  /-- 1/100 mJ since step 11 (R592). -/
  energy : Nat := 0
  alertPending : W16 := 0
  /-- Alerts masked by ALERT_CONFIG. -/
  alertMasked : W16 := 0
  /-- COUNTER alerts 0 to 7: the Tally entry and the threshold. -/
  alertEntry : SMap (Option (Nat × W64)) := []
  smbIndex : BitVec 13 := 0
  /-- Newest first, at most 256 (R604). -/
  marks : List Mark := []
  markCount : W64 := 0
  deriving DecidableEq, Repr

end Sys2Proof.Machine
end

