-- ==== Sys2Proof/Machine/Types/Till.lean ====
section
/-! DEFINITION. The state of the Tills (chapter 10), the gradient masks and the step capture (chapter 11). -/

namespace Sys2Proof.Machine

/-- The counts of a command over a group (Table 10.10). -/
structure TillCounts where
  nonfinite : Nat := 0
  absurd : Nat := 0
  clamped : Nat := 0
  srSat : Nat := 0
  remClip : Nat := 0
  graftSkip : Nat := 0
  /-- Elements updated: no field of Table 10.10, but ELEMS of Table 10.5 counts them. -/
  updated : Nat := 0
  deriving DecidableEq, Repr

/-- A registered parameter group: its record (Table 10.1), its mask and its status (Table 10.10). -/
structure TillGroup where
  gid : Nat
  classM : Bool
  mxfp8 : Bool
  rule : Nat
  graft : Nat
  job : Byte
  wepoch : W16
  lepoch : W16
  srid : W32
  nelem : Nat
  base : Nat
  area : Nat
  digest : Nat
  lo : W32
  hi : W32
  beta1 : W32
  beta2 : W32
  eps : W32
  wd : W32
  ureject : W32
  /-- The bound mask (R332). -/
  mask : Option Nat := none
  outcome : Nat := 0
  step : W32 := 0
  unitsDone : Nat := 0
  counts : TillCounts := {}
  stale : Nat := 0
  faddr : W64 := 0
  /-- STEP of the digest table (Table 10.7). -/
  tableStep : W32 := 0xFFFFFFFF
  /-- Blocks of 2 MiB a poisoned unit marked for the next replica comparison (R612). -/
  diffBlocks : List Nat := []
  deriving DecidableEq, Repr

/-- One Till (Table 10.5). -/
structure TillInfo where
  /-- Pipelines in service. -/
  pipes : Nat := 4
  /-- Elements updated since reset. -/
  elems : W64 := 0
  deriving DecidableEq, Repr

/-- Who waits for a command write to be queued (R304). -/
inductive TillWho where
  | none
  /-- A local write of this owner. -/ | owner (o : ReqOwner)
  /-- A WRITE packet, which is answered once queued: source, RID and tags. -/ | packet (src : Nat) (rid : W16) (tags : W64)
  deriving DecidableEq, Repr

/-- Whether what waits is the write of a thread's move. -/
def TillWho.writeOf (w : TillWho) (t : Nat) : Bool :=
  match w with
  | .owner o => o.writeOf t
  | _ => false

/-- A command write (R304): the issuing part, and the 128 bytes of Table 10.6. -/
structure TillPost where
  src : Nat
  bytes : List Byte
  who : TillWho := .none
  deriving DecidableEq, Repr

/-- The command that the Tills run (R305). -/
structure TillRun where
  src : Nat
  bytes : List Byte
  /-- The group, when registered. -/
  gid : Option Nat
  /-- 0 while it runs; the outcome of a command that does nothing: 2 STALE, 3 INVALID. -/
  refused : Nat := 0
  /-- Units written, and units left unwritten by an error or a failed Till. -/
  done : List Nat := []
  bad : List Nat := []
  /-- Units done per Till. -/
  perTill : SMap Nat := []
  tillFailed : Bool := false
  faddr : W64 := 0
  /-- Tills paused on a translation fault (R308): stack, fault id and unit. -/
  paused : List (Nat × Nat × Nat) := []
  counts : TillCounts := {}
  /-- The digest table is written; its remote writes may still be on their way. -/
  digested : Bool := false
  deriving DecidableEq, Repr

/-- The Tills of the part. -/
structure Till where
  groups : List TillGroup := []
  stacks_ : SMap TillInfo := []
  queue : List TillPost := []
  /-- Writes that found the queue full. -/
  waiting : List TillPost := []
  run : Option TillRun := none
  /-- Groups whose snapshot copy is still to be made: no command of them starts (R618). -/
  copying : List Nat := []
  deriving DecidableEq, Repr

/-- A gradient mask (Table 11.4). -/
structure Mask where
  mid : Nat
  bitmapMode : Bool
  job : Byte
  rows : Nat
  cols : Nat
  bitmap : Nat
  ranges : List (Nat × Nat)
  deriving DecidableEq, Repr

/-- A region of a capture (R340). -/
structure Region_ where
  va : Nat
  len : Nat
  start : Bool
  end_ : Bool
  deriving DecidableEq, Repr

/-- Step capture as configured (R340), per job. -/
structure ReplayCfg where
  job : Byte
  hall : Nat
  /-- 1 every step, 2 only step `step`. -/
  mode : Nat
  step : W32
  buf : Nat
  batch : Nat
  regions : List Region_
  /-- The record written next, and the record open: graph and record index. -/
  next : Nat := 0
  open_ : Option (Nat × Nat) := none
  deriving DecidableEq, Repr

/-- A replay that runs (R345). -/
structure ReplayRun where
  graph : Nat
  job : Byte
  /-- The hall whose capture buffer holds the record. -/
  hall : Nat
  noupdate : Bool
  c : Nat
  record : Nat
  deriving DecidableEq, Repr

/-- Step capture and replay. -/
structure Replay where
  cfgs : List ReplayCfg := []
  /-- Digests of resident graphs' images, computed at the first capture (R342), per handle. -/
  graphDigs : SMap (List Byte) := []
  runs : List ReplayRun := []
  deriving DecidableEq, Repr

end Sys2Proof.Machine
end

