-- ==== Sys2Proof/Machine/Types/Replica.lean ====
section
/-! DEFINITION. Replica comparison and the mirrored pair (R613 to R625). -/

namespace Sys2Proof.Machine

/-- A replica configuration (R613) with its status and its snapshot (R618). -/
structure ReplicaCfg where
  job : Byte
  graph : Nat
  axes : Nat
  k : Nat
  snapVa : Nat
  snapSize : Nat
  regions : List Region_
  first : Nat
  ncnt : Nat
  lastStep : W32 := 0
  lastAgreed : W32 := 0
  repaired : Nat := 0
  rederived : Nat := 0
  rollbacks : Nat := 0
  /-- The step of the snapshot, once one is taken. -/
  snapStep : Option W32 := none
  /-- The compared step that was rolled back and has not agreed since (R620). -/
  rolledAt : Option W32 := none
  deriving DecidableEq, Repr

/-- The mirrored pair of a job (R622 to R624). -/
structure PairCfg where
  job : Byte
  role : Nat
  qp : Nat
  region : Nat
  raddr : W64
  rkey : W64
  hb0 : Nat
  hb1 : Nat
  timeout : Nat
  /-- 1 paired, 2 lost, 3 withdrawn (Table 22.5). -/
  state : Nat := 1
  lastStep : W32 := 0
  timeouts : Nat := 0
  /-- Tables that have arrived and are not compared yet: the step and the words. -/
  inbox : List (W32 × List W64) := []
  deriving DecidableEq, Repr

/-- Where the boundary work of R614 stands: its all-gather, the wait for REDERIVE, the exchange with the counterpart,
the outcome. -/
inductive BStage where
  | gather | repair | rederive | exchange | outcome
  deriving DecidableEq, Repr

/-- A block to be fetched: group, block, the part that holds it and the majority value. -/
structure Repair_ where
  gid : Nat
  blk : Nat
  holder : Nat
  value : Nat
  deriving DecidableEq, Repr

/-- Boundary work that runs for a job (R614). -/
structure Boundary where
  job : Byte
  graph : Nat
  step : W32
  stage : BStage := .gather
  /-- 1, or 2 after REDERIVE. -/
  round : Nat := 1
  /-- Whether the comparison at hand is the pair's. -/
  pair : Bool := false
  /-- Pieces of the members' tables: rank, first byte, bytes; and each table's length. -/
  pieces : List (Nat × Nat × List Byte) := []
  lengths : SMap Nat := []
  repairs : List Repair_ := []
  /-- Groups that differ without a majority. -/
  splits : List Nat := []
  outcome : Nat := 0
  /-- Outcomes of other parts. -/
  outcomes : List (Nat × Nat) := []
  deriving DecidableEq, Repr

/-- The replica unit's state. -/
structure Replica where
  cfgs : List ReplicaCfg := []
  pairs : List PairCfg := []
  works : List Boundary := []
  deriving DecidableEq, Repr

end Sys2Proof.Machine
end

