-- ==== Sys2Proof/Machine/Types/Root.lean ====
section
/-! DEFINITION. The state of the ROOTs (chapter 8) and SLVs (chapter 9): factors, root tasks, schedule images, solve
tasks and the setups their work areas hold. -/

namespace Sys2Proof.Machine

/-! ### ROOT -/

/-- A registered factor: the ROOT's copy of Table 8.1, with what it keeps per block (R240, R243). -/
structure RootFactor where
  fid : Nat
  hall : Nat
  logp : Nat
  forceDirect : Bool
  rootValid : Bool
  fValid : Bool
  job : Byte
  cadence : Nat
  phase : Nat
  npow : Nat
  itWarm : Nat
  itCold : Nat
  pivLimit : Nat
  /-- FP32 patterns. -/
  tol : Nat
  omega : Nat
  lamRel : Nat
  lamAbs : Nat
  gamma : Nat
  tau : Nat
  beta : Nat
  ngroup : Nat
  fPtr : Nat
  rootPtr : Nat
  workPtr : Nat
  partPtr : Nat
  blkn : List Nat
  /-- Blocks that hold a root in service (R243). -/
  inService : List Nat := []
  /-- Blocks written while F_VALID was 0 (R246). -/
  written : List Nat := []
  /-- The status record of the last root task that named the factor (R252); empty before the first. -/
  status : List Byte := []
  deriving DecidableEq, Repr

/-- A factor's status record as a root task builds it (Table 8.3). -/
structure RootStat where
  accSkip : Nat := 0
  iters : Nat := 0
  pivReg : Nat := 0
  /-- FLAGS bits 0 to 6. -/
  flags : BitVec 7 := 0
  resid : Nat := 0
  ubound : Nat := 0
  lambda : Nat := 0
  elapsed : Nat := 0
  /-- Outcomes by block; an unlisted block has 0. -/
  outcomes : SMap Nat := []
  deriving DecidableEq, Repr

/-- A block's scalars (R253): FP64 patterns, and σ. -/
structure RootScale where
  u : Nat
  lam : Nat
  c : Nat
  eps : Nat
  kappa : Nat
  sigma : Int
  raised : Bool
  deriving DecidableEq, Repr

/-- The coupled Newton iteration on a block (R255, R256): words of A and M at 2^−29 and of X̂ at 2^−31. -/
structure Newton where
  scale : RootScale
  a : List Int
  x : List Int
  m : List Int
  k : Nat := 0
  stall : Nat := 0
  rPrev : Nat := 0
  itmax : Nat
  warm : Bool
  /-- A drain of the iteration saturated (guard G3). -/
  sat : Bool := false
  deriving DecidableEq, Repr

/-- What a ROOT does with its current block. -/
inductive RootPhase where
  | newton (n : Newton)
  /-- The direct path (R260): the pivots replaced in each panel still to come, and the root's FP32 words, or none where
  the block is ill-conditioned: within the last panel, or because Denman-Beavers did not end after it. -/
  | direct (panels : List Nat) (result : Option (List Nat)) (within : Bool)
  | finished
  deriving DecidableEq, Repr

/-- A root task that runs (R249). -/
structure RootRun where
  graph : Nat
  task : Nat
  job : Byte
  tags : W64
  step : W32
  ops : Nat
  lend : Nat
  deadline : Nat
  ntok : Nat
  statusPtr : Nat
  /-- Listed factors in order, with their records. -/
  facs : List Nat
  stats : List RootStat
  start : W64
  /-- The factor and block that runs. -/
  fac : Nat := 0
  blk : Nat := 0
  phase : RootPhase := .finished
  deriving DecidableEq, Repr

/-- The ROOTs of the part. -/
structure Roots where
  factors : List RootFactor := []
  /-- Halls whose ROOT is marked failed (R262). -/
  failed : BitVec 4 := 0
  /-- The running task of each hall. -/
  runs : SMap (Option RootRun) := []
  deriving DecidableEq, Repr

/-! ### SLV -/

/-- A gather entry (Table 9.2). -/
structure GatherEntry where
  row : Nat
  src : Nat
  deriving DecidableEq, Repr

/-- A registered schedule image (R270, R271). -/
structure SolveImage where
  id : Nat
  /-- Tells this registration from every other (R279). -/
  registration : Nat
  job : Byte
  va : Nat
  prec : Nat
  hallMask : BitVec 4
  nrow : Nat
  nhalo : Nat
  nnz : Nat
  npart : Nat
  pindex : Nat
  maxRnz : Nat
  rowPtr : List Nat
  colIdx : List Nat
  levels : List Nat
  order : List Nat
  gather : List GatherEntry
  parts : List Nat
  blocks : List Nat
  /-- The 11 range entries used (Table 9.3): tracked or static, with G. -/
  range : List (Bool × Nat)
  /-- The status record of the last solve on the image (R296); empty before the first. -/
  status : List Byte := []
  deriving DecidableEq, Repr

/-- A solve vector: words at one exponent, and M of the words as last written, none before the first pass (R273, R277). -/
structure SolveVec where
  w : List Int := []
  e : Int := -1074
  m : Option Int := none
  deriving DecidableEq, Repr

/-- The preconditioner a setup holds (R280): for IC(0) the entries of L at the image's non-zeros and the reciprocals of
its pivots; for block-Jacobi the blocks' inverses, row-major. -/
structure SolvePrec where
  l : List Int := []
  le : Int := -1074
  d : List Int := []
  de : Int := -1074
  deriving DecidableEq, Repr

/-- What a work area holds after setup, with its tag (R279). -/
structure SolveSetup where
  job : Byte
  work : Nat
  registration : Nat
  a : List Int
  ae : Int
  prec : SolvePrec
  deriving DecidableEq, Repr

/-- The parameter block of a solve task (Table 9.4). -/
structure SolveParams where
  method : Nat
  flags : Nat
  lend : Nat
  itmax : Nat
  tol : Nat
  tau : Nat
  deadline : Nat
  peerTimeout : Nat
  pivLimit : Nat
  valPtr : Nat
  bPtr : Nat
  xPtr : Nat
  workPtr : Nat
  statusPtr : Nat
  deriving DecidableEq, Repr

/-- Where a solve stands: before a product that gathers halo values, at a residual test, or at its end. -/
inductive SolveStage where
  /-- Setup runs, or waits for the other partitions (R279, R292). -/
  | setup
  | first | boundary | product1 | product2 | trueRes
  | finished
  deriving DecidableEq, Repr

/-- The vectors and scalars of a solve (R285); scalars are FP64 patterns. -/
structure SolveVals where
  b : List Nat := []
  x : SolveVec := {}
  r : SolveVec := {}
  p : SolveVec := {}
  z : SolveVec := {}
  q : SolveVec := {}
  rh : SolveVec := {}
  v : SolveVec := {}
  s_ : SolveVec := {}
  t : SolveVec := {}
  ph : SolveVec := {}
  sh : SolveVec := {}
  rho : Nat := 0
  alpha : Nat := 0
  omega : Nat := 0
  bn : Nat := 0
  res : Nat := 0
  trueRes : Nat := 0
  satCount : Nat := 0
  satVec : BitVec 16 := 0
  deriving DecidableEq, Repr

/-- A solve task that runs on the SLV of its lead hall. -/
structure SolveRun where
  graph : Nat
  task : Nat
  job : Byte
  tags : W64
  step : W32
  image : Nat
  params : SolveParams
  method : Nat
  start : W64
  a : List Int := []
  ae : Int := -1074
  prec : SolvePrec := {}
  vals : SolveVals := {}
  k : Nat := 0
  stage : SolveStage := .setup
  /-- Halo words gathered for the next product, and the partitions whose readiness has come (R290). -/
  halo : SMap Int := []
  ready : List Nat := []
  outcome : Nat := 0
  illcond : Bool := false
  setupDone : Bool := false
  trueDone : Bool := false
  pivReg : Nat := 0
  setupLc : Nat := 0
  deriving DecidableEq, Repr

/-- The SLVs of the part. -/
structure Solver where
  images : List SolveImage := []
  nextReg : Nat := 1
  setups : List SolveSetup := []
  runs : SMap (Option SolveRun) := []
  deriving DecidableEq, Repr

end Sys2Proof.Machine
end

