-- ==== Sys2Proof/Machine/Types/Trace.lean ====
section
/-! DEFINITION. Trace capture (R634, R635, Table 23.3). -/

namespace Sys2Proof.Machine

/-- What TRACE_CONFIG set (R634). -/
structure TraceCfg where
  job : Byte
  va : Nat
  /-- Bytes, a multiple of 256 KiB. -/
  size : Nat
  /-- Local offsets of the buffer's 64 KiB units, in order: the pages are pinned. -/
  units : List Nat
  trig : BitVec 3
  cls : Byte
  events : BitVec 10
  post : Nat
  deriving DecidableEq, Repr

/-- One hall's trace ring. -/
structure TraceHall where
  written : Nat := 0
  dropped : Nat := 0
  stopped : Bool := false
  /-- Records left to write after the trigger. -/
  left : Option Nat := none
  /-- Buffer offset of the trigger record. -/
  trigAt : Nat := 0
  /-- Records that wait to be written, oldest first, at most 1,024; the flag marks the trigger record. -/
  queue : List (Bool × List Byte) := []
  deriving DecidableEq, Repr

/-- Trace capture. -/
structure Trace where
  cfg : Option TraceCfg := none
  armed : Bool := false
  fired : Bool := false
  halls : SMap TraceHall := []
  deriving DecidableEq, Repr

end Sys2Proof.Machine
end

