-- ==== Sys2Proof/Machine/Types/Weight.lean ====
section
/-! DEFINITION. Weight sets, loads and weight switches (chapter 17), and layout switches (R480 to R485). -/

namespace Sys2Proof.Machine

/-- A registered weight set (R487). -/
structure WSet where
  job : Byte
  id : Nat
  ncopy : Nat
  base : Nat
  size : Nat
  stride : Nat
  /-- Copies that are ready for the successor epoch (R500). -/
  ready : List Nat := []
  /-- MODEL_ID of each copy. -/
  models : List W64 := [0, 0]
  deriving DecidableEq, Repr

/-- A shard entry of a manifest (Table 17.2). -/
structure Shard where
  soff : Nat
  slen : Nat
  enc : Nat
  sfmt : Nat
  dfmt : Nat
  layout : Nat
  tsplit : Nat
  pstage : Nat
  rows : Nat
  cols : Nat
  doff : Nat
  scoff : Nat
  digest : List Byte
  /-- Reserved bits are zero. -/
  clean : Bool
  deriving DecidableEq, Repr

/-- A load as a part sees it: the loader, or a receiver of its CRIER packets (R496, R500). -/
structure WLoad where
  job : Byte
  set : Nat
  epoch : W16
  loader : Nat
  copy : Nat
  model : W64
  shards : List Shard
  /-- Shards this part has received. -/
  got : List Nat := []
  deriving DecidableEq, Repr

/-- What the loader keeps beside it (R492 to R494). -/
structure Loader where
  job : Byte
  stOff : Nat
  stSize : Nat
  /-- Queue pair, remote key and base address of each source. -/
  srcs : List (Nat × W64 × W64)
  timeout : W64
  andSwitch : Bool
  /-- The shard being fetched, its source and the mismatches so far. -/
  next : Nat := 0
  src : Nat := 0
  bad : Nat := 0
  since : W64
  /-- Parts that have reported LOADED. -/
  loaded : List Nat := []
  deriving DecidableEq, Repr

/-- A weight switch that this part takes part in (Table 17.3). -/
structure WPart where
  job : Byte
  coord : Nat
  epoch : W16
  /-- The boundary b, once COMMIT has arrived; admissions are held before that. -/
  commit : Option (W32 × Nat) := none
  deriving DecidableEq, Repr

/-- A weight switch that this part coordinates. -/
structure WCoord where
  job : Byte
  epoch : W16
  since : W64
  timeout : W64
  /-- Results of the load that comes before it in the same command. -/
  before : List W64 := []
  ready : List (Nat × W32 × Nat) := []
  deriving DecidableEq, Repr

/-- Weight state of the part. -/
structure Weights where
  sets : List WSet := []
  loads : List WLoad := []
  loaders : List Loader := []
  parts : List WPart := []
  coords : List WCoord := []
  /-- Non-current epochs whose copy is held, per job (R507). -/
  held : SMap (List W16) := []
  refetched : SMap Nat := []
  drops : SMap Nat := []
  deriving DecidableEq, Repr

/-- A layout switch that this part takes part in (Table 16.5). -/
structure LPart where
  job : Byte
  coord : Nat
  epoch : W16
  ready : Bool := false
  deriving DecidableEq, Repr

/-- A layout switch that this part coordinates. -/
structure LCoord where
  job : Byte
  epoch : W16
  since : W64
  timeout : W64
  ready : List Nat := []
  deriving DecidableEq, Repr

/-- Layout-switch state of the part. -/
structure Layouts where
  parts : List LPart := []
  coords : List LCoord := []
  /-- Packets of older epochs dropped since the job's last switch (R483). -/
  drops : SMap Nat := []
  deriving DecidableEq, Repr

end Sys2Proof.Machine
end

