-- ==== Sys2Proof/Machine/Types/Stall.lean ====
section
/-! DEFINITION. The state of a stall: thread contexts (Table 3.1), pending moves, accumulator slots
(Table 5.2), drains, exact-slice mode and the trap log (Table 3.15). -/

namespace Sys2Proof.Machine

/-- Why a thread's next instruction is held at issue. -/
inductive HoldWhy where
  /-- An MMA waits for another task's exact-slice mode to end (R179). -/ | xmode
  /-- An asynchronous copy waits for its busy token (R116). -/ | token
  /-- A later instruction touches the bytes of a pending move (R116). -/ | move
  /-- The instruction meets a draining slot's tile, or another effect not yet produced (R116). -/ | drain
  /-- A SIG waits for the acknowledgement of earlier remote writes (R111). -/ | ack
  deriving DecidableEq, Repr

/-- What a thread is doing. -/
inductive ThreadStatus where
  | ready
  /-- Suspended in WAIT (R112): the counter, the lc it began, and its limit. -/
  | wait (xd : BitVec 5) (part : Nat) (index : W16) (since : W64) (lim : W32)
  /-- Suspended in BARRIER in the joined generation (R365). -/
  | barrier (xd : BitVec 5) (part : Nat) (index : W16) (gen : W64)
  /-- A BARRIER on another part waits for the generation it joined; a release may come before that answer. -/
  | barrierAsk (xd : BitVec 5) (part : Nat) (index : W16) (released : Option W64 := none)
  | waitTok (mask : BitVec 4)
  /-- END waits for tokens, visibility and drains (R125). -/
  | ending
  /-- The next instruction is held at issue; the event that ends the hold makes the thread ready again. -/
  | held (why : HoldWhy)
  /-- A BEGIN waits for a free physical slot (R120): the OP and fields of its MMA, and the lc it began. -/
  | slotWait (op : Nat) (f : TensorF) (since : W64)
  | splitk (xd : BitVec 5) (slot : BitVec 6) (nm1 : BitVec 4)
  | xslice (xd : BitVec 5) (mode : BitVec 3)
  /-- A synchronous move is in progress (R115). -/
  | syncMove
  /-- FENCE waits for earlier remote writes (Table 3.13). -/
  | fence
  /-- A translation fault holds the thread in place (R423). -/
  | fault (id : Nat)
  /-- The word at PC lies on another part and has been asked for (R103). -/
  | fetching
  /-- A SIG to another part waits for its answer: the instruction word. -/
  | remote (word : W64)
  /-- Its task trapped: it issues nothing more, and leaves once its accepted moves have finished (R123). -/
  | stopped
  /-- A thread of a lent task: it runs ROOT's or SLV's own work, no program (R250, R284). -/
  | lent
  deriving DecidableEq, Repr

/-- A move the layout unit has accepted (R108, R115). -/
structure Move where
  /-- Token 0 to 3, or 4 for the synchronous move. -/
  tok : Nat
  /-- The instruction word (Table 3.17). -/
  word : W64
  /-- Address of the copy instruction. -/
  pc : W64 := 0
  ds : W512
  dd : W512
  os : W64
  od : W64
  /-- 0 COPY, 1 TCOPY, 2 PCOPY. -/
  op : Nat
  perm : BitVec 15
  /-- Units written so far, in the order of R149. -/
  units : Nat := 0
  /-- Bytes fetched from other parts for the current unit. -/
  rbuf : Memory := []
  /-- Virtual addresses of pieces fetched into `rbuf`. -/
  have_ : List Nat := []
  /-- A remote read is outstanding. -/
  waiting : Bool := false
  /-- The pending translation fault. -/
  fault : Option Nat := none
  /-- Every unit is written; MOVE_COMPLETE frees the token. -/
  finished : Bool := false
  /-- The in-place transpose or permutation reads the source as it stood (R151). -/
  snapshot : Option Memory := none
  /-- A set flag was carried (R217, R218). -/
  carried : Bool := false
  deriving DecidableEq, Repr

/-- The operand-reuse cache of R161: the fields, the origin value and the tile's bytes. -/
structure Reuse where
  dreg : BitVec 4
  xi : BitVec 5
  origin : W64
  tile : List FVal
  deriving DecidableEq, Repr

/-- The tap partner of R186. -/
structure TapPartner where
  dreg : BitVec 4
  origin : W64
  transposed : Bool
  deriving DecidableEq, Repr

/-- Who starts a thread (R95). -/
inductive ThreadOrigin where
  | compute | check
  /-- ROOT or SLV, on a lent stall. -/ | lent
  /-- MGT, for self-test: such a thread begins and ends within one command of the model. -/ | selfTest
  deriving DecidableEq, Repr

/-- The mode bit PRV of a thread (R95). -/
def ThreadOrigin.privileged : ThreadOrigin → Bool
  | .compute => false
  | .check | .lent | .selfTest => true

/-- A thread context (Table 3.1), with the per-thread state the MXA and TSQ keep beside it. -/
structure Thread where
  graph : Nat
  task : Nat
  idx : Nat
  x : SMap W64 := []
  /-- Valid D registers only; an unlisted one is empty (R96). -/
  d : SMap (Option W512) := []
  c : SMap W256 := []
  m : SMap W128 := []
  pc : W64
  prv : Bool
  moves : List Move := []
  status : ThreadStatus := .ready
  /-- The issue stamp of the last issued instruction; 0 after YIELD (R118, Table 3.13). -/
  issued : Nat := 0
  /-- Remaining WAIT limit saved with the thread, 0 for a WAIT without one; none for a thread that was not in WAIT. -/
  timeoutLeft : Option W64 := none
  /-- The word fetched from another part, and its address (R103). -/
  fetched : Option (W64 × W64) := none
  /-- The id of the watch whose message the thread waits for (R362); 0 for none. -/
  watch : Nat := 0
  /-- The hall's local count when the thread was suspended in BARRIER (R375). -/
  waitFrom : W64 := 0
  reuseA : Option Reuse := none
  reuseB : Option Reuse := none
  partner : Option TapPartner := none
  /-- The count j of R231, modulo 2^28. -/
  xj : BitVec 28 := 0
  deriving DecidableEq, Repr

/-- Accumulator slot kinds (Table 5.1). -/
inductive SlotKind where
  | f32 | i32 | f16 | fp64 | q
  deriving DecidableEq, Repr

/-- Slot states other than free and draining (Table 5.2). -/
inductive SlotState where
  | open_ | heldTap | heldSplit
  deriving DecidableEq, Repr

/-- A used accumulator slot: 1,024 elements, row-major. Floating-point elements are bit patterns. -/
structure Slot where
  /-- Thread key of the owner. -/
  owner : Nat
  graph : Nat
  task : Nat
  /-- Logical slot 0 to 63, or half-slot 0 to 127. -/
  idx : Nat
  half : Bool := false
  /-- A half slot accumulated in a full FP32 slot (R237). -/
  widened : Bool := false
  st : SlotState := .open_
  kind : SlotKind
  fmt : BitVec 4
  accw : BitVec 2 := 0
  vals : List Int
  /-- Indices of elements that are saturated for good (R158, R183). -/
  sat : List Nat := []
  deriving DecidableEq, Repr

/-- A closed slot on its way out (R164 to R168), with everything the chain captured at the close (R193). -/
structure Drain where
  owner : Nat
  graph : Nat
  task : Nat
  thread : Nat
  tags : W64
  step : W32
  seed : W64
  slot : Slot
  mode : BitVec 2
  dc : W512
  origin : W64
  cfg : W256
  x27 : W64
  x28 : W64
  x29 : W64
  x30 : W64
  /-- The count j when the tile is sampled (R231). -/
  sample : Option (BitVec 28)
  deriving DecidableEq, Repr

/-- A trap record (Table 3.15). -/
structure TrapRec where
  cause : Byte
  graph : Nat
  thread : Nat
  context : Nat
  stall : W16
  pc : W64
  insn : W64
  tags : W64
  task : Nat
  detail : W64
  lc : W64
  deriving DecidableEq, Repr

/-- The state of one logical stall, but for its threads and scratch. -/
structure StallInfo where
  fenced : Bool := false
  /-- SX stands in for this logical stall (R18). -/
  onSpare : Bool := false
  slots : List Slot := []
  /-- Oldest first (R168). -/
  drains : List Drain := []
  /-- Exact-slice mode (1 FP64, 2 Q), and the graph and task that own it (R177). -/
  exact : Option (BitVec 3 × Nat × Nat) := none
  /-- The mode that a waiting XSLICE asks for: no BEGIN of another format is accepted from then on (R177). -/
  exactNext : Option (BitVec 3 × Nat × Nat) := none
  /-- Newest first, at most 16 (R124). -/
  trapLog : List TrapRec := []
  deriving DecidableEq, Repr

/-- The state of one logical aisle (R15 to R20). -/
structure AisleInfo where
  fenced : Bool := false
  /-- The aisle's logical identifier is served by AX (R18). -/
  onSpare : Bool := false
  /-- Retired with no spare left: the hall runs without it (R20). -/
  gone : Bool := false
  /-- The logical stall SX serves, or `some 16` when SX failed its self-test (R610). -/
  sxFor : Option Nat := none
  deriving DecidableEq, Repr

/-- The state of one hall (R21, R25, R28). -/
structure HallInfo where
  fenced : Bool := false
  meshUp : Bool := true
  /-- The logical aisle AX serves, or `some 36` when AX failed its self-test. -/
  axFor : Option Nat := none
  /-- The local count (R4); it counts once calibrated. -/
  lc : W64 := 0
  lcRunning : Bool := false
  deriving DecidableEq, Repr

end Sys2Proof.Machine
end

