-- ==== Sys2Proof/Machine/Types/Graph.lean ====
section
/-! DEFINITION. Task graphs as the dispatchers hold them (Tables 2.1 and 2.2), saved tasks (Table 14.6),
signal journals (R373) and the step boundary. -/

namespace Sys2Proof.Machine

/-- The graph header (Table 2.1). -/
structure GraphHdr where
  pipe : Bool
  syncMaster : Bool
  midtask : Bool
  taskCount : Nat
  rootCount : Nat
  recordsPtr : W64
  rootsPtr : W64
  job : Byte
  gprio : BitVec 2
  mbCount : Nat
  stages : Nat
  stageIndex : Nat
  fwdPerMb : Nat
  bwdPerMb : Nat
  updateTask : W32
  stepFirst : W32
  stepCount : Nat
  syncMode : BitVec 2
  holdMs : W16
  cookie : W64
  deriving DecidableEq, Repr

/-- A task record (Table 2.2), with its successor list once read. -/
structure TaskRec where
  kind : Byte
  ctrl : Byte
  threads : W16
  pred : W32
  tags : W64
  place : W32
  succCount : W32
  succPtr : W64
  body : W64
  arg : W64
  gateIndex : W16
  gatePart : W16
  rsv0 : W32
  gateTarget : W64
  drefs : List W64
  doneIndex : W16
  donePart : W16
  rsv1 : BitVec 96
  succs : List Nat := []
  deriving DecidableEq, Repr

/-- Why a save happened (Table 14.6). -/
inductive SaveCause where
  | priority | fault | slotPressure
  deriving DecidableEq, Repr

/-- The code of a save cause (Table 14.6). -/
def SaveCause.code : SaveCause → Byte
  | .priority => 1 | .fault => 2 | .slotPressure => 3

/-- A saved task: what its record in the save area holds (R421, Table 14.8). -/
structure SavedTask where
  hall : Nat
  off : Nat
  bytes : Nat
  cause : SaveCause
  faultId : Nat
  /-- The threads in index order, each with the context it had. -/
  threads : List (Nat × Thread)
  /-- The slots, each with its owner's thread index. -/
  slots : List Slot
  xmode : BitVec 3
  spanLo : Nat
  spanN : Nat
  lines : Memory
  lc : W64
  /-- The thread that met the fault; for a move's fault, the PC and word of its instruction (Table 14.5). -/
  faultIdx : Nat := 0
  faultMove : Option (W64 × W64) := none
  deriving DecidableEq, Repr

/-- A signal-journal entry (R373). -/
inductive JournalEntry where
  | signal (part : Nat) (index : W16) (total : W64)
  | barrier (thread : Nat) (part : Nat) (index : W16) (gen : W64)
  deriving DecidableEq, Repr

/-- Where a task stands. -/
inductive TaskState where
  | waitPred
  /-- Gated by its Bell watch (R53). -/ | gated
  /-- Ready but for its micro-batch's admission (R52). -/ | waitAdmit
  /-- The update task waits for the step's PHASE 3 tasks (R66). -/ | waitUpdate
  /-- Waits for a newer layout epoch (R72). -/ | waitLayout
  | ready
  | running
  /-- Saved; restorable when true (its fault, if any, ended with RETRY). -/ | saved (restorable : Bool)
  /-- A dispatcher read or a probe met this translation fault (Table 14.5). -/ | faultHeld (id : Nat)
  | done
  /-- Stopped by a trap or a fatal status; never completes (R123). -/ | aborted
  | skipped
  deriving DecidableEq, Repr

/-- The dispatchers' own state of one task. -/
structure TaskSt where
  preds : Nat
  st : TaskState := .waitPred
  /-- The record's tags, with the stamped weight epoch (R71). -/
  tags : W64
  /-- The hall and aisle queue that holds it, once ready (R59). -/
  queue : Option (Nat × Nat) := none
  /-- The stall it runs on. -/
  place : Option Nat := none
  /-- The order in which it became ready (R62). -/
  stamp : Nat := 0
  /-- The order in which it was placed (R121). -/
  placed : Nat := 0
  /-- Re-dispatched or restorable: placed ahead of its class (Table 22.3, R425). -/
  ahead : Bool := false
  /-- The task started in this step, so its admission stamping is done. -/
  started : Bool := false
  saved : Option SavedTask := none
  /-- A save has begun: its cause, fault id, and reserved offset and size (Table 14.7 step 1). -/
  saving : Option (SaveCause × Nat × Nat × Nat) := none
  journal : List JournalEntry := []
  /-- The journal of the first run, which absorbs the re-run (R373). -/
  replay : List JournalEntry := []
  nonRestartable : Bool := false
  /-- The scratch span touched so far, in lines (R422). -/
  span : Option (Nat × Nat) := none
  /-- The executing unit has finished, so TASK_COMPLETE may follow (R54). -/
  unitDone : Bool := false
  /-- A collective, root or solve task has pinned its ranges (R413). -/
  probed : Bool := false
  /-- The id of the gate's watch, while it is registered (R53). -/
  gateWatch : Nat := 0
  /-- The check-ring entry of a check task the hall dispatcher made (R234). -/
  check : Option (Nat × Nat) := none
  deriving DecidableEq, Repr

/-- How a graph ends: a status code of Table 18.7 and its parameter. -/
structure EndCause where
  status : Byte
  param : W64
  deriving DecidableEq, Repr

/-- Where a graph stands. -/
inductive GraphPhase where
  | running
  /-- The step ended; boundary work or the hold comes before the next STEP_START (R74, R82, R614). -/
  | boundary
  /-- No placement; the graph ends when no task runs. -/
  | ending
  | ended
  deriving DecidableEq, Repr

/-- A resident graph. -/
structure Graph where
  hdr : GraphHdr
  /-- A dispatcher read of the image met this pending fault; nothing is placed (Table 14.5). -/
  loading : Option Nat := none
  headerVa : W64
  recs : List TaskRec
  tasks : List TaskSt
  roots : List Nat
  phase : GraphPhase := .running
  cause : Option EndCause := none
  /-- The cause that takes effect at the step's end (R87 mode 0, R219). -/
  atStepEnd : Option EndCause := none
  step : W32
  stepsDone : Nat := 0
  completed : Nat := 0
  /-- Micro-batches admitted in the step, in ascending order (R68, R80). -/
  admitted : Nat := 0
  /-- ADMIT messages received: step and micro-batch (R78). -/
  admits : List (W32 × Nat) := []
  /-- Micro-batches admitted in the step, each with its weight epoch (R71, R502). -/
  stamps : List (Nat × W16) := []
  bwdDone : Nat := 0
  fwdCount : SMap Nat := []
  bwdCount : SMap Nat := []
  /-- CLOSE messages received: step and C (R80). -/
  closes : List (W32 × Nat) := []
  /-- The C of the step that runs (R80). -/
  closeC : Option Nat := none
  edge : Bool := false
  /-- The local count at which the hold of R82 began. -/
  holdFrom : Option W64 := none
  /-- START messages received: the step and its expired flag (R82, R84). -/
  starts : List (W32 × Bool) := []
  /-- The current step was started on expiry (R84). -/
  expired : Bool := false
  expiredCount : Nat := 0
  /-- A mirrored pair's peer is lost: no hold, SYNC_IN ignored (R624). -/
  pairLost : Bool := false
  /-- Boundary work of R614 still to do before the next step. -/
  boundaryWork : Bool := false
  /-- Rolled back: the start waits for REPLICA_RESUME (R619). -/
  resumeHold : Bool := false
  rescaleOver : Bool := false
  /-- A step start that a capture holds until what it reads of other parts has arrived (Table 11.6): its step number and
  whether its hold expired. -/
  starting : Option (W32 × Bool) := none
  /-- An end of the boundary's work that a capture or a replay's comparison holds likewise: whether the step rolled back. -/
  finishing : Option Bool := none
  deriving DecidableEq, Repr

/-- An entry of a rescale list: F and the tensor's sealed descriptor (R218). -/
structure RescaleEntry where
  key : Nat
  desc : W512
  job : Byte
  graph : Nat
  deriving DecidableEq, Repr

end Sys2Proof.Machine
end

