-- ==== Sys2Proof/Machine/Types/Xlt.lean ====
section
/-! DEFINITION. Address translation, the Porter, save areas and retirement (chapter 14). -/

namespace Sys2Proof.Machine

/-- A job's address space (R401). -/
structure Space where
  job : Byte
  root : Nat
  limit : W64
  deriving DecidableEq, Repr

/-- A pending translation fault (R410, Table 14.4). -/
structure PFault where
  id : Nat
  kind : Nat
  unit : Nat
  job : Byte
  va : Nat
  /-- The range the faulting entry governs. -/
  lo : Nat
  size : Nat
  source : W64
  /-- The XLT that raised it: hall 0 to 3, or 4 for the hub. -/
  xlt : Nat
  raised : W64
  deriving DecidableEq, Repr

/-- A pinned page (R413). -/
structure Pin where
  xlt : Nat
  job : Byte
  page : Nat
  size : Nat
  /-- The fabric physical address pinned. -/
  pa : Nat
  graph : Nat
  task : Nat
  deriving DecidableEq, Repr

/-- A transfer of a move task (R414 to R419). -/
structure Transfer where
  graph : Nat
  task : Nat
  cls : Nat
  stamp : Nat
  /-- The Porter channel, while it runs. -/
  channel : Option Nat := none
  started : Bool := false
  mv : Move
  deriving DecidableEq, Repr

/-- A hall's save area or retirement reserve: local offset and size in bytes (R420, R429). -/
structure Area where
  off : Nat
  size : Nat
  deriving DecidableEq, Repr

/-- Translation, Porter and retirement state. -/
structure Xlt where
  spaces : List Space := []
  faults : List PFault := []
  nextFault : Nat := 1
  pins : List Pin := []
  saveAreas : SMap (Option Area) := []
  reserves : SMap (Option Area) := []
  /-- Redirects per stack key × 2^32 + unit: the reserve unit (R429). -/
  redirects : SMap (Option Nat) := []
  /-- Units retired with no copy: stack × 2^32 + unit of the stack (R431). -/
  dead : List Nat := []
  /-- Retirements that wait for MGT: (stack, unit). -/
  retiring : List (Nat × Nat) := []
  /-- Units held at step 1 of Table 14.10, for a pin that is not released yet: (stack, unit) (R417, R430). -/
  holding : List (Nat × Nat) := []
  /-- Waiting, parked and running transfers, in arrival order. -/
  transfers : List Transfer := []
  deriving DecidableEq, Repr

end Sys2Proof.Machine
end

