-- ==== Sys2Proof/Machine/State.lean ====
section
/-! DEFINITION. The state of one J5: every register, store, table, queue and mode the spec gives the part, as
plain data, with the queue of waiting commands; its reset value; the reasons a step can stop. -/

namespace Sys2Proof.Machine

/-- A hall's rescale sweep at a step boundary (R220): the tensors left, the next block of the first, and what was
fetched from other parts for it. A block written to another part is acknowledged before the next is swept. -/
structure Sweep where
  left : List RescaleEntry
  blk : Nat := 0
  have_ : List Nat := []
  rbuf : Memory := []
  deriving DecidableEq, Repr

/-- What XCHK_STATUS counts for a job in a step (Table 7.5). -/
structure XchkCounts where
  samples : W64 := 0
  unchecked : W64 := 0
  disagreements : W64 := 0
  alerts : W64 := 0
  deriving DecidableEq, Repr

/-- Cross-check configuration and counts (R231 to R238). -/
structure Xchk where
  job : Byte := 0
  configured : Bool := false
  base : W64 := 0
  entries : Nat := 0
  entry : W64 := 0
  threads : Nat := 1
  alerts : Nat := 0
  /-- Used entries of each hall's ring, key hall × 4,096 + index: the task that will free it. -/
  used : SMap Bool := []
  /-- Disagreements per DC seal in the current step (R236). -/
  perSeal : SMap Nat := []
  /-- Seals that alerted in the step with ACCW = 1 (R237). -/
  alerted : List W32 := []
  /-- Seals that have already raised their event in the step. -/
  raised : List W32 := []
  widened : List W32 := []
  /-- The counts of the step that runs and of the last step, per job. -/
  cur : SMap XchkCounts := []
  last : SMap XchkCounts := []
  /-- Verdicts that wait for bytes of a ring page on another part: graph, hall and entry (R235). -/
  verdicts : List (Nat × Nat × Nat) := []
  deriving DecidableEq, Repr

/-- The state of the block. -/
structure State where
  /-- Commands waiting, first in, first out. -/
  pending : List Instr := []
  /-- What the part has sent out, newest first. -/
  sent : List Sent := []
  /-- Part number (R36). -/
  partNo : Nat := 0
  /-- PSTATE of Table 18.2. -/
  pstate : BitVec 3 := 0
  /-- STARTSTEP of Table 18.2: the current start-up step, 1 to 11; its reset value 0 until step 1 begins, 11 once ready. -/
  startStep : BitVec 8 := 0
  /-- The number of this start, which selects the seal key (R138). -/
  startNo : Nat := 0
  /-- The hub's count of REFCLK, at 100 cycles to the lc: it counts while no hall's local count serves the hub, and follows that
  count otherwise (R638). -/
  refLc : W64 := 0
  /-- Order stamps for issue and readiness (R62, R118). -/
  clock : Nat := 1
  halls : SMap HallInfo := []
  aisles : SMap AisleInfo := []
  stalls : SMap StallInfo := []
  threads : SMap (Option Thread) := []
  /-- Stall scratch: stall key × 786,432 + byte (R30). -/
  scratch : Memory := []
  /-- Aisle stores: aisle key × 4,194,304 + byte (R30). -/
  aisleMem : Memory := []
  /-- HBM and hall store windows, by local offset (Table 1.12). -/
  mem : Memory := []
  /-- Poisoned granules, by offset / 64 (R387). -/
  poison : SMap Bool := []
  /-- Granules of lost pseudo-channels written whole since (R387, R389). -/
  healed : SMap Bool := []
  graphs : SMap (Option Graph) := []
  tally : SMap W64 := []
  bell : Bell := {}
  xlt : Xlt := {}
  host : HostIf := {}
  hbm : SMap Stack := []
  fab : Fab := {}
  till : Till := {}
  masks : List Mask := []
  replay : Replay := {}
  power : Power := {}
  boot : Boot := {}
  /-- Rescale lists, per hall × 8 + graph: each graph's step has its own (R218, R239, log entry 52). -/
  rescale : SMap (List RescaleEntry) := []
  /-- Rescale lists that overflowed in the step (R219), bit hall × 8 + graph. -/
  rescaleFull : BitVec 32 := 0
  /-- Sweeps that run, per hall. -/
  sweeps : SMap (Option Sweep) := []
  xchk : Xchk := {}
  /-- The part's current weight epoch and layout epoch, per job (R71, R72). -/
  weightEpoch : SMap W16 := []
  layoutEpoch : SMap W16 := []
  weights : Weights := {}
  layouts : Layouts := {}
  colls : Colls := {}
  replica : Replica := {}
  roots : Roots := {}
  solver : Solver := {}
  trace : Trace := {}
  deriving DecidableEq, Repr

/-- Why the machine stops with a fault. -/
inductive Fault where
  /-- VBUS beyond the absolute maximum of Table 20.5, where the spec states no behaviour. No command of the table
  reports it, so nothing raises it; safe. -/
  | absoluteMaximum
  deriving DecidableEq, Repr

/-- Why the machine refuses a command. -/
inductive Refusal where
  /-- The command has no meaning yet. Raised by the dispatch arms only; safe. -/
  | notModelled (mnemonic : String)
  deriving DecidableEq, Repr

/-- The machine right after reset: the manual's values where it gives them (R348, R511, R537, Table 18.2), the model's named ones
elsewhere (DESIGN CHOICE, log entries 1, 28, 29, 31, 32; PRESUMED, log entry 30). -/
def State.reset : State := {}

end Sys2Proof.Machine
end

