-- ==== Sys2Proof/Machine/Ops.lean ====
section
/-! DEFINITION. Named operations over the state: units and local counts, registers, Tally, the reply ring with
its event buffer (R525, R526) and fault records (R606). -/

namespace Sys2Proof.Machine

/-! ### Units and local counts -/

/-- Key of an aisle. -/
def aisleKey (h a : Nat) : Nat := h * 36 + a
/-- Key of a stall. -/
def skey (st : StallId) : Nat := (st.hall.val * 36 + st.aisle.val) * 16 + st.stall.val
/-- Key of a thread context. -/
def threadKey (stall ctx : Nat) : Nat := stall * 1024 + ctx
/-- Key of a thread reference. -/
def tkey (t : ThreadRef) : Nat := threadKey (skey t.st) t.ctx.val
/-- The stall of a thread key. -/
def stallOf (t : Nat) : Nat := t / 1024
/-- The aisle of a stall key. -/
def aisleOf (st : Nat) : Nat := st / 16
/-- The hall of a stall key. -/
def hallOf (st : Nat) : Nat := st / 576

def State.hall (s : State) (h : Nat) : HallInfo := s.halls.get {} h
def State.aisle (s : State) (a : Nat) : AisleInfo := s.aisles.get {} a
def State.stall (s : State) (k : Nat) : StallInfo := s.stalls.get {} k
def State.thread (s : State) (t : Nat) : Option Thread := s.threads.get none t
def State.graph (s : State) (g : Nat) : Option Graph := s.graphs.get none g
def State.stack (s : State) (k : Nat) : Stack := s.hbm.get {} k

def State.setHall (s : State) (h : Nat) (v : HallInfo) : State := { s with halls := s.halls.set {} h v }
def State.setAisle (s : State) (a : Nat) (v : AisleInfo) : State := { s with aisles := s.aisles.set {} a v }
def State.setStall (s : State) (k : Nat) (v : StallInfo) : State := { s with stalls := s.stalls.set {} k v }
def State.setThread (s : State) (t : Nat) (v : Option Thread) : State := { s with threads := s.threads.set none t v }
def State.setGraph (s : State) (g : Nat) (v : Option Graph) : State := { s with graphs := s.graphs.set none g v }
def State.setStack (s : State) (k : Nat) (v : Stack) : State := { s with hbm := s.hbm.set {} k v }
def State.setBell (s : State) (v : Bell) : State := { s with bell := v }
def State.setXlt (s : State) (v : Xlt) : State := { s with xlt := v }
def State.setHost (s : State) (v : HostIf) : State := { s with host := v }
def State.setFab (s : State) (v : Fab) : State := { s with fab := v }

/-- Something leaves the part. -/
def State.send (s : State) (o : Sent) : State := { s with sent := o :: s.sent }

/-- The next order stamp. -/
def State.tick (s : State) : State := { s with clock := s.clock + 1 }

/-- The lowest-numbered hall that is not fenced; 0 while every hall is fenced (R638). -/
def State.lowestHall (s : State) : Nat :=
  match [0, 1, 2, 3].find? fun h => !(s.hall h).fenced with
  | some h => h
  | none => 0

/-- A hall's local count. -/
def State.hallLc (s : State) (h : Nat) : W64 := (s.hall h).lc
/-- The lowest-numbered hall that is not fenced and whose counter runs. -/
def State.clockHall (s : State) : Option Nat := [0, 1, 2, 3].find? fun h => !(s.hall h).fenced && (s.hall h).lcRunning
/-- The local count of a hub unit: the lowest-numbered hall's that is not fenced, or the count of REFCLK before step 8 and while
every hall is fenced (R638). -/
def State.hubLc (s : State) : W64 := match s.clockHall with
  | some h => s.hallLc h
  | none => s.refLc
/-- The local count of an XLT: hall 0 to 3, or the hub (R410). -/
def State.xltLc (s : State) (x : Nat) : W64 := if x < 4 then s.hallLc x else s.hubLc

/-- The logical stall identifier of RDSYS 0 (R102). -/
def logicalStall (st : Nat) : W16 :=
  BitVec.ofNat 16 (hallOf st * 4096 + (aisleOf st % 36) * 64 + st % 16)
/-- The logical aisle in the form of LUNIT (Table 22.1). -/
def logicalAisle (a : Nat) : W16 := BitVec.ofNat 16 ((a / 36) * 4096 + (a % 36) * 64)

/-- The physical aisle number of a logical aisle: 36 for AX. -/
def State.physAisle (s : State) (a : Nat) : Nat := if (s.hall (a / 36)).axFor = some (a % 36) then 36 else a % 36
/-- The physical stall of a logical stall: 16 for SX (Table 22.1). -/
def State.physStall (s : State) (st : Nat) : W16 :=
  let p := if (s.aisle (aisleOf st)).sxFor = some (st % 16) then 16 else st % 16
  BitVec.ofNat 16 (hallOf st * 4096 + s.physAisle (aisleOf st) * 64 + p)

/-- HBM is in self-refresh, or on its way there: requests wait and are never refused (R398, R399). -/
def State.hbmHeld (s : State) : Bool := s.power.below40

/-! ### The reply ring and interrupts (R525 to R528) -/

/-- Ring entries, 2^RPL_LOG2. -/
def HostIf.rplSize (h : HostIf) : Nat := 2 ^ h.rplLog2.toNat
/-- Entries reserved for commands that have not replied (R520). -/
def HostIf.reserved (h : HostIf) : Nat := (h.cmds.filter fun c => !c.lostReply).length + h.replies.length
/-- Entries written and not yet consumed. -/
def HostIf.used (h : HostIf) : Nat := (h.rplTail - h.rplHead).toNat
/-- Whether the J5 writes the ring at all (R512, R514, R529). -/
def HostIf.writes (h : HostIf) : Bool := h.enable && !h.d3hot && !h.dmaStopped
/-- Whether an unreserved entry is free (R520, R526). -/
def HostIf.freeEntry (h : HostIf) : Bool := h.writes && h.used + h.reserved < h.rplSize

/-- Send the MSI-X message of a vector, or mark it pending while masked (R528). -/
def State.msix (s : State) (vec : Nat) : State :=
  if (s.host.msix.get {} vec).masked then
    s.setHost { s.host with pba := s.host.pba ||| (1 <<< vec) }
  else s.send (.msix vec)

/-- The vector of an entry kind, or of ERR bits for 0 (Table 18.2). -/
def HostIf.vector (h : HostIf) (kind : Nat) : Nat := (bits h.irqMap (8 * kind) 6).toNat

/-- An ERR bit becomes 1 (R528). -/
def State.setErr (s : State) (i : Nat) : State :=
  let old := s.host.err
  let s := s.setHost { s.host with err := old ||| (1 <<< i) }
  if old.getLsbD i then s else s.msix (s.host.vector 0)

/-- Count a written entry of a kind toward its interrupt (R528). -/
def State.irqEntry (s : State) (kind : Nat) : State :=
  let n := s.host.irqCount.get 0 kind + 1
  if n ≥ s.host.coalesce.toNat ∨ s.host.holdoff = 0 then
    (s.setHost { s.host with irqCount := s.host.irqCount.set 0 kind 0 }).msix (s.host.vector kind)
  else s.setHost { s.host with irqCount := s.host.irqCount.set 0 kind n }

/-- Write one entry: `body` is bytes 1 to 63; the KIND byte carries PHASE (R525). -/
def State.writeEntry (s : State) (kind : Nat) (body : List Byte) : State :=
  let i := s.host.rplTail.toNat
  let phase := 1 - (i / s.host.rplSize) % 2
  let k : Byte := BitVec.ofNat 8 (kind + 128 * phase)
  let s := s.send (.replyEntry (i % s.host.rplSize) (k :: body))
  (s.setHost { s.host with rplTail := s.host.rplTail + 1 }).irqEntry kind

/-- Bytes 1 to 63 of an entry that is no command reply (Table 18.4). -/
def eventBody (tag : W64) (rec : List Byte) : List Byte :=
  List.replicate 7 0 ++ leBytes 8 tag.toNat ++ padTo 48 rec

/-- Write held entries while unreserved entries are free: the loss marker first (R526, DEDUCED, log entry 4). -/
def drainEvents : Nat → State → State
  | 0, s => s
  | n + 1, s =>
    if !s.host.freeEntry then s
    else if s.host.lostSince ≠ 0 then
      let b := eventBody 0 (leBytes 8 s.host.lostSince.toNat)
      drainEvents n ((s.setHost { s.host with lostSince := 0 }).writeEntry 6 b)
    else match s.host.events with
      | [] => s
      | (k, b) :: r => drainEvents n ((s.setHost { s.host with events := r }).writeEntry k b)

/-- An entry is lost (R526). -/
def State.loseEntry (s : State) : State :=
  (s.setHost { s.host with lostCount := s.host.lostCount + 1, lostSince := s.host.lostSince + 1 }).setErr 3

/-- Post an entry of kind 2 to 5: written, held, or lost (R526). -/
def State.post (s : State) (kind : Nat) (tag : W64) (rec : List Byte) : State :=
  let b := eventBody tag rec
  if s.host.freeEntry && s.host.events.isEmpty && s.host.lostSince = 0 then s.writeEntry kind b
  else if s.host.events.length < 1024 then
    s.setHost { s.host with events := s.host.events ++ [(kind, b)] }
  else drainEvents 1 s.loseEntry

/-! ### Alerts (R599, R600) and Tally (R596, R598) -/

/-- Whether an alert is enabled: 1 and 6 always, the others unless masked (R599). -/
def Power.alertOn (p : Power) (n : Nat) : Bool := n = 1 || n = 6 || !(p.alertMasked.getLsbD n)

/-- An enabled alert is raised: its pending bit, ALERT_N, and an event (R599, R600). -/
def State.raiseAlert (s : State) (n : Nat) : State :=
  if s.power.alertOn n then
    let first := s.power.alertPending = 0
    let s := { s with power := { s.power with alertPending := s.power.alertPending ||| ((1 : W16) <<< n) } }
    let s := if first then s.send (.smbAlert true) else s
    s.post 5 0 ([5, 0, 0, 0] ++ leBytes 4 0 ++ leBytes 8 0 ++ leBytes 8 n ++ leBytes 8 s.hubLc.toNat)
  else s

/-- Entry `i` of Tally: reserved and unlisted entries read 0 (R598, Table 21.3). -/
def State.tallyAt (s : State) (i : Nat) : W64 :=
  if i ≥ 0x0C00 then 0
  else match Config.tallyDir i with
    | some e => s.tally.get 0 e.key
    | none => 0

/-- COUNTER alert `n` when its entry has reached its threshold; once per clear of its pending bit (Table 21.4). -/
def State.counterAlert (s : State) (n : Nat) : State :=
  match s.power.alertEntry.get none n with
  | some (i, thr) =>
    if thr.ule (s.tallyAt i) && !(s.power.alertPending.getLsbD (8 + n)) then s.raiseAlert (8 + n) else s
  | none => s

/-- Add to a Tally counter, which holds at its maximum; COUNTER alerts may follow (R596, R599). -/
def State.count (s : State) (n : TallyName) (unit k : Nat) : State :=
  let v := s.tally.get 0 (n.key unit)
  let s : State := { s with tally := s.tally.set 0 (n.key unit) (BitVec.ofNat 64 (min (v.toNat + k) (2 ^ 64 - 1))) }
  if s.power.alertEntry.isEmpty then s else [0, 1, 2, 3, 4, 5, 6, 7].foldl State.counterAlert s

/-- A gauge takes a new value (R596). -/
def State.gauge (s : State) (n : TallyName) (unit : Nat) (v : W64) : State :=
  { s with tally := s.tally.set 0 (n.key unit) v }

/-! ### Trace records (R634, R635) -/

def State.traceHall (s : State) (h : Nat) : TraceHall := s.trace.halls.get {} h
def State.setTraceHall (s : State) (h : Nat) (v : TraceHall) : State :=
  { s with trace := { s.trace with halls := s.trace.halls.set {} h v } }

/-- A trace record (Table 23.3). -/
def traceBytes (lc : W64) (ev h : Nat) (unit : W16) (data : Nat) : List Byte :=
  leBytes 8 lc.toNat ++ leBytes 1 ev ++ leBytes 1 h ++ leBytes 2 unit.toNat ++ leBytes 4 data

/-- A hall writes one record into its ring, a quarter of the buffer. -/
def State.tracePut (s : State) (c : TraceCfg) (h : Nat) (trig : Bool) (b : List Byte) : State :=
  let x := s.traceHall h
  let o := h * (c.size / 4) + x.written * 16 % (c.size / 4)
  let s : State := { s with mem := s.mem.write (c.units.getD (o / 65536) 0 + o % 65536) b }
  s.setTraceHall h { x with written := x.written + 1, trigAt := if trig then o else x.trigAt }

/-- A record of a hall is queued and written; it waits while HBM does, and finds at most 1,024 before it (R635). -/
def State.traceRecord (s : State) (c : TraceCfg) (h : Nat) (trig : Bool) (b : List Byte) : State :=
  let x := s.traceHall h
  if x.stopped then s
  else if s.hbmHeld && x.queue.length ≥ 1024 then
    (s.setTraceHall h { x with dropped := x.dropped + 1 }).count .traceDropped h 1
  else
    let left := if trig then some c.post else x.left.map fun n => n - 1
    let x := { x with left := left, stopped := left = some 0 }
    if s.hbmHeld then s.setTraceHall h { x with queue := x.queue ++ [(trig, b)] }
    else (s.setTraceHall h x).tracePut c h trig b

/-- An event of Table 23.3 in a hall: recorded while capture is armed and the event mask names it. -/
def State.traceEvent (s : State) (h ev : Nat) (unit : W16) (data : Nat) : State :=
  match s.trace.cfg with
  | none => s
  | some c => if s.trace.armed && h < 4 && c.events.getLsbD ev then s.traceRecord c h false (traceBytes (s.hallLc h) ev h unit data) else s

/-- An event of a stall. -/
def State.traceStall (s : State) (k ev data : Nat) : State := s.traceEvent (hallOf k) ev (logicalStall k) data

/-- The trigger: each hall writes a trigger record, and stops after its post-trigger count (R635). -/
def State.traceTrigger (s : State) : State :=
  match s.trace.cfg with
  | none => s
  | some c =>
    if !s.trace.armed || s.trace.fired then s
    else [0, 1, 2, 3].foldl (fun (s : State) (h : Nat) => s.traceRecord c h true (traceBytes (s.hallLc h) 6 h 0 0))
      { s with trace := { s.trace with fired := true } }

/-- Queued records are written once HBM serves again. -/
def State.traceFlush (s : State) : State :=
  match s.trace.cfg with
  | none => s
  | some c => [0, 1, 2, 3].foldl (fun (s : State) (h : Nat) =>
    let q := (s.traceHall h).queue
    q.foldl (fun (s : State) (e : Bool × List Byte) => s.tracePut c h e.1 e.2) (s.setTraceHall h { s.traceHall h with queue := [] })) s

/-! ### Fault records (R606, R607) -/

/-- The 32 bytes of a fault record (Table 22.1). -/
def FaultRec.bytes (r : FaultRec) : List Byte :=
  leBytes 1 (r.level.toNat + 4 * r.lcHall.val) ++ [r.cls.code, r.utype, r.action] ++ leBytes 2 r.lunit.toNat
    ++ leBytes 2 r.punit.toNat ++ leBytes 8 r.tags.toNat ++ leBytes 8 r.lc.toNat ++ leBytes 8 r.detail.toNat

/-- A fault record reaches MGT: the newest 4,096 are kept and each goes to the reply ring (R606, R607); trace capture sees
it (R634). -/
def State.fault (s : State) (r : FaultRec) : State :=
  let s := s.traceEvent r.lcHall.val 5 (if r.level = 0 then r.lunit else 0) r.cls.code.toNat
  let s := if s.trace.cfg.any fun c => c.trig.getLsbD 1 && c.cls = r.cls.code then s.traceTrigger else s
  (s.setHost { s.host with faultLog := (r :: s.host.faultLog).take 4096 }).post 2 0 r.bytes

/-- A record of a hub or part-level unit (UTYPE and LUNIT given). -/
def State.partFault (s : State) (cls : FaultClass) (utype action : Byte) (lunit : W16) (tags detail : W64) : State :=
  s.fault
    { level := 3, lcHall := Fin.ofNat 4 s.lowestHall, cls := cls, utype := utype, action := action, lunit := lunit, punit := lunit, tags := tags,
      lc := s.hubLc, detail := detail }
/-- A record of a unit of a hall. -/
def State.hallFault (s : State) (h : Nat) (cls : FaultClass) (utype action : Byte) (lunit : W16) (tags detail : W64) :
    State :=
  s.fault
    { level := 2, lcHall := Fin.ofNat 4 h, cls := cls, utype := utype, action := action, lunit := lunit, punit := lunit, tags := tags, lc := s.hallLc h,
      detail := detail }
/-- A record of a stall. -/
def State.stallFault (s : State) (st : Nat) (cls : FaultClass) (action : Byte) (tags detail : W64) : State :=
  s.fault
    { level := 0, lcHall := Fin.ofNat 4 (hallOf st), cls := cls, utype := 0, action := action, lunit := logicalStall st,
      punit := s.physStall st, tags := tags, lc := s.hallLc (hallOf st), detail := detail }
/-- A record of an aisle. -/
def State.aisleFault (s : State) (a : Nat) (cls : FaultClass) (action : Byte) (tags detail : W64) : State :=
  s.fault
    { level := 1, lcHall := Fin.ofNat 4 (a / 36), cls := cls, utype := 1, action := action, lunit := logicalAisle a,
      punit := BitVec.ofNat 16 ((a / 36) * 4096 + s.physAisle a * 64), tags := tags, lc := s.hallLc (a / 36), detail := detail }

/-! ### Command replies (R524 to R527) -/

/-- Bytes 1 to 63 of a command reply (Table 18.4). -/
def Cmd.replyBytes (c : Cmd) (status : Byte) (results : List W64) : List Byte :=
  [status] ++ leBytes 2 c.op.toNat ++ leBytes 4 c.hdr.seq.toNat ++ leBytes 8 c.hdr.tag.toNat
    ++ padTo 48 ((results.take 6).flatMap fun w => leBytes 8 w.toNat)

/-- A command completes: its reply goes to its reserved entry, waits while the interface is stopped, or is lost
after a reset of the interface (R511, R512, R514, R529). -/
def State.reply (s : State) (c : Cmd) (status : Byte) (results : List W64) : State :=
  let s := s.setHost { s.host with cmds := s.host.cmds.filter fun d => d.hdr.seq ≠ c.hdr.seq || d.fetched ≠ c.fetched }
  if c.lostReply then s.loseEntry
  else if s.host.writes then s.writeEntry 1 (c.replyBytes status results)
  else s.setHost { s.host with replies := s.host.replies ++ [c.replyBytes status results] }

/-- Reply to every command that waits for `w`. -/
def State.replyWaiting (s : State) (w : CmdWait) (status : Byte) (results : List W64) : State :=
  (s.host.cmds.filter fun c => c.wait = w).foldl (fun s c => s.reply c status results) s

/-- Status codes the model names (Table 18.7). -/
def stOk : Byte := 0x00
def stBusy : Byte := 0x01
def stInvalid : Byte := 0x02
def stConflict : Byte := 0x03
def stNotFound : Byte := 0x04
def stAddress : Byte := 0x05
def stTimeout : Byte := 0x06
def stPartLost : Byte := 0x07
def stNotReady : Byte := 0x08
def stMismatch : Byte := 0x09

end Sys2Proof.Machine
end

