-- ==== Sys2Proof/Machine/Link.lean ====
section
/-! DEFINITION. Routing and the ports of the fabric (R433 to R451), and requests to other parts (R453). -/

namespace Sys2Proof.Machine

/-! ### Parts, axes and rings -/

/-- The coordinates of a part number: t, p, d, s (R36). -/
def partCoords (n : Nat) : Nat × Nat × Nat × Nat := (n % 4, n / 4 % 16, n / 64 % 32, n / 2048)

/-- Whether a part is a member of the current domain (R41). -/
def State.member (s : State) (n : Nat) : Bool :=
  let (t, p, d, q) := partCoords n
  let (a, b, c, e) := s.fab.shape
  t < a && p < b && d < c && q < e && n < 8192

/-- A coordinate of a part: axis 0 T, 1 P, 2 D, 3 S. -/
def coordAt (n axis : Nat) : Nat :=
  let (t, p, d, q) := partCoords n
  match axis with | 0 => t | 1 => p | 2 => d | _ => q
/-- Size of an axis (R434). -/
def State.axisSize (s : State) (axis : Nat) : Nat :=
  let (t, p, d, q) := s.fab.shape
  match axis with | 0 => t | 1 => p | 2 => d | _ => q
/-- The part number with one coordinate replaced. -/
def withCoord (n axis v : Nat) : Nat :=
  let (t, p, d, q) := partCoords n
  match axis with
  | 0 => v + 4 * p + 64 * d + 2048 * q
  | 1 => t + 4 * v + 64 * d + 2048 * q
  | 2 => t + 4 * p + 64 * v + 2048 * q
  | _ => t + 4 * p + 64 * d + 2048 * v

/-- Axis and direction of a port (Table 15.1); true for +. -/
def portAxis (n : Nat) : Nat := n / 2
def portPlus (n : Nat) : Bool := n % 2 = 0
/-- Lane groups of a port at full width. -/
def portGroups (n : Nat) : BitVec 12 := if n < 2 then 0xFFF else 0xFF

/-- A port. -/
def State.port (s : State) (n : Nat) : Port := s.fab.ports.getD n {}
/-- Change a port. -/
def State.modPort (s : State) (n : Nat) (f : Port → Port) : State := s.setFab { s.fab with ports := s.fab.ports.modify n f }

/-- The part at the other end of a port (R433). -/
def State.partnerOf (s : State) (n : Nat) : Nat :=
  let ax := portAxis n
  let z := s.axisSize ax
  let c := coordAt s.partNo ax
  withCoord s.partNo ax (if portPlus n then (c + 1) % z else (c + z - 1) % z)

/-- The link of a port: the part whose + port it leaves (R448). -/
def State.linkOf (s : State) (n : Nat) : Nat × Nat :=
  (portAxis n, if portPlus n then s.partNo else s.partnerOf n)

/-- The positions whose + links a path from `a` crosses, `k` hops. -/
def hopLinks (plus : Bool) (z : Nat) : Nat → Nat → List Nat
  | _, 0 => []
  | a, k + 1 =>
    if plus then a :: hopLinks plus z ((a + 1) % z) k
    else ((a + z - 1) % z) :: hopLinks plus z ((a + z - 1) % z) k

/-- Whether this part's ring on an axis is whole from its coordinate to `b` in a direction. -/
def State.pathOk (s : State) (axis b : Nat) (plus : Bool) : Bool :=
  let z := s.axisSize axis
  let a := coordAt s.partNo axis
  let k := if plus then (b + z - a) % z else (a + z - b) % z
  (s.port (2 * axis + if plus then 0 else 1)).st = .inService
    && (hopLinks plus z a k).all fun i => !(s.fab.failedLinks.contains (axis, withCoord s.partNo axis i))

/-- Where a packet to `dst` leaves: the port, and whether it goes the other way round (R444, R448); none when its ring
is split (R450). -/
def State.route (s : State) (dst : Nat) : Option (Nat × Bool) :=
  match [0, 1, 2, 3].find? fun ax => coordAt dst ax ≠ coordAt s.partNo ax with
  | none => none
  | some ax =>
    let z := s.axisSize ax
    let b := coordAt dst ax
    let fwd := (b + z - coordAt s.partNo ax) % z
    let plus := 2 * fwd ≤ z
    let port := fun (p : Bool) => 2 * ax + if p then 0 else 1
    if s.pathOk ax b plus then some (port plus, false)
    else if s.pathOk ax b (!plus) then some (port (!plus), true) else none

/-- Whether a port's hop crosses its axis's dateline (R445). -/
def State.dateline (s : State) (n : Nat) : Bool :=
  let c := coordAt s.partNo (portAxis n)
  if portPlus n then c + 1 = s.axisSize (portAxis n) else c = 0

/-! ### Output (R442, R443, Table 15.5) -/

/-- VC, class and traffic class of a packet. -/
def vcOf (p : Pkt) : Nat := p.ctrl.toNat % 8
def pktCls (p : Pkt) : Nat := p.ctrl.toNat / 8 % 4
def pktTraffic (p : Pkt) : Nat := (bits p.tags 56 4).toNat
/-- The packet with another buffer class. -/
def withCls (p : Pkt) (c : Nat) : Pkt := { p with ctrl := BitVec.ofNat 8 (p.ctrl.toNat / 32 * 32 + c % 4 * 8 + p.ctrl.toNat % 8) }
/-- The packet marked as replayed (R448). -/
def asReplay (p : Pkt) : Pkt := { p with ctrl := p.ctrl ||| 0x20 }
/-- Flits of a packet (R439). -/
def pktFlits (p : Pkt) : Nat := cdiv (32 + p.payload.length) 64

/-- Reserved flits of a VC and class, and flits of the shared pool (R442, Table 15.2). -/
def reservedFlits : Nat := 256
def poolFlits (n : Nat) : Nat := if n < 2 then 11776 else 28160

/-- Credits a port holds for a packet's VC and class. -/
def Port.creditOf (x : Port) (p : Pkt) : Nat := x.credits.get reservedFlits (vcOf p * 3 + pktCls p)

/-- Whether a port may send a packet now. -/
def Port.canSend (x : Port) (p : Pkt) : Bool := pktFlits p ≤ x.creditOf p + x.pool

/-- The packet of a VC that goes first: lowest traffic class, then oldest (R443); its place in the queue. -/
def Port.firstOf (x : Port) (q : Nat × Pkt → Bool) : Option Nat :=
  let idx := (List.range x.outq.length).zip x.outq
  (idx.filter fun e => q e.2).foldl (fun (m : Option Nat) (e : Nat × (Nat × Pkt)) => match m with
    | none => some e.1
    | some i => if pktTraffic e.2.2 < pktTraffic ((x.outq.getD i e.2).2) then some e.1 else some i) none

/-- The order in which a port looks at its waiting packets (Table 15.5, R443). -/
def Port.candidates (x : Port) : List Nat :=
  let urgent := x.urgent.filterMap fun u => x.outq.findIdx? fun e => vcOf e.2 = u.1 && e.1 = u.2
  let vcs := [5, 4, 1] ++ ([0, 1, 2].map fun i => [0, 2, 3].getD ((x.rr + i) % 3) 0)
  urgent ++ vcs.filterMap fun v => x.firstOf fun e => vcOf e.2 = v

/-- Frame sequence numbers of a packet of `k` frames, 16 flits each (Table 15.2). -/
def frames (seq : W32) : Nat → Nat → List (W32 × Nat)
  | 0, _ => []
  | k + 1, flits => (seq, min 16 flits) :: frames (seq + 1) k (flits - 16)

/-- Send packet `i` of a port's queue. -/
def State.sendFrom (s : State) (n i : Nat) : State :=
  let x := s.port n
  match x.outq[i]? with
  | none => s
  | some (input, p) =>
    let f := pktFlits p
    let own := min f (x.creditOf p)
    let k := cdiv f 16
    let x : Port := { x with
      outq := x.outq.eraseIdx i
      credits := x.credits.set reservedFlits (vcOf p * 3 + pktCls p) (x.creditOf p - own)
      pool := x.pool - (f - own)
      replay := x.replay ++ frames x.txSeq k f
      replayPkts := x.replayPkts ++ [(x.txSeq + BitVec.ofNat 32 k - 1, p)]
      txSeq := x.txSeq + BitVec.ofNat 32 k
      flitsTx := x.flitsTx + BitVec.ofNat 64 f
      urgent := x.urgent.erase (vcOf p, input)
      rr := if vcOf p = 0 then 1 else if vcOf p = 2 then 2 else if vcOf p = 3 then 0 else x.rr }
    (s.modPort n fun _ => x).send (.packet n p)

/-- Send what a port's credits allow. -/
def pumpPort (n : Nat) : Nat → State → State
  | 0, s => s
  | fuel + 1, s =>
    let x := s.port n
    if x.st ≠ .inService || x.txChanging then s
    else match x.candidates.find? fun i => match x.outq[i]? with | some e => x.canSend e.2 | none => false with
      | some i => pumpPort n fuel (s.sendFrom n i)
      | none => s

/-- A packet takes its port's queue and its class: it enters each axis in class 0, crosses a dateline into class 1, and travels
in class 2 once turned round (R444, R445, R448). -/
def State.enqueue (s : State) (input : Nat) (p : Pkt) (n : Nat) (other : Bool) : State :=
  let entering := input = 8 || coordAt (p.src.toNat % 8192) (portAxis n) = coordAt s.partNo (portAxis n)
  let cls := if other || (pktCls p = 2 && !entering) then 2 else if s.dateline n then 1 else if entering then 0 else pktCls p
  let s := s.modPort n fun x => { x with outq := x.outq ++ [(input, withCls p cls)] }
  pumpPort n (s.port n).outq.length s

/-- The next SEQ toward a target. -/
def State.nextSeq (s : State) (dst : Nat) : W32 × State :=
  let q := s.fab.seqOut.get 0 dst
  (q, s.setFab { s.fab with seqOut := s.fab.seqOut.set 0 dst (q + 1) })

/-- A response to another part (Table 15.4): status, and the data read. -/
def State.response (s : State) (dst : Nat) (rid : W16) (status : Byte) (tags : W64) (data : List Byte) : Pkt × State :=
  let (q, s) := s.nextSeq dst
  ({ type := 0x10, ctrl := 1, dst := BitVec.ofNat 16 dst, src := BitVec.ofNat 16 s.partNo, plen := BitVec.ofNat 16 (cdiv data.length 32),
     tags := tags, seq := q, rid := rid, opx := status, payload := padTo (cdiv data.length 32 * 32) data }, s)

/-- Whether a packet type is a request, which a RESP answers (Table 15.4). -/
def isRequest (t : Byte) : Bool := [0x01, 0x02, 0x03, 0x04, 0x05].contains t

/-- A packet that finds its target lost or its ring split: a request of this part's own keeps the status, one of another part is
answered with it, and any other packet is dropped (R450, R459). -/
def State.turnAway (s : State) (p : Pkt) (st : Byte) : State :=
  let src := p.src.toNat % 8192
  if src = s.partNo then
    s.setFab { s.fab with reqs := s.fab.reqs.map fun r =>
      if r.rid = p.rid.toNat && r.pkt.dst = p.dst && isRequest p.type then { r with answer := some st } else r }
  else if isRequest p.type && !(s.fab.lost.contains src) then
    match s.route src with
    | some (n, other) =>
      let (q, s) := s.response src p.rid st p.tags []
      s.enqueue 8 q n other
    | none => s
  else s

/-- A packet sets out from this part, from its own units (input 8) or in transit: it takes its port and class, or finds
no path (R444, R445, R448, R450, R459). -/
def State.transmit (s : State) (input : Nat) (p : Pkt) : State :=
  let dst := p.dst.toNat % 8192
  if s.fab.lost.contains dst then s.turnAway p 5
  else match s.route dst with
    | none => (s.partFault .ringSplit 3 0 0 p.tags p.addr).turnAway p 6
    | some (n, other) => s.enqueue input p n other

/-! ### Requests to other parts (R453) -/


/-- The lowest request id at or after the next one that is free; `none` when all 65,536 are taken. -/
def Fab.freeRid (f : Fab) : Option Nat :=
  if f.reqs.length ≥ 65536 then none
  else
    let cand := (List.range (f.reqs.length + 1)).map fun i => (f.nextRid + i) % 65536
    cand.find? fun r => f.reqs.all fun q => q.rid ≠ r

/-- Send a request packet under a fresh RID and SEQ; it waits for an id while none is free (R453). -/
def State.request (s : State) (p : Pkt) (owner : ReqOwner) : State :=
  match s.fab.freeRid with
  | none => s.setFab { s.fab with waiting := s.fab.waiting ++ [(p, owner)] }
  | some rid =>
    let (q, s) := s.nextSeq p.dst.toNat
    let p := { p with seq := q, rid := BitVec.ofNat 16 rid, src := BitVec.ofNat 16 s.partNo }
    let r : Req := { rid := rid, pkt := p, owner := owner, firstSent := s.hubLc }
    (s.setFab { s.fab with reqs := s.fab.reqs ++ [r], nextRid := (rid + 1) % 65536 }).transmit 8 p

/-- Whether requests of this owner are outstanding, or a Till command write of it waits to be queued (R54, R111, R125,
R304). -/
def State.outstanding (s : State) (o : ReqOwner) : Bool :=
  (s.fab.reqs.any fun r => r.owner = o) || (s.fab.waiting.any fun r => r.2 = o) || s.till.waiting.any fun w => w.who = .owner o

/-- A packet of the Bell channel (Table 15.4): operand words in the payload. -/
def bellPacket (type : Byte) (part : Nat) (index : W16) (words : List W64) : Pkt :=
  { type := type, ctrl := 4, dst := BitVec.ofNat 16 part, src := 0, plen := 1, addr := index.setWidth 64,
    payload := padTo 32 (words.flatMap fun w => leBytes 8 w.toNat) }

/-- The word of CMP in a BELL_REG that is no watch: a barrier's entry, a restored barrier wait, or a removal, as its target says
(DESIGN CHOICE, log entry 10). -/
def barrierEntryCmp : BitVec 2 := 3
/-- The target that makes such a BELL_REG the removal of a registration (DESIGN CHOICE, log entry 10). -/
def removalTarget : W64 := BitVec.allOnes 64

/-- The kind and the word with which Table 12.6 names a waiter (DESIGN CHOICE, log entry 21). -/
def Waiter.name (w : Waiter) (id : Nat) : Nat × Nat :=
  match w with
  | .thread k => (0, (logicalStall (stallOf k)).toNat + k % 1024 * 2 ^ 16)
  | .barrierWait k _ => (0, (logicalStall (stallOf k)).toNat + k % 1024 * 2 ^ 16)
  | .gate g t => (1, g + t * 256)
  | .host _ => (2, id)
  | .remote _ x => ((bits x 32 2).toNat, (bits x 0 32).toNat)

/-- Watch ids go round at 2^30 in a packet. -/
def watchRound : Nat := 2 ^ 30
/-- The word that names a waiter in a BELL_REG packet and comes back in its BELL_MSG: the name, the kind and the watch id (DESIGN
CHOICE, log entry 10). -/
def Waiter.word (w : Waiter) (id : Nat) : W64 :=
  BitVec.ofNat 64 ((w.name id).2 % 2 ^ 32 + (w.name id).1 * 2 ^ 32 + id % watchRound * 2 ^ 34)
/-- The watch id in a waiter's word. -/
def wordWatch (x : W64) : Nat := x.toNat / 2 ^ 34

/-- A BELL_REG packet to another part: target, comparison, limit and the waiter's word (R351). -/
def State.sendReg (s : State) (part : Nat) (index : W16) (target : W64) (cmp : BitVec 2) (timeout : W32) (waiter : W64) : State :=
  let (q, s) := s.nextSeq part
  s.transmit 8 { bellPacket 0x05 part index [target, cmp.setWidth 64 ||| (timeout.setWidth 64 <<< 32), waiter] with
    seq := q, src := BitVec.ofNat 16 s.partNo }

/-- A registration at a counter of another part is withdrawn (R362). -/
def State.unregister (s : State) (part : Nat) (index : W16) (waiter : Waiter) (id : Nat) : State :=
  if part = s.partNo || id = 0 then s else s.sendReg part index removalTarget barrierEntryCmp 0 (waiter.word id)

/-- Whether a write of a thread's moves is outstanding, or waits at a Till (R111, R125, R304). -/
def State.writesOut (s : State) (t : Nat) : Bool :=
  (s.fab.reqs.any fun r => r.owner.writeOf t) || (s.fab.waiting.any fun r => r.2.writeOf t) || s.till.waiting.any fun w => w.who.writeOf t

end Sys2Proof.Machine
end

