-- ==== Sys2Proof/Machine/Access.lean ====
section
/-! DEFINITION. Memory access: the local offset map (Table 1.12), the HBM interleave (R381, R382), poison (R387),
page walks (R403 to R406), and reads and writes through a job's address space. -/

namespace Sys2Proof.Machine

/-! ### The HBM interleave -/

/-- Where an HBM offset lies: hall, stack, stack-local address (R381, R382); `none` above 256 GiB of a hall that
lost a stack. -/
def State.locate (s : State) (off : Nat) : Option (Nat × Nat × Nat) :=
  let hall := off / 2 ^ 30 % 4
  let hl := off / 2 ^ 32 * 2 ^ 30 + off % 2 ^ 30
  let n := hl / 65536
  let up := [3 * hall, 3 * hall + 1, 3 * hall + 2].filter fun k => !(s.stack k).excluded
  if up.length = 3 then some (hall, 3 * hall + n % 3, n / 3 * 65536 + off % 65536)
  else if hl ≥ 2 ^ 38 ∨ up.length < 2 then none
  else some (hall, up.getD (n % 2) 0, n / 2 * 65536 + off % 65536)

/-- Pseudo-channel, bank and row of a stack-local address (R381). -/
def rowOf (l : Nat) : Nat × Nat × Nat := (l / 2048 % 64, l / 2048 / 64 % 64, l / 2048 / 4096)

/-! ### Local offsets -/

/-- What a local offset names (Table 1.12). -/
inductive Region where
  | hbm | hallStore (h : Nat) | bell (i : Nat) | till (k : Nat) | tally | none_
  deriving DecidableEq, Repr

/-- The region of a local offset (R38). -/
def region (off : Nat) : Region :=
  if off < 0x18000000000 then .hbm
  else if 0xE0000000000 ≤ off ∧ off < 0xE0010000000 then .hallStore ((off - 0xE0000000000) / 0x4000000)
  else if 0xF0000000000 ≤ off ∧ off < 0xF0000080000 then .bell ((off - 0xF0000000000) / 8)
  else if 0xF0000100000 ≤ off ∧ off < 0xF00001C0000 then .till ((off - 0xF0000100000) / 0x10000)
  else if 0xF0000200000 ≤ off ∧ off < 0xF0000210000 then .tally
  else .none_

/-- Status of an access. -/
inductive Stat where
  | ok | address | poison
  deriving DecidableEq, Repr

/-- Whether an offset lies in a range a REPLAY_CONFIG claims, at the top of a hall store (R340). -/
def State.captureClaimed (s : State) (off : Nat) : Bool :=
  s.replay.cfgs.any fun c =>
    0xE0000000000 + (c.hall + 1) * 0x4000000 - c.buf * 0x100000 ≤ off && off < 0xE0000000000 + (c.hall + 1) * 0x4000000

/-- Where a stack-local address lies once the redirects of its stack apply (R429). -/
def State.redirect (s : State) (k l : Nat) : Nat :=
  match s.xlt.redirects.get none (k * 2 ^ 32 + l / 65536) with
  | some u => u * 65536 + l % 65536
  | none => l

/-- Whether a physical unit of a stack is retired (R396, R431). -/
def State.unitGone (s : State) (k u : Nat) : Bool := (s.stack k).retired.contains u || s.xlt.dead.contains (k * 2 ^ 32 + u)

/-- Whether plain loads and stores reach `[off, off + n)` (R21, R38 to R42, R382, R396, R431); a plain access may not enter
a window. The range lies inside one 64 KiB unit. -/
def State.mapped (s : State) (off : Nat) : Bool :=
  match region off with
  | .hbm => (s.hall (off / 2 ^ 30 % 4)).meshUp && (s.locate off).any fun p => !(s.unitGone p.2.1 (s.redirect p.2.1 p.2.2 / 65536))
  | .hallStore h => !(s.hall h).fenced && !(s.captureClaimed off)
  | _ => false

/-- Whether `n` bytes at `off` are one whole write of a Till COMMAND offset (Table 10.5). -/
def tillPostAt (off n : Nat) : Bool :=
  match region off with
  | .till _ => off % 0x10000 = 0 && n = 128
  | _ => false

/-- Whether a write of `n` bytes at `off` is accepted (R38 to R42, R303). -/
def State.writable (s : State) (off n : Nat) : Bool := (s.mapped off && s.mapped (off + n - 1)) || tillPostAt off n

/-- Whether a physical place of a stack was lost with its pseudo-channel: every granule of it, but for the rows a rebuild that was
cut short had reached (R388, R389). -/
def State.lostPlace (s : State) (k l : Nat) : Bool :=
  let (pc, bank, row) := rowOf l
  (s.stack k).lostPcs.contains pc && !((((s.stack k).halted.get none pc).map (Config.rowRebuilt k pc bank row)).getD false)

/-- Whether a granule lies in a pseudo-channel whose granules were lost, and was not written whole since (R389). -/
def State.lostGranule (s : State) (g : Nat) : Bool :=
  s.hbm.any (fun e => !e.2.lostPcs.isEmpty) && region (g * 64) = .hbm && !(s.healed.get false g)
    && (match s.locate (g * 64) with
      | some (_, k, l) => s.lostPlace k (s.redirect k l)
      | none => false)

/-- Whether a granule is poisoned. -/
def State.poisonGranule (s : State) (g : Nat) : Bool := s.poison.get false g || s.lostGranule g

/-- Whether a granule of `[off, off + n)` is poisoned. -/
def State.poisoned (s : State) (off n : Nat) : Bool :=
  (List.range ((off + n - 1) / 64 + 1 - off / 64)).any fun i => s.poisonGranule (off / 64 + i)

/-- The first poisoned granule's address in the range. -/
def State.poisonAt (s : State) (off n : Nat) : Nat :=
  match (List.range ((off + n - 1) / 64 + 1 - off / 64)).find? fun i => s.poisonGranule (off / 64 + i) with
  | some i => (off / 64 + i) * 64
  | none => off

/-- Status of a local read of `n` bytes. -/
def State.readStat (s : State) (off n : Nat) : Stat :=
  if n = 0 then .ok
  else if !(s.mapped off && s.mapped (off + n - 1)) then .address
  else if s.poisoned off n then .poison else .ok

/-- Granules wholly inside a write lose their poison (R387). -/
def clearPoison (m : SMap Bool) (off n : Nat) : SMap Bool :=
  m.filter fun p => !(off ≤ p.1 * 64 && p.1 * 64 + 64 ≤ off + n)

/-- Granules of lost pseudo-channels wholly inside a write are whole again. -/
def State.healIn (s : State) (off n : Nat) : SMap Bool :=
  if s.hbm.any fun e => !e.2.lostPcs.isEmpty then
    (List.range (n / 64 + 1)).foldl (fun (m : SMap Bool) (i : Nat) =>
      let g := (off + 63) / 64 + i
      if g * 64 + 64 ≤ off + n && s.lostGranule g then m.set false g true else m) s.healed
  else s.healed

/-- Write bytes at a mapped local offset. -/
def State.poke (s : State) (off : Nat) (bs : List Byte) : State :=
  { s with mem := s.mem.write off bs, poison := clearPoison s.poison off bs.length, healed := s.healIn off bs.length }

/-- A command write reaches the hub: it is queued, or waits while the queue holds 64 (R304). -/
def State.tillPost (s : State) (p : TillPost) : State :=
  if s.till.queue.length < 64 then { s with till := { s.till with queue := s.till.queue ++ [p] } }
  else { s with till := { s.till with waiting := s.till.waiting ++ [p] } }

/-- Write bytes at an accepted local offset: memory, or a Till's COMMAND offset. -/
def State.put (s : State) (off : Nat) (bs : List Byte) (who : TillWho := .none) : State :=
  if tillPostAt off bs.length then s.tillPost { src := s.partNo, bytes := bs, who := who } else s.poke off bs

/-! ### Page walks (Tables 14.1, 14.2) -/

/-- Kinds of access to a page. -/
inductive Use where
  | read | write | fetch
  deriving DecidableEq, Repr

/-- The outcome of a walk. -/
inductive Walk where
  /-- Fabric physical address, and the page's first virtual address and size. -/ | page (pa base size : Nat)
  /-- A translation fault: kind, and the range the entry governs (R406, R410). -/ | fault (kind lo size : Nat)
  /-- A format error or an address no space serves (R401, R402, R405). -/ | bad
  /-- A poisoned granule of a table: its fabric physical address (R387). -/ | poison (pa : Nat)
  deriving DecidableEq, Repr

/-- Shift of the virtual address bits a level indexes, and its index width (Table 14.1). -/
def levelShift (l : Nat) : Nat := match l with | 0 => 48 | 1 => 39 | 2 => 30 | 3 => 21 | _ => 16
def levelBits (l : Nat) : Nat := if l = 4 then 5 else 9
/-- The size in bytes of a level's table. -/
def tableSize (l : Nat) : Nat := if l = 4 then 256 else 4096

/-- Whether a table may lie at a local offset: an unmapped one or one of a retired unit may not (R382, R403, R405). -/
def State.tableOk (s : State) (l off : Nat) : Bool :=
  off % tableSize l = 0 && (match region off with | .hbm => s.mapped off | .hallStore h => !(s.hall h).fenced | _ => false)

/-- The walk from a table of level `l`; fuel 5 covers every level (R403 to R406). -/
def State.walkFrom (s : State) (use : Use) (va : Nat) : Nat → Nat → Nat → Walk
  | 0, _, _ => .bad
  | fuel + 1, l, tab =>
    let sh := levelShift l
    let at_ := tab + va / 2 ^ sh % 2 ^ levelBits l * 8
    let e := ofLe (s.mem.read at_ 8)
    let lo := va / 2 ^ sh * 2 ^ sh
    let leaf := e / 2 % 2 = 1
    let adr := e / 256 % 2 ^ 49        -- ADDR[56:8]
    if s.poisonGranule (at_ / 64) then .poison (s.partNo * 2 ^ 44 + at_ / 64 * 64)
    else if e % 2 = 0 then .fault 1 lo (2 ^ sh)
    else if e / 16 % 16 ≠ 0 ∨ e / 2 ^ 57 ≠ 0 then .bad
    else if leaf then
      if l < 2 ∨ adr % 256 ≠ 0 ∨ (adr * 256) % 2 ^ sh ≠ 0 then .bad
      else if use = .write ∧ e / 4 % 2 = 0 then .fault 2 lo (2 ^ sh)
      else if use = .fetch ∧ e / 8 % 2 = 0 then .fault 3 lo (2 ^ sh)
      else .page (adr * 256 + va % 2 ^ sh) lo (2 ^ sh)
    else if l = 4 ∨ e / 4 % 4 ≠ 0 ∨ adr / 2 ^ 36 ≠ 0 ∨ !(s.tableOk (l + 1) (adr * 256)) then .bad
    else s.walkFrom use va fuel (l + 1) (adr * 256)

/-- The space of a job (R401). -/
def State.space (s : State) (job : Byte) : Option Space := s.xlt.spaces.find? fun x => x.job = job

/-- Translate one virtual address of a job; a root table that lies where none may any more is a format error (R401 to R403, R405). -/
def State.walk (s : State) (job : Byte) (use : Use) (va : Nat) : Walk :=
  if va ≥ 2 ^ 57 then .bad
  else match s.space job with
    | none => .bad
    | some sp => if s.tableOk 0 sp.root then s.walkFrom use va 5 0 sp.root else .bad

/-! ### Accesses through a space -/

/-- The outcome of an access. -/
inductive Acc (α : Type) where
  | ok (a : α)
  /-- Translation fault: kind, virtual address, governed range. -/ | fault (kind va lo size : Nat)
  /-- Address-error or poison status at a (fabric physical) address. -/ | err (addr : Nat) (poison : Bool)
  /-- The bytes lie on another part. -/ | remote (va pa len : Nat)
  deriving DecidableEq, Repr

/-- The pieces of `[va, va + n)` that lie in one 64 KiB unit each: virtual address and length. -/
def pieces : Nat → Nat → Nat → List (Nat × Nat)
  | 0, _, _ => []
  | fuel + 1, va, n =>
    if n = 0 then []
    else
      let k := min n (65536 - va % 65536)
      (va, k) :: pieces fuel (va + k) (n - k)

/-- Translate every piece first: fabric physical addresses in order (R402 to R406, R41). -/
def State.translate (s : State) (job : Byte) (use : Use) : List (Nat × Nat) → Acc (List (Nat × Nat × Nat))
  | [] => .ok []
  | (va, n) :: r =>
    match s.walk job use va with
    | .fault k lo size => .fault k va lo size
    | .bad => .err va false
    | .poison pa => .err pa true
    | .page pa _ _ =>
      if !(s.member (pa / 2 ^ 44)) then .err pa false
      else match s.translate job use r with
        | .ok l => .ok ((va, pa, n) :: l)
        | .fault k v lo sz => .fault k v lo sz
        | .err a p => .err a p
        | .remote v p l => .remote v p l

/-- Read translated pieces; bytes of another part come from `rbuf`, keyed by virtual address. -/
def State.readPieces (s : State) (have_ : List Nat) (rbuf : Memory) : List (Nat × Nat × Nat) → Acc (List Byte)
  | [] => .ok []
  | (va, pa, n) :: r =>
    let off := pa % 2 ^ 44
    let here : Acc (List Byte) :=
      if pa / 2 ^ 44 ≠ s.partNo then
        if have_.contains va then .ok (rbuf.read va n) else .remote va pa n
      else match s.readStat off n with
        | .ok => .ok (s.mem.read off n)
        | .address => .err pa false
        | .poison => .err (pa / 2 ^ 44 * 2 ^ 44 + s.poisonAt off n) true
    match here with
    | .ok bs => (match s.readPieces have_ rbuf r with
        | .ok l => .ok (bs ++ l)
        | e => e)
    | e => e

/-- Read `n` bytes of a job's space. -/
def State.vread (s : State) (job : Byte) (use : Use) (va n : Nat) (have_ : List Nat := []) (rbuf : Memory := []) :
    Acc (List Byte) :=
  match s.translate job use (pieces (n / 65536 + 2) va n) with
  | .ok l => s.readPieces have_ rbuf l
  | .fault k v lo sz => .fault k v lo sz
  | .err a p => .err a p
  | .remote v p l => .remote v p l

/-- The outcome of a write: the new state, the remote pieces left to send, or a stop. -/
def State.writePieces (s : State) (who : TillWho) : List (Nat × Nat × Nat) → List Byte → Acc (State × List (Nat × List Byte))
  | [], _ => .ok (s, [])
  | (_, pa, n) :: r, bs =>
    let off := pa % 2 ^ 44
    if pa / 2 ^ 44 ≠ s.partNo then
      match s.writePieces who r (bs.drop n) with
      | .ok (s', l) => .ok (s', (pa, bs.take n) :: l)
      | e => e
    else if !(s.writable off n) then .err pa false
    else (s.put off (bs.take n) who).writePieces who r (bs.drop n)

/-- Write bytes through a job's space: every piece is translated before the first is written. Remote pieces are
answered for the caller to send. -/
def State.vwrite (s : State) (job : Byte) (va : Nat) (bs : List Byte) (who : TillWho := .none) : Acc (State × List (Nat × List Byte)) :=
  match s.translate job .write (pieces (bs.length / 65536 + 2) va bs.length) with
  | .ok l => s.writePieces who l bs
  | .fault k v lo sz => .fault k v lo sz
  | .err a p => .err a p
  | .remote v p l => .remote v p l

/-! ### Translation faults (R410) -/

/-- The next fault id: from 1, skipping 0 and pending ids (R410). -/
def Xlt.freshFault (x : Xlt) : Nat :=
  let cand := (List.range (x.faults.length + 2)).map fun i => (x.nextFault + i) % 2 ^ 32
  match cand.find? fun i => i ≠ 0 && x.faults.all fun f => f.id ≠ i with
  | some i => i
  | none => 1

/-- The bytes of a translation fault event (Table 14.4). -/
def PFault.bytes (f : PFault) : List Byte :=
  [BitVec.ofNat 8 f.kind, BitVec.ofNat 8 f.unit, f.job, 0] ++ leBytes 4 f.id ++ leBytes 8 f.va
    ++ leBytes 8 f.source.toNat ++ leBytes 8 f.raised.toNat

/-- Raise a translation fault, or join the pending one that governs the address (R410). Answers its id. -/
def State.raise (s : State) (xlt unit : Nat) (job : Byte) (kind va lo size : Nat) (source : W64) : Nat × State :=
  match s.xlt.faults.find? fun f => f.job = job && f.kind = kind && f.lo ≤ va && va < f.lo + f.size with
  | some f => (f.id, s)
  | none =>
    let id := s.xlt.freshFault
    let f : PFault := { id, kind, unit, job, va, lo, size, source, xlt, raised := s.xltLc xlt }
    (id, (s.setXlt { s.xlt with faults := s.xlt.faults ++ [f], nextFault := (id + 1) % 2 ^ 32 }).post 3 0 f.bytes)

/-- A fault record of class ADDRESS (R39, R405) or POISON (R387) for a hall unit or the hub. -/
def State.accessFault (s : State) (h : Nat) (poison : Bool) (addr : Nat) (tags : W64) : State :=
  let cls := if poison then FaultClass.poison else .address
  if h < 4 then s.hallFault h cls 2 0 (BitVec.ofNat 16 h) tags (BitVec.ofNat 64 addr)
  else s.partFault cls 3 0 0 tags (BitVec.ofNat 64 addr)

/-- A write cut where it would leave a 2 KiB block (R452). -/
def cut2k : Nat → Nat → List Byte → List (Nat × List Byte)
  | 0, pa, bs => [(pa, bs)]
  | fuel + 1, pa, bs =>
    let k := 2048 - pa % 2048
    if bs.length ≤ k then [(pa, bs)] else (pa, bs.take k) :: cut2k fuel (pa + k) (bs.drop k)

/-- One write packet to another part (R452). -/
def State.remoteWrite (s : State) (owner : ReqOwner) (tags : W64) (tagchk : Bool) (w : Nat × List Byte) : State :=
  s.request { type := 0x02, ctrl := if tagchk then 0x40 else 0, dst := BitVec.ofNat 16 (w.1 / 2 ^ 44),
              src := 0, plen := BitVec.ofNat 16 (cdiv w.2.length 32), tags := tags,
              addr := BitVec.ofNat 64 (w.1 % 2 ^ 44), payload := w.2 } owner

/-- Writes to another part, in packets that stay inside 2 KiB blocks (R452): posted, with an owner that waits for
the acknowledgements. -/
def State.remoteWrites (s : State) (owner : ReqOwner) (tags : W64) (tagchk : Bool) : List (Nat × List Byte) → State
  | [] => s
  | (pa, bs) :: r =>
    ((cut2k (bs.length / 2048 + 1) pa bs).foldl (fun (s : State) w => s.remoteWrite owner tags tagchk w) s).remoteWrites owner tags tagchk r

/-- A read of another part (R452). -/
def State.remoteRead (s : State) (owner : ReqOwner) (tags : W64) (tagchk : Bool) (pa len : Nat) : State :=
  s.request { type := 0x01, ctrl := if tagchk then 0x40 else 0, dst := BitVec.ofNat 16 (pa / 2 ^ 44), src := 0,
              plen := BitVec.ofNat 16 (cdiv len 32), tags := tags, addr := BitVec.ofNat 64 (pa % 2 ^ 44) } owner

end Sys2Proof.Machine
end

