-- ==== Sys2Proof/Machine/LayoutSwitch.lean ====
section
/-! DEFINITION. What a layout switch does on a part (R480 to R485, Table 16.5). -/

namespace Sys2Proof.Machine

def State.setLayouts (s : State) (v : Layouts) : State := { s with layouts := v }

/-- The members of the current domain, ascending. -/
def State.domainParts (s : State) : List Nat := (List.range 8192).filter s.member

/-- A graph that holds READY back: a task of its step is placed (Table 16.5 step 3). -/
def Graph.busyStep (gr : Graph) : Bool := gr.phase ≠ .ended && gr.phase ≠ .boundary && gr.tasks.any fun t => t.st = .running

/-- Whether a collective of a graph is running or queued. -/
def Graph.collsOpen (gr : Graph) : Bool :=
  gr.phase ≠ .ended && (gr.recs.zip gr.tasks).any fun p => p.1.kind = 3 && (p.2.st = .running || p.2.st = .ready)

/-- Whether a job lets its part send READY (Table 16.5 step 3). -/
def State.layoutIdle (s : State) (job : Byte) : Bool :=
  [0, 1, 2, 3, 4, 5, 6, 7].all fun g => match s.graph g with
    | some gr => gr.hdr.job ≠ job || !(gr.busyStep || gr.collsOpen)
    | none => true

/-- The layout switch a job's part takes part in, and the one it coordinates. -/
def State.lpart (s : State) (job : Byte) : Option LPart := s.layouts.parts.find? fun p => p.job = job
def State.lcoord (s : State) (job : Byte) : Option LCoord := s.layouts.coords.find? fun p => p.job = job

/-- The part leaves a switch: its holds are gone (R484). -/
def State.leaveLayout (s : State) (job : Byte) : State :=
  s.setLayouts { s.layouts with parts := s.layouts.parts.filter fun p => p.job ≠ job }

/-- COMMIT on this part: the epoch changes, held steps and tasks go on (R481 to R483, Table 16.5 step 5). -/
def State.commitLayout (s : State) (job : Byte) (e : W16) : State :=
  let s : State := (s.leaveLayout job).setLayouts { (s.leaveLayout job).layouts with drops := s.layouts.drops.set 0 job.toNat 0 }
  let s : State := { s with layoutEpoch := s.layoutEpoch.set 0 job.toNat e }
  [0, 1, 2, 3, 4, 5, 6, 7].foldl (fun (s : State) (g : Nat) => match s.graph g with
    | some gr =>
      if gr.hdr.job = job && gr.tasks.any (fun t => t.st = .waitLayout) then
        s.setGraph g (some { gr with tasks := gr.tasks.map fun t => if t.st = .waitLayout then { t with st := .ready } else t })
      else s
    | none => s) s

/-- The coordinator ends its switch without COMMIT (R484, R485). -/
def State.abortLayout (s : State) (job : Byte) (status : Byte) (results : List W64) : State :=
  let s := (s.leaveLayout job).send (.mgmt none (.layoutAbort job))
  (s.setLayouts { s.layouts with coords := s.layouts.coords.filter fun c => c.job ≠ job }).replyWaiting (.layoutSwitch job) status results

/-- READY reaches the coordinator; with the last one it sends COMMIT and replies (Table 16.5 steps 4 to 6). -/
def State.layoutReadyFrom (s : State) (job : Byte) (part : Nat) : State :=
  match s.lcoord job with
  | none => s
  | some c =>
    let c' : LCoord := { c with ready := if c.ready.contains part then c.ready else c.ready ++ [part] }
    if s.domainParts.all fun n => c'.ready.contains n then
      let s := (s.setLayouts { s.layouts with coords := s.layouts.coords.filter fun x => x.job ≠ job }).send (.mgmt none (.layoutCommit job c.epoch))
      (s.commitLayout job c.epoch).replyWaiting (.layoutSwitch job) stOk []
    else s.setLayouts { s.layouts with coords := s.layouts.coords.map fun x => if x.job = job then c' else x }

/-- The part sends READY for every switch it prepares and is idle for (Table 16.5 step 3). -/
def State.checkLayouts (s : State) : State :=
  (s.layouts.parts.filter fun p => !p.ready && s.layoutIdle p.job).foldl (fun (s : State) (p : LPart) =>
    let s := s.setLayouts { s.layouts with parts := s.layouts.parts.map fun x => if x.job = p.job then { x with ready := true } else x }
    if p.coord = s.partNo then s.layoutReadyFrom p.job s.partNo else s.send (.mgmt (some p.coord) (.layoutReady p.job))) s

/-- PREPARE on this part (R481, Table 16.5 step 2). -/
def State.prepareLayout (s : State) (coord : Nat) (job : Byte) (e : W16) : State :=
  (s.setLayouts { s.layouts with parts := s.layouts.parts ++ [{ job := job, coord := coord, epoch := e }] }).checkLayouts

/-- A lost part aborts the switches it takes part in (R484). -/
def State.loseLayouts (s : State) (part : Nat) : State :=
  let s := s.layouts.coords.foldl (fun (s : State) (c : LCoord) => s.abortLayout c.job stPartLost [BitVec.ofNat 64 part]) s
  s.setLayouts { s.layouts with parts := s.layouts.parts.filter fun p => p.coord ≠ part }

end Sys2Proof.Machine
end

