-- ==== Sys2Proof/Machine/WeightState.lean ====
section
/-! DEFINITION. TAGS fields, a job's weight epoch, and the copies that old epochs hold (R71, R488, R503, R505, R507). -/

namespace Sys2Proof.Machine

/-! ### Fields of TAGS (Table 2.2) -/

def tagJob (w : W64) : Byte := bits w 0 8
def tagWeight (w : W64) : W16 := bits w 8 16
def tagLayout (w : W64) : W16 := bits w 24 16
def tagMb (w : W64) : W16 := bits w 40 16
def tagClass (w : W64) : BitVec 4 := bits w 56 4
/-- TAGS with another weight epoch (R71). -/
def setTagWeight (w : W64) (e : W16) : W64 := bits w 24 40 ++ e ++ bits w 0 8

/-! ### Weight epochs -/

def State.setWeights (s : State) (v : Weights) : State := { s with weights := v }

/-- A job's current weight epoch (R488). -/
def State.epochOf (s : State) (job : Byte) : W16 := s.weightEpoch.get 0 job.toNat

/-- The successor of an epoch (R488). -/
def nextEpoch (e : W16) : W16 := BitVec.ofNat 16 ((e.toNat + 1) % 0xFFFE)

/-- The weight switch a job takes part in. -/
def State.wpart (s : State) (job : Byte) : Option WPart := s.weights.parts.find? fun p => p.job = job

/-- Whether admissions of a job are held (Table 17.3 step 2). -/
def State.admitHeld (s : State) (job : Byte) : Bool := (s.wpart job).any fun p => p.commit.isNone

/-- Pairs (step, m) in order of step, then m. -/
def pairBefore (a b : W32 × Nat) : Bool := a.1.ult b.1 || (a.1 = b.1 && a.2 < b.2)

/-- The epoch that micro-batch `m` of a step takes at admission (R71, Table 17.3 step 4). -/
def State.epochFor (s : State) (job : Byte) (step : W32) (m : Nat) : W16 :=
  match s.wpart job with
  | some { commit := some b, epoch := e, .. } => if pairBefore (step, m) b then s.epochOf job else e
  | _ => s.epochOf job

/-- Whether a task may still run or be placed in this step. -/
def TaskSt.open_ (t : TaskSt) : Bool :=
  match t.st with
  | .done => false | .skipped => false | .aborted => false | _ => true

/-- Whether a task is queued, gated, ready, running or saved (R507). -/
def TaskSt.active (t : TaskSt) : Bool := t.open_ && t.st ≠ .waitPred && t.st ≠ .waitAdmit

/-- Whether a graph still carries a weight epoch: an admitted micro-batch stamped with it that has not retired, or an
active task (R507). -/
def Graph.carries (gr : Graph) (o : W16) : Bool :=
  gr.phase ≠ .ended && gr.tasks.any fun t =>
    (t.open_ && gr.stamps.any fun p => p.2 = o && p.1 = (tagMb t.tags).toNat) || (t.active && tagWeight t.tags = o)

/-- Whether any graph of a job carries an epoch. -/
def State.carries (s : State) (job : Byte) (o : W16) : Bool :=
  [0, 1, 2, 3, 4, 5, 6, 7].any fun g => (s.graph g).any fun gr => gr.hdr.job = job && gr.carries o

/-- Free the copies whose epoch nothing carries any more (R507). -/
def State.freeCopies (s : State) (job : Byte) : State :=
  s.setWeights { s.weights with
    held := s.weights.held.set [] job.toNat ((s.weights.held.get [] job.toNat).filter fun o => s.carries job o) }

/-- A job moves to epoch `e`: the copy of `e` is current, the old one is held while anything carries it (R503, R507). -/
def State.setEpoch (s : State) (job : Byte) (e : W16) : State :=
  let old := s.epochOf job
  let w := s.weights
  let s : State := { s with weightEpoch := s.weightEpoch.set 0 job.toNat e }
  (s.setWeights { w with
    parts := w.parts.filter fun p => p.job ≠ job
    held := w.held.set [] job.toNat (old :: w.held.get [] job.toNat)
    sets := w.sets.map fun x => if x.job = job && x.ncopy = 2 then { x with ready := [] } else x }).freeCopies job

/-- Whether a job has a graph that has not ended. -/
def State.jobRuns (s : State) (job : Byte) : Bool :=
  [0, 1, 2, 3, 4, 5, 6, 7].any fun g => (s.graph g).any fun gr => gr.hdr.job = job && gr.phase ≠ .ended

/-- A graph of a job has ended: what only it carried is free, and a committed switch takes effect where no graph of the job is
left to admit b (Table 17.3 step 4). -/
def State.graphGone (s : State) (job : Byte) : State :=
  match s.wpart job with
  | some { commit := some _, epoch := e, .. } => if s.jobRuns job then s.freeCopies job else s.setEpoch job e
  | _ => s.freeCopies job

end Sys2Proof.Machine
end

