-- ==== Sys2Proof/Machine/Tasks.lean ====
section
/-! DEFINITION. Shared operations on graphs and tasks: ending a graph (R50, R87, R123), traps (R123, R124),
freeing a task's contexts, slots and watches. -/

namespace Sys2Proof.Machine

/-- Change one graph. -/
def State.modGraph (s : State) (g : Nat) (f : Graph → Graph) : State :=
  match s.graph g with
  | some gr => s.setGraph g (some (f gr))
  | none => s

/-- Change one task's state. -/
def State.modTask (s : State) (g t : Nat) (f : TaskSt → TaskSt) : State :=
  s.modGraph g fun gr => { gr with tasks := gr.tasks.modify t f }

/-- A task's state. -/
def State.task (s : State) (g t : Nat) : Option TaskSt := (s.graph g).bind fun gr => gr.tasks[t]?
/-- A task's record. -/
def State.rec_ (s : State) (g t : Nat) : Option TaskRec := (s.graph g).bind fun gr => gr.recs[t]?

/-- Change one thread. -/
def State.modThread (s : State) (t : Nat) (f : Thread → Thread) : State :=
  match s.thread t with
  | some th => s.setThread t (some (f th))
  | none => s

/-- Change one stall. -/
def State.modStall (s : State) (k : Nat) (f : StallInfo → StallInfo) : State := s.setStall k (f (s.stall k))

/-- Priority class of a record (Table 2.2). -/
def TaskRec.prio (r : TaskRec) : Nat := r.ctrl.toNat % 4
/-- PHASE of a record (Table 2.2). -/
def TaskRec.phase (r : TaskRec) : Nat := r.ctrl.toNat / 4 % 4
/-- Thread count (Table 2.2). -/
def TaskRec.nthreads (r : TaskRec) : Nat := r.threads.toNat % 1024 + 1

/-! ### Ending a graph -/

/-- The body of a graph event (Table 18.5). -/
def graphEventBytes (event handle : Nat) (status : Byte) (step : W32) (cookie arg lc : W64) : List Byte :=
  [BitVec.ofNat 8 event, BitVec.ofNat 8 handle, status, 0] ++ leBytes 4 step.toNat ++ leBytes 8 cookie.toNat
    ++ leBytes 8 arg.toNat ++ leBytes 8 lc.toNat

/-- Post a graph event of a resident graph (Table 18.5). -/
def State.graphEvent (s : State) (g event : Nat) (status : Byte) (arg : W64) : State :=
  match s.graph g with
  | none => s
  | some gr => s.post 5 0 (graphEventBytes event g status gr.step gr.hdr.cookie arg s.hubLc)

/-- Whether a kind is probed before it starts: a collective, root or solve task (R413). -/
def TaskRec.probes (r : TaskRec) : Bool := r.kind = 3 || r.kind = 4 || r.kind = 5

/-- Whether a task has been placed and is not finished: running, held on its probe, or saved (R87, R413, R424). -/
def taskInFlight (r : TaskRec) (t : TaskSt) : Bool :=
  match t.st with
  | .running => true
  | .saved _ => true
  | .faultHeld _ => r.probes
  | _ => false

/-- Whether a graph has a task still to finish before it can end. -/
def Graph.anyRunning (gr : Graph) : Bool := (gr.recs.zip gr.tasks).any fun e => taskInFlight e.1 e.2

/-- What becomes of a task when its graph is to end: one already saved is not restored, and its record is discarded (DESIGN
CHOICE, log entry 124); the others keep their state. -/
def dropSaved (t : TaskSt) : TaskSt :=
  match t.st with
  | .saved _ => { t with st := .aborted, saved := none }
  | _ => t

/-- Remove watches of this part's tables. -/
def State.dropWatches (s : State) (p : Waiter → Bool) : State :=
  s.setBell { s.bell with watches := s.bell.watches.filter (fun w => !(p w.waiter)),
                          heldRegs := s.bell.heldRegs.filter (fun w => !(p w.waiter)) }

/-- The gate of a task leaves its table, here or on another part (R362). -/
def State.dropGate (s : State) (g t : Nat) : State :=
  match s.rec_ g t, s.task g t with
  | some r, some ts =>
    let s := s.dropWatches fun w => w = .gate g t
    if ts.st = .gated then s.unregister (r.gatePart.toNat % 8192) r.gateIndex (.gate g t) ts.gateWatch else s
  | _, _ => s

/-- The gates of tasks of a graph leave their tables. -/
def State.dropGates (s : State) (g : Nat) (ts : List Nat) : State := ts.foldl (fun (s : State) (t : Nat) => s.dropGate g t) s

/-- Whether an access was translated through a job's space; the digest tables of the Till groups count for every job. -/
def State.accessOf (s : State) (tags : W64) (o : ReqOwner) (job : Byte) : Bool :=
  match o with
  | .hub j _ => j = job
  | .posted j => j = job
  | .cmd q => s.host.cmds.any fun c => c.hdr.seq = q && c.hdr.job = job && c.wait ≠ .atomic
  | .sweep h _ => (s.sweeps.get none h).any fun w => w.left.head?.any fun e => e.job = job
  | .sweepWrite h => (s.sweeps.get none h).any fun w => w.left.head?.any fun e => e.job = job
  | .till _ => true
  | .signal => false
  | _ => tagJob tags = job

/-- Whether an access translated through a job's space is under way: a request to another part, sent or waiting for an id, or a Till
command write that waits at the hub (R304, R409, R453). -/
def State.accessing (s : State) (job : Byte) : Bool :=
  (s.fab.reqs.any fun r => s.accessOf r.pkt.tags r.owner job) || (s.fab.waiting.any fun r => s.accessOf r.1.tags r.2 job)
    || (s.till.waiting.any fun p => match p.who with
      | .owner o => s.accessOf (BitVec.ofNat 64 (leAt p.bytes 8 8)) o job
      | _ => false)

/-- XLT_INVALIDATE completes once no pin is left in its range and no access of the job is under way (R409). -/
def State.finishInvalidates (s : State) : State :=
  let done := s.host.cmds.filter fun c => match c.wait with
    | .invalidate job lo len =>
      !(s.accessing job) && !(s.xlt.pins.any fun p => p.job = job && (len = 0 || (p.page < lo + len && lo < p.page + p.size)))
    | _ => false
  done.foldl (fun s c => s.reply c stOk []) s

/-- Release pins (R413). -/
def State.unpin (s : State) (p : Pin → Bool) : State :=
  (s.setXlt { s.xlt with pins := s.xlt.pins.filter fun q => !(p q) }).finishInvalidates

/-- Local offset of a capture record (R340). -/
def recordOff (c : ReplayCfg) (i : Nat) : Nat := 0xE0000000000 + (c.hall + 1) * 0x4000000 - c.buf * 0x100000 + i * 65536

/-- An open capture of graph `g` takes STATE 3 (R343). -/
def State.abortCapture (s : State) (g : Nat) : State :=
  s.replay.cfgs.foldl (fun (s : State) (c : ReplayCfg) => match c.open_ with
    | some (h, i) =>
      if h = g then
        let s := s.poke (recordOff c i) [3]
        { s with replay := { s.replay with cfgs := s.replay.cfgs.map fun x => if x = c then { x with open_ := none } else x } }
      else s
    | none => s) s

/-- A replay whose graph ended before its step did answers with the graph's status (R345). -/
def State.endReplay (s : State) (g : Nat) (c : EndCause) : State :=
  match s.replay.runs.find? fun r => r.graph = g with
  | none => s
  | some r =>
    let s : State := { s with replay := { s.replay with runs := s.replay.runs.filter fun x => x.graph ≠ g } }
    s.replyWaiting (.replay r.job) c.status [BitVec.ofNat 64 g]

/-- Every thread there is: those in contexts, and those of saved tasks (R421). -/
def State.allThreads (s : State) : List Thread :=
  (s.threads.filterMap (·.2)) ++ s.graphs.flatMap fun p => match p.2 with
    | some gr => gr.tasks.flatMap fun ts => (ts.saved.map fun r => r.threads.map (·.2)).getD []
    | none => []

/-- ALLOC_FREE replies once no accepted move names a descriptor of the allocation (R135). -/
def State.finishAllocFrees (s : State) : State :=
  let moves := (s.allThreads.flatMap (·.moves)) ++ s.xlt.transfers.map (·.mv)
  let names := fun (h : W16) => moves.any fun m => (Desc.parse m.ds).alloc = h || (Desc.parse m.dd).alloc = h
  let done := s.host.cmds.filter fun c => match c.wait with
    | .allocFree h => !(names h)
    | _ => false
  done.foldl (fun s c => s.reply c stOk []) s

/-- The graph has ended: its event, its waiting GRAPH_STOP, and everything it still held but its handle and
claims (R87, R88, R413, R530); a task saved before a stop is not restored (DESIGN CHOICE, log entry 124). -/
def State.endGraph (s : State) (g : Nat) (c : EndCause) : State :=
  match s.graph g with
  | none => s
  | some gr =>
    let s := s.setGraph g (some { gr with phase := .ended, cause := some c, loading := none,
                                          tasks := gr.tasks.map fun t => { t with saved := none } })
    let s := (s.dropGates g (List.range gr.tasks.length)).finishAllocFrees
    let s : State := { s with rescale := s.rescale.filter (fun p => p.1 % 8 ≠ g), rescaleFull := s.rescaleFull &&& ~~~((0x01010101 : BitVec 32) <<< g) }
    let s := s.unpin fun p => p.graph = g
    let s := (s.abortCapture g).endReplay g c
    let s := ((s.graphEvent g 1 c.status c.param).graphGone gr.hdr.job).checkLayouts
    s.replyWaiting (.graphStop g) stOk [gr.step.setWidth 64, c.status.setWidth 64]

/-- Whether a thread of a graph still holds a context. -/
def State.hasThreads (s : State) (g : Nat) : Bool := s.threads.any fun p => p.2.any fun th => th.graph = g

/-- A graph on its way out ends once no task of it runs, and no accepted move of a trapped one (R50, R87, R123). -/
def State.settle (s : State) (g : Nat) : State :=
  match s.graph g with
  | some gr =>
    if gr.phase = .ending && !gr.anyRunning && !(s.hasThreads g) then s.endGraph g (gr.cause.getD ⟨0x21, 0⟩) else s
  | none => s

/-- The graph is to end with this status; the first cause stands (DEDUCED, log entry 5). No task of it is placed from now
on, and it ends once no task of it is in flight. -/
def State.failGraph (s : State) (g : Nat) (status : Byte) (param : W64) : State :=
  match s.graph g with
  | some gr =>
    if gr.phase = .ended then s
    else
      let tasks := if gr.phase = .ending then gr.tasks else gr.tasks.map dropSaved
      (s.setGraph g (some { gr with phase := .ending, tasks := tasks, cause := some (gr.cause.getD ⟨status, param⟩) })).settle g
  | none => s

/-! ### Freeing a task -/

/-- Requests of contexts that are free answer nobody any more. -/
def State.orphan (s : State) (keys : List Nat) : State :=
  let s := s.setFab { s.fab with
    reqs := s.fab.reqs.map (fun r => if r.owner.ofThread keys then { r with owner := .posted (tagJob r.pkt.tags) } else r)
    waiting := s.fab.waiting.map fun r => if r.2.ofThread keys then (r.1, .posted (tagJob r.1.tags)) else r }
  { s with till := { s.till with waiting := s.till.waiting.map fun w => match w.who with
      | .owner o => if o.ofThread keys then { w with who := .none } else w
      | _ => w } }

/-- The registration that a suspended thread waits on leaves its table, here or on another part (R362). -/
def State.dropWait (s : State) (k : Nat) (th : Thread) : State :=
  let s := s.dropWatches fun w => match w with
    | .thread x => x = k
    | .barrierWait x _ => x = k
    | _ => false
  match th.status with
  | .wait _ part i _ _ => s.unregister part i (.thread k) th.watch
  | .barrier _ part i _ => s.unregister part i (.thread k) th.watch
  | _ => s

/-- Contexts are freed: their watches go, and no answer finds them (R123, R362). -/
def State.freeContextsOf (s : State) (l : List (Nat × Thread)) : State :=
  let keys := l.map (·.1)
  let s := l.foldl (fun (s : State) (p : Nat × Thread) => s.dropWait p.1 p.2) s
  ({ s with threads := s.threads.filter fun p => !(keys.contains p.1) }).orphan keys

/-- A task's threads with their keys. -/
def State.taskThreads (s : State) (g t : Nat) : List (Nat × Thread) :=
  s.threads.filterMap fun p => match p.2 with
    | some th => if th.graph = g && th.task = t then some (p.1, th) else none
    | none => none

/-- Free a task's contexts. -/
def State.freeThreads (s : State) (g t : Nat) : State := s.freeContextsOf (s.taskThreads g t)

/-- Whether a thread has an accepted move that goes on without a translation fault, or writes of one under way. -/
def State.movesOn (s : State) (k : Nat) (th : Thread) : Bool :=
  (th.moves.any fun m => !m.finished && m.fault.isNone) || s.writesOut k

/-- The threads of a trapped task stop; those with accepted moves under way keep their contexts until these have finished
(R123). A move that waits for a translation fault ends there (DESIGN CHOICE, log entry 126). -/
def State.stopThreads (s : State) (g t : Nat) : State :=
  let l := s.taskThreads g t
  let s := s.freeContextsOf (l.filter fun p => !(s.movesOn p.1 p.2))
  (l.filter fun p => s.movesOn p.1 p.2).foldl (fun (s : State) (p : Nat × Thread) =>
    (s.dropWait p.1 p.2).setThread p.1 (some { p.2 with status := .stopped, watch := 0,
                                                        moves := p.2.moves.filter fun m => !m.finished && m.fault.isNone })) s

/-- A stopped thread whose last accepted move has finished leaves, and its graph may end (R123). -/
def State.reap (s : State) (k : Nat) : State :=
  match s.thread k with
  | some th =>
    if th.status = .stopped && !(s.movesOn k th) then ((s.freeContextsOf [(k, th)]).finishAllocFrees).settle th.graph else s
  | none => s

/-- Free a task's open and held slots, and its exact-slice mode, on a stall (R123, R178). -/
def StallInfo.freeTask (i : StallInfo) (g t : Nat) : StallInfo :=
  { i with slots := i.slots.filter (fun x => !(x.graph = g && x.task = t)),
           exact := i.exact.filter fun e => !(e.2.1 = g && e.2.2 = t),
           exactNext := i.exactNext.filter fun e => !(e.2.1 = g && e.2.2 = t) }

/-- Threads of a stall whose hold satisfies `p` become ready again. -/
def State.releaseHeld (s : State) (st : Nat) (p : HoldWhy → Nat → Bool) : State :=
  { s with threads := s.threads.map fun x => match x.2 with
      | some th => (match th.status with
        | .held w => if stallOf x.1 = st && p w x.1 then (x.1, some { th with status := .ready }) else x
        | _ => x)
      | none => x }

/-- A task's slots and exact-slice mode on its stall are free, and MMAs that waited for that mode to end may issue (R177,
R179). -/
def State.freeSlots (s : State) (g t : Nat) : State :=
  match (s.task g t).bind (·.place) with
  | none => s
  | some k =>
    let s' := s.modStall k fun i => i.freeTask g t
    if (s'.stall k).exact = (s.stall k).exact && (s'.stall k).exactNext = (s.stall k).exactNext then s'
    else s'.releaseHeld k fun w _ => w = .xmode

/-- A task leaves its stall: contexts, slots and exact-slice mode are free. -/
def State.freeTask (s : State) (g t : Nat) : State := ((s.freeThreads g t).finishAllocFrees).freeSlots g t

/-! ### Traps -/

/-- Trap causes (Table 3.16). -/
inductive Cause where
  | illegal | privilege | regEmpty | seal_ | descFormat | slotState | slotExhausted | scratchRange | software
  | illegalTarget | address | staleTag | barrierOverrun
  deriving DecidableEq, Repr

/-- The code of a trap cause (Table 3.16). -/
def Cause.code : Cause → Byte
  | .illegal => 0x01 | .privilege => 0x02 | .regEmpty => 0x03 | .seal_ => 0x04 | .descFormat => 0x05
  | .slotState => 0x06 | .slotExhausted => 0x07 | .scratchRange => 0x08 | .software => 0x09
  | .illegalTarget => 0x0A | .address => 0x0B | .staleTag => 0x0C | .barrierOverrun => 0x0D

/-- The 64 bytes of a trap record (Table 3.15). -/
def TrapRec.bytes (r : TrapRec) : List Byte :=
  [r.cause, BitVec.ofNat 8 r.graph] ++ leBytes 2 r.thread ++ leBytes 2 r.context ++ leBytes 2 r.stall.toNat
    ++ leBytes 8 r.pc.toNat ++ leBytes 8 r.insn.toNat ++ leBytes 8 r.tags.toNat ++ leBytes 4 r.task ++ leBytes 4 0
    ++ leBytes 8 r.detail.toNat ++ leBytes 8 r.lc.toNat ++ leBytes 8 0

/-- The tags of a thread's task. -/
def State.threadTags (s : State) (th : Thread) : W64 := ((s.task th.graph th.task).map (·.tags)).getD 0

/-- The trap of a thread at context `k`: the trap record, the fault record, the end of its task once its accepted moves have
finished and, once nothing of it runs, of its graph (R123, R124). -/
def State.trapThread (s : State) (k : Nat) (th : Thread) (cause : Cause) (detail : W64) (insn : W64) : State :=
    let st := stallOf k
    let r : TrapRec :=
      { cause := cause.code, graph := th.graph, thread := th.idx, context := k % 1024, stall := logicalStall st,
        pc := th.pc, insn := insn, tags := s.threadTags th, task := th.task, detail := detail,
        lc := s.hallLc (hallOf st) }
    let s := s.modStall st fun i => { i with trapLog := (r :: i.trapLog).take 16 }
    let d := BitVec.ofNat 64 (cause.code.toNat + (k % 1024) * 256 + th.task * 2 ^ 24)
    let s := ((s.stallFault st .trap 7 r.tags d).traceStall st 3 th.task).count .traps (hallOf st) 1
    let s := ((s.stopThreads th.graph th.task).finishAllocFrees).freeSlots th.graph th.task
    let s := s.modTask th.graph th.task fun ts => { ts with st := .aborted, place := none, saved := none, saving := none }
    s.failGraph th.graph 0x26 (BitVec.ofNat 64 (th.task + cause.code.toNat * 2 ^ 24))

/-- A thread traps (R123, R124). -/
def State.trap (s : State) (k : Nat) (cause : Cause) (detail : W64) (insn : W64) : State :=
  match s.thread k with
  | none => s
  | some th => s.trapThread k th cause detail insn

end Sys2Proof.Machine
end

