-- ==== Sys2Proof/Machine/SaveArea.lean ====
section
/-! DEFINITION. Room in the save areas (R420, R421, R423) and a stall thread's translation fault (Table 14.5). -/

namespace Sys2Proof.Machine

/-- Whether a hall executes: not fenced, and its handshakes not held by the orderly stop (R579). -/
def State.hallRuns (s : State) (h : Nat) : Bool := !(s.hall h).fenced && s.power.supply = .on

/-- Whether a stall issues instructions. -/
def State.stallRuns (s : State) (st : Nat) : Bool :=
  s.hallRuns (hallOf st) && !(s.aisle (aisleOf st)).fenced && !(s.stall st).fenced

/-- Physical slots a list of slots takes: half-slot pairs share one unless widened, FP64 mode takes 3, Q mode 2
(R170, R182, R237). -/
def physSlots (l : List Slot) : Nat :=
  let whole := l.foldl (fun n x => n + (match x.kind with
    | .fp64 => 3 | .q => 2 | .f32 => 1 | .i32 => 1 | .f16 => if x.widened then 1 else 0)) 0
  let halves := l.filter fun x => x.kind = .f16 && !x.widened
  let keys := (halves.map fun x => (x.owner, x.idx % 64)).eraseDups
  keys.foldl (fun n k =>
    let at_ := fun i => (halves.filter fun x => x.owner = k.1 && x.idx = i).length
    n + max (at_ k.2) (at_ (k.2 + 64))) whole

/-- Physical slots in use on a stall: open, held and draining (R172). -/
def StallInfo.usedSlots (i : StallInfo) : Nat := physSlots (i.slots ++ i.drains.map (·.slot))

/-- The open and held slots of a task on its stall. -/
def State.taskSlots (s : State) (g t : Nat) : List Slot :=
  match (s.task g t).bind (·.place) with
  | some k => (s.stall k).slots.filter fun x => x.graph = g && x.task = t
  | none => []

/-- The size of a save record (R421). -/
def recordSize (threads nslot span : Nat) : Nat :=
  cdiv (256 + 2064 * threads + 512 + 4096 * nslot + 128 * span) 4096 * 4096

/-- The size of a task's record as it stands. -/
def State.taskRecord (s : State) (g t : Nat) : Nat :=
  let span := match (s.task g t).bind (·.span) with | some (a, b) => b - a + 1 | none => 0
  recordSize (s.taskThreads g t).length (physSlots (s.taskSlots g t)) span

/-- Records in a hall's save area: offset and size, reserved or written. -/
def State.records (s : State) (h : Nat) : List (Nat × Nat) :=
  [0, 1, 2, 3, 4, 5, 6, 7].flatMap fun g => match s.graph g with
    | none => []
    | some gr => gr.tasks.flatMap fun ts =>
      (match ts.saved with | some r => if r.hall = h then [(r.off, r.bytes)] else [] | none => [])
      ++ (match ts.saving, ts.place with
        | some (_, _, off, n), some k => if hallOf k = h then [(off, n)] else []
        | _, _ => [])

/-- A place of `n` bytes in a hall's save area, the lowest that is free (R423). -/
def State.findRoom (s : State) (h n : Nat) : Option Nat :=
  match s.xlt.saveAreas.get none h with
  | none => none
  | some a =>
    let rs := s.records h
    let cand := a.off :: rs.map fun r => r.1 + r.2
    let ok := cand.filter fun o => o + n ≤ a.off + a.size && rs.all fun r => o + n ≤ r.1 || r.1 + r.2 ≤ o
    ok.foldl (fun m o => match m with | none => some o | some x => some (min x o)) none

/-- Begin the save of a running task: reserve its record and stop its issue. None when the area lacks the room
(R423, Table 14.7 step 1). -/
def State.beginSave (s : State) (g t : Nat) (cause : SaveCause) (fid : Nat) : Option State :=
  match (s.task g t).bind (·.place) with
  | none => none
  | some k =>
    let n := s.taskRecord g t
    (s.findRoom (hallOf k) n).map fun off => s.modTask g t fun ts => { ts with saving := some (cause, fid, off, n) }

/-- Whether a thread of the task waits on a translation fault, itself or through a move (R423). -/
def State.taskFaulted (s : State) (g t : Nat) : Bool :=
  (s.taskThreads g t).any fun p => (match p.2.status with | .fault _ => true | _ => false) || p.2.moves.any fun m => m.fault.isSome

/-- SOURCE of a stall thread's fault (Table 14.4). -/
def faultSource (st task graph : Nat) : W64 :=
  BitVec.ofNat 64 ((logicalStall st).toNat + task * 2 ^ 16 + graph * 2 ^ 40)

/-- A stall thread meets a translation fault: the task is saved with the fault id, or waits in place where the save
area lacks the room (R410, R412, R423). The thread itself waits on the fault. -/
def State.threadFault (s : State) (k : Nat) (th : Thread) (kind va lo size : Nat) : State :=
  let (id, s) := s.raise (hallOf (stallOf k)) 1 (tagJob (s.threadTags th)) kind va lo size
    (faultSource (stallOf k) th.task th.graph)
  let s := s.setThread k (some { th with status := .fault id })
  match (s.task th.graph th.task).bind (·.saving) with
  | some _ => s
  | none => (s.beginSave th.graph th.task .fault id).getD s

end Sys2Proof.Machine
end

