-- ==== Sys2Proof/Machine/Issue.lean ====
section
/-! DEFINITION. Issue of a thread instruction (R99, R115, R116): the instruction words (Tables 3.3 to 3.14), the
conditions under which a thread issues, holds against pending moves and drains, and retirement. -/

namespace Sys2Proof.Machine

/-! ### Instruction words -/

def scalarWord (op : BitVec 6) (f : ScalarF) : W64 := (0 : BitVec 4) ++ op ++ f.xd ++ f.xa ++ BitVec.ofBool f.i ++ f.low
def controlWord (op : BitVec 6) (f : ControlF) : W64 :=
  (1 : BitVec 4) ++ op ++ f.xa ++ f.xb ++ f.xl ++ BitVec.ofBool f.link ++ f.rsv ++ f.offs
def tensorWord (op : BitVec 6) (f : TensorF) : W64 :=
  (2 : BitVec 4) ++ op ++ f.slot ++ BitVec.ofBool f.sh ++ f.da ++ f.xia ++ f.db ++ f.xib ++ f.dc ++ f.xic ++ f.fmt
    ++ f.accw ++ BitVec.ofBool f.beginF ++ BitVec.ofBool f.close ++ f.drain ++ f.cc ++ BitVec.ofBool f.tap ++ f.tslot
def chainWord (op : BitVec 6) (f : ChainF) : W64 :=
  (3 : BitVec 4) ++ op ++ f.ds ++ f.xis ++ f.ds2 ++ f.xis2 ++ BitVec.ofBool f.s2en ++ f.dd ++ f.xid ++ f.cc ++ f.mreg
    ++ BitVec.ofBool f.men ++ f.rsv
def copyWord (op : BitVec 6) (f : CopyF) : W64 :=
  (4 : BitVec 4) ++ op ++ f.ds ++ f.xis ++ f.dd ++ f.xid ++ BitVec.ofBool f.async ++ f.tok ++ f.perm ++ f.rsv
def moveRegWord (op : BitVec 6) (f : MoveRegF) : W64 :=
  (4 : BitVec 4) ++ op ++ f.xa ++ f.dreg ++ f.dsrc ++ f.creg ++ f.mreg ++ f.rsv
def syncWord (op : BitVec 6) (f : SyncF) : W64 :=
  (5 : BitVec 4) ++ op ++ f.xd ++ f.xa ++ f.xb ++ f.cmp ++ f.timeout ++ f.tokmask ++ f.rsv
def privWord (op : BitVec 6) (f : PrivF) : W64 :=
  (6 : BitVec 4) ++ op ++ f.xd ++ f.xa ++ f.dreg ++ f.slot ++ f.nm1 ++ f.mode ++ f.rsv

/-! ### Issue -/

/-- Whether a thread can issue: it is ready, its stall runs, and its task is neither being saved nor suspended on a
fault, and HBM serves requests (R126, R399, R423). -/
def State.canIssue (s : State) (k : Nat) (th : Thread) : Bool :=
  th.status = .ready && !s.hbmHeld && s.stallRuns (stallOf k) && ((s.task th.graph th.task).all fun ts => ts.saving.isNone)
    && !(s.taskFaulted th.graph th.task)

/-- What the fetch at a thread's PC gives (R98, R103). -/
inductive Fetch where
  | word (w : W64)
  /-- The word lies on another part, at this fabric physical address. -/ | away (pa : Nat)
  | fault (kind va lo size : Nat)
  | err (addr : Nat) (poison : Bool)
  deriving DecidableEq, Repr

/-- The word another part sent for the address at PC. -/
def Thread.fetchedWord (th : Thread) : Option W64 :=
  match th.fetched with
  | some (a, w) => if a = th.pc then some w else none
  | none => none

/-- Fetch the instruction word at PC through the job's space (R98, R103, R401). -/
def State.fetch (s : State) (th : Thread) : Fetch :=
  match th.fetchedWord with
  | some w => .word w
  | none => match s.vread (tagJob (s.threadTags th)) .fetch th.pc.toNat 8 with
    | .ok bs => .word (BitVec.ofNat 64 (ofLe bs))
    | .remote _ pa _ => .away pa
    | .fault k va lo sz => .fault k va lo sz
    | .err a p => .err a p

/-- Whether a word's CLASS is not reserved and its OP is listed for it (R98, Tables 3.4 to 3.14). -/
def wordListed (w : W64) : Bool :=
  let op := (bits w 54 6).toNat
  match (bits w 60 4).toNat with
  | 0 => op ≤ 0x12
  | 1 => op ≤ 0x06 || op = 0x08 || op = 0x0E || op = 0x0F
  | 2 => op ≤ 0x02
  | 3 => op = 0x00
  | 4 => op ≤ 0x02 || (0x08 ≤ op && op ≤ 0x0E)
  | 5 => op ≤ 0x05
  | 6 => op ≤ 0x03
  | _ => false

/-- The issue targets of a stall (R118). -/
inductive Target where
  | scalar | mxa | vch | lyt | bell
  deriving DecidableEq, Repr

/-- The target of a word's class (Table 3.2); the privileged class, issued per OP, goes to the scalar unit (DESIGN CHOICE, log entry
127). -/
def targetOf (w : W64) : Target :=
  match (bits w 60 4).toNat with
  | 2 => .mxa
  | 3 => .vch
  | 4 => .lyt
  | 5 => .bell
  | _ => .scalar

/-- The target of a thread's next instruction, once its word is known. -/
def State.nextTarget (s : State) (th : Thread) : Option Target :=
  match s.fetch th with
  | .word w => some (targetOf w)
  | _ => none

/-- The priority class of a thread: its task's PRIO (R118). -/
def State.threadPrio (s : State) (th : Thread) : Nat := ((s.rec_ th.graph th.task).map (·.prio)).getD 0

/-- Whether the TSQ takes `a` before `b`: a lower class, then the less recently issued thread (R118). -/
def State.issuesBefore (s : State) (a b : Thread) : Bool :=
  s.threadPrio a < s.threadPrio b || (s.threadPrio a = s.threadPrio b && a.issued < b.issued)

/-- Whether another thread of the stall that can issue to the same target goes first (R118). -/
def State.outranked (s : State) (k : Nat) (th : Thread) : Bool :=
  s.threads.any fun p => match p.2 with
    | some o => p.1 ≠ k && stallOf p.1 = stallOf k && s.canIssue p.1 o && s.issuesBefore o th
        && (s.nextTarget o).isSome && s.nextTarget o = s.nextTarget th
    | none => false

/-- Whether a thread may issue: it can, and the TSQ chooses no other thread for its target (R118). -/
def State.mayIssue (s : State) (k : Nat) (th : Thread) : Bool := s.canIssue k th && !(s.outranked k th)

/-- A fetch from another part's page sends its READ; the thread waits for the answer (R103, R452). -/
def State.fetchAway (s : State) (k : Nat) (th : Thread) (pa : Nat) : State :=
  (s.setThread k (some { th with status := .fetching })).remoteRead (.fetch k th.pc) (s.threadTags th) true (pa / 64 * 64) 64

/-- Run an instruction of a thread that may issue and whose PC holds its word. A fetch that faults or fails takes
its own path, and a word that is no instruction traps with ILLEGAL (R99); nothing happens where the PC holds another
instruction (DESIGN CHOICE, log entry 6). -/
def issue (t : ThreadRef) (word : W64) (s : State) (f : Nat → Thread → State → State) :
    Host.Outcome State Fault Refusal :=
  match s.thread (tkey t) with
  | some th =>
    if s.mayIssue (tkey t) th then
      match s.fetch th with
      | .word w =>
        if w = word then .next (f (tkey t) th s)
        else if wordListed w then .next s else .next (s.trap (tkey t) .illegal 0 w)
      | .away pa => .next (s.fetchAway (tkey t) th pa)
      | .fault k va lo sz => .next (s.threadFault (tkey t) th k va lo sz)
      | .err a p => .next ((s.accessFault (hallOf (skey t.st)) p a (s.threadTags th)).trap (tkey t) .address
          (BitVec.ofNat 64 a) 0)
    else .next s
  | none => .next s

/-- An X register (Table 3.1). -/
def Thread.xr (th : Thread) (i : BitVec 5) : W64 := th.x.get 0 i.toNat
/-- The thread with an X register written. -/
def Thread.setX (th : Thread) (i : BitVec 5) (v : W64) : Thread := { th with x := th.x.set 0 i.toNat v }
/-- A D register; empty is none (R96). -/
def Thread.dr (th : Thread) (i : BitVec 4) : Option W512 := th.d.get none i.toNat
/-- The thread with a D register written. -/
def Thread.setD (th : Thread) (i : BitVec 4) (v : Option W512) : Thread := { th with d := th.d.set none i.toNat v }
/-- A tile origin: 31 names the zero origin (R100). -/
def Thread.originOf (th : Thread) (i : BitVec 5) : W64 := if i = 31 then 0 else th.xr i

/-- The thread after an instruction issued: PC on the next instruction, most recently issued (R115, R118). -/
def State.retire (s : State) (k : Nat) (th : Thread) : State :=
  (s.setThread k (some { th with pc := th.pc + 8, issued := s.clock, fetched := none })).tick

/-- The thread past the instruction it was suspended in. -/
def Thread.past (th : Thread) : Thread := { th with status := .ready, pc := th.pc + 8, fetched := none, watch := 0 }

/-- The thread after a taken transfer of control. -/
def State.retireTo (s : State) (k : Nat) (th : Thread) (pc : W64) : State :=
  (s.setThread k (some { th with pc := pc, issued := s.clock, fetched := none })).tick

/-! ### Stall-local stores -/

/-- Bytes of scratch (space 0) or of the aisle store (space 1) as a stall sees them (Table 4.3). -/
def State.sread (s : State) (st space a n : Nat) : List Byte :=
  if space = 0 then s.scratch.read (st * 786432 + a) n else s.aisleMem.read (aisleOf st * 4194304 + a) n
/-- Write bytes of scratch or of the aisle store. -/
def State.swrite (s : State) (st space a : Nat) (bs : List Byte) : State :=
  if space = 0 then { s with scratch := s.scratch.write (st * 786432 + a) bs }
  else { s with aisleMem := s.aisleMem.write (aisleOf st * 4194304 + a) bs }

/-- Record that a task touched scratch lines (R422). -/
def State.touch (s : State) (g t : Nat) (lo hi : Nat) : State :=
  s.modTask g t fun ts =>
    { ts with span := match ts.span with
        | none => some (lo / 128, hi / 128)
        | some (a, b) => some (min a (lo / 128), max b (hi / 128)) }

/-! ### Holds (R116) -/

/-- A run of bytes `[lo, hi)` in a space. -/
structure Run where
  space : Nat
  lo : Nat
  hi : Nat
  deriving DecidableEq, Repr

/-- Whether any run of one list meets any of the other. -/
def runsMeet (a b : List Run) : Bool := a.any fun x => b.any fun y => x.space = y.space && x.lo < y.hi && y.lo < x.hi

/-- The index lists of the rows of a region: dimensions 4 to 1. -/
def rowIdx (o : List Nat) (ext : List Nat) : List (List Nat) :=
  let r := fun i => (List.range (ext.getD i 1)).map fun j => o.getD i 0 + j
  (r 4).flatMap fun i4 => (r 3).flatMap fun i3 => (r 2).flatMap fun i2 => (r 1).map fun i1 => [o.getD 0 0, i1, i2, i3, i4]

/-- The bytes a region of a descriptor touches, with the scale bytes of its blocks: reads clamp, writes beyond
the extent are discarded (R147, R148). -/
def Desc.runs (d : Desc) (o ext : List Nat) (write : Bool) : List Run :=
  let n := ext.getD 0 1
  (rowIdx o ext).flatMap fun i =>
    if write && d.outside i then []
    else
      let a := d.clamped i
      let b := d.clamped (i.set 0 (i.getD 0 0 + n - 1))
      let e : Run := ⟨d.space, d.elemBit a / 8, (d.elemBit b + fmtBits d.fmt - 1) / 8 + 1⟩
      if d.scale = 0 then [e]
      else [e, ⟨d.space, d.scaleBase + d.block a, d.scaleBase + d.block b + 1⟩,
               ⟨d.space, d.flagBase + d.block a / 8, d.flagBase + d.block b / 8 + 1⟩]

/-- The extents of the moved shape of a copy or PASS (R146). -/
def Desc.movedExt (d : Desc) : List Nat := [0, 1, 2, 3, 4].map fun i => if d.isSel i then 1 else d.extent i

/-- A tile's extents. -/
def tileExt : List Nat := [32, 32, 1, 1, 1]
/-- The extents of a tile of a descriptor: every slice of one with slices (R180, R204). -/
def Desc.tileExt (d : Desc) : List Nat := if d.fmt = 0xB then Machine.tileExt.set 2 (d.extent 2) else Machine.tileExt

/-- PERM of a move: the source dimension of each destination dimension (Table 3.10). -/
def permOf (op : Nat) (p : BitVec 15) : List Nat :=
  if op = 0 then [0, 1, 2, 3, 4] else if op = 1 then [1, 0, 2, 3, 4]
  else [0, 1, 2, 3, 4].map fun i => (bits p (3 * i) 3).toNat

/-- The extents a move reads of its source: dimension `perm[i]` moves with destination dimension `i`; a selector
supplies one index (R146). -/
def srcExt (ds : Desc) (perm ext : List Nat) : List Nat :=
  [0, 1, 2, 3, 4].map fun j =>
    if ds.isSel j then 1
    else match (List.range 5).find? fun i => perm.getD i 0 = j with
      | some i => ext.getD i 1
      | none => 1

/-- The destination bytes of a pending move. -/
def Move.dstRuns (m : Move) : List Run :=
  (Desc.parse m.dd).runs (originIdx m.od) (Desc.parse m.dd).movedExt true
/-- The source bytes of a pending move. -/
def Move.srcRuns (m : Move) : List Run :=
  (Desc.parse m.ds).runs (originIdx m.os) (srcExt (Desc.parse m.ds) (permOf m.op m.perm) (Desc.parse m.dd).movedExt) false

/-- The tile a drain will write. -/
def Drain.dstRuns (d : Drain) : List Run := (Desc.parse d.dc).runs (originIdx d.origin) (Desc.parse d.dc).tileExt true

/-- Why a thread's next instruction must wait before it reads and writes these bytes (R116): a pending move's
destination, a write into a pending move's source, or a tile still draining. -/
def State.holdFor (s : State) (k : Nat) (th : Thread) (reads writes : List Run) : Option HoldWhy :=
  if th.moves.any fun m => runsMeet m.dstRuns (reads ++ writes) || runsMeet m.srcRuns writes then some .move
  else if (s.stall (stallOf k)).drains.any fun d => d.owner = k && runsMeet d.dstRuns (reads ++ writes) then some .drain
  else none

/-- A thread that wrote scratch loses the operand reuse of R161. -/
def Thread.wroteScratch (th : Thread) : Thread := { th with reuseA := none, reuseB := none }

/-- Hold the thread's next instruction. -/
def State.hold (s : State) (k : Nat) (th : Thread) (w : HoldWhy) : State :=
  s.setThread k (some { th with status := .held w })

/-- Run `f` unless the instruction must wait (R116). -/
def State.unlessHeld (s : State) (k : Nat) (th : Thread) (reads writes : List Run) (f : State) : State :=
  match s.holdFor k th reads writes with
  | some w => s.hold k th w
  | none => f

end Sys2Proof.Machine
end

