-- ==== Sys2Proof/Machine/Elem.lean ====
section
/-! DEFINITION. Elements of stall-local tensors: reads with clamping (R147), writes with conversion, flags and
scale bytes (R148, R203), and the tiles the MXA reads (R160). -/

namespace Sys2Proof.Machine

/-- `w` bits at a bit address of a stall-local store. -/
def State.sreadBits (s : State) (st space bit w : Nat) : Nat :=
  let n := (bit % 8 + w + 7) / 8
  ofLe (s.sread st space (bit / 8) n) / 2 ^ (bit % 8) % 2 ^ w
/-- Replace `w` bits at a bit address of a stall-local store. -/
def State.swriteBits (s : State) (st space bit w v : Nat) : State :=
  let n := (bit % 8 + w + 7) / 8
  let old := ofLe (s.sread st space (bit / 8) n)
  let lo := old % 2 ^ (bit % 8)
  let hi := old / 2 ^ (bit % 8 + w) * 2 ^ (bit % 8 + w)
  s.swrite st space (bit / 8) (leBytes n (hi + v % 2 ^ w * 2 ^ (bit % 8) + lo))

/-- The scale byte of an element's block; 127 for an unscaled tensor. -/
def State.scaleByte (s : State) (st : Nat) (d : Desc) (idx : List Nat) : Nat :=
  if d.scale = 0 then 127 else ofLe (s.sread st d.space (d.scaleBase + d.block idx) 1)

/-- The raw element and scale byte a read returns: clamped, or zero beyond the extent with ZFILL (R147). -/
def State.readElem (s : State) (st : Nat) (d : Desc) (idx : List Nat) : Nat × Nat :=
  let i := d.clamped idx
  let raw := if d.zfill && d.beyond idx then 0 else s.sreadBits st d.space (d.elemBit i) (fmtBits d.fmt)
  (raw, s.scaleByte st d i)

/-- The exact value of an element with its scale (R202). -/
def Desc.value (d : Desc) (e : Nat × Nat) : FVal := if d.scale = 0 then fmtDecode d.fmt e.1 else fmtScaled d.fmt e.1 e.2

/-- The value of an element. -/
def State.readVal (s : State) (st : Nat) (d : Desc) (idx : List Nat) : FVal := d.value (s.readElem st d idx)

/-- Set the overflow flag of a block (R133, R203). -/
def State.setFlag (s : State) (st : Nat) (d : Desc) (blk : Nat) (v : Bool) : State :=
  s.swriteBits st d.space (8 * d.flagBase + blk) 1 (if v then 1 else 0)

/-- Write a raw element; a write beyond the extent is discarded (R148). -/
def State.writeRaw (s : State) (st : Nat) (d : Desc) (idx : List Nat) (raw : Nat) : State :=
  if d.outside idx then s else s.swriteBits st d.space (d.elemBit idx) (fmtBits d.fmt) raw

/-- Convert a value to a descriptor's format, with the block's stored scale byte (R203, R215). -/
def Desc.convert (d : Desc) (scale : Nat) (v : FVal) : Conv :=
  if d.scale ≠ 0 && scale = 0xFF then { raw := 0 }
  else fmtConvert d.fmt (if d.scale = 0 then v else v.scale (127 - (scale : Int)))

/-- Write a converted element: its bits, its block's flag and NaN mark, and the stall's count (Table 6.6). -/
def State.writeConv (s : State) (st : Nat) (d : Desc) (idx : List Nat) (c : Conv) : State :=
  if d.outside idx then s
  else
    let s := s.swriteBits st d.space (d.elemBit idx) (fmtBits d.fmt) c.raw
    let s := if d.scale ≠ 0 && c.flag then s.setFlag st d (d.block idx) true else s
    let s := if d.scale ≠ 0 && c.nanBlock then s.swrite st d.space (d.scaleBase + d.block idx) [0xFF] else s
    if c.counted then s.count .conversions (hallOf st) 1 else s

/-- Write a value (R203). -/
def State.writeVal (s : State) (st : Nat) (d : Desc) (idx : List Nat) (v : FVal) : State :=
  s.writeConv st d idx (d.convert (s.scaleByte st d idx) v)

/-- Indices of a tile's elements in row-major order at an origin. -/
def tileIdx (o : List Nat) : List (List Nat) :=
  (List.range 32).flatMap fun r => (List.range 32).map fun c =>
    [o.getD 0 0 + c, o.getD 1 0 + r, o.getD 2 0, o.getD 3 0, o.getD 4 0]

/-- The 1,024 values of an operand tile, row-major (R146). -/
def State.readTile (s : State) (st : Nat) (d : Desc) (origin : W64) : List FVal :=
  (tileIdx (originIdx origin)).map fun i => s.readVal st d i

/-- The slices of an operand tile: `n` raw tiles one after another (R180). -/
def State.readSlices (s : State) (st : Nat) (d : Desc) (origin : W64) (n : Nat) : List FVal :=
  let o := originIdx origin
  (List.range n).flatMap fun j => (tileIdx (o.set 2 j)).map fun i => FVal.ofInt ((s.readElem st d i).1 : Nat)

end Sys2Proof.Machine
end

