-- ==== Sys2Proof/Machine/Chain.lean ====
section
/-! DEFINITION. The vector chain and reduction unit (chapter 6): configuration and legality (R194 to R199),
stages (Table 6.3), reductions (R207, R208), direct conversions (R201, R204) and random bits (R211). -/

namespace Sys2Proof.Machine

/-- A stage word (Table 6.2). -/
structure Stage where
  opc : Nat
  selA : Nat
  selB : Nat
  mod : Nat
  imm : Nat
  deriving DecidableEq, Repr

/-- A chain configuration (Table 6.1); `stages` holds ST1 to ST8. -/
structure ChainCfg where
  nst : Nat
  rop : Nat
  rtap : Nat
  rout : Nat
  mz : Bool
  rsv : Nat
  stages : List Stage
  deriving DecidableEq, Repr

/-- The fields of a stage word. -/
def Stage.parse (w : Nat) : Stage := ⟨w % 16, w / 16 % 8, w / 128 % 8, w / 1024 % 4, w / 4096 % 65536⟩

/-- The fields of a C register. -/
def ChainCfg.parse (c : W256) : ChainCfg where
  nst := (bits c 0 4).toNat
  rop := (bits c 4 4).toNat
  rtap := (bits c 8 4).toNat
  rout := (bits c 12 2).toNat
  mz := bit c 14
  rsv := (bits c 15 17).toNat
  stages := (List.range 8).map fun i => Stage.parse (bits c (32 + 28 * i) 28).toNat

/-- A stage that is not configured. -/
def Stage.zero (w : Stage) : Bool := w.opc = 0 && w.selA = 0 && w.selB = 0 && w.mod = 0 && w.imm = 0

/-- Stages that use both operands. -/
def Stage.two (w : Stage) : Bool := [0x2, 0x3, 0x4, 0x5, 0xA, 0xB, 0xC, 0xF].contains w.opc
/-- Whether a stage selects K, as an operand or as C of an FMA. -/
def Stage.usesK (w : Stage) : Bool := w.selA = 3 || (w.two && w.selB = 3) || (w.opc = 5 && w.mod = 2)
/-- Whether a stage selects an operand code. -/
def Stage.selects (w : Stage) (k : Nat) : Bool := w.selA = k || w.selB = k
/-- Whether a stage reads X2. -/
def Stage.readsX2 (w : Stage) : Bool := w.selects 2 || (w.opc = 5 && w.mod = 1)
/-- Whether a stage reads RA. -/
def Stage.readsRA (w : Stage) : Bool := w.selects 4 || (w.opc = 5 && w.mod = 3)
/-- Whether a stage reads RB. -/
def Stage.readsRB (w : Stage) : Bool := w.selects 5

/-- The bits of a stage that Table 6.3 does not use are zero, and its codes are in range (R198, R230). -/
def Stage.legal (w : Stage) : Bool :=
  if w.opc = 0 then false
  else if w.opc = 1 then
    if w.mod = 0 then w.selB = 0 && w.selA ≠ 3 && w.imm / 32 = 0 && [0, 1, 2, 3, 9].contains (w.imm % 32)
    else w.mod = 1 && w.selA = 1 && (w.selB = 2 || w.selB = 6)
  else if w.opc = 0xD then w.selA = 0 && w.selB = 0 && w.mod = 0 && w.imm < 0xFFF0
  else if w.opc = 0xE then w.selB = 0 && w.selA ≠ 3
  else
    (w.two || w.selB = 0)
      && (w.opc = 5 || w.opc = 0xC || (w.opc = 0xF && w.mod ≤ 1) || w.mod = 0)
      && (w.usesK || w.imm = 0)

/-- The configured stages with their positions from 1. -/
def ChainCfg.used (c : ChainCfg) : List (Nat × Stage) :=
  (List.range (min c.nst 8)).map fun i => (i + 1, c.stages.getD i ⟨0, 0, 0, 0, 0⟩)

/-- Whether a reduction yields RB. -/
def ropHasRB (r : Nat) : Bool := r = 5 || r = 7

/-- The conditions of R198; false means ILLEGAL. -/
def ChainCfg.legal (c : ChainCfg) (s2en drain : Bool) : Bool :=
  let us := c.used
  c.nst ≤ 8 && us.all (fun p => p.2.legal)
    && us.all (fun p => !(p.2.readsX2) || (s2en && !drain))
    && us.all (fun p => !(p.2.readsRA || p.2.readsRB) || (p.1 > c.rtap && c.rop ≠ 0))
    && us.all (fun p => !(p.2.readsRB) || ropHasRB c.rop)
    && c.rtap ≤ c.nst && (c.rop ≠ 0 || (c.rtap = 0 && c.rout = 0))
    && (c.rout = 0 || (c.rtap = c.nst && !drain && us.all fun p => !(p.2.readsRA || p.2.readsRB)))
    && us.all (fun p => !(p.2.opc = 1 && p.2.mod = 1) || c.nst = 1)
    && us.all (fun p => p.2.opc ≠ 0xF || (p.1 = c.nst && c.rtap ≠ p.1))
    && c.rsv = 0 && c.rop ≤ 8 && c.rout ≤ 2
    && (c.stages.drop c.nst).all Stage.zero
    && (c.rout ≠ 2 || ropHasRB c.rop)

/-- Whether the chain is direct: empty (an all-zero register but for MZ, R195), or a single direct CVT (R201). -/
def ChainCfg.direct (c : ChainCfg) : Bool :=
  (c.nst = 0 && c.rop = 0) || (c.nst = 1 && c.used.any fun p => p.2.opc = 1 && p.2.mod = 1)
/-- The last stage is PACK. -/
def ChainCfg.packs (c : ChainCfg) : Bool := c.used.any fun p => p.1 = c.nst && p.2.opc = 0xF
/-- A direct CVT takes its exponent from X2. -/
def ChainCfg.expFromX2 (c : ChainCfg) : Bool := c.used.any fun p => p.2.opc = 1 && p.2.mod = 1 && p.2.selB = 2
/-- E0 of a direct CVT; 0 for the empty chain (R204). -/
def ChainCfg.e0 (c : ChainCfg) : Int :=
  match c.used.head? with
  | some (_, w) => if w.opc = 1 && w.mod = 1 then toSigned 16 w.imm else 0
  | none => 0
/-- Some stage reads RA or RB. -/
def ChainCfg.readsR (c : ChainCfg) : Bool := c.used.any fun p => p.2.readsRA || p.2.readsRB
/-- Some stage is RNG. -/
def ChainCfg.hasRng (c : ChainCfg) : Bool := c.used.any fun p => p.2.opc = 0xD

/-! ### Stages -/

/-- What a stage sees besides V: the entry values, the row's reductions, the indices and the random source. -/
structure StageEnv where
  x1 : F32
  x2 : F32
  ra : F32
  rb : F32
  i0 : Nat
  i1 : Nat
  i2 : Nat
  x27 : W64
  x28 : W64
  x29 : W64
  x30 : W64
  step : W32
  seed : W64

/-- An operand by its selector (Table 6.5). -/
def StageEnv.sel (e : StageEnv) (v : F32) (imm code : Nat) : F32 :=
  match code with
  | 0 => v | 1 => e.x1 | 2 => e.x2 | 3 => bf16Widen imm | 4 => e.ra | 5 => e.rb | 6 => 0 | _ => f32one

/-- The linear index LIN of an element (R211). -/
def StageEnv.lin (e : StageEnv) : BitVec 48 :=
  BitVec.ofNat 48 (e.x29.toNat + e.i0 + e.x28.toNat * e.i1 + e.x27.toNat * e.i2)

/-- The uniform value of R213 for a purpose code. -/
def StageEnv.uniform (e : StageEnv) (purpose : Nat) : F32 :=
  let p : W16 := BitVec.ofNat 16 purpose
  let b := philox (e.seed ^^^ p.setWidth 64) (philoxCtr e.lin e.step (bits e.x30 0 32) p)
  f32 (.fin false (b.toNat / 256) (-24))

/-- A result of a stage: the FP32 value, a raw word of PACK, and conversions counted. -/
structure StageRes where
  v : F32
  counted : Bool := false

/-- SCL: A × 2^n, n being B rounded toward zero (Table 6.3); a B that is not finite has no stated result. -/
def sclStage (a b : F32) : F32 :=
  match val32 a, val32 b with
  | .nan, _ => f32nan
  | _, .nan => f32nan
  | x, .fin n m e => f32 (x.scale (FVal.fin n m e).trunc)
  | _, .inf _ => (Config.sclSpecial a b).toNat

/-- One stage (Table 6.3). A direct CVT comes here only for a reduction of its stream. -/
def Stage.eval (w : Stage) (e : StageEnv) (v : F32) : StageRes :=
  let a := e.sel v w.imm w.selA
  let b := e.sel v w.imm w.selB
  match w.opc with
  | 0x1 =>
    if w.mod = 1 then { v := (Config.directStream e.x1 e.x2 w.imm e.i0 e.i1 e.i2).toNat }
    else
    let c := fmtConvert (w.imm % 32) (val32 a)
    { v := f32 (fmtDecode (w.imm % 32) c.raw), counted := c.counted }
  | 0x2 => { v := sclStage a b }
  | 0x3 => { v := f32add a b }
  | 0x4 => { v := f32mul a b }
  | 0x5 =>
    let c := match w.mod with | 0 => v | 1 => e.x2 | 2 => bf16Widen w.imm | _ => e.ra
    { v := f32fma a b c }
  | 0x6 => { v := f32exp2 a }
  | 0x7 => { v := f32log2 a }
  | 0x8 => { v := f32rsqrt a }
  | 0x9 => { v := f32rcp a }
  | 0xA => { v := f32max a b }
  | 0xB => { v := f32min a b }
  | 0xC =>
    let x := val32 v
    let c : Bool := match w.mod with
      | 0 => (FVal.fin false 0 0).lt x
      | 1 => x ≠ .nan && !(x.lt (.fin false 0 0))
      | 2 => x = .nan || x.lt (.fin false 0 0) || (FVal.fin false 0 0).lt x
      | _ => x = .nan
    { v := if c then a else b }
  | 0xD => { v := e.uniform w.imm }
  | 0xE =>
    let lim : Int := e.i1 + toSigned 16 w.imm
    let hit := if w.mod % 2 = 0 then (e.i0 : Int) > lim else (e.i0 : Int) < lim
    { v := if hit then (if w.mod / 2 = 0 then f32inf true else 0) else a }
  | _ =>
    let hi := fmtBF16.encode (val32 a)
    if w.mod = 0 then { v := hi * 65536 + fmtBF16.encode (val32 b) }
    else match val32 b with
      | .fin _ _ _ => { v := hi * 65536 + ofSigned 16 (val32 b).trunc }
      | _ => { v := hi * 65536, counted := true }

/-- Stages in order; answers the value and how many results were counted. -/
def runStages (e : StageEnv) : List Stage → F32 → F32 × Nat
  | [], v => (v, 0)
  | w :: ws, v =>
    let r := w.eval e v
    let (v', n) := runStages e ws r.v
    (v', n + if r.counted then 1 else 0)

/-! ### The reduction unit (R207, R208) -/

/-- Combine two partial results, either of which may be absent. -/
def joinOpt (f : F32 → F32 → F32) : Option F32 → Option F32 → Option F32
  | some a, some b => some (f a b)
  | some a, none => some a
  | none, b => b

/-- Pair neighbours once. -/
def pairUp (f : F32 → F32 → F32) : List (Option F32) → List (Option F32)
  | a :: b :: r => joinOpt f a b :: pairUp f r
  | l => l

/-- The tree over the 128 lanes of a group: seven levels. -/
def laneTree (f : F32 → F32 → F32) (l : List (Option F32)) : Option F32 :=
  match pairUp f (pairUp f (pairUp f (pairUp f (pairUp f (pairUp f (pairUp f l)))))) with
  | r :: _ => r
  | [] => none

/-- The lanes of one group: `xs` holds (lane, value) of enabled elements. -/
def lanesOf (xs : List (Nat × F32)) : List (Option F32) :=
  (List.range 128).map fun l => (xs.find? fun p => p.1 = l).map (·.2)

/-- Reduce a row given as groups in ascending order (R208). -/
def reduceRow (f : F32 → F32 → F32) (groups : List (List (Nat × F32))) : Option F32 :=
  groups.foldl (fun acc g => joinOpt f acc (laneTree f (lanesOf g))) none

/-- `x / n`, NaN for n = 0 (R207). -/
def divN (x : F32) (n : Nat) : F32 := if n = 0 then f32nan else f32 ((val32 x).div (.ofInt n))

/-- Magnitude of a pattern. -/
def f32abs (x : F32) : F32 := x % 0x80000000
def f32isNan (x : F32) : Bool := val32 x = .nan

/-- EXPMAX's exponent of one element: the smallest E with |x| < 2^E; 129 for an infinity (Table 6.4). -/
def expOf (x : F32) : Int :=
  match val32 x with
  | .nan => -1074
  | .inf _ => 129
  | .fin _ m e => if m = 0 then -1074 else e + bitLen m

/-- RA and RB of a row (Table 6.4); `groups` holds the enabled elements. -/
def reduceResults (rop : Nat) (groups : List (List (Nat × F32))) : F32 × F32 :=
  let all := groups.flatten.map (·.2)
  let n := all.length
  let sumOf := fun (f : F32 → F32) => (reduceRow f32add (groups.map fun g => g.map fun p => (p.1, f p.2))).getD 0
  match rop with
  | 1 => (sumOf id, 0)
  | 2 => ((reduceRow f32max groups).getD (f32inf true), 0)
  | 3 => ((reduceRow f32min groups).getD (f32inf false), 0)
  | 4 => ((reduceRow f32max (groups.map fun g => (g.filter fun p => !(f32isNan p.2)).map fun p => (p.1, f32abs p.2))).getD 0, 0)
  | 5 =>
    let mu := divN (sumOf id) n
    (mu, divN (sumOf fun x => f32mul (f32sub x mu) (f32sub x mu)) n)
  | 6 => (divN (sumOf fun x => f32mul x x) n, 0)
  | 7 =>
    let m := (reduceRow f32max groups).getD (f32inf true)
    (m, f32rcp (sumOf fun x => f32exp2 (f32sub x m)))
  | _ => (f32 (.ofInt (all.foldl (fun a x => max a (expOf x)) (-1074))), 0)

/-! ### A pass over rows -/

/-- Everything a pass or chain drain reads besides its tensors (R193). -/
structure PassEnv where
  cfg : ChainCfg
  /-- The mask, when MEN is 1. -/
  mask : Option W128
  x27 : W64
  x28 : W64
  x29 : W64
  x30 : W64
  step : W32
  seed : W64

/-- The environment of one element. -/
def PassEnv.stageEnv (e : PassEnv) (x1 x2 ra rb : F32) (i : List Nat) : StageEnv :=
  { x1 := x1, x2 := x2, ra := ra, rb := rb, i0 := i.getD 0 0, i1 := i.getD 1 0, i2 := i.getD 2 0, x27 := e.x27,
    x28 := e.x28, x29 := e.x29, x30 := e.x30, step := e.step, seed := e.seed }

/-- Whether the lane of a destination index is disabled (R206). -/
def PassEnv.disabled (e : PassEnv) (i0 : Nat) : Bool := match e.mask with | some m => m.getLsbD (i0 % 128) | none => false

/-- Consecutive indices from `a`, `n` of them, cut at the multiples of `g` (R191). -/
def groupIdx (g : Nat) : Nat → Nat → Nat → List (List Nat)
  | 0, _, _ => []
  | fuel + 1, a, n =>
    if n = 0 then []
    else
      let k := min n (g - a % g)
      ((List.range k).map (a + ·)) :: groupIdx g fuel (a + k) (n - k)

/-- The slice count a descriptor's EXT2 selects (R204). -/
def Desc.slices (d : Desc) : Nat := if d.extent 2 = 7 then 7 else 4

/-- The word of a slice element: bytes d1 to dn, most significant first (R180). -/
def State.readSliceWord (s : State) (st : Nat) (d : Desc) (i : List Nat) : Int :=
  let n := d.slices
  toSigned (8 * n) ((List.range n).foldl (fun a j => a * 256 + (s.readElem st d (i.set 2 j)).1) 0)

/-- Write a slice word (R204). -/
def State.writeSliceWord (s : State) (st : Nat) (d : Desc) (i : List Nat) (w : Int) : State :=
  let n := d.slices
  let u := ofSigned (8 * n) w
  (List.range n).foldl (fun s j => s.writeRaw st d (i.set 2 j) (u / 256 ^ (n - 1 - j) % 256)) s

/-- Write a result to a destination element: masked lanes keep it, or clear it (every slice of it) (R206). -/
def State.writeLane (s : State) (st : Nat) (d : Desc) (e : PassEnv) (i : List Nat) (w : State → State) : State :=
  if e.disabled (i.getD 0 0) then
    if !e.cfg.mz then s else if d.fmt = 0xB then s.writeSliceWord st d i 0 else s.writeRaw st d i 0
  else w s

/-- A direct conversion's source value (R204). -/
def State.directIn (s : State) (st : Nat) (d : Desc) (i : List Nat) (ex : Int) : FVal :=
  if d.fmt = 0xB then
    let w := FVal.ofInt (s.readSliceWord st d i)
    if d.slices = 7 then w.scale (ex - 54) else w.scale (-ex)
  else s.readVal st d i

/-- A direct conversion's write (R204). -/
def State.directOut (s : State) (st : Nat) (d : Desc) (i : List Nat) (srcSlice : Bool) (ex : Int) (v : FVal) : State :=
  if d.fmt = 0xB then
    let (w, c) := if d.slices = 7 then (v.scale (54 - ex)).toFixed 0 (-(2 ^ 55 - 1)) (2 ^ 55 - 1)
      else (v.scale ex).toFixed 0 (-(2 ^ 31)) (2 ^ 31 - 1)
    let s := s.writeSliceWord st d i w
    if c then s.count .conversions (hallOf st) 1 else s
  else s.writeVal st d i (if srcSlice then v else v.scale ex)

/-- The four descriptor-side facts of a pass: stall, sources, destination, their origins and the row length. -/
structure PassOps where
  st : Nat
  ds : Desc
  os : List Nat
  ds2 : Option Desc
  os2 : List Nat
  dd : Desc
  od : List Nat

/-- The source index of a destination offset (R146): a source selector keeps its origin index. -/
def srcIdx (d : Desc) (o off : List Nat) : List Nat :=
  [0, 1, 2, 3, 4].map fun j => o.getD j 0 + (if d.isSel j then 0 else off.getD j 0)

/-- Offset plus origin. -/
def addIdx (o off : List Nat) : List Nat := [0, 1, 2, 3, 4].map fun j => o.getD j 0 + off.getD j 0

/-- One element of the entry stream: X1 and X2 as FP32 (R200). -/
def PassOps.entry (p : PassOps) (s : State) (off : List Nat) : F32 × F32 :=
  (f32 (s.readVal p.st p.ds (srcIdx p.ds p.os off)),
   match p.ds2 with | some d => f32 (s.readVal p.st d (srcIdx d p.os2 off)) | none => 0)

/-- Stages 1 to RTAP of a row's enabled elements by groups, as (lane, value) (R207). -/
def PassOps.tapRow (p : PassOps) (e : PassEnv) (s : State) (row : List Nat) (groups : List (List Nat)) (base : Nat) :
    List (List (Nat × F32)) :=
  let pre := (e.cfg.used.filter fun q => q.1 ≤ e.cfg.rtap).map (·.2)
  groups.map fun g => (g.filter fun i0 => !(e.disabled i0)).map fun i0 =>
    let off := row.set 0 (i0 - base)
    let (x1, x2) := p.entry s off
    (i0 % 128, (runStages (e.stageEnv x1 x2 0 0 (addIdx p.od off)) pre x1).1)

/-- One group of a row: every read, then the writes (R151). -/
def PassOps.group (p : PassOps) (e : PassEnv) (ra rb : F32) (src s : State) (row : List Nat) (base : Nat) (g : List Nat) :
    State :=
  if e.cfg.direct then
    let vals := g.map fun i0 =>
      let off := row.set 0 (i0 - base)
      let ex : Int := e.cfg.e0 + (if e.cfg.expFromX2 then
          (match p.ds2 with | some d => (src.readVal p.st d (srcIdx d p.os2 off)).trunc | none => 0) else 0)
      (addIdx p.od off, ex, src.directIn p.st p.ds (srcIdx p.ds p.os off) ex)
    vals.foldl (fun (s : State) (v : List Nat × Int × FVal) => s.writeLane p.st p.dd e v.1 fun s => s.directOut p.st p.dd v.1 (p.ds.fmt = 0xB) v.2.1 v.2.2) s
  else
    let vals := g.map fun i0 =>
      let off := row.set 0 (i0 - base)
      let (x1, x2) := p.entry src off
      (addIdx p.od off, runStages (e.stageEnv x1 x2 ra rb (addIdx p.od off)) (e.cfg.used.map (·.2)) x1)
    vals.foldl (fun (s : State) (v : List Nat × F32 × Nat) =>
      let s := s.count .conversions (hallOf p.st) v.2.2
      s.writeLane p.st p.dd e v.1 fun s =>
        if e.cfg.packs then s.writeRaw p.st p.dd v.1 v.2.1 else s.writeVal p.st p.dd v.1 (val32 v.2.1)) s

/-- Elements per group of a row: 64 in a direct chain with an FP64 source or destination, else 128 (R191, R192;
DEDUCED, log entry 117). -/
def PassOps.groupLen (p : PassOps) (e : PassEnv) : Nat := if e.cfg.direct && e.cfg.rout = 0 && (p.ds.fmt = 0xC || p.dd.fmt = 0xC) then 64 else 128

/-- Conversions that the stages of a row count (Table 6.6): every element runs every stage once (R191). -/
def PassOps.rowCounts (p : PassOps) (e : PassEnv) (s : State) (row : List Nat) (groups : List (List Nat)) (base : Nat) : Nat :=
  (groups.flatten.map fun i0 =>
    let off := row.set 0 (i0 - base)
    let (x1, x2) := p.entry s off
    (runStages (e.stageEnv x1 x2 0 0 (addIdx p.od off)) (e.cfg.used.map (·.2)) x1).2).foldl (· + ·) 0

/-- The exponents that X2 gives the elements of a row (R204). -/
def PassOps.rowExps (p : PassOps) (s : State) (row : List Nat) (groups : List (List Nat)) (base : Nat) : List Int :=
  groups.flatten.map fun i0 => match p.ds2 with
    | some d => (s.readVal p.st d (srcIdx d p.os2 (row.set 0 (i0 - base)))).trunc
    | none => 0

/-- The exponent of a row's results in a slice destination: E0 and the exponent that every element of the row has from X2; where
these differ it is free (R204, R210; log entry 116). -/
def PassOps.routExp (p : PassOps) (e : PassEnv) (s : State) (row : List Nat) (groups : List (List Nat)) (base : Nat) : Int :=
  e.cfg.e0 + if e.cfg.expFromX2 then (match (p.rowExps s row groups base).eraseDups with
    | [x] => x
    | l => Config.routExp l) else 0

/-- One result of a row's reduction is written in DD's format (R203, R210). -/
def PassOps.writeResult (p : PassOps) (ex : Int) (row : List Nat) (i : Nat) (v : F32) (s : State) : State :=
  let at_ := addIdx p.od (row.set 0 i)
  if p.dd.fmt = 0xB then s.directOut p.st p.dd at_ false ex (val32 v) else s.writeVal p.st p.dd at_ (val32 v)

/-- One row of a pass (R191, R209, R210, R151). -/
def PassOps.row (p : PassOps) (e : PassEnv) (n : Nat) (s : State) (row : List Nat) : State :=
  let base := p.od.getD 0 0
  let g := p.groupLen e
  let groups := groupIdx g (n / g + 2) base n
  let (ra, rb) := if e.cfg.rop = 0 then (0, 0) else reduceResults e.cfg.rop (p.tapRow e s row groups base)
  if e.cfg.rout ≠ 0 then
    let ex := p.routExp e s row groups base
    let s := p.writeResult ex row 0 ra (s.count .conversions (hallOf p.st) (p.rowCounts e s row groups base))
    if e.cfg.rout = 2 then p.writeResult ex row 1 rb s else s
  else if e.cfg.readsR then groups.foldl (fun s' g => p.group e ra rb s s' row base g) s
  else groups.foldl (fun s' g => p.group e ra rb s' s' row base g) s

/-- The moved extents of a pass: DD's, with the slice dimension moved as one index (R146, R204). -/
def PassOps.ext (p : PassOps) : List Nat :=
  let m := p.dd.movedExt
  if p.dd.fmt = 0xB then m.set 2 1 else m

/-- A whole pass: rows in ascending order of dimensions 4, 3, 2 and 1 (R151). `n` is the row length. -/
def PassOps.run (p : PassOps) (e : PassEnv) (n : Nat) (s : State) : State :=
  (rowIdx [0, 0, 0, 0, 0] (p.ext.set 0 1)).foldl (fun s r => p.row e n s r) s

end Sys2Proof.Machine
end

