-- ==== Sys2Proof/Machine/Use.lean ====
section
/-! DEFINITION. Use-time checks of descriptors (R96, R143, R144, Table 4.5) and the PASS instruction (R107, R199,
R210). -/

namespace Sys2Proof.Machine

/-- A trap that a check found: cause and DETAIL. -/
abbrev Bad := Option (Cause × W64)

/-- The first failing check of a list. -/
def firstBad : List Bad → Bad
  | [] => none
  | some b :: _ => some b
  | none :: r => firstBad r

/-- A DESC_FORMAT or other trap on a register when the condition holds. -/
def badIf (c : Bool) (cause : Cause) (reg : BitVec 4) : Bad := if c then some (cause, reg.setWidth 64) else none

/-- REG_EMPTY for each register the instruction uses (R96). -/
def emptyCheck (th : Thread) (regs : List (BitVec 4)) : Bad :=
  firstBad (regs.map fun r => badIf (th.dr r).isNone .regEmpty r)

/-- The descriptor in a register; only used after `emptyCheck`. -/
def Thread.desc (th : Thread) (r : BitVec 4) : Desc := Desc.parse ((th.dr r).getD 0)

/-- SEAL and the one-descriptor rows of Table 4.5 (R143, R144): the seal and job, then a dead allocation, WR where
the instruction writes it, and the SPACE. -/
def State.sealCheck (s : State) (job : Byte) (th : Thread) (r : BitVec 4) : Bad :=
  badIf (!(sealOk s.startNo ((th.dr r).getD 0)) || (th.desc r).job ≠ job) .seal_ r
/-- The dead-allocation, WR and SPACE rows of Table 4.5. -/
def State.rowCheck (s : State) (th : Thread) (write scratchOnly : Bool) (r : BitVec 4) : Bad :=
  let d := th.desc r
  badIf ((d.space = 2 && (findAlloc s.host.allocs d).isNone) || (write && !d.wr) || (scratchOnly && d.space ≠ 0))
    .descFormat r

/-- The extents of one source against DD's (R107); slices exempt dimension 2 (R204). -/
def shapeBad (src dd : Desc) : Bool :=
  [0, 1, 2, 3, 4].any fun i =>
    if src.bcast i then false
    else if 2 ≤ i && (dd.isSel i || src.isSel i) then false
    else if i = 2 && dd.fmt = 0xB && src.fmt ≠ 0xB then src.extent 2 ≠ 1
    else if i = 2 && src.fmt = 0xB && dd.fmt ≠ 0xB then dd.extent 2 ≠ 1
    else src.extent i ≠ dd.extent i

/-- A slice descriptor with another EXT2 or a non-zero slice origin (R180, R199). -/
def sliceBad (d : Desc) (o : W64) : Bool := d.fmt = 0xB && ((d.extent 2 ≠ 7 && d.extent 2 ≠ 4) || bits o 24 12 ≠ 0)

/-- The conditions of R199 that concern the chain and the destination. -/
def chainDescBad (c : ChainCfg) (dd : Desc) (od : W64) : Bool :=
  (c.packs && dd.fmt ≠ 0xD) || (dd.fmt = 0xB && !c.direct) || sliceBad dd od

/-- The row length of a pass: DD's moved extent, or DS's rest of a row with ROUT (R210). -/
def passRow (c : ChainCfg) (ds dd : Desc) (os : W64) : Nat :=
  if c.rout = 0 then dd.movedExt.getD 0 1 else ds.extent 0 - (originIdx os).getD 0 0

/-- Scratch spans a task touches through runs (R422). -/
def State.touchRuns (s : State) (g t : Nat) (rs : List Run) : State :=
  rs.foldl (fun s r => if r.space = 0 then s.touch g t r.lo (r.hi - 1) else s) s

/-- What a PASS checks, in order; `none` means it runs. -/
def passCheck (f : ChainF) (th : Thread) (s : State) : Bad :=
  let cfg := ChainCfg.parse (th.c.get 0 f.cc.toNat)
  let job := tagJob (s.threadTags th)
  let regs := [f.ds] ++ (if f.s2en then [f.ds2] else []) ++ [f.dd]
  let ds := th.desc f.ds
  let ds2 := th.desc f.ds2
  let dd := th.desc f.dd
  let os := th.originOf f.xis
  let od := th.originOf f.xid
  let n := passRow cfg ds dd os
  let meets := fun (x : Desc) => x.space = dd.space && x.alloc = dd.alloc && x.code ≠ dd.code && rangesMeet x.ranges dd.ranges
  firstBad [
    if f.rsv ≠ 0 || (!f.s2en && (f.ds2 ≠ 0 || f.xis2 ≠ 0)) || (!f.men && f.mreg ≠ 0) || !(cfg.legal f.s2en false) then
      some (.illegal, 0) else none,
    emptyCheck th regs,
    firstBad (regs.map fun r => s.sealCheck job th r),
    firstBad (regs.map fun r => s.rowCheck th (r = f.dd) true r),
    badIf (meets ds) .descFormat f.ds,
    badIf (f.s2en && meets ds2) .descFormat f.ds2,
    badIf (cfg.rout = 0 && shapeBad ds dd) .descFormat f.ds,
    badIf (f.s2en && (if cfg.rout = 0 then shapeBad ds2 dd else shapeBad ds2 ds)) .descFormat f.ds2,
    badIf (cfg.rout ≠ 0 && (dd.extent 0 ≠ cfg.rout || dd.movedExt.drop 1 ≠ ds.movedExt.drop 1)) .descFormat f.dd,
    badIf (chainDescBad cfg dd od) .descFormat f.dd,
    badIf ((ds.fmt = 0xB && !cfg.direct) || sliceBad ds os) .descFormat f.ds,
    badIf (f.men && !cfg.mz && fmtBits dd.fmt < 8) .descFormat f.dd,
    badIf (cfg.hasRng && (dd.movedExt.getD 3 1 > 1 || dd.movedExt.getD 4 1 > 1)) .descFormat f.dd,
    badIf ((cfg.readsR || cfg.rop = 5 || cfg.rop = 7) && n > 32768) .descFormat f.dd,
    badIf (cfg.expFromX2 && ds2.fmt ≠ 0xD) .descFormat f.ds2,
    badIf (f.s2en && ds2.fmt = 0xB) .descFormat f.ds2]

/-- The job seed of a job; 0 until set (R211). -/
def State.seedOf (s : State) (job : Byte) : W64 := s.host.seeds.get 0 job.toNat

/-- The step number of a thread's graph. -/
def State.threadStep (s : State) (th : Thread) : W32 := ((s.graph th.graph).map (·.step)).getD 0

/-- The tensors of a PASS. -/
def passOps (f : ChainF) (th : Thread) (st : Nat) : PassOps :=
  { st := st, ds := th.desc f.ds, os := originIdx (th.originOf f.xis), ds2 := if f.s2en then some (th.desc f.ds2) else none,
    os2 := originIdx (th.originOf f.xis2), dd := th.desc f.dd, od := originIdx (th.originOf f.xid) }

/-- What a PASS captures (R193). -/
def passEnv (f : ChainF) (th : Thread) (s : State) : PassEnv :=
  { cfg := ChainCfg.parse (th.c.get 0 f.cc.toNat), mask := if f.men then some (th.m.get 0 f.mreg.toNat) else none,
    x27 := th.xr 27, x28 := th.xr 28, x29 := th.xr 29, x30 := th.xr 30, step := s.threadStep th,
    seed := s.seedOf (tagJob (s.threadTags th)) }

/-- PASS (R107): streams its sources through the chain that CC names and writes DD. -/
def execPass (t : ThreadRef) (f : ChainF) (s : State) : Host.Outcome State Fault Refusal :=
  issue t (chainWord 0 f) s fun k th s =>
    match passCheck f th s with
    | some (c, d) => s.trap k c d (chainWord 0 f)
    | none =>
      let p := passOps f th (stallOf k)
      let e := passEnv f th s
      let n := passRow e.cfg p.ds p.dd (th.originOf f.xis)
      let ext := p.ext
      let slices := fun (l : List Nat) => if p.ds.fmt = 0xB then l.set 2 (p.ds.extent 2) else l
      let reads := p.ds.runs p.os (slices (if e.cfg.rout = 0 then ext else p.ds.movedExt.set 0 n)) false
        ++ (match p.ds2 with | some d => d.runs p.os2 (ext.set 0 n) false | none => [])
      let writes := p.dd.runs p.od (p.dd.movedExt) true
      s.unlessHeld k th reads writes
        ((((p.run e n s).touchRuns th.graph th.task (reads ++ writes))).retire k th.wroteScratch)

end Sys2Proof.Machine
end

