-- ==== Sys2Proof/Machine/Mxa.lean ====
section
/-! DEFINITION. The matrix array and accumulator store (chapter 5): products (R156 to R159, R181), slots
(R120, R162 to R172), the curvature tap (R186 to R188), closing (R164) and the tensor instructions. -/

namespace Sys2Proof.Machine

/-! ### Products -/

/-- Element (r, c) of a row-major tile. -/
def tileAt (l : List FVal) (r c : Nat) : FVal := l.getD (r * 32 + c) (.fin false 0 0)

/-- The tile transposed. -/
def tileT (l : List FVal) : List FVal := (List.range 32).flatMap fun r => (List.range 32).map fun c => tileAt l c r

/-- The exact products of output element (r, c): `a[r][k] × b[k][c]` (R156). -/
def dotTerms (a b : List FVal) (r c : Nat) : List FVal := (List.range 32).map fun k => (tileAt a r k).mul (tileAt b k c)

/-- Every output element's exact sum, row-major (R156). -/
def mmaSums (a b : List FVal) : List FVal :=
  (List.range 32).flatMap fun r => (List.range 32).map fun c => FVal.sum (dotTerms a b r c)

/-- The sum of one slice-pair level for an element: slices i and j with `i + j = l` (R181). -/
def sliceLevel (n : Nat) (a b : List FVal) (l r c : Nat) : Int :=
  ((List.range n).flatMap fun i => (List.range n).map fun j => (i + 1, j + 1)).foldl (fun acc p =>
    if p.1 + p.2 = l then
      (List.range 32).foldl (fun acc k =>
        let x := (tileAt (a.drop ((p.1 - 1) * 1024)) r k).trunc
        let y := (tileAt (b.drop ((p.2 - 1) * 1024)) k c).trunc
        let x := if p.1 = 1 then toSigned 8 x.toNat else x
        let y := if p.2 = 1 then toSigned 8 y.toNat else y
        acc + x * y) acc
    else acc) 0

/-- The exact value of an exact-slice element (R181). -/
def sliceValue (n lmax : Nat) (a b : List FVal) (r c : Nat) : Int :=
  (List.range (lmax - 1)).foldl (fun acc i => acc + sliceLevel n a b (i + 2) r c * (2 ^ (8 * (lmax - (i + 2))) : Nat)) 0

/-- Every exact-slice element, row-major. -/
def sliceSums (n lmax : Nat) (a b : List FVal) : List FVal :=
  (List.range 32).flatMap fun r => (List.range 32).map fun c => FVal.ofInt (sliceValue n lmax a b r c)

/-! ### Slots -/

/-- Range of an integer slot (R158, R182). -/
def SlotKind.range : SlotKind → Int × Int
  | .fp64 => (-(2 ^ 95), 2 ^ 95 - 1)
  | .q => (-(2 ^ 63), 2 ^ 63 - 1)
  | _ => (-(2 ^ 31), 2 ^ 31 - 1)

/-- Physical slots a kind takes (R182). -/
def SlotKind.phys : SlotKind → Nat
  | .fp64 => 3 | .q => 2 | _ => 1

/-- Whether a kind holds exact integers. -/
def SlotKind.isInt : SlotKind → Bool
  | .i32 => true | .fp64 => true | .q => true | _ => false

/-- The rounding format of a floating-point slot: FP16 for a half slot that is not widened (R156, R237). -/
def Slot.ffmt (x : Slot) : FFmt := if x.kind = .f16 && !x.widened then fmtF16 else fmtF32

/-- Add exact sums into a slot, or overwrite it (R156, R158, R183). A saturated integer element stays so. -/
def Slot.accumulate (x : Slot) (fresh : Bool) (sums : List FVal) : Slot :=
  if x.kind.isInt then
    let (lo, hi) := x.kind.range
    let r := (List.range 1024).map fun i =>
      let old := if fresh then 0 else x.vals.getD i 0
      if !fresh && x.sat.contains i then (old, true)
      else clampI lo hi (old + (sums.getD i (.fin false 0 0)).trunc)
    { x with vals := r.map (·.1), sat := (List.range 1024).filter fun i => (r.getD i (0, false)).2 }
  else
    { x with sat := [],
             vals := (List.range 1024).map fun i =>
               let v := sums.getD i (.fin false 0 0)
               let v := if fresh then v else (x.ffmt.decode (x.vals.getD i 0).toNat).add v
               (x.ffmt.encode v : Nat) }

/-- The value of a slot element. -/
def Slot.value (x : Slot) (i : Nat) : FVal :=
  if x.kind.isInt then .ofInt (x.vals.getD i 0) else x.ffmt.decode (x.vals.getD i 0).toNat

/-- A half slot turned into a full FP32 slot, exactly (R237). -/
def Slot.widen (x : Slot) : Slot :=
  { x with widened := true, vals := (List.range 1024).map fun i => (f32 (x.value i) : Nat) }

/-- The slot or half-slot index an MMA names (Table 3.7). -/
def tensorIdx (f : TensorF) : Nat := if f.accw = 1 then f.slot.toNat + (if f.sh then 64 else 0) else f.slot.toNat

/-- A thread's slot with an index: half or full. -/
def StallInfo.find (i : StallInfo) (k idx : Nat) (half : Bool) : Option Slot :=
  i.slots.find? fun x => x.owner = k && x.idx = idx && x.half = half

/-- Replace a thread's slot. -/
def StallInfo.put (i : StallInfo) (x : Slot) : StallInfo :=
  { i with slots := (i.slots.filter fun y => !(y.owner = x.owner && y.idx = x.idx && y.half = x.half)) ++ [x] }
/-- Remove a thread's slot. -/
def StallInfo.remove (i : StallInfo) (x : Slot) : StallInfo :=
  { i with slots := i.slots.filter fun y => !(y.owner = x.owner && y.idx = x.idx && y.half = x.half) }

/-- Whether a half-slot user blocks a full MMA on the slot, or the reverse (R170). -/
def StallInfo.halfClash (i : StallInfo) (k slot : Nat) (half : Bool) : Bool :=
  (i.slots ++ i.drains.map (·.slot)).any fun x => x.owner = k && x.half ≠ half && x.idx % 64 = slot

/-! ### The kind and format of an MMA -/

/-- Whether INT8 operands are unscaled, so that they accumulate in INT32 (Table 5.1). -/
def intKind (da db : Desc) : Bool := da.scale = 0 && db.scale = 0

/-- The slot kind of a product (Table 5.1). -/
def kindOf (f : TensorF) (da db : Desc) (mode : BitVec 3) : SlotKind :=
  if f.fmt = 0xB then (if mode = 1 then .fp64 else .q)
  else if f.accw = 1 then .f16
  else if f.fmt = 0x9 && intKind da db then .i32
  else .f32

/-- DC's format for an unconverted drain (R165). -/
def SlotKind.rawFmt : SlotKind → Nat
  | .f32 => 0xA | .i32 => 0xD | _ => 0x1

/-- The FMT of the drain form for a kind (R171). -/
def SlotKind.drainFmt : SlotKind → BitVec 4
  | .f32 => 0xA | .i32 => 0x9 | .f16 => 0xA | _ => 0xB

/-- Whether the fields are those of the drain form (R171). -/
def isDrainForm (op : Nat) (f : TensorF) : Bool :=
  op = 0 && !f.beginF && f.close && !f.tap && (f.drain = 1 || f.drain = 2) && f.accw = 0 && !f.sh
    && f.da = 0 && f.xia = 0 && f.db = 0 && f.xib = 0

/-- The illegal combinations of R104, and TAP with the slice format (R179). -/
def tensorIllegal (f : TensorF) : Bool :=
  f.fmt ≥ 0xC || f.accw ≥ 2 || (f.accw = 0 && f.sh) || (f.accw = 1 && (f.fmt < 2 || f.fmt > 5))
    || (!f.close && (f.drain ≠ 0 || f.dc ≠ 0 || f.xic ≠ 0 || f.cc ≠ 0))
    || (f.close && (f.drain = 0 || f.drain = 3)) || (f.drain = 1 && f.cc ≠ 0)
    || (!f.tap && f.tslot ≠ 0) || (f.tap && f.tslot = f.slot) || (f.tap && f.accw = 1)
    || (f.tap && f.fmt = 0xB)

/-- The checks of a closing MMA's drain (R105, R165, R199, R205, R328). `kind` is the slot's. -/
def closeBad (f : TensorF) (th : Thread) (kind : SlotKind) (phase : Nat) (exempt : Bool) : Bool :=
  let dc := th.desc f.dc
  let cfg := ChainCfg.parse (th.c.get 0 f.cc.toNat)
  if f.drain = 1 then kind = .fp64 || kind = .q || dc.fmt ≠ kind.rawFmt || (!exempt && 2 ≤ phase)
  else
    chainDescBad cfg dc (th.originOf f.xic)
      || ((kind = .fp64 || kind = .q) && (!cfg.direct || cfg.expFromX2
          || !([0xC, 0xA, 0xD, 0xE, 0xF, 0x10, 0x11].contains dc.fmt)))
      || (!exempt && 2 ≤ phase && dc.fmt ≠ 0)

/-- The drain's chain breaks R198 (ILLEGAL). -/
def drainCfgIllegal (f : TensorF) (th : Thread) : Bool :=
  f.close && f.drain = 2 && !((ChainCfg.parse (th.c.get 0 f.cc.toNat)).legal false true)

/-- PHASE of a thread's task. -/
def State.threadPhase (s : State) (th : Thread) : Nat := ((s.rec_ th.graph th.task).map (·.phase)).getD 0

/-- The held slot a drain form empties, if the instruction is one (R171). -/
def drainTarget (op : Nat) (f : TensorF) (k : Nat) (i : StallInfo) : Option Slot :=
  match i.find k f.slot.toNat false with
  | some x => if x.st ≠ .open_ && isDrainForm op f && f.fmt = x.kind.drainFmt then some x else none
  | none => none

/-- The tap partner an MMA uses: its own A at BEGIN = 1, else the remembered one (R186). -/
def partnerOf (op : Nat) (f : TensorF) (th : Thread) : Option TapPartner :=
  if f.beginF then some ⟨f.da, th.originOf f.xia, op = 1⟩ else th.partner

/-- Format checks of an MMA's operands (R105, R159). -/
def operandBad (op : Nat) (f : TensorF) (th : Thread) : Bad :=
  firstBad [
    badIf ((th.desc f.da).fmt ≠ f.fmt.toNat) .descFormat f.da,
    badIf ((th.desc f.db).fmt ≠ f.fmt.toNat) .descFormat f.db,
    badIf (f.accw = 1 && f.close && !(th.desc f.dc).xchk) .descFormat f.dc,
    badIf (fmtMx f.fmt.toNat && op ≠ 2) .descFormat f.da]

/-- Slice operands: EXT2 and the origin's slice index (R180); MMA_TA takes no slices (Table 5.1). -/
def sliceOperandBad (op : Nat) (f : TensorF) (th : Thread) (mode : BitVec 3) : Bad :=
  let want := if mode = 1 then 7 else 4
  let bad := fun (r : BitVec 4) (xi : BitVec 5) => (th.desc r).extent 2 ≠ want || bits (th.originOf xi) 24 12 ≠ 0
  firstBad [
    badIf (f.fmt = 0xB && (op = 1 || bad f.da f.xia)) .descFormat f.da,
    badIf (f.fmt = 0xB && bad f.db f.xib) .descFormat f.db]

/-- SLOT_STATE of a trap on a slot index. -/
def slotBad (c : Bool) (idx : Nat) : Bad := if c then some (.slotState, BitVec.ofNat 64 idx) else none

/-- The kind an MMA's product accumulates into: the open slot's, or that of a BEGIN. -/
def targetKind (f : TensorF) (th : Thread) (k : Nat) (i : StallInfo) : SlotKind :=
  let mode := (i.exact.map (·.1)).getD 0
  if f.beginF then kindOf f (th.desc f.da) (th.desc f.db) mode
  else match i.find k (tensorIdx f) (f.accw = 1) with
    | some x => x.kind
    | none => kindOf f (th.desc f.da) (th.desc f.db) mode

/-- SLOT_STATE checks of an MMA that forms a product (R106, R163, R170, R171, R186, R188). -/
def slotChecks (op : Nat) (f : TensorF) (th : Thread) (k : Nat) (i : StallInfo) : Bad :=
  let idx := tensorIdx f
  let half : Bool := f.accw = 1
  let mine := i.find k idx half
  let prod := kindOf f (th.desc f.da) (th.desc f.db) ((i.exact.map (·.1)).getD 0)
  let tap := i.find k f.tslot.toNat false
  let tapKind := match partnerOf op f th with
    | some p => if f.fmt = 9 && intKind (th.desc p.dreg) (th.desc f.da) then SlotKind.i32 else .f32
    | none => .f32
  let tapDraining := i.drains.any fun d => d.owner = k && d.slot.idx = f.tslot.toNat && !d.slot.half
  firstBad [
    slotBad (match mine with
      | none => !f.beginF
      | some x => x.st ≠ .open_ || f.beginF || x.fmt ≠ f.fmt || x.accw ≠ f.accw || x.kind ≠ prod) idx,
    slotBad (i.halfClash k f.slot.toNat half) idx,
    slotBad (f.tap && (partnerOf op f th).isNone) f.tslot.toNat,
    slotBad (f.tap && (match tap with
      | some x => x.st ≠ .heldTap || x.kind ≠ tapKind
      | none => tapDraining || i.halfClash k f.tslot.toNat false)) f.tslot.toNat]

/-- The checks of a tensor instruction in the order of R639; `none` means it may proceed. -/
def mmaCheck (op : Nat) (f : TensorF) (th : Thread) (k : Nat) (s : State) : Bad :=
  let i := s.stall (stallOf k)
  let job := tagJob (s.threadTags th)
  let drainForm := drainTarget op f k i
  let mode := (i.exact.map (·.1)).getD 0
  let partner := if f.tap then (partnerOf op f th) else none
  let regs := (if drainForm.isSome then [] else [f.da, f.db]) ++ (if f.close then [f.dc] else [])
  let kind := match drainForm with | some x => x.kind | none => targetKind f th k i
  firstBad [
    if tensorIllegal f || drainCfgIllegal f th then some (.illegal, 0) else none,
    if f.fmt = 0xB && !th.prv then some (.privilege, 0) else none,
    if (f.fmt = 0xB && i.exact.isNone)
      || (f.fmt ≠ 0xB && (match i.exact with | some (_, g, t) => g = th.graph && t = th.task | none => false))
      then some (.illegal, 0) else none,
    emptyCheck th (regs ++ (match partner with | some p => [p.dreg] | none => [])),
    firstBad (regs.flatMap fun r => [s.sealCheck job th r, s.rowCheck th (f.close && r = f.dc) true r]),
    if drainForm.isSome then none else operandBad op f th,
    badIf (f.close && closeBad f th kind (s.threadPhase th) drainForm.isSome) .descFormat f.dc,
    if drainForm.isSome then none else sliceOperandBad op f th mode,
    (match partner with
      | some p => badIf ((th.desc p.dreg).fmt ≠ f.fmt.toNat) .descFormat p.dreg
      | none => none),
    if drainForm.isSome then none else slotChecks op f th k i]

/-! ### Slots free and exhausted -/

/-- Whether a closing MMA widens its half slot: its DC seal is in the widened table (R237). -/
def State.widens (s : State) (f : TensorF) (th : Thread) : Bool :=
  f.close && f.accw = 1 && s.xchk.widened.contains (th.desc f.dc).code

/-- The slot an MMA will accumulate into, but for its values. -/
def mmaProbe (f : TensorF) (th : Thread) (k : Nat) (i : StallInfo) (wide : Bool) : Slot :=
  let kind := kindOf f (th.desc f.da) (th.desc f.db) ((i.exact.map (·.1)).getD 0)
  let fresh : Slot := { owner := k, graph := th.graph, task := th.task, idx := tensorIdx f, half := f.accw = 1, kind := kind,
                        fmt := f.fmt, vals := [] }
  let x := if f.beginF then fresh else (i.find k (tensorIdx f) (f.accw = 1)).getD fresh
  { x with widened := x.widened || wide }

/-- Physical slots an MMA needs beyond those in use: for its BEGIN, for a half slot that it widens, and for a tap that opens a slot
(R120, R188, R237; a tap waits or traps as a BEGIN does: DEDUCED, log entry 48). -/
def mmaNeeds (f : TensorF) (th : Thread) (k : Nat) (i : StallInfo) (wide : Bool) : Nat :=
  let a := physSlots ((i.put (mmaProbe f th k i wide)).slots ++ i.drains.map (·.slot)) - i.usedSlots
  let b := if f.tap && (i.find k f.tslot.toNat false).isNone then 1 else 0
  a + b

/-- Whether every physical slot is open or held by the task and none drains (R122). -/
def StallInfo.exhausted (i : StallInfo) (g t : Nat) : Bool :=
  i.drains.isEmpty && physSlots (i.slots.filter fun x => x.graph = g && x.task = t) ≥ 64

/-! ### Effects -/

/-- The A or B tile an MMA consumes, and what the reuse of R161 keeps. -/
def operandTile (s : State) (st : Nat) (th : Thread) (reg : BitVec 4) (xi : BitVec 5) (n : Nat) (old : Option Reuse) :
    List FVal × Reuse :=
  let o := th.originOf xi
  match old with
  | some r =>
    if r.dreg = reg && r.xi = xi && r.origin = o then (r.tile, r)
    else
      let t := if n = 0 then s.readTile st (th.desc reg) o else s.readSlices st (th.desc reg) o n
      (t, ⟨reg, xi, o, t⟩)
  | none =>
    let t := if n = 0 then s.readTile st (th.desc reg) o else s.readSlices st (th.desc reg) o n
    (t, ⟨reg, xi, o, t⟩)

/-- Transpose every 32 × 32 tile of a list of slices. -/
def tilesT (n : Nat) (l : List FVal) : List FVal :=
  if n = 0 then tileT l else (List.range n).flatMap fun j => tileT ((l.drop (j * 1024)).take 1024)

/-- The sampling decision of a closing MMA (R231): the thread's next count, and j when the tile is sampled. -/
def sampleDecision (s : State) (th : Thread) (dc : Desc) : BitVec 28 × Option (BitVec 28) :=
  if !dc.xchk then (th.xj, none)
  else
    let lin : BitVec 48 := BitVec.ofNat 48 (th.idx * 2 ^ 28 + th.xj.toNat)
    let w := philox (s.seedOf (tagJob (s.threadTags th)) ^^^ 0xFFF1)
      (philoxCtr lin (s.threadStep th) (BitVec.ofNat 32 th.task) 0xFFF1)
    (th.xj + 1, if w.toNat % 2 ^ dc.xk = 0 then some th.xj else none)

/-- A slot closes and starts to drain, with everything the drain needs captured (R164, R193). The drain is a write to scratch that
ends the operand reuse of R161 (DESIGN CHOICE, log entry 129). -/
def closeSlot (s : State) (k : Nat) (th : Thread) (f : TensorF) (x : Slot) : State :=
  let st := stallOf k
  let (j, smp) := sampleDecision s th (th.desc f.dc)
  let d : Drain :=
    { owner := k, graph := th.graph, task := th.task, thread := th.idx, tags := s.threadTags th, step := s.threadStep th,
      seed := s.seedOf (tagJob (s.threadTags th)), slot := x, mode := f.drain, dc := (th.dr f.dc).getD 0,
      origin := th.originOf f.xic, cfg := th.c.get 0 f.cc.toNat, x27 := th.xr 27, x28 := th.xr 28, x29 := th.xr 29,
      x30 := th.xr 30, sample := smp }
  let s := s.modStall st fun i => { i.remove x with drains := i.drains ++ [d] }
  let s := s.touchRuns th.graph th.task d.dstRuns
  s.retire k { th.wroteScratch with xj := j }

/-- The effect of a tensor instruction that forms a product and has its slots (R156, R162 to R164, R186). -/
def mmaEffect (op : Nat) (f : TensorF) (k : Nat) (th : Thread) (s : State) : State :=
  let st := stallOf k
  let i := s.stall st
  let mode := (i.exact.map (·.1)).getD 0
  let n := if f.fmt = 0xB then (if mode = 1 then 7 else 4) else 0
  let kind := targetKind f th k i
  let (ra, ka) := operandTile s st th f.da f.xia n th.reuseA
  let (rb, kb) := operandTile s st th f.db f.xib n th.reuseB
  let a := if op = 1 then tilesT n ra else ra
  let b := if op = 2 then tilesT n rb else rb
  let sums := if f.fmt = 0xB then sliceSums n (if mode = 1 then 8 else 5) a b else mmaSums a b
  let fresh : Slot := { owner := k, graph := th.graph, task := th.task, idx := tensorIdx f, half := f.accw = 1, kind := kind,
                        fmt := f.fmt, accw := f.accw, vals := [] }
  let cur := if f.beginF then fresh else (i.find k (tensorIdx f) (f.accw = 1)).getD fresh
  let wide := s.widens f th
  let cur := if wide then (if f.beginF then { cur with widened := true } else cur.widen) else cur
  let slot := cur.accumulate f.beginF sums
  let partner := if f.beginF then some ⟨f.da, th.originOf f.xia, op = 1⟩ else th.partner
  let i := i.put slot
  let i := match (if f.tap then partner else none) with
    | none => i
    | some p =>
      let pd := th.desc p.dreg
      let pt := s.readTile st pd p.origin
      let pt := if p.transposed then tileT pt else pt
      let tk := if f.fmt = 9 && intKind pd (th.desc f.da) then SlotKind.i32 else .f32
      let tslot := (i.find k f.tslot.toNat false).getD
        { owner := k, graph := th.graph, task := th.task, idx := f.tslot.toNat, st := .heldTap, kind := tk, fmt := f.fmt, vals := [] }
      i.put (tslot.accumulate ((i.find k f.tslot.toNat false).isNone) (mmaSums (tileT pt) a))
  let s := s.setStall st i
  let da := th.desc f.da
  let db := th.desc f.db
  let s := s.touchRuns th.graph th.task (da.runs (originIdx (th.originOf f.xia)) da.tileExt false
    ++ db.runs (originIdx (th.originOf f.xib)) db.tileExt false)
  let th := { th with partner := partner, reuseA := some ka, reuseB := some kb }
  if f.close then closeSlot s k th f slot else s.retire k th

/-- The bytes an MMA reads. -/
def mmaReads (op : Nat) (f : TensorF) (th : Thread) : List Run :=
  let tile := fun (r : BitVec 4) (o : W64) => (th.desc r).runs (originIdx o) (th.desc r).tileExt false
  tile f.da (th.originOf f.xia) ++ tile f.db (th.originOf f.xib)
    ++ (match (if f.tap then partnerOf op f th else none) with | some p => tile p.dreg p.origin | none => [])

/-- The tile an MMA's drain will write. -/
def mmaWrites (f : TensorF) (th : Thread) : List Run :=
  if f.close then (th.desc f.dc).runs (originIdx (th.originOf f.xic)) (th.desc f.dc).tileExt true else []

/-- Waiting BEGINs of a stall trap once every physical slot is an open or held slot of their own task and none drains (R122). -/
def State.trapExhausted (s : State) (st : Nat) : State :=
  s.threads.foldl (fun (s : State) (p : Nat × Option Thread) =>
    if stallOf p.1 ≠ st then s
    else match s.thread p.1 with
      | some th => (match th.status with
        | .slotWait op f _ =>
          if (s.stall st).exhausted th.graph th.task then
            s.trap p.1 .slotExhausted (BitVec.ofNat 64 (tensorIdx f)) (tensorWord (BitVec.ofNat 6 op) f)
          else s
        | _ => s)
      | none => s) s

/-- A tensor instruction once it is at issue: its checks, its holds, its slots, its effect. A BEGIN waits while a stall is, or is
about to be, in another task's exact-slice mode (R177, R179). -/
def runMma (op : Nat) (f : TensorF) (k : Nat) (th : Thread) (s : State) : State :=
  let i := s.stall (stallOf k)
  match mmaCheck op f th k s with
  | some (c, d) => s.trap k c d (tensorWord (BitVec.ofNat 6 op) f)
  | none =>
    if f.fmt ≠ 0xB && (i.exact.isSome || (f.beginF && i.exactNext.isSome)) then s.hold k th .xmode
    else match drainTarget op f k i with
    | some x => s.unlessHeld k th [] (mmaWrites f th) (closeSlot s k th f x)
    | none =>
      if mmaNeeds f th k i (s.widens f th) > 64 - i.usedSlots then
        if i.exhausted th.graph th.task then
          s.trap k .slotExhausted (BitVec.ofNat 64 (tensorIdx f)) (tensorWord (BitVec.ofNat 6 op) f)
        else s.setThread k (some { th with status := .slotWait op f (s.hallLc (hallOf (stallOf k))) })
      else s.unlessHeld k th (mmaReads op f th) (mmaWrites f th) ((mmaEffect op f k th s).trapExhausted (stallOf k))

/-- MMA (Table 3.7). -/
def execMma (t : ThreadRef) (f : TensorF) (s : State) : Host.Outcome State Fault Refusal :=
  issue t (tensorWord 0 f) s fun k th s => runMma 0 f k th s
/-- MMA_TA: A read transposed (Table 3.7). -/
def execMmaTa (t : ThreadRef) (f : TensorF) (s : State) : Host.Outcome State Fault Refusal :=
  issue t (tensorWord 1 f) s fun k th s => runMma 1 f k th s
/-- MMA_TB: B read transposed (Table 3.7). -/
def execMmaTb (t : ThreadRef) (f : TensorF) (s : State) : Host.Outcome State Fault Refusal :=
  issue t (tensorWord 2 f) s fun k th s => runMma 2 f k th s

/-- SLOT_BEGIN_GRANT: a BEGIN that waited for a physical slot receives one and proceeds, unless its task is being saved or held on a
fault (R120, R126). -/
def execSlotBeginGrant (t : ThreadRef) (s : State) : Host.Outcome State Fault Refusal :=
  match s.thread (tkey t) with
  | some th =>
    match th.status with
    | .slotWait op f _ =>
      let th := { th with status := .ready }
      if mmaNeeds f th (tkey t) (s.stall (skey t.st)) (s.widens f th) ≤ 64 - (s.stall (skey t.st)).usedSlots
          && s.canIssue (tkey t) th then
        .next (runMma op f (tkey t) th s)
      else .next s
    | _ => .next s
  | none => .next s

end Sys2Proof.Machine
end

