-- ==== Sys2Proof/Machine/Epochs.lean ====
section
/-! DEFINITION. Weight epochs at admission (R71, R502 to R504) and the copies that old epochs hold (R505, R507). -/

namespace Sys2Proof.Machine

/-- The part reaches the boundary b of a committed switch when it admits it (Table 17.3 step 4). -/
def State.reachEpoch (s : State) (job : Byte) (step : W32) (m : Nat) : State :=
  match s.wpart job with
  | some { commit := some b, epoch := e, .. } => if pairBefore (step, m) b then s else s.setEpoch job e
  | _ => s

/-- A task of micro-batch `m` with epoch 0xFFFF takes the epoch stamped (R71). -/
def stampTask (m : Nat) (e : W16) (t : TaskSt) : TaskSt :=
  if (tagMb t.tags).toNat = m && tagWeight t.tags = 0xFFFF then { t with tags := setTagWeight t.tags e } else t

/-- Whether micro-batch admission of a graph is domain-wide (R78). -/
def Graph.domainWide (gr : Graph) : Bool := gr.hdr.syncMode = 1 || gr.hdr.syncMode = 3

/-- The sync master sends ADMIT for micro-batch `m`, once (R78). -/
def State.sendAdmit (s : State) (g m : Nat) : State :=
  match s.graph g with
  | none => s
  | some gr =>
    if gr.domainWide && gr.hdr.syncMaster && !(gr.admits.contains (gr.step, m)) then
      (s.setGraph g (some { gr with admits := gr.admits ++ [(gr.step, m)] })).send (.mgmt none (.admitMb gr.hdr.job gr.step (BitVec.ofNat 16 m)))
    else s

/-- Whether the sync master's messages let a part admit micro-batch `m`: after CLOSE the master admits only what it has
already sent ADMIT for (R78, R80). -/
def Graph.admitAllowed (gr : Graph) (m : Nat) : Bool :=
  !gr.domainWide || (gr.hdr.syncMaster && gr.closeC.isNone) || gr.admits.contains (gr.step, m)

/-- Admit micro-batch `m` of a graph's step: its tasks take their epoch (R71, R78, R502). -/
def State.stampMb (s : State) (g m : Nat) : State :=
  let s := s.sendAdmit g m
  match s.graph g with
  | none => s
  | some gr =>
    let e := s.epochFor gr.hdr.job gr.step m
    (s.setGraph g (some { gr with admitted := gr.admitted + 1, stamps := gr.stamps ++ [(m, e)], tasks := gr.tasks.map (stampTask m e) })).reachEpoch gr.hdr.job gr.step m

/-- The lowest micro-batch of a step that is not admitted, where no task carries it. -/
def Graph.emptyNext (gr : Graph) : Option Nat :=
  let m := ((List.range gr.hdr.mbCount).find? fun m => !(gr.stamps.any fun p => p.1 = m)).getD gr.hdr.mbCount
  if m < gr.hdr.mbCount && gr.tasks.all (fun t => (tagMb t.tags).toNat ≠ m) then some m else none

/-- With PIPE 0 a micro-batch that no task carries has no first task to be admitted by: it is admitted as soon as every lower
one is (DESIGN CHOICE, log entry 37). -/
def admitEmpty (g : Nat) : Nat → State → State
  | 0, s => s
  | n + 1, s =>
    match s.graph g with
    | none => s
    | some gr => match gr.emptyNext with
      | none => s
      | some m => if gr.hdr.pipe || s.admitHeld gr.hdr.job || !(gr.admitAllowed m) then s else admitEmpty g n (s.stampMb g m)

/-- The epoch a whole-step task takes: that of micro-batch 0 of its step (R502). -/
def State.stepEpoch (s : State) (gr : Graph) : W16 :=
  match gr.stamps.find? fun p => p.1 = 0 with
  | some p => p.2
  | none => s.epochFor gr.hdr.job gr.step 0

/-- Whether a task that becomes ready must wait: a weight switch holds admissions, or the sync master has not admitted
its micro-batch (R78, R502, Table 17.3). -/
def State.epochWaits (s : State) (gr : Graph) (tags : W64) : Bool :=
  if tagMb tags = 0xFFFF then s.admitHeld gr.hdr.job && tagWeight tags = 0xFFFF && !(gr.stamps.any fun p => p.1 = 0)
  else !gr.hdr.pipe && !(gr.stamps.any fun p => p.1 = (tagMb tags).toNat)
    && (s.admitHeld gr.hdr.job || !(gr.admitAllowed (tagMb tags).toNat))

/-- A ready task gives its micro-batch's first admission in a graph without pipelining, or takes its step's epoch
(R502). -/
def State.stampReady (s : State) (g t : Nat) : State :=
  match s.graph g, s.task g t with
  | some gr, some ts =>
    let m := tagMb ts.tags
    if m = 0xFFFF then
      (if tagWeight ts.tags = 0xFFFF then s.modTask g t fun x => { x with tags := setTagWeight x.tags (s.stepEpoch gr) } else s)
    else if !gr.hdr.pipe && !(gr.stamps.any fun p => p.1 = m.toNat) then admitEmpty g gr.hdr.mbCount (s.stampMb g m.toNat)
    else s
  | _, _ => s

end Sys2Proof.Machine
end

