-- ==== Sys2Proof/Machine/Ready.lean ====
section
/-! DEFINITION. From dependence to queue: gates (R53), admission (R68 to R71), the update task (R66) and the choice of
hall and aisle queue (R59). -/

namespace Sys2Proof.Machine

/-! ### Queues (R59) -/

/-- PLACE fields (Table 2.2). -/
def TaskRec.placeHall (r : TaskRec) : Nat := r.place.toNat % 8
def TaskRec.placeAisle (r : TaskRec) : Nat := r.place.toNat / 8 % 64
def TaskRec.placeStall (r : TaskRec) : Nat := r.place.toNat / 512 % 32

/-- The resident graphs with their handles. -/
def State.residents (s : State) : List (Nat × Graph) :=
  [0, 1, 2, 3, 4, 5, 6, 7].filterMap fun g => (s.graph g).map fun gr => (g, gr)

/-- Whether a graph of a job is resident. -/
def State.jobResident (s : State) (job : Byte) : Bool := s.residents.any fun p => p.2.hdr.job = job

/-- Tasks queued in a hall, or in one of its aisles. -/
def State.queued (s : State) (h : Nat) (a : Option Nat) : Nat :=
  s.residents.foldl (fun n p => n + (p.2.tasks.filter fun t => t.st = .ready && (match t.queue with
    | some (qh, qa) => qh = h && (match a with | some x => qa = x | none => true)
    | none => false)).length) 0

/-- The least of a list by a measure, the first on a tie. -/
def leastBy (f : Nat → Nat) : List Nat → Option Nat
  | [] => none
  | x :: r => match leastBy f r with
    | none => some x
    | some y => if f y < f x then some y else some x

/-- Whether a kind runs as threads on a stall (Table 2.3). -/
def TaskRec.onStall (r : TaskRec) : Bool := r.kind = 0x01 || r.kind = 0x07
/-- Whether a kind runs on the ROOT or SLV of a hall. -/
def TaskRec.onHall (r : TaskRec) : Bool := r.kind = 0x04 || r.kind = 0x05

/-- Whether an aisle takes work. -/
def State.aisleUp (s : State) (a : Nat) : Bool := !(s.hall (a / 36)).fenced && !(s.aisle a).fenced && !(s.aisle a).gone

/-- The aisles of a hall that PLACE allows and that serve, or will once a spare takes their identifier (R17, R20). -/
def State.aislesFor (s : State) (r : TaskRec) (h : Nat) : List Nat :=
  (if r.placeAisle = 63 then List.range 36 else [r.placeAisle]).filter fun a => !(s.aisle (aisleKey h a)).gone

/-- The halls that PLACE allows and that can serve a task (R17, R20, R21). -/
def State.hallsFor (s : State) (r : TaskRec) : List Nat :=
  (if r.placeHall = 7 then [0, 1, 2, 3] else [r.placeHall]).filter fun h => !(s.hall h).fenced && (r.onHall || !(s.aislesFor r h).isEmpty)

/-- The hall and aisle queue a ready task goes to (R59, R61); 36 is the hall's own queue, 4 the hub's. Where PLACE names any
aisle, a fenced one is left out while another is up (R17). -/
def State.chooseQueue (s : State) (r : TaskRec) : Option (Nat × Nat) :=
  if !r.onStall && !r.onHall then some (4, 36)
  else match leastBy (fun h => s.queued h none) (s.hallsFor r) with
    | none => none
    | some h =>
      if r.onHall then some (h, 36)
      else
        let up := (s.aislesFor r h).filter fun a => s.aisleUp (aisleKey h a)
        (leastBy (fun a => s.queued h (some a)) (if up.isEmpty then s.aislesFor r h else up)).map fun a => (h, a)

/-! ### Lending (R375, R376) -/

/-- The mean of the last 8 completed WAIT durations of a hall on a counter; 0 at first (R375). -/
def Bell.meanWait (b : Bell) (h part : Nat) (i : W16) : Nat :=
  let l := b.waits.get [] (h * 2 ^ 29 + part * 2 ^ 16 + i.toNat)
  l.foldl (fun n d => n + d.toNat) 0 / max 1 l.length

/-- Whether a suspended thread of a hall is expected to wait longer than the threshold (R375, R376). -/
def State.waitsLong (s : State) (h : Nat) (th : Thread) : Bool :=
  match th.status with
  | .wait _ part i since _ => s.bell.meanWait h part i - (s.hallLc h - since).toNat > s.bell.lendTheta.toNat
  | .barrier _ part i _ => s.bell.meanWait h part i - (s.hallLc h - th.waitFrom).toNat > s.bell.lendTheta.toNat
  | _ => false

/-- Whether a hall agent reports its hall as lendable (R376). -/
def State.isLendable (s : State) (h : Nat) : Bool :=
  s.bell.lendEnable && s.queued h none = 0
    && s.threads.all fun p => match p.2 with
      | some th => hallOf (stallOf p.1) ≠ h || s.waitsLong h th
      | none => true

/-- The hall agent's report as it now stands; a withdrawn hall leaves its parking and rises (R376, R589). -/
def State.setLendable (s : State) (h : Nat) (v : Bool) : State :=
  if h < 4 && s.bell.lendable.getLsbD h != v then
    let s := s.setBell { s.bell with lendable := s.bell.lendable ^^^ ((1 : BitVec 4) <<< h) }
    let p := s.power.halls.get {} h
    if !v && p.lent then
      { s with power := { s.power with halls := s.power.halls.set {} h { p with parked := false, lent := false, returning := true } } }
    else s
  else s
def State.updateLend (s : State) (h : Nat) : State := s.setLendable h (s.isLendable h)

/-! ### One lc (R4, R638) -/

/-- One lc passes in every hall whose counter runs, and at the hub. -/
def State.tickLc (s : State) : State :=
  let t := [0, 1, 2, 3].foldl (fun (s : State) (h : Nat) =>
    let i := s.hall h
    if i.lcRunning then s.setHall h { i with lc := i.lc + 1 } else s) s
  { t with refLc := if t.clockHall.isSome then t.hubLc else t.refLc + 1 }

/-- With no command waiting, one lc passes, and reports of lendable halls end whose threads no longer wait long enough (R4, R376,
R638; DESIGN CHOICE, log entry 15). -/
def State.idle (s : State) : State :=
  [0, 1, 2, 3].foldl (fun (s : State) (h : Nat) => if s.bell.lendable.getLsbD h then s.updateLend h else s) s.tickLc

/-- Whether nothing can serve the unit that PLACE names any more (R17, R20, R21). -/
def State.placeLost (s : State) (r : TaskRec) : Bool := (r.onStall || r.onHall) && (s.hallsFor r).isEmpty

/-- A task becomes ready: it takes its order stamp and its queue; where PLACE leaves nothing to serve it, its graph ends
(R17). -/
def State.makeReady (s : State) (g t : Nat) (ahead : Bool) : State :=
  match s.rec_ g t with
  | none => s
  | some r =>
    if s.placeLost r then (s.modTask g t fun ts => { ts with st := .aborted, queue := none }).failGraph g 0x2F (BitVec.ofNat 64 t)
    else
      let q := s.chooseQueue r
      let s := (s.modTask g t fun ts => { ts with st := .ready, stamp := s.clock, queue := q, ahead := ahead }).tick
      (match q with | some (h, _) => if h < 4 then s.updateLend h else s | none => s)

/-! ### Readiness (R52, R66, R68) -/

/-- Whether a graph has a task of PHASE 3 still to complete or be skipped (R66). -/
def Graph.phase3Open (gr : Graph) : Bool :=
  (gr.recs.zip gr.tasks).any fun p => p.1.phase = 3 && p.1.kind ≠ 0x07 && !(p.2.st = .done || p.2.st = .skipped)

/-- Whether a micro-batch is admitted (R68). -/
def Graph.isAdmitted (gr : Graph) (m : Nat) : Bool := !gr.hdr.pipe || m < gr.admitted

/-- A task whose predecessors and gate hold moves on: to its admission, to the update's wait, or to ready. -/
def State.pastGate (s : State) (g t : Nat) : State :=
  match s.graph g, s.rec_ g t with
  | some gr, some r =>
    if (gr.hdr.pipe && r.phase = 1 && !(gr.isAdmitted (tagMb r.tags).toNat)) || s.epochWaits gr r.tags then
      s.modTask g t fun ts => { ts with st := .waitAdmit }
    else if gr.hdr.updateTask = BitVec.ofNat 32 t && gr.phase3Open then
      s.modTask g t fun ts => { ts with st := .waitUpdate }
    else (s.stampReady g t).makeReady g t false
  | _, _ => s

/-- The home of a counter: hall agent 0 to 3, or the central unit 4 (Table 12.1). -/
def bellHome (i : W16) : Nat := min (i.toNat / 15360) 4
/-- The local count a home unit uses (R356). -/
def State.homeLc (s : State) (home : Nat) : W64 := if home < 4 then s.hallLc home else s.hubLc
/-- Whether a counter is lost: its home hall is fenced (R350). -/
def State.bellLost (s : State) (i : W16) : Bool := bellHome i < 4 && (s.hall (bellHome i)).fenced

/-- Whether a counter value meets a comparison (Table 3.12). -/
def cmpHolds (cmp : BitVec 2) (v target : W64) : Bool :=
  if cmp = 0 then target.ule v else if cmp = 1 then v = target else target.ult v

/-- A counter's value. -/
def State.counter (s : State) (i : W16) : W64 := s.bell.counters.get 0 i.toNat

/-- Table entries of a home unit (R355). -/
def homeSize (home : Nat) : Nat := if home < 4 then 262144 else 65536
/-- Stored watches of a home unit. -/
def Bell.stored (b : Bell) (home : Nat) : Nat := (b.watches.filter fun w => bellHome w.index = home).length

/-- The completion message of a watch (R357, R361); `dest` is where it goes. -/
def State.watchMsg (s : State) (w : Watch) (o : BellOutcome) (tie : Bool) : BellMsg :=
  { dest := match w.waiter with
      | .thread k => .thread ⟨⟨Fin.ofNat 4 (hallOf (stallOf k)), Fin.ofNat 36 (aisleOf (stallOf k)), Fin.ofNat 16 (stallOf k)⟩, Fin.ofNat 1024 k⟩
      | .barrierWait k _ => .thread ⟨⟨Fin.ofNat 4 (hallOf (stallOf k)), Fin.ofNat 36 (aisleOf (stallOf k)), Fin.ofNat 16 (stallOf k)⟩, Fin.ofNat 1024 k⟩
      | .gate g t => .gate (Fin.ofNat 8 g) t
      | .host c => .host (BitVec.ofNat 32 w.id) c
      | .remote p x => .remote (Fin.ofNat 8192 p) x
    index := w.index, part := Fin.ofNat 8192 s.partNo, outcome := o, tie := tie, value := s.counter w.index,
    lc := s.homeLc (bellHome w.index)
    watch := match w.waiter with
      | .remote _ x => wordWatch x
      | _ => w.id }

/-- A registration is accepted at its home unit: LOST, HELD at once, stored, or, as `free` says no entry is, held (R350, R355,
R357, R359). -/
def State.acceptReg (s : State) (w : Watch) (free : Bool) : State :=
  if s.bellLost w.index then s.setBell { s.bell with msgs := s.bell.msgs ++ [s.watchMsg w .lost false] }
  else if cmpHolds w.cmp (s.counter w.index) w.target then
    (s.setBell { s.bell with msgs := s.bell.msgs ++ [s.watchMsg w .held false] }).traceEvent (bellHome w.index) 4 0 w.index.toNat
  else if free then
    s.setBell { s.bell with watches := s.bell.watches ++ [{ w with since := s.homeLc (bellHome w.index) }] }
  else (s.setBell { s.bell with heldRegs := s.bell.heldRegs ++ [w] }).count .bellFull (bellHome w.index) 1

/-- Whether a registration finds an entry at its home unit: the table has one, and no earlier registration waits for it (R355). -/
def Bell.freeEntry (b : Bell) (home : Nat) : Bool :=
  b.stored home < homeSize home && !(b.heldRegs.any fun x => bellHome x.index = home)

/-- A registration reaches its home unit, behind those held there (R355). -/
def State.register (s : State) (w : Watch) : State :=
  if s.bell.heldRegs.any fun x => bellHome x.index = bellHome w.index then
    (s.setBell { s.bell with heldRegs := s.bell.heldRegs ++ [w] }).count .bellFull (bellHome w.index) 1
  else s.acceptReg w (s.bell.freeEntry (bellHome w.index))

/-- The next watch id. -/
def State.newWatch (s : State) : Nat × State :=
  (s.bell.nextWatch, s.setBell { s.bell with nextWatch := s.bell.nextWatch + 1 })

/-- Register a watch on a counter of any part (R41, R351): locally, or by a BELL_REG packet. -/
def State.registerAt (s : State) (part : Nat) (index : W16) (target : W64) (cmp : BitVec 2) (timeout : W32) (waiter : Waiter) :
    State :=
  let (id, s) := s.newWatch
  if part = s.partNo then
    s.register { id := id, index := index, target := target, cmp := cmp, timeout := timeout, waiter := waiter, since := 0 }
  else
    s.sendReg part index target cmp timeout (waiter.word id)

/-- The address of a counter in the window (Table 1.12). -/
def counterAddr (part : Nat) (i : W16) : Nat := part * 2 ^ 44 + 0xF0000000000 + 8 * i.toNat

/-- A task whose predecessor count reached zero: its gate, if any, is registered (R52, R53). A gate counter of a part that is no
member of the domain is an address error of the hub, and the graph ends with ADDRESS (R41, DEDUCED, log entry 11). -/
def State.predsDone (s : State) (g t : Nat) : State :=
  match s.rec_ g t with
  | none => s
  | some r =>
    if r.gatePart.getLsbD 15 then
      let part := r.gatePart.toNat % 8192
      if s.member part then
        (s.modTask g t fun ts => { ts with st := .gated, gateWatch := s.bell.nextWatch }).registerAt part r.gateIndex r.gateTarget 0 0
          (.gate g t)
      else
        ((s.accessFault 4 false (counterAddr part r.gateIndex) r.tags).modTask g t fun ts => { ts with st := .aborted }).failGraph g 0x05
          (BitVec.ofNat 64 t)
    else s.pastGate g t

end Sys2Proof.Machine
end

