-- ==== Sys2Proof/Machine/DrainOps.lean ====
section
/-! DEFINITION. Drains (R165 to R168, R193, R205), check entries and check tasks (R231 to R234), and the end of a
thread (R125). -/

namespace Sys2Proof.Machine

/-! ### The end of a thread (R125) -/

/-- Whether END may free the context: no busy token, every write visible, no drain of the thread (R125). -/
def State.canEnd (s : State) (k : Nat) (th : Thread) : Bool :=
  th.moves.isEmpty && !(s.writesOut k) && !((s.stall (stallOf k)).drains.any fun d => d.owner = k)

/-- Free an ending thread's context; the task's unit has finished once its last thread is gone (R54, R125). -/
def State.tryEnd (s : State) (k : Nat) : State :=
  match s.thread k with
  | some th =>
    if th.status = .ending && s.canEnd k th then
      let s := s.setThread k none
      if (s.taskThreads th.graph th.task).isEmpty then
        s.modTask th.graph th.task fun ts => { ts with unitDone := true }
      else s
    else s
  | none => s

/-- Earlier writes of the thread that SIG must wait for (R111): moves, drains, remote writes. -/
def State.writesPending (s : State) (k : Nat) (th : Thread) : Option HoldWhy :=
  if !th.moves.isEmpty then some .move
  else if (s.stall (stallOf k)).drains.any fun d => d.owner = k then some .drain
  else if s.writesOut k then some .ack else none

/-- A thread in FENCE, or holding a SIG for acknowledgements, goes on once nothing of it is pending (R111). -/
def State.wakeFence (s : State) (k : Nat) : State :=
  match s.thread k with
  | none => s
  | some th =>
    if (s.writesPending k th).isNone then
      match th.status with
      | .fence => s.setThread k (some th.past)
      | .held .ack => s.setThread k (some { th with status := .ready })
      | _ => s
    else s

/-- Something the thread waited for to be visible is visible: FENCE, SIG and END may go on, and a trapped thread may leave. -/
def State.wake (s : State) (k : Nat) : State := ((s.wakeFence k).tryEnd k).reap k

/-- END (R125): a slot begun and not closed traps with SLOT_STATE; otherwise the thread ends when it can. -/
def execEndI (t : ThreadRef) (f : ControlF) (s : State) : Host.Outcome State Fault Refusal :=
  issue t (controlWord 0x0F f) s fun k th s =>
    if f.xa ≠ 0 || f.xb ≠ 0 || f.xl ≠ 0 || f.link || f.rsv ≠ 0 || f.offs ≠ 0 then
      s.trap k .illegal 0 (controlWord 0x0F f)
    else match (s.stall (stallOf k)).slots.find? fun x => x.owner = k with
      | some x => s.trap k .slotState (BitVec.ofNat 64 x.idx) (controlWord 0x0F f)
      | none => (s.setThread k (some { th with status := .ending, issued := s.clock })).tick.tryEnd k

/-! ### Writing a drained tile -/

/-- A drain without the chain: the slot's elements unconverted; a widened half slot rounds once to FP16 (R165, R237). -/
def drainRaw (s : State) (st : Nat) (d : Drain) : State :=
  let dc := Desc.parse d.dc
  let x := d.slot
  ((tileIdx (originIdx d.origin)).zip (List.range 1024)).foldl (fun (s : State) (p : List Nat × Nat) =>
    let raw := if x.kind.isInt then ofSigned 32 (x.vals.getD p.2 0)
      else if x.kind = .f16 then fmtF16.encode (x.value p.2) else (x.vals.getD p.2 0).toNat
    s.writeRaw st dc p.1 raw) s

/-- The exponent shift of a direct drain (R201, R205). -/
def drainShift (k : SlotKind) (c : ChainCfg) : Int :=
  match k with
  | .fp64 => c.e0 - 60
  | .q => 24 - c.e0
  | _ => c.e0

/-- A drain through the chain (R165, R199 to R205): a direct conversion, or the stages on each row of the tile. -/
def drainChain (s : State) (st : Nat) (d : Drain) : State :=
  let dc := Desc.parse d.dc
  let cfg := ChainCfg.parse d.cfg
  let x := d.slot
  let o := originIdx d.origin
  let e : PassEnv := { cfg := cfg, mask := none, x27 := d.x27, x28 := d.x28, x29 := d.x29, x30 := d.x30, step := d.step, seed := d.seed }
  let at_ := fun (r c : Nat) => [o.getD 0 0 + c, o.getD 1 0 + r, o.getD 2 0, o.getD 3 0, o.getD 4 0]
  (List.range 32).foldl (fun (s : State) (r : Nat) =>
    if cfg.direct then
      (List.range 32).foldl (fun (s : State) (c : Nat) =>
        if dc.fmt = 0xB then s.directOut st dc (at_ r c) false cfg.e0 (x.value (r * 32 + c))
        else s.writeVal st dc (at_ r c) ((x.value (r * 32 + c)).scale (drainShift x.kind cfg))) s
    else
      let groups := groupIdx 128 2 (o.getD 0 0) 32
      let pre := (cfg.used.filter fun q => q.1 ≤ cfg.rtap).map (·.2)
      let entry := fun (i0 : Nat) => f32 (x.value (r * 32 + (i0 - o.getD 0 0)))
      let tap := groups.map fun g => g.map fun i0 =>
        (i0 % 128, (runStages (e.stageEnv (entry i0) 0 0 0 (at_ r (i0 - o.getD 0 0))) pre (entry i0)).1)
      let (ra, rb) := if cfg.rop = 0 then (0, 0) else reduceResults cfg.rop tap
      groups.flatten.foldl (fun (s : State) (i0 : Nat) =>
        let i := at_ r (i0 - o.getD 0 0)
        let v := runStages (e.stageEnv (entry i0) 0 ra rb i) (cfg.used.map (·.2)) (entry i0)
        let s := s.count .conversions (hallOf st) v.2
        if cfg.packs then s.writeRaw st dc i v.1 else s.writeVal st dc i (val32 v.1)) s) s

/-! ### The cross-check ring (R232 to R234) -/

/-- Change a job's cross-check counts of the step. -/
def State.xchkCount (s : State) (job : Byte) (f : XchkCounts → XchkCounts) : State :=
  { s with xchk := { s.xchk with cur := s.xchk.cur.set {} job.toNat (f (s.xchk.cur.get {} job.toNat)) } }
/-- Whether the check ring is a job's (R232). -/
def Xchk.ringOf (x : Xchk) (job : Byte) : Bool := x.configured && x.job = job

/-- Used entries of a hall's ring. -/
def Xchk.usedIn (x : Xchk) (h : Nat) : Nat := (x.used.filter fun p => p.1 / 4096 = h).length
/-- The lowest free entry of a hall's ring. -/
def Xchk.freeIn (x : Xchk) (h : Nat) : Option Nat :=
  (List.range x.entries).find? fun i => !(x.used.get false (h * 4096 + i))
/-- The virtual address of a ring entry (Table 7.5). -/
def Xchk.entryVa (x : Xchk) (h i : Nat) : Nat := x.base.toNat + h * x.entries * 9216 + i * 9216

/-- The bytes of a check entry the J5 writes when the slot drains: the header and RESULT (Table 7.4). -/
def checkEntryBytes (d : Drain) (j : BitVec 28) (drefs : List W64) (arg : W64) : List Byte :=
  let dc := Desc.parse d.dc
  padTo 0x400 ([0, BitVec.ofNat 8 dc.xthr, BitVec.ofNat 8 d.slot.fmt.toNat, BitVec.ofNat 8 d.slot.accw.toNat]
    ++ leBytes 4 dc.code.toNat ++ leBytes 8 d.tags.toNat ++ leBytes 4 d.task ++ leBytes 2 d.thread ++ leBytes 2 d.graph
    ++ leBytes 4 j.toNat ++ leBytes 4 d.step.toNat ++ leBytes 8 d.origin.toNat
    ++ ((List.range 6).flatMap fun i => leBytes 8 (drefs.getD i 0).toNat) ++ leBytes 8 arg.toNat)
  ++ (List.range 1024).flatMap fun i => leBytes 4 (f32 (d.slot.value i))

/-- The record of a check task the hall dispatcher creates (R234). -/
def checkRec (x : Xchk) (tags : W64) (h : Nat) (va : Nat) : TaskRec :=
  { kind := 0x07, ctrl := 3, threads := BitVec.ofNat 16 (x.threads - 1), pred := 0, tags := tags,
    place := BitVec.ofNat 32 (h + 63 * 8 + 31 * 512), succCount := 0, succPtr := 0, body := x.entry,
    arg := BitVec.ofNat 64 va, gateIndex := 0, gatePart := 0, rsv0 := 0, gateTarget := 0, drefs := List.replicate 6 0,
    doneIndex := 0, donePart := 0, rsv1 := 0 }

/-- Write the check entry of a sampled drain and create its check task (R232, R234). -/
def writeCheckEntry (s : State) (st : Nat) (d : Drain) (j : BitVec 28) (i : Nat) : State :=
  let h := hallOf st
  let x := s.xchk
  let va := x.entryVa h i
  let r := s.rec_ d.graph d.task
  let bytes := checkEntryBytes d j ((r.map (·.drefs)).getD []) ((r.map (·.arg)).getD 0)
  match s.vwrite x.job va bytes with
  | .ok (s, away) =>
    let s := s.remoteWrites (.posted (tagJob d.tags)) d.tags true away
    let s := { s with xchk := { s.xchk with used := s.xchk.used.set false (h * 4096 + i) true } }
    match s.graph d.graph with
    | none => s
    | some gr =>
      let t := gr.tasks.length
      let ts : TaskSt := { preds := 0, tags := d.tags, check := some (h, i) }
      (s.setGraph d.graph (some { gr with recs := gr.recs ++ [checkRec x d.tags h va], tasks := gr.tasks ++ [ts] })).makeReady
        d.graph t false
  | _ =>
    -- the ring cannot be reached: the sample is unchecked, with an ADDRESS record (DEDUCED, log entry 8)
    let s := s.xchkCount (tagJob d.tags) fun c => { c with unchecked := c.unchecked + 1 }
    (s.count .xchkUnchecked h 1).accessFault h false va d.tags

/-! ### DRAIN_COMPLETE -/

/-- The drain leaves the stall: holds on its tile end, and an ending owner may free its context. -/
def finishDrain (s : State) (st : Nat) (d : Drain) : State :=
  let s := s.modStall st fun i => { i with drains := i.drains.drop 1 }
  let s := s.releaseHeld st fun w k => w = .drain && k = d.owner
  s.wake d.owner

/-- The oldest drain of a stall completes: its tile is written, its saturated elements are counted, a sampled tile
gets its check entry, and its physical slot is free. A sampled drain waits while its ring is full (R158, R166,
R168, R232, R233). -/
def execDrainComplete (st : StallId) (s : State) : Host.Outcome State Fault Refusal :=
  let k := skey st
  match (s.stall k).drains with
  | [] => .next s
  | d :: _ =>
    if !(s.hallRuns (hallOf k)) || (s.stall k).fenced || s.hbmHeld then .next s
    else
      let h := hallOf k
      let ring := s.xchk.ringOf (tagJob d.tags)
      let room := if d.sample.isSome && ring then s.xchk.freeIn h else some 0
      match room with
      | none => .next s
      | some i =>
        let s := if d.mode = 1 then drainRaw s k d else drainChain s k d
        let s := if d.slot.kind = .i32 then s.count .int32Saturated (hallOf k) d.slot.sat.length
          else if d.slot.kind.isInt then s.count .exactSaturated (hallOf k) d.slot.sat.length else s
        let s := match d.sample with
          | none => s
          | some j =>
            let s := (s.count .xchkSamples h 1).xchkCount (tagJob d.tags) fun c => { c with samples := c.samples + 1 }
            if ring then writeCheckEntry s k d j i
            else (s.count .xchkUnchecked h 1).xchkCount (tagJob d.tags) fun c => { c with unchecked := c.unchecked + 1 }
        .next (finishDrain s k d)

/-! ### Split K (R174 to R176) and exact-slice mode events -/

/-- The level-by-level tree: stage `n` stalls, level `L` halving (R175). -/
def combineSlots (x y : Slot) : Slot :=
  if x.kind.isInt then
    let (lo, hi) := x.kind.range
    let r := (List.range 1024).map fun i =>
      if x.sat.contains i then (x.vals.getD i 0, true)
      else if y.sat.contains i then (y.vals.getD i 0, true)
      else clampI lo hi (x.vals.getD i 0 + y.vals.getD i 0)
    { x with vals := r.map (·.1), sat := (List.range 1024).filter fun i => (r.getD i (0, false)).2 }
  else
    { x with vals := (List.range 1024).map fun i => (x.ffmt.encode ((x.value i).add (y.value i)) : Nat) }

/-- One level of the fixed tree over the participants' slots in stall order: neighbours pair up. -/
def treeLevel : List Slot → List Slot
  | x :: y :: r => combineSlots x y :: treeLevel r
  | l => l

/-- The tree over 2, 4, 8 or 16 slots: four levels suffice. -/
def slotTree (l : List Slot) : List Slot := treeLevel (treeLevel (treeLevel (treeLevel l)))

/-- The threads of a stall that wait in a SPLITK with a SLOT and an NM1. -/
def State.splitkWaiting (s : State) (st : Nat) (slot : BitVec 6) (nm1 : BitVec 4) : List (Nat × Thread) :=
  s.threads.filterMap fun p => match p.2 with
    | some th => if stallOf p.1 = st && (match th.status with | .splitk _ sl n => sl = slot && n = nm1 | _ => false) then some (p.1, th) else none
    | none => none

/-- The first of a list of threads to have issued. -/
def firstIssued : List (Nat × Thread) → Option (Nat × Thread)
  | [] => none
  | p :: r => match firstIssued r with
    | none => some p
    | some q => if q.2.issued < p.2.issued then some q else some p

/-- The thread of a stall that stands in a group of this job: the first to have issued the SPLITK, which later ones wait for
(R174). -/
def State.splitkOn (s : State) (st : Nat) (slot : BitVec 6) (nm1 : BitVec 4) (job : Byte) : Option (Nat × Thread) :=
  match firstIssued (s.splitkWaiting st slot nm1) with
  | some p => if tagJob (s.threadTags p.2) = job then some p else none
  | none => none

/-- A SPLITK ends with a result in XD and the thread goes on. -/
def State.splitkResult (s : State) (k : Nat) (v : W64) : State :=
  s.modThread k fun th => match th.status with
    | .splitk xd _ _ => (th.setX xd v).past
    | _ => th

/-- SPLITK_GROUP_FORM: every participant has its SPLITK pending; the slots combine in the fixed tree, the total is
held on S0, the others' slots are free (R174, R175), or every participant sees XD := 2 (R176). -/
def execSplitkGroupForm (hall : Fin 4) (aisle : Fin 36) (slot : BitVec 6) (nm1 : BitVec 4) (job : Byte) (s : State) :
    Host.Outcome State Fault Refusal :=
  let base := aisleKey hall.val aisle.val * 16
  let sts := (List.range (nm1.toNat + 1)).map (base + ·)
  let ps := sts.filterMap fun st => s.splitkOn st slot nm1 job
  if ps.length ≠ sts.length then .next s
  else
    let slots := ps.filterMap fun p => (s.stall (stallOf p.1)).find p.1 slot.toNat false
    let ok := slots.length = sts.length && slots.all fun x =>
      x.st = .open_ && (slots.head?.all fun y => x.kind = y.kind)
    if !ok then .next (ps.foldl (fun s p => s.splitkResult p.1 2) s)
    else
      let s := slots.foldl (fun s x => s.modStall (stallOf x.owner) fun i => i.remove x) s
      let s := match slotTree slots with
        | x :: _ => s.modStall (stallOf x.owner) fun i => i.put { x with st := .heldSplit }
        | [] => s
      .next (ps.foldl (fun s p => s.splitkResult p.1 0) s)

/-- SPLITK_TIMEOUT: the group has not formed 10,000 lc after the thread's SPLITK; the thread sees XD := 3 and keeps
its slot (R176). -/
def execSplitkTimeout (t : ThreadRef) (s : State) : Host.Outcome State Fault Refusal :=
  match s.thread (tkey t) with
  | some th =>
    match th.status with
    | .splitk _ _ _ => .next (s.splitkResult (tkey t) 3)
    | _ => .next s
  | none => .next s

/-- Whether a stall holds a slot of another format than the exact-slice kind of a mode (R177). -/
def StallInfo.otherFormat (i : StallInfo) : Bool :=
  (i.slots ++ i.drains.map (·.slot)).any fun x => x.kind ≠ .fp64 && x.kind ≠ .q

/-- Whether no other task's XSLICE waits on the stall. -/
def StallInfo.nextIs (i : StallInfo) (g t : Nat) : Bool := i.exactNext.all fun e => e.2.1 = g && e.2.2 = t

/-- The mode is set for the thread's task; XD := 0 (R177). -/
def State.setExact (s : State) (k : Nat) (xd : BitVec 5) (mode : BitVec 3) : State :=
  match s.thread k with
  | none => s
  | some th =>
    let s := s.modStall (stallOf k) fun i => { i with exact := some (mode, th.graph, th.task), exactNext := none }
    s.setThread k (some (th.setX xd 0).past)

/-- XSLICE_MODE_SET: a waiting XSLICE sees every slot of another format free and sets the mode (R177). -/
def execXsliceModeSet (t : ThreadRef) (s : State) : Host.Outcome State Fault Refusal :=
  match s.thread (tkey t) with
  | some th =>
    match th.status with
    | .xslice xd mode =>
      let i := s.stall (skey t.st)
      if i.otherFormat || !(i.nextIs th.graph th.task) then .next s
      else match i.exact with
        | some (m, g, tk) =>
          if g = th.graph && tk = th.task && m = mode then .next (s.setExact (tkey t) xd mode)
          else .next (s.setThread (tkey t) (some (th.setX xd 1).past))
        | none => .next (s.setExact (tkey t) xd mode)
    | _ => .next s
  | none => .next s

end Sys2Proof.Machine
end

