-- ==== Sys2Proof/Machine/BellOps.lean ====
section
/-! DEFINITION. Bell (chapter 12): signals, arbitration, pairs, barriers, journals, lending, and the sync class
(Table 3.13). -/

namespace Sys2Proof.Machine

/-! ### Signals (R348, R352 to R357) -/

/-- A fault record of a Bell unit; LUNIT is its hall, or 4 for the central unit. -/
def State.bellFault (s : State) (i : W16) (cls : FaultClass) (action : Byte) (detail : W64) : State :=
  let h := bellHome i
  if h < 4 then s.hallFault h cls 10 action (BitVec.ofNat 16 h) 0 detail
  else s.partFault cls 10 action 4 0 detail

/-- Whether a counter is configured as a barrier (R364). -/
def State.isBarrier (s : State) (i : W16) : Bool := s.bell.barriers.any fun b => b.index = i

/-- Add an increment; the counter holds at 2^64 − 1 with a fault record (R348). -/
def State.addCounter (s : State) (i : W16) (inc : W64) : State :=
  let v := s.counter i
  let past := v.toNat + inc.toNat ≥ 2 ^ 64
  let v' := if past then BitVec.allOnes 64 else v + inc
  let s := s.setBell { s.bell with counters := s.bell.counters.set 0 i.toNat v' }
  if past then s.bellFault i .counterSat 0 (BitVec.ofNat 64 i.toNat) else s

/-- Complete every stored watch on counter `i` whose condition holds, in the order stored (R357, R361). -/
def State.testWatches (s : State) (i : W16) : State :=
  let held := s.bell.watches.filter fun w => w.index = i && cmpHolds w.cmp (s.counter i) w.target
  let t := s.setBell { s.bell with
    watches := s.bell.watches.filter (fun w => !(w.index = i && cmpHolds w.cmp (s.counter i) w.target)),
    msgs := s.bell.msgs ++ held.map fun w => s.watchMsg w .held false }
  held.foldl (fun (s : State) _ => s.traceEvent (bellHome i) 4 0 i.toNat) t

/-- The check of a pair: C ≤ P ≤ C + B (R363). A breach is recorded with the counter `i` that changed. -/
def State.checkPair (s : State) (p : BellPair) (i : W16) : State :=
  let pv := (s.counter p.p).toNat
  let cv := (s.counter p.c).toNat
  if cv ≤ pv && pv ≤ cv + p.b.toNat then s
  else
    let s := s.setBell { s.bell with pairs := s.bell.pairs.map fun q => if q.id = p.id then { q with breaches := q.breaches + 1 } else q }
    (s.count .pairBreach p.id 1).bellFault i .pairBound 0 (BitVec.ofNat 64 i.toNat)

/-- The pair checks after an arbitration that changed these counters, one for each pair with one of them (R363). -/
def State.checkPairs (s : State) (changed : List W16) : State :=
  s.bell.pairs.foldl (fun (s : State) (p : BellPair) => match [p.p, p.c].find? changed.contains with
    | some i => s.checkPair p i
    | none => s) s

/-- One arbitration with one signal on counter `i` of this part (R357). None: the access completes with an
address-error status, since the counter is lost or is a barrier (R350, R368). -/
def State.signal (s : State) (i : W16) (inc : W64) : Option State :=
  if s.bellLost i || s.isBarrier i then none
  else if inc = 0 then some s
  else
    let t := (s.addCounter i inc).testWatches i
    some (if t.counter i = s.counter i then t else t.checkPairs [i])

/-- A unit's signal found no counter: an address error of the hub (R41, R350, R368). -/
def State.signalLost (s : State) (part : Nat) (i : W16) : State := s.accessFault 4 false (counterAddr part i) 0

/-- A signal of the J5's own to a counter of any part (R41, R352): local, or by a BELL_SIG packet. -/
def State.signalAt (s : State) (part : Nat) (i : W16) (inc : W64) : State :=
  if !(s.member part) then s.signalLost part i
  else if part = s.partNo then (s.signal i inc).getD (s.signalLost part i)
  else s.request (bellPacket 0x04 part i [inc]) .signal

/-! ### Journals (R373, R374) -/

/-- The journalled total of a task on a counter. -/
def journalTotal (l : List JournalEntry) (part : Nat) (i : W16) : Nat :=
  match l.find? fun e => match e with | .signal p j _ => p = part && j = i | _ => false with
  | some (.signal _ _ v) => v.toNat
  | _ => 0

/-- The journal with a new total; false when a seventeenth entry would be needed (R374). -/
def journalPut (l : List JournalEntry) (e : JournalEntry) : List JournalEntry × Bool :=
  let same := fun (x : JournalEntry) => match x, e with
    | .signal p i _, .signal q j _ => p = q && i = j
    | .barrier t p i g, .barrier u q j k => t = u && p = q && i = j && g = k
    | _, _ => false
  if l.any same then (l.map fun x => if same x then e else x, true)
  else if l.length < 16 then (l ++ [e], true) else (l, false)

/-- Record a signal of a task and answer the increment that applies: what exceeds the journalled total of an earlier
run (R373). -/
def State.journalSignal (s : State) (g t part : Nat) (i : W16) (inc : W64) : W64 × State :=
  match s.task g t with
  | none => (inc, s)
  | some ts =>
    let before := journalTotal ts.journal part i
    let after := before + inc.toNat
    let floor := journalTotal ts.replay part i
    let (j, ok) := journalPut ts.journal (.signal part i (BitVec.ofNat 64 (min after (2 ^ 64 - 1))))
    (BitVec.ofNat 64 (max after floor - max before floor),
     s.modTask g t fun ts => { ts with journal := j, nonRestartable := ts.nonRestartable || !ok })

/-! ### Barriers (R364 to R368) -/

/-- How an entry ended. -/
inductive Entry where
  | joined (gen : W64) | overrun | bad
  deriving DecidableEq, Repr

/-- Halls that are not fenced, as bits. -/
def State.upHalls (s : State) : BitVec 4 :=
  [0, 1, 2, 3].foldl (fun m h => if (s.hall h).fenced then m else m ||| (1 <<< h)) 0

/-- Parts of the current domain. -/
def State.domainSize (s : State) : Nat := let (a, b, c, d) := s.fab.shape; a * b * c * d

/-- Start the release of a generation (R366). -/
def State.startRelease (s : State) (b : Barrier) (g : W64) : State :=
  let n := if b.domain then s.domainSize else ([0, 1, 2, 3].filter fun h => !(s.hall h).fenced).length
  let s := if b.domain then s.send (.mgmt none (.barrierRelease b.index g)) else s
  s.setBell { s.bell with barriers := s.bell.barriers.map fun x =>
    if x.index = b.index then { x with releasing := some g, acks := n, pendingHalls := s.upHalls } else x }

/-- An entry into a barrier of this part (R365, R367, R368). -/
def State.enterBarrier (s : State) (i : W16) (remote : Bool) : Entry × State :=
  match s.bell.barriers.find? fun b => b.index = i with
  | none => (.bad, s)
  | some b =>
    if remote && !b.domain then (.bad, s)
    else
      let v := (s.counter i).toNat
      let past : Bool := match b.releasing with | some g => v ≥ (g.toNat + 1) * b.n | none => false
      if past then (.overrun, s.bellFault i .barrierOverrun 0 (BitVec.ofNat 64 i.toNat))
      else
        let s := (s.addCounter i 1).testWatches i
        let v' := (s.counter i).toNat
        let gen : W64 := BitVec.ofNat 64 ((v' - 1) / b.n + 1)
        let s := if b.releasing.isNone && v' = b.openGen.toNat * b.n then s.startRelease b b.openGen else s
        (.joined gen, s)

/-- The thread goes on past its WAIT or BARRIER with a value in XD. -/
def Thread.resumed (th : Thread) (xd : BitVec 5) (v : W64) : Thread := (th.setX xd v).past

/-- A thread suspended in BARRIER on a released generation goes on with XD := the generation it joined (R366). One that has not yet
learnt which generation it joined notes the release. -/
def releaseThread (part : Nat) (i : W16) (g : W64) (th : Thread) : Thread :=
  match th.status with
  | .barrier xd p j gen => if p = part && j = i && gen.ule g then th.resumed xd gen else th
  | .barrierAsk xd p j _ => if p = part && j = i then { th with status := .barrierAsk xd p j (some g) } else th
  | _ => th

/-- Every hall agent's report as it now stands (R376). -/
def State.updateLends (s : State) : State := [0, 1, 2, 3].foldl State.updateLend s

/-- BARRIER_RELEASE: the release of a generation reaches this part's hall agents, which resume their waiting threads
and acknowledge (R366). -/
def execBarrierRelease (part : Fin 8192) (index : W16) (gen : W64) (s : State) : Host.Outcome State Fault Refusal :=
  let own := part.val = s.partNo
  let ok := if own then s.bell.barriers.any fun b => b.index = index && b.releasing = some gen && b.pendingHalls ≠ 0 else true
  if !ok then .next s
  else
    let s : State := { s with threads := s.threads.map fun (p : Nat × Option Thread) => (p.1, p.2.map (releaseThread part.val index gen)) }
    let s := s.updateLends
    if own then
      .next (s.setBell { s.bell with barriers := s.bell.barriers.map fun (b : Barrier) =>
        if b.index = index then { b with pendingHalls := 0 } else b })
    else .next (s.send (.mgmt (some part.val) (.barrierAck index)))

/-- BARRIER_RELEASE_ACK: one agent or part acknowledges; with the last, the next generation opens, and its release
starts at once when it is already full (R366, R367). None of this part's agents acknowledges a release that has not reached it. -/
def execBarrierReleaseAck (index : W16) (s : State) : Host.Outcome State Fault Refusal :=
  match s.bell.barriers.find? fun b => b.index = index with
  | none => .next s
  | some b =>
    match b.releasing with
    | none => .next s
    | some g =>
      let upd := fun (f : Barrier → Barrier) (s : State) =>
        s.setBell { s.bell with barriers := s.bell.barriers.map fun x => if x.index = index then f x else x }
      if b.pendingHalls ≠ 0 && (!b.domain || b.acks ≤ 1) then .next s
      else if b.acks > 1 then .next (upd (fun x => { x with acks := x.acks - 1 }) s)
      else
        let s := upd (fun x => { x with acks := 0, releasing := none, openGen := g + 1 }) s
        if (s.counter index).toNat = (g.toNat + 1) * b.n then
          .next (s.startRelease b (g + 1))
        else .next s

/-! ### The sync class -/

/-- A sync field the OP does not use is non-zero, or CMP is 3 (Tables 3.12, 3.13). -/
def syncBad (d a b c t m : Bool) (f : SyncF) : Bool :=
  (!d && f.xd ≠ 0) || (!a && f.xa ≠ 0) || (!b && f.xb ≠ 0) || (!c && f.cmp ≠ 0) || f.cmp = 3 || (!t && f.timeout ≠ 0)
    || (!m && f.tokmask ≠ 0) || f.rsv ≠ 0

/-- Part and index of a counter address (Table 3.12). -/
def counterOf (x : W64) : Nat × W16 := ((bits x 16 13).toNat, bits x 0 16)
/-- The counter address of a part and an index (Table 3.12). -/
def counterWord (part : Nat) (i : W16) : W64 := BitVec.ofNat 64 (part * 65536 + i.toNat)

/-- SIG: adds XB to the counter at XA once every earlier write of the thread is visible (R111, R352). -/
def execSig (t : ThreadRef) (f : SyncF) (s : State) : Host.Outcome State Fault Refusal :=
  issue t (syncWord 0 f) s fun k th s =>
    let (part, i) := counterOf (th.xr f.xa)
    let w := syncWord 0 f
    if syncBad false true true false false false f then s.trap k .illegal 0 w
    else match s.writesPending k th with
    | some h => s.hold k th h
    | none =>
      if !(s.member part) then
        (s.accessFault (hallOf (stallOf k)) false (counterAddr part i) (s.threadTags th)).trap k .address
          (BitVec.ofNat 64 (counterAddr part i)) w
      else
        let (inc, s) := s.journalSignal th.graph th.task part i (th.xr f.xb)
        if part = s.partNo then
          match s.signal i inc with
          | none => s.trap k .address (BitVec.ofNat 64 (counterAddr part i)) w
          | some s => s.retire k th
        else ((s.setThread k (some { th with status := .remote w, issued := s.clock })).tick).request (bellPacket 0x04 part i [inc]) (.bell k)

/-- WAIT: suspends until the counter at XA meets CMP against XB, or TIMEOUT expires (Table 3.13, R127). -/
def execWait (t : ThreadRef) (f : SyncF) (s : State) : Host.Outcome State Fault Refusal :=
  issue t (syncWord 1 f) s fun k th s =>
    let (part, i) := counterOf (th.xr f.xa)
    let w := syncWord 1 f
    if syncBad true true true true true false f then s.trap k .illegal 0 w
    else if !(s.member part) then
      (s.accessFault (hallOf (stallOf k)) false (counterAddr part i) (s.threadTags th)).trap k .address
        (BitVec.ofNat 64 (counterAddr part i)) w
    else
      let lim : W32 := match th.timeoutLeft with | some v => bits v 0 32 | none => f.timeout.setWidth 32
      let th' := { th with status := .wait f.xd part i (s.hallLc (hallOf (stallOf k))) lim, timeoutLeft := none, issued := s.clock,
                           watch := s.bell.nextWatch }
      (((s.setThread k (some th')).tick).registerAt part i (th.xr f.xb) f.cmp lim (.thread k)).updateLend (hallOf (stallOf k))

/-- The generation a journalled thread already joined (R373). -/
def journalGen (l : List JournalEntry) (thread part : Nat) (i : W16) : Option W64 :=
  match l.find? fun e => match e with | .barrier t p j _ => t = thread && p = part && j = i | _ => false with
  | some (.barrier _ _ _ g) => some g
  | _ => none

/-- Record a joined generation in the task's journal (R373, R374). -/
def State.journalBarrier (s : State) (th : Thread) (part : Nat) (i : W16) (g : W64) : State :=
  s.modTask th.graph th.task fun ts =>
    let (j, ok) := journalPut ts.journal (.barrier th.idx part i g)
    { ts with journal := j, nonRestartable := ts.nonRestartable || !ok }

/-- A thread is suspended in a BARRIER whose generation it has joined (R365). -/
def Thread.inBarrier (th : Thread) (xd : BitVec 5) (part : Nat) (i : W16) (gen lc : W64) (watch : Nat) : Thread :=
  { th with status := .barrier xd part i gen, waitFrom := lc, watch := watch }

/-- A thread that has joined generation `gen` waits for the counter to reach `gen × N`, which the counter's home knows: the target
of a registration at another part is the generation (R372, R373, DESIGN CHOICE, log entry 10). A counter that is no barrier any more
traps (R368). -/
def State.awaitGen (s : State) (k : Nat) (th : Thread) (xd : BitVec 5) (part : Nat) (i : W16) (gen insn : W64) : State :=
  let t := s.setThread k (some (th.inBarrier xd part i gen (s.hallLc (hallOf (stallOf k))) s.bell.nextWatch))
  if part = s.partNo then
    match s.bell.barriers.find? fun b => b.index = i with
    | none => s.trap k .address (BitVec.ofNat 64 (counterAddr part i)) insn
    | some b => t.registerAt part i (BitVec.ofNat 64 (gen.toNat * b.n)) 0 0 (.barrierWait k gen)
  else t.registerAt part i gen barrierEntryCmp 0 (.barrierWait k gen)

/-- BARRIER: enters the barrier whose counter XA names and resumes at release; XD := generation (R365 to R368). A
journalled thread of a re-run waits for its journalled generation instead (R373). -/
def execBarrier (t : ThreadRef) (f : SyncF) (s : State) : Host.Outcome State Fault Refusal :=
  issue t (syncWord 2 f) s fun k th s =>
    let (part, i) := counterOf (th.xr f.xa)
    let w := syncWord 2 f
    if syncBad true true false false false false f then s.trap k .illegal 0 w
    else if !(s.member part) then
      (s.accessFault (hallOf (stallOf k)) false (counterAddr part i) (s.threadTags th)).trap k .address
        (BitVec.ofNat 64 (counterAddr part i)) w
    else match (s.task th.graph th.task).bind fun ts => journalGen ts.replay th.idx part i with
    | some g =>
      let s := s.modTask th.graph th.task fun ts => { ts with replay := ts.replay.filter fun e => e ≠ .barrier th.idx part i g }
      let s := s.journalBarrier th part i g
      (s.tick.awaitGen k { th with issued := s.clock } f.xd part i g w).updateLend (hallOf (stallOf k))
    | none =>
      if part = s.partNo then
        match s.enterBarrier i false with
        | (.bad, s) => s.trap k .address (BitVec.ofNat 64 (counterAddr part i)) w
        | (.overrun, s) => s.trap k .barrierOverrun (counterWord part i) w
        | (.joined g, s) =>
          (((s.journalBarrier th part i g).setThread k
            (some (Thread.inBarrier { th with issued := s.clock } f.xd part i g (s.hallLc (hallOf (stallOf k))) 0))).tick).updateLend (hallOf (stallOf k))
      else
        ((s.setThread k (some { th with status := .barrierAsk f.xd part i, issued := s.clock, watch := s.bell.nextWatch,
                                        waitFrom := s.hallLc (hallOf (stallOf k)) })).tick).registerAt part i 0
          barrierEntryCmp 0 (.thread k)

/-- WAITTOK: suspends until every token in TOKMASK is free; a zero mask is illegal (Table 3.13). -/
def execWaittok (t : ThreadRef) (f : SyncF) (s : State) : Host.Outcome State Fault Refusal :=
  issue t (syncWord 3 f) s fun k th s =>
    if syncBad false false false false false true f || f.tokmask = 0 then s.trap k .illegal 0 (syncWord 3 f)
    else if th.moves.any fun m => m.tok < 4 && f.tokmask.getLsbD m.tok then
      (s.setThread k (some { th with status := .waitTok f.tokmask, issued := s.clock })).tick
    else s.retire k th

/-- FENCE: holds later instructions until every earlier write of the thread is visible and every earlier remote write
is acknowledged (Table 3.13). -/
def execFence (t : ThreadRef) (f : SyncF) (s : State) : Host.Outcome State Fault Refusal :=
  issue t (syncWord 4 f) s fun k th s =>
    if syncBad false false false false false false f then s.trap k .illegal 0 (syncWord 4 f)
    else match s.writesPending k th with
      | none => s.retire k th
      | some _ => (s.setThread k (some { th with status := .fence, issued := s.clock })).tick

/-- YIELD: the thread becomes least recently issued in every arbiter (Table 3.13). -/
def execYield (t : ThreadRef) (f : SyncF) (s : State) : Host.Outcome State Fault Refusal :=
  issue t (syncWord 5 f) s fun k th s =>
    if syncBad false false false false false false f then s.trap k .illegal 0 (syncWord 5 f)
    else (s.setThread k (some { th.past with issued := 0 })).tick

end Sys2Proof.Machine
end

