-- ==== Sys2Proof/Machine/Land.lean ====
section
/-! DEFINITION. A packet lands at this part: sequence numbers already applied (R449), the checks at landing
(R440, R455), and the answer (R452, Table 15.9). -/

namespace Sys2Proof.Machine

/-- Response statuses (Table 15.9). -/
def rsOk : Byte := 0
def rsAddress : Byte := 1
def rsPoison : Byte := 2
def rsStale : Byte := 3
def rsEpochAhead : Byte := 4
def rsPartLost : Byte := 5
def rsUnreachable : Byte := 6

/-- The SEQs applied from a source in the last 1,000 lc (R449). -/
def State.recentSeqs (s : State) (src : Nat) : List (W32 × W64) :=
  (s.fab.seen.get [] src).filter fun p => (s.hubLc - p.2).toNat ≤ 1000

/-- Whether a packet's SEQ has been applied already (R449). -/
def State.alreadySeen (s : State) (src : Nat) (seq : W32) : Bool := (s.recentSeqs src).any fun p => p.1 = seq

/-- Record an applied SEQ (R449). -/
def State.noteSeq (s : State) (src : Nat) (seq : W32) : State :=
  s.setFab { s.fab with seen := s.fab.seen.set [] src ((seq, s.hubLc) :: s.recentSeqs src) }

/-- Count a packet dropped at landing (R440, R449, R455). -/
def State.countDrop (s : State) : State := s.count .linkDropped 0 1

/-- A response sets out. -/
def State.respond (s : State) (dst : Nat) (rid : W16) (status : Byte) (tags : W64) (data : List Byte) : State :=
  let (p, s) := s.response dst rid status tags data
  s.transmit 8 p

/-- The VC of a packet type (Table 15.4); none for an unknown type. -/
def pktVc (t : Byte) : Option Nat :=
  if t = 0x01 ∨ t = 0x02 ∨ t = 0x03 then some 0
  else if t = 0x04 ∨ t = 0x05 ∨ t = 0x06 then some 4
  else if t = 0x08 then some 2
  else if t = 0x09 then some 3
  else if t = 0x0A then some 5
  else if t = 0x10 then some 1 else none

/-- CTRL fields (Table 15.3). -/
def pktReplay (p : Pkt) : Bool := p.ctrl.getLsbD 5
def pktTagchk (p : Pkt) : Bool := p.ctrl.getLsbD 6

/-- Whether a header is well formed (R440): known TYPE, its VC, reserved fields zero. -/
def pktHeaderOk (p : Pkt) : Bool :=
  pktVc p.type = some (vcOf p) && pktCls p ≠ 3 && !(p.ctrl.getLsbD 7) && bits p.dst 13 3 = 0 && bits p.src 13 3 = 0
    && bits p.plen 7 9 = 0 && bits p.addr 44 20 = 0 && p.rsv = 0 && bits p.tags 60 4 = 0
    && (p.type = 0x03 || p.type = 0x10 || p.opx = 0)

/-- A malformed packet is dropped with a fault record; a request is answered ADDRESS (R440). -/
def State.dropPacket (s : State) (p : Pkt) : State :=
  let s := (s.countDrop).partFault .address 3 0 0 p.tags p.addr
  if isRequest p.type then
    s.respond (p.src.toNat % 8192) p.rid rsAddress p.tags []
  else s

/-- Whether epoch `a` is newer than `b` (R480). -/
def epochNewer (a b : W16) : Bool := 1 ≤ (a - b).toNat && (a - b).toNat ≤ 32767

/-- The tag check of a landing request (R455); none when it passes. -/
def State.tagCheck (s : State) (p : Pkt) : Option Byte :=
  if !(pktTagchk p) then none
  else if (s.space (tagJob p.tags)).isNone then some rsAddress
  else
    let cur := s.layoutEpoch.get 0 (tagJob p.tags).toNat
    if epochNewer cur (tagLayout p.tags) then some rsStale
    else if epochNewer (tagLayout p.tags) cur then some rsEpochAhead else none

end Sys2Proof.Machine
end

