-- ==== Sys2Proof/Machine/BellEvents.lean ====
section
/-! DEFINITION. The events of Bell (chapter 12): signals, registrations and messages of the fabric, timeouts, the
watch tables, the counter window. -/

namespace Sys2Proof.Machine

/-- A watch removed from its tables. -/
def Bell.dropWatch (b : Bell) (id : Nat) : Bell :=
  { b with watches := b.watches.filter fun w => w.id ≠ id }

/-- BELL_SIG: a signal from `src` reaches this part's counter. A replayed packet whose SEQ was applied is dropped
(R449); a lost counter or a barrier answers ADDRESS (R350, R368). -/
def execBellSig (src : Fin 8192) (index : W16) (inc : W64) (seq : W32) (rid : W16) (replay : Bool) (s : State) :
    Host.Outcome State Fault Refusal :=
  if replay && s.alreadySeen src.val seq then .next s.countDrop
  else
    let s := if src.val = s.partNo then s else s.noteSeq src.val seq
    let (st, s) := match s.signal index inc with
      | some s' => (rsOk, s')
      | none => (rsAddress, s)
    .next (if src.val = s.partNo then s else s.respond src.val rid st 0 [])

/-- The answer to a barrier entry of another part: HELD with the joined generation, TIMEOUT for an overrun, LOST
for an entry that is no entry (R365, R367, R368, DESIGN CHOICE, log entry 10). -/
def State.answerEntry (s : State) (src : Nat) (index : W16) (waiter : W64) (e : Entry) : State :=
  let (o, v) : BellOutcome × W64 := match e with
    | .joined g => (.held, g)
    | .overrun => (.timeout, 0)
    | .bad => (.lost, 0)
  s.setBell { s.bell with msgs := s.bell.msgs ++
    [{ dest := .remote (Fin.ofNat 8192 src) waiter, index := index, part := Fin.ofNat 8192 s.partNo, outcome := o,
       tie := false, value := v, lc := s.homeLc (bellHome index), watch := wordWatch waiter }] }

/-- A registration of another part is withdrawn (R362). -/
def State.withdraw (s : State) (src : Nat) (index : W16) (waiter : W64) : State :=
  let mine := fun (w : Watch) => w.index = index && w.waiter = .remote src waiter
  s.setBell { s.bell with watches := s.bell.watches.filter (fun w => !(mine w)), heldRegs := s.bell.heldRegs.filter (fun w => !(mine w)) }

/-- A thread of another part that has joined generation `gen` waits for it (R372). -/
def State.awaitRemote (s : State) (src : Nat) (index : W16) (gen waiter : W64) : State :=
  match s.bell.barriers.find? fun b => b.index = index with
  | none => s.answerEntry src index waiter .bad
  | some b =>
    let (id, s) := s.newWatch
    s.register { id := id, index := index, target := BitVec.ofNat 64 (gen.toNat * b.n), cmp := 0, timeout := 0, waiter := .remote src waiter, since := 0 }

/-- BELL_REG: a registration from another part is tested and stored at its home unit (R355 to R357, R359); with CMP 3 it is a
barrier's entry (R365), a restored barrier wait (R372) or a removal (R362), as its target says (DESIGN CHOICE, log entry 10). -/
def execBellReg (src : Fin 8192) (index : W16) (target : W64) (cmp : BitVec 2) (timeout : W32) (waiter : W64) (s : State) :
    Host.Outcome State Fault Refusal :=
  if cmp = barrierEntryCmp then
    if target = removalTarget then .next (s.withdraw src.val index waiter)
    else if target ≠ 0 then .next (s.awaitRemote src.val index target waiter)
    else
      let (e, s) := s.enterBarrier index (src.val ≠ s.partNo)
      .next (s.answerEntry src.val index waiter e)
  else
    let (id, s) := s.newWatch
    .next (s.register { id := id, index := index, target := target, cmp := cmp, timeout := timeout,
                        waiter := .remote src.val waiter, since := 0 })

/-- A stored watch completes in an arbitration, the expiring one (`exp`) with TIE where its condition holds (R357, R358). -/
def State.completeWatch (s : State) (exp : Nat) (w : Watch) : State :=
  let s := s.setBell (s.bell.dropWatch w.id)
  if cmpHolds w.cmp (s.counter w.index) w.target then
    let s := (s.setBell { s.bell with msgs := s.bell.msgs ++ [s.watchMsg w .held (w.id = exp)] }).traceEvent (bellHome w.index) 4 0 w.index.toNat
    if w.id = exp then s.count .bellTie (bellHome w.index) 1 else s
  else s.setBell { s.bell with msgs := s.bell.msgs ++ [s.watchMsg w .timeout false] }

/-- The end of an arbitration that changed these counters and in which one watch expires: the watches complete in the order stored,
then the pairs are checked (R357, R361, R363). -/
def State.endArbitration (s : State) (changed : List W16) (exp : Nat) : State :=
  let done := s.bell.watches.filter fun w => w.id = exp || (changed.contains w.index && cmpHolds w.cmp (s.counter w.index) w.target)
  (done.foldl (fun (s : State) (w : Watch) => s.completeWatch exp w) s).checkPairs changed

/-- The counters an arbitration applies, watches untested. -/
def applySignals : List (W16 × W64) → State → State
  | [], s => s
  | (i, n) :: r, s => applySignals r (if s.bellLost i || s.isBarrier i || n = 0 then s else s.addCounter i n)

/-- WATCH_TIMEOUT: one arbitration applies the signals accepted with it, completes the expiring watch and those whose condition
holds, and checks the pairs (R357, R358, R361, R363). -/
def execWatchTimeout (watch : W32) (also : List (W16 × W64)) (s : State) : Host.Outcome State Fault Refusal :=
  match s.bell.watches.find? fun w => w.id = watch.toNat with
  | none => .next s
  | some w =>
    if w.timeout = 0 then .next s
    else
      let t := applySignals also s
      .next (t.endArbitration ((also.map (·.1)).eraseDups.filter fun i => t.counter i ≠ s.counter i) watch.toNat)

/-- WATCH_TABLE_FREE: the oldest registration held at a home unit is tested and stored once its table has an entry
(R355). -/
def execWatchTableFree (home : Fin 5) (s : State) : Host.Outcome State Fault Refusal :=
  match s.bell.heldRegs.find? fun w => bellHome w.index = home.val with
  | none => .next s
  | some w =>
    if s.bell.stored home.val < homeSize home.val then
      .next ((s.setBell { s.bell with heldRegs := s.bell.heldRegs.filter fun x => x.id ≠ w.id }).acceptReg w true)
    else .next s

/-- BELL_WINDOW_WRITE: an aligned 8-byte write signals the counter; every other write is an address error with a
fault record (R42, R351, R368). -/
def execBellWindowWrite (src : Fin 8192) (off : W32) (size : Nat) (v : W64) (s : State) : Host.Outcome State Fault Refusal :=
  let bad := fun (s : State) => s.accessFault 4 false (0xF0000000000 + off.toNat) 0
  if size ≠ 8 || off.toNat % 8 ≠ 0 || off.toNat ≥ 0x80000 || !(s.member src.val) then .next (bad s)
  else match s.signal (BitVec.ofNat 16 (off.toNat / 8)) v with
    | some s' => .next s'
    | none => .next (bad s)

/-! ### Messages (R357 to R362) -/

/-- A completed WAIT's duration enters the mean of its counter (R375). -/
def State.noteWait (s : State) (h part : Nat) (i : W16) (d : W64) : State :=
  let k := h * 2 ^ 29 + part * 2 ^ 16 + i.toNat
  s.setBell { s.bell with waits := s.bell.waits.set [] k ((d :: s.bell.waits.get [] k).take 8) }

/-- Whether a message is of the watch with this id; 0 is no watch. -/
def msgOf (m : BellMsg) (id : Nat) : Bool := id ≠ 0 && m.watch % watchRound = id % watchRound

/-- Whether a suspended thread waits for a message (R362). -/
def Thread.awaits (th : Thread) (m : BellMsg) : Bool :=
  msgOf m th.watch && (match th.status with
    | .wait _ p i _ _ => p = m.part.val && i = m.index
    | .barrier _ p i _ => p = m.part.val && i = m.index
    | .barrierAsk _ p i _ => p = m.part.val && i = m.index
    | _ => false)

/-- A message reaches a thread: WAIT ends with XD := 0 or 1, a restored BARRIER wait with its generation; a lost
counter traps (R350, R372, Table 3.13). A thread that no longer waits for it discards it (R362). -/
def State.wakeThread (s : State) (k : Nat) (m : BellMsg) : State :=
  match s.thread k with
  | none => s
  | some th =>
    if !(th.awaits m) then s else
    let h := hallOf (stallOf k)
    let adr := BitVec.ofNat 64 (counterAddr m.part.val m.index)
    let lost := fun (s : State) => (s.accessFault h false (counterAddr m.part.val m.index) (s.threadTags th)).trap k .address adr
      (match s.fetch th with | .word w => w | _ => 0)
    match th.status with
    | .wait xd part index since _ =>
      let s := s.setLendable h false
      (match m.outcome with
      | .lost => lost s
      | o => (s.noteWait h part index (s.hallLc h - since)).setThread k (some (th.resumed xd (if o = .held then 0 else 1))))
    | .barrier xd _ _ gen =>
      let s := s.setLendable h false
      (match m.outcome with
      | .lost => lost s
      | _ => s.setThread k (some (th.resumed xd gen)))
    | .barrierAsk xd part index rel =>
      (match m.outcome with
      | .held =>
        let s := s.journalBarrier th part index m.value
        if rel.any fun g => m.value.ule g then s.setThread k (some (th.resumed xd m.value))
        else (s.setThread k (some { th with status := .barrier xd part index m.value, watch := 0 })).updateLend h
      | .timeout => s.trap k .barrierOverrun (counterWord m.part.val m.index) (match s.fetch th with | .word w => w | _ => 0)
      | .lost => lost s)
    | _ => s

/-- A message reaches the dispatcher of a gated task (R53); a lost gate counter ends the graph with ADDRESS (DEDUCED, log
entry 11). A message of another watch than the task's own is discarded (R362). -/
def State.gateDone (s : State) (g t : Nat) (o : BellOutcome) (own : Nat → Bool) : State :=
  match s.task g t with
  | none => s
  | some ts =>
    if ts.st = .gated && own ts.gateWatch then
      if o = .lost then (s.modTask g t fun ts => { ts with st := .aborted }).failGraph g 0x05 (BitVec.ofNat 64 t)
      else s.pastGate g t
    else s

/-- The outcome code of Table 12.5. -/
def outcomeCode : BellOutcome → Nat
  | .held => 1 | .timeout => 2 | .lost => 3

/-- The Bell event of a watch of the host (Table 12.5). -/
def bellEventBytes (m : BellMsg) (watch : W32) (cookie : W64) : List Byte :=
  leBytes 1 (outcomeCode m.outcome) ++ leBytes 1 (if m.tie then 1 else 0) ++ leBytes 2 m.index.toNat
    ++ leBytes 4 watch.toNat ++ leBytes 8 m.value.toNat ++ leBytes 8 cookie.toNat ++ leBytes 8 m.lc.toNat

/-- A message arrives where it goes. -/
def State.deliver (s : State) (m : BellMsg) : State :=
  match m.dest with
  | .thread t => s.wakeThread (tkey t) m
  | .gate g t => s.gateDone g.val t m.outcome (msgOf m)
  | .host w c =>
    if m.part.val = s.partNo then s.post 4 c (bellEventBytes m w c)
    else if s.bell.away.any fun x => x.1 = w.toNat then
      (s.setBell { s.bell with away := s.bell.away.filter fun x => x.1 ≠ w.toNat }).post 4 c (bellEventBytes m w c)
    else s
  | .remote p w =>
    let (q, s) := s.nextSeq p.val
    s.transmit 8 { bellPacket 0x06 p.val m.index [w, BitVec.ofNat 64 (outcomeCode m.outcome + (if m.tie then 256 else 0)), m.value, m.lc] with
      seq := q, src := BitVec.ofNat 16 s.partNo }

/-- Remove the first message equal to `m`. -/
def eraseMsg (m : BellMsg) : List BellMsg → List BellMsg
  | [] => []
  | x :: r => if x = m then r else x :: eraseMsg m r

/-- BELL_MSG: a completion message reaches its destination (R361): one this part's Bell units sent, or one of another
part's. -/
def execBellMsg (m : BellMsg) (s : State) : Host.Outcome State Fault Refusal :=
  if m.part.val = s.partNo then
    if s.bell.msgs.contains m then
      .next ((s.setBell { s.bell with msgs := eraseMsg m s.bell.msgs }).deliver m)
    else .next s
  else match m.dest with
    | .remote _ _ => .next s
    | _ => .next (s.deliver m)

/-- GATE_HELD: a task gate's watch holds and its message makes the task ready (R52, R53). -/
def execGateHeld (graph : Fin 8) (task : Nat) (s : State) : Host.Outcome State Fault Refusal :=
  match s.rec_ graph.val task with
  | none => .next s
  | some r =>
    if r.gatePart.toNat % 8192 = s.partNo then
      match s.bell.msgs.find? fun m => m.dest = .gate graph task && m.outcome = .held with
      | some m => .next ((s.setBell { s.bell with msgs := eraseMsg m s.bell.msgs }).deliver m)
      | none => .next s
    else .next (s.gateDone graph.val task .held fun _ => true)

end Sys2Proof.Machine
end

