-- ==== Sys2Proof/Machine/Scalar.lean ====
section
/-! DEFINITION. The scalar and control classes (Tables 3.3 to 3.6, R101 to R103). -/

namespace Sys2Proof.Machine

/-- The second operand: XB, or IMM sign-extended (Table 3.4). -/
def scalarB (f : ScalarF) (th : Thread) : W64 := if f.i then f.low.signExtend 64 else th.xr (bits f.low 38 5)
/-- A reserved bit is non-zero when I = 0 (Table 3.3). -/
def scalarBad (f : ScalarF) : Bool := !f.i && bits f.low 0 38 ≠ 0
/-- IMM sign-extended. -/
def scalarImm (f : ScalarF) : W64 := f.low.signExtend 64

/-- A scalar operation that writes `op XA B` to XD (Table 3.4). -/
def scalarOp (code : BitVec 6) (op : W64 → W64 → W64) (t : ThreadRef) (f : ScalarF) (s : State) :
    Host.Outcome State Fault Refusal :=
  issue t (scalarWord code f) s fun k th s =>
    if scalarBad f then s.trap k .illegal 0 (scalarWord code f)
    else s.retire k (th.setX f.xd (op (th.xr f.xa) (scalarB f th)))

/-- ADD (Table 3.4). -/
def execAdd (t : ThreadRef) (f : ScalarF) (s : State) : Host.Outcome State Fault Refusal :=
  scalarOp 0x00 (fun a b => a + b) t f s
/-- SUB (Table 3.4). -/
def execSub (t : ThreadRef) (f : ScalarF) (s : State) : Host.Outcome State Fault Refusal :=
  scalarOp 0x01 (fun a b => a - b) t f s
/-- MUL: the low 64 bits of the product (Table 3.4). -/
def execMul (t : ThreadRef) (f : ScalarF) (s : State) : Host.Outcome State Fault Refusal :=
  scalarOp 0x02 (fun a b => a * b) t f s
/-- The high 64 bits of an unsigned product. -/
def mulHi (a b : W64) : W64 := BitVec.ofNat 64 (a.toNat * b.toNat / 2 ^ 64)
/-- MULHU: the high 64 bits of the unsigned 128-bit product (Table 3.4). -/
def execMulhu (t : ThreadRef) (f : ScalarF) (s : State) : Host.Outcome State Fault Refusal :=
  scalarOp 0x03 mulHi t f s
/-- AND (Table 3.4). -/
def execAnd (t : ThreadRef) (f : ScalarF) (s : State) : Host.Outcome State Fault Refusal :=
  scalarOp 0x04 (fun a b => a &&& b) t f s
/-- OR (Table 3.4). -/
def execOr (t : ThreadRef) (f : ScalarF) (s : State) : Host.Outcome State Fault Refusal :=
  scalarOp 0x05 (fun a b => a ||| b) t f s
/-- XOR (Table 3.4). -/
def execXor (t : ThreadRef) (f : ScalarF) (s : State) : Host.Outcome State Fault Refusal :=
  scalarOp 0x06 (fun a b => a ^^^ b) t f s
/-- SHL by B[5:0] (Table 3.4). -/
def execShl (t : ThreadRef) (f : ScalarF) (s : State) : Host.Outcome State Fault Refusal :=
  scalarOp 0x07 (fun a b => a <<< (bits b 0 6).toNat) t f s
/-- SHR, logical, by B[5:0] (Table 3.4). -/
def execShr (t : ThreadRef) (f : ScalarF) (s : State) : Host.Outcome State Fault Refusal :=
  scalarOp 0x08 (fun a b => a >>> (bits b 0 6).toNat) t f s
/-- SAR, arithmetic, by B[5:0] (Table 3.4). -/
def execSar (t : ThreadRef) (f : ScalarF) (s : State) : Host.Outcome State Fault Refusal :=
  scalarOp 0x09 (fun a b => a.sshiftRight (bits b 0 6).toNat) t f s
/-- MIN, signed (Table 3.4). -/
def execMin (t : ThreadRef) (f : ScalarF) (s : State) : Host.Outcome State Fault Refusal :=
  scalarOp 0x0A (fun a b => if a.slt b then a else b) t f s
/-- MAX, signed (Table 3.4). -/
def execMax (t : ThreadRef) (f : ScalarF) (s : State) : Host.Outcome State Fault Refusal :=
  scalarOp 0x0B (fun a b => if a.slt b then b else a) t f s
/-- SLT (Table 3.4). -/
def execSlt (t : ThreadRef) (f : ScalarF) (s : State) : Host.Outcome State Fault Refusal :=
  scalarOp 0x0C (fun a b => if a.slt b then 1 else 0) t f s
/-- SLTU (Table 3.4). -/
def execSltu (t : ThreadRef) (f : ScalarF) (s : State) : Host.Outcome State Fault Refusal :=
  scalarOp 0x0D (fun a b => if a.ult b then 1 else 0) t f s

/-- MOVI: XD := IMM sign-extended; illegal with I = 0 or XA ≠ 0 (Table 3.4). -/
def execMovi (t : ThreadRef) (f : ScalarF) (s : State) : Host.Outcome State Fault Refusal :=
  issue t (scalarWord 0x0E f) s fun k th s =>
    if !f.i || f.xa ≠ 0 then s.trap k .illegal 0 (scalarWord 0x0E f)
    else s.retire k (th.setX f.xd (scalarImm f))

/-- MOVHI: XD[63:43] := IMM[20:0]; illegal with I = 0, XA ≠ 0 or IMM[42:21] ≠ 0 (Table 3.4). -/
def execMovhi (t : ThreadRef) (f : ScalarF) (s : State) : Host.Outcome State Fault Refusal :=
  issue t (scalarWord 0x0F f) s fun k th s =>
    if !f.i || f.xa ≠ 0 || bits f.low 21 22 ≠ 0 then s.trap k .illegal 0 (scalarWord 0x0F f)
    else s.retire k (th.setX f.xd (bits f.low 0 21 ++ bits (th.xr f.xd) 0 43))

/-- Whether a scratch access of `n` bytes aligned to `n` is in range (R101, R109). -/
def scratchOk (a : W64) (n : Nat) : Bool := a.toNat % n = 0 && a.toNat + n ≤ 786432

/-- LD: XD := 8 bytes of scratch at XA + IMM (R101). -/
def execLd (t : ThreadRef) (f : ScalarF) (s : State) : Host.Outcome State Fault Refusal :=
  issue t (scalarWord 0x10 f) s fun k th s =>
    let a := th.xr f.xa + scalarImm f
    if !f.i then s.trap k .illegal 0 (scalarWord 0x10 f)
    else if !(scratchOk a 8) then s.trap k .scratchRange a (scalarWord 0x10 f)
    else s.unlessHeld k th [⟨0, a.toNat, a.toNat + 8⟩] []
      ((s.touch th.graph th.task a.toNat (a.toNat + 7)).retire k
        (th.setX f.xd (BitVec.ofNat 64 (ofLe (s.sread (stallOf k) 0 a.toNat 8)))))

/-- ST: 8 bytes of scratch at XA + IMM := XD (R101). -/
def execSt (t : ThreadRef) (f : ScalarF) (s : State) : Host.Outcome State Fault Refusal :=
  issue t (scalarWord 0x11 f) s fun k th s =>
    let a := th.xr f.xa + scalarImm f
    if !f.i then s.trap k .illegal 0 (scalarWord 0x11 f)
    else if !(scratchOk a 8) then s.trap k .scratchRange a (scalarWord 0x11 f)
    else s.unlessHeld k th [] [⟨0, a.toNat, a.toNat + 8⟩]
      (((s.touch th.graph th.task a.toNat (a.toNat + 7)).swrite (stallOf k) 0 a.toNat
        (leBytes 8 (th.xr f.xd).toNat)).retire k th.wroteScratch)

/-- The number of micro-batches admitted in the step, C after a close (RDSYS 6, R102). -/
def Graph.admittedNow (g : Graph) : Nat := match g.closeC with
  | some c => c
  | none => g.admitted

/-- A system value of RDSYS (R102). -/
def State.rdsys (s : State) (k : Nat) (th : Thread) (sel : W64) : Option W64 :=
  let gr := s.graph th.graph
  match sel.toNat with
  | 0 => some ((logicalStall (stallOf k)).setWidth 64)
  | 1 => some (BitVec.ofNat 64 th.task)
  | 2 => some ((gr.map fun g => g.step.setWidth 64).getD 0)
  | 3 => some ((tagMb (s.threadTags th)).setWidth 64)
  | 4 => some ((tagWeight (s.threadTags th)).setWidth 64)
  | 5 => some (s.hallLc (hallOf (stallOf k)))
  | 6 => some ((gr.map fun g => BitVec.ofNat 64 g.admittedNow).getD 0)
  | _ => none

/-- RDSYS (R102). -/
def execRdsys (t : ThreadRef) (f : ScalarF) (s : State) : Host.Outcome State Fault Refusal :=
  issue t (scalarWord 0x12 f) s fun k th s =>
    match (if !f.i || f.xa ≠ 0 then none else s.rdsys k th (scalarImm f)) with
    | none => s.trap k .illegal 0 (scalarWord 0x12 f)
    | some v => s.retire k (th.setX f.xd v)

/-! ### Control (Tables 3.5, 3.6) -/

/-- The branch target PC + 8 × OFFS (Table 3.5). -/
def branchTarget (f : ControlF) (th : Thread) : W64 := th.pc + 8 * f.offs.signExtend 64

/-- A conditional branch: illegal with LINK = 1 or XL ≠ 0 (Table 3.6). -/
def condBranch (code : BitVec 6) (c : W64 → W64 → Bool) (t : ThreadRef) (f : ControlF) (s : State) :
    Host.Outcome State Fault Refusal :=
  issue t (controlWord code f) s fun k th s =>
    if f.link || f.xl ≠ 0 || f.rsv ≠ 0 then s.trap k .illegal 0 (controlWord code f)
    else if c (th.xr f.xa) (th.xr f.xb) then s.retireTo k th (branchTarget f th) else s.retire k th

/-- The thread with the link register written, when LINK is 1 (Table 3.5). -/
def linkTo (f : ControlF) (th : Thread) : Thread := if f.link then th.setX f.xl (th.pc + 8) else th

/-- BR (Table 3.6). -/
def execBr (t : ThreadRef) (f : ControlF) (s : State) : Host.Outcome State Fault Refusal :=
  issue t (controlWord 0x00 f) s fun k th s =>
    if f.xa ≠ 0 || f.xb ≠ 0 || (!f.link && f.xl ≠ 0) || f.rsv ≠ 0 then s.trap k .illegal 0 (controlWord 0x00 f)
    else s.retireTo k (linkTo f th) (branchTarget f th)
/-- BEQ (Table 3.6). -/
def execBeq (t : ThreadRef) (f : ControlF) (s : State) : Host.Outcome State Fault Refusal :=
  condBranch 0x01 (fun a b => a = b) t f s
/-- BNE (Table 3.6). -/
def execBne (t : ThreadRef) (f : ControlF) (s : State) : Host.Outcome State Fault Refusal :=
  condBranch 0x02 (fun a b => a ≠ b) t f s
/-- BLT, signed (Table 3.6). -/
def execBlt (t : ThreadRef) (f : ControlF) (s : State) : Host.Outcome State Fault Refusal :=
  condBranch 0x03 (fun a b => a.slt b) t f s
/-- BGE, signed (Table 3.6). -/
def execBge (t : ThreadRef) (f : ControlF) (s : State) : Host.Outcome State Fault Refusal :=
  condBranch 0x04 (fun a b => !(a.slt b)) t f s
/-- BLTU, unsigned (Table 3.6). -/
def execBltu (t : ThreadRef) (f : ControlF) (s : State) : Host.Outcome State Fault Refusal :=
  condBranch 0x05 (fun a b => a.ult b) t f s
/-- BGEU, unsigned (Table 3.6). -/
def execBgeu (t : ThreadRef) (f : ControlF) (s : State) : Host.Outcome State Fault Refusal :=
  condBranch 0x06 (fun a b => !(a.ult b)) t f s

/-- JR: jump to XA; a target that is no multiple of 8 traps with ILLEGAL_TARGET (R103). -/
def execJr (t : ThreadRef) (f : ControlF) (s : State) : Host.Outcome State Fault Refusal :=
  issue t (controlWord 0x08 f) s fun k th s =>
    let target := th.xr f.xa
    if f.xb ≠ 0 || f.offs ≠ 0 || (!f.link && f.xl ≠ 0) || f.rsv ≠ 0 then s.trap k .illegal 0 (controlWord 0x08 f)
    else if target.toNat % 8 ≠ 0 then s.trap k .illegalTarget target (controlWord 0x08 f)
    else s.retireTo k (linkTo f th) target

/-- TRAP: cause SOFTWARE with OFFS[15:0] in DETAIL (Table 3.6). -/
def execTrap (t : ThreadRef) (f : ControlF) (s : State) : Host.Outcome State Fault Refusal :=
  issue t (controlWord 0x0E f) s fun k _ s =>
    if f.xa ≠ 0 || f.xb ≠ 0 || f.xl ≠ 0 || f.link || f.rsv ≠ 0 || bits f.offs 16 16 ≠ 0 then
      s.trap k .illegal 0 (controlWord 0x0E f)
    else s.trap k .software (f.offs.setWidth 64 &&& 0xFFFF) (controlWord 0x0E f)

end Sys2Proof.Machine
end

