-- ==== Sys2Proof/Machine/MoveReg.lean ====
section
/-! DEFINITION. The register format of the move class (Table 3.11, R109): DMOV, DLD, DST, CLD, CST, MLD, MST. -/

namespace Sys2Proof.Machine

/-- A register-format field that the OP does not use is non-zero (R99). -/
def moveRegBad (useXa useD useSrc useC useM : Bool) (f : MoveRegF) : Bool :=
  (!useXa && f.xa ≠ 0) || (!useD && f.dreg ≠ 0) || (!useSrc && f.dsrc ≠ 0) || (!useC && f.creg ≠ 0)
    || (!useM && f.mreg ≠ 0) || f.rsv ≠ 0

/-- A load of `n` scratch bytes at XA (R109). -/
def moveLoad (op : BitVec 6) (bad : Bool) (n : Nat) (t : ThreadRef) (f : MoveRegF) (s : State)
    (put : Thread → Nat → Thread) : Host.Outcome State Fault Refusal :=
  issue t (moveRegWord op f) s fun k th s =>
    let a := th.xr f.xa
    if bad then s.trap k .illegal 0 (moveRegWord op f)
    else if !(scratchOk a n) then s.trap k .scratchRange a (moveRegWord op f)
    else s.unlessHeld k th [⟨0, a.toNat, a.toNat + n⟩] []
      ((s.touch th.graph th.task a.toNat (a.toNat + n - 1)).retire k (put th (ofLe (s.sread (stallOf k) 0 a.toNat n))))

/-- What stops an instruction on the descriptor of a D register that it reads: an empty register, its seal or JOB, its dead allocation
(R96, R143, Table 4.5). -/
def State.readCheck (s : State) (th : Thread) (r : BitVec 4) : Bad :=
  firstBad [emptyCheck th [r], s.sealCheck (tagJob (s.threadTags th)) th r, s.rowCheck th false false r]

/-- A store of `n` scratch bytes at XA, of the registers that `pre` checks (R109). -/
def moveStore (op : BitVec 6) (bad : Bool) (n : Nat) (t : ThreadRef) (f : MoveRegF) (s : State)
    (pre : Thread → State → Bad) (val : Thread → Nat) : Host.Outcome State Fault Refusal :=
  issue t (moveRegWord op f) s fun k th s =>
    let a := th.xr f.xa
    if bad then s.trap k .illegal 0 (moveRegWord op f)
    else match pre th s with
    | some (c, d) => s.trap k c d (moveRegWord op f)
    | none =>
      if !(scratchOk a n) then s.trap k .scratchRange a (moveRegWord op f)
      else s.unlessHeld k th [] [⟨0, a.toNat, a.toNat + n⟩]
        (((s.touch th.graph th.task a.toNat (a.toNat + n - 1)).swrite (stallOf k) 0 a.toNat (leBytes n (val th))).retire k
          th.wroteScratch)

/-- DMOV: DREG := DSRC, whose descriptor is checked as at every issue that names one (Table 3.11, R96, R143, R144). -/
def execDmov (t : ThreadRef) (f : MoveRegF) (s : State) : Host.Outcome State Fault Refusal :=
  issue t (moveRegWord 0x08 f) s fun k th s =>
    if moveRegBad false true true false false f then s.trap k .illegal 0 (moveRegWord 0x08 f)
    else match s.readCheck th f.dsrc with
    | some (c, d) => s.trap k c d (moveRegWord 0x08 f)
    | none => s.retire k (th.setD f.dreg (th.dr f.dsrc))
/-- DLD: DREG := 64 bytes at XA, valid (R109). -/
def execDld (t : ThreadRef) (f : MoveRegF) (s : State) : Host.Outcome State Fault Refusal :=
  moveLoad 0x09 (moveRegBad true true false false false f) 64 t f s fun th v => th.setD f.dreg (some (BitVec.ofNat 512 v))
/-- DST: 64 bytes at XA := DREG, whose descriptor is checked (R109, R143, R144). -/
def execDst (t : ThreadRef) (f : MoveRegF) (s : State) : Host.Outcome State Fault Refusal :=
  moveStore 0x0A (moveRegBad true true false false false f) 64 t f s (fun th s => s.readCheck th f.dreg)
    fun th => ((th.dr f.dreg).getD 0).toNat
/-- CLD: CREG := 32 bytes at XA (R109). -/
def execCld (t : ThreadRef) (f : MoveRegF) (s : State) : Host.Outcome State Fault Refusal :=
  moveLoad 0x0B (moveRegBad true false false true false f) 32 t f s fun th v =>
    { th with c := th.c.set 0 f.creg.toNat (BitVec.ofNat 256 v) }
/-- CST: 32 bytes at XA := CREG (R109). -/
def execCst (t : ThreadRef) (f : MoveRegF) (s : State) : Host.Outcome State Fault Refusal :=
  moveStore 0x0C (moveRegBad true false false true false f) 32 t f s (fun _ _ => none) fun th => (th.c.get 0 f.creg.toNat).toNat
/-- MLD: MREG := 16 bytes at XA (R109). -/
def execMld (t : ThreadRef) (f : MoveRegF) (s : State) : Host.Outcome State Fault Refusal :=
  moveLoad 0x0D (moveRegBad true false false false true f) 16 t f s fun th v =>
    { th with m := th.m.set 0 f.mreg.toNat (BitVec.ofNat 128 v) }
/-- MST: 16 bytes at XA := MREG (R109). -/
def execMst (t : ThreadRef) (f : MoveRegF) (s : State) : Host.Outcome State Fault Refusal :=
  moveStore 0x0E (moveRegBad true false false false true f) 16 t f s (fun _ _ => none) fun th => (th.m.get 0 f.mreg.toNat).toNat

end Sys2Proof.Machine
end

