-- ==== Sys2Proof/Machine/Priv.lean ====
section
/-! DEFINITION. The privileged class (Table 3.14, R113, R114, R174 to R178, R597) and the pre-emption for slots
(R121). -/

namespace Sys2Proof.Machine

/-- A privileged field that the OP does not use is non-zero (R113). -/
def privBad (xa d slot nm1 mode : Bool) (f : PrivF) : Bool :=
  (!xa && f.xa ≠ 0) || (!d && f.dreg ≠ 0) || (!slot && f.slot ≠ 0) || (!nm1 && f.nm1 ≠ 0) || (!mode && f.mode ≠ 0)
    || f.rsv ≠ 0

/-- Issue of a privileged instruction: ILLEGAL fields, then the privilege (R99, R113). The order between the two, which R113 does not
state, is DEDUCED from R99 and R639 (log entry 128). -/
def issuePriv (op : BitVec 6) (bad : Bool) (t : ThreadRef) (f : PrivF) (s : State) (run : Nat → Thread → State → State) :
    Host.Outcome State Fault Refusal :=
  issue t (privWord op f) s fun k th s =>
    if bad then s.trap k .illegal 0 (privWord op f)
    else if !th.prv then s.trap k .privilege 0 (privWord op f)
    else run k th s

/-- The pairing source of a DCREATE draft: the D register PAIR[3:0] names, when it is valid and its seal holds
(R140). -/
def pairSource (startNo : Nat) (th : Thread) (draft : W512) : Option W512 :=
  match th.dr (bits (Desc.parse draft).pair 0 4) with
  | some w => if sealOk startNo w then some w else none
  | none => none

/-- DCREATE: the draft at XA is checked and sealed into DREG; XD := 0, or the creation error code with DREG left empty
(R114, R136 to R141). -/
def execDcreate (t : ThreadRef) (f : PrivF) (s : State) : Host.Outcome State Fault Refusal :=
  issuePriv 0 (privBad true true false false false f) t f s fun k th s =>
    let a := th.xr f.xa
    if !(scratchOk a 64) then s.trap k .scratchRange a (privWord 0 f)
    else s.unlessHeld k th [⟨0, a.toNat, a.toNat + 64⟩] []
      (let draft : W512 := BitVec.ofNat 512 (ofLe (s.sread (stallOf k) 0 a.toNat 64))
       let src := pairSource s.startNo th draft
       let code := createCheck s.host.allocs (tagJob (s.threadTags th)) true src draft
       let th' := (th.setX f.xd (BitVec.ofNat 64 code)).setD f.dreg
         (if code = 0 then some (createDesc s.startNo src draft) else none)
       (s.touch th.graph th.task a.toNat (a.toNat + 63)).retire k th')

/-- SPLITK: the thread suspends until its group forms; XD := 1 at once when a participant stall is fenced (R174,
R176). NM1 + 1 is 2, 4, 8 or 16 (R113). -/
def execSplitk (t : ThreadRef) (f : PrivF) (s : State) : Host.Outcome State Fault Refusal :=
  issuePriv 1 (privBad false false true true false f || !(f.nm1 = 1 || f.nm1 = 3 || f.nm1 = 7 || f.nm1 = 15)) t f s
    fun k th s =>
      let base := aisleOf (stallOf k) * 16
      if (List.range (f.nm1.toNat + 1)).any fun i => !(s.stallRuns (base + i)) then s.retire k (th.setX f.xd 1)
      else (s.setThread k (some { th with status := .splitk f.xd f.slot f.nm1, issued := s.clock })).tick

/-- Whether the thread's task holds an exact-slice slot, open, held or draining (R178). -/
def StallInfo.holdsExact (i : StallInfo) (g t : Nat) : Bool :=
  (i.slots ++ i.drains.map (·.slot)).any fun x => x.graph = g && x.task = t && (x.kind = .fp64 || x.kind = .q)

/-- XSLICE: enters or leaves exact-slice mode (R177, R178). A check task's thread traps with ILLEGAL. -/
def execXslice (t : ThreadRef) (f : PrivF) (s : State) : Host.Outcome State Fault Refusal :=
  issuePriv 2 (privBad false false false false true f || f.mode.toNat > 2) t f s fun k th s =>
    let st := stallOf k
    let i := s.stall st
    let own : Bool := match i.exact with
      | some (_, g, tk) => g = th.graph && tk = th.task
      | none => true
    let same : Bool := match i.exact with | some (m, _, _) => m = f.mode | none => true
    if (s.rec_ th.graph th.task).any fun r => r.kind = 0x07 then s.trap k .illegal 0 (privWord 2 f)
    else if !own then s.retire k (th.setX f.xd 1)
    else if f.mode = 0 then
      if i.holdsExact th.graph th.task then s.retire k (th.setX f.xd 2)
      else ((s.modStall st fun i => { i with exact := none }).releaseHeld st fun w _ => w = .xmode).retire k (th.setX f.xd 0)
    else if !same then s.retire k (th.setX f.xd 1)
    else if i.otherFormat || !(i.nextIs th.graph th.task) then
      ((s.setThread k (some { th with status := .xslice f.xd f.mode, issued := s.clock })).tick).modStall st fun i =>
        { i with exactNext := some (i.exactNext.getD (f.mode, th.graph, th.task)) }
    else ((s.setThread k (some { th with issued := s.clock })).tick).setExact k f.xd f.mode

/-- TALLYRD: XD := Tally entry X[XA]; an index above 8,191 traps with ADDRESS (R597). -/
def execTallyrd (t : ThreadRef) (f : PrivF) (s : State) : Host.Outcome State Fault Refusal :=
  issuePriv 3 (privBad true false false false false f) t f s fun k th s =>
    let i := th.xr f.xa
    if i.toNat > 8191 then
      s.trap k .address (BitVec.ofNat 64 (s.partNo * 2 ^ 44 + 0xF0000200000) + 8 * i) (privWord 3 f)
    else s.retire k (th.setX f.xd (s.tallyAt i.toNat))

/-! ### Pre-emption for slots (R121, R426) -/

/-- Whether a running task may be chosen for pre-emption: a compute or check task, no thread of it in SPLITK, not
being saved (R91, R426); lent tasks are not shown as threads. -/
def State.preemptable (s : State) (g t : Nat) : Bool :=
  match s.task g t, s.rec_ g t with
  | some ts, some r =>
    ts.st = .running && r.onStall && ts.saving.isNone
      && !((s.taskThreads g t).any fun p => match p.2.status with | .splitk _ _ _ => true | _ => false)
  | _, _ => false

/-- The most recently placed task other than (g, t) that holds open slots on a stall and may be pre-empted (R121). -/
def State.slotVictim (s : State) (st g t : Nat) : Option (Nat × Nat) :=
  let l := (((s.stall st).slots.filter fun x => x.st = .open_).map fun x => (x.graph, x.task)).eraseDups
  let l := l.filter fun p => s.preemptable p.1 p.2 && !(p.1 = g && p.2 = t)
  let at_ := fun (p : Nat × Nat) => ((s.task p.1 p.2).map (·.placed)).getD 0
  l.foldl (fun (m : Option (Nat × Nat)) (p : Nat × Nat) => match m with
    | none => some p
    | some q => if at_ p > at_ q then some p else some q) none

/-- SLOT_PRESSURE_TIMEOUT: a BEGIN has waited 64 lc; the most recently placed other task with open slots on the stall is
chosen, and its save begins when the save area has the room (R121, R423). -/
def execSlotPressureTimeout (t : ThreadRef) (s : State) : Host.Outcome State Fault Refusal :=
  match s.thread (tkey t) with
  | none => .next s
  | some th =>
    match th.status with
    | .slotWait _ _ _ =>
      (match s.slotVictim (skey t.st) th.graph th.task with
      | some p => .next ((s.beginSave p.1 p.2 .slotPressure 0).getD s)
      | none => .next s)
    | _ => .next s

end Sys2Proof.Machine
end

