-- ==== Sys2Proof/Machine/Command.lean ====
section
/-! DEFINITION. What every host command shares (R517 to R527): its start in admission order, the modes that serve it,
the header checks, bulk data, and reads and writes of a job's memory by the hub. -/

namespace Sys2Proof.Machine

/-! ### Starting (R519, R521, R543, R580) -/

/-- Whether an admitted command may start: every earlier one has started, a core is free, and SERIAL holds (R521). -/
def mayStart (cmds : List Cmd) (c : Cmd) : Bool :=
  let before := cmds.takeWhile fun d => d ≠ c
  let running := (cmds.filter fun d => d.phase = .running).length
  before.all (fun d => d.phase ≠ .admitted && !(d.hdr.flags.getLsbD 0)) && running < 4
    && (!(c.hdr.flags.getLsbD 0) || before.isEmpty)

/-- The admitted command a row names, if it may start now, or the started one that goes on with the row. -/
def HostIf.findCmd (h : HostIf) (op : W16) (hdr : CmdHdr) : Option Cmd :=
  h.cmds.find? fun c => c.op = op && c.hdr = hdr && (c.phase = .admitted && mayStart h.cmds c || c.wait = .again 0)

/-- The family of an opcode. -/
def family (op : W16) : Nat := op.toNat / 256

/-- What the state of the part answers to a command before anything else: `none` runs it (R519, R543, R580). -/
def State.modeAnswer (s : State) (op : W16) : Option Byte :=
  if s.pstate = 2 then (if family op = 0x01 || family op = 0x0A then none else some 0x16)
  else if s.pstate = 0 then (if family op = 0x01 || family op = 0x0A then none else some stBusy)
  else if s.pstate = 3 then (if family op = 0x01 || family op = 0x08 || op = 0x0901 then none else some stBusy)
  else none

/-- Whether the management cores run at all: firmware from the end of step 3, or the recovery program, while the part
is powered. -/
def State.coresRun (s : State) : Bool := s.power.supply ≠ .off && (s.pstate ≠ 0 || s.startStep.toNat > 3)

/-- Header and parameter-count checks (R518). -/
def headerBad (hdr : CmdHdr) (nparams : Nat) (usesJob : Bool) : Bool :=
  bits hdr.flags 2 14 ≠ 0 || hdr.rsv0 ≠ 0 || hdr.rsv1 ≠ 0 || hdr.plen.toNat ≠ 8 * nparams || (!usesJob && hdr.job ≠ 0)

/-- Change the stored entry of a command. -/
def State.modCmd (s : State) (c : Cmd) (f : Cmd → Cmd) : State :=
  s.setHost { s.host with cmds := s.host.cmds.map fun d => if d.hdr.seq = c.hdr.seq && d.fetched = c.fetched then f d else d }

/-- Whether EXPIRE has elapsed since the fetch of a command that has not started (Table 18.3). -/
def State.expired (s : State) (c : Cmd) : Bool :=
  c.phase = .admitted && c.hdr.expire ≠ 0 && (s.hubLc - c.fetched).toNat ≥ c.hdr.expire.toNat

/-- Commands that read or write HBM. -/
def needsHbm (op : W16) : Bool :=
  [0x0203, 0x0204, 0x0220, 0x0221, 0x0301, 0x0302, 0x0401, 0x0603, 0x0630, 0x0631, 0x0632, 0x0633, 0x0634, 0x0640, 0x0701, 0x0710,
   0x0911, 0x0920, 0x0921, 0x0922, 0x0923, 0x0930, 0x0940, 0x0B01, 0x0B03, 0x0B04, 0x0B10, 0x0B12].contains op.toNat

/-- A command once it has started, or goes on. -/
def Cmd.begun (c : Cmd) (now : W64) : Cmd :=
  if c.phase = .admitted then { c with phase := .running, started := now } else { c with wait := .none }

/-- A command row: the named command starts, is checked, and runs. Nothing happens while it cannot start, or while
its bytes wait for HBM (R399, DEDUCED, log entry 75). -/
def command (op : W16) (nparams : Nat) (usesJob : Bool) (hdr : CmdHdr) (s : State) (run : Cmd → State → State) :
    Host.Outcome State Fault Refusal :=
  match s.host.findCmd op hdr with
  | none => .next s
  | some c =>
    if !s.coresRun then .next s
    else if s.expired c then .next (s.reply c 0x15 [])
    else match s.modeAnswer op with
    | some st => .next (s.reply c st [])
    | none =>
      if headerBad hdr nparams usesJob then .next (s.reply c stInvalid [])
      else if s.hbmHeld && needsHbm op then .next s
      else
        let c' := c.begun s.hubLc
        .next (run c' (s.modCmd c fun _ => c'))

/-- The command waits: it completes when its work ends (R522). -/
def State.waitCmd (s : State) (c : Cmd) (w : CmdWait) : State := s.modCmd c fun d => { d with wait := w }

/-- A started command waits for data from another part, for room in the pin table, or for a translation fault, and its row
comes again. -/
def State.parkCmd (s : State) (c : Cmd) (fault : Nat := 0) : State := s.waitCmd c (.again fault)

/-! ### Bulk data (R532) -/

/-- Write bulk bytes to the buffer of a command: host memory, or BAR2 with BULK_BAR2. -/
def State.bulkOut (s : State) (c : Cmd) (bytes : List Byte) : State :=
  if bytes.isEmpty then s
  else if c.hdr.flags.getLsbD 1 then s.send (.bar2Write c.hdr.bulkAddr bytes) else s.send (.hostWrite c.hdr.bulkAddr bytes)

/-- Write a result to bulk and reply OK; a shorter buffer answers INVALID without effect (R532). -/
def State.replyBulk (s : State) (c : Cmd) (bytes : List Byte) (results : List W64) : State :=
  if c.hdr.bulkLen.toNat < bytes.length then s.reply c stInvalid []
  else (s.bulkOut c bytes).reply c stOk results

/-! ### The hub's reads and writes of a job's memory -/

/-- What a hub unit has fetched for a job. -/
def State.hubBuf (s : State) (job : Byte) : HubBuf := s.fab.hubBufs.get {} job.toNat

/-- Granules of a read through a job's space. -/
def State.hubGranules (s : State) (job : Byte) : List Nat → Acc (List Byte)
  | [] => .ok []
  | g :: r => match s.vread job .read g 64 (s.hubBuf job).have_ (s.hubBuf job).buf with
    | .ok bs => (match s.hubGranules job r with
      | .ok l => .ok (bs ++ l)
      | e => e)
    | .remote v pa len => (match (s.hubBuf job).errs.find? fun e => e.1 = v with
      | some e => .err pa e.2
      | none => .remote v pa len)
    | e => e

/-- Read `n` bytes of a job's space for a hub unit; other parts' bytes come from what was fetched. -/
def State.hubRead (s : State) (job : Byte) (va n : Nat) : Acc (List Byte) :=
  if n = 0 then .ok []
  else match s.hubGranules job ((List.range ((va + n + 63) / 64 - va / 64)).map fun i => (va / 64 + i) * 64) with
    | .ok bs => .ok ((bs.drop (va % 64)).take n)
    | e => e

/-- Fetch bytes of another part for a hub unit. -/
def State.hubFetch (s : State) (job : Byte) (va pa len : Nat) : State :=
  if s.outstanding (.hub job (BitVec.ofNat 64 va)) then s else s.remoteRead (.hub job (BitVec.ofNat 64 va)) 0 false pa len

/-- Forget what was fetched for a job. -/
def State.dropHub (s : State) (job : Byte) : State :=
  s.setFab { s.fab with hubBufs := s.fab.hubBufs.set {} job.toNat {} }

/-- A command reads a job's memory and keeps what it fetched: ADDRESS on a fault or an error, a fetch where the bytes lie elsewhere,
else `k`. -/
def State.cmdPeek (s : State) (c : Cmd) (job : Byte) (va n : Nat) (k : List Byte → State → State) : State :=
  match s.hubRead job va n with
  | .ok bs => k bs s
  | .fault _ _ _ _ => (s.dropHub job).reply c stAddress []
  | .err a p => ((s.dropHub job).accessFault 4 p a 0).reply c stAddress []
  | .remote v pa len => (s.parkCmd c).hubFetch job v pa len

/-- A command's last read of a job's memory: what was fetched is forgotten. -/
def State.cmdRead (s : State) (c : Cmd) (job : Byte) (va n : Nat) (k : List Byte → State → State) : State :=
  s.cmdPeek c job va n fun bs s => k bs (s.dropHub job)

/-- A command writes a record to a job's memory and then replies OK; the reply waits for remote acknowledgements
(R510, R452). -/
def State.cmdWrite (s : State) (c : Cmd) (job : Byte) (va : Nat) (bytes : List Byte) (results : List W64) : State :=
  match s.vwrite job va bytes with
  | .ok (s, away) =>
    if away.isEmpty then s.reply c stOk results
    else (s.remoteWrites (.cmd c.hdr.seq) 0 false away).waitCmd c (.acks results)
  | .fault _ _ _ _ => s.reply c stAddress []
  | .err a p => (s.accessFault 4 p a 0).reply c stAddress []
  | .remote _ _ _ => s.reply c stAddress []

/-! ### Claims (R531) -/

/-- Whether a resource is claimed. -/
def HostIf.claimed (h : HostIf) (k : ClaimKind) (i : Nat) : Bool := h.claims.any fun c => c.kind = k && c.index = i
/-- Take a claim. -/
def State.claim (s : State) (c : Claim) : State := s.setHost { s.host with claims := s.host.claims ++ [c] }
/-- Release claims. -/
def State.unclaim (s : State) (p : Claim → Bool) : State :=
  s.setHost { s.host with claims := s.host.claims.filter fun c => !(p c) }

/-- A parameter within `[lo, hi]`. -/
def inRange (v : W64) (lo hi : Nat) : Bool := lo ≤ v.toNat && v.toNat ≤ hi

end Sys2Proof.Machine
end

