-- ==== Sys2Proof/Machine/BellCmds.lean ====
section
/-! DEFINITION. The Bell commands and the Bell dump (R377, R378, Tables 12.4 and 12.6). -/

namespace Sys2Proof.Machine

/-- A part and a counter index a command names. -/
def counterArgs (part index : W64) : Bool := part.toNat < 8192 && index.toNat < 65536

/-- BELL_READ: a counter of any part (R351, Table 12.4). -/
def execBellRead (h : CmdHdr) (part index : W64) (s : State) : Host.Outcome State Fault Refusal :=
  command 0x0501 2 false h s fun c s =>
    if !(counterArgs part index) then s.reply c stInvalid []
    else if !(s.member part.toNat) then s.reply c stAddress []
    else
      let i : W16 := index.setWidth 16
      if part.toNat = s.partNo then
        if s.bellLost i then s.reply c stAddress [] else s.reply c stOk [s.counter i]
      else (s.remoteRead (.cmd h.seq) 0 false (counterAddr part.toNat i) 8).waitCmd c .atomic

/-- BELL_SIGNAL: OK once applied (R350, R368). -/
def execBellSignal (h : CmdHdr) (part index inc : W64) (s : State) : Host.Outcome State Fault Refusal :=
  command 0x0502 3 false h s fun c s =>
    if !(counterArgs part index) then s.reply c stInvalid []
    else if !(s.member part.toNat) then s.reply c stAddress []
    else
      let i : W16 := index.setWidth 16
      if part.toNat = s.partNo then
        match s.signal i inc with
        | some s' => s'.reply c stOk []
        | none => s.reply c stAddress []
      else (s.request (bellPacket 0x04 part.toNat i [inc]) (.cmd h.seq)).waitCmd c (.acks [])

/-- BELL_WATCH: the watch id at once, an event on completion (R355 to R357). -/
def execBellWatch (h : CmdHdr) (part index target cmp timeout cookie : W64) (s : State) : Host.Outcome State Fault Refusal :=
  command 0x0503 6 false h s fun c s =>
    if !(counterArgs part index) || cmp.toNat > 2 || timeout.toNat ≥ 2 ^ 32 then s.reply c stInvalid []
    else if !(s.member part.toNat) then s.reply c stAddress []
    else
      let id := s.bell.nextWatch
      let s := s.reply c stOk [BitVec.ofNat 64 id]
      let s := if part.toNat = s.partNo then s else s.setBell { s.bell with away := s.bell.away ++ [(id, part.toNat, index.setWidth 16)] }
      s.registerAt part.toNat (index.setWidth 16) target (cmp.setWidth 2) (timeout.setWidth 32) (.host cookie)

/-- Whether a watch is one of the host's with this id. -/
def Watch.hostIs (w : Watch) (id : Nat) : Bool := w.id = id && (match w.waiter with | .host _ => true | _ => false)

/-- Watches of the host on counters of other parts are withdrawn there (R362). -/
def State.withdrawAway (s : State) (l : List (Nat × Nat × W16)) : State :=
  l.foldl (fun (s : State) (x : Nat × Nat × W16) => s.unregister x.2.1 x.2.2 (.host 0) x.1) s

/-- BELL_CANCEL (Table 12.4, R362). -/
def execBellCancel (h : CmdHdr) (watch : W64) (s : State) : Host.Outcome State Fault Refusal :=
  command 0x0504 1 false h s fun c s =>
    let b := s.bell
    if b.watches.any (fun w => w.hostIs watch.toNat) || b.heldRegs.any (fun w => w.hostIs watch.toNat) || b.away.any (fun x => x.1 = watch.toNat) then
      let s := s.setBell { b with
        watches := b.watches.filter (fun w => !(w.hostIs watch.toNat))
        heldRegs := b.heldRegs.filter (fun w => !(w.hostIs watch.toNat))
        away := b.away.filter fun x => x.1 ≠ watch.toNat }
      (s.withdrawAway (b.away.filter fun x => x.1 = watch.toNat)).reply c stOk []
    else s.reply c stNotFound []

/-- Whether a participant of a barrier waits: its open generation is partly full, or a thread of this part still waits. -/
def State.barrierWaits (s : State) (b : Barrier) : Bool :=
  (s.counter b.index).toNat % b.n ≠ 0 || b.releasing.isSome
    || s.threads.any fun p => match p.2 with
      | some th => (match th.status with | .barrier _ q i _ => q = s.partNo && i = b.index | _ => false)
      | none => false

/-- Set counters `[lo, hi)` to 0; a barrier's open generation becomes 1 (R364). -/
def State.resetCounters (s : State) (lo hi : Nat) : State :=
  s.setBell { s.bell with
    counters := s.bell.counters.filter fun p => !(lo ≤ p.1 && p.1 < hi)
    barriers := s.bell.barriers.map fun b => if lo ≤ b.index.toNat && b.index.toNat < hi then { b with openGen := 1 } else b }

/-- BELL_RESET (R364, Table 12.4); a range with a lost counter answers ADDRESS (R350). -/
def execBellReset (h : CmdHdr) (first count : W64) (s : State) : Host.Outcome State Fault Refusal :=
  command 0x0505 2 false h s fun c s =>
    let lo := first.toNat
    let hi := lo + count.toNat
    let inR := fun (i : W16) => lo ≤ i.toNat && i.toNat < hi
    let b := s.bell
    if !(inRange first 0 65535) || !(inRange count 1 65536) || hi > 65536 then s.reply c stInvalid []
    else if [0, 1, 2, 3].any (fun k => (s.hall k).fenced && lo < (k + 1) * 15360 && k * 15360 < hi) then s.reply c stAddress []
    else if b.watches.any (fun w => inR w.index) || b.heldRegs.any (fun w => inR w.index) || b.pairs.any (fun p => inR p.p || inR p.c)
        || b.barriers.any (fun x => inR x.index && s.barrierWaits x) then s.reply c stBusy []
    else (s.resetCounters lo hi).reply c stOk []

/-- BELL_BARRIER_SET (R364). -/
def execBellBarrierSet (h : CmdHdr) (index n scope : W64) (s : State) : Host.Outcome State Fault Refusal :=
  command 0x0506 3 false h s fun c s =>
    let i : W16 := index.setWidth 16
    if !(inRange index 0xF000 0xFFFF) || !(inRange n 1 16777216) || scope.toNat > 1 then s.reply c stInvalid []
    else if s.isBarrier i then s.reply c stConflict []
    else
      let s := s.setBell { s.bell with counters := s.bell.counters.set 0 i.toNat 0,
                                       barriers := s.bell.barriers ++ [{ index := i, n := n.toNat, domain := scope = 1 }] }
      (s.testWatches i).reply c stOk []

/-- BELL_BARRIER_CLEAR (Table 12.4). -/
def execBellBarrierClear (h : CmdHdr) (index : W64) (s : State) : Host.Outcome State Fault Refusal :=
  command 0x0507 1 false h s fun c s =>
    match s.bell.barriers.find? fun b => b.index.toNat = index.toNat with
    | none => s.reply c stInvalid []
    | some b =>
      if s.barrierWaits b then s.reply c stBusy []
      else (s.setBell { s.bell with barriers := s.bell.barriers.filter fun x => x.index ≠ b.index }).reply c stOk []

/-- BELL_PAIR_SET (R363). -/
def execBellPairSet (h : CmdHdr) (p c b : W64) (s : State) : Host.Outcome State Fault Refusal :=
  command 0x0508 3 false h s fun cm s =>
    let pi : W16 := p.setWidth 16
    let ci : W16 := c.setWidth 16
    if p.toNat > 65535 || c.toNat > 65535 || !(inRange b 1 65535) || pi = ci || bellHome pi ≠ bellHome ci then s.reply cm stInvalid []
    else if s.bell.pairs.any fun x => x.p = pi || x.c = pi || x.p = ci || x.c = ci then s.reply cm stConflict []
    else
      let id := s.bell.nextPair
      (s.setBell { s.bell with pairs := s.bell.pairs ++ [{ id := id, p := pi, c := ci, b := b.setWidth 16 }], nextPair := id + 1 }).reply cm stOk
        [BitVec.ofNat 64 id]

/-- BELL_PAIR_CLEAR (Table 12.4). -/
def execBellPairClear (h : CmdHdr) (pair : W64) (s : State) : Host.Outcome State Fault Refusal :=
  command 0x0509 1 false h s fun c s =>
    if s.bell.pairs.any fun x => x.id = pair.toNat then
      (s.setBell { s.bell with pairs := s.bell.pairs.filter fun x => x.id ≠ pair.toNat }).reply c stOk []
    else s.reply c stNotFound []

/-- BELL_LEND_SET (R376). -/
def execBellLendSet (h : CmdHdr) (enable theta : W64) (s : State) : Host.Outcome State Fault Refusal :=
  command 0x050A 2 false h s fun c s =>
    if enable.toNat > 1 || !(inRange theta 1 1000000) then s.reply c stInvalid []
    else
      let s := s.setBell { s.bell with lendEnable := enable = 1, lendTheta := theta }
      ([0, 1, 2, 3].foldl State.updateLend s).reply c stOk []

/-! ### The dump (R378, Table 12.6) -/

/-- A waiter as a dump's watch record names it: its part, kind and word (DESIGN CHOICE, log entry 21). -/
def Waiter.code (w : Waiter) (part id : Nat) : Nat × Nat × Nat :=
  (match w with | .remote p _ => p | _ => part, w.name id)

/-- A watch record. -/
def State.watchBytes (s : State) (w : Watch) : List Byte :=
  let el := (s.homeLc (bellHome w.index) - w.since).toNat
  let left := if w.timeout = 0 then 0 else w.timeout.toNat - el
  let (p, k, x) := w.waiter.code s.partNo w.id
  leBytes 2 w.index.toNat ++ leBytes 2 p ++ leBytes 1 k ++ leBytes 1 w.cmp.toNat ++ leBytes 2 0 ++ leBytes 8 w.target.toNat
    ++ leBytes 4 left ++ leBytes 4 el ++ leBytes 8 x

/-- A barrier record. -/
def State.barrierBytes (s : State) (b : Barrier) : List Byte :=
  let n := (s.threads.filter fun p => match p.2 with
    | some th => (match th.status with | .barrier _ q i _ => q = s.partNo && i = b.index | _ => false)
    | none => false).length
  leBytes 2 b.index.toNat ++ leBytes 1 (if b.domain then 1 else 0) ++ leBytes 1 (if b.releasing.isSome then 1 else 0) ++ leBytes 4 b.n
    ++ leBytes 8 (s.counter b.index).toNat ++ leBytes 8 b.openGen.toNat ++ leBytes 4 n ++ leBytes 4 0

/-- A pair record. -/
def BellPair.bytes (p : BellPair) : List Byte :=
  leBytes 2 p.p.toNat ++ leBytes 2 p.c.toNat ++ leBytes 2 p.b.toNat ++ leBytes 2 0 ++ leBytes 8 p.breaches.toNat

/-- The whole dump. -/
def State.bellDump (s : State) (frozen : Bool) : List Byte :=
  let b := s.bell
  leBytes 4 0x4A35424C ++ leBytes 2 s.partNo ++ leBytes 1 (if frozen then 1 else 0) ++ [0] ++ leBytes 4 b.barriers.length ++ leBytes 4 b.pairs.length
    ++ leBytes 4 b.watches.length ++ leBytes 4 0 ++ leBytes 8 s.hubLc.toNat ++ List.replicate 32 0
    ++ ((List.range 65536).flatMap fun i => leBytes 8 (b.counters.get 0 i).toNat)
    ++ b.barriers.flatMap s.barrierBytes ++ b.pairs.flatMap BellPair.bytes ++ b.watches.flatMap s.watchBytes

/-- BELL_DUMP (R378). -/
def execBellDump (h : CmdHdr) (va flags : W64) (s : State) : Host.Outcome State Fault Refusal :=
  command 0x0930 2 true h s fun c s =>
    if flags.toNat > 1 then s.reply c stInvalid []
    else
      let d := s.bellDump (flags = 1)
      s.cmdWrite c h.job va.toNat d [BitVec.ofNat 64 d.length]

end Sys2Proof.Machine
end

