-- ==== Sys2Proof/Machine/MaskOps.lean ====
section
/-! DEFINITION. Gradient masks (R330 to R334). -/

namespace Sys2Proof.Machine

/-- Continue an access. -/
def accBind {α β : Type} (a : Acc α) (f : α → Acc β) : Acc β :=
  match a with
  | .ok x => f x
  | .fault k v l z => .fault k v l z
  | .err x p => .err x p
  | .remote v p l => .remote v p l

/-- The mask with this id. -/
def State.mask (s : State) (mid : Nat) : Option Mask := s.masks.find? fun m => m.mid = mid

/-- Whether an element is masked, given the bitmap bytes read from byte `from_` (R331). -/
def Mask.covers (m : Mask) (from_ : Nat) (bytes : List Byte) (e : Nat) : Bool :=
  let i := e / m.cols
  let j := e % m.cols
  if m.bitmapMode then
    let n := i / 32 * cdiv m.cols 32 + j / 32
    (ofLe ((bytes.drop (n / 8 - from_)).take 1)) / 2 ^ (n % 8) % 2 = 1
  else m.ranges.any fun r => r.1 ≤ i && i ≤ r.2

/-- The bitmap bytes that say which of the `n` elements from `e` are masked, and the byte of the bitmap they begin at; none for a
mask of row ranges (R331). -/
def State.maskBits (s : State) (job : Byte) (mid : Option Nat) (e n : Nat) : Acc (Nat × List Byte) :=
  match (mid.bind s.mask).filter (·.bitmapMode) with
  | none => .ok (0, [])
  | some m =>
    let w := cdiv m.cols 32
    let lo := e / m.cols / 32 * w / 8
    let hi := min (((e + n - 1) / m.cols / 32 + 1) * w) (cdiv m.rows 32 * w)
    accBind (s.hubRead job (m.bitmap + lo) (cdiv hi 8 - lo)) fun bs => .ok (lo, bs)

/-- Whether an element is masked, by the bitmap bytes read (R331). -/
def State.masks? (s : State) (mid : Option Nat) (bits : Nat × List Byte) (e : Nat) : Bool :=
  (mid.bind s.mask).any fun m => m.covers bits.1 bits.2 e

/-- The masked elements among `n` from element `e`: a predicate on the element's number (R331). -/
def State.maskAt (s : State) (job : Byte) (mid : Option Nat) (e n : Nat) : Acc (Nat → Bool) :=
  accBind (s.maskBits job mid e n) fun bits => .ok (s.masks? mid bits)

/-- The first failing field of a mask record (R330, Table 11.4); none when it is sound. -/
def maskBad (b : List Byte) (job : Byte) : Option Nat :=
  let mode := leAt b 1 1
  let nr := leAt b 3 1
  let rows := leAt b 8 4
  let cols := leAt b 12 4
  let rng := (List.range 16).map fun i => (leAt b (0x20 + 8 * i) 4, leAt b (0x24 + 8 * i) 4)
  let used := rng.take nr
  let badRange := ((List.range 16).zip rng).find? fun p =>
    if p.1 < nr then
      p.2.2 < p.2.1 || p.2.2 ≥ rows || (p.1 > 0 && p.2.1 ≤ (used.getD (p.1 - 1) (0, 0)).2)
    else p.2 ≠ (0, 0)
  if leAt b 0 1 = 255 then some 0
  else if mode > 1 then some 1
  else if leAt b 2 1 ≠ job.toNat then some 2
  else if (if mode = 0 then nr < 1 || nr > 16 else nr ≠ 0) then some 3
  else if leAt b 4 4 ≠ 0 then some 4
  else if rows < 1 || rows > 2 ^ 24 || (mode = 1 && cdiv rows 32 * cdiv cols 32 > 2 ^ 23) then some 8
  else if cols < 1 || cols > 2 ^ 24 then some 12
  else if (if mode = 1 then leAt b 0x10 8 % 128 ≠ 0 else leAt b 0x10 8 ≠ 0) then some 0x10
  else if leAt b 0x18 8 ≠ 0 then some 0x18
  else badRange.map fun _ => 0x20

/-- The mask of a sound record. -/
def Mask.parse (b : List Byte) : Mask :=
  { mid := leAt b 0 1, bitmapMode := leAt b 1 1 = 1, job := BitVec.ofNat 8 (leAt b 2 1), rows := leAt b 8 4, cols := leAt b 12 4,
    bitmap := leAt b 0x10 8, ranges := (List.range (leAt b 3 1)).map fun i => (leAt b (0x20 + 8 * i) 4, leAt b (0x24 + 8 * i) 4) }

/-- GMASK_SET: registers a mask (R330). -/
def execGmaskSet (h : CmdHdr) (va : W64) (s : State) : Host.Outcome State Fault Refusal :=
  command 0x0640 1 true h s fun c s =>
    s.cmdRead c h.job va.toNat 160 fun b s =>
      match maskBad b h.job with
      | some o => s.reply c stInvalid [BitVec.ofNat 64 o]
      | none =>
        if (s.mask (leAt b 0 1)).isSome then s.reply c stConflict []
        else ({ s with masks := s.masks ++ [Mask.parse b] }).reply c stOk []

end Sys2Proof.Machine
end

