-- ==== Sys2Proof/Machine/Capture.lean ====
section
/-! DEFINITION. Step capture and its digests (R341 to R343, Tables 11.6 to 11.8). -/

namespace Sys2Proof.Machine

def State.setReplay (s : State) (v : Replay) : State := { s with replay := v }

/-! ### Digests -/

/-- BODY_DIGEST of the running firmware image (Table 19.9). -/
def State.firmwareDigest (s : State) : List Byte :=
  if s.boot.fwDigest.isEmpty then Config.flashDigest 0 else s.boot.fwDigest

/-- SHA-384 of `n` bytes of a job's space; a free value where they cannot be read. -/
def State.digestOf (s : State) (job : Byte) (va n : Nat) : List Byte :=
  match s.hubRead job va n with
  | .ok b => sha384 b
  | _ => Config.lostDigest va

/-- A region digest (R341). -/
def State.regionDigest (s : State) (job : Byte) (r : Region_) : List Byte :=
  sha384 ((List.range (r.len / 65536)).flatMap fun i => s.digestOf job (r.va + i * 65536) 65536)

/-- Insert a group by GID. -/
def insGroup (g : TillGroup) : List TillGroup → List TillGroup
  | [] => [g]
  | x :: r => if g.gid ≤ x.gid then g :: x :: r else x :: insGroup g r

/-- A job's registered groups in ascending GID. -/
def State.jobGroups (s : State) (job : Byte) : List TillGroup := (s.till.groups.filter fun g => g.job = job).foldr insGroup []

/-- A group's shard digest, as its digest table holds it (R320). -/
def State.shardDigest (s : State) (g : TillGroup) : List Byte :=
  match s.hubRead g.job g.digest 48 with
  | .ok b => b
  | _ => Config.lostDigest g.digest

/-- The weight digest (R341). -/
def State.weightDigest (s : State) (job : Byte) : List Byte :=
  sha384 ((s.jobGroups job).flatMap fun g => leBytes 2 g.gid ++ s.shardDigest g)

/-- A header with the fields that the graph digest takes as zero (R342). -/
def headerForDigest (b : List Byte) : List Byte :=
  b.take 0x34 ++ List.replicate 9 0 ++ (b.drop 0x3D).take 1 ++ List.replicate 10 0 ++ b.drop 0x48

/-- The graph digest of the image at a header (R342). -/
def State.graphDigest (s : State) (job : Byte) (va : Nat) : List Byte :=
  match s.hubRead job va 128 with
  | .ok b =>
    (match s.hubRead job (leAt b 0x10 8) (128 * leAt b 8 4) with
    | .ok r => sha384 (headerForDigest b ++ r)
    | _ => Config.lostDigest va)
  | _ => Config.lostDigest va

/-! ### What the digests read (R39, R341, R342)

The runs of a job's space, as address and length. A run on another part is fetched first; one that ends with an error
status has a fault record, and its digest is a free value. -/

/-- The first run that another part has still to send. -/
def State.firstAway (s : State) (job : Byte) (l : List (Nat × Nat)) : Option (Nat × Nat × Nat) :=
  l.findSome? fun p => match s.hubRead job p.1 p.2 with | .remote va pa n => some (va, pa, n) | _ => none

/-- The records of the runs that end with an error status. -/
def State.readErrors (s : State) (job : Byte) (l : List (Nat × Nat)) : State :=
  l.foldl (fun (s : State) (p : Nat × Nat) => match s.hubRead job p.1 p.2 with | .err a q => s.accessFault 4 q a 0 | _ => s) s

/-- The shard digests of the weight digest. -/
def State.weightRuns (s : State) (job : Byte) : List (Nat × Nat) := (s.jobGroups job).map fun g => (g.digest, 48)

/-- The header and the record array of the graph digest. -/
def State.graphRuns (s : State) (job : Byte) (va : Nat) : List (Nat × Nat) :=
  (va, 128) :: match s.hubRead job va 128 with | .ok b => [(leAt b 0x10 8, 128 * leAt b 8 4)] | _ => []

/-- The pieces of the region digests. -/
def ReplayCfg.regionRuns (c : ReplayCfg) (f : Region_ → Bool) : List (Nat × Nat) :=
  (c.regions.filter f).flatMap fun r => (List.range (r.len / 65536)).map fun i => (r.va + i * 65536, 65536)

/-! ### Records (Table 11.7) -/

/-- One byte run of a record. -/
def State.recBytes (s : State) (c : ReplayCfg) (i off n : Nat) : List Byte := s.mem.read (recordOff c i + off) n
/-- Records that a configuration holds. -/
def ReplayCfg.count (c : ReplayCfg) : Nat := c.buf * 16

/-- The domain sizes as SHAPE holds them. -/
def State.shapeBytes (s : State) : List Byte := let (a, b, c, d) := s.fab.shape; leBytes 1 a ++ leBytes 1 b ++ leBytes 1 c ++ leBytes 1 d

/-- The batch ids at BATCH_PTR. -/
def State.batchIds (s : State) (c : ReplayCfg) (n : Nat) : List Byte :=
  match s.hubRead c.job c.batch (8 * n) with
  | .ok b => b
  | _ => padTo (8 * n) (Config.lostDigest c.batch)

/-- The digests of a record's regions: start and end, zero where a flag is clear. -/
def State.regDigests (s : State) (c : ReplayCfg) (f : Region_ → Bool) : List (List Byte) :=
  c.regions.map fun r => if f r then s.regionDigest c.job r else List.replicate 48 0

/-- Steps 1 and 2 of Table 11.6 for one configuration: the next record is written and open. -/
def State.openRecord (s : State) (c : ReplayCfg) (g : Nat) (gr : Graph) (step : W32) : State :=
  let cached := s.replay.graphDigs.get [] g
  let dig := if cached = [] then s.graphDigest c.job gr.headerVa.toNat else cached
  let i := c.next % c.count
  let starts := s.regDigests c (·.start)
  let bytes := [1, c.job] ++ leBytes 1 g ++ leBytes 1 c.regions.length ++ leBytes 4 step.toNat
    ++ leBytes 8 (s.host.seeds.get 0 c.job.toNat).toNat ++ leBytes 2 gr.hdr.mbCount ++ leBytes 2 0
    ++ leBytes 2 (s.weightEpoch.get 0 c.job.toNat).toNat ++ leBytes 2 (s.layoutEpoch.get 0 c.job.toNat).toNat
    ++ s.shapeBytes ++ leBytes 2 s.xchk.widened.length ++ leBytes 2 0
    ++ padTo 48 s.firmwareDigest ++ padTo 48 dig ++ padTo 48 (s.weightDigest c.job) ++ List.replicate 48 0
    ++ leBytes 8 s.hubLc.toNat ++ leBytes 24 0
    ++ padTo 1024 (s.xchk.widened.flatMap fun w => leBytes 4 w.toNat)
    ++ padTo 6144 (starts.flatMap fun d => padTo 48 d ++ List.replicate 48 0) ++ List.replicate 768 0
    ++ padTo 32768 (s.batchIds c gr.hdr.mbCount) ++ List.replicate 24576 0
  let s := s.poke (recordOff c i) bytes
  s.setReplay { s.replay with
    graphDigs := s.replay.graphDigs.set [] g dig
    cfgs := s.replay.cfgs.map fun x => if x = c then { x with next := (i + 1) % c.count, open_ := some (g, i) } else x }

/-- The captures due at a step start: none starts below 42 V or while a replay runs (R342, R343, R577). -/
def State.dueCaptures (s : State) (gr : Graph) (step : W32) : List ReplayCfg :=
  if s.power.below42 then []
  else s.replay.cfgs.filter fun c => c.job = gr.hdr.job && (c.mode = 1 || c.step = step) && c.open_.isNone && s.replay.runs.isEmpty

/-- What the captures due at a step start read. -/
def State.startRuns (s : State) (g : Nat) (gr : Graph) (step : W32) : List (Nat × Nat) :=
  (s.dueCaptures gr step).flatMap fun c => (if s.replay.graphDigs.get [] g = [] then s.graphRuns c.job gr.headerVa.toNat else [])
    ++ (c.batch, 8 * gr.hdr.mbCount) :: s.weightRuns c.job ++ c.regionRuns (·.start)

/-- Capture at the start of a step, where one is due (R342, R343). -/
def State.captureStart (s : State) (g : Nat) (step : W32) : State :=
  match s.graph g with
  | none => s
  | some gr =>
    let due := s.dueCaptures gr step
    if due.isEmpty then s
    else (due.foldl (fun (s : State) (c : ReplayCfg) => s.openRecord c g gr step)
      (s.readErrors gr.hdr.job (s.startRuns g gr step))).dropHub gr.hdr.job

/-- What the end of a step reads: for the open records, and for the comparison of a replay (R342, R345). -/
def State.endRuns (s : State) (g : Nat) (job : Byte) : List (Nat × Nat) :=
  (s.replay.cfgs.filter fun c => c.open_.any fun o => o.1 = g).flatMap (fun c => s.weightRuns job ++ c.regionRuns (·.end_))
    ++ (s.replay.runs.filter fun r => r.graph = g).flatMap fun r =>
      (if r.noupdate then [] else s.weightRuns job)
        ++ (s.replay.cfgs.filter fun c => c.job = job && c.hall = r.hall).flatMap fun c => c.regionRuns (·.end_)

/-- Step 4 of Table 11.6: the open record is completed. -/
def State.captureEnd (s : State) (g : Nat) : State :=
  match s.graph g with
  | none => s
  | some gr => s.replay.cfgs.foldl (fun (s : State) (c : ReplayCfg) => match c.open_ with
    | some (h, i) =>
      if h ≠ g then s
      else
        let ends := s.regDigests c (·.end_)
        let o := recordOff c i
        let s := s.poke (o + 0x12) (leBytes 2 gr.admitted)
        let s := s.poke (o + 0xB0) (padTo 48 (s.weightDigest c.job))
        let s := ((List.range ends.length).zip ends).foldl (fun (s : State) (p : Nat × List Byte) =>
          s.poke (o + 0x500 + 96 * p.1 + 48) (padTo 48 p.2)) s
        let s := (s.poke (o + 0xE8) (leBytes 8 s.hubLc.toNat)).poke o [2]
        s.setReplay { s.replay with cfgs := s.replay.cfgs.map fun x => if x = c then { x with open_ := none } else x }
    | none => s) s

/-- The record of a step that a job's capture holds: the configuration and the record, the newest first. -/
def State.findRecord (s : State) (job : Byte) (step : W64) (ok : Byte → Bool) : Option (ReplayCfg × Nat) :=
  let all := (s.replay.cfgs.filter fun c => c.job = job).flatMap fun c => (List.range c.count).map fun k => (c, (c.next + c.count - 1 - k) % c.count)
  all.find? fun p => (s.recBytes p.1 p.2 0 1).all ok && leAt (s.recBytes p.1 p.2 1 1) 0 1 = job.toNat && leAt (s.recBytes p.1 p.2 4 4) 0 4 = step.toNat

/-- What the check of a captured step reads (R344). -/
def State.checkRuns (s : State) (job : Byte) (step : W64) (header : Nat) : List (Nat × Nat) :=
  match s.findRecord job step (fun b => b = 2) with
  | none => []
  | some (c, i) => s.graphRuns job header ++ (c.batch, 8 * leAt (s.recBytes c i 0x10 2) 0 2) :: s.weightRuns job ++ c.regionRuns (·.start)

/-- The first item of Table 11.8 that differs, with the region for REGION (R344). -/
def State.replayItem (s : State) (job : Byte) (step : W64) (header : Nat) : Nat × Nat :=
  match s.findRecord job step (fun b => b = 2) with
  | none => (1, 0)
  | some (c, i) =>
    let f := fun (off n : Nat) => s.recBytes c i off n
    let bad := fun (off : Nat) (b : List Byte) => f off b.length ≠ b
    let mb := leAt (f 0x10 2) 0 2
    let starts := s.regDigests c (·.start)
    if bad 0x20 (padTo 48 s.firmwareDigest) then (2, 0)
    else if bad 0x18 s.shapeBytes then (3, 0)
    else if bad 0x50 (padTo 48 (s.graphDigest job header)) then (4, 0)
    else if bad 8 (leBytes 8 (s.host.seeds.get 0 job.toNat).toNat) then (5, 0)
    else if bad 0x14 (leBytes 2 (s.weightEpoch.get 0 job.toNat).toNat) || bad 0x16 (leBytes 2 (s.layoutEpoch.get 0 job.toNat).toNat) then (6, 0)
    else if bad 0x1C (leBytes 2 s.xchk.widened.length) || bad 0x100 (padTo 1024 (s.xchk.widened.flatMap fun w => leBytes 4 w.toNat)) then (7, 0)
    else if bad 0x2000 (s.batchIds c mb) then (8, 0)
    else if bad 0x80 (padTo 48 (s.weightDigest job)) then (9, 0)
    else match (List.range starts.length).find? fun r => ((c.regions[r]?).any (·.start)) && bad (0x500 + 96 * r) (padTo 48 (starts.getD r [])) with
      | some r => (10, r)
      | none => (0, 0)

end Sys2Proof.Machine
end

