-- ==== Sys2Proof/Machine/Copy.lean ====
section
/-! DEFINITION. Moves: COPY, TCOPY and PCOPY of a stall (R108, R110, R145 to R151) and the unit engine the Porter
shares (R415). -/

namespace Sys2Proof.Machine

/-- Who moves: the stall whose local stores SPACE 0 and 1 name, the job whose space SPACE 2 names, and the tags of
its remote accesses. -/
structure Mover where
  st : Nat
  job : Byte
  tags : W64
  /-- Its remote accesses carry tags for the target to check (R455). -/
  chk : Bool := true

/-- The 64-byte granules of `[a, a + n)`. -/
def granules (a n : Nat) : List Nat := (List.range ((a + n + 63) / 64 - a / 64)).map fun i => (a / 64 + i) * 64

/-- Whether an address of this part lies in a unit held at step 1 of its retirement (Table 14.10). -/
def State.unitHeld (s : State) (pa : Nat) : Bool :=
  pa / 2 ^ 44 = s.partNo && region (pa % 2 ^ 44) = .hbm
    && (s.locate (pa % 2 ^ 44)).any fun p => s.xlt.holding.contains (p.2.1, s.redirect p.2.1 p.2.2 / 65536)

/-- One granule of a read through a space; one of a held unit is not to be had yet, as one of another part (R417). -/
def moveGranule (s : State) (w : Mover) (m : Move) (g : Nat) : Acc (List Byte) :=
  match s.walk w.job .read g with
  | .page pa _ _ => if s.unitHeld pa then .remote g pa 64 else s.vread w.job .read g 64 m.have_ m.rbuf
  | _ => s.vread w.job .read g 64 m.have_ m.rbuf

/-- All granules of a read through a space, joined. -/
def gatherGranules (s : State) (w : Mover) (m : Move) : List Nat → Acc (List Byte)
  | [] => .ok []
  | g :: r => match moveGranule s w m g with
    | .ok bs => (match gatherGranules s w m r with
      | .ok l => .ok (bs ++ l)
      | e => e)
    | e => e

/-- `n` bytes of a move's source or destination tensor. -/
def moveBytes (s : State) (w : Mover) (m : Move) (space a n : Nat) : Acc (List Byte) :=
  if space ≠ 2 then .ok (s.sread w.st space a n)
  else match gatherGranules s w m (granules a n) with
    | .ok bs => .ok ((bs.drop (a % 64)).take n)
    | e => e

/-- Map over an outcome. -/
def accMap {α β : Type} (f : α → β) : Acc α → Acc β
  | .ok a => .ok (f a)
  | .fault k v l z => .fault k v l z
  | .err a p => .err a p
  | .remote v p l => .remote v p l

/-- Bits of a tensor's store; an in-place transpose reads the source as it stood (R151). -/
def moveBits (s : State) (w : Mover) (m : Move) (space bit n : Nat) : Acc Nat :=
  let k := (bit % 8 + n + 7) / 8
  let cut := fun (bs : List Byte) => ofLe bs / 2 ^ (bit % 8) % 2 ^ n
  match m.snapshot with
  | some mem => .ok (cut (mem.read (bit / 8) k))
  | none => accMap cut (moveBytes s w m space (bit / 8) k)

/-- One source element: raw bits, scale byte and flag bit (R145, R147, R217). -/
def moveElem (s : State) (w : Mover) (m : Move) (d : Desc) (idx : List Nat) : Acc (Nat × Nat × Nat) :=
  let i := d.clamped idx
  match (if d.zfill && d.beyond idx then .ok 0 else moveBits s w m d.space (d.elemBit i) (fmtBits d.fmt)) with
  | .ok raw =>
    if d.scale = 0 then .ok (raw, 0, 0)
    else match moveBits s w m d.space (8 * (d.scaleBase + d.block i)) 8 with
      | .ok sc => accMap (fun fl => (raw, sc, fl)) (moveBits s w m d.space (8 * d.flagBase + d.block i) 1)
      | .fault k v l z => .fault k v l z
      | .err a p => .err a p
      | .remote v p l => .remote v p l
  | .fault k v l z => .fault k v l z
  | .err a p => .err a p
  | .remote v p l => .remote v p l

/-- Collect a list of outcomes. -/
def accAll {α : Type} : List (Acc α) → Acc (List α)
  | [] => .ok []
  | .ok a :: r => accMap (a :: ·) (accAll r)
  | .fault k v l z :: _ => .fault k v l z
  | .err a p :: _ => .err a p
  | .remote v p l :: _ => .remote v p l

/-- The columns of a row of `n0` elements from `first` that go together, as offsets `[lo, hi)`: the tile columns of a 128-byte line
group (DEDUCED, log entry 9). A 6-bit element that lies across two lines belongs to both. -/
def moveCols (b first n0 : Nat) : List (Nat × Nat) :=
  if b = 6 then
    (List.range (cdiv ((first + n0) * 6) 1024 - first * 6 / 1024)).map fun g =>
      let l := first * 6 / 1024 + g
      (max (l * 1024 / 6) first - first, min (cdiv ((l + 1) * 1024) 6) (first + n0) - first)
  else
    let w := max 32 (1024 / b / 32 * 32)
    (List.range ((first + n0 + w - 1) / w - first / w)).map fun g =>
      (max ((first / w + g) * w) first - first, min ((first / w + g) * w + w) (first + n0) - first)

/-- The units of a move in the order of R149: destination offsets. A unit is the elements of one row that share a
128-byte line of it. -/
def moveUnits (d : Desc) (od : List Nat) : List (List (List Nat)) :=
  let ext := d.movedExt
  let b := fmtBits d.fmt
  let epu := if b = 6 then 171 + 2 else max 1 (1024 / b)
  let cols := moveCols b (od.getD 0 0) (ext.getD 0 1)
  let n1 := ext.getD 1 1
  (List.range (ext.getD 4 1)).flatMap fun i4 => (List.range (ext.getD 3 1)).flatMap fun i3 =>
    (List.range (ext.getD 2 1)).flatMap fun i2 => (List.range (cdiv n1 32)).flatMap fun tr =>
      cols.flatMap fun c => (List.range (min 32 (n1 - tr * 32))).flatMap fun r =>
        (List.range (cdiv (c.2 - c.1) epu)).map fun u =>
          (List.range (min epu (c.2 - c.1 - u * epu))).map fun x => [c.1 + u * epu + x, tr * 32 + r, i2, i3, i4]

/-- The source offset of a destination offset: destination dimension i takes source dimension `perm[i]` (R146). -/
def permOff (perm off : List Nat) : List Nat :=
  (List.range 5).foldl (fun l i => l.set (perm.getD i 0) (off.getD i 0)) [0, 0, 0, 0, 0]

/-- The bytes of a unit's elements from bit `bit` of a store: its first address and bytes. The parts of 6-bit elements that lie in a
neighbouring line are left to that line's unit. -/
def unitData (b bit : Nat) (raws : List Nat) : Nat × List Byte :=
  let n := b * raws.length
  let v := raws.foldr (fun r acc => acc * 2 ^ b + r % 2 ^ b) 0
  let a := cdiv bit 8
  let skip := 8 * a - bit
  if b = 6 then (a, leBytes ((n - skip) / 8) (v / 2 ^ skip)) else (a, leBytes ((n + 7) / 8) v)

/-- A number's bytes for a run of raw elements of `b` bits. -/
def packRaws (b : Nat) (raws : List Nat) : List Byte :=
  leBytes ((b * raws.length + 7) / 8) (raws.foldr (fun r acc => acc * 2 ^ b + r % 2 ^ b) 0)

/-- The writes of a unit: address and bytes, elements first, then scale bytes and flags (R145, R148, R217). Where a PCOPY gathers
elements of several source tiles into one scaled tile, the scale byte of the last unit written stands (DESIGN CHOICE, log entry 130). -/
def unitWrites (s : State) (w : Mover) (m : Move) (d : Desc) (els : List (List Nat × Nat × Nat × Nat)) :
    Acc (List (Nat × List Byte)) :=
  let ins := els.filter fun e => !(d.outside e.1)
  match ins with
  | [] => .ok []
  | e0 :: _ =>
    let data := unitData (fmtBits d.fmt) (d.elemBit e0.1) (ins.map fun e => e.2.1)
    if d.scale = 0 then .ok [data]
    else
      let blks := (ins.map fun e => (d.block e.1, e.2.2.1, e.2.2.2)).eraseDups
      let scales := blks.map fun b => (d.scaleBase + b.1, [BitVec.ofNat 8 b.2.1])
      let flags := (blks.map fun b => (d.flagBase + b.1 / 8)).eraseDups.map fun a =>
        accMap (fun (old : List Byte) =>
          (a, leBytes 1 (blks.foldl (fun v b =>
            if d.flagBase + b.1 / 8 = a then
              v / 2 ^ (b.1 % 8 + 1) * 2 ^ (b.1 % 8 + 1) + b.2.2 * 2 ^ (b.1 % 8) + v % 2 ^ (b.1 % 8)
            else v) (ofLe old)))) (moveBytes s w { m with snapshot := none } d.space a 1)
      accMap (fun fl => data :: scales ++ fl) (accAll flags)

/-- Translate every write of a unit before the first takes effect; a unit that writes to a held one waits (R417). -/
def checkWrites (s : State) (w : Mover) : List (Nat × List Byte) → Acc Unit
  | [] => .ok ()
  | (a, bs) :: r => match s.translate w.job .write (pieces 3 a bs.length) with
    | .ok l =>
      (match l.find? fun p => p.2.1 / 2 ^ 44 = s.partNo && !(s.writable (p.2.1 % 2 ^ 44) p.2.2) with
        | some p => .err p.2.1 false
        | none => match l.find? fun p => s.unitHeld p.2.1 with
          | some p => .remote p.1 p.2.1 p.2.2
          | none => checkWrites s w r)
    | .fault k v l z => .fault k v l z
    | .err a p => .err a p
    | .remote v p l => .remote v p l

/-- Apply the writes of a unit. -/
def applyWrites (w : Mover) (space : Nat) (owner : ReqOwner) (s : State) : List (Nat × List Byte) → State
  | [] => s
  | (a, bs) :: r =>
    if space ≠ 2 then applyWrites w space owner (s.swrite w.st space a bs) r
    else match s.vwrite w.job a bs (.owner owner) with
      | .ok (s, away) => applyWrites w space owner (s.remoteWrites owner w.tags w.chk away) r
      | _ => applyWrites w space owner s r

/-- One unit: every read, then its writes. -/
def moveUnit (s : State) (w : Mover) (owner : ReqOwner) (m : Move) (unit : List (List Nat)) : Acc (State × Bool) :=
  let ds := Desc.parse m.ds
  let dd := Desc.parse m.dd
  let perm := permOf m.op m.perm
  let os := originIdx m.os
  let od := originIdx m.od
  match accAll (unit.map fun off => accMap (fun e => (addIdx od off, e)) (moveElem s w m ds (srcIdx ds os (permOff perm off)))) with
  | .ok els =>
    let els := els.map fun e => (e.1, e.2.1, e.2.2.1, e.2.2.2)
    (match unitWrites s w m dd els with
    | .ok ws =>
      (match (if dd.space = 2 then checkWrites s w ws else .ok ()) with
      | .ok () => .ok (applyWrites w dd.space owner s ws, els.any fun e => e.2.2.2 = 1)
      | .fault k v l z => .fault k v l z
      | .err a p => .err a p
      | .remote v p l => .remote v p l)
    | .fault k v l z => .fault k v l z
    | .err a p => .err a p
    | .remote v p l => .remote v p l)
  | .fault k v l z => .fault k v l z
  | .err a p => .err a p
  | .remote v p l => .remote v p l

/-- How a move stopped. -/
inductive MoveStop where
  | finished
  | fault (kind va lo size : Nat)
  | err (addr : Nat) (poison : Bool)
  | remote (va pa len : Nat)
  deriving DecidableEq, Repr

/-- Run units until one cannot. -/
def moveLoop (w : Mover) (owner : ReqOwner) : List (List (List Nat)) → Move → State → State × Move × MoveStop
  | [], m, s => (s, { m with finished := true, fault := none }, .finished)
  | u :: us, m, s =>
    match moveUnit s w owner m u with
    | .ok (s, c) => moveLoop w owner us { m with units := m.units + 1, rbuf := [], have_ := [], carried := m.carried || c, fault := none } s
    | .fault k v l z => (s, m, .fault k v l z)
    | .err a p => (s, m, .err a p)
    | .remote v p l => (s, m, .remote v p l)

/-- The source bytes of an in-place transpose as they stand (R151). -/
def takeSnapshot (s : State) (w : Mover) (m : Move) : List Run → Acc Memory
  | [] => .ok []
  | r :: rs => match moveBytes s w m r.space r.lo (r.hi - r.lo) with
    | .ok bs => accMap (fun mem => Memory.write mem r.lo bs) (takeSnapshot s w m rs)
    | .fault k v l z => .fault k v l z
    | .err a p => .err a p
    | .remote v p l => .remote v p l

/-- Run a move from its recorded unit (R128, R149). -/
def runMove (w : Mover) (owner : ReqOwner) (m : Move) (s : State) : State × Move × MoveStop :=
  let dd := Desc.parse m.dd
  let units := (moveUnits dd (originIdx m.od)).drop m.units
  let inPlace := m.op ≠ 0 && bits m.ds 480 32 = bits m.dd 480 32
  if inPlace && m.snapshot.isNone then
    match takeSnapshot s w m m.srcRuns with
    | .ok mem => moveLoop w owner units { m with snapshot := some mem } s
    | .fault k v l z => (s, m, .fault k v l z)
    | .err a p => (s, m, .err a p)
    | .remote v p l => (s, m, .remote v p l)
  else moveLoop w owner units m s

/-! ### Rescale lists (R218, R219) -/

/-- A unit set or carried a flag into a SPACE 2 tensor: it enters the rescale list of hall `(F >> 30) mod 4` (R218),
or overflows it (R219). -/
def State.noteFlags (s : State) (raw : W512) (job : Byte) (graph : Nat) (tags : W64) : State :=
  let d := Desc.parse raw
  if d.space ≠ 2 || d.scale = 0 then s
  else match s.walk job .read d.scaleBase with
    | .page f _ _ =>
      let h0 := f / 2 ^ 30 % 4
      let h := if (s.hall h0).fenced then s.lowestHall else h0
      let i := h * 8 + graph
      let l := s.rescale.get [] i
      if l.any fun e => e.key = f then s
      else if l.length ≥ 4096 || s.rescaleFull.getLsbD i then
        let first := !(s.rescaleFull.getLsbD i)
        let s := { s with rescaleFull := s.rescaleFull ||| (1 <<< i) }
        let s := if first then s.hallFault h .rescale 2 0 (BitVec.ofNat 16 h) tags (BitVec.ofNat 64 f) else s
        s.modGraph graph fun g => { g with rescaleOver := true }
      else { s with rescale := s.rescale.set [] i (l ++ [{ key := f, desc := raw, job := job, graph := graph }]) }
    | _ => s

/-! ### Moves of a thread -/

/-- The mover of a thread. -/
def State.moverOf (s : State) (k : Nat) (th : Thread) : Mover :=
  { st := stallOf k, job := tagJob (s.threadTags th), tags := s.threadTags th }

/-- Replace a thread's move. -/
def Thread.putMove (th : Thread) (m : Move) : Thread :=
  { th with moves := th.moves.map fun x => if x.tok = m.tok then m else x }

/-- A move of a thread went as far as it could: finished, faulted, failed, or waiting for another part (R108, R110,
R412). The move of a thread that trapped ends with it (R123). -/
def State.settleMove (s : State) (k : Nat) (r : State × Move × MoveStop) : State :=
  let (s', m, stop) := r
  match s.thread k with
  | none => s'
  | some th =>
    let w := s.moverOf k th
    let s := s'
    let s := if m.carried then s.noteFlags m.dd w.job th.graph w.tags else s
    let dropped := fun (s : State) => (s.setThread k (some { th with moves := th.moves.filter fun x => x.tok ≠ m.tok })).reap k
    match stop with
    | .finished => (s.setThread k (some (th.putMove m))).reap k
    | .fault kind va lo size =>
      if th.status = .stopped then dropped s
      else
      let (id, s) := s.raise (hallOf (stallOf k)) 1 w.job kind va lo size (faultSource (stallOf k) th.task th.graph)
      let s := s.setThread k (some (th.putMove { m with fault := some id }))
      (match (s.task th.graph th.task).bind (·.saving) with
        | some _ => s
        | none => (s.beginSave th.graph th.task .fault id).getD s)
    | .err a p =>
      let s := s.accessFault (hallOf (stallOf k)) p a w.tags
      if th.status = .stopped then dropped s
      else (s.setThread k (some { th with pc := m.pc, moves := th.moves.filter fun x => x.tok ≠ m.tok })).trap k .address (BitVec.ofNat 64 a) m.word
    | .remote va pa len =>
      let s := s.setThread k (some (th.putMove { m with waiting := true }))
      if s.unitHeld pa then s else s.remoteRead (.moveRead k m.tok (BitVec.ofNat 64 va)) w.tags true pa len

/-- Start or resume a thread's move; it stays at its unit while the task is being saved (R126). -/
def State.pumpMove (s : State) (k : Nat) (m : Move) : State :=
  match s.thread k with
  | none => s
  | some th =>
    if (s.task th.graph th.task).any fun ts => ts.saving.isSome then s.setThread k (some (th.putMove m))
    else s.settleMove k (runMove (s.moverOf k th) (.moveWrite k m.pc m.word) m s)

/-- PERM is a permutation of 0 to 4 (R108). -/
def permOk (p : BitVec 15) : Bool := (List.range 5).all fun j => (permOf 2 p).contains j

/-- The checks of a copy (R108, R143, R144, Table 4.5, R151). -/
def copyCheck (op : Nat) (f : CopyF) (th : Thread) (s : State) : Bad :=
  let job := tagJob (s.threadTags th)
  let ds := th.desc f.ds
  let dd := th.desc f.dd
  let perm := permOf op f.perm
  let sameAlloc := ds.space = dd.space && ds.alloc = dd.alloc && ds.agen = dd.agen
  firstBad [
    if f.rsv ≠ 0 || (if op = 2 then !(permOk f.perm) else f.perm ≠ 0) || (!f.async && f.tok ≠ 0) then some (.illegal, 0)
      else none,
    emptyCheck th [f.ds, f.dd],
    s.sealCheck job th f.ds, s.sealCheck job th f.dd,
    s.rowCheck th false false f.ds, s.rowCheck th true false f.dd,
    badIf (ds.fmt ≠ dd.fmt || ds.scale ≠ dd.scale) .descFormat f.dd,
    badIf (op ≠ 0 && fmtMx dd.fmt && perm.getD 0 0 ≠ 0) .descFormat f.dd,
    badIf (sameAlloc && ds.code ≠ dd.code && dd.pair ≠ ds.code) .descFormat f.dd,
    badIf (op ≠ 0 && ds.code = dd.code && (bits (th.originOf f.xis) 0 60 ≠ bits (th.originOf f.xid) 0 60
      || [0, 1, 2, 3, 4].any fun i => dd.extent i ≠ ds.extent (perm.getD i 0))) .descFormat f.dd]

/-- A copy instruction: an asynchronous one continues with its token busy, a synchronous one waits (R108, R115,
R116). -/
def runCopy (op : Nat) (code : BitVec 6) (f : CopyF) (k : Nat) (th : Thread) (s : State) : State :=
  match copyCheck op f th s with
  | some (c, d) => s.trap k c d (copyWord code f)
  | none =>
    let tok := if f.async then f.tok.toNat else 4
    if th.moves.any fun m => m.tok = tok then s.hold k th .token
    else
      let m : Move := { tok := tok, word := copyWord code f, pc := th.pc, ds := (th.dr f.ds).getD 0, dd := (th.dr f.dd).getD 0,
                        os := th.originOf f.xis, od := th.originOf f.xid, op := op, perm := f.perm }
      let th' := { th with moves := th.moves ++ [m], status := if f.async then .ready else .syncMove }
      let th' := if (Desc.parse m.dd).space = 0 then th'.wroteScratch else th'
      s.unlessHeld k th m.srcRuns m.dstRuns
        (((s.touchRuns th.graph th.task (m.srcRuns ++ m.dstRuns)).retire k th').pumpMove k m)

/-- COPY (Table 3.10). -/
def execCopy (t : ThreadRef) (f : CopyF) (s : State) : Host.Outcome State Fault Refusal :=
  issue t (copyWord 0 f) s fun k th s => runCopy 0 0 f k th s
/-- TCOPY: dimensions 0 and 1 exchanged (Table 3.10). -/
def execTcopy (t : ThreadRef) (f : CopyF) (s : State) : Host.Outcome State Fault Refusal :=
  issue t (copyWord 1 f) s fun k th s => runCopy 1 1 f k th s
/-- PCOPY: dimensions permuted (Table 3.10). -/
def execPcopy (t : ThreadRef) (f : CopyF) (s : State) : Host.Outcome State Fault Refusal :=
  issue t (copyWord 2 f) s fun k th s => runCopy 2 2 f k th s

/-- What a thread does next once one of its tokens is free: WAITTOK, a synchronous move, a held instruction or END
may go on (R115, R116, R125). -/
def State.moveFreed (s : State) (k : Nat) : State :=
  match s.thread k with
  | none => s
  | some th =>
    let busy := fun (mask : BitVec 4) => th.moves.any fun m => m.tok < 4 && mask.getLsbD m.tok
    let th' := match th.status with
      | .waitTok mask => if busy mask then th else th.past
      | .syncMove => if th.moves.any fun m => m.tok = 4 then th else { th with status := .ready }
      | .held .token => { th with status := .ready }
      | .held .move => { th with status := .ready }
      | _ => th
    (s.setThread k (some th')).wake k

/-- MOVE_COMPLETE: a finished move frees its token and releases what waited for it (R116). -/
def execMoveComplete (t : ThreadRef) (tok : Fin 5) (s : State) : Host.Outcome State Fault Refusal :=
  match s.thread (tkey t) with
  | some th =>
    if (th.moves.any fun m => m.tok = tok.val && m.finished) && !(s.till.waiting.any fun w => w.who.writeOf (tkey t)) then
      .next (((s.setThread (tkey t) (some { th with moves := th.moves.filter fun m => m.tok ≠ tok.val })).moveFreed (tkey t)).finishAllocFrees)
    else .next s
  | none => .next s

end Sys2Proof.Machine
end

