-- ==== Sys2Proof/Machine/PowerOps.lean ====
section
/-! DEFINITION. The power manager, the valve, Tally commands, alerts, SMBus and sync marks (chapter 21), and the
cooling protection of Table 20.11 that only caps. -/

namespace Sys2Proof.Machine

/-- Change the power manager's state. -/
def State.modPower (s : State) (f : Power → Power) : State := { s with power := f s.power }
/-- Change one hall as the power manager sees it. -/
def State.modHallPower (s : State) (h : Nat) (f : HallPower → HallPower) : State :=
  s.modPower fun p => { p with halls := p.halls.set {} h (f (p.halls.get {} h)) }

/-- The rail index of a fault record: Table 20.6 in its order (DESIGN CHOICE, log entry 12). -/
def railIndex : Rail → Nat
  | .bus => 0 | .core h => 1 + h.val | .hub => 5 | .base k => 6 + k.val | .hbm k => 18 + k.val | .opt n => 30 + n.val
  | .phy => 36
/-- Phases or units of a rail (Table 20.6). -/
def railPhases : Rail → Nat
  | .bus => 8 | .core _ => 16 | .hub => 5 | .base _ => 2 | .hbm _ => 5 | .opt _ => 3 | .phy => 4

/-! ### The cap (R584, R575, Table 20.11) -/

/-- The limits of the effective cap but for the inlet: W and the code of LIMIT (Table 21.8). -/
def Power.limits (p : Power) : List (Nat × Nat) :=
  [(p.hostCap, 0), (p.smbCap, 1)]
    ++ (match p.flowCap with | some w => [(w, 2)] | none => [])
    ++ (if p.thermCap then [(1800, 4)] else [])
    ++ (if p.lost.get 0 0 ≥ 2 then [((8 - p.lost.get 0 0) * 500, 5)] else [])
    ++ [(80 * p.vbusMv / 1000, 6)]

/-- The effective cap in W and the limit that sets it, the first on a tie; an inlet above 40 °C lowers the lowest
limit (R584, DEDUCED, log entry 13). -/
def Power.cap (p : Power) : Nat × Nat :=
  let m := p.limits.foldl (fun (a b : Nat × Nat) => if b.1 < a.1 then b else a) (p.hostCap, 0)
  if p.inletCut > 0 then (m.1 - p.inletCut, 3) else m

/-- A hall's ceiling in mV (R587). -/
def Power.ceiling (p : Power) (h : Nat) : Nat :=
  let x := p.halls.get {} h
  let c := x.ceil - x.jred
  let c := if p.below44 then min c 650 else c
  max 550 (if x.hbmHold then min c 550 else c)

/-- A hall above its ceiling comes down to it (R587). -/
def State.clampHalls (s : State) : State :=
  [0, 1, 2, 3].foldl (fun (s : State) (h : Nat) => s.modHallPower h fun x => { x with mv := min x.mv (s.power.ceiling h) }) s

/-- Whether a hall is active: powered, not fenced, not parked. -/
def State.hallActive (s : State) (h : Nat) : Bool :=
  let x := s.power.halls.get {} h
  !(s.hall h).fenced && x.mv > 0 && !x.parked

/-- The hall to lower: the highest voltage, the highest number on a tie (R586). -/
def State.hallToLower (s : State) : Option Nat :=
  ([0, 1, 2, 3].filter fun h => s.hallActive h && (s.power.halls.get {} h).mv > 550).foldl
    (fun (m : Option Nat) (h : Nat) => match m with
      | none => some h
      | some g => if (s.power.halls.get {} h).mv ≥ (s.power.halls.get {} g).mv then some h else m) none

/-- The hall to raise: the lowest voltage below its ceiling, the lowest number on a tie (R586). -/
def State.hallToRaise (s : State) : Option Nat :=
  leastBy (fun h => (s.power.halls.get {} h).mv)
    ([0, 1, 2, 3].filter fun h => s.hallActive h && (s.power.halls.get {} h).mv < s.power.ceiling h)

/-- Mean of a list of samples. -/
def meanOf (l : List Nat) : Nat := l.foldl (· + ·) 0 / max 1 l.length

/-- The slew hold: the 1 ms mean input current stands more than 20 A above its value 1 ms earlier (R586). -/
def Power.slewHold (p : Power) : Bool := meanOf (p.iinHist.take 100) > meanOf (p.iinHist.drop 100) + 20000

/-- A hall withdrawn from lending that has not reached the lowest voltage of the other active halls (R589). -/
def State.returningHall (s : State) : Option Nat :=
  [0, 1, 2, 3].find? fun h =>
    let x := s.power.halls.get {} h
    let others := ([0, 1, 2, 3].filter fun g => g ≠ h && s.hallActive g).map fun g => (s.power.halls.get {} g).mv
    x.returning && s.hallActive h && x.mv < s.power.ceiling h
      && (match leastBy id others with | some m => x.mv < m | none => false)

/-- HALL_VOLTAGE_STEP: one hall moves by 5 mV: down while the mean exceeds the cap, up while it lies more than 2 %
below, or while a hall returns from lending (R25, R586, R587, R589). -/
def execHallVoltageStep (raise : Bool) (s : State) : Host.Outcome State Fault Refusal :=
  if s.power.supply ≠ .on then .next s
  else if raise then
    if s.power.slewHold then .next s
    else match s.returningHall with
    | some h => .next (s.modHallPower h fun x => { x with mv := x.mv + 5 })
    | none =>
      if s.power.mean * 100 < s.power.cap.1 * 98 then
        match s.hallToRaise with
        | some h => .next (s.modHallPower h fun x => { x with mv := x.mv + 5, returning := false })
        | none => .next s
      else .next s
  else if s.power.mean > s.power.cap.1 then
    match s.hallToLower with
    | some h => .next (s.modHallPower h fun x => { x with mv := x.mv - 5, returning := false })
    | none => .next s
  else .next s

/-- Whether a hall is idle: no occupied context and no queued task (R588). -/
def State.hallIdle (s : State) (h : Nat) : Bool :=
  s.queued h none = 0 && s.threads.all fun p => p.2.isNone || hallOf (stallOf p.1) ≠ h

/-- HALL_PARK: an idle hall, or one Bell reports as lendable, is parked at 0.55 V (R588, R589). -/
def execHallPark (hall : Fin 4) (s : State) : Host.Outcome State Fault Refusal :=
  let h := hall.val
  if s.power.supply ≠ .on || !(s.hallActive h) then .next s
  else if s.bell.lendable.getLsbD h then
    .next (s.modHallPower h fun x => { x with mv := 550, parked := true, lent := true, returning := false })
  else if s.hallIdle h then .next (s.modHallPower h fun x => { x with mv := 550, parked := true, returning := false })
  else .next s

/-- A task placed in a parked hall takes it out of its parking (R588). -/
def State.unpark (s : State) (h : Nat) : State :=
  if (s.power.halls.get {} h).parked then s.modHallPower h fun x => { x with parked := false, lent := false } else s

/-- POWER_SAMPLE: the sensors' values of one 10 µs period; energy counts from step 11; dispatch stopped by R590
resumes below 95 % of the cap (R585, R590 to R592). -/
def execPowerSample (p : PowerSample) (s : State) : Host.Outcome State Fault Refusal :=
  if s.power.supply = .off then .next s
  else
    let s := s.modPower fun x =>
      { x with pin := p.pin, mean := p.mean1ms, vbusMv := p.vbusMv, iinMa := p.iinMa, hallW := p.hallW,
               hallTemp := p.hallTemp, hubTemp := p.hubTemp, iinHist := (p.iinMa :: x.iinHist).take 200,
               energy := if s.pstate = 1 || s.pstate = 3 then min (x.energy + p.pin) ((2 ^ 64 - 1) * 100) else x.energy }
    .next (s.modPower fun x => { x with overcap := x.overcap && p.mean1ms * 100 ≥ x.cap.1 * 95 })

/-- A record of the supply or cooling: UTYPE 3, or 7 for a rail and 8 for a sensor. -/
def State.supplyFault (s : State) (cls : FaultClass) (utype action : Byte) (lunit : Nat) (detail : Nat) : State :=
  s.partFault cls utype action (BitVec.ofNat 16 lunit) 0 (BitVec.ofNat 64 detail)

/-- POWER_OVERCAP_TIMEOUT: the mean exceeded the cap for 10 ms with every hall at 0.55 V; dispatch stops (R590). -/
def execPowerOvercapTimeout (s : State) : Host.Outcome State Fault Refusal :=
  let low := [0, 1, 2, 3].all fun h => (s.hall h).fenced || (s.power.halls.get {} h).mv ≤ 550
  if s.power.supply = .on && low && s.power.mean > s.power.cap.1 && !s.power.overcap then
    .next ((s.modPower fun x => { x with overcap := true }).supplyFault .supply 3 7 0 0)
  else .next s

/-- Whether dispatchers place tasks: ready, not stopped below 42 V nor by R590 (R577, R590, R580). -/
def State.dispatchOn (s : State) : Bool :=
  s.pstate = 1 && s.power.supply = .on && !s.power.below42 && !s.power.overcap

/-! ### Cooling caps (R583, R592 to R594, Table 20.11) -/

/-- A condition of Table 20.11 begins: alert 4 (Table 21.4). -/
def State.coolingAlert (s : State) : State := s.raiseAlert 4

/-- The valve is forced fully open in automatic mode, with a record (R594). -/
def State.forceValve (s : State) : State := s.modPower fun x => { x with duty := 1024, manualValve := false }

/-- JUNCTION_REDUCTION: above 100 °C the hall's ceiling falls by 25 mV; at 98 °C or below the reduction ends (Table
20.11, R587, DEDUCED, log entry 14). -/
def execJunctionReduction (hall : Fin 4) (temp : Int) (s : State) : Host.Outcome State Fault Refusal :=
  let h := hall.val
  if s.pstate ≠ 1 then .next s
  else if temp > 400 then
    let first := (s.power.halls.get {} h).jred = 0
    let s := (s.modHallPower h fun x => { x with jred := min (x.jred + 25) 300 }).clampHalls
    let s := if first then s.coolingAlert else s
    .next (s.raiseAlert 5)
  else if temp ≤ 392 then .next (s.modHallPower h fun x => { x with jred := 0 })
  else .next s

/-- FLOW_GATE: one 1 s gate of FLOW_PULSE edges with the thermistors' readings; the automatic valve loop runs (R592,
R593). -/
def execFlowGate (edges : Nat) (inlet outlet : Int) (s : State) : Host.Outcome State Fault Refusal :=
  if s.power.supply = .off then .next s
  else
    let s := s.modPower fun x => { x with flow := edges * 5, inlet := inlet, outlet := outlet }
    if s.pstate ≠ 1 then .next (s.modPower fun x => { x with duty := 1024 })
    else if s.power.manualValve then .next s
    else
      let err4 := outlet - inlet - 4 * (s.power.riseTarget : Int)
      let d := s.power.duty + 2 * err4
      let d := if edges * 5 < 320 then d + 32 else d
      let d := if outlet > 220 then 1024 else d
      .next (s.modPower fun x => { x with duty := min 1024 (max 0 d) })

/-- LOW_FLOW: flow below 3.0 L/min for 1 s caps the power in proportion (Table 20.11, R594). -/
def execLowFlow (s : State) : Host.Outcome State Fault Refusal :=
  if s.pstate ≠ 1 then .next s
  else
    let first := s.power.flowCap.isNone
    let s := (s.modPower fun x => { x with flowCap := some (3400 * x.flow / 300) }).forceValve
    let s := s.supplyFault .cooling 8 0 0 0
    .next (if first then s.coolingAlert else s)

/-- THERMISTOR_FAULT: a thermistor reads outside its range; the cap is 1,800 W (R569, Table 20.11, R594). -/
def execThermistorFault (b : Bool) (s : State) : Host.Outcome State Fault Refusal :=
  if s.pstate ≠ 1 then .next s
  else
    let first := !s.power.thermCap
    let s := (s.modPower fun x => { x with thermCap := true, thermFault := x.thermFault ||| (if b then 2 else 1) }).forceValve
    let s := s.supplyFault .sensor 8 0 0 0
    .next (if first then s.coolingAlert else s)

/-- CAP_LIFT: a flow or inlet condition has been absent for 10 s; its cap lifts (R583). -/
def execCapLift (inlet : Bool) (s : State) : Host.Outcome State Fault Refusal :=
  .next (s.modPower fun x => if inlet then { x with inletCut := 0 } else { x with flowCap := none })

/-! ### Commands (Table 21.7) -/

/-- POWER_CAP_SET: the host cap (R584). -/
def execPowerCapSet (h : CmdHdr) (cap : W64) (s : State) : Host.Outcome State Fault Refusal :=
  command 0x0801 1 false h s fun c s =>
    if inRange cap 1800 3400 then (s.modPower fun x => { x with hostCap := cap.toNat }).reply c stOk []
    else s.reply c stInvalid []

/-- POWER_HALL_SET: a hall's floor and ceiling (R587). -/
def execPowerHallSet (h : CmdHdr) (hall floor ceil : W64) (s : State) : Host.Outcome State Fault Refusal :=
  command 0x0802 3 false h s fun c s =>
    if inRange hall 0 3 && inRange floor 550 850 && inRange ceil 550 850 && floor.toNat % 5 = 0 && ceil.toNat % 5 = 0
        && floor.ule ceil then
      ((s.modHallPower hall.toNat fun x => { x with floor := floor.toNat, ceil := ceil.toNat }).clampHalls).reply c stOk []
    else s.reply c stInvalid []

/-- 16 bits of a signed reading. -/
def s16 (i : Int) : List Byte := leBytes 2 (ofSigned 16 i)

/-- The power status record (Table 21.8). -/
def State.powerStatus (s : State) : List Byte :=
  let p := s.power
  let hs := [0, 1, 2, 3].map fun h => p.halls.get {} h
  let flags := (List.range 4).foldl (fun n h =>
    let x := p.halls.get {} h
    n + (if x.parked then 2 ^ h else 0) + (if x.mv < x.floor then 2 ^ (h + 4) else 0)) 0
  leBytes 2 p.pin ++ leBytes 2 p.cap.1 ++ leBytes 1 p.cap.2 ++ leBytes 1 flags ++ leBytes 2 0
    ++ leBytes 4 p.vbusMv ++ leBytes 4 p.iinMa
    ++ (hs.flatMap fun x => leBytes 2 x.mv) ++ ((List.range 4).flatMap fun h => leBytes 2 (p.hallW.getD h 0))
    ++ ((List.range 12).flatMap fun i => s16 (p.hallTemp.getD i 0))
    ++ ((List.range 12).flatMap fun k => s16 (s.stack k).temp)
    ++ s16 p.inlet ++ s16 p.outlet ++ leBytes 2 p.flow ++ leBytes 2 p.duty.toNat ++ leBytes 8 (p.energy / 100)
    ++ leBytes 8 s.hubLc.toNat ++ leBytes 24 0

/-- POWER_STATUS: the record of Table 21.8 to bulk. -/
def execPowerStatus (h : CmdHdr) (s : State) : Host.Outcome State Fault Refusal :=
  command 0x0803 0 false h s fun c s => s.replyBulk c s.powerStatus [128]

/-- TALLY_READ: entries to bulk. -/
def execTallyRead (h : CmdHdr) (first count : W64) (s : State) : Host.Outcome State Fault Refusal :=
  command 0x0810 2 false h s fun c s =>
    if inRange first 0 8191 && inRange count 1 8192 && first.toNat + count.toNat ≤ 8192 then
      s.replyBulk c ((List.range count.toNat).flatMap fun i => leBytes 8 (s.tallyAt (first.toNat + i)).toNat) [8 * count]
    else s.reply c stInvalid []

/-- TALLY_CLEAR: counters of the range become 0; gauges keep their values (R596). -/
def execTallyClear (h : CmdHdr) (first count : W64) (s : State) : Host.Outcome State Fault Refusal :=
  command 0x0811 2 false h s fun c s =>
    if inRange first 0 8191 && inRange count 1 8192 && first.toNat + count.toNat ≤ 8192 then
      let t := (List.range count.toNat).foldl (fun (t : SMap W64) (i : Nat) => match Config.tallyDir (first.toNat + i) with
        | some e => if e.gauge || first.toNat + i ≥ 0x0C00 then t else t.set 0 e.key 0
        | none => t) s.tally
      State.reply { s with tally := t } c stOk []
    else s.reply c stInvalid []

/-- One directory entry (Table 21.9). -/
def dirEntry (i : Nat) (e : TallyEntry) : List Byte :=
  leBytes 2 i ++ [if e.gauge then 1 else 0, e.unit] ++ leBytes 4 0 ++ (padTo 24 e.name).take 24

/-- TALLY_MAP: the directory of every defined entry, in ascending index order (R598, R636). -/
def execTallyMap (h : CmdHdr) (s : State) : Host.Outcome State Fault Refusal :=
  command 0x0812 0 false h s fun c s =>
    let l := (List.range 0x0C00).filterMap fun i => (Config.tallyDir i).map fun e => dirEntry i e
    s.replyBulk c l.flatten [BitVec.ofNat 64 l.length]

/-- ALERT_CONFIG: enable or mask an alert; for 8 to 15 the entry and threshold (R599, Table 21.4). -/
def execAlertConfig (h : CmdHdr) (alert enable entry threshold : W64) (s : State) : Host.Outcome State Fault Refusal :=
  command 0x0813 4 false h s fun c s =>
    let n := alert.toNat
    if !(inRange alert 1 15) || !(inRange enable 0 1) || (enable = 0 && (n = 1 || n = 6)) || (n ≥ 8 && !(inRange entry 0 8191))
        || (n < 8 && (entry ≠ 0 || threshold ≠ 0)) then s.reply c stInvalid []
    else
      let m : W16 := (1 : W16) <<< n
      let s := s.modPower fun x => { x with alertMasked := if enable = 1 then x.alertMasked &&& ~~~m else x.alertMasked ||| m }
      let s := if n ≥ 8 then
          (s.modPower fun x => { x with alertEntry := x.alertEntry.set none (n - 8) (some (entry.toNat, threshold)) }).counterAlert (n - 8)
        else s
      s.reply c stOk []

/-- Clear pending bits; ALERT_N rises with the last (R599, R600). -/
def State.clearAlerts (s : State) (mask : W16) : State :=
  let old := s.power.alertPending
  let s := s.modPower fun x => { x with alertPending := x.alertPending &&& ~~~mask }
  if old ≠ 0 && s.power.alertPending = 0 then s.send (.smbAlert false) else s

/-- ALERT_ACK: clears pending bits and answers those left (R600). -/
def execAlertAck (h : CmdHdr) (mask : W64) (s : State) : Host.Outcome State Fault Refusal :=
  command 0x0814 1 false h s fun c s =>
    if mask.toNat < 65536 then
      let s := s.clearAlerts (bits mask 0 16)
      s.reply c stOk [s.power.alertPending.setWidth 64]
    else s.reply c stInvalid []

/-- VALVE_SET: automatic mode with a rise target, or manual duty; in the orderly stop the duty stays full (R593). -/
def execValveSet (h : CmdHdr) (mode value : W64) (s : State) : Host.Outcome State Fault Refusal :=
  command 0x0820 2 false h s fun c s =>
    if mode = 0 && inRange value 5 16 then
      (s.modPower fun x => { x with manualValve := false, riseTarget := value.toNat }).reply c stOk []
    else if mode = 1 && inRange value 0 1024 then
      (s.modPower fun x => { x with manualValve := true, duty := if s.pstate = 1 then value.toNat else 1024 }).reply c stOk []
    else s.reply c stInvalid []

/-! ### Sync marks (R604) -/

/-- Record a mark of all four hall counts. -/
def State.mark (s : State) (kind : Nat) (hops : W16) (origin : Nat) (id : W64) : State :=
  let m : Mark := { kind := kind, hops := hops, origin := origin, id := id, lcs := [0, 1, 2, 3].map s.hallLc }
  let s := s.modPower fun x => { x with marks := (m :: x.marks).take 256 }
  [0, 1, 2, 3].foldl (fun (s : State) (h : Nat) => s.traceEvent h 7 0 (id.toNat % 2 ^ 32)) s

/-- A mark of kind 1 or 2: its MARK_ID is a count of the part's own (Table 21.6). -/
def State.ownMark (s : State) (kind : Nat) : State :=
  (s.mark kind 0 s.partNo s.power.markCount).modPower fun x => { x with markCount := x.markCount + 1 }

/-- LC_MARK: a mark of kind 3, and with scope 1 a mark packet to the domain (R604). -/
def execLcMark (h : CmdHdr) (id scope : W64) (s : State) : Host.Outcome State Fault Refusal :=
  command 0x0830 2 false h s fun c s =>
    if !(inRange scope 0 1) then s.reply c stInvalid []
    else
      let s := s.mark 3 0 s.partNo id
      let s := if scope = 1 then s.send (.mgmt none (.lcMark s.partNo id 0)) else s
      s.reply c stOk []

/-- LC_MARK_PACKET: a mark packet of another part is recorded on receipt (R604). -/
def execLcMarkPacket (origin : Fin 8192) (id : W64) (hops : W16) (s : State) : Host.Outcome State Fault Refusal :=
  if s.power.supply = .off then .next s else .next (s.mark 3 hops origin.val id)

/-- The bytes of a mark record (Table 21.6). -/
def Mark.bytes (m : Mark) : List Byte :=
  leBytes 2 m.kind ++ leBytes 2 m.hops.toNat ++ leBytes 4 m.origin ++ leBytes 8 m.id.toNat
    ++ (List.range 4).flatMap fun h => leBytes 8 (m.lcs.getD h 0).toNat

/-- LC_MARK_READ: the newest marks to bulk. -/
def execLcMarkRead (h : CmdHdr) (count : W64) (s : State) : Host.Outcome State Fault Refusal :=
  command 0x0831 1 false h s fun c s =>
    if inRange count 1 256 then
      let l := s.power.marks.take count.toNat
      s.replyBulk c (l.flatMap Mark.bytes) [BitVec.ofNat 64 l.length]
    else s.reply c stInvalid []

/-- LC_RECALIBRATE: a hall's counter is recalibrated and a mark of kind 1 is taken (R603, R604). -/
def execLcRecalibrate (hall : Fin 4) (s : State) : Host.Outcome State Fault Refusal :=
  if (s.hall hall.val).lcRunning then .next (s.ownMark 1) else .next s

/-! ### SMBus (R601, Table 21.5) -/

/-- Whether the SMBus target answers: from step 2 onward, in recovery mode and in the orderly stop (R601). -/
def State.smbAnswers (s : State) : Bool := s.power.supply ≠ .off && (s.pstate ≠ 0 || s.startStep.toNat ≥ 2)

/-- What an SMBus read of a command code returns (Tables 0.2 and 21.5); none where the code is not acknowledged. TALLY_VALUE
is SMB_TALLY_VALUE_READ: its read moves the index. -/
def State.smbRead (s : State) (code : Nat) : Option (List Byte) :=
  let p := s.power
  if !s.smbAnswers then none
  else match code with
    | 0x01 => some [BitVec.ofNat 8 (s.pstate.toNat + if p.alertPending = 0 then 0 else 8)]
    | 0x02 => some (leBytes 2 p.alertPending.toNat)
    | 0x03 => some (leBytes 2 p.mean)
    | 0x04 => some (leBytes 2 (p.vbusMv / 10))
    | 0x05 => some (leBytes 2 (p.iinMa / 10))
    | 0x06 => some (s16 p.inlet)
    | 0x07 => some (s16 p.outlet)
    | 0x08 => some (leBytes 2 p.flow)
    | 0x09 => some (s16 (p.hallTemp.foldl max p.hubTemp))
    | 0x0A => some (leBytes 2 p.smbCap)
    | 0x10 => some (leBytes 2 p.smbIndex.toNat)
    | _ => none

/-- SMB_ALERTS_WRITE: a word write of code 0x02 clears pending bits (R600). -/
def execSmbAlertsWrite (v : W16) (s : State) : Host.Outcome State Fault Refusal :=
  if s.smbAnswers then .next (s.clearAlerts v) else .next s

/-- SMB_CAP_WRITE: code 0x0A, 1,800 to 3,400 W; other values are refused (R584). -/
def execSmbCapWrite (v : W16) (s : State) : Host.Outcome State Fault Refusal :=
  if s.smbAnswers && 1800 ≤ v.toNat && v.toNat ≤ 3400 then .next (s.modPower fun x => { x with smbCap := v.toNat })
  else .next s

/-- SMB_TALLY_VALUE_READ: eight bytes of the entry TALLY_INDEX leave, and the index advances (Table 21.5). -/
def execSmbTallyValueRead (s : State) : Host.Outcome State Fault Refusal :=
  if s.smbAnswers then
    .next ((s.send (.smbRead (leBytes 8 (s.tallyAt s.power.smbIndex.toNat).toNat))).modPower fun x => { x with smbIndex := x.smbIndex + 1 })
  else .next s

/-- The part's SMBus address: 0x58 + QUAD_POS (Table 20.3). -/
def State.smbAddress (s : State) : Nat := 0x58 + s.boot.straps.quadPos.toNat

/-- SMB_ALERT_RESPONSE: while ALERT_N is low, the part answers the Alert Response Address with its own (R601). -/
def execSmbAlertResponse (s : State) : Host.Outcome State Fault Refusal :=
  if s.smbAnswers && s.power.alertPending ≠ 0 then .next (s.send (.smbRead [BitVec.ofNat 8 s.smbAddress])) else .next s

/-- SMB_REG_WRITE: the writable codes of Table 21.5; read-only codes keep their values. -/
def execSmbRegWrite (code : Byte) (v : W16) (s : State) : Host.Outcome State Fault Refusal :=
  if !s.smbAnswers then .next s
  else if code = 0x02 then .next (s.clearAlerts v)
  else if code = 0x0A then
    if 1800 ≤ v.toNat && v.toNat ≤ 3400 then .next (s.modPower fun x => { x with smbCap := v.toNat }) else .next s
  else if code = 0x10 then .next (s.modPower fun x => { x with smbIndex := bits v 0 13 })
  else .next s

end Sys2Proof.Machine
end

