-- ==== Sys2Proof/Machine/Porter.lean ====
section
/-! DEFINITION. Move tasks on the Porter (R414 to R419). -/

namespace Sys2Proof.Machine

/-- A running task ends without completing: its graph ends (R412, R419). -/
def State.failTask (s : State) (g t : Nat) (status : Byte) : State :=
  (s.modTask g t fun ts => { ts with st := .aborted, place := none }).failGraph g status (BitVec.ofNat 64 t)

/-- Whether a move task's descriptors meet R414. -/
def State.moveOk (s : State) (job : Byte) (d0 d1 : Option W512) : Bool :=
  match d0, d1 with
  | some a, some b =>
    let ds := Desc.parse a
    let dd := Desc.parse b
    let sameAlloc := ds.alloc = dd.alloc && ds.agen = dd.agen
    ds.space = 2 && dd.space = 2 && ds.fmt = dd.fmt && ds.scale = dd.scale
      && !(sameAlloc && ds.code ≠ dd.code && dd.pair ≠ ds.code)
      && sealOk s.startNo a && sealOk s.startNo b && ds.job = job && dd.job = job
      && (findAlloc s.host.allocs ds).isSome && (findAlloc s.host.allocs dd).isSome && dd.wr
  | _, _ => false

/-- The Porter takes a move task: it checks the descriptors and queues the transfer (R414, R416). -/
def State.takeMove (s : State) (g t : Nat) (cls : Nat) (job : Byte) (d0 d1 : Option W512) : State :=
  if s.moveOk job d0 d1 then
    let m : Move := { tok := 0, word := 0, ds := d0.getD 0, dd := d1.getD 0, os := 0, od := 0, op := 0, perm := 0 }
    (s.setXlt { s.xlt with transfers := s.xlt.transfers ++ [{ graph := g, task := t, cls := cls, stamp := s.clock, mv := m }] }).tick
  else s.failTask g t 0x2C

/-- The transfer of a task. -/
def State.transfer (s : State) (g t : Nat) : Option Transfer := s.xlt.transfers.find? fun x => x.graph = g && x.task = t
/-- Replace a transfer. -/
def State.putTransfer (s : State) (x : Transfer) : State :=
  s.setXlt { s.xlt with transfers := s.xlt.transfers.map fun y => if y.graph = x.graph && y.task = x.task then x else y }
/-- Remove a transfer. -/
def State.dropTransfer (s : State) (g t : Nat) : State :=
  s.setXlt { s.xlt with transfers := s.xlt.transfers.filter fun x => !(x.graph = g && x.task = t) }

/-- The mover of a transfer. -/
def State.moverOfTransfer (s : State) (x : Transfer) : Mover :=
  let tags := ((s.task x.graph x.task).map (·.tags)).getD 0
  { st := 0, job := tagJob tags, tags := tags }

/-- A channel's transfer goes as far as it can: finished, parked on a fault, failed, or waiting for another part
(R417 to R419). -/
def State.pumpTransfer (s : State) (x : Transfer) : State :=
  let w := s.moverOfTransfer x
  let (s, m, stop) := runMove w (.portWrite x.graph x.task) x.mv s
  let s := if m.carried then s.noteFlags m.dd w.job x.graph w.tags else s
  match stop with
  | .finished => s.putTransfer { x with mv := m }
  | .fault kind va lo size =>
    let (id, s) := s.raise 4 3 w.job kind va lo size (BitVec.ofNat 64 (x.channel.getD 0))
    s.putTransfer { x with mv := { m with fault := some id }, channel := none }
  | .err a p => ((s.accessFault 4 p a w.tags).dropTransfer x.graph x.task).failTask x.graph x.task 0x2C
  | .remote va pa len =>
    let s := s.putTransfer { x with mv := { m with waiting := true } }
    if s.unitHeld pa then s else s.remoteRead (.portRead x.graph x.task (BitVec.ofNat 64 va)) w.tags true pa len

/-- Whether a move waits for a held unit: it waits, and no read of another part of it is on its way. -/
def State.waitsHeld (s : State) (m : Move) (mine : ReqOwner → Bool) : Bool :=
  m.waiting && m.fault.isNone && !((s.fab.reqs.map (·.owner) ++ s.fab.waiting.map (·.2)).any mine)

/-- A unit is released: the transfers and the stalls' moves that wait for it go on (R417, Table 14.10). -/
def State.releaseUnit (s : State) : State :=
  let s := s.xlt.transfers.foldl (fun (s : State) (x : Transfer) => match s.transfer x.graph x.task with
    | some x => if x.channel.isSome && s.waitsHeld x.mv (fun o => match o with | .portRead g t _ => g = x.graph && t = x.task | _ => false)
        then s.pumpTransfer { x with mv := { x.mv with waiting := false } } else s
    | none => s) s
  s.threads.foldl (fun (s : State) (e : Nat × Option Thread) => match s.thread e.1 with
    | some th => th.moves.foldl (fun (s : State) (m : Move) =>
        if s.waitsHeld m (fun o => match o with | .moveRead k t _ => k = e.1 && t = m.tok | _ => false)
        then s.pumpMove e.1 { m with waiting := false } else s) s
    | none => s) s

/-- The order of waiting transfers: class, then those that have started, then age (R416, R418). -/
def Transfer.before (x y : Transfer) : Bool :=
  x.cls < y.cls || (x.cls = y.cls && ((x.started && !y.started) || (x.started = y.started && x.stamp < y.stamp)))

/-- Transfers that wait for a channel: neither running nor parked. -/
def State.waitingTransfers (s : State) : List Transfer := s.xlt.transfers.filter fun x => x.channel.isNone && x.mv.fault.isNone

/-- The lowest free channel. -/
def State.freeChannel (s : State) : Option Nat := (List.range 16).find? fun c => s.xlt.transfers.all fun x => x.channel ≠ some c

/-- MOVE_TRANSFER_START: the first waiting transfer takes a free channel (R416). -/
def execMoveTransferStart (graph : Fin 8) (task : Nat) (s : State) : Host.Outcome State Fault Refusal :=
  match s.transfer graph.val task, s.freeChannel with
  | some x, some c =>
    if x.channel.isSome || x.mv.fault.isSome || (s.waitingTransfers.any fun y => y.before x) || s.power.supply ≠ .on || s.power.below40 then .next s
    else .next (s.pumpTransfer { x with channel := some c, started := true })
  | _, _ => .next s

/-- MOVE_TRANSFER_DONE: every unit of a running transfer is written and acknowledged; the channel is free and the task's
unit has finished (R54, R415). -/
def execMoveTransferDone (graph : Fin 8) (task : Nat) (s : State) : Host.Outcome State Fault Refusal :=
  match s.transfer graph.val task with
  | some x =>
    if x.channel.isSome && x.mv.finished && !(s.outstanding (.portWrite graph.val task)) then
      .next (((s.dropTransfer graph.val task).modTask graph.val task fun ts => { ts with unitDone := true }).finishAllocFrees)
    else .next s
  | none => .next s

end Sys2Proof.Machine
end

