-- ==== Sys2Proof/Machine/Saves.lean ====
section
/-! DEFINITION. Saving, restoring and re-dispatching tasks (R16, R90, R126 to R128, R421 to R427). -/

namespace Sys2Proof.Machine

/-! ### The save record (Table 14.6, Table 3.17) -/

/-- A thread's status in its save frame: WAIT and held instructions run again at PC; a BARRIER keeps its generation; a
synchronous move goes on (R127, R372). -/
def savedStatus (st : ThreadStatus) : ThreadStatus :=
  match st with
  | .barrier xd p i g => .barrier xd p i g
  | .syncMove => .syncMove
  | .stopped => .stopped
  | _ => .ready

/-- The remaining limit of a thread in WAIT, 0 for an unlimited one; a limit that has run out unreported is saved as 1 lc, since 0
means none (R127, DESIGN CHOICE, log entry 131). -/
def State.waitLeft (s : State) (k : Nat) (st : ThreadStatus) : Option W64 :=
  match st with
  | .wait _ _ _ since lim =>
    if lim = 0 then some 0
    else some (BitVec.ofNat 64 (max 1 (lim.toNat - (s.hallLc (hallOf (stallOf k)) - since).toNat)))
  | _ => none

/-- A thread as its frame holds it: moves stop at unit boundaries, and bytes fetched for a unit in progress are
forgotten (R126, R128). -/
def State.frameOf (s : State) (k : Nat) (th : Thread) : Thread :=
  let left : Option W64 := match th.status with
    | .wait _ _ _ _ _ => s.waitLeft k th.status
    | _ => th.timeoutLeft
  { th with status := savedStatus th.status, timeoutLeft := left,
            moves := th.moves.map fun m => { m with rbuf := [], have_ := [], waiting := false, fault := none } }

/-- Bytes completed of a move: whole units of 128 bytes (R418, Table 3.17). -/
def moveEntry (th : Thread) (tok : Nat) : List Byte :=
  match th.moves.find? fun m => m.tok = tok with
  | some m => leBytes 8 m.word.toNat ++ leBytes 8 (m.units * 128)
  | none => leBytes 16 0

/-- The generation a frame's TIMEOUT_LEFT holds for a BARRIER, or the WAIT limit (R372). -/
def timeoutField (th : Thread) : W64 :=
  match th.status with
  | .barrier _ _ _ g => g
  | _ => th.timeoutLeft.getD 0

/-- The 2,048-byte save frame of a thread (Table 3.17). -/
def frameBytes (th : Thread) : List Byte :=
  let x := (List.range 32).flatMap fun i => leBytes 8 (th.x.get 0 i).toNat
  let d := (List.range 16).flatMap fun i => leBytes 64 ((th.d.get none i).getD 0).toNat
  let c := (List.range 8).flatMap fun i => leBytes 32 (th.c.get 0 i).toNat
  let m := (List.range 4).flatMap fun i => leBytes 16 (th.m.get 0 i).toNat
  let valid := (List.range 16).foldl (fun n i => if (th.d.get none i).isSome then n + 2 ^ i else n) 0
  let waiting : Bool := th.timeoutLeft.isSome || (match th.status with | .barrier _ _ _ _ => true | _ => false)
  let moving := th.moves.any fun m => m.tok = 4
  let flags := (if th.prv then 1 else 0) + (if waiting then 2 else 0) + (if moving then 4 else 0)
  x ++ d ++ c ++ m ++ leBytes 8 th.pc.toNat ++ leBytes 2 valid ++ leBytes 2 flags ++ leBytes 4 th.idx
    ++ leBytes 8 (timeoutField th).toNat ++ List.replicate 40 0 ++ (List.range 5).flatMap (moveEntry th) ++ List.replicate 304 0

/-- The 16-byte tail of a thread (R421). -/
def tailBytes (th : Thread) : List Byte :=
  let p := th.partner
  leBytes 4 th.xj.toNat ++ leBytes 1 ((p.map fun q => q.dreg.toNat).getD 0) ++ leBytes 1 (if p.isSome then 1 else 0)
    ++ leBytes 1 (if (p.map (·.transposed)).getD false then 1 else 0) ++ [0] ++ leBytes 8 ((p.map fun q => q.origin.toNat).getD 0)

/-- A slot-map entry (R421). -/
def slotEntry (x : Slot) (kind thread : Nat) : List Byte :=
  leBytes 8 (x.idx % 128 + (if x.st = .heldTap then 128 else 0) + (if x.st = .open_ then 1 else 2) * 2 ^ 8 + kind * 2 ^ 12
    + x.fmt.toNat * 2 ^ 16 + thread * 2 ^ 20)

/-- Part `i` of 32 bits of a slot's elements. -/
def slotPart (x : Slot) (w i : Nat) : List Byte := x.vals.flatMap fun v => leBytes 4 (ofSigned w v / 2 ^ (32 * i) % 2 ^ 32)

/-- The map entries and images of a task's slots; a half-slot pair shares one image, the lower index in its low halves
(R170, R182, R421). -/
def slotImages (slots : List Slot) : List (List Byte × List Byte) :=
  slots.flatMap fun x => match x.kind with
    | .f32 => [(slotEntry x 0 x.owner, slotPart x 32 0)]
    | .i32 => [(slotEntry x 1 x.owner, slotPart x 32 0)]
    | .fp64 => [0, 1, 2].map fun i => (slotEntry x 3 x.owner, slotPart x 96 i)
    | .q => [0, 1].map fun i => (slotEntry x 4 x.owner, slotPart x 64 i)
    | .f16 =>
      if x.widened then [(slotEntry x 0 x.owner, slotPart x 32 0)]
      else
        let twin := slots.find? fun y => y.kind = .f16 && !y.widened && y.owner = x.owner && y.idx ≠ x.idx && y.idx % 64 = x.idx % 64
        match twin with
        | none => [(slotEntry x 2 x.owner, x.vals.flatMap fun v => leBytes 4 (ofSigned 16 v))]
        | some y =>
          if x.idx < y.idx then
            [(slotEntry x 2 x.owner, (x.vals.zip y.vals).flatMap fun v => leBytes 2 (ofSigned 16 v.1) ++ leBytes 2 (ofSigned 16 v.2))]
          else []

/-- Code of XMODE (Table 14.6). -/
def xmodeCode (m : BitVec 3) : Nat := m.toNat

/-- The whole record (R421). -/
def recordBytes (g t : Nat) (tags : W64) (r : SavedTask) : List Byte :=
  let im := slotImages r.slots
  let head := leBytes 4 0x4A355356 ++ leBytes 4 t ++ leBytes 1 g ++ [r.cause.code] ++ leBytes 2 r.threads.length
    ++ leBytes 1 (xmodeCode r.xmode) ++ leBytes 1 im.length ++ leBytes 2 0 ++ leBytes 8 tags.toNat ++ leBytes 4 r.spanLo
    ++ leBytes 4 r.spanN ++ leBytes 4 r.faultId ++ leBytes 4 r.bytes ++ leBytes 8 r.lc.toNat ++ List.replicate 208 0
  head ++ (r.threads.flatMap fun p => frameBytes p.2) ++ (r.threads.flatMap fun p => tailBytes p.2)
    ++ padTo 512 (im.flatMap (·.1)) ++ im.flatMap (·.2) ++ r.lines.read (r.spanLo * 128) (r.spanN * 128)

/-! ### Saving (Table 14.7) -/

/-- Whether step 2 of a save is done: no drain, accepted write or answer of the task is outstanding. -/
def State.saveReady (s : State) (g t : Nat) (k : Nat) : Bool :=
  !((s.stall k).drains.any fun d => d.graph = g && d.task = t)
    && (s.taskThreads g t).all fun p => !(s.writesOut p.1) && (match p.2.status with
      | .remote _ => false
      | .barrierAsk _ _ _ _ => false
      | _ => true)

/-- Insert a thread by index. -/
def insThread (p : Nat × Thread) : List (Nat × Thread) → List (Nat × Thread)
  | [] => [p]
  | q :: r => if p.2.idx ≤ q.2.idx then p :: q :: r else q :: insThread p r

/-- The thread that a fault stopped, and its move's instruction where a move met it. -/
def faulter (ths : List (Nat × Thread)) (fid : Nat) : Nat × Option (W64 × W64) :=
  match ths.find? fun p => p.2.status = .fault fid || p.2.moves.any fun m => m.fault = some fid with
  | some p => (p.2.idx, (p.2.moves.find? fun m => m.fault = some fid).map fun m => (m.pc, m.word))
  | none => (0, none)

/-- TASK_SAVE: the record is written, contexts, slots and span are free, and the task waits for its restore (R424, Table
14.7 steps 3 and 4). -/
def execTaskSave (graph : Fin 8) (task : Nat) (s : State) : Host.Outcome State Fault Refusal :=
  let g := graph.val
  match s.task g task with
  | none => .next s
  | some ts =>
    match ts.saving, ts.place with
    | some (cause, fid, off, n), some k =>
      if !(s.saveReady g task k) then .next s
      else
        let ths := (s.taskThreads g task).foldr insThread []
        let span := ts.span.getD (1, 0)
        let spanN := span.2 + 1 - span.1
        let ix := fun (key : Nat) => ((ths.find? fun p => p.1 = key).map fun p => p.2.idx).getD 0
        let r : SavedTask :=
          { hall := hallOf k, off := off, bytes := n, cause := cause, faultId := fid,
            threads := ths.map fun p => (p.1, s.frameOf p.1 p.2),
            slots := ((s.stall k).slots.filter fun x => x.graph = g && x.task = task).map fun x => { x with owner := ix x.owner },
            xmode := match (s.stall k).exact with | some (m, g', t') => if g' = g && t' = task then m else 0 | none => 0
            spanLo := span.1, spanN := spanN,
            lines := Memory.write [] (span.1 * 128) (s.scratch.read (k * 786432 + span.1 * 128) (spanN * 128)),
            lc := s.hallLc (hallOf k), faultIdx := (faulter ths fid).1, faultMove := (faulter ths fid).2 }
        let s := s.poke off (padTo n (recordBytes g task ts.tags r))
        let s := (s.freeTask g task).traceStall k 8 task
        .next ((s.modTask g task fun x => { x with st := .saved (!(s.xlt.faults.any fun f => f.id = fid)), saved := some r, saving := none, place := none,
                                                   span := none, queue := some (hallOf k, 36) }).updateLend (hallOf k)).checkLayouts
    | _, _ => .next s

/-! ### Re-dispatch (R16, R373, R374, R427) -/

/-- The counters of the signals of a journal. -/
def journalCounters (l : List JournalEntry) : List (Nat × W16) :=
  (l.filterMap fun e => match e with | .signal p i _ => some (p, i) | _ => none).eraseDups

/-- What a re-run must not repeat: what the runs before it journalled, `old`, and what the last one did, `new` (R373). -/
def mergeJournals (old new : List JournalEntry) : List JournalEntry :=
  (journalCounters (new ++ old)).map (fun x => .signal x.1 x.2 (BitVec.ofNat 64 (max (journalTotal old x.1 x.2) (journalTotal new x.1 x.2))))
    ++ (new ++ old).filter fun e => match e with | .barrier _ _ _ _ => true | _ => false

/-- A task runs again from its start; its journal absorbs the re-run's signals. A non-restartable task ends its graph
instead, and one whose graph is on its way out is not placed again (DESIGN CHOICE, log entry 124). -/
def State.redispatch (s : State) (g t : Nat) : State :=
  match s.graph g, s.task g t with
  | some gr, some ts =>
    let s := (s.freeTask g t).modTask g t fun x => { x with st := .waitPred, place := none, saved := none, saving := none, span := none, unitDone := false }
    if ts.nonRestartable then s.failTask g t 0x2B
    else if gr.phase ≠ .running then (s.modTask g t fun x => { x with st := .aborted }).settle g
    else (s.modTask g t fun x => { x with replay := mergeJournals x.replay x.journal, journal := [] }).makeReady g t true
  | _, _ => s

/-! ### Restoring (R425) -/

/-- Occupied contexts of a stall. -/
def State.usedContexts (s : State) (k : Nat) : Nat := (s.threads.filter fun p => p.2.isSome && stallOf p.1 = k).length
/-- Context keys of a stall that are free, lowest first. -/
def State.freeContexts (s : State) (k : Nat) : List Nat :=
  ((List.range 1024).map fun c => threadKey k c).filter fun x => (s.thread x).isNone

/-- Whether a saved span meets the span of a running task on a stall. -/
def State.spanClash (s : State) (k lo n : Nat) : Bool :=
  n ≠ 0 && s.residents.any fun p => p.2.tasks.any fun ts => ts.place = some k && (match ts.span with
    | some (a, b) => a < lo + n && lo ≤ b
    | none => false)

/-- Graph priority of a handle. -/
def State.gprio (s : State) (g : Nat) : Nat := ((s.graph g).map fun gr => gr.hdr.gprio.toNat).getD 0

/-- Whether a ready task of a higher graph that could use a stall waits in its aisle's queue (R93). -/
def State.higherWaits (s : State) (g k : Nat) : Bool :=
  s.residents.any fun p => p.2.phase = .running && p.2.loading.isNone && p.2.hdr.gprio.toNat < s.gprio g
    && (p.2.tasks.zip p.2.recs).any fun e => e.1.st = .ready && e.1.queue = some (hallOf k, aisleOf k % 36) && e.2.onStall
      && (e.2.placeStall = 31 || e.2.placeStall = k % 16) && tagLayout e.1.tags = s.layoutEpoch.get 0 p.2.hdr.job.toNat

/-- Whether a saved task's fault, if any, has ended and its graph still lets it finish (R87, R425, R577). -/
def State.restorable (s : State) (g : Nat) (ts : TaskSt) : Bool :=
  s.dispatchOn && ts.st = .saved true && (s.graph g).any fun gr => gr.phase = .running || gr.phase = .ending

/-- Whether a saved task may be restored on a stall (R425, R72, R93, R577); one with an exact-slice mode enters it under R177, once
every slot of another format there is free (R185). -/
def State.canRestore (s : State) (g : Nat) (ts : TaskSt) (r : SavedTask) (k : Nat) : Bool :=
  s.restorable g ts && hallOf k = r.hall && s.stallRuns k
    && (s.freeContexts k).length ≥ r.threads.length
    && (s.stall k).usedSlots + physSlots r.slots ≤ 64
    && !(s.spanClash k r.spanLo r.spanN)
    && (match (s.stall k).exact with | none => true | some _ => false)
    && (r.xmode = 0 || ((s.stall k).exactNext.isNone && !(s.stall k).otherFormat))
    && tagLayout ts.tags = s.layoutEpoch.get 0 (tagJob ts.tags).toNat && !(s.higherWaits g k)

/-- Put saved threads back into contexts. -/
def State.loadThreads (s : State) : List (Nat × Thread) → List Nat → State
  | (_, th) :: r, c :: cs => (s.setThread c (some th)).loadThreads r cs
  | _, _ => s

/-- A restored BARRIER waits for `j × N` on its counter (R372). -/
def State.rewait (s : State) (k : Nat) : State :=
  match s.thread k with
  | some th => (match th.status with
    | .barrier xd part i gen => s.awaitGen k th xd part i gen (match s.fetch th with | .word w => w | _ => 0)
    | _ => s)
  | none => s

/-- Restored moves go on from their counts (R128). -/
def State.resumeMoves (s : State) (k : Nat) : State :=
  match s.thread k with
  | none => s
  | some th => th.moves.foldl (fun (s : State) (m : Move) => if m.finished then s else s.pumpMove k m) s

/-- A saved task's threads, slots, mode and span stand on stall `k` again, in the contexts `cs` (R425, Table 14.8). -/
def State.reload (s : State) (g task k : Nat) (r : SavedTask) (cs : List Nat) : State :=
  let s := s.loadThreads r.threads cs
  let owner := fun (idx : Nat) => cs.getD ((r.threads.findIdx? fun p => p.2.idx = idx).getD 0) 0
  let s := s.modStall k fun i =>
    { i with slots := i.slots ++ r.slots.map (fun x => { x with owner := owner x.owner }),
             exact := if r.xmode = 0 then i.exact else some (r.xmode, g, task) }
  let s : State := { s with scratch := s.scratch.write (k * 786432 + r.spanLo * 128) (r.lines.read (r.spanLo * 128) (r.spanN * 128)) }
  s.modTask g task fun x =>
    { x with st := .running, saved := none, place := some k, placed := s.clock, queue := none,
             span := if r.spanN = 0 then none else some (r.spanLo, r.spanLo + r.spanN - 1) }

/-- A task with an epoch that is past is dropped, and its graph ends (R72, R425, R505). -/
def State.dropStale (s : State) (g t : Nat) (tags : W64) : State :=
  (((s.modTask g t fun x => { x with st := .aborted, queue := none, saved := none }).count .staleTag 0 1).partFault .staleTag 3 0 0 tags
    (BitVec.ofNat 64 t)).failGraph g 0x25 (BitVec.ofNat 64 t)

/-- TASK_RESTORE: a saved task takes contexts, slots and its span on a stall of its hall (R425, Table 14.8); a poisoned
record sends it back to its start (R427), and one whose layout epoch is past is dropped (R72). -/
def execTaskRestore (graph : Fin 8) (task : Nat) (st : StallId) (s : State) : Host.Outcome State Fault Refusal :=
  let g := graph.val
  let k := skey st
  match s.task g task with
  | none => .next s
  | some ts =>
    match ts.saved with
    | none => .next s
    | some r =>
      if s.restorable g ts && epochNewer (s.layoutEpoch.get 0 (tagJob ts.tags).toNat) (tagLayout ts.tags) then
        .next ((s.dropStale g task ts.tags).finishAllocFrees)
      else if !(s.canRestore g ts r k) then .next s
      else if s.poisoned r.off r.bytes then .next (s.redispatch g task)
      else
        let cs := (s.freeContexts k).take r.threads.length
        let s := s.reload g task k r cs
        .next ((cs.foldl (fun (s : State) (c : Nat) => (s.rewait c).resumeMoves c) ((s.tick.unpark (hallOf k)).traceStall k 9 task)).updateLend (hallOf k))

/-! ### Pre-emption between graphs (R90) -/

/-- The priority class of a task. -/
def State.taskPrio (s : State) (g t : Nat) : Nat := ((s.rec_ g t).map (·.prio)).getD 0

/-- Tasks of lower-priority graphs that run on a stall and may be pre-empted, lowest priority first: the lowest graph, then the
lowest class; among equals the lowest graph handle and task index (DESIGN CHOICE, log entry 36). -/
def State.victims (s : State) (g k : Nat) : List (Nat × Nat) :=
  let run := s.residents.flatMap fun p => ((List.range p.2.tasks.length).zip p.2.tasks).filterMap fun e =>
    if e.2.place = some k && s.gprio p.1 > s.gprio g && s.preemptable p.1 e.1 then some (p.1, e.1) else none
  [3, 2, 1].flatMap fun pr => [3, 2, 1, 0].flatMap fun cls => run.filter fun v => s.gprio v.1 = pr && s.taskPrio v.1 v.2 = cls

/-- Contexts of a stall that saves under way will free. -/
def State.savingContexts (s : State) (k : Nat) : Nat :=
  (s.threads.filter fun p => stallOf p.1 = k && (match p.2 with
    | some th => (s.task th.graph th.task).any fun ts => ts.saving.isSome
    | none => false)).length

/-- Contexts that lower-priority graphs hold on a stall; a lent task is never pre-empted and does not count (R426). -/
def State.lowerContexts (s : State) (g k : Nat) : Nat :=
  (s.threads.filter fun p => stallOf p.1 = k && (match p.2 with | some th => th.status ≠ .lent && s.gprio th.graph > s.gprio g | none => false)).length

/-- Begin saves on a stall until a task of `need` contexts fits (R90, R423). -/
def State.preemptUntil (s : State) (need : Nat) : List (Nat × Nat) → Nat → State
  | [], _ => s
  | v :: r, free =>
    if free ≥ need then s
    else match s.beginSave v.1 v.2 .priority 0 with
      | some s' => s'.preemptUntil need r (free + (s.taskThreads v.1 v.2).length)
      | none => s.preemptUntil need r free

/-- MIDTASK_PREEMPT_TIMEOUT: a ready task of a MIDTASK graph has waited 50 lc; the aisle pre-empts on the stall that holds
most contexts of lower-priority graphs (R90). Of several that hold equally many, it is the command's (DESIGN CHOICE, log entry 36). -/
def execMidtaskPreemptTimeout (graph : Fin 8) (task : Nat) (st : StallId) (s : State) : Host.Outcome State Fault Refusal :=
  let g := graph.val
  let k := skey st
  match s.graph g, s.task g task, s.rec_ g task with
  | some gr, some ts, some r =>
    let peers := (List.range 16).map fun i => aisleOf k * 16 + i
    let most := peers.all fun j => !(s.stallRuns j) || s.lowerContexts g j ≤ s.lowerContexts g k
    if gr.hdr.midtask && gr.phase = .running && ts.st = .ready && r.onStall && ts.queue = some (hallOf k, aisleOf k % 36)
        && (r.placeStall = 31 || r.placeStall = k % 16) && s.stallRuns k && (r.placeStall ≠ 31 || most) then
      .next (s.preemptUntil r.nthreads (s.victims g k) ((s.freeContexts k).length + s.savingContexts k))
    else .next s
  | _, _, _ => .next s

end Sys2Proof.Machine
end

