-- ==== Sys2Proof/Machine/Graphs.lean ====
section
/-! DEFINITION. Graph images (R43 to R50), dependence (R54 to R57), admission (R68 to R71, R78) and CLOSE (R75, R80). -/

namespace Sys2Proof.Machine

/-! ### The image -/

/-- The header of a graph (Table 2.1). -/
def GraphHdr.parse (b : List Byte) : GraphHdr where
  pipe := leAt b 6 2 % 2 = 1
  syncMaster := leAt b 6 2 / 2 % 2 = 1
  midtask := leAt b 6 2 / 4 % 2 = 1
  taskCount := leAt b 8 4
  rootCount := leAt b 0xC 4
  recordsPtr := BitVec.ofNat 64 (leAt b 0x10 8)
  rootsPtr := BitVec.ofNat 64 (leAt b 0x18 8)
  job := BitVec.ofNat 8 (leAt b 0x20 1)
  gprio := BitVec.ofNat 2 (leAt b 0x21 1)
  mbCount := leAt b 0x22 2
  stages := leAt b 0x24 1
  stageIndex := leAt b 0x25 1
  fwdPerMb := leAt b 0x28 4
  bwdPerMb := leAt b 0x2C 4
  updateTask := BitVec.ofNat 32 (leAt b 0x30 4)
  stepFirst := BitVec.ofNat 32 (leAt b 0x34 4)
  stepCount := leAt b 0x38 4
  syncMode := BitVec.ofNat 2 (leAt b 0x3C 1)
  holdMs := BitVec.ofNat 16 (leAt b 0x3E 2)
  cookie := BitVec.ofNat 64 (leAt b 0x40 8)

/-- Whether a header is refused (R43, R44, R51). -/
def hdrBad (b : List Byte) (job : Byte) : Bool :=
  let h := GraphHdr.parse b
  leAt b 0 4 ≠ 0x4A354731 || leAt b 4 2 ≠ 1 || leAt b 6 2 ≥ 8 || h.taskCount = 0 || h.taskCount > 16777216
    || h.rootCount = 0 || h.rootCount > h.taskCount || h.recordsPtr.toNat % 128 ≠ 0 || h.rootsPtr.toNat % 4 ≠ 0
    || h.job ≠ job || leAt b 0x21 1 ≥ 4 || h.mbCount = 0 || h.mbCount > 4096 || h.stages = 0 || h.stages > 16
    || h.stageIndex ≥ h.stages || leAt b 0x26 2 ≠ 0
    || (if h.pipe then h.fwdPerMb = 0 || h.fwdPerMb ≥ 2 ^ 24 || h.bwdPerMb ≥ 2 ^ 24 else h.fwdPerMb ≠ 0 || h.bwdPerMb ≠ 0)
    || (h.updateTask ≠ 0xFFFFFFFF && h.updateTask.toNat ≥ h.taskCount)
    || leAt b 0x3C 1 ≥ 4 || leAt b 0x3D 1 ≠ 0 || (h.holdMs.toNat > 1000 && h.holdMs ≠ 0xFFFF)
    || (b.drop 0x48).take 56 ≠ List.replicate 56 0

/-- A task record but for its successor list (Table 2.2). -/
def TaskRec.parse (b : List Byte) : TaskRec where
  kind := BitVec.ofNat 8 (leAt b 0 1)
  ctrl := BitVec.ofNat 8 (leAt b 1 1)
  threads := BitVec.ofNat 16 (leAt b 2 2)
  pred := BitVec.ofNat 32 (leAt b 4 4)
  tags := BitVec.ofNat 64 (leAt b 8 8)
  place := BitVec.ofNat 32 (leAt b 0x10 4)
  succCount := BitVec.ofNat 32 (leAt b 0x14 4)
  succPtr := BitVec.ofNat 64 (leAt b 0x18 8)
  body := BitVec.ofNat 64 (leAt b 0x20 8)
  arg := BitVec.ofNat 64 (leAt b 0x28 8)
  gateIndex := BitVec.ofNat 16 (leAt b 0x30 2)
  gatePart := BitVec.ofNat 16 (leAt b 0x32 2)
  rsv0 := BitVec.ofNat 32 (leAt b 0x34 4)
  gateTarget := BitVec.ofNat 64 (leAt b 0x38 8)
  drefs := (List.range 6).map fun i => BitVec.ofNat 64 (leAt b (0x40 + 8 * i) 8)
  doneIndex := BitVec.ofNat 16 (leAt b 0x70 2)
  donePart := BitVec.ofNat 16 (leAt b 0x72 2)
  rsv1 := BitVec.ofNat 96 (leAt b 0x74 12)

/-- Priority classes a kind allows (Table 2.3). -/
def classesOf (kind : Byte) : List Nat :=
  if kind = 1 then [0, 1, 3] else if kind = 2 ∨ kind = 6 then [0, 1, 2, 3] else if kind = 3 then [2]
  else if kind = 4 then [0, 3] else if kind = 5 then [0, 1] else if kind = 7 then [3] else []

/-- Whether a record is invalid (R43, R49, R61); a move task's BODY that is not the zero of Table 2.3 counts among its invalid fields
(DEDUCED, log entry 35). -/
def recBad (h : GraphHdr) (r : TaskRec) : Bool :=
  let m := (tagMb r.tags).toNat
  !((classesOf r.kind).contains r.prio)
    || r.ctrl.toNat ≥ 16 || r.threads.toNat ≥ 1024 || r.pred.toNat ≥ 2 ^ 24 || bits r.tags 60 4 ≠ 0 || r.place.toNat ≥ 2 ^ 14
    || r.succCount.toNat ≥ 2 ^ 24 || bits r.gatePart 13 2 ≠ 0 || r.rsv0 ≠ 0 || bits r.donePart 13 2 ≠ 0 || r.rsv1 ≠ 0
    || tagJob r.tags ≠ h.job || (!r.onStall && r.threads ≠ 0)
    || ((r.phase = 1 || r.phase = 2) && r.prio ≠ 1) || (r.phase = 3 && r.prio ≠ 3) || (r.phase ≠ 0 && m = 0xFFFF)
    || (m ≠ 0xFFFF && m ≥ h.mbCount) || (4 ≤ r.placeHall && r.placeHall ≤ 6)
    || ((r.kind = 2 || r.kind = 3 || r.kind = 6) && r.place ≠ 0x3FFF) || (r.onHall && r.placeHall = 7)
    || (r.placeAisle > 35 && r.placeAisle ≠ 63) || (r.placeStall > 15 && r.placeStall ≠ 31)
    || (r.succCount = 0 && r.succPtr ≠ 0) || (r.succCount ≠ 0 && r.succPtr.toNat % 4 ≠ 0) || (r.kind = 2 && r.body ≠ 0)

/-- Task indices of a root or successor list (R45). -/
def listIdx (n : Nat) (b : List Byte) : List Nat := (List.range n).map fun i => leAt b (4 * i) 3

/-- The outcome of reading one record with its successor list. -/
inductive RecRes where
  | ok (r : TaskRec)
  | invalid (t : Nat)
  | stop (a : Acc (List Byte))
  deriving DecidableEq, Repr

/-- Read record `i` and its successor list (R43, R45, R49). -/
def State.loadRec (s : State) (h : GraphHdr) (i : Nat) : RecRes :=
  match s.hubRead h.job (h.recordsPtr.toNat + 128 * i) 128 with
  | .ok b =>
    let t := TaskRec.parse b
    if recBad h t then .invalid i
    else match s.hubRead h.job t.succPtr.toNat (4 * t.succCount.toNat) with
      | .ok l =>
        let succs := listIdx t.succCount.toNat l
        (match succs.find? fun x => x ≥ h.taskCount with
        | some x => .invalid x
        | none => .ok { t with succs := succs })
      | e => .stop e
  | e => .stop e

/-- A task whose record a pending fault holds back: its kind, its counts and its successors are not known yet. It counts as a
PHASE 3 task, so that no update task overtakes it (R66, Table 14.5). -/
def unreadRec : TaskRec :=
  { kind := 0, ctrl := 12, threads := 0, pred := 0x1000000, tags := 0xFFFF0000000000, place := 0, succCount := 0, succPtr := 0, body := 0,
    arg := 0, gateIndex := 0, gatePart := 0, rsv0 := 0, gateTarget := 0, drefs := [], doneIndex := 0, donePart := 0, rsv1 := 0 }

/-- A translation fault that a dispatcher's read met: the task, the kind, the address and the governed range. -/
structure ReadHole where
  task : Nat
  kind : Nat
  va : Nat
  lo : Nat
  size : Nat
  deriving DecidableEq, Repr

/-- The outcome of reading a graph's image. -/
inductive LoadRes where
  | ok (recs : List TaskRec) (roots : List Nat) (holes : List ReadHole)
  | invalid (t : Nat)
  /-- The read of task `t` stopped. -/ | stop (t : Nat) (a : Acc (List Byte))
  deriving DecidableEq, Repr

/-- Read the records, each with its successor list; a translation fault holds that task alone (Table 14.5). -/
def State.loadRecs (s : State) (h : GraphHdr) : List Nat → List TaskRec → List ReadHole → List Nat → LoadRes
  | [], acc, holes, roots => .ok acc.reverse roots holes.reverse
  | i :: r, acc, holes, roots =>
    match s.loadRec h i with
    | .ok t => s.loadRecs h r (t :: acc) holes roots
    | .invalid x => .invalid x
    | .stop (.fault k va lo size) => s.loadRecs h r (unreadRec :: acc) (⟨i, k, va, lo, size⟩ :: holes) roots
    | .stop a => .stop i a

/-- Read a graph's root list and records (R43, R45, R49). -/
def State.loadImage (s : State) (h : GraphHdr) : LoadRes :=
  match s.hubRead h.job h.rootsPtr.toNat (4 * h.rootCount) with
  | .ok b =>
    let roots := (listIdx h.rootCount b).eraseDups
    (match roots.find? fun x => x ≥ h.taskCount with
    | some x => .invalid x
    | none => s.loadRecs h (List.range h.taskCount) [] [] roots)
  | e => .stop 0 e

/-! ### Dependence (R54 to R57, R75) -/

/-- Decrement a successor's count once (R55, R56). -/
def State.decPred (s : State) (g t : Nat) : State :=
  match s.task g t with
  | none => s
  | some ts =>
    if ts.preds = 0 then s.failGraph g 0x23 (BitVec.ofNat 64 t)
    else
      let s := s.modTask g t fun x => { x with preds := ts.preds - 1 }
      if ts.preds = 1 && ts.st = .waitPred then s.predsDone g t else s

/-- A task's successors see it completed or skipped (R54, R75). -/
def State.releaseSuccs (s : State) (g t : Nat) : State :=
  ((s.rec_ g t).map (·.succs)).getD [] |>.foldl (fun (s : State) (u : Nat) => s.decPred g u) s

/-- The update task moves on once no PHASE 3 task is open (R66). -/
def State.checkUpdate (s : State) (g : Nat) : State :=
  match s.graph g with
  | none => s
  | some gr =>
    let u := gr.hdr.updateTask.toNat
    if !gr.phase3Open && (gr.tasks[u]?).any (fun ts => ts.st = .waitUpdate) then s.pastGate g u else s

/-! ### Admission (R68, R69, R78) -/

/-- Whether R68 lets a pipelined graph admit its next micro-batch (R68, R69). -/
def Graph.mayAdmit (gr : Graph) : Bool :=
  gr.hdr.pipe && gr.phase = .running && gr.admitted < gr.hdr.mbCount
    && (gr.hdr.bwdPerMb = 0 || gr.admitted < min (gr.hdr.stages - gr.hdr.stageIndex) gr.hdr.mbCount + gr.bwdDone)
    && gr.admitAllowed gr.admitted

/-- Tasks of micro-batch `m` that wait for its admission. -/
def Graph.waitingFor (gr : Graph) (m : Nat) : List Nat :=
  (List.range gr.tasks.length).filter fun t => (gr.tasks[t]?).any fun ts => ts.st = .waitAdmit && (tagMb ts.tags).toNat = m

/-- Admit micro-batches in ascending order while R68 allows (R68, R71, R78). -/
def admitLoop (g : Nat) : Nat → State → State
  | 0, s => s
  | n + 1, s =>
    match s.graph g with
    | none => s
    | some gr =>
      if !gr.mayAdmit || s.admitHeld gr.hdr.job then s
      else
        let m := gr.admitted
        let s := s.stampMb g m
        admitLoop g n ((gr.waitingFor m).foldl (fun (s : State) (t : Nat) => s.pastGate g t) s)

/-- Admit what may be admitted without a task that asks for it. -/
def State.tryAdmit (s : State) (g : Nat) : State :=
  match s.graph g with
  | some gr => if gr.hdr.pipe then admitLoop g (gr.hdr.mbCount + 1) s else admitEmpty g gr.hdr.mbCount s
  | none => s

/-- What waited for a hold of admissions, or for ADMIT, goes on. -/
def State.readmit (s : State) (g : Nat) : State :=
  match s.graph g with
  | none => s
  | some gr =>
    let s := s.tryAdmit g
    let held := (List.range gr.tasks.length).filter fun t => (gr.tasks[t]?).any fun ts =>
      ts.st = .waitAdmit && (!gr.hdr.pipe || tagMb ts.tags = 0xFFFF)
    held.foldl (fun (s : State) (t : Nat) => s.pastGate g t) s

/-! ### CLOSE (R75, R80) -/

/-- Skip tasks that have not started: they leave their queues and watches, and release their successors (R75). -/
def State.skipTasks (s : State) (g : Nat) (p : Nat → TaskSt → Bool) : State :=
  match s.graph g with
  | none => s
  | some gr =>
    let skip := (List.range gr.tasks.length).filter fun t => (gr.tasks[t]?).any fun ts =>
      p t ts && ts.open_ && ts.st ≠ .running && (match ts.st with | .saved _ => false | _ => true)
    let s := skip.foldl (fun (s : State) (t : Nat) => (s.dropGate g t).modTask g t fun x => { x with st := .skipped, queue := none }) s
    (skip.foldl (fun (s : State) (t : Nat) => s.releaseSuccs g t) s).checkUpdate g

/-- Skip the tasks of micro-batches from C on (R80). -/
def State.closeStep (s : State) (g c : Nat) : State :=
  (s.modGraph g fun x => { x with closeC := some c }).skipTasks g fun _ ts =>
    (tagMb ts.tags).toNat ≠ 0xFFFF && (tagMb ts.tags).toNat ≥ c

/-! ### Handles -/

/-- The lowest free handle (R47). -/
def State.freeHandle (s : State) : Option Nat := [0, 1, 2, 3, 4, 5, 6, 7].find? fun g => (s.graph g).isNone

end Sys2Proof.Machine
end

