-- ==== Sys2Proof/Machine/Place.lean ====
section
/-! DEFINITION. Placement (R59 to R64, R72, R89, R505) and the start of a task. -/

namespace Sys2Proof.Machine

/-- A task as placement sees it. -/
structure Cand where
  g : Nat
  t : Nat
  gr : Graph
  ts : TaskSt
  r : TaskRec
  cls : Nat

/-- The order of placement: class, graph priority, restored or re-dispatched tasks, age (R62, R425). -/
def Cand.before (x y : Cand) : Bool :=
  let a := [x.cls, x.gr.hdr.gprio.toNat, if x.ts.ahead then 0 else 1, x.ts.stamp]
  let b := [y.cls, y.gr.hdr.gprio.toNat, if y.ts.ahead then 0 else 1, y.ts.stamp]
  a < b

/-- The class a dispatcher places a task in: its own, and 2 for a check task while the hall's check ring is more than three
quarters full (R62, R233). -/
def State.placeClass (s : State) (r : TaskRec) : Nat :=
  if r.kind = 0x07 && 4 * s.xchk.usedIn r.placeHall > 3 * s.xchk.entries then 2 else r.prio

/-- The ready tasks of one dispatcher's queue whose layout epoch is current (R62, R72). -/
def State.readyIn (s : State) (q : Nat × Nat) : List Cand :=
  s.residents.flatMap fun p =>
    if p.2.phase ≠ .running || p.2.loading.isSome then []
    else ((List.range p.2.tasks.length).zip (p.2.tasks.zip p.2.recs)).filterMap fun e =>
      if e.2.1.st = .ready && e.2.1.queue = some q && tagLayout e.2.1.tags = s.layoutEpoch.get 0 p.2.hdr.job.toNat then
        some { g := p.1, t := e.1, gr := p.2, ts := e.2.1, r := e.2.2, cls := s.placeClass e.2.2 }
      else none

/-- Stalls of its aisle that a task may use: those that issue. -/
def State.stallsOf (s : State) (c : Cand) : List Nat :=
  match c.ts.queue with
  | some (h, a) =>
    let all := if c.r.placeStall = 31 then List.range 16 else [c.r.placeStall]
    (all.map fun i => aisleKey h a * 16 + i).filter s.stallRuns
  | none => []

/-- Stalls with room for every thread of a task (R60). -/
def State.roomOn (s : State) (c : Cand) : List Nat := (s.stallsOf c).filter fun k => c.r.nthreads ≤ (s.freeContexts k).length

/-- Running tasks of a kind in a hall, or on the hub. -/
def State.runningOf (s : State) (kind : Byte) (hall : Nat) : Nat :=
  s.residents.foldl (fun n p => n + ((p.2.recs.zip p.2.tasks).filter fun e =>
    e.1.kind = kind && e.1.placeHall = hall && e.2.st = .running).length) 0

/-- The registered image at an address (R282). -/
def State.imageAt (s : State) (job : Byte) (va : Nat) : Option SolveImage :=
  s.solver.images.find? fun i => i.job = job && i.va = va

/-- The halls whose SLV running solve tasks engage (R284). -/
def State.slvsEngaged (s : State) : BitVec 4 :=
  s.residents.foldl (fun m p => (p.2.recs.zip p.2.tasks).foldl (fun (m : BitVec 4) e =>
    if e.1.kind = 5 && e.2.st = .running then
      m ||| ((s.imageAt p.2.hdr.job e.1.body.toNat).map (·.hallMask)).getD 0
    else m) m) 0

/-- The halls whose SLV a solve task engages (R284). -/
def State.slvMask (s : State) (c : Cand) : BitVec 4 := ((s.imageAt c.gr.hdr.job c.r.body.toNat).map (·.hallMask)).getD 0

/-- Whether the SLVs a solve task engages are free (R284). -/
def State.slvsFree (s : State) (c : Cand) : Bool := c.r.kind ≠ 5 || (s.slvMask c &&& s.slvsEngaged) = 0

/-- Whether the unit that executes a task has room for it (R60, R249, R284, R470). -/
def State.hasRoom (s : State) (c : Cand) : Bool :=
  if c.r.onStall then !(s.roomOn c).isEmpty
  else if c.r.onHall then s.hallRuns c.r.placeHall && s.runningOf c.r.kind c.r.placeHall = 0 && s.slvsFree c
  else if c.r.kind = 3 then s.runningOf 3 7 < 16
  else true

/-- Whether task `u` could use the unit that task `c` would take: its stall `k`, or its kind's unit. -/
def State.couldUse (s : State) (u c : Cand) (k : Option Nat) : Bool :=
  match k with
  | some k => u.r.onStall && (s.stallsOf u).contains k
  | none => u.r.kind = c.r.kind

/-- The other ready tasks of a task's dispatcher. -/
def State.rivals (s : State) (c : Cand) : List Cand :=
  match c.ts.queue with
  | none => []
  | some q => (s.readyIn q).filter fun u => !(u.g = c.g && u.t = c.t)

/-- Whether an SLV that a solve task would engage is kept from it: a higher graph's ready solve of any hall, which does not fit, engages
it (R89, R284). -/
def State.slvKept (s : State) (c : Cand) : Bool :=
  c.r.kind = 5 && [0, 1, 2, 3].any fun h => (s.readyIn (h, 36)).any fun u =>
    u.r.kind = 5 && u.gr.hdr.gprio.ult c.gr.hdr.gprio && !(s.hasRoom u) && (s.slvMask u &&& s.slvMask c) ≠ 0

/-- Whether a unit is kept from a task: a higher graph's ready task that does not fit could use it (R89), or the task is of
class 3 and a ready task of classes 0 to 2 fits on that stall (R63). -/
def State.kept (s : State) (c : Cand) (k : Option Nat) : Bool :=
  (s.rivals c).any fun u =>
    (u.gr.hdr.gprio.ult c.gr.hdr.gprio && !(s.hasRoom u) && s.couldUse u c k)
      || (c.cls = 3 && u.cls < 3 && (match k with | some k => u.r.onStall && (s.roomOn u).contains k | none => false))

/-- The stall a task goes to: of those with room that are not kept from it, the one with the most free contexts (R59, R60). -/
def State.stallFor (s : State) (c : Cand) : Option Nat :=
  leastBy (fun k => 1024 - (s.freeContexts k).length) ((s.roomOn c).filter fun k => !(s.kept c (some k)))

/-- Whether a task can be placed now, but for the order of placement. -/
def State.fits (s : State) (c : Cand) : Bool :=
  if c.r.onStall then (s.stallFor c).isSome else s.hasRoom c && !(s.kept c none) && !(s.slvKept c)

/-- Whether another ready task of the dispatcher, which can be placed, goes first (R62). -/
def State.blocked (s : State) (c : Cand) : Bool := c.ts.queue.isNone || (s.rivals c).any fun u => s.fits u && u.before c

/-- Whether a saved task of the hall, of the same class or ahead of it, can be restored on the stall (R425). -/
def State.restoreFirst (s : State) (c : Cand) (k : Nat) : Bool :=
  s.residents.any fun p => (p.2.tasks.zip p.2.recs).any fun e => match e.1.saved with
    | some r => s.canRestore p.1 e.1 r k && s.placeClass e.2 ≤ c.cls
    | none => false

/-- Whether a task's weight epoch lets it be placed (R505). -/
def State.weightOk (s : State) (job : Byte) (tags : W64) : Bool :=
  let e := tagWeight tags
  e = 0xFFFF || e = s.epochOf job || (s.weights.held.get [] job.toNat).contains e

/-- The descriptors at DREF0 to DREF5; none for a null DREF (R64). -/
def State.readDrefs (s : State) (job : Byte) : List W64 → Acc (List (Option W512))
  | [] => .ok []
  | v :: r =>
    if v = 0 then accMap (fun l => none :: l) (s.readDrefs job r)
    else match s.hubRead job v.toNat 64 with
      | .ok b => accMap (fun l => some (BitVec.ofNat 512 (ofLe b)) :: l) (s.readDrefs job r)
      | .fault k va lo size => .fault k va lo size
      | .err a p => .err a p
      | .remote va pa len => .remote va pa len

/-- A thread of a task at its start (R64, R95). -/
def startThread (g t i : Nat) (r : TaskRec) (ds : List (Option W512)) : Thread :=
  let th : Thread := { graph := g, task := t, idx := i, pc := r.body, prv := (if r.kind = 0x07 then ThreadOrigin.check else .compute).privileged }
  let th := { th with x := (th.x.set 0 0 (BitVec.ofNat 64 i)).set 0 1 r.arg }
  ((List.range 6).zip ds).foldl (fun (th : Thread) (p : Nat × Option W512) => th.setD (BitVec.ofNat 4 p.1) p.2) th

/-- Put the threads of a task into contexts. -/
def State.startThreads (s : State) (g t : Nat) (r : TaskRec) (ds : List (Option W512)) : List (Nat × Nat) → State
  | [] => s
  | (i, k) :: rest => (s.setThread k (some (startThread g t i r ds))).startThreads g t r ds rest

/-- A compute or check task starts on a stall; a descriptor whose seal fails traps its first thread (R64, R143). -/
def State.startOnStall (s : State) (c : Cand) (k : Nat) (ds : List (Option W512)) : State :=
  let cs := (s.freeContexts k).take c.r.nthreads
  let s := s.startThreads c.g c.t c.r ds ((List.range c.r.nthreads).zip cs)
  let s := s.modTask c.g c.t fun x => { x with st := .running, place := some k, placed := s.clock, queue := none, started := true }
  let s := (((s.tick.unpark (hallOf k)).updateLend (hallOf k))).traceStall k 1 c.t
  match (List.range 6).find? fun i => (ds.getD i none).any fun w => !(sealOk s.startNo w) with
  | some i => s.trap (cs.headD 0) .seal_ (BitVec.ofNat 64 i) 0
  | none => s

/-- A task without threads starts on its unit (Table 2.3): the Porter takes a move, MGT answers a host signal at once, and
the others wait for their probe (R413). -/
def State.startOnUnit (s : State) (c : Cand) (ds : List (Option W512)) : State :=
  let s := s.modTask c.g c.t fun x => { x with st := .running, placed := s.clock, queue := none, started := true, probed := false }
  let s := if c.r.onHall then s.tick.traceEvent c.r.placeHall 1 0 c.t else s.tick
  if c.r.kind = 2 then s.takeMove c.g c.t c.r.prio c.gr.hdr.job (ds.getD 0 none) (ds.getD 1 none)
  else if c.r.kind = 6 then (s.graphEvent c.g 4 0 c.r.body).modTask c.g c.t fun x => { x with unitDone := true }
  else s

/-- The dispatcher reads the task's descriptors, through its hall's XLT or the hub's, and starts it, or holds it on the read
that stopped (R64, R401, Table 14.5). -/
def State.place (s : State) (c : Cand) (k : Option Nat) : State :=
  let job := c.gr.hdr.job
  let xlt := (c.ts.queue.map (·.1)).getD 4
  let wanted := if c.r.onStall then c.r.drefs else if c.r.kind = 2 then c.r.drefs.take 2 else []
  match s.readDrefs job wanted with
  | .ok ds =>
    let s := if wanted.isEmpty then s else s.dropHub job
    (match k with
    | some k => s.startOnStall c k ds
    | none => s.startOnUnit c ds)
  | .fault kind va lo size =>
    let (id, s) := s.raise xlt 2 job kind va lo size (BitVec.ofNat 64 c.t)
    s.modTask c.g c.t fun x => { x with st := .faultHeld id }
  | .err a p =>
    (((s.dropHub job).accessFault xlt p a c.ts.tags).modTask c.g c.t fun x => { x with st := .aborted, queue := none }).failGraph c.g 0x05
      (BitVec.ofNat 64 c.t)
  | .remote va pa len => s.hubFetch job va pa len

/-- TASK_PLACE: the dispatcher that holds a ready task places it, when it goes first and its unit has the room (R59 to
R64, R72, R89, R505). -/
def execTaskPlace (graph : Fin 8) (task : Nat) (s : State) : Host.Outcome State Fault Refusal :=
  match s.graph graph.val, s.task graph.val task, s.rec_ graph.val task with
  | some gr, some ts, some r =>
    let c : Cand := { g := graph.val, t := task, gr := gr, ts := ts, r := r, cls := s.placeClass r }
    let cur := s.layoutEpoch.get 0 gr.hdr.job.toNat
    if ts.st ≠ .ready || gr.phase ≠ .running || gr.loading.isSome || !s.dispatchOn then .next s
    else if epochNewer cur (tagLayout ts.tags) then .next (s.dropStale c.g task ts.tags)
    else if tagLayout ts.tags ≠ cur then .next (s.modTask c.g task fun x => { x with st := .waitLayout })
    else if !(s.weightOk gr.hdr.job ts.tags) then .next (s.dropStale c.g task ts.tags)
    else if r.onStall then
      match s.stallFor c with
      | some k => if s.blocked c || s.restoreFirst c k then .next s else .next (s.place c (some k))
      | none => .next s
    else if !(s.fits c) || s.blocked c then .next s
    else .next (s.place c none)
  | _, _, _ => .next s

end Sys2Proof.Machine
end

