-- ==== Sys2Proof/Machine/TillNum.lean ====
section
/-! DEFINITION. The arithmetic of the Till's pipelines (R224 to R229, R311 to R315) over one state unit. -/

namespace Sys2Proof.Machine

/-! ### Single operations (R311) -/

def f32div (a b : F32) : F32 := f32 ((val32 a).div (val32 b))
def f32sqrt (a : F32) : F32 := f32 (val32 a).sqrt
/-- Whether a value is finite. -/
def f32fin (a : F32) : Bool := match val32 a with | .fin _ _ _ => true | _ => false
/-- Whether `a < b`; false where either is NaN. -/
def f32lt (a b : F32) : Bool := (val32 a).lt (val32 b)

/-- A power by squaring, with 256 bits and a sticky bit (DEDUCED, log entry 16): mantissa and exponent. -/
def powBits : Nat → Nat × Int → Nat → Nat × Int → Nat × Int
  | 0, _, _, acc => acc
  | fuel + 1, (m, e), n, (am, ae) =>
    if n = 0 then (am, ae)
    else
      let cut := fun (x : Nat × Int) =>
        let d := bitLen x.1 - 256
        if d = 0 then x
        else ((x.1 / 2 ^ d / 2 * 2 + (if x.1 % 2 ^ (d + 1) = 0 then 0 else 1)), x.2 + d)
      let acc := if n % 2 = 1 then cut (am * m, ae + e) else (am, ae)
      powBits fuel (cut (m * m, 2 * e)) (n / 2) acc

/-- `c := rne32(1 − β^T)`, evaluated in binary64 and rounded once (R311, DEDUCED, log entry 16). -/
def biasCorr (beta : F32) (t : Nat) : F32 :=
  match val32 beta with
  | .fin _ m e =>
    let p := powBits 40 (m, e) t (1, 0)
    let r := fmtF64.decode (fmtF64.encode (.fin false p.1 p.2))
    f32 (fmtF64.decode (fmtF64.encode ((FVal.fin false 1 0).add r.neg)))
  | _ => f32nan

/-! ### Stochastic rounding (R228) -/

/-- Round to a working format with 24 random bits: the pattern, and whether it saturated. -/
def srRound (f : FFmt) (u : Nat) : FVal → Nat × Bool
  | .fin neg m e =>
    if m = 0 then (f.encode (.fin neg 0 0), false)
    else if !(magLe m e f.maxFin.1 f.maxFin.2) then (f.maxPat neg, true)
    else
      let q : Int := max f.emin (e + (bitLen m : Int) - (f.mbits + 1 : Nat))
      if q ≤ e then (f.encode (.fin neg m e), false)
      else
        let d := (q - e).toNat
        let lo := m / 2 ^ d
        let rest := m % 2 ^ d
        if rest = 0 then (f.encode (.fin neg m e), false)
        else (f.encode (.fin neg (if rest * 2 ^ 24 > u * 2 ^ d then lo + 1 else lo) q), false)
  | .inf neg => if f.special = 0 then (f.infty neg, false) else (f.maxPat neg, true)
  | .nan => (f.qnan, false)

/-- The random bits of an element of a group (R229). -/
def srBits (seed : W64) (index : Nat) (step srid : W32) : Nat :=
  (philox (seed ^^^ 0xFFF0) (philoxCtr (BitVec.ofNat 48 index) step srid 0xFFF0)).toNat / 256

/-! ### The unit -/

/-- Elements of a unit (Table 10.2). -/
def TillGroup.cap (g : TillGroup) : Nat := if g.classM then 4608 else 21504
/-- Units of a group's area (R299). -/
def TillGroup.units (g : TillGroup) : Nat := cdiv g.nelem g.cap
/-- Elements in use in unit `u`. -/
def TillGroup.nvalid (g : TillGroup) (u : Nat) : Nat := min g.cap (g.nelem - u * g.cap)

/-- An update command (Table 10.6). -/
structure TillCmd where
  opc : Nat
  dfmt : Nat
  gid : Nat
  step : W32
  tags : W64
  t : Nat
  lr : F32
  gptr : Nat
  dptr : Nat
  doneIndex : W16
  donePart : W16
  rsvZero : Bool

/-- The fields of a command. -/
def TillCmd.parse (b : List Byte) : TillCmd :=
  { opc := leAt b 0 1, dfmt := leAt b 1 1, gid := leAt b 2 2, step := BitVec.ofNat 32 (leAt b 4 4), tags := BitVec.ofNat 64 (leAt b 8 8),
    t := leAt b 0x10 4, lr := leAt b 0x14 4, gptr := leAt b 0x18 8, dptr := leAt b 0x20 8, doneIndex := BitVec.ofNat 16 (leAt b 0x28 2),
    donePart := BitVec.ofNat 16 (leAt b 0x2A 2), rsvZero := leAt b 0x2C 84 = 0 }

/-- Elements of a packed array. -/
def arr : Nat → Nat → List Byte → List Nat
  | 0, _, _ => []
  | n + 1, w, bs => ofLe (bs.take w) :: arr n w (bs.drop w)

/-- An array back into bytes. -/
def unarr (w : Nat) (l : List Nat) : List Byte := l.flatMap fun x => leBytes w x

/-- The arrays of one element of class M: master, moments, working bits. -/
structure ElemM where
  w : F32
  m1 : F32
  m2 : F32
  wk : Nat
  deriving DecidableEq, Repr

/-- What the first loop of R312 forms for an element: m1n, m2n, a; none where an input is not finite or the element is
masked. -/
def momentM (g : TillGroup) (c1 c2 : F32) (x : ElemM) (gr d : F32) : Option (F32 × F32 × F32) :=
  if f32fin gr && f32fin d then
    let b1 := g.beta1.toNat
    let b2 := g.beta2.toNat
    let m1 := f32fma b1 x.m1 (f32mul (f32sub f32one b1) gr)
    let m2 := f32fma b2 x.m2 (f32mul (f32mul (f32sub f32one b2) gr) gr)
    let a := f32div (f32div m1 c1) (f32add (f32sqrt (f32div m2 c2)) g.eps.toNat)
    some (m1, m2, a)
  else none

/-- A sum over a unit's elements in the fixed pairing order of R208; absent elements take no part. -/
def unitSum (l : List (Nat × F32)) (n : Nat) : F32 :=
  (reduceRow f32add ((List.range (cdiv n 128)).map fun k =>
    (l.filter fun p => p.1 / 128 = k).map fun p => (p.1 % 128, p.2))).getD 0

/-- The graft factor of a unit and whether it was set to 1 as not finite (R312). -/
def graftOf (graft : Nat) (xs : List (Nat × F32 × F32 × F32)) (n : Nat) : F32 × Bool :=
  if graft = 0 then (f32one, false)
  else
    let sa := unitSum (xs.map fun p => (p.1, let v := if graft = 1 then p.2.1 else p.2.2.1; f32mul v v)) n
    let sd := unitSum (xs.map fun p => (p.1, f32mul p.2.2.2 p.2.2.2)) n
    if f32lt 0 sd then
      let q := f32sqrt (f32div sa sd)
      if f32fin q then (q, false) else (f32one, true)
    else (f32one, false)

/-- The working bits of a master value: BF16, or E4M3 under its block's scale byte (R228, R313). -/
def workOf (g : TillGroup) (scale : Nat) (u : Nat) (m : F32) : Nat × Bool :=
  if g.mxfp8 then
    if scale = 0xFF then (0, false) else srRound fmtE4M3 u ((val32 m).scale (127 - (scale : Int)))
  else srRound fmtBF16 u (val32 m)

/-- Add counts. -/
def TillCounts.add (a b : TillCounts) : TillCounts :=
  { nonfinite := a.nonfinite + b.nonfinite, absurd := a.absurd + b.absurd, clamped := a.clamped + b.clamped,
    srSat := a.srSat + b.srSat, remClip := a.remClip + b.remClip, graftSkip := a.graftSkip + b.graftSkip,
    updated := a.updated + b.updated }

/-- One element's update of class M, second loop of R312: `u` is its random value. -/
def updateM (g : TillGroup) (k s lr : F32) (scale u : Nat) (x : ElemM) (d : F32) (mo : Option (F32 × F32 × F32)) :
    ElemM × TillCounts :=
  let step := f32mul lr (f32mul s d)
  let mn := f32sub (f32sub x.w (f32mul k x.w)) step
  match mo with
  | none => (x, { nonfinite := 1 })
  | some (m1, m2, a) =>
    if !(f32fin m1 && f32fin m2 && f32fin a && f32fin step && f32fin mn) then (x, { nonfinite := 1 })
    else if f32lt 0 g.ureject.toNat && f32lt g.ureject.toNat (f32abs step) then (x, { absurd := 1 })
    else
      let below := f32lt mn g.lo.toNat
      let mn := if below then g.lo.toNat else mn
      let above := f32lt g.hi.toNat mn
      let mn := if above then g.hi.toNat else mn
      let (wk, sat) := workOf g scale u mn
      ({ w := mn, m1 := m1, m2 := m2, wk := wk },
       { clamped := (if below then 1 else 0) + (if above then 1 else 0), srSat := if sat then 1 else 0, updated := 1 })

/-- ulp exponent of a BF16 pattern (R224). -/
def ulpExp (w : Nat) : Int := let b := w / 128 % 256; if b ≥ 1 then (b : Int) - 134 else -133

/-- Round an exact value to an integer, ties to even. -/
def rneInt (v : FVal) : Int :=
  match v with
  | .fin neg m e => signed neg (rneAt m e 0)
  | _ => 0

/-- The nearest BF16 inside a bound: not above it for HI, not below it for LO (DEDUCED, log entry 17). -/
def bf16Inside (upper : Bool) (b : W32) : Nat :=
  match val32 b.toNat with
  | .fin neg m e =>
    let toward := upper != neg       -- round the magnitude down
    let q : Int := max fmtBF16.emin (e + (bitLen m : Int) - 8)
    if m = 0 ∨ q ≤ e then fmtBF16.encode (.fin neg m e)
    else
      let d := (q - e).toNat
      let n := if toward then m / 2 ^ d else (m + 2 ^ d - 1) / 2 ^ d
      fmtBF16.encode (.fin neg n q)
  | _ => 0

/-- One element's update of class W (R225, R226, R314): working pattern, remainder, counts. -/
def updateW (g : TillGroup) (k lr : F32) (w : Nat) (r : Int) (d : F32) : Nat × Int × TillCounts :=
  if !(f32fin d) then (w, r, { nonfinite := 1 })
  else
    let x := bf16Widen w
    let sgn : F32 := if f32abs d = 0 then 0 else if f32neg? d then 0xBF800000 else f32one
    let step := if g.rule = 1 then f32mul lr d else f32mul lr sgn
    let dd := f32 (val32 (f32add (f32mul k x) step)).neg
    if f32lt 0 g.ureject.toNat && f32lt g.ureject.toNat (f32abs step) then (w, r, { absurd := 1 })
    else
      let t := ((val32 x).add (val32 dd)).add ((FVal.ofInt r).scale (ulpExp w - 8))
      let w' := fmtBF16.encode t
      if !(f32fin (bf16Widen w')) then (w, r, { nonfinite := 1 })
      else if f32lt (bf16Widen w') g.lo.toNat then (bf16Inside false g.lo, 0, { clamped := 1, updated := 1 })
      else if f32lt g.hi.toNat (bf16Widen w') then (bf16Inside true g.hi, 0, { clamped := 1, updated := 1 })
      else
        let q := rneInt ((t.add (fmtBF16.decode w').neg).scale (8 - ulpExp w'))
        let c := clampI (-127) 127 q
        (w', c.1, { remClip := if c.2 then 1 else 0, updated := 1 })

/-- Offsets of the arrays of a unit (Table 10.3). -/
def unitDigest (b : List Byte) : List Byte := sha384 (b.take 12 ++ (b.drop 0x80).take 144 ++ b.drop 0x400)

/-- The unit with its STEP and DIGEST (R316, R318). -/
def stampUnit (b : List Byte) (step : W32) : List Byte :=
  let b := b.take 12 ++ leBytes 4 step.toNat ++ b.drop 16
  b.take 16 ++ unitDigest b ++ b.drop 64

/-- Count a list of results. -/
def sumCounts (l : List TillCounts) : TillCounts := l.foldl TillCounts.add {}

/-- Run a class M command over a unit (R312, R313, R315): `b` is the unit, `gs` and `ds` its G and D, `masked` the mask by
element. -/
def runUnitM (g : TillGroup) (c : TillCmd) (seed : W64) (u : Nat) (b : List Byte) (gs ds : List F32) (masked : Nat → Bool) :
    List Byte × TillCounts :=
  let n := g.nvalid u
  let ww := if g.mxfp8 then 1 else 2
  let works := arr 4608 ww (b.drop 0x400)
  let ws := arr 4608 4 (b.drop 0x2800)
  let m1s := arr 4608 4 (b.drop 0x7000)
  let m2s := arr 4608 4 (b.drop 0xB800)
  let scales := arr 144 1 (b.drop 0x80)
  let xs := (works.zip (ws.zip (m1s.zip m2s))).map fun p => ({ w := p.2.1, m1 := p.2.2.1, m2 := p.2.2.2, wk := p.1 } : ElemM)
  let rnd := fun (i : Nat) => srBits seed (g.base + u * g.cap + i) c.step g.srid
  let idx := (List.range 4608).zip xs
  let res : List (ElemM × TillCounts) × Nat :=
    if c.opc = 2 then
      (idx.map fun p =>
        if p.1 < n && !(masked p.1) then
          let r := workOf g (scales.getD (p.1 / 32) 0) (rnd p.1) p.2.w
          ({ p.2 with wk := r.1 }, { srSat := if r.2 then 1 else 0, updated := 1 })
        else (p.2, {}), 0)
    else
      let c1 := biasCorr g.beta1.toNat c.t
      let c2 := biasCorr g.beta2.toNat c.t
      let k := f32mul c.lr g.wd.toNat
      let mos := idx.map fun p => if p.1 < n && !(masked p.1) then momentM g c1 c2 p.2 (gs.getD p.1 0) (ds.getD p.1 0) else none
      let oks := ((List.range 4608).zip mos).filterMap fun p => p.2.map fun m => (p.1, m.2.2, gs.getD p.1 0, ds.getD p.1 0)
      let (s, skip) := graftOf g.graft oks n
      ((idx.zip mos).map fun p =>
        let i := p.1.1
        if i < n && !(masked i) then updateM g k s c.lr (scales.getD (i / 32) 0) (rnd i) p.1.2 (ds.getD i 0) p.2 else (p.1.2, {}),
       if skip then 1 else 0)
  let ys := res.1.map (·.1)
  let b' := b.take 0x400 ++ padTo 9216 (unarr ww (ys.map (·.wk))) ++ unarr 4 (ys.map (·.w)) ++ unarr 4 (ys.map (·.m1))
    ++ unarr 4 (ys.map (·.m2))
  (stampUnit b' c.step, (sumCounts (res.1.map (·.2))).add { graftSkip := res.2 })

/-- Run a class W command over a unit (R314). -/
def runUnitW (g : TillGroup) (c : TillCmd) (u : Nat) (b : List Byte) (ds : List F32) (masked : Nat → Bool) :
    List Byte × TillCounts :=
  let n := g.nvalid u
  let ws := arr 21504 2 (b.drop 0x400)
  let rs := arr 21504 1 (b.drop 0xAC00)
  let k := f32mul c.lr g.wd.toNat
  let res := ((List.range 21504).zip (ws.zip rs)).map fun p =>
    if p.1 < n && !(masked p.1) then
      let r := updateW g k c.lr p.2.1 (toSigned 8 p.2.2) (ds.getD p.1 0)
      (r.1, ofSigned 8 r.2.1, r.2.2)
    else (p.2.1, p.2.2, {})
  let b' := b.take 0x400 ++ unarr 2 (res.map (·.1)) ++ unarr 1 (res.map (·.2.1))
  (stampUnit b' c.step, sumCounts (res.map (·.2.2)))

end Sys2Proof.Machine
end

