-- ==== Sys2Proof/Machine/Windows.lean ====
section
/-! DEFINITION. The Bell, Till control and Tally windows (Table 1.12) as the hub's management cores and other parts reach them
(R42, R303, R351, R595). -/

namespace Sys2Proof.Machine

/-! ### The running update command as a Till sees it (Table 10.5) -/

def State.setTill (s : State) (v : Till) : State := { s with till := v }
/-- Change the running command. -/
def State.modRun (s : State) (f : TillRun → TillRun) : State := s.setTill { s.till with run := s.till.run.map f }
/-- A Till by its stack. -/
def State.tillOf (s : State) (k : Nat) : TillInfo := s.till.stacks_.get {} k
/-- Change a Till. -/
def State.modTillOf (s : State) (k : Nat) (f : TillInfo → TillInfo) : State :=
  s.setTill { s.till with stacks_ := s.till.stacks_.set {} k (f (s.tillOf k)) }
/-- The registered group with this GID. -/
def State.tillGroup (s : State) (gid : Nat) : Option TillGroup := s.till.groups.find? fun g => g.gid = gid
/-- Change a group. -/
def State.modGroup (s : State) (gid : Nat) (f : TillGroup → TillGroup) : State :=
  s.setTill { s.till with groups := s.till.groups.map fun g => if g.gid = gid then f g else g }

/-- Virtual address of unit `u`. -/
def TillGroup.unitVa (g : TillGroup) (u : Nat) : Nat := g.area + u * 65536

/-- The stack that holds a unit of this part (R301). -/
def State.unitStack (s : State) (g : TillGroup) (u : Nat) : Option Nat :=
  match s.walk g.job .read (g.unitVa u) with
  | .page pa _ _ =>
    if pa / 2 ^ 44 = s.partNo && region (pa % 2 ^ 44) = .hbm then (s.locate (pa % 2 ^ 44)).map (·.2.1) else none
  | _ => none

/-- BUSY of Table 10.5: a unit of the running command that this Till serves is neither written nor in error. -/
def State.tillBusy (s : State) (k : Nat) : Bool :=
  match s.till.run with
  | none => false
  | some r =>
    match r.gid.bind s.tillGroup with
    | none => false
    | some g => r.refused = 0 && (s.tillOf k).pipes ≠ 0
        && (List.range g.units).any fun u => !(r.done.contains u) && !(r.bad.contains u) && s.unitStack g u = some k

/-! ### Windows -/

/-- The 8 bytes that a window holds at an aligned offset (R303, R351, R595). -/
def State.windowRead (s : State) (off : Nat) : Option (List Byte) :=
  if off % 8 ≠ 0 then none
  else match region off with
    | .bell i => if s.bellLost (BitVec.ofNat 16 i) then none else some (leBytes 8 (s.counter (BitVec.ofNat 16 i)).toNat)
    | .till k =>
      let t := s.till.stacks_.get {} k
      if off % 0x10000 = 0x80 then
        let units := match s.till.run with | some r => r.perTill.get 0 k | none => 0
        some (leBytes 8 (s.till.queue.length + t.pipes * 2 ^ 7 + (if s.tillBusy k then 2 ^ 10 else 0) + (if t.pipes = 0 then 2 ^ 11 else 0) + units * 2 ^ 32))
      else if off % 0x10000 = 0x88 then some (leBytes 8 t.elems.toNat)
      else none
    | .tally => some (leBytes 8 (s.tallyAt ((off - 0xF0000200000) / 8)).toNat)
    | _ => none

/-- Whether a local offset lies in one of the three windows. -/
def inWindow (off : Nat) : Bool :=
  match region off with
  | .bell _ | .till _ | .tally => true
  | _ => false

/-- A management core's access of 8 aligned bytes of a job's space, where it meets a window: its fabric physical address
(R42; one access for the whole piece is DEDUCED, log entry 118). -/
def State.windowAt (s : State) (job : Byte) (use : Use) (va n : Nat) : Option Nat :=
  if n = 8 && va % 8 = 0 then
    match s.walk job use va with
    | .page pa _ _ => if s.member (pa / 2 ^ 44) && inWindow (pa % 2 ^ 44) then some pa else none
    | _ => none
  else none

/-- A management core reads 8 bytes of a window, of this part or of another (R303, R351, R595). -/
def State.windowPiece (s : State) (job : Byte) (va n : Nat) : Option (Acc (List Byte)) :=
  (s.windowAt job .read va n).bind fun pa =>
    if pa / 2 ^ 44 = s.partNo then (s.windowRead (pa % 2 ^ 44)).map .ok
    else match (s.hubBuf job).errs.find? fun e => e.1 = va with
      | some e => some (.err pa e.2)
      | none => some (if (s.hubBuf job).have_.contains va then .ok ((s.hubBuf job).buf.read va 8) else .remote va pa 8)

/-- A management core's write of 8 bytes to a counter of this part: a signal (R351). -/
def State.windowSignal (s : State) (job : Byte) (va : Nat) (bs : List Byte) : Option State :=
  (s.windowAt job .write va bs.length).bind fun pa =>
    match region (pa % 2 ^ 44) with
    | .bell i => if pa / 2 ^ 44 = s.partNo then s.signal (BitVec.ofNat 16 i) (BitVec.ofNat 64 (ofLe bs)) else none
    | _ => none

end Sys2Proof.Machine
end

