-- ==== Sys2Proof/Machine/TillOps.lean ====
section
/-! DEFINITION. The Tills: groups, queued commands, units and digests (chapter 10). -/

namespace Sys2Proof.Machine

/-- Whether every 64 KiB of a range is mapped writable for a job. -/
def State.rangeWritable (s : State) (job : Byte) (va n : Nat) : Bool :=
  (pieces (n / 65536 + 2) va n).all fun p => match s.walk job .write p.1 with
    | .page pa _ _ => s.member (pa / 2 ^ 44) && (pa / 2 ^ 44 ≠ s.partNo || s.mapped (pa % 2 ^ 44))
    | _ => false

/-- Whether every unit of a group lies in HBM of this part and is writable. -/
def State.areaOk (s : State) (g : TillGroup) : Bool :=
  s.rangeWritable g.job g.area (g.units * 65536) && (List.range g.units).all fun u => (s.unitStack g u).isSome

/-- Size of a group's digest table (Table 10.7). -/
def TillGroup.digestSize (g : TillGroup) : Nat := 64 + 8 * cdiv g.units 32

/-! ### Digests (R318 to R321) -/

/-- The stored unit digests of an area, in ascending order. -/
def State.unitDigests (s : State) (g : TillGroup) : Acc (List (List Byte)) :=
  (List.range g.units).foldr (fun u acc => accBind (s.hubRead g.job (g.unitVa u + 0x10) 48) fun d => accBind acc fun l => .ok (d :: l)) (.ok [])

/-- The fast digest of a block of unit digests (R319). -/
def fastDigest (l : List (List Byte)) : Nat := (l.foldl (fun n d => n + leAt d 0 8) 0) % 2 ^ 64

/-- The unit digests in blocks of 32. -/
def blocks32 : Nat → List (List Byte) → List (List (List Byte))
  | 0, _ => []
  | n + 1, l => l.take 32 :: blocks32 n (l.drop 32)

/-- The digest table (Table 10.7). -/
def digestTable (step : W32) (ds : List (List Byte)) : List Byte :=
  sha384 ds.flatten ++ leBytes 4 step.toNat ++ leBytes 4 ds.length ++ leBytes 8 0
    ++ (blocks32 (cdiv ds.length 32) ds).flatMap fun b => leBytes 8 (fastDigest b)

/-! ### The queue (R304, R305) -/

/-- Whether a command of the group is queued or running (Table 10.9). -/
def State.groupBusy (s : State) (gid : Nat) : Bool :=
  (match s.till.run with | some r => r.gid = some gid | none => false)
    || (s.till.queue ++ s.till.waiting).any fun p => leAt p.bytes 2 2 = gid

/-- A waiting write enters the queue, and what waited for it goes on (R304). -/
def State.admitPost (s : State) : State :=
  match s.till.waiting with
  | [] => s
  | p :: r =>
    if s.till.queue.length < 64 then
      let s := s.setTill { s.till with queue := s.till.queue ++ [{ p with who := .none }], waiting := r }
      match p.who with
      | .packet src rid tags => s.respond src rid 0 tags []
      | .owner (.moveWrite k _ _) => s.wake k
      | _ => s
    else s

/-- TILL_COMMAND_WRITE: a 128-byte write to a COMMAND offset queues an update command (R303, R304). -/
def execTillCommandWrite (src : Fin 8192) (stack : Fin 12) (bytes : List Byte) (s : State) : Host.Outcome State Fault Refusal :=
  if bytes.length = 128 && s.member src.val && stack.val < 12 then .next (s.tillPost { src := src.val, bytes := bytes })
  else .next s

/-- A finite FP32 field that is not below zero. -/
def fin0 (w : F32) : Bool := match val32 w with | .fin neg m _ => !neg || m = 0 | _ => false

/-- Whether a command may come from a part (R323). -/
def State.tillSource (s : State) (src : Nat) : Bool :=
  let (t, p, d, q) := partCoords src
  let (t', p', d', q') := partCoords s.partNo
  s.member src && t = t' && d = d' && (p = p' || q = q')

/-- Whether a command is invalid (R306, R323). -/
def State.tillInvalid (s : State) (src : Nat) (c : TillCmd) : Bool :=
  match s.tillGroup c.gid with
  | none => true
  | some g =>
    let up := c.opc = 1
    !(s.tillSource src) || (c.opc ≠ 1 && c.opc ≠ 2) || c.dfmt > 1 || (!up && c.dfmt ≠ 0) || c.gid ≥ 4096
      || tagMb c.tags ≠ 0xFFFF || bits c.tags 60 4 ≠ 0
      || (if up && g.classM then c.t = 0 else c.t ≠ 0) || (if up then !(fin0 c.lr) else c.lr ≠ 0)
      || (!(up && g.classM) && c.gptr ≠ 0) || (!up && c.dptr ≠ 0) || bits c.donePart 13 2 ≠ 0 || !c.rsvZero
      || (c.opc = 2 && !g.classM) || (up && !g.classM && g.rule = 0)

/-- Whether a command is stale (R307). -/
def tillStale (g : TillGroup) (c : TillCmd) : Bool :=
  tagJob c.tags ≠ g.job || tagWeight c.tags ≠ g.wepoch || tagLayout c.tags ≠ g.lepoch

/-- TILL_COMMAND_START: the hub starts the oldest queued command once the Tills have finished the previous one, unless
VBUS lies below 42 V (R305 to R307, R325). -/
def execTillCommandStart (s : State) : Host.Outcome State Fault Refusal :=
  match s.till.run, s.till.queue with
  | none, p :: r =>
    let c := TillCmd.parse p.bytes
    if s.power.supply ≠ .on || s.power.below42 || s.till.copying.contains c.gid then .next s
    else
      let s := (s.setTill { s.till with queue := r }).admitPost.finishInvalidates
      let reg := s.tillGroup c.gid
      let run : TillRun := { src := p.src, bytes := p.bytes, gid := reg.map (·.gid) }
      if s.tillInvalid p.src c then
        .next ((s.setTill { s.till with run := some { run with refused := 3 } }).partFault .address 3 0 0 c.tags (BitVec.ofNat 64 c.gid))
      else match reg with
        | none => .next s
        | some g =>
          if tillStale g c then
            .next ((((s.setTill { s.till with run := some { run with refused := 2 } }).modGroup g.gid fun g => { g with stale := g.stale + 1 }).count
              .tillStale 0 1).partFault .staleTag 3 0 0 c.tags (BitVec.ofNat 64 c.gid))
          else .next (s.setTill { s.till with run := some run })
  | _, _ => .next s

/-! ### Units (R308, R312 to R316) -/

/-- Directions of a unit. -/
def dirValues (fmt : Nat) (n : Nat) (bs : List Byte) : List F32 :=
  if fmt = 1 then arr n 4 bs else (arr n 2 bs).map bf16Widen

/-- What a pipeline computes for a unit: its new bytes and its counts. -/
def State.unitResult (s : State) (g : TillGroup) (c : TillCmd) (u : Nat) : Acc (List Byte × TillCounts) :=
  let n := g.nvalid u
  let e := u * g.cap
  let dsz := if c.dfmt = 1 then 4 else 2
  accBind (s.hubRead g.job (g.unitVa u) 65536) fun b =>
  accBind (s.maskAt g.job g.mask (g.base + e) n) fun mask =>
  accBind (if c.opc = 1 && g.classM then s.hubRead g.job (c.gptr + 2 * e) (2 * n) else .ok []) fun gb =>
  accBind (if c.opc = 1 then s.hubRead g.job (c.dptr + dsz * e) (dsz * n) else .ok []) fun db =>
    let masked := fun (i : Nat) => mask (g.base + e + i)
    let ds := dirValues c.dfmt n db
    .ok (if g.classM then runUnitM g c (s.seedOf g.job) u b ((arr n 2 gb).map bf16Widen) ds masked else runUnitW g c u b ds masked)

/-- Add a command's counts to Tally per Till. -/
def State.tallyTill (s : State) (k : Nat) (x : TillCounts) : State :=
  [(TallyName.tillNonFinite, x.nonfinite), (.tillAbsurd, x.absurd), (.tillClamp, x.clamped), (.srSaturate, x.srSat),
   (.remainderClip, x.remClip), (.graftSkip, x.graftSkip)].foldl (fun (s : State) (p : TallyName × Nat) =>
    if p.2 = 0 then s else s.count p.1 k p.2) s

/-- A unit stays unwritten, and what other parts answered for it is dropped (R308, R317, R612). -/
def State.unitBad (s : State) (stack : Nat) (g : TillGroup) (u addr : Nat) (poison : Bool) : State :=
  let s := (s.dropHub g.job).modRun fun r => { r with bad := u :: r.bad, faddr := if r.faddr = 0 then BitVec.ofNat 64 addr else r.faddr }
  let s := if poison then s.modGroup g.gid fun g => { g with diffBlocks := if g.diffBlocks.contains (u / 32) then g.diffBlocks else (u / 32) :: g.diffBlocks } else s
  s.partFault (if poison then .poison else .address) 5 0 (BitVec.ofNat 16 stack) 0 (BitVec.ofNat 64 addr)

/-- A pipeline writes a unit whole, or leaves it unwritten: the state, and what held the unit up, where something did
(R308, R316). ELEMS counts the elements updated (Table 10.5): neither the masked ones nor those left unchanged. -/
def State.finishUnit (s : State) (k : Nat) (g : TillGroup) (c : TillCmd) (unit : Nat) : State × Acc Unit :=
  match s.unitResult g c unit with
  | .fault kind va lo size => (s, .fault kind va lo size)
  | .remote va pa len => (s, .remote va pa len)
  | .err a p => (s.unitBad k g unit a p, .ok ())
  | .ok (b, x) =>
    match s.vwrite g.job (g.unitVa unit) b with
    | .ok (s, _) =>
      let s := (s.dropHub g.job).modRun fun r =>
        { r with done := unit :: r.done, counts := r.counts.add x, perTill := r.perTill.set 0 k (r.perTill.get 0 k + 1) }
      ((s.modTillOf k fun t => { t with elems := t.elems + BitVec.ofNat 64 x.updated }).tallyTill k x, .ok ())
    | _ => (s.unitBad k g unit (g.unitVa unit) false, .ok ())

/-- TILL_UNIT_DONE: a pipeline finishes a unit and writes it whole; a translation fault pauses the Till, and an error
status leaves the unit unwritten (R308, R316). -/
def execTillUnitDone (stack : Fin 12) (unit : Nat) (s : State) : Host.Outcome State Fault Refusal :=
  match s.till.run with
  | none => .next s
  | some r =>
    match r.gid.bind s.tillGroup with
    | none => .next s
    | some g =>
      let c := TillCmd.parse r.bytes
      let k := stack.val
      if r.refused ≠ 0 || unit ≥ g.units || r.done.contains unit || r.bad.contains unit || (s.unitStack g unit).getD k ≠ k
        || (s.tillOf k).pipes = 0 || (r.paused.any fun p => p.1 = k) || s.power.supply ≠ .on || s.power.below40 then .next s
      else match s.finishUnit k g c unit with
        | (s, .fault kind va lo size) =>
          let (id, s) := s.raise (k / 3) 6 g.job kind va lo size 0
          .next (s.modRun fun r => { r with paused := (k, id, unit) :: r.paused })
        | (s, .remote va pa len) => .next (s.hubFetch g.job va pa len)
        | (s, _) => .next s

/-- Units that a failed Till holds and that are neither written nor in error. -/
def State.lostUnits (s : State) (r : TillRun) (g : TillGroup) : List Nat :=
  (List.range g.units).filter fun u => !(r.done.contains u) && !(r.bad.contains u) && (match s.unitStack g u with
    | some k => (s.tillOf k).pipes = 0
    | none => false)

/-- Write the digest table of a group; answers whether it was written (R321). -/
def State.writeDigests (s : State) (g : TillGroup) (step : W32) : State :=
  match s.unitDigests g with
  | .ok ds =>
    (match s.vwrite g.job g.digest (digestTable step ds) with
    | .ok (s, away) => (s.modGroup g.gid fun g => { g with tableStep := step }).remoteWrites (.till 12) 0 false away
    | .err a p => s.accessFault 4 p a 0
    | _ => s)
  | .err a p => s.accessFault 4 p a 0
  | _ => s

/-- A command is over: the group's status (Table 10.10). -/
def State.finishRun (s : State) (r : TillRun) (outcome : Nat) : State :=
  let c := TillCmd.parse r.bytes
  let s := s.setTill { s.till with run := none }
  match r.gid with
  | none => s
  | some gid => s.modGroup gid fun g =>
      { g with outcome := outcome, step := c.step, unitsDone := r.done.length, counts := r.counts, faddr := r.faddr }

/-- Every unit is finished; the digest table is written, the outcome recorded, and DONE signalled
once everything is visible (R309, R321). -/
def State.tillCommandDone (s : State) : State :=
  match s.till.run with
  | none => s
  | some r =>
    let c := TillCmd.parse r.bytes
    let signal := fun (s : State) => if c.donePart.getLsbD 15 then s.signalAt (c.donePart.toNat % 8192) c.doneIndex 1 else s
    if r.refused ≠ 0 then signal (s.finishRun r r.refused)
    else match r.gid.bind s.tillGroup with
      | none => signal (s.finishRun r 3)
      | some g =>
        let lost := s.lostUnits r g
        if r.done.length + r.bad.length + lost.length < g.units then s
        else
          let s := if r.digested then s else (s.writeDigests g c.step).modRun fun r => { r with digested := true }
          if s.outstanding (.till 12) then s
          else signal (s.finishRun r (if !lost.isEmpty then 5 else if r.bad.isEmpty then 1 else 4))

/-- TILL_PIPE_FAIL: the failed pipeline is fenced; with the fourth, the Till is out of service (R316). -/
def execTillPipeFail (stack : Fin 12) (s : State) : Host.Outcome State Fault Refusal :=
  let n := (s.tillOf stack.val).pipes
  if n = 0 then .next s
  else
    let s := (s.modTillOf stack.val fun t => { t with pipes := n - 1 }).partFault .tillPipe 5 3 (BitVec.ofNat 16 stack.val) 0
      (BitVec.ofNat 64 (4 - n))
    .next (if n = 1 then (s.partFault .tillFailed 5 3 (BitVec.ofNat 16 stack.val) 0 0).raiseAlert 7 else s)

/-- The units in a Till's pipelines: at most one a pipeline, and which ones is open (log entry 133). -/
def State.inPipes (s : State) (r : TillRun) (g : TillGroup) (k : Nat) : List Nat :=
  if r.paused.any fun p => p.1 = k then []
  else ((List.range g.units).filter fun u => !(r.done.contains u) && !(r.bad.contains u) && s.unitStack g u = some k
    && Config.inPipe u s.refLc.toNat).take (s.tillOf k).pipes

/-- Below 40 V each Till completes the units in its pipelines and starts no further one (R325, Table 13.6). What this stops
ends PARTIAL with its digest table and without DONE; a refused command, or one that has no unit left, is not stopped
and ends as ever (R309). -/
def State.stopTills (s : State) : State :=
  match s.till.run with
  | none => s
  | some r =>
    match r.gid.bind s.tillGroup with
    | some g =>
      if r.refused ≠ 0 then s.tillCommandDone
      else
        let c := TillCmd.parse r.bytes
        let s := (List.range 12).foldl (fun (s : State) k => (s.inPipes r g k).foldl (fun (s : State) u => (s.finishUnit k g c u).1) s) s
        (match s.tillCommandDone.till.run with
        | none => s.tillCommandDone
        | some r =>
          if r.digested then s.tillCommandDone
          else ((s.dropHub g.job).writeDigests g c.step).finishRun r 4)
    | none => s.tillCommandDone

/-! ### Commands (Table 10.9) -/

/-- The first failing field of a group record but for the mapping of its ranges (R298, Table 10.1). -/
def groupBad (b : List Byte) (job : Byte) : Option Nat :=
  let cls := leAt b 2 1
  let m := cls % 2 = 1
  let rule := leAt b 3 1
  let fld := fun (o : Nat) => leAt b o 4
  let lo := fld 0x30
  let hi := fld 0x34
  let beta := fun (w : Nat) => if m then fin0 w && f32lt w f32one else w = 0
  let checks : List (Nat × Bool) :=
    [(0x00, leAt b 0 2 ≥ 4096), (0x02, cls ≥ 4 || (!m && cls / 2 = 1)),
     (0x03, rule ≥ 16 || (if m then rule % 4 ≠ 0 || rule / 4 > 2 else rule > 2)), (0x04, leAt b 4 1 ≠ job.toNat),
     (0x05, leAt b 5 3 ≠ 0), (0x10, leAt b 0x10 8 = 0), (0x18, leAt b 0x18 8 + leAt b 0x10 8 > 2 ^ 48),
     (0x20, leAt b 0x20 8 % 65536 ≠ 0), (0x28, leAt b 0x28 8 % 128 ≠ 0), (0x30, !(f32fin lo)),
     (0x34, !(f32fin hi) || f32lt hi lo), (0x38, !(beta (fld 0x38))), (0x3C, !(beta (fld 0x3C))),
     (0x40, if m then !(f32fin (fld 0x40) && f32lt 0 (fld 0x40)) else fld 0x40 ≠ 0), (0x44, !(fin0 (fld 0x44))),
     (0x48, !(fin0 (fld 0x48))), (0x4C, leAt b 0x4C 52 ≠ 0)]
  (checks.find? (·.2)).map (·.1)

/-- The group of a record. -/
def TillGroup.parse (b : List Byte) : TillGroup :=
  let w := fun (o : Nat) => (BitVec.ofNat 32 (leAt b o 4) : W32)
  { gid := leAt b 0 2, classM := leAt b 2 1 % 2 = 1, mxfp8 := leAt b 2 1 / 2 % 2 = 1, rule := leAt b 3 1 % 4, graft := leAt b 3 1 / 4 % 4,
    job := BitVec.ofNat 8 (leAt b 4 1), wepoch := BitVec.ofNat 16 (leAt b 8 2), lepoch := BitVec.ofNat 16 (leAt b 10 2),
    srid := w 12, nelem := leAt b 0x10 8, base := leAt b 0x18 8, area := leAt b 0x20 8, digest := leAt b 0x28 8, lo := w 0x30,
    hi := w 0x34, beta1 := w 0x38, beta2 := w 0x3C, eps := w 0x40, wd := w 0x44, ureject := w 0x48 }

/-- The header a Till writes at registration, with the unit's digest (R302). -/
def registerUnit (g : TillGroup) (u : Nat) (b : List Byte) : List Byte :=
  let b := leBytes 2 g.gid ++ (b.drop 2).take 2 ++ leBytes 4 u ++ leBytes 2 (g.nvalid u) ++ b.drop 10
  stampUnit b 0xFFFFFFFF

/-- Rewrite every unit by a function of its bytes. -/
def State.mapUnits (s : State) (g : TillGroup) (f : Nat → List Byte → List Byte) : List Nat → Acc State
  | [] => .ok s
  | u :: r => accBind (s.hubRead g.job (g.unitVa u) 65536) fun b =>
      accBind (s.vwrite g.job (g.unitVa u) (f u b)) fun p => State.mapUnits p.1 g f r

/-- TILL_GROUP_SET: registers a group, and writes headers and digests (R297, R298, R302). -/
def execTillGroupSet (h : CmdHdr) (va : W64) (s : State) : Host.Outcome State Fault Refusal :=
  command 0x0630 1 true h s fun c s =>
    s.cmdRead c h.job va.toNat 128 fun b s =>
      let g := TillGroup.parse b
      let map : Option Nat := if !(s.areaOk g) then some 0x20 else if !(s.rangeWritable g.job g.digest g.digestSize) then some 0x28 else none
      let first := match groupBad b h.job with
        | some o => if o ≤ 0x20 then some o else if map = some 0x20 then map else if o ≤ 0x28 then some o else if map.isSome then map else some o
        | none => map
      match first with
      | some o => s.reply c stInvalid [BitVec.ofNat 64 o]
      | none =>
        let overlap := s.till.groups.any fun x => x.job = g.job && x.area < g.area + g.units * 65536 && g.area < x.area + x.units * 65536
        if (s.tillGroup g.gid).isSome || overlap then s.reply c stConflict []
        else match s.mapUnits g (registerUnit g) (List.range g.units) with
          | .ok s =>
            let s := (s.setTill { s.till with groups := s.till.groups ++ [g] }).claim { kind := .tillArea, index := g.gid, job := g.job, opcode := 0x0630 }
            (match s.unitDigests g with
            | .ok ds => s.cmdWrite c g.job g.digest (digestTable 0xFFFFFFFF ds) []
            | .err a p => (s.accessFault 4 p a 0).reply c stAddress []
            | _ => s.reply c stAddress [])
          | .err a p => (s.accessFault 4 p a 0).reply c stAddress []
          | _ => s.reply c stAddress []

/-- The group of a command of the host: registered, and of its job. -/
def State.jobGroup (s : State) (job : Byte) (gid : W64) : Option TillGroup :=
  s.till.groups.find? fun g => g.gid = gid.toNat && g.job = job

/-- TILL_GROUP_CLEAR: removes a group and its claim (Table 10.9). -/
def execTillGroupClear (h : CmdHdr) (gid : W64) (s : State) : Host.Outcome State Fault Refusal :=
  command 0x0631 1 true h s fun c s =>
    match s.jobGroup h.job gid with
    | none => s.reply c stInvalid []
    | some g =>
      if s.groupBusy g.gid then s.reply c stBusy []
      else
        let s := s.setTill { s.till with groups := s.till.groups.filter fun x => x.gid ≠ g.gid }
        (s.unclaim fun x => x.kind = .tillArea && x.index = g.gid).reply c stOk []

/-- The status record of a group (Table 10.10). -/
def TillGroup.statusBytes (g : TillGroup) : List Byte :=
  leBytes 2 g.gid ++ leBytes 1 g.outcome ++ [0] ++ leBytes 4 g.step.toNat ++ leBytes 4 g.unitsDone ++ leBytes 4 g.counts.nonfinite
    ++ leBytes 4 g.counts.absurd ++ leBytes 4 g.counts.clamped ++ leBytes 4 g.counts.srSat ++ leBytes 4 g.counts.remClip
    ++ leBytes 4 g.counts.graftSkip ++ leBytes 4 g.stale ++ leBytes 8 g.faddr.toNat ++ List.replicate 16 0

/-- TILL_GROUP_STATUS: writes a group's status record (Table 10.10). -/
def execTillGroupStatus (h : CmdHdr) (gid va : W64) (s : State) : Host.Outcome State Fault Refusal :=
  command 0x0632 2 true h s fun c s =>
    match s.jobGroup h.job gid with
    | none => s.reply c stInvalid []
    | some g => s.cmdWrite c h.job va.toNat g.statusBytes []

/-- TILL_GROUP_EPOCH: sets a group's epochs (Table 10.9). -/
def execTillGroupEpoch (h : CmdHdr) (gid wepoch lepoch : W64) (s : State) : Host.Outcome State Fault Refusal :=
  command 0x0633 3 true h s fun c s =>
    match s.jobGroup h.job gid with
    | none => s.reply c stInvalid []
    | some g =>
      if !(inRange wepoch 0 0xFFFF && inRange lepoch 0 0xFFFF) then s.reply c stInvalid []
      else if s.groupBusy g.gid then s.reply c stBusy []
      else (s.modGroup g.gid fun g => { g with wepoch := bits wepoch 0 16, lepoch := bits lepoch 0 16 }).reply c stOk []

/-- Units whose stored digest differs from their content (R322). -/
def State.differing (s : State) (g : TillGroup) : Acc (List Nat) :=
  (List.range g.units).foldr (fun u acc => accBind (s.hubRead g.job (g.unitVa u) 65536) fun b => accBind acc fun l =>
    .ok (if unitDigest b = (b.drop 16).take 48 then l else u :: l)) (.ok [])

/-- TILL_DIGEST_VERIFY: recomputes every unit digest; REWRITE stores them and the table (R322). -/
def execTillDigestVerify (h : CmdHdr) (gid flags : W64) (s : State) : Host.Outcome State Fault Refusal :=
  command 0x0634 2 true h s fun c s =>
    match s.jobGroup h.job gid with
    | none => s.reply c stInvalid []
    | some g =>
      if flags.toNat > 1 then s.reply c stInvalid []
      else if s.groupBusy g.gid then s.reply c stBusy []
      else match s.differing g with
        | .ok l =>
          let res : List W64 := [BitVec.ofNat 64 l.length, BitVec.ofNat 64 (l.headD 0xFFFFFFFF)]
          if flags = 0 then s.reply c stOk res
          else (match s.mapUnits g (fun _ b => b.take 16 ++ unitDigest b ++ b.drop 64) (List.range g.units) with
            | .ok s =>
              (match s.unitDigests g with
              | .ok ds => s.cmdWrite c g.job g.digest (digestTable g.tableStep ds) res
              | .err a p => (s.accessFault 4 p a 0).reply c stAddress []
              | _ => s.reply c stAddress [])
            | .err a p => (s.accessFault 4 p a 0).reply c stAddress []
            | _ => s.reply c stAddress [])
        | .err a p => (s.accessFault 4 p a 0).reply c stAddress []
        | _ => s.reply c stAddress []

end Sys2Proof.Machine
end

