-- ==== Sys2Proof/Machine/Coll.lean ====
section
/-! DEFINITION. Pinned ranges of unit tasks (R413) and collectives (R465 to R478, R333, R335 to R338). -/

namespace Sys2Proof.Machine

def State.setColls (s : State) (v : Colls) : State := { s with colls := v }

/-! ### Pins (R413) -/

/-- A task's translation of an address: its pin, or a walk. -/
def State.pinWalk (s : State) (g t : Nat) (job : Byte) (use : Use) (va : Nat) : Walk :=
  match s.xlt.pins.find? fun p => p.graph = g && p.task = t && p.page ≤ va && va < p.page + p.size with
  | some p => .page (p.pa + (va - p.page)) p.page p.size
  | none => s.walk job use va

/-- One granule of a unit task's range; other parts' bytes come from what was fetched for the job. -/
def State.taskGranule (s : State) (g t : Nat) (job : Byte) (va : Nat) : Acc (List Byte) :=
  match s.pinWalk g t job .read va with
  | .bad => .err va false
  | .poison pa => .err pa true
  | .fault k lo size => .fault k va lo size
  | .page pa _ _ =>
    let h := s.hubBuf job
    if !(s.member (pa / 2 ^ 44)) then .err pa false
    else if pa / 2 ^ 44 ≠ s.partNo then
      (if h.have_.contains va then .ok (h.buf.read va 64)
      else match h.errs.find? fun e => e.1 = va with
        | some e => .err pa e.2
        | none => .remote va pa 64)
    else match s.readStat (pa % 2 ^ 44) 64 with
      | .ok => .ok (s.mem.read (pa % 2 ^ 44) 64)
      | .address => .err pa false
      | .poison => .err pa true

/-- The granules of a unit task's read. -/
def State.taskGranules (s : State) (g t : Nat) (job : Byte) : List Nat → Acc (List Byte)
  | [] => .ok []
  | v :: r => accBind (s.taskGranule g t job v) fun bs => accBind (s.taskGranules g t job r) fun l => .ok (bs ++ l)

/-- Read `n` bytes of a unit task's range. -/
def State.taskRead (s : State) (g t : Nat) (job : Byte) (va n : Nat) : Acc (List Byte) :=
  if n = 0 then .ok []
  else accBind (s.taskGranules g t job ((List.range ((va + n + 63) / 64 - va / 64)).map fun i => (va / 64 + i) * 64)) fun bs =>
    .ok ((bs.drop (va % 64)).take n)

/-- Translate a unit task's pieces. -/
def State.taskPieces (s : State) (g t : Nat) (job : Byte) : List (Nat × Nat) → Acc (List (Nat × Nat × Nat))
  | [] => .ok []
  | (va, n) :: r => match s.pinWalk g t job .write va with
    | .bad => .err va false
    | .poison pa => .err pa true
    | .fault k lo size => .fault k va lo size
    | .page pa _ _ =>
      if !(s.member (pa / 2 ^ 44)) then .err pa false
      else accBind (s.taskPieces g t job r) fun l => .ok ((va, pa, n) :: l)

/-- Write bytes of a unit task's range; writes to other parts are the task's to await (R54). -/
def State.taskWrite (s : State) (g t : Nat) (job : Byte) (tags : W64) (va : Nat) (bs : List Byte) : Acc State :=
  accBind (s.taskPieces g t job (pieces (bs.length / 65536 + 2) va bs.length)) fun l =>
    accBind (s.writePieces (.owner (.portWrite g t)) l bs) fun r => .ok (r.1.remoteWrites (.portWrite g t) tags true r.2)

/-- What a unit task's accesses give, in order; the first that stops ends them. -/
def State.taskWrites (s : State) (g t : Nat) (job : Byte) (tags : W64) : List (Nat × List Byte) → Acc State
  | [] => .ok s
  | (va, bs) :: r => match s.taskWrite g t job tags va bs with
    | .ok s => s.taskWrites g t job tags r
    | e => e

/-- A range a unit task names, and whether it is written. -/
structure PinRange where
  va : Nat
  len : Nat
  write : Bool

/-- The pages of a range: one address in each. -/
def rangePages (va len : Nat) : List Nat := (pieces (len / 65536 + 2) va len).map (·.1)

/-- Probe every page of every range: the pins, or the first address that stops (R413). -/
def State.probe (s : State) (x : Nat) (g t : Nat) (job : Byte) (write : Bool) : List Nat → List Pin → Acc (List Pin)
  | [], acc => .ok acc
  | va :: r, acc =>
    if acc.any fun p => p.page ≤ va && va < p.page + p.size then s.probe x g t job write r acc
    else match s.walk job (if write then .write else .read) va with
      | .bad => .err va false
      | .poison pa => .err pa true
      | .fault k lo size => .fault k va lo size
      | .page pa base size =>
        if !(s.member (pa / 2 ^ 44)) || (pa / 2 ^ 44 = s.partNo && !(s.mapped (pa % 2 ^ 44))) then .err pa false
        else s.probe x g t job write r (acc ++ [{ xlt := x, job := job, page := base, size := size, pa := pa - (va - base), graph := g, task := t }])

/-- Probe the ranges in order; a range that is written is probed first for its writes. -/
def State.probeAll (s : State) (x g t : Nat) (job : Byte) : List PinRange → List Pin → Acc (List Pin)
  | [], acc => .ok acc
  | r :: rs, acc => accBind (s.probe x g t job r.write (rangePages r.va r.len) acc) fun acc => s.probeAll x g t job rs acc

/-- Pins in one XLT's table, and its room (Table 14.3). -/
def State.pinsIn (s : State) (x : Nat) : Nat := (s.xlt.pins.filter fun p => p.xlt = x).length
def pinRoom : Nat := 65536

/-- A unit task's graph ends with ADDRESS, and the task stops (R412, R612). -/
def State.unitAddress (s : State) (x g t : Nat) (tags : W64) (a : Nat) (poison : Bool) : State :=
  ((s.accessFault x poison a tags).dropHub (tagJob tags)).failTask g t 0x05

/-- A unit task probes and pins its ranges; it waits where the pin table has no room, and is held on a fault (R412,
R413). -/
def State.pinTask (s : State) (x unit g t : Nat) (tags : W64) (rs : List PinRange) : State :=
  let w := rs.filter (·.write)
  match s.probeAll x g t (tagJob tags) (w ++ rs.filter fun r => !r.write) [] with
  | .ok ps =>
    if s.pinsIn x + ps.length > pinRoom then s
    else (s.setXlt { s.xlt with pins := s.xlt.pins ++ ps }).modTask g t fun ts => { ts with probed := true }
  | .fault k va lo size =>
    let (id, s) := s.raise x unit (tagJob tags) k va lo size (BitVec.ofNat 64 t)
    s.modTask g t fun ts => { ts with st := .faultHeld id }
  | .err a p => s.unitAddress x g t tags a p
  | .remote _ _ _ => s

/-! ### Parameters (R466, R467) -/

/-- The fields of a parameter block (Table 16.2). -/
def CollParams.parse (b : List Byte) : CollParams where
  op := leAt b 0 1
  axes := leAt b 1 1
  red := leAt b 2 1
  sfmt := leAt b 3 1 % 16
  dfmt := leAt b 3 1 / 16
  comp := leAt b 4 1
  k := leAt b 5 1
  mid := leAt b 6 1
  collId := BitVec.ofNat 32 (leAt b 8 4)
  root := leAt b 0xC 2
  count := leAt b 0x10 8
  src := leAt b 0x18 8
  dst := leAt b 0x20 8
  res := leAt b 0x28 8
  moff := leAt b 0x30 8
  timeout := leAt b 0x38 4

/-- What a member's first packet carries of them (R469). -/
def collSig (b : List Byte) : List Byte := b.take 7 ++ (b.drop 0xC).take 2 ++ (b.drop 0x10).take 8

/-- The members of a collective's group in ascending part number (R465). -/
def State.collGroup (s : State) (axes : Nat) : List Nat :=
  (List.range 8192).filter fun n => s.member n && [0, 1, 2, 3].all fun a => axes / 2 ^ a % 2 = 1 || coordAt n a = coordAt s.partNo a

/-- Whether an operation reduces. -/
def CollParams.reduces (p : CollParams) : Bool := p.op = 1 || p.op = 3
/-- Element sizes in bytes. -/
def CollParams.es (p : CollParams) : Nat := fmtBits p.sfmt / 8
def CollParams.ds (p : CollParams) : Nat := fmtBits p.dfmt / 8

/-- Whether the engine refuses a block (R467). -/
def State.collBad (s : State) (job : Byte) (body : Nat) (b : List Byte) : Bool :=
  let p := CollParams.parse b
  let n := (s.collGroup p.axes).length
  let int := p.sfmt = 0xD || p.dfmt = 0xD
  let srcLen := (if p.op = 2 then p.count / n else p.count) * p.es
  let dstLen := (if p.op = 1 then p.count / n else p.count) * p.ds
  body % 64 ≠ 0 || p.op < 1 || p.op > 5 || p.axes = 0 || p.axes ≥ 16 || p.red > 2 || ((p.red ≠ 0) != p.reduces) || p.comp > 2
    || (if p.comp = 1 then p.k < 1 || p.k > 64 else p.k ≠ 0) || leAt b 7 1 ≠ 0 || leAt b 0xE 2 ≠ 0 || leAt b 0x3C 4 ≠ 0
    || (if p.op = 4 then p.root ≥ n else p.root ≠ 0) || p.count = 0 || p.count > 2 ^ 40 || (p.op ≠ 4 && p.count % n ≠ 0)
    || (p.comp = 0 && p.res ≠ 0) || (p.mid = 0xFF && p.moff ≠ 0) || p.timeout < 1000 || p.timeout > 10000000
    || (if p.reduces then
          !(if int then p.sfmt = 0xD && p.dfmt = 0xD else (p.sfmt = 0 || p.sfmt = 0xA) && (p.dfmt = 0 || p.dfmt = 0xA))
        else p.sfmt ≠ p.dfmt || fmtMx p.sfmt || p.sfmt = 0xB)
    || (p.comp ≠ 0 && (!p.reduces || p.red ≠ 1 || p.sfmt ≠ 0 || p.count / n % 4096 ≠ 0))
    || (p.mid ≠ 0xFF && !((s.mask p.mid).any fun m => m.job = job && p.moff + p.count ≤ m.rows * m.cols))
    || p.src % 128 ≠ 0 || p.dst % 128 ≠ 0
    || (p.src < p.dst + dstLen && p.dst < p.src + srcLen && !((p.op = 3 || p.op = 4) && p.src = p.dst))

/-- The ranges a member names: its source where it reads one, its destination and its residual (R468, Table 16.3). -/
def CollParams.ranges (p : CollParams) (n rank : Nat) : List PinRange :=
  let c := p.count / n
  (if p.op = 4 && rank ≠ p.root then [] else [{ va := p.src, len := (if p.op = 2 then c else p.count) * p.es, write := false }])
    ++ [{ va := p.dst, len := (if p.op = 1 then c else p.count) * p.ds, write := true }]
    ++ (if p.comp = 0 then [] else [{ va := p.res, len := 2 * p.count, write := true }])

/-! ### Runs -/

/-- The engine's run of a task. -/
def State.collRun (s : State) (g t : Nat) : Option CollRun := s.colls.runs.find? fun r => r.graph = g && r.task = t
def State.putColl (s : State) (r : CollRun) : State :=
  s.setColls { s.colls with runs := s.colls.runs.map fun x => if x.graph = r.graph && x.task = r.task then r else x }
def State.dropColl (s : State) (g t : Nat) : State :=
  s.setColls { s.colls with runs := s.colls.runs.filter fun x => !(x.graph = g && x.task = t) }
/-- Counts of a job. -/
def State.countColl (s : State) (job : Byte) (f : CollCounts → CollCounts) : State :=
  s.setColls { s.colls with counts := s.colls.counts.set {} job.toNat (f (s.colls.counts.get {} job.toNat)) }

/-- A running task of a kind. -/
def State.unitTask (s : State) (g t : Nat) (kind : Byte) : Option (Graph × TaskSt × TaskRec) :=
  match s.graph g, s.task g t, s.rec_ g t with
  | some gr, some ts, some r => if r.kind = kind && ts.st = .running && !ts.unitDone then some (gr, ts, r) else none
  | _, _, _ => none

/-- The engine takes a task: it reads the parameter block once and checks it (R466, R467). -/
def State.collTake (s : State) (g t : Nat) : State :=
  match s.unitTask g t 3, s.collRun g t with
  | some (gr, ts, r), none =>
    let job := gr.hdr.job
    (match s.hubRead job r.body.toNat 64 with
    | .ok b =>
      let s := s.dropHub job
      if s.collBad job r.body.toNat b then s.failTask g t 0x22
      else s.setColls { s.colls with runs := s.colls.runs ++ [{ graph := g, task := t, job := job, step := gr.step, block := b }] }
    | .fault k va lo size =>
      let (id, s) := s.raise 4 4 job k va lo size (BitVec.ofNat 64 t)
      s.modTask g t fun ts => { ts with st := .faultHeld id }
    | .err a p => s.unitAddress 4 g t ts.tags a p
    | .remote va pa len => s.hubFetch job va pa len)
  | _, _ => s

/-- This part's rank in a group. -/
def State.rankIn (s : State) (l : List Nat) : Nat := (l.findIdx? fun n => n = s.partNo).getD 0

/-- The engine probes and pins a taken task's ranges (R468). -/
def State.collProbe (s : State) (g t : Nat) : State :=
  match s.unitTask g t 3, s.collRun g t with
  | some (_, ts, _), some r =>
    if ts.probed then s
    else
      let p := CollParams.parse r.block
      let l := s.collGroup p.axes
      s.pinTask 4 4 g t ts.tags (p.ranges l.length (s.rankIn l))
  | _, _ => s

/-! ### Arithmetic (R473) -/

/-- One round of the tree: neighbours combine. -/
def pairRound {α : Type} (f : α → α → α) : List α → List α
  | a :: b :: r => f a b :: pairRound f r
  | l => l
/-- The tree over ranks (R473). -/
def rankTree {α : Type} (f : α → α → α) : Nat → List α → List α
  | 0, l => l
  | n + 1, l => rankTree f n (pairRound f l)

/-- A source element widened exactly to FP32. -/
def widen32 (fmt raw : Nat) : F32 := if fmt = 0 then bf16Widen raw else raw

/-- The reduction of one element's contributions in rank order, and whether it saturated. -/
def CollParams.reduce (p : CollParams) (xs : List Nat) : Nat × Bool :=
  if p.sfmt = 0xD then
    let f := fun (a b : Int) => if p.red = 1 then a + b else max a b
    let v := ((rankTree f 16 (xs.map fun x => toSigned 32 x)).headD 0)
    let (w, sat) := clampI (-(2 ^ 31)) (2 ^ 31 - 1) v
    (ofSigned 32 w, sat)
  else
    let f := fun (a b : F32) => if p.red = 1 then f32add a b else f32max a b
    let v := (rankTree f 16 (if p.comp = 0 then xs.map (widen32 p.sfmt) else xs)).headD 0
    (if p.dfmt = 0 then fmtBF16.encode (val32 v) else f32 (val32 v), false)

/-! ### Compression (R335 to R338) -/

/-- One element of a block: its index and v; masked elements are absent. -/
abbrev BlockV := List (Nat × F32)

/-- The rank of a value in top-k order: NaN first, then infinities, then larger magnitudes (R336). -/
def topKey (v : F32) : Nat := if val32 v = .nan then 0xFFFFFFFF else f32abs v

/-- Insert by rank, the earlier index first among equals. -/
def insTop (x : Nat × F32) : BlockV → BlockV
  | [] => [x]
  | y :: r => if topKey y.2 < topKey x.2 then x :: y :: r else y :: insTop x r

/-- The elements a top-k block sends, in ascending index order. -/
def topSel (k : Nat) (b : BlockV) : BlockV :=
  let best := (b.foldl (fun l x => insTop x l) []).take k
  b.filter fun x => best.any fun y => y.1 = x.1

/-- The scale of a sign block (R337). -/
def signScale (b : BlockV) : F32 :=
  if b.any fun x => !(f32fin x.2) then f32nan
  else if b.isEmpty then 0
  else f32div (unitSum (b.map fun x => (x.1, f32abs x.2)) 4096) (f32 (.ofInt b.length))

/-- Bytes of a bit list, least significant bit first. -/
def packBits : Nat → List Bool → List Byte
  | 0, _ => []
  | n + 1, l => BitVec.ofNat 8 ((List.range 8).foldl (fun a i => if l.getD i false then a + 2 ^ i else a) 0) :: packBits n (l.drop 8)

/-- The bytes sent for a block (R336, R337). -/
def CollParams.pack (p : CollParams) (b : BlockV) : List Byte :=
  if p.comp = 1 then
    padTo (4 * p.k) ((topSel p.k b).flatMap fun x => leBytes 4 (fmtBF16.encode (val32 x.2) + x.1 * 2 ^ 16 + 2 ^ 28))
  else leBytes 4 (signScale b) ++ packBits 512 ((List.range 4096).map fun i => b.any fun x => x.1 = i && f32neg? x.2)

/-- The FP32 a block decodes to at an index (R336, R337). -/
def CollParams.unpack (p : CollParams) (bytes : List Byte) (i : Nat) : F32 :=
  if p.comp = 1 then
    match (arr p.k 4 bytes).find? fun w => w / 2 ^ 28 % 2 = 1 && w / 2 ^ 16 % 4096 = i with
    | some w => bf16Widen w
    | none => 0
  else
    let sc := leAt bytes 0 4
    if leAt bytes (4 + i / 8) 1 / 2 ^ (i % 8) % 2 = 1 then f32 (val32 sc).neg else sc

/-- An element's residual after its block is sent, and whether it is counted (R338). -/
def CollParams.residual (p : CollParams) (bytes : List Byte) (x : Nat × F32) : Nat × Bool :=
  if !(f32fin x.2) then (0, true)
  else if p.comp = 2 && val32 (leAt bytes 0 4) = .nan then (fmtBF16.encode (val32 x.2), false)
  else (fmtBF16.encode ((val32 x.2).add (val32 (p.unpack bytes x.1)).neg), false)

/-! ### Sending (R472, R476, R477) -/

/-- First elements of the spans of `[lo, hi)`, `w` elements each. -/
def spans (w lo hi : Nat) : List Nat := (List.range (cdiv (hi - lo) w)).map fun i => lo + i * w

/-- A gather packet's first element is marked with this offset; its span then counts reduced elements. -/
def gatherMark : Nat := 2 ^ 41

/-- The unmasked elements of a span, by source index. -/
def unmasked (masked : Nat → Bool) (p : CollParams) (lo hi : Nat) : List Nat :=
  ((List.range (hi - lo)).map fun i => lo + i).filter fun e => !(masked (p.moff + e))

/-- The payload of a COLL packet: what identifies it, then its data (DESIGN CHOICE, log entry 18). -/
def collPayload (m : CollMsg) : List Byte :=
  let b := padTo 20 m.params ++ leBytes 2 m.rank ++ leBytes 2 m.data.length ++ leBytes 8 m.first ++ leBytes 4 m.collId.toNat ++ leBytes 4 m.step.toNat
    ++ leBytes 1 m.params.length ++ List.replicate 23 0 ++ m.data
  padTo (cdiv b.length 32 * 32) b

/-- A COLL packet leaves for a member (Table 15.4). -/
def State.sendColl (s : State) (dst : Nat) (m : CollMsg) : State :=
  let (q, s) := s.nextSeq dst
  let pl := collPayload m
  (s.countColl m.job fun c => { c with sent := c.sent + m.data.length }).transmit 8
    { type := 0x08, ctrl := 2, dst := BitVec.ofNat 16 dst, src := BitVec.ofNat 16 s.partNo, plen := BitVec.ofNat 16 (pl.length / 32),
      tags := m.tags, addr := 0, seq := q, payload := pl }

/-- Send spans to one member, the parameters with the first (R469). -/
def State.sendSpans (s : State) (dst : Nat) (m : CollMsg) (sig : List Byte) (data : Nat → List Byte) : List Nat → State
  | [] => s
  | f :: r => (s.sendColl dst { m with params := sig, first := f, data := data f }).sendSpans dst m [] data r

/-- Span width of a collective's packets: elements of a plain packet, which must fit its payload (R439), or of a compressed block. -/
def CollParams.width (p : CollParams) : Nat := if p.comp ≠ 0 then 4096 else if p.es ≤ 4 then 256 else 128

/-- The source elements a member sends to member `j` of `n`, as member `r` (Table 16.3). -/
def CollParams.toMember (p : CollParams) (n j : Nat) : Nat × Nat :=
  let c := p.count / n
  if p.op = 1 ∨ p.op = 3 ∨ p.op = 5 then (j * c, j * c + c) else if p.op = 2 then (0, c) else (0, p.count)

/-- Destination index of source element `e` of member `j`, at member `r` (Table 16.3), for operations that do not reduce. -/
def CollParams.destOf (p : CollParams) (n j e : Nat) : Nat :=
  let c := p.count / n
  if p.op = 2 then j * c + e else if p.op = 5 then j * c + e % c else e

/-- The packets member `r` of `n` expects before it can complete or gather: rank and first element. -/
def CollParams.expected (p : CollParams) (n r : Nat) : List (Nat × Nat) :=
  let from_ := if p.op = 4 then [p.root] else List.range n
  (from_.filter fun j => j ≠ r).flatMap fun j => (spans p.width (p.toMember n r).1 (p.toMember n r).2).map fun f => (j, f)
/-- The gather packets of an all-reduce that member `r` expects. -/
def CollParams.expectedGather (p : CollParams) (n r : Nat) : List (Nat × Nat) :=
  let c := p.count / n
  ((List.range n).filter fun j => j ≠ r).flatMap fun j => (spans 256 (j * c) (j * c + c)).map fun f => (j, gatherMark + f)

/-- Key of a contribution. -/
def partKey (rank e : Nat) : Nat := rank * 2 ^ 41 + e

/-- Store the contributions of a packet's span from a member. -/
def CollRun.store (r : CollRun) (p : CollParams) (n me : Nat) (masked : Nat → Bool) (m : CollMsg) : CollRun :=
  let r := { r with got := r.got ++ [(m.rank, m.first)] }
  let c := p.count / n
  if m.first ≥ gatherMark then
    let lo := m.first - gatherMark
    let es := unmasked masked p lo (min (lo + 256) (m.rank * c + c))
    { r with out := (es.zip (arr es.length p.ds m.data)).foldl (fun o x => o.set 0 x.1 x.2) r.out }
  else
    let es := unmasked masked p m.first (min (m.first + p.width) (p.toMember n me).2)
    if !p.reduces then
      { r with out := (es.zip (arr es.length p.es m.data)).foldl (fun o x => o.set 0 (p.destOf n m.rank x.1) x.2) r.out }
    else
      let vs := if p.comp = 0 then arr es.length p.es m.data else es.map fun e => p.unpack m.data (e - m.first)
      { r with parts := (es.zip vs).foldl (fun o x => o.set 0 (partKey m.rank x.1) x.2) r.parts }

/-! ### Matching (R469) -/

/-- Whether a member's first packet differs from this part's task. -/
def collDiffers (sig : List Byte) (tags : W64) (m : CollMsg) : Bool :=
  m.params ≠ [] && (m.params ≠ sig || tagLayout m.tags ≠ tagLayout tags || tagMb m.tags ≠ tagMb tags
    || (tagWeight m.tags ≠ 0xFFFF && tagWeight tags ≠ 0xFFFF && tagWeight m.tags ≠ tagWeight tags))

/-- A mismatch: no packet of the collective is sent any more, a fault record is written and the graph ends (R469). -/
def State.collMismatch (s : State) (g t : Nat) (job : Byte) (tags : W64) (id : W32) : State :=
  (((s.dropColl g t).countColl job fun c => { c with mismatches := c.mismatches + 1 }).partFault .staleTag 3 0 0 tags (id.setWidth 64)).failTask
    g t 0x2D

/-- The mask a collective names. -/
def CollParams.mask (p : CollParams) : Option Nat := if p.mid = 0xFF then none else some p.mid

/-- The masked elements of a run, by the bitmap bytes it read when it began (R333). -/
def State.collMask (s : State) (r : CollRun) : Nat → Bool := s.masks? (CollParams.parse r.block).mask (r.bitsAt, r.bits)

/-- Whether no packet of this part's reaches another (R450, R459). -/
def State.cutOff (s : State) (d : Nat) : Bool := s.fab.lost.contains d || (s.route d).isNone

/-- A collective one of whose packets found its member lost or unreachable ends its graph with PART_LOST (R471). -/
def State.collCut (s : State) (g t : Nat) (dsts : List Nat) : State :=
  if dsts.any fun d => d ≠ s.partNo && s.cutOff d then (s.dropColl g t).failTask g t 0x07 else s

/-- An all-reduce or reduce-scatter whose contributions are all here reduces its own chunk; an all-reduce sends it on
(R473, R474, R477). -/
def State.collReduce (s : State) (r : CollRun) (p : CollParams) (l : List Nat) (masked : Nat → Bool) (tags : W64) : State :=
  let n := l.length
  let me := s.rankIn l
  if r.gathered || !p.reduces || !((p.expected n me).all fun x => r.got.contains x) then s.putColl r
  else
    let (lo, hi) := p.toMember n me
    let es := unmasked masked p lo hi
    let res := es.map fun e => (e, p.reduce ((List.range n).map fun j => r.parts.get 0 (partKey j e)))
    let sat := (res.filter fun x => x.2.2).length
    let dest := fun (e : Nat) => if p.op = 1 then e - lo else e
    let r := { r with gathered := true, out := res.foldl (fun o x => o.set 0 (dest x.1) x.2.1) r.out }
    let s := if sat = 0 then s else s.count .int32Saturated 4 sat
    let s := s.putColl r
    if p.op = 1 then s
    else
      let m : CollMsg := { job := r.job, step := r.step, collId := p.collId, rank := me, tags := tags, params := [], first := 0, data := [] }
      let data := fun (f : Nat) => (unmasked masked p (f - gatherMark) (min (f - gatherMark + 256) hi)).flatMap fun e => leBytes p.ds (r.out.get 0 e)
      (l.filter fun d => d ≠ s.partNo).foldl (fun (s : State) (d : Nat) =>
        s.sendSpans d m [] data ((spans 256 lo hi).map fun f => gatherMark + f)) s |>.collCut r.graph r.task l

/-- A packet is matched to a started run (R469). -/
def State.collMatch (s : State) (r : CollRun) (m : CollMsg) : State :=
  let p := CollParams.parse r.block
  let l := s.collGroup p.axes
  match s.unitTask r.graph r.task 3 with
  | none => s
  | some (_, ts, _) =>
    if collDiffers (collSig r.block) ts.tags m then s.collMismatch r.graph r.task r.job ts.tags p.collId
    else if r.got.contains (m.rank, m.first) then s
    else
      let masked := s.collMask r
      s.collReduce (r.store p l.length (s.rankIn l) masked m) p l masked ts.tags

/-! ### Starting (R468, R477, R478) -/

/-- v of a block's elements (R335). -/
def blockV (masked : Nat → Bool) (p : CollParams) (src res : List Nat) (b : Nat) : BlockV :=
  (unmasked masked p b (b + 4096)).map fun e => (e - b, f32add (bf16Widen (src.getD (e - b) 0)) (bf16Widen (res.getD (e - b) 0)))

/-- Cut a list into runs of `w`. -/
def cutList {α : Type} (w : Nat) : Nat → List α → List (List α)
  | 0, _ => []
  | n + 1, l => l.take w :: cutList w n (l.drop w)

/-- The compressed blocks of a source, and every element's residual (R477, R478). -/
def CollParams.compress (p : CollParams) (masked : Nat → Bool) (src res : List Nat) : List (Nat × List Byte) × List (Nat × Nat) × Nat :=
  let k := cdiv p.count 4096
  let bs := ((List.range k).zip ((cutList 4096 k src).zip (cutList 4096 k res))).map fun x =>
    let b := x.1 * 4096
    let v := blockV masked p x.2.1 x.2.2 b
    (b, v, p.pack v)
  let rs := bs.flatMap fun x => x.2.1.map fun e => (x.1 + e.1, p.residual x.2.2 e)
  (bs.map fun x => (x.1, x.2.2), rs.map fun x => (x.1, x.2.1), (rs.filter fun x => x.2.2).length)

/-- A taken and pinned collective begins: it compresses its source once, keeps its own contribution, sends every other
member its elements, and meets the packets that came before it (R468, R475 to R478). -/
def State.collBegin (s : State) (g t : Nat) (r : CollRun) (tags : W64) : State :=
  let p := CollParams.parse r.block
  let l := s.collGroup p.axes
  let n := l.length
  let me := s.rankIn l
  let own := if p.op = 4 && me ≠ p.root then 0 else if p.op = 2 then p.count / n else p.count
  let rd := accBind (s.taskRead g t r.job p.src (own * p.es)) fun a =>
    accBind (s.taskRead g t r.job p.res (if p.comp = 0 then 0 else 2 * p.count)) fun b =>
      accBind (s.maskBits r.job p.mask p.moff p.count) fun k => .ok (a, b, k)
  match rd with
  | .remote va pa len => s.hubFetch r.job va pa len
  | .err a q => (s.dropColl g t).unitAddress 4 g t tags a q
  | .fault _ va _ _ => (s.dropColl g t).unitAddress 4 g t tags va false
  | .ok (a, b, k) =>
    let s := s.dropHub r.job
    let r : CollRun := { r with bitsAt := k.1, bits := k.2 }
    let masked := s.collMask r
    let src := arr own p.es a
    let sig := collSig r.block
    let (blocks, resid, lost) := if p.comp = 0 then ([], [], 0) else p.compress masked src (arr p.count 2 b)
    let data := fun (hi f : Nat) =>
      if p.comp = 0 then (unmasked masked p f (min (f + p.width) hi)).flatMap fun e => leBytes p.es (src.getD e 0)
      else ((blocks.find? fun x => x.1 = f).map (·.2)).getD []
    let m : CollMsg := { job := r.job, step := r.step, collId := p.collId, rank := me, tags := tags, params := [], first := 0, data := [] }
    let r : CollRun := { r with started := some s.hubLc, resid := resid }
    let mine := if own = 0 then [] else spans p.width (p.toMember n me).1 (p.toMember n me).2
    let r := mine.foldl (fun (r : CollRun) f => r.store p n me masked { m with first := f, data := data (p.toMember n me).2 f }) r
    let s := if lost = 0 then s else s.count .gradSilent 0 lost
    let s := s.putColl r
    let early := s.colls.held.filter fun h => h.job = r.job && h.step = r.step && h.collId = p.collId
    let s := s.setColls { s.colls with held := s.colls.held.filter fun h => !(early.contains h) }
    if early.any (collDiffers sig tags) then s.collMismatch g t r.job tags p.collId
    else
      let s := ((List.range n).zip l).foldl (fun (s : State) (x : Nat × Nat) =>
        if x.1 = me || own = 0 then s
        else s.sendSpans x.2 m sig (data (p.toMember n x.1).2) (spans p.width (p.toMember n x.1).1 (p.toMember n x.1).2)) s
      let s := (s.collReduce r p l masked tags).collCut g t (if own = 0 then [] else l)
      early.foldl (fun (s : State) (m : CollMsg) => match s.collRun g t with
        | some r => s.collMatch r m
        | none => s) s

/-- COLL_START: the engine takes a collective task, probes and pins its ranges, and begins; below 42 V a compressed one
sends nothing (R466 to R468, R470, R577). -/
def execCollStart (graph : Fin 8) (task : Nat) (s : State) : Host.Outcome State Fault Refusal :=
  let g := graph.val
  if s.power.supply ≠ .on || s.hbmHeld then .next s
  else
    let s := (s.collTake g task).collProbe g task
    match s.unitTask g task 3, s.collRun g task with
    | some (_, ts, _), some r => if ts.probed && r.started.isNone && !(s.power.below42 && (CollParams.parse r.block).comp ≠ 0) then .next (s.collBegin g task r ts.tags) else .next s
    | _, _ => .next s

/-! ### Arrival (R469, R470, R483) -/

/-- Collectives that have not started here and hold packets (R470). -/
def Colls.heldIds (c : Colls) : List (Byte × W32 × W32) := (c.held.map fun m => (m.job, m.step, m.collId)).eraseDups

/-- A COLL packet arrives: one of an older layout epoch is dropped; the others meet their collective, or are held for it
(R469, R470, R483). -/
def State.collArrive (s : State) (src : Nat) (seq : W32) (m : CollMsg) : State :=
  let s' := (s.noteSeq src seq).countColl m.job fun c => { c with received := c.received + m.data.length }
  if epochNewer (s.layoutEpoch.get 0 m.job.toNat) (tagLayout m.tags) then
    let s := s'.count .collDrops 0 1
    { s with layouts := { s.layouts with drops := s.layouts.drops.set 0 m.job.toNat (s.layouts.drops.get 0 m.job.toNat + 1) } }
  else match s.colls.runs.find? fun r => r.job = m.job && r.step = m.step && (CollParams.parse r.block).collId = m.collId && r.started.isSome with
    | some r => s'.collMatch r m
    | none =>
      if s.colls.heldIds.contains (m.job, m.step, m.collId) || s.colls.heldIds.length < 16 then
        s'.setColls { s'.colls with held := s'.colls.held ++ [m] }
      else s

/-! ### Completion (R470, R472, R478) -/

/-- Destination and residual bytes as runs of consecutive elements. -/
def elemRuns (base w : Nat) : List (Nat × Nat) → List (Nat × List Byte)
  | [] => []
  | (i, v) :: r => match elemRuns base w r with
    | (a, bs) :: rest => if a = base + (i + 1) * w then (base + i * w, leBytes w v ++ bs) :: rest else (base + i * w, leBytes w v) :: (a, bs) :: rest
    | [] => [(base + i * w, leBytes w v)]

/-- Destination indices a member writes (Table 16.3, R476). -/
def CollParams.written (p : CollParams) (n me : Nat) (masked : Nat → Bool) : List Nat :=
  let c := p.count / n
  match p.op with
  | 1 => (unmasked masked p (me * c) (me * c + c)).map fun e => e - me * c
  | 2 => (List.range n).flatMap fun j => (unmasked masked p 0 c).map fun e => j * c + e
  | 5 => (List.range n).flatMap fun j => (unmasked masked p (me * c) (me * c + c)).map fun e => j * c + e % c
  | _ => unmasked masked p 0 p.count

/-- COLL_DONE: everything has arrived; the destination and the residuals are written and the task's unit has finished
(R472, R478). -/
def execCollDone (graph : Fin 8) (task : Nat) (s : State) : Host.Outcome State Fault Refusal :=
  let g := graph.val
  match s.unitTask g task 3, s.collRun g task with
  | some (_, ts, _), some r =>
    let p := CollParams.parse r.block
    let l := s.collGroup p.axes
    let n := l.length
    let me := s.rankIn l
    let want := p.expected n me ++ if p.op = 3 then p.expectedGather n me else []
    if r.started.isNone || !(want.all fun x => r.got.contains x) || s.power.supply ≠ .on || s.hbmHeld then .next s
    else
      let ws := elemRuns p.dst p.ds ((p.written n me (s.collMask r)).map fun i => (i, r.out.get 0 i)) ++ elemRuns p.res 2 r.resid
      match s.taskWrites g task r.job ts.tags ws with
      | .ok s => .next (((s.dropColl g task).countColl r.job fun c => { c with done := c.done + 1 }).modTask g task fun x => { x with unitDone := true })
      | .err a q => .next ((s.dropColl g task).unitAddress 4 g task ts.tags a q)
      | .fault _ va _ _ => .next ((s.dropColl g task).unitAddress 4 g task ts.tags va false)
      | .remote _ _ _ => .next s
  | _, _ => .next s

/-- COLL_TIMEOUT: a collective has not completed within its TIMEOUT (R470). -/
def execCollTimeout (graph : Fin 8) (task : Nat) (s : State) : Host.Outcome State Fault Refusal :=
  match s.unitTask graph.val task 3, s.collRun graph.val task with
  | some _, some r =>
    if r.started.isNone then .next s
    else .next (((s.dropColl graph.val task).countColl r.job fun c => { c with timeouts := c.timeouts + 1 }).failTask graph.val task 0x2E)
  | _, _ => .next s

/-- A lost or unreachable member ends every collective with it (R471). -/
def State.loseColls (s : State) (part : Nat) : State :=
  s.colls.runs.foldl (fun (s : State) (r : CollRun) =>
    if r.started.isSome && (s.collGroup (CollParams.parse r.block).axes).contains part then
      (s.dropColl r.graph r.task).failTask r.graph r.task 0x07
    else s) s

/-- COLL_STATUS (R486). -/
def execCollStatus (h : CmdHdr) (clear : W64) (s : State) : Host.Outcome State Fault Refusal :=
  command 0x0722 1 true h s fun c s =>
    if !(inRange clear 0 1) then s.reply c stInvalid []
    else
      let x := s.colls.counts.get {} h.job.toNat
      let s := if clear = 1 then s.countColl h.job fun _ => {} else s
      s.reply c stOk ([x.done, x.mismatches, x.timeouts, x.sent, x.received].map fun n => BitVec.ofNat 64 n)

/-! ### GMASK_CLEAR and GMASK_BIND (R332, R334) -/

/-- Whether a task is queued, held on its way to its unit, or not yet done there. -/
def queuedOrRuns (ts : TaskSt) : Bool :=
  match ts.st with
  | .ready | .waitLayout | .faultHeld _ => true
  | .running => !ts.unitDone
  | _ => false

/-- Tasks of a kind that are queued, held or running: handle, index, graph and record. -/
def State.tasksOfKind (s : State) (kind : Byte) : List (Nat × Nat × Graph × TaskRec) :=
  s.residents.flatMap fun p => ((List.range p.2.tasks.length).zip (p.2.tasks.zip p.2.recs)).filterMap fun e =>
    if e.2.2.kind = kind && (queuedOrRuns e.2.1) then some (p.1, e.1, p.2, e.2.2) else none

/-- Whether one of a job's queued or running tasks of a kind names something. -/
def State.anyNames (s : State) (kind job : Byte) (names : Nat × Nat × Graph × TaskRec → Acc Bool) : Acc Bool :=
  ((s.tasksOfKind kind).filter fun q => q.2.2.1.hdr.job = job).foldr
    (fun q acc => accBind (names q) fun b => accMap (b || ·) acc) (.ok false)

/-- Go on with a command on what no task names: BUSY otherwise; what is read on another part arrives first, and what cannot
be read ends the command with ADDRESS (R269, R334). -/
def State.unlessBusy (s : State) (c : Cmd) (job : Byte) (busy : Acc Bool) (k : State → State) : State :=
  match busy with
  | .ok true => (s.dropHub job).reply c stBusy []
  | .ok false => k (s.dropHub job)
  | .remote v pa n => (s.parkCmd c).hubFetch job v pa n
  | .err a p => ((s.dropHub job).accessFault 4 p a 0).reply c stAddress []
  | .fault _ _ _ _ => (s.dropHub job).reply c stAddress []

/-- Whether a collective task names a mask: by the block the engine read, or by the block in memory (R334). -/
def State.collNames (s : State) (mid : Nat) (q : Nat × Nat × Graph × TaskRec) : Acc Bool :=
  match s.collRun q.1 q.2.1 with
  | some r => .ok ((CollParams.parse r.block).mid = mid)
  | none => accMap (fun b => (CollParams.parse b).mid = mid) (s.hubRead q.2.2.1.hdr.job q.2.2.2.body.toNat 64)

/-- Whether a reduction that names a job's mask is queued or running (R334). -/
def State.maskNamed (s : State) (job : Byte) (mid : Nat) : Acc Bool := s.anyNames 3 job (s.collNames mid)

/-- Whether a Till command of a group bound to a mask is queued or running (R334). -/
def State.maskBusy (s : State) (mid : Nat) : Bool := s.till.groups.any fun g => g.mask = some mid && s.groupBusy g.gid

/-- GMASK_CLEAR (R334, Table 11.9). -/
def execGmaskClear (h : CmdHdr) (mid : W64) (s : State) : Host.Outcome State Fault Refusal :=
  command 0x0641 1 true h s fun c s =>
    if !((s.mask mid.toNat).any fun m => m.job = h.job) then s.reply c stInvalid []
    else if s.maskBusy mid.toNat then s.reply c stBusy []
    else s.unlessBusy c h.job (s.maskNamed h.job mid.toNat) fun s =>
      let s : State := { s with masks := s.masks.filter fun m => m.mid ≠ mid.toNat }
      (s.setTill { s.till with groups := s.till.groups.map fun g => if g.mask = some mid.toNat then { g with mask := none } else g }).reply c stOk []

/-- GMASK_BIND (R332, R334). -/
def execGmaskBind (h : CmdHdr) (gid mid : W64) (s : State) : Host.Outcome State Fault Refusal :=
  command 0x0642 2 true h s fun c s =>
    match s.jobGroup h.job gid with
    | none => s.reply c stInvalid []
    | some g =>
      let m := s.mask mid.toNat
      if mid ≠ 0xFF && !(m.any fun m => m.job = h.job && g.base + g.nelem ≤ m.rows * m.cols) then s.reply c stInvalid []
      else if s.groupBusy g.gid then s.reply c stBusy []
      else s.unlessBusy c h.job (((if mid = 0xFF then g.mask else some mid.toNat).map (s.maskNamed h.job)).getD (.ok false)) fun s =>
        (s.modGroup g.gid fun g => { g with mask := if mid = 0xFF then none else some mid.toNat }).reply c stOk []

end Sys2Proof.Machine
end

