-- ==== Sys2Proof/Machine/Boundary.lean ====
section
/-! DEFINITION. The end of a graph's boundary work (R614, R85, R87, R345): the capture is completed, a replay answers,
and the graph ends or holds its next start. -/

namespace Sys2Proof.Machine

def State.setReplica (s : State) (v : Replica) : State := { s with replica := v }

/-- Whether a job has a pair set. -/
def State.pairOf (s : State) (job : Byte) : Option PairCfg := s.replica.pairs.find? fun p => p.job = job

/-- END regions whose digests differ from a record's, as a mask (R345). -/
def State.endMask (s : State) (c : ReplayCfg) (i : Nat) : Nat :=
  let ends := s.regDigests c (·.end_)
  ((List.range ends.length).filter fun r => ((c.regions[r]?).any (·.end_)) && s.recBytes c i (0x500 + 96 * r + 48) 48 ≠ padTo 48 (ends.getD r [])).foldl
    (fun n r => n + 2 ^ r) 0

/-- A replayed step is over: REPLAYED with the handle and the difference set (R345). -/
def State.replayDone (s : State) (g : Nat) : State :=
  match s.replay.runs.find? fun r => r.graph = g with
  | none => s
  | some r =>
    let s := s.setReplay { s.replay with runs := s.replay.runs.filter fun x => x.graph ≠ g }
    let (w, m) : Nat × Nat := match s.replay.cfgs.find? fun c => c.job = r.job && c.hall = r.hall && r.record < c.count with
      | some c => (if !r.noupdate && s.recBytes c r.record 0xB0 48 ≠ padTo 48 (s.weightDigest r.job) then 1 else 0, s.endMask c r.record)
      | none => (0, 0)
    s.replyWaiting (.replay r.job) 0x12 [BitVec.ofNat 64 g, BitVec.ofNat 64 w, BitVec.ofNat 64 m]

/-- Steps that a graph has done once step `step` is. -/
def Graph.doneBy (gr : Graph) (step : W32) : Nat := (step - gr.hdr.stepFirst).toNat + 1

/-- The boundary's work is done: the capture is completed, the pair's master pulses SYNC_OUT, and the graph ends or waits
for its next start. A rolled-back step is none of STEP_COUNT's (R74, R87, R614, R621). -/
def State.closeBoundary (s : State) (g : Nat) (rolled : Bool) : State :=
  match s.graph g with
  | none => s
  | some gr =>
    let s := if (s.endRuns g gr.hdr.job).isEmpty then s else s.readErrors gr.hdr.job (s.endRuns g gr.hdr.job)
    let s := ((s.captureEnd g).replayDone g).dropHub gr.hdr.job
    if gr.phase ≠ .boundary then s
    else
      let s := if gr.hdr.syncMaster && gr.hdr.syncMode.toNat ≥ 2 && (s.pairOf gr.hdr.job).isSome then s.send .syncOut else s
      let s := s.modGraph g fun x => { x with boundaryWork := false, stepsDone := if rolled then x.stepsDone else x.doneBy x.step }
      match gr.atStepEnd with
      | some c => s.failGraph g c.status c.param
      | none => if !rolled && gr.hdr.stepCount ≠ 0 && gr.doneBy gr.step ≥ gr.hdr.stepCount then s.failGraph g 0x20 0 else s

/-- The end of the boundary's work waits until what the capture and the replay read of other parts has arrived. -/
def State.finishBoundary (s : State) (g : Nat) (rolled : Bool) : State :=
  match s.graph g with
  | none => s
  | some gr =>
    match s.firstAway gr.hdr.job (s.endRuns g gr.hdr.job) with
    | some (va, pa, n) => (s.modGraph g fun x => { x with finishing := some rolled }).hubFetch gr.hdr.job va pa n
    | none => (s.modGraph g fun x => { x with finishing := none }).closeBoundary g rolled

end Sys2Proof.Machine
end

