-- ==== Sys2Proof/Machine/Replica.lean ====
section
/-! DEFINITION. Replica comparison, snapshots, rollback and the exchange of a mirrored pair (R613 to R625). -/

namespace Sys2Proof.Machine

/-! ### Tables -/

def State.replicaOf (s : State) (job : Byte) : Option ReplicaCfg := s.replica.cfgs.find? fun c => c.job = job
def State.modReplica (s : State) (job : Byte) (f : ReplicaCfg → ReplicaCfg) : State :=
  s.setReplica { s.replica with cfgs := s.replica.cfgs.map fun c => if c.job = job then f c else c }
def State.modPair (s : State) (job : Byte) (f : PairCfg → PairCfg) : State :=
  s.setReplica { s.replica with pairs := s.replica.pairs.map fun p => if p.job = job then f p else p }
def State.workOf (s : State) (job : Byte) : Option Boundary := s.replica.works.find? fun w => w.job = job
def State.putWork (s : State) (w : Boundary) : State :=
  s.setReplica { s.replica with works := s.replica.works.map fun x => if x.job = w.job then w else x }
def State.dropWork (s : State) (job : Byte) : State :=
  s.setReplica { s.replica with works := s.replica.works.filter fun x => x.job ≠ job }

/-- Blocks of a group (R319). -/
def TillGroup.blocks (g : TillGroup) : Nat := cdiv g.units 32

/-- The digest tables of a job's groups in ascending GID (Table 10.7, R615, R622). -/
def State.digestTables (s : State) (job : Byte) : Acc (List (TillGroup × List Byte)) :=
  (s.jobGroups job).foldr (fun g acc => accBind (s.hubRead job g.digest g.digestSize) fun b => accBind acc fun l => .ok ((g, b) :: l)) (.ok [])

/-- What a member sends of a group: its registration, then each block's fast digest and mark (R612, R613, R615). -/
def groupTable (g : TillGroup) (t : List Byte) : List Byte :=
  leBytes 2 g.gid ++ [BitVec.ofNat 8 ((if g.classM then 1 else 0) + if g.mxfp8 then 2 else 0)] ++ List.replicate 5 0 ++ leBytes 8 g.nelem
    ++ leBytes 8 g.base ++ (List.range g.blocks).flatMap fun b => (t.drop (0x40 + 8 * b)).take 8 ++ [if g.diffBlocks.contains b then 1 else 0]

/-- Group, block, digest and mark of every block of a member's table. -/
def tableBlocks : List TillGroup → List Byte → List (Nat × Nat × Nat × Bool)
  | [], _ => []
  | g :: gs, bs =>
    ((List.range g.blocks).map fun b => (g.gid, b, leAt bs (24 + 9 * b) 8, decide (leAt bs (32 + 9 * b) 1 = 1))) ++ tableBlocks gs (bs.drop (24 + 9 * g.blocks))

/-- The registrations of a table, in the form of the member that reads it. -/
def tableHeads : List TillGroup → List Byte → List (List Byte)
  | [], bs => [bs]
  | g :: gs, bs => bs.take 24 :: tableHeads gs (bs.drop (24 + 9 * g.blocks))

/-! ### Votes (R615, R616) -/

/-- What the members' copies of a block give. -/
inductive Vote where
  | agree
  /-- The value, the rank that holds it, and the ranks to be repaired. -/
  | repair (v holder : Nat) (ranks : List Nat)
  | split
  deriving DecidableEq, Repr

/-- The value that more than half of the copies hold. -/
def majority (l : List (Nat × Bool)) : Option Nat := (l.map (·.1)).find? fun v => 2 * (l.filter fun x => x.1 = v).length > l.length

/-- The vote over a block's copies in rank order. -/
def vote (l : List (Nat × Bool)) : Vote :=
  match l with
  | [] => .agree
  | [_] => .agree
  | [a, b] =>
    if a.2 && !b.2 then .repair b.1 1 [0]
    else if b.2 && !a.2 then .repair a.1 0 [1]
    else if a.1 ≠ b.1 || a.2 then .split else .agree
  | _ =>
    match majority l with
    | none => .split
    | some v =>
      let idx := (List.range l.length).zip l
      let bad := (idx.filter fun e => e.2.1 ≠ v || e.2.2).map (·.1)
      if bad.isEmpty then .agree
      else match idx.find? fun e => e.2.1 = v && !e.2.2 with
        | some h => .repair v h.1 bad
        | none => .split

/-! ### Collectives of the J5's own (R615, R618) -/

/-- The reserved COLL_IDs: the two all-gathers, and the outcome (DESIGN CHOICE, log entry 22). -/
def gatherId (round : Nat) : W32 := if round = 1 then 0xFFFFFFFE else 0xFFFFFFFD
def outcomeId : W32 := 0xFFFFFFFF

/-- Tags of a job's own traffic at a boundary: its current epochs. -/
def jobTags (job : Byte) (wepoch lepoch : W16) : W64 :=
  job.setWidth 64 ||| (wepoch.setWidth 64 <<< 8) ||| (lepoch.setWidth 64 <<< 24) ||| ((0xFFFF : W64) <<< 40)
def State.boundaryTags (s : State) (job : Byte) : W64 := jobTags job (s.epochOf job) (s.layoutEpoch.get 0 job.toNat)

/-- The replica group of a configuration, in rank order (R613). -/
def State.replicaGroup (s : State) (c : ReplicaCfg) : List Nat := s.collGroup c.axes

/-- Send one of the J5's own messages to every other part of a list, 1,024 bytes a packet. -/
def State.sendOwn (s : State) (w : Boundary) (parts : List Nat) (id : W32) (bytes : List Byte) : State :=
  let msg := fun (i : Nat) =>
    ({ job := w.job, step := w.step, collId := id, rank := s.rankIn parts, tags := s.boundaryTags w.job, params := leBytes 4 bytes.length,
       first := i * 1024, data := (bytes.drop (i * 1024)).take 1024 } : CollMsg)
  (parts.filter fun p => p ≠ s.partNo).foldl (fun (s : State) (p : Nat) =>
    (List.range (max 1 (cdiv bytes.length 1024))).foldl (fun (s : State) (i : Nat) => s.sendColl p (msg i)) s) s

/-- Take the held messages of one of them. -/
def State.takeOwn (s : State) (w : Boundary) (id : W32) : List CollMsg × State :=
  let mine := fun (m : CollMsg) => m.job = w.job && m.step = w.step && m.collId = id
  (s.colls.held.filter mine, s.setColls { s.colls with held := s.colls.held.filter fun m => !(mine m) })

/-- Bytes of a rank's table received so far. -/
def Boundary.gotOf (w : Boundary) (r : Nat) : Nat := (w.pieces.filter fun p => p.1 = r).foldl (fun n p => n + p.2.2.length) 0
/-- A rank's table, once it is whole. -/
def Boundary.tableOf (w : Boundary) (r : Nat) : List Byte :=
  let ps := (w.pieces.filter fun p => p.1 = r).foldl (fun m p => Memory.write m p.2.1 p.2.2) ([] : Memory)
  ps.read 0 (w.lengths.get 0 r)
/-- Whether every one of `n` tables is whole. -/
def Boundary.gathered (w : Boundary) (n : Nat) : Bool := (List.range n).all fun r => w.lengths.get 0 r ≠ 0 && w.gotOf r ≥ w.lengths.get 0 r - 1

/-! ### Repair (R615, R617) -/

/-- Where a hub unit keeps what it read of another part by physical address. -/
def physVa (pa : Nat) : Nat := 2 ^ 58 + pa

/-- The 2 KiB chunks of the units of a block: own address and the holder's, which lies at the same local offset (DEDUCED, log
entry 23). -/
def State.repairChunks (s : State) (g : TillGroup) (r : Repair_) : List Nat :=
  (List.range (min 32 (g.units - 32 * r.blk))).flatMap fun i =>
    match s.walk g.job .read (g.unitVa (32 * r.blk + i)) with
    | .page pa _ _ => (List.range 32).map fun k => r.holder * 2 ^ 44 + pa % 2 ^ 44 + 2048 * k
    | _ => []

/-- Write the fetched units of a block whole, recompute their digests and the table (R615, R318 to R321). -/
def State.applyRepair (s : State) (g : TillGroup) (r : Repair_) (chunks : List Nat) : Acc State :=
  let buf := (s.hubBuf g.job).buf
  let units := (List.range (min 32 (g.units - 32 * r.blk))).map fun i =>
    (32 * r.blk + i, ((chunks.drop (32 * i)).take 32).flatMap fun a => buf.read (physVa a) 2048)
  accBind (units.foldl (fun (acc : Acc State) u => accBind acc fun s =>
      accBind (s.vwrite g.job (g.unitVa u.1) (u.2.take 16 ++ unitDigest u.2 ++ u.2.drop 64)) fun p => .ok p.1) (.ok s)) fun s =>
    .ok ((s.modGroup g.gid fun x => { x with diffBlocks := x.diffBlocks.filter fun b => b ≠ r.blk }).writeDigests g g.tableStep)

/-- The fast digest of a block as its unit headers now give it. -/
def State.blockDigest (s : State) (g : TillGroup) (blk : Nat) : Option Nat :=
  match s.unitDigests g with
  | .ok ds => some (fastDigest ((ds.drop (32 * blk)).take 32))
  | _ => none

/-- The detail of a record that names a block. -/
def blockDetail (gid blk : Nat) : W64 := BitVec.ofNat 64 (gid + blk * 65536)

/-! ### Snapshot and rollback (R618, R619) -/

/-- Bytes of a job's group areas below a group in ascending GID. -/
def State.areaBefore (s : State) (job : Byte) (gid : Nat) : Nat :=
  ((s.jobGroups job).filter fun g => g.gid < gid).foldl (fun n g => n + g.units * 65536) 0
/-- Bytes of all of a job's group areas. -/
def State.areaTotal (s : State) (job : Byte) : Nat := s.areaBefore job 4096
/-- Bytes of a configuration's regions. -/
def regionTotal (l : List Region_) : Nat := l.foldl (fun n r => n + r.len) 0

/-- Copy bytes of a job's space in 64 KiB pieces; a piece that cannot be read or written leaves an ADDRESS record. -/
def State.copySpace (s : State) (job : Byte) (src dst : Nat) : Nat → State
  | 0 => s
  | n + 1 =>
    let s' : State := match s.hubRead job src 65536 with
      | .ok b => (match s.vwrite job dst b with
        | .ok (s, away) => s.remoteWrites (.posted job) 0 false away
        | .err a p => s.accessFault 4 p a 0
        | _ => s.accessFault 4 false dst 0)
      | .err a p => s.accessFault 4 p a 0
      | _ => s.accessFault 4 false src 0
    s'.copySpace job (src + 65536) (dst + 65536) n

/-- Copy the regions between their places and the snapshot. -/
def State.copyRegions (s : State) (job : Byte) (save : Bool) : List Region_ → Nat → State
  | [], _ => s
  | r :: rs, a =>
    let s := if save then s.copySpace job r.va a (r.len / 65536) else s.copySpace job a r.va (r.len / 65536)
    s.copyRegions job save rs (a + r.len)

/-- Write bytes to a snapshot. -/
def State.snapWrite (s : State) (job : Byte) (va : Nat) (bs : List Byte) : State :=
  match s.vwrite job va bs with
  | .ok (s, away) => s.remoteWrites (.posted job) 0 false away
  | .err a p => s.accessFault 4 p a 0
  | _ => s.accessFault 4 false va 0

/-- The snapshot of outcome 0: regions and counters now, the group areas during the next step (R618). -/
def State.takeSnapshot_ (s : State) (c : ReplicaCfg) (step : W32) : State :=
  let a := c.snapVa + s.areaTotal c.job
  let s := s.copyRegions c.job true c.regions a
  let counters := (List.range c.ncnt).flatMap fun i => leBytes 8 (s.counter (BitVec.ofNat 16 (c.first + i))).toNat
  let s := s.snapWrite c.job (a + regionTotal c.regions) counters
  let gids := (s.jobGroups c.job).map (·.gid)
  let s := s.setTill { s.till with copying := (s.till.copying.filter fun g => !(gids.contains g)) ++ gids }
  s.modReplica c.job fun x => { x with snapStep := some step, lastStep := step, lastAgreed := step, rolledAt := none }

/-- A counter takes its recorded value: signalled, or set for a barrier with its open generation (R619). -/
def State.restoreCounter (s : State) (i : W16) (v : W64) : State :=
  match s.bell.barriers.find? fun b => b.index = i with
  | some b => s.setBell { s.bell with
      counters := s.bell.counters.set 0 i.toNat v
      barriers := s.bell.barriers.map fun x => if x.index = i then { x with openGen := BitVec.ofNat 64 (v.toNat / b.n + 1), releasing := none, acks := 0, pendingHalls := 0 } else x }
  | none => s.signalAt s.partNo i v

/-- The restore of outcome 1 (R619): areas and regions, digest tables with the snapshot's STEP, and the counters. A group
whose copy had not been made yet still holds its snapshot. -/
def State.restore (s : State) (c : ReplicaCfg) (step : W32) : State :=
  let s := (s.jobGroups c.job).foldl (fun (s : State) (g : TillGroup) =>
    if s.till.copying.contains g.gid then s
    else (s.copySpace c.job (c.snapVa + s.areaBefore c.job g.gid) g.area g.units).writeDigests g step) s
  let a := c.snapVa + s.areaTotal c.job
  let s := s.copyRegions c.job false c.regions a
  match s.hubRead c.job (a + regionTotal c.regions) (8 * c.ncnt) with
  | .ok b => (List.range c.ncnt).foldl (fun (s : State) (i : Nat) =>
      s.restoreCounter (BitVec.ofNat 16 (c.first + i)) (BitVec.ofNat 64 (leAt b (8 * i) 8))) (s.resetCounters c.first (c.first + c.ncnt))
  | _ => s.accessFault 4 false a 0

/-- A record of the replica unit (UTYPE 11). -/
def State.replicaFault (s : State) (job : Byte) (cls : FaultClass) (action : Byte) (detail : W64) : State :=
  s.partFault cls 11 action 0 (s.boundaryTags job) detail

/-- The domain's outcome takes effect (R618 to R620). -/
def State.takeOutcome (s : State) (w : Boundary) (c : ReplicaCfg) (o : Nat) : State :=
  let s := s.dropWork w.job
  let persist := fun (s : State) =>
    ((s.modReplica w.job fun x => { x with lastStep := w.step }).replicaFault w.job .replicaPersistent 7 0).failGraph w.graph 0x09 0
  if o = 0 then (s.takeSnapshot_ c w.step).finishBoundary w.graph false
  else if o = 1 then
    match c.snapStep with
    | none => persist s
    | some k =>
      if c.rolledAt = some w.step then persist s
      else
        let s := s.restore c k
        let s := s.modReplica w.job fun x => { x with lastStep := w.step, rollbacks := x.rollbacks + 1, rolledAt := some w.step }
        let s := s.replicaFault w.job .rollback 9 ((k + 1).setWidth 64)
        let s := s.finishBoundary w.graph true
        s.modGraph w.graph fun x => if x.phase = .boundary then { x with step := k, resumeHold := true, stepsDone := x.doneBy k } else x
  else persist s

/-! ### The work, stage by stage (R614 to R618, R622) -/

/-- A group that differs without a majority: class W is rolled back, class M re-derived (R616). -/
def State.rederive (s : State) (gid : Nat) : State :=
  match s.tillGroup gid with
  | some g =>
    if g.classM then
      (s.tillPost { src := s.partNo, bytes := padTo 128 ([2, 0] ++ leBytes 2 gid ++ leBytes 4 g.step.toNat ++ leBytes 8 (jobTags g.job g.wepoch g.lepoch).toNat) }).modReplica
        g.job fun c => { c with rederived := c.rederived + 1 }
    else s
  | none => s

/-- Whether a group is of class M. -/
def State.isClassM (s : State) (gid : Nat) : Bool := (s.tillGroup gid).any (·.classM)

/-- After the repairs: REDERIVE of the split groups, or the next comparison. -/
def State.splitsNext (s : State) (w : Boundary) : State :=
  let ms := w.splits.filter s.isClassM
  let w := if ms.length < w.splits.length then { w with outcome := max w.outcome 1 } else w
  if ms.isEmpty then s.putWork { w with stage := if w.pair then .outcome else .exchange, pair := true, round := 1, splits := [] }
  else (ms.foldl State.rederive s).putWork { w with stage := .rederive, splits := ms }

/-- The vote over round `w.round` of the all-gather (R613, R615, R616). -/
def State.judge (s : State) (w : Boundary) (c : ReplicaCfg) : State :=
  let parts := s.replicaGroup c
  let me := s.rankIn parts
  let gs := s.jobGroups w.job
  let tables := (List.range parts.length).map w.tableOf
  let own := tables.getD me []
  if tables.any fun t => tableHeads gs t ≠ tableHeads gs own then s.putWork { w with outcome := 2, stage := .outcome, splits := [], pieces := [], lengths := [] }
  else
    let cols := tables.map (tableBlocks gs)
    let blocks := (List.range (tableBlocks gs own).length).map fun i =>
      let e := (tableBlocks gs own).getD i (0, 0, 0, false)
      (e.1, e.2.1, cols.map fun col => ((col.getD i (0, 0, 0, false)).2.2.1, (col.getD i (0, 0, 0, false)).2.2.2))
    if w.round = 1 then
      let reps := blocks.filterMap fun b => match vote b.2.2 with
        | .repair v h ranks => if ranks.contains me then some ({ gid := b.1, blk := b.2.1, holder := parts.getD h 0, value := v } : Repair_) else none
        | _ => none
      let splits := (blocks.filterMap fun b => if vote b.2.2 = .split then some b.1 else none).eraseDups
      s.putWork { w with repairs := reps, splits := splits, stage := .repair, pieces := [], lengths := [] }
    else
      let still := w.splits.any fun g => blocks.any fun b => b.1 = g && (b.2.2.map (·.1)).eraseDups.length > 1
      let s := if still then s else s.replicaFault w.job .replicaRederived 8 (BitVec.ofNat 64 (w.splits.headD 0))
      s.putWork { w with outcome := if still then max w.outcome 1 else w.outcome, stage := .exchange, pair := true, round := 1,
                         splits := [], pieces := [], lengths := [] }

/-- The differing groups of two concatenations of digest tables: FAST words are compared (R622). -/
def pairDiffers : List (TillGroup × List Byte) → List W64 → List Nat
  | [], _ => []
  | (g, t) :: r, ws =>
    let n := 8 + g.blocks
    let own := (List.range g.blocks).map fun b => leAt t (0x40 + 8 * b) 8
    let other := (List.range g.blocks).map fun b => (ws.getD (8 + b) 0).toNat
    (if own ≠ other then [g.gid] else []) ++ pairDiffers r (ws.drop n)

/-- The counterpart's table is compared with this part's (R616, R622). -/
def State.judgePair (s : State) (w : Boundary) (ts : List (TillGroup × List Byte)) (ws : List W64) : State :=
  let s := s.modPair w.job fun p => { p with lastStep := w.step }
  let diff := pairDiffers ts ws
  let w := if ws.length ≠ (ts.foldl (fun n t => n + 8 + t.1.blocks) 0) then { w with outcome := 2 } else w
  if w.round = 1 then s.splitsNext { w with splits := diff }
  else
    let still := w.splits.any diff.contains
    let s := if still then s else s.replicaFault w.job .replicaRederived 8 (BitVec.ofNat 64 (w.splits.headD 0))
    s.putWork { w with outcome := if still then max w.outcome 1 else w.outcome, stage := .outcome, splits := [] }

/-- The counterpart of a job's pair, while it is paired. -/
def State.paired (s : State) (job : Byte) : Option PairCfg := (s.pairOf job).filter fun p => p.state = 1

/-- This part's tables go to the counterpart by RDMA WRITE (R622). -/
def State.sendTables (s : State) (p : PairCfg) (ts : List (TillGroup × List Byte)) : State :=
  s.send (.rdmaWrite p.qp p.raddr (ts.flatMap (·.2)))

/-- A table that cannot be read: an address error is persistent, bytes of another part are fetched. -/
def State.tableStop {α : Type} (s : State) (w : Boundary) (a : Acc α) : State :=
  match a with
  | .remote va pa len => s.hubFetch w.job va pa len
  | .err x p => (s.accessFault 4 p x 0).putWork { w with outcome := 2, stage := .outcome, lengths := [] }
  | .fault _ va _ _ => (s.accessFault 4 false va 0).putWork { w with outcome := 2, stage := .outcome, lengths := [] }
  | .ok _ => s

/-- One move of the boundary work; nothing when it waits. -/
def State.workStep (s : State) (w : Boundary) (c : ReplicaCfg) : State :=
  match w.stage with
  | .gather =>
    let parts := s.replicaGroup c
    let me := s.rankIn parts
    if w.lengths.get 0 me = 0 then
      match s.digestTables w.job with
      | .ok ts =>
        let t := ts.flatMap fun x => groupTable x.1 x.2
        (((s.dropHub w.job).sendOwn w parts (gatherId w.round) t)).putWork
          { w with pieces := (me, 0, t) :: w.pieces, lengths := w.lengths.set 0 me (t.length + 1) }
      | e => s.tableStop w e
    else
      let (ms, s) := s.takeOwn w (gatherId w.round)
      let w := ms.foldl (fun (w : Boundary) (m : CollMsg) =>
        { w with pieces := w.pieces ++ [(m.rank, m.first, m.data)], lengths := w.lengths.set 0 m.rank (leAt m.params 0 4 + 1) }) w
      let s := s.putWork w
      if w.gathered parts.length then s.judge { w with lengths := w.lengths.map fun x => (x.1, x.2 - 1) } c else s
  | .repair =>
    (match w.repairs with
    | [] => s.splitsNext w
    | r :: rest =>
      match s.tillGroup r.gid with
      | none => s.putWork { w with repairs := rest }
      | some g =>
        let chunks := s.repairChunks g r
        let b := s.hubBuf w.job
        if chunks.any fun a => b.errs.any fun e => e.1 = physVa a then s.putWork { w with repairs := rest, outcome := 2 }
        else match chunks.filter fun a => !(b.have_.contains (physVa a)) with
          | [] =>
            let s' := match s.applyRepair g r chunks with
              | .ok s => s
              | .err a p => s.accessFault 4 p a 0
              | _ => s
            let s' := ((s'.dropHub w.job).modReplica w.job fun c => { c with repaired := c.repaired + 1 }).replicaFault w.job .replicaRepaired 8
              (blockDetail r.gid r.blk)
            s'.putWork { w with repairs := rest, outcome := if s'.blockDigest g r.blk = some r.value then w.outcome else 2 }
          | away => away.foldl (fun (s : State) (a : Nat) => s.hubFetch w.job (physVa a) a 2048) s)
  | .rederive =>
    if w.splits.any s.groupBusy then s
    else if w.pair then
      (match s.paired w.job, s.digestTables w.job with
      | some p, .ok ts => ((s.dropHub w.job).sendTables p ts).putWork { w with stage := .exchange, round := 2, lengths := [(0, 1)] }
      | none, _ => s.putWork { w with stage := .outcome, splits := [] }
      | _, e => s.tableStop w e)
    else s.putWork { w with stage := .gather, round := 2, pieces := [], lengths := [] }
  | .exchange =>
    (match s.paired w.job, s.digestTables w.job with
    | none, _ => s.putWork { w with stage := .outcome, splits := [], lengths := [] }
    | some p, .ok ts =>
      if w.lengths.isEmpty then ((s.dropHub w.job).sendTables p ts).putWork { w with lengths := [(0, 1)] }
      else (match p.inbox.find? fun x => x.1 = w.step with
        | some x => ((s.modPair w.job fun p => { p with inbox := p.inbox.erase x }).judgePair { w with lengths := [] } ts x.2)
        | none => s)
    | _, e => s.tableStop w e)
  | .outcome =>
    let parts := s.domainParts
    if w.lengths.isEmpty then (s.sendOwn w parts outcomeId [BitVec.ofNat 8 w.outcome]).putWork { w with lengths := [(0, 1)] }
    else
      let (ms, s) := s.takeOwn w outcomeId
      let outs := w.outcomes ++ ms.map fun m => (m.rank, leAt m.data 0 1)
      let s := s.putWork { w with outcomes := outs }
      if (outs.map (·.1)).eraseDups.length + 1 ≥ parts.length then
        s.takeOutcome w c ((outs.map (·.2)).foldl max w.outcome)
      else s

/-- Moves of the work while it goes on. -/
def pumpWork (job : Byte) : Nat → State → State
  | 0, s => s
  | n + 1, s =>
    match s.workOf job, s.replicaOf job with
    | some w, some c =>
      if !((s.graph w.graph).any fun gr => gr.phase = .boundary) then s.dropWork job
      else
        let s' := s.workStep w c
        if s'.workOf job = some w then s' else pumpWork job n s'
    | some _, none => s.dropWork job
    | none, _ => s

/-- The work of a job goes as far as it can. -/
def State.pumpBoundary (s : State) (job : Byte) : State :=
  match s.workOf job with
  | some w => pumpWork job (w.repairs.length + 4096) s
  | none => s

/-- Work of every job. -/
def State.pumpBoundaries (s : State) : State := s.replica.works.foldl (fun (s : State) (w : Boundary) => s.pumpBoundary w.job) s

/-- A step's sweep is over: its comparison, where one is due, or the end of its boundary (R614). -/
def State.startBoundary (s : State) (g : Nat) : State :=
  match s.graph g with
  | none => s
  | some gr =>
    let job := gr.hdr.job
    match s.replicaOf job with
    | some c =>
      if c.graph = g && gr.doneBy gr.step % c.k = 0 && !(s.replay.runs.any fun r => r.graph = g) then
        let w : Boundary := { job := job, graph := g, step := gr.step }
        ((s.dropWork job).setReplica { (s.dropWork job).replica with works := (s.dropWork job).replica.works ++ [w] }).pumpBoundary job
      else s.finishBoundary g false
    | none => s.finishBoundary g false

end Sys2Proof.Machine
end

