-- ==== Sys2Proof/Machine/ReplicaCmds.lean ====
section
/-! DEFINITION. The commands and events of replicas and the mirrored pair (Table 22.5, R618 to R625), and COLL. -/

namespace Sys2Proof.Machine

/-! ### Regions (R340) -/

/-- The region entries of a list. -/
def parseRegions : Nat → List Byte → List Region_
  | 0, _ => []
  | n + 1, b => { va := leAt b 0 8, len := leAt b 8 6, start := leAt b 14 1 % 2 = 1, end_ := leAt b 14 1 / 2 % 2 = 1 } :: parseRegions n (b.drop 16)

/-- Whether reserved bits of every entry are zero; `flags` is the largest flag byte. -/
def regionsClean (flags : Nat) : Nat → List Byte → Bool
  | 0, _ => true
  | n + 1, b => leAt b 14 1 ≤ flags && leAt b 15 1 = 0 && regionsClean flags n (b.drop 16)

/-- Whether a region is in multiples of 64 KiB and lies in this part's HBM, mapped for the job (R340). -/
def State.regionOk (s : State) (job : Byte) (r : Region_) : Bool :=
  r.va % 65536 = 0 && r.len % 65536 = 0 && (List.range (r.len / 65536)).all fun i => match s.walk job .read (r.va + i * 65536) with
    | .page pa _ _ => pa / 2 ^ 44 = s.partNo && region (pa % 2 ^ 44) = .hbm && s.mapped (pa % 2 ^ 44)
    | _ => false

/-! ### Replica commands -/

/-- REPLICA_SET: binds a comparison to a resident graph (R613, R618). -/
def execReplicaSet (h : CmdHdr) (graph axes k snap size list count first ncnt : W64) (s : State) : Host.Outcome State Fault Refusal :=
  command 0x0940 9 true h s fun c s =>
    let own := graph.toNat < 8 && (s.graph graph.toNat).any fun gr => gr.hdr.job = h.job && gr.phase ≠ .ended
    if !own || !(inRange axes 0 15) || !(inRange k 1 1000) || snap.toNat % 65536 ≠ 0 || size.toNat % 65536 ≠ 0 || !(inRange count 0 16)
        || !(inRange ncnt 0 4096) || !(inRange first 0 65535) || first.toNat + ncnt.toNat > 65536 then s.reply c stInvalid []
    else s.cmdRead c h.job list.toNat (16 * count.toNat) fun b s =>
      let rs := parseRegions count.toNat b
      let need := s.areaTotal h.job + regionTotal rs + 8 * ncnt.toNat
      if !(regionsClean 0 count.toNat b) || !(rs.all (s.regionOk h.job)) || size.toNat < need || !(s.rangeWritable h.job snap.toNat size.toNat) then
        s.reply c stInvalid []
      else if (s.replicaOf h.job).isSome then s.reply c stConflict []
      else
        let cfg : ReplicaCfg := { job := h.job, graph := graph.toNat, axes := axes.toNat, k := k.toNat, snapVa := snap.toNat,
                                  snapSize := size.toNat, regions := rs, first := first.toNat, ncnt := ncnt.toNat }
        (s.setReplica { s.replica with cfgs := s.replica.cfgs ++ [cfg] }).reply c stOk []

/-- Whether a rollback holds a job's graph (R619). -/
def State.rollbackHeld (s : State) (job : Byte) : Bool := s.residents.any fun p => p.2.hdr.job = job && p.2.phase = .boundary && p.2.resumeHold

/-- REPLICA_CLEAR (Table 22.5). -/
def execReplicaClear (h : CmdHdr) (s : State) : Host.Outcome State Fault Refusal :=
  command 0x0941 0 true h s fun c s =>
    if (s.replicaOf h.job).isNone then s.reply c stNotFound []
    else if (s.workOf h.job).isSome || s.rollbackHeld h.job then s.reply c stBusy []
    else
      let gids := (s.jobGroups h.job).map (·.gid)
      let s := s.setTill { s.till with copying := s.till.copying.filter fun g => !(gids.contains g) }
      (s.setReplica { s.replica with cfgs := s.replica.cfgs.filter fun x => x.job ≠ h.job }).reply c stOk []

/-- REPLICA_STATUS (Table 22.5). -/
def execReplicaStatus (h : CmdHdr) (s : State) : Host.Outcome State Fault Refusal :=
  command 0x0942 0 true h s fun c s =>
    let st : W64 := if s.rollbackHeld h.job then 2 else if (s.workOf h.job).isSome then 1 else 0
    match s.replicaOf h.job with
    | none => s.reply c stOk [0, 0, 0, 0, 0, st]
    | some r => s.reply c stOk [r.lastStep.setWidth 64, r.lastAgreed.setWidth 64, BitVec.ofNat 64 r.repaired, BitVec.ofNat 64 r.rederived,
        BitVec.ofNat 64 r.rollbacks, st]

/-- REPLICA_RESUME: the start that a rollback holds may follow (R619). -/
def execReplicaResume (h : CmdHdr) (s : State) : Host.Outcome State Fault Refusal :=
  command 0x0943 0 true h s fun c s =>
    if !(s.rollbackHeld h.job) then s.reply c stNotFound []
    else
      let s := s.residents.foldl (fun (s : State) (p : Nat × Graph) =>
        if p.2.hdr.job = h.job then s.modGraph p.1 fun x => { x with resumeHold := false } else s) s
      s.reply c stOk []

/-- SNAPSHOT_COPY_DONE: the lowest group whose copy is still to be made has its area in the snapshot, and its Till commands
may start (R618). -/
def execSnapshotCopyDone (job : Byte) (gid : Fin 4096) (s : State) : Host.Outcome State Fault Refusal :=
  match s.replicaOf job, (s.jobGroups job).find? fun g => s.till.copying.contains g.gid with
  | some c, some g =>
    if g.gid ≠ gid.val then .next s
    else
      let s := s.copySpace job g.area (c.snapVa + s.areaBefore job g.gid) g.units
      .next ((s.setTill { s.till with copying := s.till.copying.filter fun x => x ≠ g.gid }).pumpBoundary job)
  | _, _ => .next s

/-! ### Pair commands -/

/-- A queue pair of a job. -/
def State.jobQp (s : State) (job : Byte) (id : Nat) : Option Qp := s.fab.qps.find? fun q => q.id = id && q.job = job

/-- PAIR_SET: the exchange and, on the sync master, the heartbeats (R622, R625). -/
def execPairSet (h : CmdHdr) (role qp region raddr rkey hb0 hb1 timeout : W64) (s : State) : Host.Outcome State Fault Refusal :=
  command 0x0948 8 true h s fun c s =>
    let hbOk := (hb0 = 0xFFFF && hb1 = 0xFFFF) || (match s.jobQp h.job hb0.toNat, s.jobQp h.job hb1.toNat with
      | some a, some b => a.port ≠ b.port
      | _, _ => false)
    if !(inRange role 0 1) || (s.jobQp h.job qp.toNat).isNone || !(s.fab.mrs.any fun m => m.id = region.toNat && m.job = h.job) || !hbOk
        || !(inRange rkey 0 0xFFFFFFFF) || !(inRange timeout 1000 1000000) then s.reply c stInvalid []
    else if (s.pairOf h.job).isSome then s.reply c stConflict []
    else
      let p : PairCfg := { job := h.job, role := role.toNat, qp := qp.toNat, region := region.toNat, raddr := raddr, rkey := rkey,
                           hb0 := hb0.toNat, hb1 := hb1.toNat, timeout := timeout.toNat }
      let s := s.setReplica { s.replica with pairs := s.replica.pairs ++ [p] }
      let s := s.modReplica h.job fun x => { x with snapStep := none, rolledAt := none }
      let s := s.residents.foldl (fun (s : State) (e : Nat × Graph) =>
        if e.2.hdr.job = h.job then s.modGraph e.1 fun x => { x with pairLost := false } else s) s
      s.reply c stOk []

/-- PAIR_CLEAR (Table 22.5). -/
def execPairClear (h : CmdHdr) (s : State) : Host.Outcome State Fault Refusal :=
  command 0x0949 0 true h s fun c s =>
    if (s.pairOf h.job).isNone then s.reply c stNotFound []
    else if (s.workOf h.job).isSome then s.reply c stBusy []
    else (s.setReplica { s.replica with pairs := s.replica.pairs.filter fun x => x.job ≠ h.job }).reply c stOk []

/-- PAIR_STATUS (Table 22.5). -/
def execPairStatus (h : CmdHdr) (s : State) : Host.Outcome State Fault Refusal :=
  command 0x094A 0 true h s fun c s =>
    match s.pairOf h.job with
    | none => s.reply c stOk [0, 0, 0]
    | some p => s.reply c stOk [BitVec.ofNat 64 p.state, p.lastStep.setWidth 64, BitVec.ofNat 64 p.timeouts]

/-! ### The pair's events (R622 to R624) -/

/-- A message of a pair's own: 64 bytes whose content the spec leaves open. -/
def pairMessage (kind : Nat) : List Byte := (padTo 64 (Config.pairMessage kind)).take 64

/-- The part knows the other domain is lost: no exchange and no hold from now on (R624). -/
def State.losePair (s : State) (job : Byte) : State :=
  let s := s.modPair job fun p => { p with state := if p.state = 1 then 2 else p.state, inbox := [] }
  let s := s.residents.foldl (fun (s : State) (e : Nat × Graph) =>
    if e.2.hdr.job = job && e.2.phase ≠ .ended then s.modGraph e.1 fun x => { x with pairLost := true } else s) s
  s.pumpBoundary job

/-- The other domain is declared lost: the record, the broadcast, and what follows here (R624, Table 22.4). -/
def State.declareLost (s : State) (job : Byte) : State :=
  ((s.partFault .pairLost 11 0 0 (s.boundaryTags job) 0).send (.mgmt none (.pairLoss job))).losePair job

/-- An orderly stop or a lost part withdraws this domain from its pairs (R624). -/
def State.withdrawPairs (s : State) : State :=
  (s.replica.pairs.filter fun p => p.state = 1).foldl (fun (s : State) (p : PairCfg) =>
    ((s.send (.rdmaSend p.qp (pairMessage 1))).modPair p.job fun x => { x with state := 3 }).pumpBoundary p.job) s

/-- EXCHANGE_TABLE: the counterpart's digest tables arrive in the receive region and are compared in their turn (R622). -/
def execExchangeTable (job : Byte) (step : W32) (table : List W64) (s : State) : Host.Outcome State Fault Refusal :=
  match s.pairOf job with
  | none => .next s
  | some p =>
    let bytes := table.flatMap fun w => leBytes 8 w.toNat
    match s.fab.mrs.find? fun m => m.id = p.region with
    | none => .next s
    | some m =>
      if bytes.length > m.len then .next s
      else
        let s := s.poke m.off bytes
        if p.state = 1 then .next ((s.modPair job fun x => { x with inbox := x.inbox ++ [(step, table)] }).pumpBoundary job) else .next s

/-- EXCH_TIMEOUT: the counterpart's table has not arrived EXCH_TIMEOUT lc after the part's own write (R623). -/
def execExchTimeout (job : Byte) (s : State) : Host.Outcome State Fault Refusal :=
  match s.workOf job, s.paired job with
  | some w, some p =>
    if w.stage = .exchange && !w.lengths.isEmpty then
      .next (((s.modPair job fun x => { x with timeouts := x.timeouts + 1 }).send (.rdmaSend p.qp (pairMessage 1))).declareLost job)
    else .next s
  | _, _ => .next s

/-- HEARTBEAT_SEND: the sync master sends its heartbeat on both queue pairs (R624). -/
def execHeartbeatSend (job : Byte) (s : State) : Host.Outcome State Fault Refusal :=
  match s.paired job with
  | some p =>
    if p.hb0 = 0xFFFF then .next s
    else .next ((s.send (.rdmaSend p.hb0 (pairMessage 0))).send (.rdmaSend p.hb1 (pairMessage 0)))
  | none => .next s

/-- HEARTBEAT_LOSS: 400 µs without a heartbeat on either queue pair (R624, Table 22.4). -/
def execHeartbeatLoss (job : Byte) (s : State) : Host.Outcome State Fault Refusal :=
  match s.paired job with
  | some p => if p.hb0 = 0xFFFF then .next s else .next (s.declareLost job)
  | none => .next s

/-- WITHDRAW: a WITHDRAW of the other domain arrives (R623, R624). -/
def execWithdraw (job : Byte) (s : State) : Host.Outcome State Fault Refusal :=
  match s.paired job with
  | some _ => .next (s.declareLost job)
  | none => .next s

/-- PAIR_LOSS_BROADCAST: the master's broadcast reaches this part (R624, Table 22.4). -/
def execPairLossBroadcast (job : Byte) (s : State) : Host.Outcome State Fault Refusal :=
  match s.pairOf job with
  | some _ => .next (s.losePair job)
  | none => .next s

/-! ### COLL and TILL_COMMAND_DONE -/

/-- The port by which a packet in transit came in (R444); 8 when it set out here. -/
def State.inputOf (s : State) (p : Pkt) : Nat :=
  let src := p.src.toNat % 8192
  match [3, 2, 1, 0].find? fun ax => coordAt src ax ≠ coordAt s.partNo ax with
  | none => 8
  | some ax =>
    let z := s.axisSize ax
    let fwd := (coordAt s.partNo ax + z - coordAt src ax) % z
    if 2 * fwd ≤ z then 2 * ax + 1 else 2 * ax

/-- COLL: a collective packet lands; it belongs to a collective of a task, or to one of the J5's own (R469, R470, R472,
R615, R618). A packet for another part goes on. -/
def execColl (p : Pkt) (rank : Nat) (params : List Byte) (first : Nat) (data : List Byte) (collId : W32) (step : W32) (s : State) :
    Host.Outcome State Fault Refusal :=
  let src := p.src.toNat % 8192
  if p.type ≠ 0x08 then .next s
  else if !(pktHeaderOk p) then .next (s.dropPacket p)
  else if p.dst.toNat % 8192 ≠ s.partNo then .next (s.transmit (s.inputOf p) p)
  else if pktReplay p && s.alreadySeen src p.seq then .next s.countDrop
  else
    let m : CollMsg := { job := tagJob p.tags, step := step, collId := collId, rank := rank, tags := p.tags, params := params,
                         first := first, data := data }
    .next ((s.collArrive src p.seq m).pumpBoundary m.job)

/-- TILL_COMMAND_DONE: the command's end (R309), after which boundary work that waited for its REDERIVE goes on (R616). -/
def execTillCommandDone (s : State) : Host.Outcome State Fault Refusal := .next s.tillCommandDone.pumpBoundaries

end Sys2Proof.Machine
end

