-- ==== Sys2Proof/Machine/Sweep.lean ====
section
/-! DEFINITION. The rescale sweep (R220, R221), the cross-check verdict and widened table (R235 to R237), and the
cross-check commands (R238). -/

namespace Sys2Proof.Machine

/-! ### The sweep -/

/-- The index of the first element of every block of a scaled tensor, in block order (R133). -/
def Desc.blockIdx (d : Desc) : List (List Nat) :=
  (List.range (d.extent 4)).flatMap fun i4 => (List.range (d.extent 3)).flatMap fun i3 =>
    (List.range (d.extent 2)).flatMap fun i2 => (List.range d.blk1).flatMap fun b1 => (List.range d.blk0).map fun b0 =>
      [b0 * 32, (if d.scale = 2 then b1 * 32 else b1), i2, i3, i4]

/-- A sweep's reads use a move's buffer of fetched bytes. -/
def Sweep.move (w : Sweep) (d : W512) : Move :=
  { tok := 0, word := 0, ds := d, dd := d, os := 0, od := 0, op := 0, perm := 0, have_ := w.have_, rbuf := w.rbuf }

/-- Half of an element: round to nearest even of e / 2 in the element's format; infinities and NaN stay (R220). -/
def halveRaw (fmt raw : Nat) : Nat :=
  match fmtDecode fmt raw with
  | .fin n m e => (fmtConvert fmt (.fin n m (e - 1))).raw
  | _ => raw

/-- The rows of a block: the first index and the element count of each (R133). -/
def Desc.blockRows (d : Desc) (i : List Nat) : List (List Nat × Nat) :=
  let n0 := min 32 (d.extent 0 - i.getD 0 0)
  if d.scale = 2 then (List.range (min 32 (d.extent 1 - i.getD 1 0))).map fun r => (i.set 1 (i.getD 1 0 + r), n0)
  else [(i, n0)]

/-- Split packed raw elements. -/
def unpackRaws (b : Nat) : Nat → Nat → List Nat
  | 0, _ => []
  | n + 1, v => v % 2 ^ b :: unpackRaws b n (v / 2 ^ b)

/-- What a block's sweep did. -/
inductive Swept where
  | untouched | doubled | ceiling | cleared
  deriving DecidableEq, Repr

/-- Sweep one block: the writes, and what they do (R220, R221). -/
def sweepBlock (s : State) (w : Mover) (m : Move) (d : Desc) (i : List Nat) : Acc (List (Nat × List Byte) × Swept) :=
  let blk := d.block i
  match moveBytes s w m 2 (d.flagBase + blk / 8) 1 with
  | .ok fb =>
    let fl := ofLe fb
    if fl / 2 ^ (blk % 8) % 2 = 0 then .ok ([], .untouched)
    else
      let clear := (d.flagBase + blk / 8, leBytes 1 (fl - 2 ^ (blk % 8)))
      (match moveBytes s w m 2 (d.scaleBase + blk) 1 with
      | .ok sb =>
        let sc := ofLe sb
        if sc = 0xFF then .ok ([clear], .cleared)
        else if sc = 0xFE then .ok ([clear], .ceiling)
        else
          let b := fmtBits d.fmt
          let rows := (d.blockRows i).map fun r =>
            accMap (fun (bs : List Byte) => (d.elemBit r.1 / 8, packRaws b ((unpackRaws b r.2 (ofLe bs)).map (halveRaw d.fmt))))
              (moveBytes s w m 2 (d.elemBit r.1 / 8) (b * r.2 / 8))
          accMap (fun ws => ((d.scaleBase + blk, leBytes 1 (sc + 1)) :: ws ++ [clear], Swept.doubled)) (accAll rows)
      | .fault k v l z => .fault k v l z
      | .err a p => .err a p
      | .remote v p l => .remote v p l)
  | .fault k v l z => .fault k v l z
  | .err a p => .err a p
  | .remote v p l => .remote v p l

/-- How a tensor's sweep stopped: `acks`, for the acknowledgement of writes to another part. -/
inductive SweepStop where
  | done | failed (addr : Nat) | remote (va pa len : Nat) | acks
  deriving DecidableEq, Repr

/-- Sweep the blocks of a tensor in order; answers the count of blocks handled. -/
def sweepBlocks (h : Nat) (w : Mover) (m : Move) (d : Desc) (key : Nat) : List (List Nat) → Nat → State → State × Nat × SweepStop
  | [], n, s => (s, n, .done)
  | i :: r, n, s =>
    match sweepBlock s w (if n = m.units then m else { m with have_ := [], rbuf := [] }) d i with
    | .ok (ws, what) =>
      (match checkWrites s w ws with
      | .ok () =>
        let s := applyWrites w 2 (.sweepWrite h) s ws
        let s := match what with
          | .doubled => s.count .rescaleBlocks h 1
          | .ceiling => (s.count .scaleCeiling h 1).hallFault h .rescale 2 0 (BitVec.ofNat 16 h) 0 (BitVec.ofNat 64 key)
          | _ => s
        if s.outstanding (.sweepWrite h) then (s, n + 1, .acks) else sweepBlocks h w m d key r (n + 1) s
      | .fault _ v _ _ => (s, n, .failed v)
      | .err a _ => (s, n, .failed a)
      | .remote v p l => (s, n, .remote v p l))
    | .fault _ v _ _ => (s, n, .failed v)
    | .err a _ => (s, n, .failed a)
    | .remote v p l => (s, n, .remote v p l)

/-- A listed tensor cannot be swept to its end: the rest of it stays (R220). -/
def State.sweepFailed (s : State) (h a : Nat) : State :=
  (s.count .sweepFailed h 1).hallFault h .address 2 0 (BitVec.ofNat 16 h) 0 (BitVec.ofNat 64 a)

/-- Sweep a hall's tensors until the list ends, another part's bytes are missing or its acknowledgements are (R220, R223). Its
accesses carry no tags to check (log entry 52). -/
def sweepTensors (h : Nat) : List RescaleEntry → Sweep → State → State
  | [], _, s => { s with sweeps := s.sweeps.set none h none }
  | e :: r, w, s =>
    let d := Desc.parse e.desc
    let mv : Mover := { st := 0, job := e.job, tags := 0, chk := false }
    let m := { w.move e.desc with units := w.blk }
    match sweepBlocks h mv m d e.key (d.blockIdx.drop w.blk) w.blk s with
    | (s, _, .done) => sweepTensors h r { left := r } s
    | (s, _, .failed a) => sweepTensors h r { left := r } (s.sweepFailed h a)
    | (s, n, .acks) => { s with sweeps := s.sweeps.set none h (some { left := e :: r, blk := n }) }
    | (s, n, .remote va pa len) =>
      let w' : Sweep := { left := e :: r, blk := n, have_ := if n = w.blk then w.have_ else [], rbuf := if n = w.blk then w.rbuf else [] }
      ({ s with sweeps := s.sweeps.set none h (some w') }).remoteRead (.sweep h (BitVec.ofNat 64 va)) 0 false pa len

/-- A hall's sweep goes on. -/
def State.pumpSweep (s : State) (h : Nat) : State :=
  match s.sweeps.get none h with
  | some w => if s.outstanding (.sweepWrite h) then s else sweepTensors h w.left w s
  | none => s

/-- A write of a hall's sweep failed: the tensor's other writes release nothing, and the next tensor is swept (R220). -/
def State.sweepWriteFailed (s : State) (h a : Nat) : State :=
  match s.sweeps.get none h with
  | none => s
  | some w =>
    let job := (w.left.head?.map (·.job)).getD 0
    let s := s.setFab { s.fab with
      reqs := s.fab.reqs.map (fun r => if r.owner = .sweepWrite h then { r with owner := .posted job } else r)
      waiting := s.fab.waiting.map fun r => if r.2 = .sweepWrite h then (r.1, .posted job) else r }
    ({ s.sweepFailed h a with sweeps := s.sweeps.set none h (some { left := w.left.drop 1 }) }).pumpSweep h

/-- Insert by address. -/
def insRescale (e : RescaleEntry) : List RescaleEntry → List RescaleEntry
  | [] => [e]
  | x :: r => if e.key ≤ x.key then e :: x :: r else x :: insRescale e r

/-- At the step boundary of a graph a hall takes its list, in ascending order of address, and sweeps it (R220, Table 7.2). -/
def State.startSweep (s : State) (g h : Nat) : State :=
  let i := h * 8 + g
  let l := (s.rescale.get [] i).foldr insRescale []
  let s : State := { s with rescale := s.rescale.set [] i [], rescaleFull := s.rescaleFull &&& ~~~((1 : BitVec 32) <<< i) }
  match s.sweeps.get none h with
  | some w => { s with sweeps := s.sweeps.set none h (some { w with left := w.left ++ l }) }
  | none => ({ s with sweeps := s.sweeps.set none h (some { left := l }) }).pumpSweep h

/-- Whether every hall has swept. -/
def State.swept (s : State) : Bool := [0, 1, 2, 3].all fun h => (s.sweeps.get none h).isNone

/-! ### The check verdict (R235, R236) -/

/-- FP32 words of a byte run. -/
def words32 : Nat → List Byte → List F32
  | 0, _ => []
  | n + 1, bs => ofLe (bs.take 4) :: words32 n (bs.drop 4)

/-- The greatest of non-negative FP32 values in order. -/
def maxAbs (l : List F32) : F32 := l.foldl (fun m x => if m ≤ x then x else m) 0

/-- Whether a value is NaN or an infinity. -/
def notFinite (x : F32) : Bool := match val32 x with | .fin _ _ _ => false | _ => true

/-- ERR of a check entry, FP32 with RNE in row-major order, and whether the tile is in disagreement (R235). -/
def checkErr (xthr : Nat) (res ref : List F32) : F32 × Bool :=
  let num := maxAbs ((res.zip ref).map fun p => f32abs (f32sub p.1 p.2))
  let den := maxAbs (ref.map f32abs)
  let err := f32 ((val32 num).div (val32 den))
  let bad := (res.any notFinite) || (ref.any notFinite) || (den = 0 && res.any fun x => f32abs x ≠ 0)
    || (FVal.fin false 1 (-(xthr : Int))).lt (val32 err)
  (err, bad)

/-- A seal's disagreement count passes A: the event record and the cross-check alert, once in the step (R236). -/
def State.xchkAlert (s : State) (g : Nat) (code : W32) (accw1 : Bool) : State :=
  let x := s.xchk
  let n := x.perSeal.get 0 code.toNat + 1
  let s : State := { s with xchk := { x with perSeal := x.perSeal.set 0 code.toNat n } }
  let s := s.xchkCount x.job fun c => { c with disagreements := c.disagreements + 1 }
  let s := s.count .xchkDisagree code.toNat 1
  if n > x.alerts && !(x.raised.contains code) then
    let s : State := { s with xchk := { s.xchk with raised := code :: s.xchk.raised, alerted := if accw1 then code :: s.xchk.alerted else s.xchk.alerted } }
    let s := s.xchkCount x.job fun c => { c with alerts := c.alerts + 1 }
    (s.graphEvent g 3 0 (code.setWidth 64)).raiseAlert 2
  else if n > x.alerts && accw1 && !(x.alerted.contains code) then
    { s with xchk := { s.xchk with alerted := code :: s.xchk.alerted } }
  else s

/-- An entry of the check ring is free (R235). -/
def State.freeCheck (s : State) (h i : Nat) : State := { s with xchk := { s.xchk with used := s.xchk.used.set false (h * 4096 + i) false } }

/-- A check task completed: its entry gets ERR and VERDICT and is free once these are written (R235). The verdict waits for the bytes
of a ring page on another part. -/
def State.checkVerdict (s : State) (g : Nat) (h i : Nat) : State :=
  let x := s.xchk
  let va := x.entryVa h i
  match s.hubRead x.job va 9216 with
  | .remote v pa len => ({ s with xchk := { x with verdicts := x.verdicts ++ [(g, h, i)] } }).hubFetch x.job v pa len
  | .ok bs =>
    let s := s.dropHub x.job
    let tags : W64 := BitVec.ofNat 64 (leAt bs 8 8)
    let (err, bad) := checkErr (leAt bs 1 1) (words32 1024 (bs.drop 0x400)) (words32 1024 (bs.drop 0x1400))
    let code : W32 := BitVec.ofNat 32 (leAt bs 4 4)
    let put := fun (s : State) (a : Nat) (b : List Byte) => match s.vwrite x.job a b (.owner (.verdict h i)) with
      | .ok (s, away) => s.remoteWrites (.verdict h i) tags true away
      | _ => s.accessFault h false a tags
    let s := put (put s (va + 0x60) (leBytes 4 err)) va [if bad then 2 else 1]
    let s := if s.outstanding (.verdict h i) then s else s.freeCheck h i
    if bad then s.xchkAlert g code (leAt bs 3 1 = 1) else s
  | _ => (((s.dropHub x.job).freeCheck h i).accessFault h false va 0).xchkCount x.job fun c => { c with unchecked := c.unchecked + 1 }

/-- Verdicts whose bytes may now be there are computed (R235). -/
def State.pumpVerdicts (s : State) : State :=
  s.xchk.verdicts.foldl (fun (s : State) (v : Nat × Nat × Nat) => s.checkVerdict v.1 v.2.1 v.2.2) { s with xchk := { s.xchk with verdicts := [] } }

/-- Step 3 of Table 7.2: the seals that alerted with ACCW = 1 enter the widened table in ascending order; one beyond 256
is reported (R237). -/
def State.applyWidened (s : State) : State :=
  let ins := fun (c : W32) (l : List W32) => (l.filter fun x => x.ult c) ++ c :: l.filter fun x => c.ult x
  let new := s.xchk.alerted.foldr ins []
  let s := new.foldl (fun (s : State) (c : W32) =>
    if s.xchk.widened.contains c then s
    else if s.xchk.widened.length < 256 then { s with xchk := { s.xchk with widened := s.xchk.widened ++ [c] } }
    else s.partFault .rescale 3 0 0 0 (c.setWidth 64)) s
  { s with xchk := { s.xchk with alerted := [], raised := [], perSeal := [] } }

/-- A job's counts of the step become those of its last step (Table 7.5). -/
def State.rollXchk (s : State) (job : Byte) : State :=
  { s with xchk := { s.xchk with cur := s.xchk.cur.set {} job.toNat {}, last := s.xchk.last.set {} job.toNat (s.xchk.cur.get {} job.toNat) } }

/-! ### Commands (Table 7.5) -/

/-- XCHK_CONFIG: the check rings of the halls (R238). -/
def execXchkConfig (h : CmdHdr) (base entries entry threads alerts : W64) (s : State) : Host.Outcome State Fault Refusal :=
  command 0x0910 5 true h s fun c s =>
    if base.toNat % 4096 ≠ 0 || !(inRange entries 16 4096) || !(inRange threads 1 1024) || !(inRange alerts 0 65535) then
      s.reply c stInvalid []
    else if s.jobResident h.job || s.host.claimed .checkRing 0 then s.reply c stConflict []
    else
      let s : State := { s with xchk := { s.xchk with job := h.job, configured := true, base := base, entries := entries.toNat,
                                                      entry := entry, threads := threads.toNat, alerts := alerts.toNat, used := [] } }
      (s.claim { kind := .checkRing, index := 0, job := h.job, opcode := 0x0910 }).reply c stOk []

/-- The widened table of a job: the table is of the job whose ring is configured (R237). -/
def Xchk.widenedOf (x : Xchk) (job : Byte) : List W32 := if x.job = job then x.widened else []

/-- XCHK_STATUS: a job's counts of its last step and its widened table, which a clear empties (R237, R238). -/
def execXchkStatus (h : CmdHdr) (clear va : W64) (s : State) : Host.Outcome State Fault Refusal :=
  command 0x0911 2 true h s fun c s =>
    if !(inRange clear 0 1) then s.reply c stInvalid []
    else
      let x := s.xchk
      let l := x.last.get {} h.job.toNat
      let wide := x.widenedOf h.job
      let s : State := if clear = 1 && x.job = h.job then { s with xchk := { x with widened := [] } } else s
      s.cmdWrite c h.job va.toNat (padTo 1024 (wide.flatMap fun w => leBytes 4 w.toNat))
        [l.samples, l.unchecked, l.disagreements, l.alerts, BitVec.ofNat 64 wide.length]

end Sys2Proof.Machine
end

