-- ==== Sys2Proof/Machine/StepOver.lean ====
section
/-! DEFINITION. The end of a step (R74, R219, R220, R237, R614). -/

namespace Sys2Proof.Machine

/-- Whether every task of a graph's step has completed or been skipped (R74). -/
def Graph.stepOver (gr : Graph) : Bool := gr.tasks.all fun t => t.st = .done || t.st = .skipped

/-- Steps 2 and 3 of Table 7.2 for a graph whose boundary has swept: the widened table, an overflowed list, then the
comparison or the end of the boundary (R219, R237, R614). -/
def State.boundaryNext (s : State) (g : Nat) (gr : Graph) : State :=
  let s := (if s.xchk.ringOf gr.hdr.job then s.applyWidened else s).rollXchk gr.hdr.job
  if gr.rescaleOver then s.failGraph g 0x27 0 else s.startBoundary g

/-- Every hall has swept: the boundaries that waited for it go on. -/
def State.afterSweep (s : State) : State :=
  if !s.swept then s
  else s.residents.foldl (fun (s : State) (p : Nat × Graph) => match s.graph p.1 with
    | some gr =>
      if gr.phase = .boundary && gr.boundaryWork && gr.finishing.isNone && !(s.replica.works.any fun w => w.graph = p.1) then s.boundaryNext p.1 gr else s
    | none => s) s

/-- The step ends with its last task and verdict (R235): the rescale sweep begins in every hall, and in mode 1 the sync master pulses SYNC_OUT
(R74, R85, R220). -/
def State.checkStepEnd (s : State) (g : Nat) : State :=
  match s.graph g with
  | none => s
  | some gr =>
    if gr.phase = .running && gr.loading.isNone && gr.stepOver && !(s.xchk.verdicts.any fun v => v.1 = g) then
      let s := s.setGraph g (some { gr with phase := .boundary, boundaryWork := true, holdFrom := some s.hubLc })
      let s := if gr.hdr.syncMode = 1 && gr.hdr.syncMaster then s.send .syncOut else s
      (([0, 1, 2, 3].foldl (fun (s : State) (h : Nat) => s.startSweep g h) s).afterSweep).checkLayouts
    else s

end Sys2Proof.Machine
end

