-- ==== Sys2Proof/Machine/Submit.lean ====
section
/-! DEFINITION. The start of a step (R74, R345), the reading of a submitted graph's image (R50, Table 14.5) and the graph
commands (Table 2.5). -/

namespace Sys2Proof.Machine

/-- What a replay skips from the start of its step: micro-batches from the recorded C on, and the update task with
NOUPDATE (R345). -/
def State.replaySkips (s : State) (g : Nat) : State :=
  match s.replay.runs.find? fun r => r.graph = g, s.graph g with
  | some r, some gr =>
    let s := s.closeStep g r.c
    if r.noupdate then s.skipTasks g fun t _ => BitVec.ofNat 32 t = gr.hdr.updateTask else s
  | _, _ => s

/-! ### Steps (R74) -/

/-- A task's state at the start of a step. -/
def freshTask (r : TaskRec) : TaskSt := { preds := r.pred.toNat, tags := r.tags }

/-- A step starts: fresh counts, b = 0, nothing admitted; the roots go, then admission; a step whose every task is skipped at once
is over (R57, R68, R74, R75). -/
def State.openStep (s : State) (g : Nat) (step : W32) (expired : Bool) : State :=
  let s := s.captureStart g step
  match s.graph g with
  | none => s
  | some gr =>
    let recs := gr.recs.take gr.hdr.taskCount
    let s := s.setGraph g (some { gr with
      recs := recs, tasks := recs.map freshTask, phase := .running, step := step, completed := 0,
      admitted := 0
      admits := gr.admits.filter (fun p => p.1 = step || step.ult p.1), stamps := [], bwdDone := 0, fwdCount := [], bwdCount := [],
      closes := gr.closes.filter (fun p => step.ult p.1), closeC := none, edge := false, holdFrom := none,
      starts := gr.starts.filter (fun p => step.ult p.1), expired := expired
      expiredCount := gr.expiredCount + if expired then 1 else 0, boundaryWork := false, resumeHold := false, rescaleOver := false })
    let s := match gr.closes.find? fun p => p.1 = step with
      | some p => s.closeStep g p.2
      | none => s
    let s := s.replaySkips g
    let s := gr.roots.foldl (fun (s : State) (t : Nat) =>
      if (s.task g t).any fun ts => ts.preds = 0 && ts.st = .waitPred then s.predsDone g t else s) s
    (s.tryAdmit g).checkStepEnd g

/-- A step starts once what its captures read of other parts has arrived; until then its start is held (R74, Table 11.6). -/
def State.beginStep (s : State) (g : Nat) (step : W32) (expired : Bool) : State :=
  match s.graph g with
  | none => s
  | some gr =>
    match s.firstAway gr.hdr.job (s.startRuns g gr step) with
    | some (va, pa, n) => (s.modGraph g fun x => { x with starting := some (step, expired) }).hubFetch gr.hdr.job va pa n
    | none => (s.modGraph g fun x => { x with starting := none }).openStep g step expired

/-- A held start is tried again. -/
def State.resumeStart (s : State) (g : Nat) (gr : Graph) : State :=
  match gr.starting with
  | some (step, expired) => s.beginStep g step expired
  | none => s

/-! ### An edge of SYNC_IN in a step -/

/-- An edge closes the running step at the micro-batches admitted (R80, R81). -/
def State.edgeCloses (s : State) (g : Nat) (gr : Graph) : State :=
  if gr.domainWide && gr.closeC.isNone && gr.admitted < gr.hdr.mbCount then
    let c := max 1 gr.admitted
    let s := if gr.admitted = 0 then s.sendAdmit g 0 else s
    ((((s.send (.mgmt none (.close gr.hdr.job gr.step (BitVec.ofNat 16 c)))).closeStep g c).readmit g).checkStepEnd g)
  else s

/-- The sync master's graph latches an edge, which may close its step; while the image is still read the step has not begun,
and the edge acts when it does (R79 to R81; DESIGN CHOICE, log entry 41). -/
def State.latchEdge (s : State) (g : Nat) : State :=
  let s := s.modGraph g fun x => { x with edge := true }
  match s.graph g with
  | some gr => if gr.phase = .running && gr.loading.isNone then s.edgeCloses g gr else s
  | none => s

/-! ### Reading the image -/

/-- A task's record could not be read: a fault holds it, and the others go on (Table 14.5). -/
def State.holdRead (s : State) (g : Nat) (job : Byte) (h : ReadHole) : State :=
  let (id, s) := s.raise 4 2 job h.kind h.va h.lo h.size (BitVec.ofNat 64 h.task)
  s.modTask g h.task fun x => { x with st := .faultHeld id }

/-- Read a submitted graph's image and start its first step, or hold it on the read that stopped (R50, Table 14.5). -/
def State.loadGraph (s : State) (g : Nat) : State :=
  match s.graph g with
  | none => s
  | some gr =>
    match s.loadImage gr.hdr with
    | .ok recs roots holes =>
      match s.firstAway gr.hdr.job (s.startRuns g gr gr.hdr.stepFirst) with
      | some (va, pa, n) => (s.setGraph g (some { gr with loading := some 0 })).hubFetch gr.hdr.job va pa n
      | none =>
      let s := ((s.setGraph g (some { gr with recs := recs, roots := roots, loading := none })).beginStep g gr.hdr.stepFirst false).dropHub gr.hdr.job
      let s := holes.foldl (fun (s : State) (h : ReadHole) => s.holdRead g gr.hdr.job h) s
      if gr.edge then s.latchEdge g else s
    | .invalid t => (s.setGraph g (some { gr with loading := none })).failGraph g 0x22 (BitVec.ofNat 64 t)
    | .stop t (.fault k va lo size) =>
      let (id, s) := s.raise 4 2 gr.hdr.job k va lo size (BitVec.ofNat 64 t)
      s.setGraph g (some { gr with loading := some id })
    | .stop _ (.remote va pa len) => (s.setGraph g (some { gr with loading := some 0 })).hubFetch gr.hdr.job va pa len
    | .stop t (.err a p) =>
      ((s.setGraph g (some { gr with loading := none })).accessFault 4 p a 0).failGraph g 0x05 (BitVec.ofNat 64 t)
    | .stop _ _ => s

/-- What a task that joins a running step misses of its start: the CLOSE and the replay that skip it (R80, R345). -/
def State.lateSkip (s : State) (g t : Nat) : State :=
  match s.graph g with
  | none => s
  | some gr =>
    let s := match gr.closeC with
      | some c => s.skipTasks g fun u x => u = t && (tagMb x.tags).toNat ≠ 0xFFFF && (tagMb x.tags).toNat ≥ c
      | none => s
    if s.replay.runs.any fun x => x.graph = g && x.noupdate then s.skipTasks g fun u _ => u = t && BitVec.ofNat 32 u = gr.hdr.updateTask
    else s

/-- A record that a fault held back has been read: the task's counts start from it, less the decrements it has already
seen (R52, R56, R71). -/
def State.installRec (s : State) (g t : Nat) (r : TaskRec) : State :=
  match s.graph g, s.task g t with
  | some gr, some ts =>
    let seen := unreadRec.pred.toNat - ts.preds
    let fresh : TaskSt := { preds := r.pred.toNat - seen, tags := r.tags }
    let fresh := gr.stamps.foldl (fun (x : TaskSt) (p : Nat × W16) => stampTask p.1 p.2 x) fresh
    let s := (s.setGraph g (some { gr with recs := gr.recs.set t r })).modTask g t fun _ => fresh
    if r.pred.toNat < seen then s.failGraph g 0x23 (BitVec.ofNat 64 t)
    else
      let s := s.lateSkip g t
      let go := r.pred.toNat = seen && (seen ≠ 0 || gr.roots.contains t) && (s.task g t).any fun x => x.st = .waitPred
      (((if go then s.predsDone g t else s).checkUpdate g).checkStepEnd g)
  | _, _ => s

/-- The tasks whose record is to be read again: their fault ended with RETRY, or the bytes come from another part. -/
def Graph.rereads (gr : Graph) : List Nat :=
  if gr.phase ≠ .running then []
  else (List.range gr.tasks.length).filter fun t =>
    ((gr.tasks.zip gr.recs)[t]?).any fun e => e.1.st = .faultHeld 0 && e.2.kind = 0

/-- The dispatcher reads a task's record again (R411, Table 14.5). -/
def State.readTask (s : State) (g t : Nat) : State :=
  match s.graph g with
  | none => s
  | some gr => match s.loadRec gr.hdr t with
    | .ok r => (s.dropHub gr.hdr.job).installRec g t r
    | .invalid x => s.failGraph g 0x22 (BitVec.ofNat 64 x)
    | .stop (.fault k va lo size) => s.holdRead g gr.hdr.job ⟨t, k, va, lo, size⟩
    | .stop (.remote va pa len) => s.hubFetch gr.hdr.job va pa len
    | .stop (.err a p) => (s.accessFault 4 p a 0).failGraph g 0x05 (BitVec.ofNat 64 t)
    | .stop (.ok _) => s

/-- Read again what a graph's dispatchers still lack of its image. -/
def State.rereadGraph (s : State) (g : Nat) : State :=
  match s.graph g with
  | none => s
  | some gr => gr.rereads.foldl (fun (s : State) (t : Nat) => s.readTask g t) s

/-! ### Commands (Table 2.5) -/

/-- GRAPH_SUBMIT: the header is checked, the graph takes a handle and its claim, and its image is read (R44, R47, R77,
R450). -/
def execGraphSubmit (h : CmdHdr) (va : W64) (s : State) : Host.Outcome State Fault Refusal :=
  command 0x0401 1 true h s fun c s =>
    match s.freeHandle with
    | none => s.reply c stBusy []
    | some g =>
      if s.fab.broken then s.reply c 0x0E []
      else if va.toNat % 128 ≠ 0 then s.reply c stInvalid []
      else match s.hubRead h.job va.toNat 128 with
      | .fault k v lo size =>
        let (id, s) := s.raise 4 2 h.job k v lo size 0
        s.parkCmd c id
      | .err a p => ((s.dropHub h.job).accessFault 4 p a 0).reply c stAddress []
      | .remote v pa len => (s.parkCmd c).hubFetch h.job v pa len
      | .ok b =>
        let s := s.dropHub h.job
        let hd := GraphHdr.parse b
        if hdrBad b h.job then s.reply c stInvalid []
        else
          let wants := hd.syncMode ≠ 0 && hd.syncMaster
          if wants && s.host.claimed .syncIn 0 then s.reply c stConflict []
          else
            let s := if wants then s.claim { kind := .syncIn, index := 0, job := h.job, opcode := 0x0401, graph := some g } else s
            let gr : Graph := { hdr := hd, headerVa := va, recs := [], tasks := [], roots := [], step := hd.stepFirst }
            (((s.setGraph g (some gr)).reply c stOk [BitVec.ofNat 64 g])).loadGraph g

/-- The status a graph ended with; 0 before that. -/
def Graph.endStatus (gr : Graph) : Byte := match gr.cause with | some c => c.status | none => 0

/-- A graph that a handle of a command names. -/
def State.handleOf (s : State) (v : W64) : Option (Nat × Graph) := if v.toNat < 8 then (s.graph v.toNat).map fun gr => (v.toNat, gr) else none

/-- GRAPH_STOP: at the task boundary, or at the step's end; the reply follows the graph's end. A graph whose image is still
read has no step to finish (R87). -/
def execGraphStop (h : CmdHdr) (handle mode : W64) (s : State) : Host.Outcome State Fault Refusal :=
  command 0x0402 2 false h s fun c s =>
    if handle.toNat > 7 || mode.toNat > 1 then s.reply c stInvalid []
    else match s.handleOf handle with
    | none => s.reply c stNotFound []
    | some (g, gr) =>
      if gr.phase = .ended then s.reply c stOk [gr.step.setWidth 64, gr.endStatus.setWidth 64]
      else
        let s := s.waitCmd c (.graphStop g)
        if mode = 1 || gr.loading.isSome then s.failGraph g 0x21 0
        else if gr.phase = .boundary && !gr.boundaryWork then s.failGraph g 0x21 0
        else s.modGraph g fun x => { x with atStepEnd := some (x.atStepEnd.getD ⟨0x21, 0⟩) }

/-- The state code of GRAPH_STATUS. -/
def GraphPhase.code : GraphPhase → Nat
  | .running => 0 | .boundary => 0 | .ending => 1 | .ended => 2

/-- GRAPH_STATUS: state, step, tasks completed in the step, admitted count, expired-hold count, and the end status
(R530, Table 2.5). -/
def execGraphStatus (h : CmdHdr) (handle : W64) (s : State) : Host.Outcome State Fault Refusal :=
  command 0x0403 1 false h s fun c s =>
    if handle.toNat > 7 then s.reply c stInvalid []
    else match s.handleOf handle with
    | none => s.reply c stNotFound []
    | some (_, gr) =>
      s.reply c stOk [BitVec.ofNat 64 gr.phase.code, gr.step.setWidth 64, BitVec.ofNat 64 gr.completed,
        BitVec.ofNat 64 gr.admitted, BitVec.ofNat 64 gr.expiredCount,
        if gr.phase = .ended then gr.endStatus.setWidth 64 else 0]

/-- GRAPH_RELEASE: frees an ended graph's handle and claims, and the check ring with the job's last graph (R88, Table
18.8). -/
def execGraphRelease (h : CmdHdr) (handle : W64) (s : State) : Host.Outcome State Fault Refusal :=
  command 0x0404 1 false h s fun c s =>
    if handle.toNat > 7 then s.reply c stInvalid []
    else match s.handleOf handle with
    | none => s.reply c stNotFound []
    | some (g, gr) =>
      if gr.phase ≠ .ended then s.reply c stBusy []
      else
        let s := (s.setGraph g none).unclaim fun x => x.kind = .syncIn && x.graph = some g
        let s : State := { s with replay := { s.replay with graphDigs := s.replay.graphDigs.set [] g [] } }
        let last := !(s.jobResident gr.hdr.job) && s.xchk.configured && s.xchk.job = gr.hdr.job
        let s : State := if last then { s with xchk := { s.xchk with configured := false, used := [], widened := [] } } else s
        (if last then s.unclaim fun x => x.kind = .checkRing else s).reply c stOk []

end Sys2Proof.Machine
end

