-- ==== Sys2Proof/Machine/ReplayCmds.lean ====
section
/-! DEFINITION. The capture and replay commands (R340, R344 to R346, Table 11.9). -/

namespace Sys2Proof.Machine

/-- A claimed buffer starts with empty records (Table 11.7). -/
def State.emptyRecords (s : State) (c : ReplayCfg) : State :=
  (List.range c.count).foldl (fun (s : State) (i : Nat) => s.poke (recordOff c i) [0]) s

/-- REPLAY_CONFIG: claims a capture buffer at the top of a hall's store, or releases it (R340). -/
def execReplayConfig (h : CmdHdr) (hall mode step buf batch list count : W64) (s : State) : Host.Outcome State Fault Refusal :=
  command 0x0920 7 true h s fun c s =>
    let hl := hall.toNat
    if !(inRange hall 0 3) || !(inRange mode 0 2) then s.reply c stInvalid []
    else if mode = 0 then
      let s := s.setReplay { s.replay with cfgs := s.replay.cfgs.filter fun x => !(x.job = h.job && x.hall = hl) }
      (s.unclaim fun x => x.kind = .hallStoreTop && x.index = hl && x.job = h.job).reply c stOk []
    else if !(inRange step 0 0xFFFFFFFF) || buf.toNat % 2 ^ 20 ≠ 0 || !(inRange buf (2 ^ 20) (16 * 2 ^ 20)) || !(inRange count 0 64)
        || (s.hall hl).fenced then s.reply c stInvalid []
    else s.cmdRead c h.job list.toNat (16 * count.toNat) fun b s =>
      let rs := parseRegions count.toNat b
      if !(regionsClean 3 count.toNat b) || !(rs.all (s.regionOk h.job)) then s.reply c stInvalid []
      else if s.host.claimed .hallStoreTop hl then s.reply c stConflict []
      else
        let cfg : ReplayCfg := { job := h.job, hall := hl, mode := mode.toNat, step := bits step 0 32, buf := buf.toNat / 2 ^ 20,
                                 batch := batch.toNat, regions := rs }
        let s := (s.setReplay { s.replay with cfgs := s.replay.cfgs ++ [cfg] }).emptyRecords cfg
        (s.claim { kind := .hallStoreTop, index := hl, job := h.job, opcode := 0x0920 }).reply c stOk []

/-- REPLAY_READ: writes a record of step S (Table 11.9). -/
def execReplayRead (h : CmdHdr) (step va : W64) (s : State) : Host.Outcome State Fault Refusal :=
  command 0x0921 2 true h s fun c s =>
    match s.findRecord h.job step (fun b => b ≠ 0) with
    | some (r, i) => s.cmdWrite c h.job va.toNat (s.recBytes r i 0 65536) []
    | none => s.reply c stInvalid []

/-- An item code with its region, for REGION. -/
def itemResults (x : Nat × Nat) : List W64 := if x.1 = 10 then [10, BitVec.ofNat 64 x.2] else [BitVec.ofNat 64 x.1]

/-- Check a captured step and go on with the item, what was fetched kept: its reads of other parts arrive first, and an error status
ends the command with ADDRESS and its record (R39, R344). -/
def State.checkReplay (s : State) (c : Cmd) (step : W64) (header : Nat) (k : Nat × Nat → State → State) : State :=
  let job := c.hdr.job
  let l := s.checkRuns job step header
  match s.firstAway job l with
  | some (va, pa, n) => (s.parkCmd c).hubFetch job va pa n
  | none =>
    if l.any fun p => match s.hubRead job p.1 p.2 with | .err _ _ => true | _ => false then
      ((s.readErrors job l).dropHub job).reply c stAddress []
    else k (s.replayItem job step header) s

/-- REPLAY_CHECK: the first item of Table 11.8 that differs (R344). -/
def execReplayCheck (h : CmdHdr) (step header : W64) (s : State) : Host.Outcome State Fault Refusal :=
  command 0x0922 2 true h s fun c s =>
    s.checkReplay c step header.toNat fun x s => (s.dropHub h.job).reply c stOk (itemResults x)

/-- REPLAY_RUN: runs a captured step once; the reply follows its end (R345, R346). -/
def execReplayRun (h : CmdHdr) (step header flags : W64) (s : State) : Host.Outcome State Fault Refusal :=
  command 0x0923 3 true h s fun c s =>
    if flags.toNat > 1 then s.reply c stInvalid []
    else if s.residents.any fun p => p.2.hdr.job = h.job && p.2.phase ≠ .ended then s.reply c stBusy []
    else match s.freeHandle, s.findRecord h.job step (fun b => b = 2) with
    | none, _ => s.reply c stBusy []
    | some _, none => s.reply c stMismatch (itemResults (1, 0))
    | some g, some (r, i) => s.checkReplay c step header.toNat fun item s =>
      if item.1 ≠ 0 then (s.dropHub h.job).reply c stMismatch (itemResults item)
      else if s.fab.broken then (s.dropHub h.job).reply c 0x0E []
      else s.cmdRead c h.job header.toNat 128 fun b s =>
        if header.toNat % 128 ≠ 0 || hdrBad b h.job then s.reply c stInvalid []
        else
          let hd := { GraphHdr.parse b with syncMode := 0, stepFirst := bits step 0 32, stepCount := 1 }
          let gr : Graph := { hdr := hd, headerVa := header, recs := [], tasks := [], roots := [], step := hd.stepFirst }
          let run : ReplayRun := { graph := g, job := h.job, hall := r.hall, noupdate := flags = 1, c := leAt (s.recBytes r i 0x12 2) 0 2, record := i }
          let s := s.setReplay { s.replay with runs := s.replay.runs ++ [run] }
          ((s.setGraph g (some gr)).waitCmd c (.replay h.job)).loadGraph g

end Sys2Proof.Machine
end

