-- ==== Sys2Proof/Machine/StepEnd.lean ====
section
/-! DEFINITION. The end of a task, the start of the next step and the sync master's messages (R54, R58, R68 to R70, R74,
R76 to R85). -/

namespace Sys2Proof.Machine

/-! ### TASK_COMPLETE (R54) -/

/-- Whether a task has finished: its threads have ended or its unit has, and its writes are visible and acknowledged. -/
def State.taskFinished (s : State) (g t : Nat) (ts : TaskSt) (r : TaskRec) : Bool :=
  ts.st = .running && ts.saving.isNone && !(s.outstanding (.portWrite g t)) &&
    (if r.onStall then
      (s.threads.all fun p => match p.2 with | some th => !(th.graph = g && th.task = t) | none => true)
        && (match ts.place with
          | some k => (s.stall k).drains.all fun d => !(d.graph = g && d.task = t)
          | none => false)
    else ts.unitDone)

/-- The counts of alternation after a task of a pipelined graph (R69, R70). The excess of R70 is found as tasks complete (DEDUCED, log
entry 39). -/
def State.countPhase (s : State) (g t : Nat) (ts : TaskSt) (r : TaskRec) : State :=
  match s.graph g with
  | none => s
  | some gr =>
    let m := (tagMb ts.tags).toNat
    if !gr.hdr.pipe || (r.phase ≠ 1 && r.phase ≠ 2) then s
    else if r.phase = 1 then
      let n := gr.fwdCount.get 0 m + 1
      let s := s.modGraph g fun x => { x with fwdCount := x.fwdCount.set 0 m n,
                                              bwdDone := if gr.hdr.bwdPerMb = 0 && n = gr.hdr.fwdPerMb then x.bwdDone + 1 else x.bwdDone }
      if n > gr.hdr.fwdPerMb then s.failGraph g 0x23 (BitVec.ofNat 64 t) else s
    else
      let n := gr.bwdCount.get 0 m + 1
      let s := s.modGraph g fun x => { x with bwdCount := x.bwdCount.set 0 m n, bwdDone := if n = gr.hdr.bwdPerMb then x.bwdDone + 1 else x.bwdDone }
      if n > gr.hdr.bwdPerMb then s.failGraph g 0x23 (BitVec.ofNat 64 t) else s

/-- A task is done: what it held is free, DONE is signalled, and its successors, the update task, admission and the step
see it (R54, R66, R68, R74, R235, R507). -/
def State.completeTask (s : State) (g t : Nat) (ts : TaskSt) (r : TaskRec) : State :=
  let s := match ts.place with
    | some k => s.traceStall k 2 t
    | none => if r.onHall then s.traceEvent r.placeHall 2 0 t else s
  let s := s.freeTask g t
  let s := s.modTask g t fun x => { x with st := .done, place := none, queue := none }
  let s := s.modGraph g fun x => { x with completed := x.completed + 1 }
  let s := s.unpin fun p => p.graph = g && p.task = t
  let s := if r.donePart.getLsbD 15 then s.signalAt (r.donePart.toNat % 8192) r.doneIndex 1 else s
  let s := match ts.check with | some (h, i) => s.checkVerdict g h i | none => s
  let s := if (s.graph g).any fun gr => gr.phase = .running then
      ((((s.countPhase g t ts r).releaseSuccs g t).checkUpdate g).tryAdmit g).checkStepEnd g
    else s.settle g
  let s := s.freeCopies (tagJob ts.tags)
  let s := match ts.place with | some k => s.updateLend (hallOf k) | none => s
  s.checkLayouts

/-- TASK_COMPLETE: a task has met all of R54. -/
def execTaskComplete (graph : Fin 8) (task : Nat) (s : State) : Host.Outcome State Fault Refusal :=
  match s.task graph.val task, s.rec_ graph.val task with
  | some ts, some r => if s.taskFinished graph.val task ts r then .next (s.completeTask graph.val task ts r) else .next s
  | _, _ => .next s

/-- DEADLOCK_TIMEOUT: 1,000 lc without a task that can move (R58). -/
def execDeadlockTimeout (graph : Fin 8) (s : State) : Host.Outcome State Fault Refusal :=
  match s.graph graph.val with
  | none => .next s
  | some gr =>
    let moves := gr.tasks.any fun t => match t.st with
      | .running => true | .ready => true | .gated => true | .saved _ => true | .waitLayout => true | .faultHeld _ => true
      | _ => false
    let left := (gr.tasks.filter fun t => !(t.st = .done || t.st = .skipped)).length
    if gr.phase = .running && gr.loading.isNone && !moves && left ≠ 0 then .next (s.failGraph graph.val 0x24 (BitVec.ofNat 64 left))
    else .next s

/-! ### The next step (R74, R82 to R85) -/

/-- Whether a graph may start its next step but for the sync master's hold (R74, R481, R614, R619). -/
def State.mayStartStep (s : State) (gr : Graph) : Bool :=
  gr.phase = .boundary && !gr.boundaryWork && gr.starting.isNone && !gr.resumeHold && (s.lpart gr.hdr.job).isNone && s.swept && s.power.supply = .on && s.pstate = 1

/-- The sync master sends START and pulses SYNC_OUT, unless its pair pulsed already; its own step starts (R82, R84, R85,
R621). -/
def State.masterStart (s : State) (g : Nat) (gr : Graph) (expired : Bool) : State :=
  let s := s.send (.mgmt none (.start gr.hdr.job (gr.step + 1) expired))
  let s := if (s.pairOf gr.hdr.job).isSome then s else s.send .syncOut
  s.beginStep g (gr.step + 1) expired

/-- STEP_START: the next step starts, subject to SYNC_MODE (R74, R82 to R84, R624). -/
def execStepStart (graph : Fin 8) (s : State) : Host.Outcome State Fault Refusal :=
  let g := graph.val
  match s.graph g with
  | none => .next s
  | some gr =>
    if !(s.mayStartStep gr) then .next s
    else if gr.hdr.syncMode.toNat < 2 then .next (s.beginStep g (gr.step + 1) false)
    else if gr.hdr.syncMaster then
      if gr.edge || gr.pairLost || gr.hdr.holdMs = 0 then .next (s.masterStart g gr false) else .next s
    else match gr.starts.find? fun p => p.1 = gr.step + 1 with
      | some p => .next (s.beginStep g (gr.step + 1) p.2)
      | none => .next s

/-- HOLD_EXPIRE: HOLD_MS elapsed with no edge; the step starts marked as expired, and the sync master writes an event
(R82, R84); the event names the step that just ended (DEDUCED, log entry 41). -/
def execHoldExpire (graph : Fin 8) (s : State) : Host.Outcome State Fault Refusal :=
  let g := graph.val
  match s.graph g with
  | none => .next s
  | some gr =>
    if s.mayStartStep gr && gr.hdr.syncMode.toNat ≥ 2 && gr.hdr.syncMaster && !gr.edge && gr.hdr.holdMs ≠ 0 && !gr.pairLost then
      .next ((s.graphEvent g 2 0 0).masterStart g gr true)
    else .next s

/-- SYNC_IN_EDGE: a mark of kind 2; the sync master's graph latches the first edge, which may close its step (R79 to R83,
R604, R624). -/
def execSyncInEdge (s : State) : Host.Outcome State Fault Refusal :=
  if s.power.supply = .off then .next s
  else
    let s := s.ownMark 2
    match (s.host.claims.find? fun c => c.kind = .syncIn).bind (·.graph) with
    | none => .next s
    | some g =>
      match s.graph g with
      | none => .next s
      | some gr =>
        if gr.pairLost || (gr.phase ≠ .running && gr.phase ≠ .boundary) then .next s
        else if gr.edge then .next (s.count .syncEdges 0 1)
        else
          .next (s.latchEdge g)

/-! ### Messages of the sync master (R78, R80, R82) -/

/-- The graphs of a job on this part that hear its sync master; a message finds none before a graph of the job is resident, and is
dropped (DEDUCED, log entry 41). -/
def State.slaves (s : State) (job : Byte) : List (Nat × Graph) :=
  s.residents.filter fun p => p.2.hdr.job = job && !p.2.hdr.syncMaster && p.2.phase ≠ .ended

/-- ADMIT (job, step, m) reaches the part's DSP (R78). -/
def execAdmitMb (job : Byte) (step : W32) (mb : W16) (s : State) : Host.Outcome State Fault Refusal :=
  .next ((s.slaves job).foldl (fun (s : State) (p : Nat × Graph) =>
    let s := s.modGraph p.1 fun x => { x with admits := x.admits ++ [(step, mb.toNat)] }
    if p.2.step = step && p.2.phase = .running && p.2.loading.isNone then s.readmit p.1 else s) s)

/-- CLOSE (job, step, C) reaches the part's DSP (R80). -/
def execClose (job : Byte) (step : W32) (c : W16) (s : State) : Host.Outcome State Fault Refusal :=
  .next ((s.slaves job).foldl (fun (s : State) (p : Nat × Graph) =>
    if p.2.step = step && p.2.phase = .running && p.2.loading.isNone then ((s.closeStep p.1 c.toNat).readmit p.1).checkStepEnd p.1
    else s.modGraph p.1 fun x => { x with closes := x.closes ++ [(step, c.toNat)] }) s)

/-- START (job, step) reaches the part's DSP (R82, R84). -/
def execStart (job : Byte) (step : W32) (expired : Bool) (s : State) : Host.Outcome State Fault Refusal :=
  .next ((s.slaves job).foldl (fun (s : State) (p : Nat × Graph) =>
    s.modGraph p.1 fun x => { x with starts := x.starts ++ [(step, expired)] }) s)

end Sys2Proof.Machine
end

