-- ==== Sys2Proof/Machine/XltCmds.lean ====
section
/-! DEFINITION. The end of translation faults (R411, R412, Table 14.5) and the translation commands (Table 14.11). -/

namespace Sys2Proof.Machine

/-! ### RETRY -/

/-- Threads that waited in place, and moves, walk again. -/
def State.retryThread (s : State) (id k : Nat) : State :=
  match s.thread k with
  | none => s
  | some th =>
    let s := if th.status = .fault id then s.setThread k (some { th with status := .ready }) else s
    (th.moves.filter fun m => m.fault = some id).foldl (fun (s : State) (m : Move) => s.pumpMove k { m with fault := none }) s

/-- A task that waits on a fault: a saved one is restorable, a held placement or probe is made again, and so
is the read of its record. -/
def retryTask (id : Nat) (r : Option TaskRec) (ts : TaskSt) : TaskSt :=
  match ts.st with
  | .saved false => if (ts.saved.map (·.faultId)) = some id then { ts with st := .saved true } else ts
  | .faultHeld i =>
    if i ≠ id then ts
    else if r.any fun r => r.kind = 0 then { ts with st := .faultHeld 0 }
    else { ts with st := if r.any TaskRec.probes then .running else .ready }
  | _ => ts

/-- The keys of the occupied contexts. -/
def State.contexts (s : State) : List Nat := s.threads.map (·.1)

/-- RETRY: every waiter on the fault walks again (R411). -/
def State.retryFault (s : State) (f : PFault) : State :=
  let s := s.setXlt { s.xlt with
    faults := s.xlt.faults.filter fun x => x.id ≠ f.id
    transfers := s.xlt.transfers.map fun x => if x.mv.fault = some f.id then { x with mv := { x.mv with fault := none } } else x }
  let s := s.modRun fun r => { r with paused := r.paused.filter fun p => p.2.1 ≠ f.id }
  let s : State := { s with graphs := s.graphs.map fun p => (p.1, p.2.map fun gr =>
    { gr with tasks := ((List.range gr.tasks.length).zip gr.tasks).map fun e => retryTask f.id gr.recs[e.1]? e.2 }) }
  let s := s.contexts.foldl (fun (s : State) (k : Nat) => s.retryThread f.id k) s
  let s := s.setHost { s.host with cmds := s.host.cmds.map fun c => if c.wait = .again f.id then { c with wait := .again 0 } else c }
  s.residents.foldl (fun (s : State) (p : Nat × Graph) =>
    if p.2.loading = some f.id then (s.modGraph p.1 fun x => { x with loading := none }).loadGraph p.1 else s.rereadGraph p.1) s

/-! ### FAIL -/

/-- A thread in its stall takes the trap of R103 or R110. -/
def State.failThread (s : State) (f : PFault) (k : Nat) : State :=
  match s.thread k with
  | none => s
  | some th =>
    if th.status = .fault f.id then s.trap k .address (BitVec.ofNat 64 f.va) 0
    else match th.moves.find? fun m => m.fault = some f.id with
      | some m => (s.setThread k (some { th with pc := m.pc })).trap k .address (BitVec.ofNat 64 f.va) m.word
      | none => s

/-- A saved task is discarded; its faulting thread traps. -/
def State.failSaved (s : State) (f : PFault) (r : SavedTask) : State :=
  match r.threads.find? fun p => p.2.idx = r.faultIdx with
  | none => s
  | some (k, th) => match r.faultMove with
    | some (pc, w) => s.trapThread k { th with pc := pc } .address (BitVec.ofNat 64 f.va) w
    | none => s.trapThread k th .address (BitVec.ofNat 64 f.va) 0

/-- A task of a graph receives the address-error status. -/
def State.failWaiter (s : State) (f : PFault) (g t : Nat) : State :=
  match s.task g t with
  | none => s
  | some ts => match ts.st, ts.saved with
    | .saved false, some r => if r.faultId = f.id then s.failSaved f r else s
    | .faultHeld i, _ => if i = f.id then s.failTask g t 0x05 else s
    | _, _ => s

/-- FAIL: every waiter on the fault receives an address-error status (R411, Table 14.5). -/
def State.failFault (s : State) (f : PFault) : State :=
  let s := s.setXlt { s.xlt with faults := s.xlt.faults.filter fun x => x.id ≠ f.id }
  let s := s.contexts.foldl (fun (s : State) (k : Nat) => s.failThread f k) s
  let tasks := s.residents.flatMap fun p => (List.range p.2.tasks.length).map fun t => (p.1, t)
  let s := tasks.foldl (fun (s : State) (e : Nat × Nat) => s.failWaiter f e.1 e.2) s
  let loading := s.residents.filter fun p => p.2.loading = some f.id
  let s := loading.foldl (fun (s : State) (p : Nat × Graph) =>
    (s.modGraph p.1 fun x => { x with loading := none }).failGraph p.1 0x05 f.source) s
  let moves := s.xlt.transfers.filter fun x => x.mv.fault = some f.id
  let s := moves.foldl (fun (s : State) (x : Transfer) =>
    ((s.accessFault 4 false f.va (s.moverOfTransfer x).tags).dropTransfer x.graph x.task).failTask x.graph x.task 0x2C) s
  let s := s.replyWaiting (.again f.id) stAddress []
  match s.till.run with
    | none => s
    | some r =>
      let s := s.modRun fun r => { r with paused := r.paused.filter fun p => p.2.1 ≠ f.id }
      (match r.gid.bind s.tillGroup with
      | some g => (r.paused.filter fun p => p.2.1 = f.id).foldl (fun (s : State) (p : Nat × Nat × Nat) => s.unitBad p.1 g p.2.2 f.va false) s
      | none => s)

/-- XLT_FAULT_RESOLVE: RETRY or FAIL (R411). -/
def execXltFaultResolve (h : CmdHdr) (fault action : W64) (s : State) : Host.Outcome State Fault Refusal :=
  command 0x0233 2 false h s fun c s =>
    if !(inRange action 0 1) then s.reply c stInvalid []
    else match s.xlt.faults.find? fun f => f.id = fault.toNat with
      | none => s.reply c stNotFound []
      | some f => (if action = 0 then s.retryFault f else s.failFault f).reply c stOk []

/-- FAULT_LIMIT_EXPIRE: a fault has been pending for FAULT_LIMIT lc; it ends as with FAIL (R411). -/
def execFaultLimitExpire (fault : W32) (s : State) : Host.Outcome State Fault Refusal :=
  match s.xlt.faults.find? fun f => f.id = fault.toNat with
  | some f => if (s.space f.job).isSome then .next (s.failFault f) else .next s
  | none => .next s

/-! ### Commands -/

/-- XLT_SPACE_SET (R401, Table 14.11). -/
def execXltSpaceSet (h : CmdHdr) (root limit : W64) (s : State) : Host.Outcome State Fault Refusal :=
  command 0x0230 2 true h s fun c s =>
    if !(s.tableOk 0 root.toNat) || !(inRange limit 1 10000000) then s.reply c stInvalid []
    else if (s.space h.job).isSome then s.reply c stConflict []
    else (s.setXlt { s.xlt with spaces := s.xlt.spaces ++ [{ job := h.job, root := root.toNat, limit := limit }] }).reply c stOk []

/-- XLT_SPACE_CLEAR (Table 14.11). -/
def execXltSpaceClear (h : CmdHdr) (s : State) : Host.Outcome State Fault Refusal :=
  command 0x0231 0 true h s fun c s =>
    if s.jobResident h.job then s.reply c stBusy []
    else (s.setXlt { s.xlt with spaces := s.xlt.spaces.filter fun x => x.job ≠ h.job }).reply c stOk []

/-- XLT_INVALIDATE: replies once R409 holds over the range (R409, Table 14.11). -/
def execXltInvalidate (h : CmdHdr) (va len : W64) (s : State) : Host.Outcome State Fault Refusal :=
  command 0x0232 2 true h s fun c s =>
    if va.toNat % 65536 ≠ 0 || len.toNat % 65536 ≠ 0 || (len = 0 && va ≠ 0) then s.reply c stInvalid []
    else (s.waitCmd c (.invalidate h.job va.toNat len.toNat)).finishInvalidates

/-- Whether a range of local offsets lies in HBM that is mapped. -/
def State.hbmRange (s : State) (off n : Nat) : Bool :=
  off % 65536 = 0 && (List.range (n / 65536)).all fun i => region (off + i * 65536) = .hbm && s.mapped (off + i * 65536)

/-- XLT_SAVE_AREA_SET (R420). -/
def execXltSaveAreaSet (h : CmdHdr) (hall off size : W64) (s : State) : Host.Outcome State Fault Refusal :=
  command 0x0234 3 false h s fun c s =>
    if !(inRange hall 0 3) || size.toNat % 65536 ≠ 0 || !(inRange size (4 * 2 ^ 20) (64 * 2 ^ 30)) || !(s.hbmRange off.toNat size.toNat) then
      s.reply c stInvalid []
    else if !(s.records hall.toNat).isEmpty then s.reply c stBusy []
    else (s.setXlt { s.xlt with saveAreas := s.xlt.saveAreas.set none hall.toNat (some { off := off.toNat, size := size.toNat }) }).reply c stOk []

/-- XLT_RESERVE_SET (R429). -/
def execXltReserveSet (h : CmdHdr) (hall off units : W64) (s : State) : Host.Outcome State Fault Refusal :=
  command 0x0235 3 false h s fun c s =>
    if !(inRange hall 0 3) || !(inRange units 0 3072) || !(s.hbmRange off.toNat (units.toNat * 65536)) then s.reply c stInvalid []
    else if s.xlt.redirects.any fun r => r.1 / 2 ^ 32 / 3 = hall.toNat then s.reply c stBusy []
    else
      let area : Option Area := if units = 0 then none else some { off := off.toNat, size := units.toNat * 65536 }
      (s.setXlt { s.xlt with reserves := s.xlt.reserves.set none hall.toNat area }).reply c stOk []

end Sys2Proof.Machine
end

