-- ==== Sys2Proof/Machine/Fabric.lean ====
section
/-! DEFINITION. Requests and responses of the global memory space (R440, R441, R449 to R456, R408). -/

namespace Sys2Proof.Machine

/-! ### Landing -/

/-- A packet leaves the receive buffer of its port: its credit is owed, and an update goes after 64 flits (R442, log entry
24). -/
def State.returnCredits (s : State) (n : Nat) : State :=
  let x := s.port n
  let s := (List.range 18).foldl (fun (s : State) (k : Nat) =>
    if x.owed.get 0 k = 0 then s else s.send (.creditReturn n false (k / 3) (k % 3) (x.owed.get 0 k))) s
  s.modPort n fun x => { x with owed := [] }
def State.landed (s : State) (p : Pkt) : State :=
  let n := s.inputOf p
  let k := vcOf p * 3 + pktCls p
  if n ≥ 8 || k ≥ 18 then s
  else
    let s := s.modPort n fun x => { x with owed := x.owed.set 0 k (x.owed.get 0 k + pktFlits p) }
    if (s.port n).owed.foldl (fun m e => m + e.2) 0 ≥ 64 then s.returnCredits n else s

/-- A packet that a port counts as dropped (R440, R449, R455). -/
def State.portDrop (s : State) (p : Pkt) : State :=
  let n := s.inputOf p
  if n < 8 then s.modPort n fun x => { x with dropped := x.dropped + 1 } else s

/-- What every packet meets when it lands: it waits while HBM is in self-refresh (R399); it goes on, or it is malformed, or was applied already, or it is this part's
(R440, R444, R449). -/
def landing (p : Pkt) (type : Byte) (s : State) (k : State → State) : Host.Outcome State Fault Refusal :=
  if p.type ≠ type || s.power.supply = .off then .next s
  else if s.hbmHeld then .next (s.setFab { s.fab with heldPkts := s.fab.heldPkts ++ [.packet p] })
  else
    let s := s.landed p
    if !(pktHeaderOk p) then .next ((s.portDrop p).dropPacket p)
    else if p.dst.toNat % 8192 ≠ s.partNo then .next (s.transmit (s.inputOf p) p)
    else if pktReplay p && s.alreadySeen (p.src.toNat % 8192) p.seq then .next (s.portDrop p).countDrop
    else .next (k s)

/-- A request of this part's own: its checks come before `k`; a failed one is answered (R455). -/
def State.landRequest (s : State) (p : Pkt) (k : State → State) : State :=
  let src := p.src.toNat % 8192
  match s.tagCheck p with
  | some st =>
    let s := if st = rsStale then ((s.portDrop p).countDrop).count .staleTag 0 1 else s
    s.respond src p.rid st p.tags []
  | none => k (s.noteSeq src p.seq)

/-- Whether an access lies inside one 2 KiB block (R452). -/
def inBlock (off n : Nat) : Bool := off % 2048 + n ≤ 2048

/-- READ: the data, or an ADDRESS or POISON status with a fault record (R38 to R42, R387, R452). -/
def execRead (p : Pkt) (s : State) : Host.Outcome State Fault Refusal :=
  landing p 0x01 s fun s => s.landRequest p fun s =>
    let src := p.src.toNat % 8192
    let off := p.addr.toNat % 2 ^ 44
    let n := 32 * (p.plen.toNat % 128)
    let bad := fun (s : State) => (s.accessFault 4 false (s.partNo * 2 ^ 44 + off) p.tags).respond src p.rid rsAddress p.tags []
    if n = 0 || n > 2048 || !(inBlock off n) then bad s
    else match region off with
      | .hbm | .hallStore _ => (match s.readStat off n with
        | .ok => s.respond src p.rid rsOk p.tags (s.mem.read off n)
        | .address => bad s
        | .poison => (s.accessFault 4 true (s.partNo * 2 ^ 44 + s.poisonAt off n) p.tags).respond src p.rid rsPoison p.tags [])
      | _ => (match if n = 32 then s.windowRead off else none with
        | some b => s.respond src p.rid rsOk p.tags b
        | none => bad s)

/-- WRITE: the bytes are applied and acknowledged; a Till's COMMAND offset queues a command, a counter takes a signal
(R304, R351, R452). -/
def execWrite (p : Pkt) (s : State) : Host.Outcome State Fault Refusal :=
  landing p 0x02 s fun s => s.landRequest p fun s =>
    let src := p.src.toNat % 8192
    let off := p.addr.toNat % 2 ^ 44
    let n := p.payload.length
    let bad := fun (s : State) => (s.accessFault 4 false (s.partNo * 2 ^ 44 + off) p.tags).respond src p.rid rsAddress p.tags []
    if n = 0 || n > 32 * (p.plen.toNat % 128) || n > 2048 || !(inBlock off n) then bad s
    else match region off with
      | .bell i =>
        if off % 8 = 0 && n = 8 then (match s.signal (BitVec.ofNat 16 i) (BitVec.ofNat 64 (ofLe p.payload)) with
          | some s => s.respond src p.rid rsOk p.tags []
          | none => bad s)
        else bad s
      | .till _ =>
        if !(tillPostAt off n) then bad s
        else if s.till.queue.length < 64 then (s.tillPost { src := src, bytes := p.payload }).respond src p.rid rsOk p.tags []
        else s.tillPost { src := src, bytes := p.payload, who := .packet src p.rid p.tags }
      | _ => if s.writable off n then (s.poke off p.payload).respond src p.rid rsOk p.tags [] else bad s

/-- The new value of an atomic's word (Table 15.8). -/
def atomicOp (opx : Nat) (old a b : W64) : Option W64 :=
  match opx with
  | 0 => some (old + a)
  | 1 => some a
  | 2 => some (if old = a then b else old)
  | 3 => some (if old.ult a then a else old)
  | _ => none

/-- An atomic on a word of this part: its status, its old value, and the state after it (R454). -/
def State.atomic (s : State) (off opx : Nat) (a b : W64) : Byte × W64 × State :=
  let old : W64 := BitVec.ofNat 64 (ofLe (s.mem.read off 8))
  match atomicOp opx old a b with
  | none => (rsAddress, 0, s)
  | some v =>
    if off % 8 ≠ 0 || !(s.mapped off) then (rsAddress, 0, s)
    else if s.poisoned off 8 then (rsPoison, 0, s)
    else (rsOk, old, s.poke off (leBytes 8 v.toNat))

/-- ATOMIC: the word's controller performs it, and the old value returns (R454). -/
def execAtomic (p : Pkt) (s : State) : Host.Outcome State Fault Refusal :=
  landing p 0x03 s fun s => s.landRequest p fun s =>
    let src := p.src.toNat % 8192
    let off := p.addr.toNat % 2 ^ 44
    let (st, old, s) := s.atomic off p.opx.toNat (BitVec.ofNat 64 (leAt p.payload 0 8)) (BitVec.ofNat 64 (leAt p.payload 8 8))
    if st = rsOk then s.respond src p.rid rsOk p.tags (leBytes 8 old.toNat)
    else (s.accessFault 4 (st = rsPoison) (s.partNo * 2 ^ 44 + off) p.tags).respond src p.rid st p.tags []

/-! ### Answers (R408, R449, Table 15.9) -/

/-- The request with this id. -/
def State.req (s : State) (rid : Nat) : Option Req := s.fab.reqs.find? fun r => r.rid = rid

/-- A request is over; one that waited for an id takes it (R453). -/
def State.dropReq (s : State) (rid : Nat) : State :=
  let s := s.setFab { s.fab with reqs := s.fab.reqs.filter fun r => r.rid ≠ rid }
  match s.fab.waiting with
  | [] => s
  | (p, o) :: rest => (s.setFab { s.fab with waiting := rest }).request p o

/-- The fabric physical address of a request. -/
def Req.pa (r : Req) : Nat := (r.pkt.dst.toNat % 8192) * 2 ^ 44 + r.pkt.addr.toNat % 2 ^ 44

/-- A thread's access failed: the trap of R110, with the address, or the tags that the target refused (Table 3.16). The copy it belongs to
is over. -/
def State.remoteTrap (s : State) (k : Nat) (st : Byte) (a : Nat) (tags pc insn : W64) : State :=
  match s.thread k with
  | none => s
  | some th =>
    let s := s.setThread k (some { th with pc := pc, moves := th.moves.filter fun m => m.pc ≠ pc || m.word ≠ insn })
    if st = rsStale then s.trap k .staleTag tags insn
    else (s.accessFault (hallOf (stallOf k)) (st = rsPoison) a (s.threadTags th)).trap k .address (BitVec.ofNat 64 a) insn

/-- The status with which a reply answers a fabric status (Tables 15.9, 18.7). -/
def replyStatus (st : Byte) : Byte := if st = rsOk then stOk else if st = rsPartLost then stPartLost else stAddress

/-- A unit task's remote write failed (R412, R419). -/
def State.unitWriteFailed (s : State) (g t : Nat) (st : Byte) (a : Nat) : State :=
  match s.transfer g t with
  | some x => ((s.accessFault 4 (st = rsPoison) a (s.moverOfTransfer x).tags).dropTransfer g t).failTask g t 0x2C
  | none => s.unitAddress 4 g t (((s.task g t).map (·.tags)).getD 0) a (st = rsPoison)

/-- What waited for a request receives its answer. -/
def State.answerOwner (s : State) (r : Req) (st : Byte) (data : List Byte) : State :=
  let ok := st = rsOk
  match r.owner with
  | .moveRead k tok va =>
    (match s.thread k with
    | none => s
    | some th => match th.moves.find? fun m => m.tok = tok with
      | none => s
      | some m =>
        if ok then s.pumpMove k { m with waiting := false, have_ := va.toNat :: m.have_, rbuf := m.rbuf.write va.toNat data }
        else if th.status = .stopped then
          ((s.accessFault (hallOf (stallOf k)) (st = rsPoison) r.pa (s.threadTags th)).setThread k
            (some { th with moves := th.moves.filter fun x => x.tok ≠ tok })).reap k
        else s.remoteTrap k st r.pa r.pkt.tags m.pc m.word)
  | .moveWrite k pc word =>
    if ok then (if s.writesOut k then s else s.wake k)
    else (match s.thread k with
      | some th =>
        if th.status = .stopped then (s.accessFault (hallOf (stallOf k)) (st = rsPoison) r.pa (s.threadTags th)).reap k
        else s.remoteTrap k st r.pa r.pkt.tags pc word
      | none => s)
  | .fetch k pc =>
    (match s.thread k with
    | some th =>
      if th.status ≠ .fetching then s
      else if ok then s.setThread k (some { th with status := .ready, fetched := some (pc, BitVec.ofNat 64 (leAt data (pc.toNat % 64) 8)) })
      else s.remoteTrap k (if st = rsStale then rsAddress else st) (r.pa + pc.toNat % 64) r.pkt.tags pc 0
    | none => s)
  | .signal => if ok then s else s.accessFault 4 (st = rsPoison) (counterAddr (r.pkt.dst.toNat % 8192) (bits r.pkt.addr 0 16)) r.pkt.tags
  | .portRead g t va =>
    (match s.transfer g t with
    | none => s
    | some x =>
      if ok then s.pumpTransfer { x with mv := { x.mv with waiting := false, have_ := va.toNat :: x.mv.have_, rbuf := x.mv.rbuf.write va.toNat data } }
      else s.unitWriteFailed g t st r.pa)
  | .portWrite g t => if ok then s else s.unitWriteFailed g t st r.pa
  | .bell k =>
    (match s.thread k with
    | some th => (match th.status with
      | .remote w => if ok then s.setThread k (some th.past)
                     else s.remoteTrap k (if st = rsStale then rsAddress else st) (counterAddr (r.pkt.dst.toNat % 8192) (bits r.pkt.addr 0 16)) r.pkt.tags th.pc w
      | _ => s)
    | none => s)
  | .till _ => if ok then s else s.accessFault 4 (st = rsPoison) r.pa 0
  | .sweep h va =>
    (match s.sweeps.get none h with
    | none => s
    | some w =>
      if ok then
        ({ s with sweeps := s.sweeps.set none h (some { w with have_ := va.toNat :: w.have_, rbuf := w.rbuf.write va.toNat data }) }.pumpSweep h).afterSweep
      else
        (s.sweepWriteFailed h r.pa).afterSweep)
  | .sweepWrite h => if ok then (s.pumpSweep h).afterSweep else (s.sweepWriteFailed h r.pa).afterSweep
  | .verdict h i =>
    let s := if ok then s else s.accessFault h (st = rsPoison) r.pa r.pkt.tags
    if s.outstanding (.verdict h i) then s else s.freeCheck h i
  | .hub job va =>
    let b := s.hubBuf job
    let b := if ok then { b with have_ := va.toNat :: b.have_, buf := b.buf.write va.toNat data } else { b with errs := (va.toNat, st = rsPoison) :: b.errs }
    let s := s.setFab { s.fab with hubBufs := s.fab.hubBufs.set {} job.toNat b }
    let s := s.residents.foldl (fun (s : State) (p : Nat × Graph) =>
      if p.2.hdr.job ≠ job then s
      else if p.2.phase = .boundary && p.2.finishing.isSome then s.finishBoundary p.1 (p.2.finishing.getD false)
      else if p.2.phase = .boundary && p.2.starting.isSome then s.resumeStart p.1 p.2
      else if p.2.loading = some 0 then (s.modGraph p.1 fun x => { x with loading := none }).loadGraph p.1
      else s.rereadGraph p.1) s
    (s.residents.foldl (fun (s : State) (p : Nat × Graph) => s.checkStepEnd p.1) s.pumpVerdicts).pumpBoundary job
  | .cmd seq =>
    (match s.host.cmds.find? fun c => c.hdr.seq = seq && c.phase ≠ .admitted with
    | none => s
    | some c => match c.wait with
      | .acks res =>
        if !ok then s.reply c (replyStatus st) []
        else if s.outstanding (.cmd seq) then s else s.reply c stOk res
      | .sealing d =>
        if !ok then s.reply c (replyStatus st) (let i : W64 := BitVec.ofNat 64 c.sealed.length; [i, i])
        else if s.outstanding (.cmd seq) then s
        else s.modCmd c fun x => { x with sealed := d :: x.sealed, wait := .again 0 }
      | .atomic => s.reply c (replyStatus st) (if ok then [BitVec.ofNat 64 (leAt data 0 8)] else [])
      | _ => s)
  | .posted _ => s

/-- A request completes with a status (R408, R449, Table 15.9). -/
def State.completeReq (s : State) (r : Req) (st : Byte) (data : List Byte) : State :=
  ((s.dropReq r.rid).answerOwner r st data).finishInvalidates

/-- RESP: a response completes its request id; EPOCH_AHEAD leaves it to be sent again (R449, R456). A status that this part
gave its own request stands (R450, R459). -/
def execResp (p : Pkt) (s : State) : Host.Outcome State Fault Refusal :=
  landing p 0x10 s fun s =>
    match s.req p.rid.toNat with
    | none => (s.portDrop p).countDrop
    | some r =>
      let st := r.answer.getD p.opx
      if r.answer.isNone && p.src ≠ r.pkt.dst then (s.portDrop p).countDrop
      else
        let s := s.noteSeq (p.src.toNat % 8192) p.seq
        if st = rsEpochAhead then s.setFab { s.fab with reqs := s.fab.reqs.map fun q => if q.rid = r.rid then { q with retry := true } else q }
        else s.completeReq r st p.payload

/-- REMOTE_TIMEOUT: no response came in 5,000 lc (R408). -/
def execRemoteTimeout (rid : W16) (s : State) : Host.Outcome State Fault Refusal :=
  match s.req rid.toNat with
  | some r => .next (s.completeReq r (r.answer.getD rsAddress) [])
  | none => .next s

/-- EPOCH_AHEAD_RETRY: the request goes again with a new SEQ (R456). -/
def execEpochAheadRetry (rid : W16) (s : State) : Host.Outcome State Fault Refusal :=
  match s.req rid.toNat with
  | some r =>
    if !r.retry then .next s
    else
      let (q, s) := s.nextSeq (r.pkt.dst.toNat % 8192)
      let p := { r.pkt with seq := q }
      .next ((s.setFab { s.fab with reqs := s.fab.reqs.map fun x => if x.rid = r.rid then { x with retry := false, pkt := p } else x }).transmit 8 p)
  | none => .next s

/-- FAB_ATOMIC (R454, Table 15.11). -/
def execFabAtomic (h : CmdHdr) (addr opx a b : W64) (s : State) : Host.Outcome State Fault Refusal :=
  command 0x0710 4 false h s fun c s =>
    let part := addr.toNat / 2 ^ 44
    if !(inRange opx 0 255) then s.reply c stInvalid []
    else if !(s.member part) then (s.accessFault 4 false addr.toNat 0).reply c stAddress []
    else if part = s.partNo then
      let (st, old, s) := s.atomic (addr.toNat % 2 ^ 44) opx.toNat a b
      if st = rsOk then s.reply c stOk [old] else (s.accessFault 4 (st = rsPoison) addr.toNat 0).reply c (replyStatus st) []
    else
      let p : Pkt := { type := 0x03, ctrl := 0, dst := BitVec.ofNat 16 part, src := 0, plen := 1, addr := BitVec.ofNat 64 (addr.toNat % 2 ^ 44)
                       opx := bits opx 0 8, payload := leBytes 8 a.toNat ++ leBytes 8 b.toNat ++ List.replicate 16 0 }
      (s.waitCmd c .atomic).request p (.cmd h.seq)

end Sys2Proof.Machine
end

