-- ==== Sys2Proof/Machine/P384.lean ====
section
/-! DEFINITION. ECDSA over P-384 with SHA-384: signature verification as FIPS 186-5 states it (R490, R559). The curve
constants are those of FIPS 186-5's reference SP 800-186 (PRESUMED, log entry 19). -/

namespace Sys2Proof.Machine

/-- The field prime of P-384. -/
def p384p : Nat := 2 ^ 384 - 2 ^ 128 - 2 ^ 96 + 2 ^ 32 - 1
/-- The coefficient b. -/
def p384b : Nat := 0xb3312fa7e23ee7e4988e056be3f82d19181d9c6efe8141120314088f5013875ac656398d8a2ed19d2a85c8edd3ec2aef
/-- The order of the base point. -/
def p384n : Nat := 0xffffffffffffffffffffffffffffffffffffffffffffffffc7634d81f4372ddf581a0db248b0a77aecec196accc52973
def p384gx : Nat := 0xaa87ca22be8b05378eb1c71ef320ad746e1d3b628ba79b9859f741e082542a385502f25dbf55296c3a545e3872760ab7
def p384gy : Nat := 0x3617de4a96262c6f5d9e98bf9292dc29f8f41dbd289a147ce9da3113b5f0b8c00a60b1ce1d7e819d7a431d7c90ea0e5f

/-- `b ^ e mod m` by squaring; fuel bounds the bits of `e`. -/
def powMod (m : Nat) : Nat → Nat → Nat → Nat
  | 0, _, _ => 1 % m
  | fuel + 1, b, e => if e = 0 then 1 % m else (powMod m fuel (b * b % m) (e / 2)) * (if e % 2 = 1 then b else 1) % m

/-- The inverse modulo a prime. -/
def invMod (m a : Nat) : Nat := powMod m 400 (a % m) (m - 2)

/-- A point of the curve; none is the point at infinity. -/
abbrev EcPoint := Option (Nat × Nat)

/-- `a - b` in the field. -/
def subMod (m a b : Nat) : Nat := (a + m - b % m) % m

/-- Point addition. -/
def ecAdd (a b : EcPoint) : EcPoint :=
  match a, b with
  | none, q => q
  | q, none => q
  | some (x, y), some (u, v) =>
    if x = u && (y + v) % p384p = 0 then none
    else
      let l := if x = u then (3 * x * x + p384p - 3) * invMod p384p (2 * y) % p384p
               else subMod p384p v y * invMod p384p (subMod p384p u x) % p384p
      let w := subMod p384p (l * l) (x + u)
      some (w, subMod p384p (l * subMod p384p x w) y)

/-- Scalar multiplication over the bits of `k`, most significant first. -/
def ecMul (q : EcPoint) : List Bool → EcPoint → EcPoint
  | [], r => r
  | c :: cs, r => ecMul q cs (let d := ecAdd r r; if c then ecAdd d q else d)

/-- The 384 bits of a scalar, most significant first. -/
def bits384 (k : Nat) : List Bool := (List.range 384).map fun i => k / 2 ^ (383 - i) % 2 = 1

/-- The number a big-endian byte list spells. -/
def ofBe (bs : List Byte) : Nat := bs.foldl (fun a b => a * 256 + b.toNat) 0

/-- Whether a public key (x then y) names a point of the curve. -/
def p384OnCurve (x y : Nat) : Bool := x < p384p && y < p384p && y * y % p384p = (x * x * x + (p384p - 3) * x + p384b) % p384p

/-- Whether `sig` (r then s) verifies a SHA-384 digest under a public key (x then y), 48 bytes each. The numbers of a key
are little-endian (R7); `num` reads those of the signature: little-endian in Table 19.8 (R7), SEC 1 in Table 17.1. -/
def ecdsaVerify (num : List Byte → Nat) (key digest sig : List Byte) : Bool :=
  let x := ofLe (key.take 48)
  let y := ofLe ((key.drop 48).take 48)
  let r := num (sig.take 48)
  let s := num ((sig.drop 48).take 48)
  if !(p384OnCurve x y) || r = 0 || s = 0 || r ≥ p384n || s ≥ p384n then false
  else
    let w := invMod p384n s
    let u1 := ofBe digest * w % p384n
    let u2 := r * w % p384n
    match ecAdd (ecMul (some (p384gx, p384gy)) (bits384 u1) none) (ecMul (some (x, y)) (bits384 u2) none) with
    | none => false
    | some (a, _) => a % p384n = r

end Sys2Proof.Machine
end

