-- ==== Sys2Proof/Machine/Manifest.lean ====
section
/-! DEFINITION. Manifests and shards of a weight load: their checks and their decoding (R489 to R491, R497 to R499). -/

namespace Sys2Proof.Machine

/-! ### Manifests (Tables 17.1, 17.2) -/

/-- A shard entry. -/
def Shard.parse (b : List Byte) : Shard where
  soff := leAt b 0 8
  slen := leAt b 8 8
  enc := leAt b 0x10 1
  sfmt := leAt b 0x11 1
  dfmt := leAt b 0x12 1
  layout := leAt b 0x13 1 % 4
  tsplit := leAt b 0x13 1 / 4 % 4
  pstage := leAt b 0x14 1
  rows := leAt b 0x18 4
  cols := leAt b 0x1C 4
  doff := leAt b 0x20 8
  scoff := leAt b 0x28 8
  digest := (b.drop 0x30).take 48
  clean := leAt b 0x13 1 < 16 && leAt b 0x15 3 = 0

/-- Whether a header breaks Table 17.1, but for its signature. -/
def manifestBad (b : List Byte) (size : Nat) : Bool :=
  leAt b 0 4 ≠ 0x4A35574D || leAt b 4 2 ≠ 1 || leAt b 6 1 > 7 || leAt b 7 1 ≠ 0 || leAt b 8 4 = 0 || leAt b 8 4 > 1048576 || leAt b 0xC 4 ≠ 0
    || leAt b 0x10 8 > size

/-- The digest that SIG signs: header and entries with SIG as zero (R490). -/
def manifestDigest (m : List Byte) : List Byte := sha384 (m.take 0x20 ++ List.replicate 96 0 ++ m.drop 128)

/-- The entries of a manifest. -/
def manifestShards (m : List Byte) : List Shard := (List.range (leAt m 8 4)).map fun i => Shard.parse ((m.drop (128 + 96 * i)).take 96)

/-- The kept matrix's dimensions, and the destination matrix's (R491). -/
def Shard.kept (x : Shard) : Nat × Nat := (if x.tsplit = 1 then x.rows / 4 else x.rows, if x.tsplit = 2 then x.cols / 4 else x.cols)
def Shard.destDims (x : Shard) : Nat × Nat := if x.layout = 1 then (x.kept.2, x.kept.1) else x.kept

/-- Whether a shard's elements are quantised: its destination carries scales. -/
def Shard.quant (x : Shard) : Bool := x.dfmt ≠ x.sfmt
/-- Whether its scales are tile scales. -/
def Shard.tileScaled (x : Shard) : Bool := x.quant && (x.dfmt = 2 || x.dfmt = 3)
/-- Scale blocks of the destination (R133). -/
def Shard.blocks (x : Shard) : Nat :=
  if x.tileScaled then x.destDims.1 / 32 * (x.destDims.2 / 32) else x.destDims.1 * (x.destDims.2 / 32)

/-- Whether a shard entry ends the load with FORMAT (R491). -/
def Shard.bad (x : Shard) (copyBytes : Nat) : Bool :=
  let w := fmtBits x.sfmt / 8
  let (r, c) := x.destDims
  x.slen = 0 || x.slen > 2 ^ 36 || x.enc > 1 || !([0x0, 0x1, 0x2, 0x3, 0x9, 0xA, 0xC, 0xD].contains x.sfmt)
    || !(x.dfmt = x.sfmt || ([0x2, 0x3, 0x4, 0x5, 0x8].contains x.dfmt && (x.sfmt = 0 || x.sfmt = 0xA)))
    || x.layout = 3 || x.tsplit = 3 || !x.clean || (x.pstage > 15 && x.pstage ≠ 0xFF) || x.rows = 0 || x.rows > 2 ^ 24 || x.cols = 0
    || x.cols > 2 ^ 24 || x.doff % 128 ≠ 0 || x.scoff % 128 ≠ 0 || (!x.quant && x.scoff ≠ 0)
    || (x.tsplit = 1 && x.rows % 4 ≠ 0) || (x.tsplit = 2 && x.cols % 4 ≠ 0)
    || ((x.layout = 2 || x.tileScaled) && (r % 32 ≠ 0 || c % 32 ≠ 0)) || (x.quant && !x.tileScaled && c % 32 ≠ 0)
    || x.doff + cdiv (r * c * fmtBits x.dfmt) 8 > copyBytes
    || (x.quant && x.scoff + cdiv x.blocks 128 * 128 + cdiv x.blocks 8 > copyBytes)
    || (x.enc = 0 && x.slen ≠ x.rows * x.cols * w)

/-! ### The block entropy format (R499) -/

/-- Code lengths of 256 symbols. -/
def codeLens (b : List Byte) : List Nat := b.flatMap fun x => [x.toNat % 16, x.toNat / 16]

/-- The canonical code of each symbol with a length, as RFC 1951 assigns them: (length, code, symbol). -/
def canonical (lens : List Nat) : List (Nat × Nat × Nat) :=
  let cnt := fun (l : Nat) => (lens.filter fun x => x = l).length
  let first := fun (l : Nat) => (List.range l).foldl (fun code b => (code + if b = 0 then 0 else cnt b) * 2) 0
  (List.range 16).flatMap fun l =>
    if l = 0 then []
    else
      let syms := ((List.range lens.length).zip lens).filter fun p => p.2 = l
      ((List.range syms.length).zip syms).map fun p => (l, first l + p.1, p.2.1)

/-- Whether a code assigns more than the space of its lengths. -/
def overSubscribed (lens : List Nat) : Bool := (lens.foldl (fun n l => n + if l = 0 then 0 else 2 ^ (15 - l)) 0) > 2 ^ 15

/-- Bits of bytes, most significant first. -/
def bitsMsb (b : List Byte) : List Bool := b.flatMap fun x => [7, 6, 5, 4, 3, 2, 1, 0].map fun i => x.getLsbD i

/-- Decode `n` symbols; none where the coded bits end first or spell no symbol. -/
def huffDecode (tab : List (Nat × Nat × Nat)) : List Bool → Nat → Nat → Nat → List Byte → Option (List Byte)
  | _, 0, _, _, acc => some acc.reverse
  | [], _ + 1, _, _, _ => none
  | b :: bs, n + 1, len, code, acc =>
    let code := code * 2 + b.toNat
    match tab.find? fun e => e.1 = len + 1 && e.2.1 = code with
    | some e => huffDecode tab bs n 0 0 (BitVec.ofNat 8 e.2.2 :: acc)
    | none => if len ≥ 14 then none else huffDecode tab bs (n + 1) (len + 1) code acc

/-- One plane of `n` bytes from the front of a payload, and what follows it. -/
def planeDecode (n : Nat) (b : List Byte) : Option (List Byte × List Byte) :=
  match b with
  | [] => none
  | mode :: r =>
    if mode = 0 then (if r.length < n then none else some (r.take n, r.drop n))
    else if mode = 1 then
      let k := leAt r 0 4
      let lens := codeLens ((r.drop 4).take 128)
      if r.length < 132 + k ∨ overSubscribed lens then none
      else (huffDecode (canonical lens) (bitsMsb ((r.drop 132).take k)) n 0 0 []).map fun p => (p, r.drop (132 + k))
    else none

/-- `w` planes in order. -/
def planesDecode (n : Nat) : Nat → List Byte → Option (List (List Byte))
  | 0, _ => some []
  | w + 1, b => match planeDecode n b with
    | none => none
    | some (p, r) => (planesDecode n w r).map fun l => p :: l

/-- Elements from their planes: plane p holds byte p of each. -/
def interleave (m : Nat) (planes : List (List Byte)) : List Byte :=
  (planes.foldr (fun p acc => List.zipWith (fun x l => x :: l) p acc) (List.replicate m [])).flatten

/-- The raw bytes of a shard's blocks; `left` raw bytes are still to come. -/
def blocksDecode (w : Nat) : Nat → Nat → List Byte → Option (List Byte)
  | 0, left, _ => if left = 0 then some [] else none
  | fuel + 1, left, b =>
    if left = 0 then some []
    else
      let u := leAt b 0 4
      let c := leAt b 4 4
      if b.length < 8 + c ∨ u ≠ min 65536 left ∨ u % w ≠ 0 then none
      else match planesDecode (u / w) w ((b.drop 8).take c) with
        | none => none
        | some ps => (blocksDecode w fuel (left - u) (b.drop (8 + c))).map fun l => interleave (u / w) ps ++ l

/-- The raw row-major bytes of a stored shard; none when its format breaks (R499). -/
def Shard.raw (x : Shard) (b : List Byte) : Option (List Byte) :=
  let w := fmtBits x.sfmt / 8
  let n := x.rows * x.cols * w
  if x.enc = 0 then some b else blocksDecode w (n / 65536 + 1) n b

/-! ### The destination (R497, R498) -/

/-- Transpose a matrix of `c` columns. -/
def transposeRows (c : Nat) (m : List (List Nat)) : List (List Nat) :=
  m.foldr (fun row acc => List.zipWith (fun x l => x :: l) row acc) (List.replicate c [])

/-- The destination matrix of a shard at a T coordinate, in rows (R491). -/
def Shard.dest (x : Shard) (t : Nat) (raw : List Byte) : List (List Nat) :=
  let rows := cutList x.cols x.rows (arr (x.rows * x.cols) (fmtBits x.sfmt / 8) raw)
  let rows := if x.tsplit = 1 then (rows.drop (t * (x.rows / 4))).take (x.rows / 4) else rows
  let rows := if x.tsplit = 2 then rows.map fun r => (r.drop (t * (x.cols / 4))).take (x.cols / 4) else rows
  if x.layout = 1 then transposeRows x.kept.2 rows else rows

/-- A matrix cut into 32 × 32 tiles in row-major order of tiles, each in rows. -/
def tilesOf (c : Nat) (m : List (List Nat)) : List (List (List Nat)) :=
  (cutList 32 (m.length / 32) m).flatMap fun band => (List.range (c / 32)).map fun k => band.map fun r => (r.drop (k * 32)).take 32

/-- The scale shift of Table 7.1. -/
def scaleShift (fmt : Nat) : Int := if fmt = 2 ∨ fmt = 4 then 8 else if fmt = 3 ∨ fmt = 5 then 15 else 2

/-- Quantise one block: its scale byte, its elements, and how many conversions are counted (R498, Table 6.6). -/
def Shard.quantBlock (x : Shard) (vs : List Nat) : Nat × List Nat × Nat :=
  let e := (vs.map fun v => expOf (widen32 x.sfmt v)).foldl (fun a b => max a b) (-1074)
  let s := (clampI 0 0xFE (127 + e - scaleShift x.dfmt)).1
  let cs := vs.map fun v => fmtConvert x.dfmt ((val32 (widen32 x.sfmt v)).scale (127 - s))
  (if cs.any (·.nanBlock) then 0xFF else s.toNat, cs.map (·.raw), (cs.filter (·.counted)).length)

/-- Split a flat list of quantised blocks' results back into elements in destination order. -/
def Shard.ordered (x : Shard) (m : List (List Nat)) : List Nat :=
  if x.layout = 2 then ((tilesOf x.destDims.2 m).flatMap fun t => t.flatten) else m.flatten

/-- Rows of a matrix of tiles put side by side again. -/
def untile (c : Nat) (ts : List (List (List Nat))) : List (List Nat) :=
  (cutList (c / 32) (ts.length / (c / 32)) ts).flatMap fun band =>
    band.foldr (fun t acc => List.zipWith (fun r l => r ++ l) t acc) (List.replicate 32 [])

/-- What a kept shard writes: destination elements, scale bytes with their flag bitmap, and counted conversions (R497,
R498). -/
def Shard.image (x : Shard) (t : Nat) (raw : List Byte) : List Byte × List Byte × Nat :=
  let c := x.destDims.2
  let m := x.dest t raw
  if !x.quant then (packRaws (fmtBits x.dfmt) (x.ordered m), [], 0)
  else
    let flags := fun (n : Nat) => List.replicate (cdiv n 128 * 128 - n + cdiv n 8) (0 : Byte)
    if x.tileScaled then
      let qs := (tilesOf c m).map fun tile => (x.quantBlock tile.flatten)
      let ts := qs.map fun q => cutList 32 32 q.2.1
      let bytes := if x.layout = 2 then ts.flatMap fun tile => tile.flatten else (untile c ts).flatten
      (packRaws (fmtBits x.dfmt) bytes, (qs.map fun q => BitVec.ofNat 8 q.1) ++ flags qs.length, (qs.map (·.2.2)).sum)
    else
      let qs := (cutList 32 (m.length * c / 32) (x.ordered m)).map x.quantBlock
      (packRaws (fmtBits x.dfmt) (qs.flatMap (·.2.1)), (qs.map fun q => BitVec.ofNat 8 q.1) ++ flags qs.length, (qs.map (·.2.2)).sum)

end Sys2Proof.Machine
end

