-- ==== Sys2Proof/Machine/WeightOps.lean ====
section
/-! DEFINITION. Weight sets, loads and weight switches (R487 to R508). -/

namespace Sys2Proof.Machine

/-! ### Sets (R487) -/

/-- The key under which a set's pins stand, in place of a graph. -/
def setPinKey (job : Byte) : Nat := 256 + job.toNat

/-- A registered set of a job. -/
def State.wset (s : State) (job : Byte) (id : Nat) : Option WSet := s.weights.sets.find? fun x => x.job = job && x.id = id
/-- Change a set. -/
def State.modSet (s : State) (job : Byte) (id : Nat) (f : WSet → WSet) : State :=
  s.setWeights { s.weights with sets := s.weights.sets.map fun x => if x.job = job && x.id = id then f x else x }

/-- The ranges of a set's copies. -/
def WSet.ranges (x : WSet) : List PinRange :=
  (List.range x.ncopy).map fun c => { va := x.base + c * x.stride, len := x.size, write := true }

/-- WEIGHT_SET_REG (R487, R488, Table 17.4). -/
def execWeightSetReg (h : CmdHdr) (set ncopy base size stride : W64) (s : State) : Host.Outcome State Fault Refusal :=
  command 0x0601 5 true h s fun c s =>
    let u := fun (v : W64) => v.toNat % 65536 = 0
    if set.toNat > 15 || !(inRange ncopy 1 2) || !(u base) || !(u size) || (ncopy = 2 && (!(u stride) || stride.toNat < size.toNat)) then
      s.reply c stInvalid []
    else if (s.wset h.job set.toNat).isSome then s.reply c stConflict []
    else
      let x : WSet := { job := h.job, id := set.toNat, ncopy := ncopy.toNat, base := base.toNat, size := size.toNat,
                        stride := if ncopy = 2 then stride.toNat else 0 }
      match s.probeAll 4 (setPinKey h.job) x.id h.job x.ranges [] with
      | .ok ps =>
        if s.pinsIn 4 + ps.length > pinRoom then s.parkCmd c
        else
          let first := !(s.weights.sets.any fun y => y.job = h.job)
          let s := s.setXlt { s.xlt with pins := s.xlt.pins ++ ps }
          let w := s.weights
          let s := s.setWeights { w with
            sets := w.sets ++ [x], refetched := if first then w.refetched.set 0 h.job.toNat 0 else w.refetched
            drops := if first then w.drops.set 0 h.job.toNat 0 else w.drops }
          let s : State := if first then { s with weightEpoch := s.weightEpoch.set 0 h.job.toNat 0 } else s
          s.reply c stOk []
      | _ => s.reply c stAddress []

/-- Whether a load of a job runs on this part. -/
def State.loadRuns (s : State) (job : Byte) : Bool := s.weights.loads.any fun l => l.job = job

/-- WEIGHT_SET_CLEAR (Table 17.4). -/
def execWeightSetClear (h : CmdHdr) (set : W64) (s : State) : Host.Outcome State Fault Refusal :=
  command 0x0602 1 true h s fun c s =>
    match s.wset h.job set.toNat with
    | none => s.reply c stNotFound []
    | some _ =>
      if s.loadRuns h.job || s.jobResident h.job then s.reply c stBusy []
      else
        let s := s.setWeights { s.weights with sets := s.weights.sets.filter fun x => !(x.job = h.job && x.id = set.toNat) }
        (s.unpin fun p => p.graph = setPinKey h.job && p.task = set.toNat).reply c stOk []

/-! ### Switches (R503, Table 17.3) -/

/-- Unended graphs of a job. -/
def State.liveGraphs (s : State) (job : Byte) : List Graph := (s.residents.filter fun p => p.2.hdr.job = job && p.2.phase ≠ .ended).map (·.2)

/-- A graph's next unadmitted pair (Table 17.3 step 2). -/
def Graph.nextPair (gr : Graph) : W32 × Nat :=
  let m := if gr.hdr.pipe then gr.admitted else gr.stamps.foldl (fun a p => max a (p.1 + 1)) 0
  let top := match gr.closeC with | some c => min c gr.hdr.mbCount | none => gr.hdr.mbCount
  if gr.phase = .boundary || (gr.phase = .ending) || (m ≥ top && gr.loading.isNone && !gr.recs.isEmpty) then (gr.step + 1, 0) else (gr.step, m)

/-- The greatest of pairs. -/
def maxPair (l : List (W32 × Nat)) : W32 × Nat := l.foldl (fun a b => if pairBefore a b then b else a) (0, 0)

/-- The coordinator ends its switch without COMMIT. -/
def State.abortWeights (s : State) (job : Byte) (status : Byte) (results : List W64) : State :=
  let w := s.weights
  let before := ((w.coords.find? fun c => c.job = job).map (·.before)).getD []
  let s := (s.setWeights { w with parts := w.parts.filter (fun p => p.job ≠ job), coords := w.coords.filter fun c => c.job ≠ job }).send
    (.mgmt none (.weightAbort job))
  let s := s.residents.foldl (fun (s : State) (p : Nat × Graph) => if p.2.hdr.job = job then s.readmit p.1 else s) s
  s.replyWaiting (.weightSwitch job) status (before ++ results)

/-- COMMIT on this part: the hold ends; epochs change at b (Table 17.3 step 4). -/
def State.commitWeights (s : State) (job : Byte) (b : W32 × Nat) : State :=
  let s := s.setWeights { s.weights with parts := s.weights.parts.map fun p => if p.job = job then { p with commit := some b } else p }
  if s.jobRuns job then
    s.residents.foldl (fun (s : State) (p : Nat × Graph) => if p.2.hdr.job = job && p.2.phase = .running then s.readmit p.1 else s) s
  else s.graphGone job

/-- READY reaches the coordinator; with the last it sends COMMIT and replies (Table 17.3 steps 3 to 5). -/
def State.weightReadyFrom (s : State) (job : Byte) (part : Nat) (pair : W32 × Nat) : State :=
  match s.weights.coords.find? fun c => c.job = job with
  | none => s
  | some c =>
    let c' : WCoord := { c with ready := if c.ready.any fun r => r.1 = part then c.ready else c.ready ++ [(part, pair)] }
    let w := s.weights
    if s.domainParts.all fun n => c'.ready.any fun r => r.1 = n then
      let b := maxPair (c'.ready.map (·.2))
      let s := (s.setWeights { w with coords := w.coords.filter fun x => x.job ≠ job }).send (.mgmt none (.weightCommit job c.epoch b.1 (BitVec.ofNat 16 b.2)))
      (s.commitWeights job b).replyWaiting (.weightSwitch job) stOk (c.before ++ [c.epoch.setWidth 64, b.1.setWidth 64, BitVec.ofNat 64 b.2])
    else s.setWeights { w with coords := w.coords.map fun x => if x.job = job then c' else x }

/-- PREPARE on this part: admissions are held and the next pair is answered (Table 17.3 step 2). -/
def State.prepareWeights (s : State) (coord : Nat) (job : Byte) (e : W16) : State :=
  let pair := maxPair ((s.liveGraphs job).map Graph.nextPair)
  let s := s.setWeights { s.weights with parts := s.weights.parts ++ [{ job := job, coord := coord, epoch := e }] }
  if coord = s.partNo then s.weightReadyFrom job s.partNo pair
  else s.send (.mgmt (some coord) (.weightReady job pair.1 (BitVec.ofNat 16 pair.2)))

/-- Start a switch for a command whose results so far are `before` (R503). -/
def State.startSwitch (s : State) (c : Cmd) (timeout : W64) (before : List W64) : State :=
  let job := c.hdr.job
  let e := nextEpoch (s.epochOf job)
  match s.weights.sets.find? fun x => x.job = job && x.ncopy = 2 && !(x.ready.contains (e.toNat % 2)) with
  | some x => s.reply c stNotReady (before ++ [BitVec.ofNat 64 x.id])
  | none =>
    if (s.liveGraphs job).length > 1 || (s.wpart job).isSome then s.reply c stConflict before
    else match s.fab.lost with
    | p :: _ => s.reply c stPartLost (before ++ [BitVec.ofNat 64 p])
    | [] =>
      let s := s.waitCmd c (.weightSwitch job)
      let s := s.setWeights { s.weights with
        coords := s.weights.coords ++ [{ job := job, epoch := e, since := s.hubLc, timeout := timeout, before := before }] }
      (s.send (.mgmt none (.weightPrepare job e))).prepareWeights s.partNo job e

/-- WEIGHT_SWITCH (R503). -/
def execWeightSwitch (h : CmdHdr) (timeout : W64) (s : State) : Host.Outcome State Fault Refusal :=
  command 0x0604 1 true h s fun c s =>
    if inRange timeout 1000 10000000 then s.startSwitch c timeout [] else s.reply c stInvalid []

/-- WEIGHT_PREPARE (R503). -/
def execWeightPrepare (coord : Fin 8192) (job : Byte) (epoch : W16) (s : State) : Host.Outcome State Fault Refusal :=
  if coord.val = s.partNo || !(s.member coord.val) || (s.wpart job).isSome then .next s else .next (s.prepareWeights coord.val job epoch)

/-- WEIGHT_READY reaches the coordinator (R503). -/
def execWeightReady (part : Fin 8192) (job : Byte) (step : W32) (mb : W16) (s : State) : Host.Outcome State Fault Refusal :=
  if s.member part.val then .next (s.weightReadyFrom job part.val (step, mb.toNat)) else .next s

/-- WEIGHT_COMMIT (R503, R504). -/
def execWeightCommit (coord : Fin 8192) (job : Byte) (epoch : W16) (step : W32) (mb : W16) (s : State) : Host.Outcome State Fault Refusal :=
  match s.wpart job with
  | some p =>
    if p.coord = coord.val && p.epoch = epoch && p.commit.isNone && coord.val ≠ s.partNo then .next (s.commitWeights job (step, mb.toNat)) else .next s
  | none => .next s

/-- WEIGHT_ABORT: the hold is released and the epoch stays (R503). -/
def execWeightAbort (coord : Fin 8192) (job : Byte) (s : State) : Host.Outcome State Fault Refusal :=
  match s.wpart job with
  | some p =>
    if p.coord = coord.val && p.commit.isNone && coord.val ≠ s.partNo then
      let s := s.setWeights { s.weights with parts := s.weights.parts.filter fun p => p.job ≠ job }
      .next (s.residents.foldl (fun (s : State) (p : Nat × Graph) => if p.2.hdr.job = job then s.readmit p.1 else s) s)
    else .next s
  | none => .next s

/-- WEIGHT_SWITCH_TIMEOUT: the reply names the lowest silent part (R503). -/
def execWeightSwitchTimeout (job : Byte) (s : State) : Host.Outcome State Fault Refusal :=
  match s.weights.coords.find? fun c => c.job = job with
  | some c => .next (s.abortWeights job stTimeout [BitVec.ofNat 64 ((s.domainParts.find? fun n => !(c.ready.any fun r => r.1 = n)).getD 0)])
  | none => .next s

/-! ### Loads (R490 to R501) -/

/-- The loader's own record of a job's load. -/
def State.loader (s : State) (job : Byte) : Option Loader := s.weights.loaders.find? fun l => l.job = job
/-- A load as this part sees it. -/
def State.load (s : State) (job : Byte) : Option WLoad := s.weights.loads.find? fun l => l.job = job
def State.modLoader (s : State) (job : Byte) (f : Loader → Loader) : State :=
  s.setWeights { s.weights with loaders := s.weights.loaders.map fun l => if l.job = job then f l else l }
def State.modLoad (s : State) (job : Byte) (f : WLoad → WLoad) : State :=
  s.setWeights { s.weights with loads := s.weights.loads.map fun l => if l.job = job then f l else l }
/-- The load of a job is over on this part. -/
def State.dropLoad (s : State) (job : Byte) : State :=
  s.setWeights { s.weights with loads := s.weights.loads.filter (fun l => l.job ≠ job), loaders := s.weights.loaders.filter fun l => l.job ≠ job }

/-- The load ends without making its copy ready (R500). -/
def State.endLoad (s : State) (job : Byte) (status : Byte) (results : List W64) : State :=
  (s.dropLoad job).replyWaiting (.weightLoad job) status results

/-- The ports by which a part forwards CRIER packets of a loader: neighbours that the spanning tree reaches through it
(R495). -/
def State.crierPorts (s : State) (src : Nat) : List Nat :=
  [0, 1, 2, 3, 4, 5, 6, 7].filter fun n =>
    let y := s.partnerOf n
    let ax := portAxis n
    let z := s.axisSize ax
    let plus := 2 * ((coordAt y ax + z - coordAt src ax) % z) ≤ z
    z > 1 && y ≠ src && coordAt y ax ≠ coordAt src ax && [0, 1, 2, 3].all (fun a => a ≤ ax || coordAt y a = coordAt src a) && plus = portPlus n

/-- CRIER packets of a load leave for the subtree of this part (R495). -/
def State.sendCrier (s : State) (src : Nat) (job : Byte) (set : Nat) (epoch : W16) (shard : Option Nat) (bytes : List Byte) : State :=
  (s.crierPorts src).foldl (fun (s : State) (n : Nat) => s.send (.crier n job set epoch shard bytes)) s

/-- Whether this part keeps a shard (R497). -/
def State.keeps (s : State) (x : Shard) : Bool := x.pstage = 0xFF || x.pstage = coordAt s.partNo 1

/-- The Porter writes a kept shard's decoded image into its copy (R497, R498). -/
def State.landShard (s : State) (l : WLoad) (x : Shard) (raw : List Byte) : State :=
  match s.wset l.job l.set with
  | none => s
  | some w =>
    let (els, scs, n) := x.image (coordAt s.partNo 0) raw
    let va := w.base + l.copy * w.stride
    let tags : W64 := 0x00FFFF0000000000 ||| (l.epoch.setWidth 64 <<< 8) ||| l.job.setWidth 64
    let ws := (va + x.doff, els) :: if scs.isEmpty then [] else [(va + x.scoff, scs)]
    let s := if n = 0 then s else s.count .conversions 4 n
    match s.taskWrites (setPinKey l.job) l.set l.job tags ws with
    | .ok s => s
    | _ => s

/-- Every shard this part keeps is written. -/
def State.loadWritten (s : State) (l : WLoad) : Bool :=
  ((List.range l.shards.length).zip l.shards).all fun p => !(s.keeps p.2) || l.got.contains p.1

/-- LOADED of a part at the loader; with the last, and every shard broadcast, the load completes (R500). -/
def State.loadedFrom (s : State) (job : Byte) (part : Nat) : State :=
  match s.loader job, s.load job with
  | some l, some w =>
    let l' : Loader := { l with loaded := if l.loaded.contains part then l.loaded else l.loaded ++ [part] }
    let s := s.modLoader job fun _ => l'
    if l'.next ≥ w.shards.length && s.domainParts.all fun n => l'.loaded.contains n then
      let s := (s.modSet job w.set fun x => { x with ready := if x.ncopy = 2 && !(x.ready.contains w.copy) then x.ready ++ [w.copy] else x.ready,
                                                     models := x.models.set w.copy w.model }).dropLoad job
      let res : List W64 := [w.epoch.setWidth 64]
      if l.andSwitch then
        (s.host.cmds.filter fun c => c.wait = .weightLoad job).foldl (fun (s : State) (c : Cmd) => s.startSwitch c l.timeout res) s
      else s.replyWaiting (.weightLoad job) stOk res
    else s
  | _, _ => s

/-- This part has written what it keeps: it reports LOADED; a receiver's own copy is then ready (R500). -/
def State.reportLoaded (s : State) (job : Byte) : State :=
  match s.load job with
  | none => s
  | some l =>
    if !(s.loadWritten l) then s
    else if l.loader = s.partNo then s.loadedFrom job s.partNo
    else
      let s := (s.modSet job l.set fun x => { x with ready := if x.ncopy = 2 && !(x.ready.contains l.copy) then x.ready ++ [l.copy] else x.ready,
                                                     models := x.models.set l.copy l.model }).dropLoad job
      s.send (.mgmt (some l.loader) (.loaded job))

/-- The loader fetches its next shard, or fetches one again (R492). -/
def State.fetchShard (s : State) (job : Byte) : State :=
  match s.loader job, s.load job with
  | some l, some w =>
    match w.shards[l.next]?, l.srcs[l.src]? with
    | some x, some (qp, key, base) =>
      (s.modLoader job fun l => { l with since := s.hubLc }).send (.rdmaRead qp key (base + BitVec.ofNat 64 x.soff) x.slen)
    | _, _ => s
  | _, _ => s

/-- A part's registration of a set, as the loader's manifest broadcast carries it (R496, DESIGN CHOICE, log entry 20). -/
def WSet.record (x : WSet) : List Byte := leBytes 8 x.ncopy ++ leBytes 8 x.base ++ leBytes 8 x.size ++ leBytes 8 x.stride

/-- The load's own view of a manifest. -/
def loadOf (job : Byte) (set : Nat) (e : W16) (loader ncopy : Nat) (m : List Byte) : WLoad :=
  { job := job, set := set, epoch := e, loader := loader, copy := if ncopy = 2 then e.toNat % 2 else 0, model := BitVec.ofNat 64 (leAt m 0x18 8),
    shards := manifestShards m }

/-- Whether this part's copy cannot take a load of epoch `e` (R501). -/
def State.copyHeld (s : State) (x : WSet) (e : W16) : Bool :=
  if x.ncopy = 2 then (s.weights.held.get [] x.job.toNat).any fun o => o.toNat % 2 = e.toNat % 2 else s.jobResident x.job

/-- A checked manifest starts the load: it is broadcast, and the first shard is fetched (R491, R492, R495, R501). -/
def State.beginLoad (s : State) (c : Cmd) (x : WSet) (e : W16) (m : List Byte) (st : Nat × Nat) (srcs : List (Nat × W64 × W64)) (timeout : W64)
    (sw : Bool) : State :=
  let job := c.hdr.job
  let shards := manifestShards m
  match ((List.range shards.length).zip shards).find? fun p => p.2.bad (leAt m 0x10 8) with
  | some p => s.reply c 0x0B [BitVec.ofNat 64 p.1]
  | none =>
    if st.2 < 2 * (shards.foldl (fun a x => max a x.slen) 0) then s.reply c stInvalid []
    else
      let l := loadOf job x.id e s.partNo x.ncopy m
      let w := s.weights
      let s := (s.setWeights { w with
        sets := w.sets.map (fun y => if y.job = job && y.id = x.id then { y with ready := y.ready.filter fun r => r ≠ l.copy } else y)
        loads := w.loads ++ [l]
        loaders := w.loaders ++ [{ job := job, stOff := st.1, stSize := st.2, srcs := srcs, timeout := timeout, andSwitch := sw, since := s.hubLc }] }).waitCmd
          c (.weightLoad job)
      let s := s.sendCrier s.partNo job x.id e none (x.record ++ m)
      (s.fetchShard job).reportLoaded job

/-- WEIGHT_LOAD (R490 to R492, R501, Table 17.4). -/
def execWeightLoad (h : CmdHdr) (set manifest stOff stSize nsrc : W64) (srcs : List (W64 × W64 × W64)) (timeout flags : W64) (s : State) :
    Host.Outcome State Fault Refusal :=
  command 0x0603 (7 + 3 * nsrc.toNat) true h s fun c s =>
    let qs := srcs.map fun x => (x.1.toNat, x.2.1, x.2.2)
    if set.toNat > 15 || manifest.toNat % 128 ≠ 0 || !(inRange nsrc 1 4) || srcs.length ≠ nsrc.toNat || !(inRange timeout 1000 10000000)
        || flags.toNat > 1 || stOff.toNat + stSize.toNat > 0x18000000000
        || !(qs.all fun q => s.fab.qps.any fun p => p.id = q.1 && p.job = h.job) then s.reply c stInvalid []
    else match s.wset h.job set.toNat with
    | none => s.reply c stNotFound []
    | some x =>
      let e := if x.ncopy = 2 then nextEpoch (s.epochOf h.job) else s.epochOf h.job
      if s.loadRuns h.job || s.copyHeld x e then s.reply c stBusy [BitVec.ofNat 64 s.partNo]
      else match s.fab.lost with
      | p :: _ => s.reply c stPartLost [BitVec.ofNat 64 p]
      | [] => s.cmdPeek c h.job manifest.toNat 128 fun b s =>
        if manifestBad b x.size then (s.dropHub h.job).reply c 0x0B []
        else s.cmdRead c h.job manifest.toNat (128 + 96 * leAt b 8 4) fun m s =>
          let key := s.host.wkeys.get [] (leAt m 6 1)
          if key.isEmpty || !(ecdsaVerify ofBe key (manifestDigest m) ((m.drop 0x20).take 96)) then s.reply c 0x0A []
          else s.beginLoad c x e m (stOff.toNat, stSize.toNat) qs timeout (flags = 1)

/-- SHARD_FETCH_DONE: the shard's digest is checked; it is decoded and broadcast, or fetched again (R492 to R494, R499). -/
def execShardFetchDone (job : Byte) (bytes : Option (List Byte)) (s : State) : Host.Outcome State Fault Refusal :=
  match s.loader job, s.load job with
  | some l, some w =>
    match w.shards[l.next]? with
    | none => .next s
    | some x =>
      let idx := BitVec.ofNat 64 l.next
      match bytes with
      | none => .next (s.endLoad job 0x0D [idx])
      | some b =>
        if b.length ≠ x.slen then .next s
        else if sha384 b ≠ x.digest then
          let s := (s.count .weightRefetch job.toNat 1).setWeights { s.weights with refetched := s.weights.refetched.set 0 job.toNat (s.weights.refetched.get 0 job.toNat + 1) }
          if l.bad ≥ 3 then .next (s.endLoad job 0x0C [idx])
          else .next ((s.modLoader job fun l => { l with bad := l.bad + 1, src := (l.src + 1) % l.srcs.length }).fetchShard job)
        else match x.raw b with
          | none => .next (s.endLoad job 0x0B [idx])
          | some raw =>
            let s := s.poke (l.stOff + l.next % 2 * (l.stSize / 2)) b
            let s := s.sendCrier s.partNo job w.set w.epoch (some l.next) b
            let s := if s.keeps x then s.landShard w x raw else s
            let s := s.modLoad job fun w => { w with got := w.got ++ [l.next] }
            let s := s.modLoader job fun l => { l with next := l.next + 1, bad := 0, src := 0 }
            .next ((s.fetchShard job).reportLoaded job)
  | _, _ => .next s

/-- SHARD_TIMEOUT: the shard is missing; the limit does not count below 40 V (R494). -/
def execShardTimeout (job : Byte) (s : State) : Host.Outcome State Fault Refusal :=
  match s.loader job with
  | some l => if s.power.below40 then .next s else .next (s.endLoad job 0x0D [BitVec.ofNat 64 l.next])
  | none => .next s

/-- A CRIER packet is dropped and counted (R496). -/
def State.dropCrier (s : State) (job : Byte) : State :=
  (s.count .weightDrops job.toNat 1).setWeights { s.weights with drops := s.weights.drops.set 0 job.toNat (s.weights.drops.get 0 job.toNat + 1) }

/-- CRIER: the part forwards it to its subtree; a manifest starts this part's load, a shard of it is kept and written (R495 to
R499). -/
def execCrier (src : Fin 8192) (job : Byte) (set : Fin 16) (epoch : W16) (shard : Option Nat) (bytes : List Byte) (s : State) :
    Host.Outcome State Fault Refusal :=
  if src.val = s.partNo || !(s.member src.val) then .next s
  else
    let s := s.sendCrier src.val job set.val epoch shard bytes
    match shard with
    | none =>
      (match s.wset job set.val with
      | none => .next (s.send (.mgmt (some src.val) (.loadMismatch job)))
      | some x =>
        if x.record ≠ bytes.take 32 then .next (s.send (.mgmt (some src.val) (.loadMismatch job)))
        else if s.copyHeld x epoch then .next (s.send (.mgmt (some src.val) (.loadBusy job)))
        else
          let l := loadOf job set.val epoch src.val x.ncopy (bytes.drop 32)
          let s := (s.modSet job set.val fun y => { y with ready := y.ready.filter fun r => r ≠ l.copy }).setWeights
            { (s.modSet job set.val fun y => { y with ready := y.ready.filter fun r => r ≠ l.copy }).weights with
              loads := (s.weights.loads.filter fun y => y.job ≠ job) ++ [l] }
          .next (s.reportLoaded job))
    | some i =>
      match s.load job with
      | none => .next (s.dropCrier job)
      | some l =>
        match l.shards[i]? with
        | none => .next (s.dropCrier job)
        | some x =>
          if l.set ≠ set.val || l.epoch ≠ epoch || l.loader ≠ src.val || bytes.length ≠ x.slen then .next (s.dropCrier job)
          else match x.raw bytes with
            | none => .next (s.dropCrier job)
            | some raw =>
              let s := if s.keeps x && !(l.got.contains i) then s.landShard l x raw else s
              .next ((s.modLoad job fun l => { l with got := l.got ++ [i] }).reportLoaded job)

/-- LOADED reaches the loader (R500). -/
def execLoaded (part : Fin 8192) (job : Byte) (s : State) : Host.Outcome State Fault Refusal :=
  if s.member part.val then .next (s.loadedFrom job part.val) else .next s

/-- LOAD_MISMATCH ends the load with the part number (R496). -/
def execLoadMismatch (part : Fin 8192) (job : Byte) (s : State) : Host.Outcome State Fault Refusal :=
  if (s.loader job).isSome && s.member part.val then .next (s.endLoad job stMismatch [BitVec.ofNat 64 part.val]) else .next s

/-- A lost part ends loads and switches with it (R500, R503). -/
def State.loseWeights (s : State) (part : Nat) : State :=
  let s := s.weights.loaders.foldl (fun (s : State) (l : Loader) => s.endLoad l.job stPartLost [BitVec.ofNat 64 part]) s
  let s := s.weights.coords.foldl (fun (s : State) (c : WCoord) => s.abortWeights c.job stPartLost [BitVec.ofNat 64 part]) s
  let gone := s.weights.parts.filter fun p => p.coord = part && p.commit.isNone
  let s := s.setWeights { s.weights with parts := s.weights.parts.filter (fun p => !(gone.contains p)), loads := s.weights.loads.filter fun l => l.loader ≠ part }
  gone.foldl (fun (s : State) (p : WPart) =>
    s.residents.foldl (fun (s : State) (q : Nat × Graph) => if q.2.hdr.job = p.job then s.readmit q.1 else s) s) s

/-- The state code of a copy (Table 17.4). -/
def State.copyState (s : State) (x : WSet) (c : Nat) : Nat :=
  if s.weights.loads.any fun l => l.job = x.job && l.set = x.id && l.copy = c then 1
  else if x.ncopy = 1 || (s.epochOf x.job).toNat % 2 = c then 3
  else if (s.weights.held.get [] x.job.toNat).any fun o => o.toNat % 2 = c then 4
  else if x.ready.contains c then 2 else 0

/-- WEIGHT_STATUS: more than six fields go to bulk (R508, R527). -/
def execWeightStatus (h : CmdHdr) (s : State) : Host.Outcome State Fault Refusal :=
  command 0x0605 0 true h s fun c s =>
    let sets := s.weights.sets.filter fun x => x.job = h.job
    let fields : List W64 := [(s.epochOf h.job).setWidth 64]
      ++ (sets.flatMap fun x => (List.range x.ncopy).flatMap fun k => [x.models.getD k 0, BitVec.ofNat 64 (s.copyState x k)])
      ++ [BitVec.ofNat 64 (s.weights.refetched.get 0 h.job.toNat), BitVec.ofNat 64 (s.weights.drops.get 0 h.job.toNat)]
    if fields.length ≤ 6 then s.reply c stOk fields
    else
      let b := fields.flatMap fun w => leBytes 8 w.toNat
      s.replyBulk c b [BitVec.ofNat 64 b.length]

end Sys2Proof.Machine
end

