-- ==== Sys2Proof/Machine/FabricPorts.lean ====
section
/-! DEFINITION. Links, width changes, port failure, lost parts (R435 to R438, R442, R443, R447 to R460) and the port
commands. -/

namespace Sys2Proof.Machine

/-! ### Frames (R436) -/

/-- A port in service. -/
def State.portUp (s : State) (n : Nat) : Bool := (s.port n).st = .inService && s.power.supply ≠ .off

/-- LINK_FRAME: the next frame in order is acknowledged; a bad or missing one is not; one taken already is acknowledged again
(R436). -/
def execLinkFrame (port : Fin 8) (seq : W32) (flits : Fin 17) (crcOk : Bool) (s : State) : Host.Outcome State Fault Refusal :=
  let n := port.val
  let x := s.port n
  if !(s.portUp n) || x.rxChanging then .next s
  else if !crcOk then .next (s.send (.linkNak n x.rxSeq))
  else if seq = x.rxSeq then
    .next ((s.modPort n fun x => { x with rxSeq := x.rxSeq + 1, flitsRx := x.flitsRx + BitVec.ofNat 64 flits.val }).send (.linkAck n seq))
  else if (x.rxSeq - seq).toNat < 2 ^ 31 then .next (s.send (.linkAck n seq))
  else .next (s.send (.linkNak n x.rxSeq))

/-- Frames from `first` on are sent again (R436). -/
def State.replayLink (s : State) (n : Nat) : State :=
  match (s.port n).replay with
  | [] => s
  | (q, f) :: r =>
    let k := r.length + 1
    let _ := f
    ((s.modPort n fun x => { x with replays := x.replays + BitVec.ofNat 64 k }).count .linkReplays n k).send (.linkReplay n q)

/-- LINK_NAK: frames before the first unacknowledged one have arrived; the others go again (R436). -/
def execLinkNak (port : Fin 8) (firstUnacked : W32) (s : State) : Host.Outcome State Fault Refusal :=
  let n := port.val
  if !(s.portUp n) then .next s
  else
    let gone := fun (q : W32) => q ≠ firstUnacked && (firstUnacked - q).toNat < 2 ^ 31
    let s := s.modPort n fun x => { x with replay := x.replay.filter (fun e => !(gone e.1)), replayPkts := x.replayPkts.filter (fun e => !(gone e.1)) }
    .next (s.replayLink n)

/-- LINK_ACK_TIMEOUT: 2 µs without an acknowledgement (R436). -/
def execLinkAckTimeout (port : Fin 8) (s : State) : Host.Outcome State Fault Refusal :=
  if s.portUp port.val then .next (s.replayLink port.val) else .next s

/-! ### Credits (R442, R443) -/

/-- CREDIT_UPDATE: returned credits fill the reserve of their VC and class, then the pool (R442, DEDUCED, log entry 24). -/
def execCreditUpdate (port : Fin 8) (pool : Bool) (vc : Fin 6) (cls : Fin 3) (count : Nat) (s : State) : Host.Outcome State Fault Refusal :=
  let n := port.val
  let k := vc.val * 3 + cls.val
  if !(s.portUp n) then .next s
  else
    let s := s.modPort n fun x =>
      let c := x.credits.get reservedFlits k
      let own := if pool then 0 else min count (reservedFlits - c)
      { x with credits := x.credits.set reservedFlits k (c + own), pool := min (poolFlits n) (x.pool + (count - own)) }
    .next (pumpPort n (s.port n).outq.length s)

/-- CREDIT_UPDATE_TIMER: 0.05 lc without an update; the receiver sends what it owes (R442). -/
def execCreditUpdateTimer (port : Fin 8) (s : State) : Host.Outcome State Fault Refusal :=
  if s.portUp port.val then .next (s.returnCredits port.val) else .next s

/-- HEAD_AGE_TIMEOUT: a packet has waited 10 lc at the head of its input and is served next (R443). -/
def execHeadAgeTimeout (port : Fin 8) (vc : Fin 6) (input : Nat) (s : State) : Host.Outcome State Fault Refusal :=
  let n := port.val
  if s.portUp n && ((s.port n).outq.any fun e => vcOf e.2 = vc.val && e.1 = input) && !((s.port n).urgent.contains (vc.val, input)) then
    let s := s.modPort n fun x => { x with urgent := x.urgent ++ [(vc.val, input)] }
    .next (pumpPort n (s.port n).outq.length s)
  else .next s

/-! ### Port failure (R448, R458, Table 15.7) -/

/-- The opposite port of an axis. -/
def oppositePort (n : Nat) : Nat := if n % 2 = 0 then n + 1 else n - 1

/-- The other members of this part's ring on an axis. -/
def State.ringOf (s : State) (axis : Nat) : List Nat :=
  ((List.range (s.axisSize axis)).map fun i => withCoord s.partNo axis i).filter fun p => p ≠ s.partNo

/-- A port's state changes. -/
def State.portState (s : State) (n : Nat) (st : PortState) : State := s.modPort n fun x => { x with st := st, lc := s.hubLc }

/-- The record of a port failure, once. -/
def State.recordPort (s : State) (n : Nat) : State :=
  if (s.port n).recorded then s
  else (s.modPort n fun x => { x with recorded := true }).partFault .portFailed 6 6 (BitVec.ofNat 16 n) 0 0

/-- The partner is probed the other way round the ring (R458). -/
def State.probePartner (s : State) (n : Nat) : State :=
  (s.modPort n fun x => { x with probing := true }).send (.mgmt (some (s.partnerOf n)) (.probe n))

/-- A port is declared failed (Table 15.7 step 1, R458). -/
def State.declareFailed (s : State) (n : Nat) : State :=
  let s := s.modPort n fun x => { x with txChanging := false, rxChanging := false }
  ((s.portState n .failed).recordPort n).probePartner n

/-- Steps 2 and 3 of Table 15.7: unacknowledged packets go the other way as replays, waiting ones turn back, and the ring
hears of the link (R448). -/
def State.turnBack (s : State) (n : Nat) : State :=
  let x := s.port n
  let link := s.linkOf n
  let first := !(s.fab.failedLinks.contains link)
  let s := if first then s.setFab { s.fab with failedLinks := s.fab.failedLinks ++ [link] } else s
  let s := s.modPort n fun x => { x with outq := [], replay := [], replayPkts := [], urgent := [] }
  let s := x.replayPkts.foldl (fun (s : State) (e : W32 × Pkt) => s.transmit 8 (asReplay e.2)) s
  let s := x.outq.foldl (fun (s : State) (e : Nat × Pkt) => s.transmit e.1 e.2) s
  if first then (s.ringOf link.1).foldl (fun (s : State) (p : Nat) => s.send (.mgmt (some p) (.ringState (Fin.ofNat 4 link.1) link.2 false))) s else s

/-- PORT_SILENCE_TIMEOUT: no frame and no acknowledgement for 5 µs (Table 15.7 step 1). -/
def execPortSilenceTimeout (port : Fin 8) (s : State) : Host.Outcome State Fault Refusal :=
  if s.portUp port.val then .next (s.declareFailed port.val) else .next s

/-- PORT_FAIL: the port has failed; its packets go the other way (R448, Table 15.7). -/
def execPortFail (port : Fin 8) (s : State) : Host.Outcome State Fault Refusal :=
  let n := port.val
  if s.portUp n then .next ((s.declareFailed n).turnBack n)
  else if (s.port n).st = .failed then .next (s.turnBack n)
  else .next s

/-- DEPART: the partner enters reset; it is probed the other way round (R457, R458). -/
def execDepart (port : Fin 8) (s : State) : Host.Outcome State Fault Refusal :=
  let n := port.val
  if s.portUp n then .next ((s.portState n .failed).probePartner n) else .next s

/-- PARTNER_PROBE: a probe is answered; an answer makes the failure a port failure, and Table 15.7 goes on (R458). -/
def execPartnerProbe (port : Fin 8) (answer : Bool) (src : Fin 8192) (s : State) : Host.Outcome State Fault Refusal :=
  let n := port.val
  if !answer then
    if s.power.supply = .off || s.pstate ≠ 1 then .next s else .next (s.send (.mgmt (some src.val) (.probeAnswer n)))
  else if (s.port n).probing then .next (((s.modPort n fun x => { x with probing := false }).recordPort n).turnBack n)
  else .next s

/-! ### Lost parts (R458, R459) -/

/-- The two links of a lost part on an axis: its own + link and its lower neighbour's. -/
def State.linksOf (s : State) (part axis : Nat) : List (Nat × Nat) :=
  let z := s.axisSize axis
  if z ≤ 1 then [] else [(axis, part), (axis, withCoord part axis ((coordAt part axis + z - 1) % z))]

/-- A part is lost: its requests are answered, traffic goes round the gap, and resident graphs end (R459, R471, R484,
R496, R624). -/
def State.losePart (s : State) (part : Nat) : State :=
  if s.fab.lost.contains part || part = s.partNo then s
  else
    let links := ([0, 1, 2, 3].flatMap (s.linksOf part)).filter fun l => !(s.fab.failedLinks.contains l)
    let s := s.setFab { s.fab with
      lost := s.fab.lost ++ [part], broken := true, failedLinks := s.fab.failedLinks ++ links
      reqs := s.fab.reqs.map fun r => if r.pkt.dst.toNat % 8192 = part then { r with answer := some rsPartLost } else r }
    let stuck := s.fab.ports.flatMap fun x => (x.outq.filter fun e => e.2.dst.toNat % 8192 = part).map (·.2)
    let s := s.setFab { s.fab with ports := s.fab.ports.map fun x => { x with outq := x.outq.filter fun e => e.2.dst.toNat % 8192 ≠ part } }
    let s := stuck.foldl (fun (s : State) (p : Pkt) => s.turnAway p rsPartLost) s
    let s := s.partFault .partLost 3 0 0 0 (BitVec.ofNat 64 part)
    let s := s.residents.foldl (fun (s : State) (p : Nat × Graph) => s.failGraph p.1 0x07 (BitVec.ofNat 64 part)) s
    ((((s.loseColls part).loseLayouts part).loseWeights part).withdrawPairs)

/-- PARTNER_PROBE_TIMEOUT: no answer in 50 µs; the partner is lost, and every part hears of it (R458). -/
def execPartnerProbeTimeout (port : Fin 8) (s : State) : Host.Outcome State Fault Refusal :=
  let n := port.val
  if (s.port n).probing then
    let part := s.partnerOf n
    let s := (s.modPort n fun x => { x with probing := false }).portState n .partnerLost
    .next ((s.send (.mgmt none (.lostPart part))).losePart part)
  else .next s

/-- LOST_PART: a lost-part packet arrives (R459). -/
def execLostPart (part : Fin 8192) (s : State) : Host.Outcome State Fault Refusal :=
  if s.power.supply = .off || s.pstate ≠ 1 then .next s else .next (s.losePart part.val)

/-- RING_STATE: a link of this part's ring has failed or is restored (R448, R451). Packets that wait to cross a failed link
turn back. -/
def execRingState (axis : Fin 4) (a : Fin 8192) (restored : Bool) (s : State) : Host.Outcome State Fault Refusal :=
  let link := (axis.val, a.val)
  if s.power.supply = .off then .next s
  else if restored then .next (s.setFab { s.fab with failedLinks := s.fab.failedLinks.filter fun l => l ≠ link })
  else if s.fab.failedLinks.contains link then .next s
  else
    let s := s.setFab { s.fab with failedLinks := s.fab.failedLinks ++ [link] }
    let wait := s.fab.ports.flatMap (·.outq)
    let moved := wait.filter fun e => axis.val = ([0, 1, 2, 3].find? fun ax => coordAt (e.2.dst.toNat % 8192) ax ≠ coordAt s.partNo ax).getD 4
    let s := s.setFab { s.fab with ports := s.fab.ports.map fun x => { x with outq := x.outq.filter fun e => !(moved.contains e) } }
    .next (moved.foldl (fun (s : State) (e : Nat × Pkt) => s.transmit e.1 e.2) s)

/-! ### Width (R437, R447, Table 15.6) -/

/-- Lane groups of a mask. -/
def groupCount (m : BitVec 12) : Nat := ((List.range 12).filter fun i => m.getLsbD i).length

/-- LANE_GROUP_LOSS: the group leaves service and the direction changes width; below two groups the port fails (R437,
Table 15.6). -/
def execLaneGroupLoss (port : Fin 8) (rx : Bool) (group : Fin 12) (s : State) : Host.Outcome State Fault Refusal :=
  let n := port.val
  let x := s.port n
  let old := if rx then x.rx else x.tx
  if !(s.portUp n) || !(old.getLsbD group.val) then .next s
  else
    let m := old &&& ~~~((1 : BitVec 12) <<< group.val)
    let s := s.modPort n fun x => if rx then { x with rx := m, rxChanging := true } else { x with tx := m, txChanging := true }
    let s := s.partFault .laneGroup 6 6 (BitVec.ofNat 16 n) 0 (BitVec.ofNat 64 group.val)
    if groupCount m < 2 then .next (s.declareFailed n) else .next s

/-- WIDTH_CHANGE_DONE: the direction runs again on the groups it has (Table 15.6 step 3). -/
def execWidthChangeDone (port : Fin 8) (rx : Bool) (s : State) : Host.Outcome State Fault Refusal :=
  let n := port.val
  let x := s.port n
  if !(s.portUp n) then .next s
  else if rx then (if x.rxChanging then .next (s.modPort n fun x => { x with rxChanging := false }) else .next s)
  else if x.txChanging then
    let s := (s.modPort n fun x => { x with txChanging := false }).replayLink n
    .next (pumpPort n (s.port n).outq.length s)
  else .next s

/-! ### Commands (Table 15.11) -/

/-- The state code of a port (Table 15.12). -/
def PortState.code : PortState → Nat
  | .dark => 0 | .training => 1 | .inService => 2 | .failed => 3 | .partnerLost => 4

/-- The status record of a port (Table 15.12). -/
def State.portBytes (s : State) (n : Nat) : List Byte :=
  let x := s.port n
  leBytes 1 n ++ leBytes 1 x.st.code ++ leBytes 1 (groupCount x.tx) ++ leBytes 1 (groupCount x.rx) ++ leBytes 2 (x.partner.getD 0) ++ leBytes 2 0
    ++ leBytes 8 x.replays.toNat ++ leBytes 8 x.corrected.toNat ++ leBytes 8 x.dropped.toNat ++ leBytes 8 x.flitsTx.toNat
    ++ leBytes 8 x.flitsRx.toNat ++ leBytes 8 x.lc.toNat ++ leBytes 8 0

/-- FAB_PORT_STATUS. The header's JOB names the space of its address (DEDUCED, log entry 25). -/
def execFabPortStatus (h : CmdHdr) (port va : W64) (s : State) : Host.Outcome State Fault Refusal :=
  command 0x0701 2 true h s fun c s =>
    if inRange port 0 7 then s.cmdWrite c h.job va.toNat (s.portBytes port.toNat) [] else s.reply c stInvalid []

/-- A port takes up service on these lane groups with fresh link state and credits (R437, R442). -/
def State.openPort (s : State) (n : Nat) (groups : BitVec 12) : State :=
  s.modPort n fun x => { x with st := .inService, tx := groups, rx := groups, txChanging := false, rxChanging := false, partner := some (s.partnerOf n),
                                replay := [], replayPkts := [], txSeq := 0, rxSeq := 0, credits := [], pool := poolFlits n, owed := [],
                                probing := false, recorded := false, urgent := [], lc := s.hubLc }

/-- FAB_PORT_RETRAIN: a port trains again; the ring hears of its restored link (R451, Table 15.11). -/
def execFabPortRetrain (h : CmdHdr) (port : W64) (groups : BitVec 16) (s : State) : Host.Outcome State Fault Refusal :=
  command 0x0702 1 false h s fun c s =>
    let n := port.toNat
    let x := s.port n
    let m : BitVec 12 := groups.setWidth 12 &&& portGroups n
    if !(inRange port 0 7) then s.reply c stInvalid []
    else if x.txChanging || x.rxChanging then s.reply c stBusy []
    else if groupCount m < 2 || s.axisSize (portAxis n) = 1 then s.reply c 0x0F []
    else if x.st = .inService then
      ((s.modPort n fun x => { x with tx := m, rx := m }).replayLink n).reply c stOk [BitVec.ofNat 64 (groupCount m)]
    else
      let link := s.linkOf n
      let was := s.fab.failedLinks.contains link
      let s := (s.openPort n m).setFab { (s.openPort n m).fab with failedLinks := s.fab.failedLinks.filter fun l => l ≠ link }
      let s := if was then (s.ringOf link.1).foldl (fun (s : State) (p : Nat) => s.send (.mgmt (some p) (.ringState (Fin.ofNat 4 link.1) link.2 true))) s else s
      let s := pumpPort n (s.port n).outq.length s
      s.reply c stOk [BitVec.ofNat 64 (groupCount m)]

end Sys2Proof.Machine
end

