-- ==== Sys2Proof/Machine/Lend.lean ====
section
/-! DEFINITION. Lent stalls (R95, R121, R177, R250, R284, R577): the internal tasks that a ROOT or an SLV places on stalls. -/

namespace Sys2Proof.Machine

/-- The contexts that a unit's task holds lent in a hall. -/
def State.lentKeys (s : State) (h g t : Nat) : List Nat :=
  s.threads.filterMap fun p => match p.2 with
    | some th => if th.status = .lent && th.graph = g && th.task = t && hallOf (stallOf p.1) = h then some p.1 else none
    | none => none

/-- The lent tasks of a unit's task end: their contexts and the exact-slice mode are free (R178). -/
def State.unlend (s : State) (h g t : Nat) : State :=
  (s.lentKeys h g t).foldl (fun (s : State) (k : Nat) =>
    (((s.setThread k none).modStall (stallOf k) fun i => i.freeTask g t).releaseHeld (stallOf k) fun w _ => w = .xmode).updateLend h) s

/-- Whether a stall can take a lent task: a context is free, and the exact-slice mode can be entered at once (R177). -/
def State.canLend (s : State) (k : Nat) : Bool :=
  s.stallRuns k && (s.stall k).exact.isNone && (s.stall k).exactNext.isNone && !(s.stall k).otherFormat && !(s.freeContexts k).isEmpty

/-- A lent thread: privileged (R95), of the class of its task (R118), with no program that software could see. -/
def lentThread (g t : Nat) : Thread := { graph := g, task := t, idx := 0, pc := 0, prv := ThreadOrigin.lent.privileged, status := .lent }

/-- A stall takes a lent task, one context of it (log entry 134), and enters the exact-slice mode. -/
def State.lendOne (s : State) (g t : Nat) (mode : BitVec 3) (k : Nat) : State :=
  (s.setThread ((s.freeContexts k).headD 0) (some (lentThread g t))).modStall k fun i => { i with exact := some (mode, g, t) }

/-- Lend stalls of a hall to a unit's task until it holds `n`, lowest first; below 42 V none is lent (R250, R577, DESIGN CHOICE, log
entry 134). -/
def State.lendTo (s : State) (h g t : Nat) (mode : BitVec 3) (n : Nat) : State :=
  let keys := s.lentKeys h g t
  let s := if keys.any fun k => !((s.stall (stallOf k)).exact.any fun e => e.1 = mode) then s.unlend h g t else s
  if s.power.below42 then s
  else
    let p := (List.range 576).foldl (fun (p : State × Nat) (i : Nat) =>
      if p.2 < n && p.1.canLend (h * 576 + i) then (p.1.lendOne g t mode (h * 576 + i), p.2 + 1) else p) (s, (s.lentKeys h g t).length)
    if p.2 = (s.lentKeys h g t).length then s else (p.1.unpark h).updateLend h

end Sys2Proof.Machine
end

