-- ==== Sys2Proof/Machine/RootNum.lean ====
section
/-! DEFINITION. The arithmetic of ROOT: accumulation (R246), bound and damping (R253), exact-slice Q products (R181,
R205), the Newton iteration (R254 to R257) and the direct path (R258 to R261). -/

namespace Sys2Proof.Machine

/-! ### Binary64 (R259) -/

/-- A binary64 pattern. -/
abbrev F64 := Nat
def f64 (v : FVal) : F64 := fmtF64.encode v
def val64 (x : F64) : FVal := fmtF64.decode x
def f64add (a b : F64) : F64 := f64 ((val64 a).add (val64 b))
def f64sub (a b : F64) : F64 := f64 ((val64 a).add (val64 b).neg)
def f64mul (a b : F64) : F64 := f64 ((val64 a).mul (val64 b))
def f64div (a b : F64) : F64 := f64 ((val64 a).div (val64 b))
def f64sqrt (a : F64) : F64 := f64 (val64 a).sqrt
def f64one : F64 := 0x3FF0000000000000
/-- `2^i`. -/
def f64pow2 (i : Int) : F64 := f64 (.fin false 1 i)
/-- An FP32 pattern widened, and a binary64 pattern rounded to FP32. -/
def f32to64 (x : F32) : F64 := f64 (val32 x)
def f64to32 (x : F64) : F32 := f32 (val64 x)
def f64isNan (x : F64) : Bool := val64 x = .nan
def f64lt (a b : F64) : Bool := (val64 a).lt (val64 b)
/-- Larger of two, keeping the first on a NaN. -/
def f64max (a b : F64) : F64 := if f64lt a b then b else a
/-- Repeated square roots. -/
def f64roots : Nat → F64 → F64
  | 0, v => v
  | k + 1, v => f64roots k (f64sqrt v)

/-- `v^(−1/2^LOGP)` in binary64: LOGP square roots and one division, which may come before, between or after them (R253 states no
order; log entry 55). -/
def invRoot (logp : Nat) (v : F64) : F64 :=
  let k := Config.invRootAt logp % (logp + 1)
  f64roots (logp - k) (f64div f64one (f64roots k v))

/-! ### FP64 exact-slice products (R180 to R183, R205, R259) -/

/-- The word of a value under a row's exponent: w with value w·2^(E − 54), rounded once (R180, R203). -/
def s64Word (e : Int) (x : F64) : Int := ((val64 x).toFixed (e - 54) (-(2 ^ 55 - 1)) (2 ^ 55 - 1)).1

/-- The slices of an FP64-mode word, most significant first (R180). -/
def s64Slices (w : Int) : List Int :=
  let u := ofSigned 56 w
  toSigned 8 (u / 2 ^ 48) :: ([40, 32, 24, 16, 8, 0].map fun k => ((u / 2 ^ k % 256 : Nat) : Int))

/-- An element product of FP64 mode without the omitted passes (R181). -/
def s64Prod (a b : Int) : Int :=
  let x := s64Slices a
  let y := s64Slices b
  (List.range 7).foldl (fun (acc : Int) i => (List.range 7).foldl (fun (acc : Int) j =>
    if i + j ≤ 6 then acc + x.getD i 0 * y.getD j 0 * (2 ^ (8 * (6 - i - j)) : Nat) else acc) acc) 0

/-- `Σ a·b` as an FP64 exact-slice product over the full K, rounded once at its drain; the exponents of the two operand rows
are free (R181, R183, R205; log entry 55). -/
def prod64 (l : List (F64 × F64)) : F64 :=
  let ea := Config.sliceExp (l.map (·.1))
  let eb := Config.sliceExp (l.map (·.2))
  let v := l.foldl (fun (acc : Int) p => acc + s64Prod (s64Word ea p.1) (s64Word eb p.2)) 0
  f64 ((FVal.ofInt v).scale (ea + eb - 60))

/-- `acc − Σ a·b` over the columns of the current panel, exact where there are none; its rounding points are free (R260; log entry
55). -/
def dot64 (acc : F64) (l : List (F64 × F64)) : F64 := if l.isEmpty then acc else Config.dot64 acc l

/-- Whether an FP32 pattern is finite. -/
def f32finite (x : F32) : Bool := match val32 x with | .fin _ _ _ => true | _ => false

/-! ### Factor layout (R242, R245) -/

/-- First element of block `b` (R242). -/
def blockStart (blkn : List Nat) (b : Nat) : Nat := (blkn.take b).foldl (fun n k => n + k * k) 0
/-- First tile of block `b` among the upper tiles (R245). -/
def tileStart (blkn : List Nat) (b : Nat) : Nat := (blkn.take b).foldl (fun n k => n + k / 32 * (k / 32 + 1) / 2) 0
/-- Address of partial `g` of tile (i, j) of block `b` (R245). -/
def RootFactor.partVa (f : RootFactor) (b i j g : Nat) : Nat :=
  let t := f.blkn.getD b 0 / 32
  f.partPtr + ((tileStart f.blkn b + i * t - i * (i - 1) / 2 + (j - i)) * f.ngroup + g) * 4096
/-- Address of block `b` of the factor, and of its root. -/
def RootFactor.blockVa (f : RootFactor) (b : Nat) : Nat := f.fPtr + 4 * blockStart f.blkn b
def RootFactor.rootVa (f : RootFactor) (b : Nat) : Nat := f.rootPtr + 4 * blockStart f.blkn b
/-- Elements of all blocks. -/
def RootFactor.elems (f : RootFactor) : Nat := blockStart f.blkn f.blkn.length
/-- Upper tiles of all blocks. -/
def RootFactor.tiles (f : RootFactor) : Nat := tileStart f.blkn f.blkn.length
def RootFactor.nmax (f : RootFactor) : Nat := f.blkn.foldl max 0

/-- FP32 patterns of a byte list, and back. -/
def wordsOf : Nat → List Byte → List Nat
  | 0, _ => []
  | n + 1, b => ofLe (b.take 4) :: wordsOf n (b.drop 4)
def wordBytes (l : List Nat) : List Byte := l.flatMap fun w => leBytes 4 w

/-! ### Accumulation (R246) -/

/-- The tree over partials, ordered by index (R246). -/
def partTree : Nat → List F32 → List F32
  | 0, l => l
  | n + 1, l =>
    let rec pair : List F32 → List F32
      | a :: b :: r => f32add a b :: pair r
      | l => l
    partTree n (pair l)

/-- One element of a factor after accumulation: its partials and, where F_VALID, what it held. -/
def accElem (beta : F32) (ntok : Nat) (old : Option F32) (q : List F32) : F32 :=
  let s := f32mul ((partTree 17 q).headD 0) (f32 ((FVal.fin false 1 0).div (.ofInt ntok)))
  match old with
  | some f => f32fma beta f (f32mul (f32sub f32one beta) s)
  | none => s

/-! ### Bound, damping and scaling (R253) -/

/-- The largest row sum of |F|, on the reduction unit (R207, R208). -/
def rowSumMax (n : Nat) (f : List F32) : F32 :=
  let rows := (List.range n).map fun r =>
    ((reduceRow f32add ((groupIdx 128 (n + 1) 0 n).map fun g => g.map fun c => (c % 128, f32abs (f.getD (r * n + c) 0)))).getD 0)
  (reduceRow f32max ((groupIdx 128 (n + 1) 0 n).map fun g => g.map fun r => (r % 128, rows.getD r 0))).getD 0

/-- The least integer n with v ≤ 2^n, for a positive finite value. -/
def ceilLog2 : FVal → Int
  | .fin _ m e => if m = 0 then 0 else if m = 2 ^ (bitLen m - 1) then e + bitLen m - 1 else e + bitLen m
  | _ => 0

/-- One product F·v of a power iteration; the rounding of its sums is free (R253, log entry 55). -/
def powerStep (n : Nat) (f v : List F32) : List F32 :=
  (List.range n).map fun r => Config.dot32 ((List.range n).map fun c => (f.getD (r * n + c) 0, v.getD c 0))

/-- The power iterations from the vector of ones: the last vector and its product with F (R253). -/
def powerIter (n : Nat) (f : List F32) : Nat → List F32 → List F32 × List F32
  | 0, v => (v, powerStep n f v)
  | k + 1, v => if k = 0 then (v, powerStep n f v) else powerIter n f k (Config.normalise (powerStep n f v))

/-- μ: the last Rayleigh quotient of NPOW power iterations (R253); its form is free (log entry 55). -/
def rayleigh (npow n : Nat) (f : List F32) : F64 :=
  let p := powerIter n f npow (List.replicate n f32one)
  Config.quotient p.1 p.2

/-- Steps 1 to 5 of R253. -/
def rootScale (f : RootFactor) (n : Nat) (blk : List F32) : RootScale :=
  let r := f32to64 (rowSumMax n blk)
  let g := f64mul (f32to64 f.gamma) (rayleigh f.npow n blk)
  let u := if f64lt g r then g else r
  let lam := f64add (f64mul (f32to64 f.lamRel) u) (f32to64 f.lamAbs)
  let eps := f64div lam (f64add u lam)
  let low := f64lt eps (f64pow2 (-20))
  let lam := if low then f64div (f64mul u (f64pow2 (-20))) (f64sub f64one (f64pow2 (-20))) else lam
  let c := f64add u lam
  let eps := if low then f64div lam c else eps
  { u := u, lam := lam, c := c, eps := eps, kappa := invRoot f.logp c,
    sigma := ceilLog2 (val64 (invRoot f.logp eps)) + 1, raised := low }

/-! ### Q-mode products (R180 to R183, R205) -/

/-- The slices of a Q word, most significant first. -/
def qSlices (w : Int) : List Int :=
  let u := ofSigned 32 w
  [toSigned 8 (u / 16777216), (u / 65536 % 256 : Nat), (u / 256 % 256 : Nat), (u % 256 : Nat)]

/-- An element product of Q mode without the omitted passes (R181). -/
def qProd (a b : Int) : Int :=
  let x := qSlices a
  let y := qSlices b
  ([(1, 1), (1, 2), (2, 1), (1, 3), (2, 2), (3, 1), (1, 4), (2, 3), (3, 2), (4, 1)] : List (Nat × Nat)).foldl
    (fun acc p => acc + x.getD (p.1 - 1) 0 * y.getD (p.2 - 1) 0 * (2 ^ (8 * (5 - p.1 - p.2)) : Nat)) 0

/-- Conversion of a value to a Q format's word: Q1.31 (0xE) or Q3.29 (0xF), and whether it saturated (R203). -/
def toQ (fmt : Nat) (v : FVal) : Int × Bool := let c := fmtConvert fmt v; (toSigned 32 c.raw, c.counted)

/-- A product of n × n matrices of Q words with `frac` fraction bits together, drained to a Q format (R205). -/
def qMatmul (n : Nat) (frac : Int) (fmt : Nat) (a b : List Int) : List Int × Bool :=
  let out := (List.range n).flatMap fun r => (List.range n).map fun c =>
    let v := (List.range n).foldl (fun acc k => acc + qProd (a.getD (r * n + k) 0) (b.getD (k * n + c) 0)) 0
    toQ fmt ((FVal.ofInt v).scale (24 - frac))
  (out.map (·.1), out.any (·.2))

/-- Indices of an n × n matrix, row-major, and whether each is on the diagonal. -/
def diagFlags (n : Nat) : List Bool := (List.range n).flatMap fun r => (List.range n).map fun c => r = c

/-! ### Newton (R254 to R256) -/

/-- `(F + λI)/c` in Q3.29, the expression rounded once into its words. -/
def rootA (sc : RootScale) (n : Nat) (blk : List F32) : List Int :=
  (blk.zip (diagFlags n)).map fun p =>
    let v := if p.2 then (val32 p.1).add (val64 sc.lam) else val32 p.1
    (toQ 0xF (v.div (val64 sc.c))).1

/-- A cold start (R256). -/
def coldStart (f : RootFactor) (sc : RootScale) (n : Nat) (a : List Int) : Newton :=
  { scale := sc, a := a, m := a, itmax := f.itCold, warm := false,
    x := (diagFlags n).map fun d => if d then (toQ 0xE (.fin false 1 (-sc.sigma))).1 else 0 }

/-- The conversion of a root in service to X̂_0, or none where it saturates (R256). -/
def warmX (sc : RootScale) (logp : Nat) (root : List F32) : Option (List Int) :=
  let up := (FVal.fin false 1 0).div (val64 (invRoot logp sc.c))
  let xs := root.map fun r => toQ 0xE (((val32 r).mul up).scale (-sc.sigma))
  if xs.any (·.2) then none else some (xs.map (·.1))

/-- The squarings of a warm start's X̂_0: the words of 2^s·X̂_0^(2^LOGP), s, and the fraction bits of the last format. Each product
drains to Q1.31 or Q3.29 with a power of two of its own (R256 states neither; free, log entry 55). -/
def warmPow (n : Nat) (sigma : Int) : Nat → List Int → Int → Int → List Int × Int × Int
  | 0, x, s, fa => (x, s, fa)
  | j + 1, x, s, fa =>
    let (hi, k) := Config.warmDrain j sigma
    let (y, _) := qMatmul n (2 * fa - k) (if hi then 0xE else 0xF) x x
    warmPow n sigma j y (2 * s + k) (if hi then 31 else 29)

/-- M_0 of a warm start: 2^(pσ) × X̂_0^p × A in LOGP + 1 products, drained to Q3.29 (R256). -/
def warmM (logp : Nat) (sigma : Int) (n : Nat) (x a : List Int) : List Int :=
  let (y, s, fa) := warmPow n sigma logp x 0 31
  (qMatmul n (fa + 29 - (2 ^ logp * sigma - s)) 0xF y a).1

/-- The pass that forms I − M (R255): FP32 elements. -/
def newtonE (n : Nat) (m : List Int) : List F32 :=
  (m.zip (diagFlags n)).map fun p => f32sub (if p.2 then f32one else 0) (f32 ((FVal.ofInt p.1).scale (-29)))

/-- AMAX of a matrix (R207). -/
def amaxOf (l : List F32) : F32 := l.foldl (fun a x => if f32isNan x then a else f32max a (f32abs x)) 0

/-- Guards G1 to G3 at a boundary (Table 8.5). -/
def Newton.breached (w : Newton) : Bool :=
  w.sat || w.m.any (fun x => x.natAbs > 2 ^ 29 + 2 ^ 23) || w.x.any (fun x => x.natAbs > 2 ^ 30 + 2 ^ 25)

/-- `T^(2^LOGP)` by squaring. -/
def powQ (n : Nat) : Nat → List Int → List Int × Bool
  | 0, t => (t, false)
  | j + 1, t =>
    let (t, s1) := qMatmul n 58 0xF t t
    let (t, s2) := powQ n j t
    (t, s1 || s2)

/-- One iteration (R255), from boundary k to boundary k + 1. -/
def Newton.advance (w : Newton) (logp n : Nat) (e : List F32) (r : F32) (stall : Nat) : Newton :=
  let t := (e.zip (diagFlags n)).map fun p =>
    toQ 0xF (val32 (f32add (if p.2 then f32one else 0) (sclStage p.1 (f32 (.ofInt (-(logp : Int)))))))
  let ts := t.map (·.1)
  let (x, s1) := qMatmul n 60 0xE w.x ts
  let (tp, s2) := powQ n logp ts
  let (m, s3) := qMatmul n 58 0xF tp w.m
  { w with x := x, m := m, k := w.k + 1, stall := stall, rPrev := r, sat := t.any (·.2) || s1 || s2 || s3 }

/-- The FP32 words of a Newton result (R255): RNE, `2^σ` with SCL, times κ rounded to FP32. -/
def Newton.root (w : Newton) : List F32 :=
  w.x.map fun x => f32mul (sclStage (f32 ((FVal.ofInt x).scale (-31))) (f32 (.ofInt w.scale.sigma))) (f64to32 w.scale.kappa)

/-! ### The direct path (R260, R261) -/

/-- What the direct path has done: the pivots replaced in each panel so far, their sum, and whether it still runs. -/
structure DirectAcc where
  panels : List Nat := []
  pivots : Nat := 0
  ok : Bool := true

/-- Cholesky of a block in progress: the columns of L and the pivots replaced in the current panel. -/
structure CholAcc where
  cols : List (List F64) := []
  acc : DirectAcc
  inPanel : Nat := 0

/-- Element (i, k) of L held by columns. -/
def colAt (cols : List (List F64)) (i k : Nat) : F64 := (cols.getD k []).getD i 0

/-- One column of L (R260); it fails on a NaN and once the block's count exceeds PIV_LIMIT (R261). -/
def cholColumn (tau : F64) (limit n : Nat) (y : List F64) (dmax : F64) (a : CholAcc) (j : Nat) : CholAcc :=
  if !a.acc.ok then a
  else
    let ks := List.range j
    let terms := fun (i lo hi : Nat) => (ks.filter fun k => lo ≤ k && k < hi).map fun k => (colAt a.cols i k, colAt a.cols j k)
    -- the panels to the left have updated the trailing matrix, each with one product; the rest belongs to this panel
    let row := fun (i : Nat) => dot64 ((List.range (j / 128)).foldl (fun acc p => f64sub acc (prod64 (terms i (128 * p) (128 * p + 128))))
      (y.getD (i * n + j) 0)) (terms i (j / 128 * 128) j)
    let d := row j
    if f64isNan d then { a with acc := { a.acc with ok := false, panels := a.acc.panels ++ [a.inPanel] } }
    else
      let floor := f64mul tau dmax
      let low := f64lt d floor
      let ljj := f64sqrt (if low then floor else d)
      let col := (List.range n).map fun i => if i < j then 0 else if i = j then ljj else f64div (row i) ljj
      let piv := a.inPanel + (if low then 1 else 0)
      let total := a.acc.pivots + (if low then 1 else 0)
      if total > limit then { a with acc := { panels := a.acc.panels ++ [piv], pivots := total, ok := false } }
      else if j % 128 = 127 || j + 1 = n then
        { cols := a.cols ++ [col], inPanel := 0, acc := { panels := a.acc.panels ++ [piv], pivots := total, ok := true } }
      else { cols := a.cols ++ [col], inPanel := piv, acc := { a.acc with pivots := total } }

/-- `cholinv` (R260): the inverse of a symmetric matrix through its Cholesky factor. -/
def cholinv (tau : F64) (limit n : Nat) (acc : DirectAcc) (y : List F64) : DirectAcc × List F64 :=
  if !acc.ok then (acc, y)
  else
    let dmax := (List.range n).foldl (fun m i => f64max m (y.getD (i * n + i) 0)) (y.getD 0 0)
    let c := (List.range n).foldl (cholColumn tau limit n y dmax) { acc := acc }
    if !c.acc.ok then (c.acc, y)
    else
      let w := fun (i j : Nat) => if i < j then 0 else if i = j then f64div f64one (colAt c.cols i i) else Config.triInv n c.cols i j
      let z := (List.range n).flatMap fun i => (List.range n).map fun j => prod64 ((List.range n).map fun k => (w k i, w k j))
      ({ c.acc with panels := c.acc.panels ++ List.replicate (cdiv n 128) 0 }, z)

/-- `max |·|` of a matrix. -/
def f64amax (l : List F64) : F64 := l.foldl (fun a x => f64max a (x % 2 ^ 63)) 0
/-- `(a + b)/2`, element by element. -/
def halfSum (a b : List F64) : List F64 := (a.zip b).map fun p => f64div (f64add p.1 p.2) (f64pow2 1)

/-- Denman–Beavers iterations on (y, z): the pair once `done`, or none after the last (R260). -/
def denman (tau : F64) (limit n : Nat) : Nat → DirectAcc → List F64 → List F64 → DirectAcc × Option (List F64 × List F64)
  | 0, acc, _, _ => (acc, none)
  | it + 1, acc, y, z =>
    let (acc, iz) := cholinv tau limit n acc z
    let (acc, iy) := cholinv tau limit n acc y
    if !acc.ok then (acc, none)
    else
      let y2 := halfSum y iz
      let z2 := halfSum z iy
      let d := f64amax ((y2.zip y).map fun p => f64sub p.1 p.2)
      if !(f64lt (f64mul (f64pow2 (-40)) (f64amax y2)) d) then (acc, some (y2, z2))
      else denman tau limit n it acc y2 z2

/-- The levels of the direct path: z once `b` holds A^(1/2^LOGP). -/
def rootLevels (tau : F64) (limit n : Nat) : Nat → DirectAcc → List F64 → List F64 → DirectAcc × Option (List F64)
  | 0, acc, _, z => (acc, some z)
  | l + 1, acc, b, _ =>
    match denman tau limit n 24 acc b ((diagFlags n).map fun d => if d then f64one else 0) with
    | (acc, some (y, z)) => rootLevels tau limit n l acc y z
    | (acc, none) => (acc, none)

/-- The direct path on a block (R260): the pivots of each panel, the root's FP32 words where it succeeds, and whether it failed within a
panel. -/
def directRoot (f : RootFactor) (sc : RootScale) (n : Nat) (blk : List F32) : List Nat × Option (List F32) × Bool :=
  let a := (blk.zip (diagFlags n)).map fun p =>
    let x := f32to64 p.1
    f64div (if p.2 then f64add x sc.lam else x) sc.c
  let tau := f32to64 f.tau
  let (acc, z) :=
    if f.logp = 0 then
      let (acc, z) := cholinv tau f.pivLimit n {} a
      (acc, if acc.ok then some z else none)
    else rootLevels tau f.pivLimit n f.logp {} a a
  (acc.panels, z.map (fun l => l.map fun x => f32 ((val64 x).mul (val64 sc.kappa))), !acc.ok)

end Sys2Proof.Machine
end

