-- ==== Sys2Proof/Machine/Root.lean ====
section
/-! DEFINITION. The root task (R246 to R266): it is taken and probed, accumulates, refreshes block by block, and ends. -/

namespace Sys2Proof.Machine

def State.setRoots (s : State) (v : Roots) : State := { s with roots := v }
/-- A registered factor. -/
def State.factor (s : State) (fid : Nat) : Option RootFactor := s.roots.factors.find? fun f => f.fid = fid
def State.putFactor (s : State) (f : RootFactor) : State :=
  s.setRoots { s.roots with factors := s.roots.factors.map fun x => if x.fid = f.fid then f else x }
/-- The root task of a hall, and its change. -/
def State.rootRun (s : State) (h : Nat) : Option RootRun := s.roots.runs.get none h
/-- The stalls that a hall's ROOT borrows: in Q mode for Newton products, in FP64 mode on the direct path, none otherwise
(R250, R254, R259). -/
def State.lendRoot (s : State) (h : Nat) : State :=
  match s.rootRun h with
  | none => s
  | some r => match r.phase with
    | .newton _ => s.lendTo h r.graph r.task 2 (16 * r.lend)
    | .direct _ _ _ => s.lendTo h r.graph r.task 1 (16 * r.lend)
    | .finished => s.unlend h r.graph r.task

/-- A hall's root task changes, and what it borrows with it. -/
def State.setRootRun (s : State) (h : Nat) (r : Option RootRun) : State :=
  let s' := s.setRoots { s.roots with runs := s.roots.runs.set none h r }
  match s.rootRun h, r with
  | some o, none => s'.unlend h o.graph o.task
  | _, _ => s'.lendRoot h

/-! ### Taking a task (R248, R413) -/

/-- The field checks of a parameter block (Table 8.2). -/
def rootParamsBad (b : List Byte) : Bool :=
  let ops := leAt b 0 1
  let lend := leAt b 1 1
  let nfac := leAt b 2 2
  ops = 0 || ops > 3 || lend = 0 || lend > 36 || nfac = 0 || nfac > 256
    || (if ops % 2 = 1 then leAt b 8 4 = 0 else leAt b 8 4 ≠ 0)
    || leAt b 0xC 4 ≠ 0 || leAt b 0x18 8 % 64 ≠ 0 || (b.drop 0x20).any (· ≠ 0)

/-- Two-byte entries of a list. -/
def halves : Nat → List Byte → List Nat
  | 0, _ => []
  | n + 1, b => ofLe (b.take 2) :: halves n (b.drop 2)

/-- The ranges a root task names (R242, R413). -/
def rootRanges (fs : List RootFactor) (b : List Byte) : List PinRange :=
  let n := leAt b 2 2
  [{ va := leAt b 0x10 8, len := 2 * n, write := false }, { va := leAt b 0x18 8, len := 64 * n, write := true }]
    ++ fs.flatMap fun f =>
      [{ va := f.fPtr, len := 4 * f.elems, write := true }, { va := f.rootPtr, len := 4 * f.elems, write := true },
       { va := f.workPtr, len := 64 * f.nmax * f.nmax, write := true }]
      ++ if leAt b 0 1 % 2 = 1 then [{ va := f.partPtr, len := f.tiles * f.ngroup * 4096, write := false }] else []

/-- What stops a unit task's access: a fault holds the task, an error ends its graph, other parts' data is fetched. -/
def State.unitStop {α : Type} (s : State) (x g t : Nat) (job : Byte) (tags : W64) : Acc α → State
  | .ok _ => s
  | .fault k va lo size =>
    let (id, s) := s.raise x 5 job k va lo size (BitVec.ofNat 64 t)
    s.modTask g t fun ts => { ts with st := .faultHeld id }
  | .err a p => s.unitAddress x g t tags a p
  | .remote va pa len => s.hubFetch job va pa len

/-- A root task's parameters and factor list, once read: none of them where they break R248. -/
def State.rootRead (s : State) (h : Nat) (gr : Graph) (r : TaskRec) : Acc (Option (List Byte × List RootFactor)) :=
  accBind (s.hubRead gr.hdr.job r.body.toNat 64) fun b =>
    if rootParamsBad b then .ok none
    else accBind (s.hubRead gr.hdr.job (leAt b 0x10 8) (2 * leAt b 2 2)) fun l =>
      let fs := (halves (leAt b 2 2) l).map s.factor
      if fs.all fun f => f.any fun f => f.job = gr.hdr.job && f.hall = h then .ok (some (b, fs.filterMap id)) else .ok none

/-- ROOT takes a placed task and probes its ranges (R248, R262, R413). -/
def State.rootProbe (s : State) (h g t : Nat) : State :=
  match s.unitTask g t 4 with
  | some (gr, ts, r) =>
    if r.placeHall ≠ h || ts.probed then s
    else if s.roots.failed.getLsbD h then s.failTask g t 0x28
    else match s.rootRead h gr r with
      | .ok none => (s.dropHub gr.hdr.job).failTask g t 0x22
      | .ok (some (b, fs)) => (s.dropHub gr.hdr.job).pinTask h 5 g t ts.tags (rootRanges fs b)
      | e => s.unitStop h g t gr.hdr.job ts.tags e
  | none => s

/-! ### Accumulation (R246, R247) -/

/-- Accumulate one block: the new block, or none where a partial is not finite. -/
def State.accBlock (s : State) (g t ntok : Nat) (f : RootFactor) (b : Nat) : Acc (Option (List F32)) :=
  let n := f.blkn.getD b 0
  let tl := n / 32
  let uppers := (List.range tl).flatMap fun i => (List.range (tl - i)).map fun d => (i, i + d)
  let parts := uppers.foldr (fun (p : Nat × Nat) (acc : Acc (List ((Nat × Nat) × List F32))) =>
    accBind (s.taskRead g t f.job (f.partVa b p.1 p.2 0) (f.ngroup * 4096)) fun bs =>
      accMap (fun l => (p, wordsOf (f.ngroup * 1024) bs) :: l) acc) (.ok [])
  accBind parts fun ps =>
    accBind (s.taskRead g t f.job (f.blockVa b) (4 * n * n)) fun ob =>
      let old := wordsOf (n * n) ob
      if ps.any fun p => p.2.any fun w => !(f32finite w) then .ok none
      else
        .ok (some ((List.range n).flatMap fun r => (List.range n).map fun c =>
          -- tile (i, j) is written before its transpose to (j, i), on the diagonal too
          let (er, ec) := if r / 32 < c / 32 then (r, c) else (c, r)
          let ws := ((ps.find? fun p => p.1 = (er / 32, ec / 32)).map (·.2)).getD []
          let q := (List.range f.ngroup).map fun k => ws.getD (k * 1024 + er % 32 * 32 + ec % 32) 0
          accElem f.beta ntok (if f.fValid then some (old.getD (er * n + ec) 0) else none) q))

/-- ACC on one factor, block by block; the factor's record and copy follow (R246, R247). -/
def State.accFactor (s : State) (g t ntok : Nat) (tags : W64) (f : RootFactor) : List Nat → RootStat → Acc (State × RootStat)
  | [], st =>
    let f := (s.factor f.fid).getD f
    let f := if (List.range f.blkn.length).all f.written.contains then { f with fValid := true } else f
    .ok (s.putFactor f, st)
  | b :: r, st =>
    match s.accBlock g t ntok f b with
    | .ok none => (s.count .rootSkipped 0 1).accFactor g t ntok tags f r { st with accSkip := st.accSkip + 1, flags := st.flags ||| 2 }
    | .ok (some ws) =>
      (match s.taskWrite g t f.job tags (f.blockVa b) (wordBytes ws) with
      | .ok s =>
        let f' := (s.factor f.fid).getD f
        let s := if f'.written.contains b then s else s.putFactor { f' with written := f'.written ++ [b] }
        s.accFactor g t ntok tags f r st
      | .fault k va lo sz => .fault k va lo sz
      | .err a p => .err a p
      | .remote v p l => .remote v p l)
    | .fault k va lo sz => .fault k va lo sz
    | .err a p => .err a p
    | .remote v p l => .remote v p l

/-! ### Going from block to block (R249, R251, R253, R256, R258) -/

/-- Change the record of one listed factor. -/
def RootRun.modStat (r : RootRun) (i : Nat) (f : RootStat → RootStat) : RootRun := { r with stats := r.stats.modify i f }

/-- Whether a factor is due in a step (R249). -/
def RootFactor.due (f : RootFactor) (step : W32) : Bool := step.toNat % f.cadence = f.phase

/-- A block takes its outcome; the factor's last action is now. -/
def RootRun.outcome (r : RootRun) (i b code : Nat) (lc : W64) : RootRun :=
  r.modStat i fun st => { st with outcomes := st.outcomes.set 0 b code, elapsed := (lc - r.start).toNat }

/-- Set flag bits of the current factor's record. -/
def RootRun.flag (r : RootRun) (v : BitVec 7) : RootRun := r.modStat r.fac fun st => { st with flags := st.flags ||| v }

/-- The direct path begins on a block. -/
def RootRun.goDirect (r : RootRun) (f : RootFactor) (sc : RootScale) (n : Nat) (blk : List F32) : RootRun :=
  let d := directRoot f sc n blk
  { r with phase := .direct d.1 d.2.1 d.2.2 }

/-- Begin the refresh of one block (R253, R256, R258); none where it takes outcome 6. -/
def RootRun.beginBlock (r : RootRun) (f : RootFactor) (n : Nat) (blk root : List F32) : RootRun :=
  let sc := rootScale f n blk
  let r := r.modStat r.fac fun st =>
    { st with ubound := f64to32 sc.u, lambda := f64to32 sc.lam, flags := if sc.raised then st.flags ||| 1 else st.flags }
  if f.forceDirect || !(f.inService.contains r.blk) then r.goDirect f sc n blk
  else
    let a := rootA sc n blk
    match warmX sc f.logp root with
    | some x =>
      let w : Newton := { scale := sc, a := a, x := x, m := warmM f.logp sc.sigma n x a, itmax := f.itWarm, warm := true }
      { r with phase := .newton w }
    | none => { (r.flag 0x40) with phase := .newton (coldStart f sc n a) }

/-- The blocks a root task still goes through, from (i, b) on: factor index and block. -/
def RootRun.rest (s : State) (r : RootRun) : List (Nat × Nat) :=
  (List.range r.facs.length).flatMap fun i => match s.factor (r.facs.getD i 0) with
    | some f => if i < r.fac || r.ops / 2 = 0 || !(f.due r.step) then []
      else ((List.range f.blkn.length).filter fun b => r.fac < i || r.blk ≤ b).map fun b => (i, b)
    | none => []

/-- Go on to the first of the listed blocks that a refresh begins on; a block without usable statistics takes outcome
6 (Table 8.4). -/
def State.rootSeek (s : State) (r : RootRun) : List (Nat × Nat) → Acc RootRun
  | [] => .ok { r with phase := .finished }
  | (i, b) :: rest =>
    let r := { r with fac := i, blk := b }
    match s.factor (r.facs.getD i 0) with
    | none => s.rootSeek r rest
    | some f =>
      let n := f.blkn.getD b 0
      if !f.fValid then s.rootSeek (r.outcome i b 6 (s.hallLc f.hall)) rest
      else accBind (s.taskRead r.graph r.task r.job (f.blockVa b) (4 * n * n)) fun bs =>
        let blk := wordsOf (n * n) bs
        if !(blk.all f32finite) then s.rootSeek (r.outcome i b 6 (s.hallLc f.hall)) rest
        else accBind (s.taskRead r.graph r.task r.job (f.rootVa b) (4 * n * n)) fun rb =>
          .ok (r.beginBlock f n blk (wordsOf (n * n) rb))

/-- The task goes on after its current block. -/
def State.rootNext (s : State) (h : Nat) (r : RootRun) : Acc State :=
  accMap (fun r => s.setRootRun h (some r)) (s.rootSeek r ((r.rest s).filter fun p => !(p = (r.fac, r.blk))))

/-- The deadline has passed: the current block takes outcome 4, every block not yet refreshed 7 (R265). -/
def State.rootLate (s : State) (h : Nat) (r : RootRun) : State :=
  let lc := s.hallLc h
  let here := (r.fac, r.blk)
  let r := ((r.rest s).filter fun p => !(p = here)).foldl (fun (r : RootRun) p =>
    (r.outcome p.1 p.2 7 lc).modStat p.1 fun st => { st with flags := st.flags ||| 0x10 }) ((r.outcome r.fac r.blk 4 lc).flag 0x10)
  s.setRootRun h (some { r with phase := .finished })

/-- Install a block's new root, its last action (R251, R243), and go on. -/
def State.rootInstall (s : State) (h : Nat) (r : RootRun) (f : RootFactor) (code : Nat) (root : List F32) : Acc State :=
  accBind (s.taskWrite r.graph r.task r.job r.tags (f.rootVa r.blk) (wordBytes root)) fun s =>
    let srv := if f.inService.contains r.blk then f.inService else f.inService ++ [r.blk]
    let s := s.putFactor { f with inService := srv, rootValid := f.rootValid || (List.range f.blkn.length).all srv.contains }
    (s.count .rootRefresh 0 1).rootNext h (r.outcome r.fac r.blk code (s.hallLc h))

/-- A step of a root task that reads or writes: its result, or what stopped it. -/
def State.rootDo (s : State) (h : Nat) (r : RootRun) (a : Acc State) : State :=
  match a with
  | .ok s => s.dropHub r.job
  | .err x p => (s.setRootRun h none).unitAddress h r.graph r.task r.tags x p
  | .fault _ va _ _ => (s.setRootRun h none).unitAddress h r.graph r.task r.tags va false
  | .remote va pa len => s.hubFetch r.job va pa len

/-! ### Running -/

/-- The bytes a unit leaves in its work area (R242, R283): free values. -/
def workBytes (va n : Nat) (lc : W64) : List Byte := (List.range n).map fun i => Config.workByte (va + i) lc.toNat

/-- ACC over every listed factor, in list order (R249). -/
def State.rootAcc (s : State) (r : RootRun) : List Nat → RootRun → Acc (State × RootRun)
  | [], acc => .ok (s, acc)
  | i :: rest, acc => match s.factor (r.facs.getD i 0) with
    | none => s.rootAcc r rest acc
    | some f =>
      (match s.accFactor r.graph r.task r.ntok r.tags f (List.range f.blkn.length) {} with
      | .ok (s, st) => s.rootAcc r rest (acc.modStat i fun _ => st)
      | .fault k va lo sz => .fault k va lo sz
      | .err a p => .err a p
      | .remote v p l => .remote v p l)

/-- A taken root task begins: accumulation, its work area, then the first block due (R249, R254). -/
def State.rootBegin (s : State) (h g task : Nat) (gr : Graph) (ts : TaskSt) (b : List Byte) (fs : List RootFactor) : RootRun × Acc State :=
  let r : RootRun :=
    { graph := g, task := task, job := gr.hdr.job, tags := ts.tags, step := gr.step, ops := leAt b 0 1, lend := leAt b 1 1,
      deadline := leAt b 4 4, ntok := leAt b 8 4, statusPtr := leAt b 0x18 8, facs := fs.map (·.fid),
      stats := fs.map fun _ => {}, start := s.hallLc h }
  let all := List.range fs.length
  let work := if r.ops / 2 = 1 then (fs.filter fun f => f.due gr.step).map fun f => (f.workPtr, workBytes f.workPtr (64 * f.nmax * f.nmax) (s.hallLc h)) else []
  (r, accBind (if r.ops % 2 = 1 then s.rootAcc r all r else .ok (s, r)) fun p =>
    accBind (p.1.taskWrites g task gr.hdr.job ts.tags work) fun s =>
      accMap (fun r => s.setRootRun h (some r)) (s.rootSeek p.2 (p.2.rest s)))

/-- ROOT_TASK_RUN: ROOT starts the placed task (R249, R262). -/
def execRootTaskRun (hall : Fin 4) (graph : Fin 8) (task : Nat) (s : State) : Host.Outcome State Fault Refusal :=
  let h := hall.val
  let g := graph.val
  if s.power.supply ≠ .on || (s.rootRun h).isSome || !(s.hallRuns h) then .next s
  else
    let s := s.rootProbe h g task
    match s.unitTask g task 4 with
    | some (gr, ts, rec) =>
      if !ts.probed || rec.placeHall ≠ h then .next s
      else match s.rootRead h gr rec with
        | .ok (some (b, fs)) => .next (s.rootDo h (s.rootBegin h g task gr ts b fs).1 (s.rootBegin h g task gr ts b fs).2)
        | .ok none => .next ((s.dropHub gr.hdr.job).failTask g task 0x22)
        | e => .next (s.unitStop h g task gr.hdr.job ts.tags e)
    | none => .next s

/-- The block a phase works on, its factor, size and statistics. -/
def State.rootBlock (s : State) (r : RootRun) (f : RootFactor) : Acc (List F32) :=
  let n := f.blkn.getD r.blk 0
  accMap (wordsOf (n * n)) (s.taskRead r.graph r.task r.job (f.blockVa r.blk) (4 * n * n))

/-- What follows a range violation or nonconvergence: the direct path, if the deadline allows (R257). -/
def State.rootFallback (s : State) (h : Nat) (r : RootRun) (f : RootFactor) (sc : RootScale) (late : Bool) : Acc State :=
  if late then .ok (s.rootLate h r)
  else accMap (fun blk => s.setRootRun h (some (r.goDirect f sc (f.blkn.getD r.blk 0) blk))) (s.rootBlock r f)

/-- One iteration boundary of a block: convergence, guards, nonconvergence and the deadline, then the next iteration (R255
to R257, R264). -/
def State.rootBoundary (s : State) (h : Nat) (r : RootRun) (f : RootFactor) (w : Newton) (late : Bool) : RootRun × Acc State :=
  let n := f.blkn.getD r.blk 0
  let e := newtonE n w.m
  let res := amaxOf e
  let r := r.modStat r.fac fun st => { st with resid := res }
  let stall := if w.k ≥ 3 && !((val32 res).lt (val32 w.rPrev)) then w.stall + 1 else 0
  (r, if w.warm && w.k = 0 && (val32 f.omega).lt (val32 res) then
      (let r := r.flag 0x40
      .ok (if late then s.rootLate h r else s.setRootRun h (some { r with phase := .newton (coldStart f w.scale n w.a) })))
    else if !((val32 f.tol).lt (val32 res)) then s.rootInstall h r f (if w.warm then 1 else 2) w.root
    else if w.breached then s.rootFallback h (r.flag 0x04) f w.scale late
    else if stall = 2 || w.k = w.itmax then s.rootFallback h (r.flag 0x08) f w.scale late
    else if late then .ok (s.rootLate h r)
    else .ok (s.setRootRun h (some { (r.modStat r.fac fun st => { st with iters := st.iters + 1 }) with
                                      phase := .newton (w.advance f.logp n e res stall) })))

/-- Whether a limit of `n` lc has passed, from the local counts between: past it when more have been counted, and in the lc of equal
counts as the event says; 0 is no limit (R263, R287, log entry 135). -/
def reached (n gone : Nat) (passed : Bool) : Bool := n ≠ 0 && (n < gone || n = gone && passed)

/-- Whether the deadline of a root task has passed: DEADLINE lc of its hall since its start (R263). In the lc in which the count reaches
DEADLINE only the event can say (log entry 135). -/
def State.rootIsLate (s : State) (h : Nat) (r : RootRun) (deadlinePassed : Bool) : Bool :=
  reached r.deadline (s.hallLc h - r.start).toNat deadlinePassed

/-- ROOT_ITERATION_BOUNDARY: the block's boundary; below 42 V the task pauses (R255, R264, R577). -/
def execRootIterationBoundary (hall : Fin 4) (deadlinePassed : Bool) (s : State) : Host.Outcome State Fault Refusal :=
  let h := hall.val
  match if s.power.below42 then none else s.rootRun h with
  | none => .next s
  | some r =>
    match r.phase, s.factor (r.facs.getD r.fac 0) with
    | .newton w, some f =>
      let b := s.rootBoundary h r f w (s.rootIsLate h r deadlinePassed)
      .next (s.rootDo h b.1 b.2)
    | _, _ => .next s

/-- ROOT_PANEL_BOUNDARY: a panel's pivots are counted; a block found ill-conditioned within the panel keeps its root; then the
deadline; then the next panel or the root, or an ill-conditioned block where Denman-Beavers did not end (R260, R261,
R264). -/
def execRootPanelBoundary (hall : Fin 4) (deadlinePassed : Bool) (s : State) : Host.Outcome State Fault Refusal :=
  let h := hall.val
  match if s.power.below42 then none else s.rootRun h with
  | none => .next s
  | some r =>
    match r.phase, s.factor (r.facs.getD r.fac 0) with
    | .direct (p :: rest) result mid, some f =>
      let late := s.rootIsLate h r deadlinePassed
      let s := if p = 0 then s else s.count .rootPivots 0 p
      let r := r.modStat r.fac fun st => { st with pivReg := st.pivReg + p }
      let bad := s.rootDo h r (s.rootNext h ((r.flag 0x20).outcome r.fac r.blk 5 (s.hallLc h)))
      if rest = [] && mid then .next bad
      else if late then .next (s.rootLate h r)
      else (match rest, result with
        | [], none => .next bad
        | [], some root => .next (s.rootDo h r (s.rootInstall h r f 3 root))
        | _, _ => .next (s.setRootRun h (some { r with phase := .direct rest result mid })))
    | _, _ => .next s

/-! ### The end (R252) -/

/-- Outcome nibbles (Table 8.3). -/
def nibbles (o : SMap Nat) : List Byte := (List.range 32).map fun i => BitVec.ofNat 8 (o.get 0 (2 * i) + 16 * o.get 0 (2 * i + 1))

/-- The 64 bytes of a status record (Table 8.3). -/
def RootStat.bytes (st : RootStat) (f : RootFactor) (step : W32) : List Byte :=
  let flags := st.flags.toNat + (if f.rootValid then 0x80 else 0) + if f.fValid then 0x100 else 0
  leBytes 2 f.fid ++ leBytes 2 st.accSkip ++ leBytes 4 step.toNat ++ leBytes 2 st.iters ++ leBytes 2 st.pivReg ++ leBytes 2 flags
    ++ leBytes 2 0 ++ leBytes 4 st.resid ++ leBytes 4 st.ubound ++ leBytes 4 st.lambda ++ leBytes 4 st.elapsed ++ nibbles st.outcomes

/-- ROOT_TASK_DONE: the status records are written, in list order, and the task is complete (R252). -/
def execRootTaskDone (hall : Fin 4) (s : State) : Host.Outcome State Fault Refusal :=
  let h := hall.val
  match s.rootRun h with
  | none => .next s
  | some r =>
    if r.phase ≠ .finished then .next s
    else
      let recs := (r.facs.zip r.stats).map fun p => (s.factor p.1).elim (List.replicate 64 0) fun f => p.2.bytes f r.step
      .next (s.rootDo h r (accMap (fun (s : State) =>
        let s := (r.facs.zip recs).foldl (fun (s : State) p => match s.factor p.1 with
          | some f => s.putFactor { f with status := p.2 }
          | none => s) s
        (s.setRootRun h none).modTask r.graph r.task fun ts => { ts with unitDone := true })
        (s.taskWrite r.graph r.task r.job r.tags r.statusPtr recs.flatten)))

/-- A fenced hall's root task ends its graph (R266). -/
def State.stopRoot (s : State) (h : Nat) : State :=
  match s.rootRun h with
  | some r => (s.setRootRun h none).failTask r.graph r.task 0x28
  | none => s

end Sys2Proof.Machine
end

