-- ==== Sys2Proof/Machine/RootCmds.lean ====
section
/-! DEFINITION. The root commands (R240, R241, R243, R252, R262, R269). -/

namespace Sys2Proof.Machine

/-- Whether an FP32 field lies in `[2^lo, 2^hi]`. -/
def f32between (x : F32) (lo hi : FVal) : Bool :=
  match val32 x with
  | .fin _ _ _ => !((val32 x).lt lo) && !(hi.lt (val32 x))
  | _ => false
/-- `2^i` as a value. -/
def pow2 (i : Int) : FVal := .fin false 1 i

/-- Block sizes of a factor record. -/
def factorBlkn (b : List Byte) : List Nat := halves 64 (b.drop 0x80)

/-- The offset of the first field of a factor record that breaks Table 8.1 (R241). -/
def factorBad (b : List Byte) (job : Byte) : Option Nat :=
  let blkn := factorBlkn b
  let nblk := leAt b 5 1
  let nmax := blkn.foldl max 0
  let f := fun (o : Nat) => leAt b o 4
  let zero : FVal := .fin false 0 0
  let checks : List (Nat × Bool) :=
    [(0x00, leAt b 0 2 > 2047), (0x02, leAt b 2 1 > 3), (0x03, leAt b 3 1 ≥ 32), (0x04, leAt b 4 1 ≠ job.toNat),
     (0x05, nblk = 0 || nblk > 64), (0x06, leAt b 6 2 = 0 || leAt b 6 2 > 1000), (0x08, leAt b 8 2 ≥ leAt b 6 2),
     (0x0A, leAt b 0xA 1 = 0 || leAt b 0xA 1 > 16), (0x0B, leAt b 0xB 1 = 0 || leAt b 0xB 1 > 16),
     (0x0C, leAt b 0xC 1 = 0 || leAt b 0xC 1 > 64), (0x0D, leAt b 0xD 1 ≠ 0),
     (0x10, !(f32between (f 0x10) (.fin false nmax (-22)) (pow2 (-4)))),
     (0x14, !(f32between (f 0x14) (pow2 (-10)) (pow2 (-1)))),
     (0x18, !(f32between (f 0x18) zero (pow2 0))),
     (0x1C, !(f32finite (f 0x1C)) || (val32 (f 0x1C)).lt zero || !(zero.lt ((val32 (f 0x18)).add (val32 (f 0x1C))))),
     (0x20, !(f32between (f 0x20) (pow2 0) (pow2 1))),
     (0x24, !(f32between (f 0x24) (pow2 (-52)) (pow2 (-8)))),
     (0x28, !(f32finite (f 0x28)) || (val32 (f 0x28)).lt zero || !((val32 (f 0x28)).lt (pow2 0))),
     (0x2C, leAt b 0x2C 4 = 0 || leAt b 0x2C 4 > 65536),
     (0x30, leAt b 0x30 8 % 128 ≠ 0), (0x38, leAt b 0x38 8 % 128 ≠ 0), (0x40, leAt b 0x40 8 % 128 ≠ 0),
     (0x48, leAt b 0x48 8 % 128 ≠ 0), (0x50, ((b.drop 0x50).take 48).any (· ≠ 0)),
     (0x80, ((List.range 64).zip blkn).any fun p => if p.1 < nblk then p.2 % 32 ≠ 0 || p.2 = 0 || p.2 > 4096 else p.2 ≠ 0)]
  (checks.find? (·.2)).map (·.1)

/-- The ROOT's copy of a factor record (R240, R243). -/
def RootFactor.parse (b : List Byte) : RootFactor where
  fid := leAt b 0 2
  hall := leAt b 2 1
  logp := leAt b 3 1 % 4
  forceDirect := leAt b 3 1 / 4 % 2 = 1
  rootValid := leAt b 3 1 / 8 % 2 = 1
  fValid := leAt b 3 1 / 16 % 2 = 1
  job := BitVec.ofNat 8 (leAt b 4 1)
  cadence := leAt b 6 2
  phase := leAt b 8 2
  npow := leAt b 0xA 1
  itWarm := leAt b 0xB 1
  itCold := leAt b 0xC 1
  pivLimit := leAt b 0xE 2
  tol := leAt b 0x10 4
  omega := leAt b 0x14 4
  lamRel := leAt b 0x18 4
  lamAbs := leAt b 0x1C 4
  gamma := leAt b 0x20 4
  tau := leAt b 0x24 4
  beta := leAt b 0x28 4
  ngroup := leAt b 0x2C 4
  fPtr := leAt b 0x30 8
  rootPtr := leAt b 0x38 8
  workPtr := leAt b 0x40 8
  partPtr := leAt b 0x48 8
  blkn := (factorBlkn b).take (leAt b 5 1)
  inService := if leAt b 3 1 / 8 % 2 = 1 then List.range (leAt b 5 1) else []
  written := if leAt b 3 1 / 16 % 2 = 1 then List.range (leAt b 5 1) else []

/-- Whether a root task names a factor: by the list ROOT read, or by the list in memory. -/
def State.taskNames (s : State) (q : Nat × Nat × Graph × TaskRec) (fid : Nat) : Acc Bool :=
  match [0, 1, 2, 3].findSome? fun h => (s.rootRun h).filter fun r => r.graph = q.1 && r.task = q.2.1 with
  | some r => .ok (r.facs.contains fid)
  | none => accBind (s.hubRead q.2.2.1.hdr.job q.2.2.2.body.toNat 64) fun b =>
      accMap (fun l => (halves (leAt b 2 2) l).contains fid) (s.hubRead q.2.2.1.hdr.job (leAt b 0x10 8) (2 * leAt b 2 2))

/-- Whether a queued or running root task of the factor's job names it (R269). -/
def State.factorBusy (s : State) (f : RootFactor) : Acc Bool := s.anyNames 4 f.job fun q => s.taskNames q f.fid

/-- Whether a queued or running root task is of a hall. -/
def State.rootBusy (s : State) (h : Nat) : Bool := (s.tasksOfKind 4).any fun q => q.2.2.2.placeHall = h

/-- A job's registered factor. -/
def State.factorOf (s : State) (job : Byte) (fid : W64) : Option RootFactor := (s.factor fid.toNat).filter fun f => f.job = job

/-- ROOT_FACTOR_SET (R240, R241). -/
def execRootFactorSet (h : CmdHdr) (va : W64) (s : State) : Host.Outcome State Fault Refusal :=
  command 0x0B01 1 true h s fun c s =>
    s.cmdRead c h.job va.toNat 256 fun b s =>
      match factorBad b h.job with
      | some o => s.reply c stInvalid [BitVec.ofNat 64 o]
      | none =>
        let f := RootFactor.parse b
        if (s.factor f.fid).isSome then s.reply c stConflict []
        else (s.setRoots { s.roots with factors := s.roots.factors ++ [f] }).reply c stOk []

/-- ROOT_FACTOR_CLEAR (R269). -/
def execRootFactorClear (h : CmdHdr) (fid : W64) (s : State) : Host.Outcome State Fault Refusal :=
  command 0x0B02 1 true h s fun c s =>
    match s.factorOf h.job fid with
    | none => s.reply c stInvalid []
    | some f =>
      s.unlessBusy c f.job (s.factorBusy f) fun s => (s.setRoots { s.roots with factors := s.roots.factors.filter fun x => x.fid ≠ f.fid }).reply c stOk []

/-- ROOT_STATUS (R252, R269). -/
def execRootStatus (h : CmdHdr) (fid va : W64) (s : State) : Host.Outcome State Fault Refusal :=
  command 0x0B03 2 true h s fun c s =>
    match s.factorOf h.job fid with
    | none => s.reply c stInvalid []
    | some f => s.cmdWrite c h.job va.toNat (if f.status.isEmpty then RootStat.bytes {} f 0 else f.status) []

/-- ROOT_RESET (R243, R269). -/
def execRootReset (h : CmdHdr) (fid flags : W64) (s : State) : Host.Outcome State Fault Refusal :=
  command 0x0B04 2 true h s fun c s =>
    match s.factorOf h.job fid with
    | none => s.reply c stInvalid []
    | some f =>
      if flags.toNat > 3 then s.reply c stInvalid []
      else s.unlessBusy c f.job (s.factorBusy f) fun s =>
        let f := if flags.getLsbD 0 then { f with fValid := false, written := [] } else f
        let f := if flags.getLsbD 1 then { f with rootValid := false, inService := [] } else f
        let s := s.putFactor f
        if flags.getLsbD 0 then s.cmdWrite c h.job f.fPtr (List.replicate (4 * f.elems) 0) [] else s.reply c stOk []

/-- A hall's ROOT is marked failed (R262); a solve with that hall stops (R293). -/
def State.failRoot (s : State) (h : Nat) : State :=
  (s.setRoots { s.roots with failed := s.roots.failed ||| ((1 : BitVec 4) <<< h) }).hallFault h .rootFailed 2 0 (BitVec.ofNat 16 h) 0 0

end Sys2Proof.Machine
end

