-- ==== Sys2Proof/Machine/SolveNum.lean ====
section
/-! DEFINITION. The arithmetic of the sparse solver: fixed point (R273 to R278), setup (R279 to R281) and the methods
(R285). -/

namespace Sys2Proof.Machine

/-- A solve while it computes: its image, its run, and what the other partitions contribute, in order. -/
structure Sv where
  img : SolveImage
  run : SolveRun
  peer : SolvePeer := {}
  /-- What this partition tells the others: its contributions, or as partition 0 the totals and decisions (R291). -/
  out : SolvePeer := {}
  /-- Partition 0 has decided at a boundary. -/
  decided : Bool := false

/-! ### Words and exponents (R273, R277) -/

/-- Element `i` of a vector as a value. -/
def SolveVec.val (v : SolveVec) (i : Nat) : FVal := (FVal.ofInt (v.w.getD i 0)).scale (v.e - 31)
/-- Element `i` in binary64, exactly. -/
def SolveVec.at64 (v : SolveVec) (i : Nat) : F64 := f64 (v.val i)

/-- The smallest integer M with |v| < 2^M for every element; −1,074 for zeros (R277). -/
def measure (l : List FVal) : Int :=
  l.foldl (fun (m : Int) v => match v with | .fin _ n e => if n = 0 then m else max m (e + bitLen n) | _ => m) (-1074)

/-- Values rounded once to words at an exponent, and whether one saturated (R274, R278). -/
def quantize (e : Int) (l : List FVal) : List Int × Bool :=
  let c := l.map fun v => v.toFixed (e - 31) (-(2 ^ 31 - 1)) (2 ^ 31 - 1)
  (c.map (·.1), c.any (·.2))

/-- The exponent of a tracked vector: M + H; −1,074 where every element is zero (R277). -/
def trackedExp (m h : Int) : Int := if m = -1074 then -1074 else m + h

/-! ### Reductions across partitions (R275, R277, R291) -/

/-- A dot product's exact sum over every partition. -/
def Sv.dot (s : Sv) (own : Int) : Int × Sv :=
  let n := own + s.peer.dots.headD 0
  (n, { s with peer := { s.peer with dots := s.peer.dots.drop 1 }
               out := { s.out with dots := s.out.dots ++ [if s.img.pindex = 0 then n else own] } })
/-- The largest M over every partition. -/
def Sv.exp (s : Sv) (own : Int) : Int × Sv :=
  let m := max own (s.peer.exps.headD (-1074))
  (m, { s with peer := { s.peer with exps := s.peer.exps.drop 1 }
               out := { s.out with exps := s.out.exps ++ [if s.img.pindex = 0 then m else own] } })
/-- Whether any partition saturated. -/
def Sv.sat (s : Sv) (own : Bool) : Bool × Sv :=
  let b := own || s.peer.sats.headD false
  (b, { s with peer := { s.peer with sats := s.peer.sats.drop 1 }
               out := { s.out with sats := s.out.sats ++ [if s.img.pindex = 0 then b else own] } })

/-- `Σ a·b` of two vectors in binary64 (R275). -/
def Sv.dotVec (s : Sv) (a b : SolveVec) : F64 × Sv :=
  let own := (a.w.zip b.w).foldl (fun acc p => acc + p.1 * p.2) 0
  let (n, s) := s.dot own
  (f64 ((FVal.ofInt n).scale (a.e + b.e - 62)), s)

/-- `Σ b·b` of the right-hand side: exact in units of 2^−298, rounded once. -/
def Sv.dotB (s : Sv) : F64 × Sv :=
  let own := s.run.vals.b.foldl (fun (acc : Int) w =>
    acc + ((((val32 w).mul (val32 w)).toUnits (-298)).getD 0)) 0
  let (n, s) := s.dot own
  (f64 ((FVal.ofInt n).scale (-298)), s)

/-! ### Writing passes (R276 to R278) -/

/-- A pass: its exact elements, and its words at an exponent with whether one saturated. -/
structure Pass where
  exact : List FVal
  words : Int → List Int × Bool

/-- A pass that rounds each element once. -/
def Pass.plain (l : List FVal) : Pass := { exact := l, words := fun e => quantize e l }

/-- The range entry of a vector (Table 9.3): static, and G. -/
def SolveImage.entry (i : SolveImage) (id : Nat) : Bool × Nat := i.range.getD id (false, 1)

/-- The vector a pass leaves at an exponent, with the M of its words over every partition. -/
def Sv.land (s : Sv) (e : Int) (ws : List Int) : SolveVec × Sv :=
  let (m, s) := s.exp (measure (ws.map fun w => (FVal.ofInt w).scale (e - 31)))
  ({ w := ws, e := e, m := some m }, s)

/-- A pass measured first, and written at the measured M (R277). -/
def Sv.measured (s : Sv) (h : Nat) (p : Pass) : SolveVec × Sv :=
  let (m, s) := s.exp (measure p.exact)
  let e := trackedExp m h
  s.land e (p.words e).1

/-- Write a tracked vector; a pass that saturates is discarded, counted and repeated as measured (R277, R278). -/
def Sv.writeTracked (s : Sv) (id : Nat) (old : SolveVec) (p : Pass) : SolveVec × Sv :=
  let h := (s.img.entry id).2
  match old.m with
  | none => s.measured h p
  | some m =>
    let e := trackedExp m h
    let (ws, own) := p.words e
    let (sat, s) := s.sat own
    if sat then
      let v := s.run.vals
      let s := { s with run := { s.run with vals := { v with satCount := v.satCount + 1, satVec := v.satVec ||| ((1 : BitVec 16) <<< id) } } }
      s.measured h p
    else s.land e ws

/-- Write a vector of a matrix product A·u (R276, R277). -/
def Sv.writeProduct (s : Sv) (id : Nat) (old u : SolveVec) (p : Pass) : SolveVec × Sv :=
  match s.img.entry id with
  | (true, g) => let e := u.e + s.run.ae + g; s.land e (p.words e).1
  | (false, _) => s.writeTracked id old p

/-! ### Matrix products (R274) -/

/-- The entry indices of a row. -/
def SolveImage.row (i : SolveImage) (r : Nat) : List Nat :=
  let lo := i.rowPtr.getD r 0
  (List.range (i.rowPtr.getD (r + 1) 0 - lo)).map (lo + ·)

/-- Row sums of `w_a × w_u`, exact, as values (R274). -/
def Sv.rowSums (s : Sv) (u : SolveVec) : List FVal :=
  (List.range s.img.nrow).map fun r =>
    let n := (s.img.row r).foldl (fun (acc : Int) k =>
      let c := s.img.colIdx.getD k 0
      let x := if c < s.img.nrow then u.w.getD c 0 else s.run.halo.get 0 (c - s.img.nrow)
      acc + s.run.a.getD k 0 * x) 0
    (FVal.ofInt n).scale (s.run.ae + u.e - 62)

/-- `b − A·u`, exactly. -/
def Sv.residual (s : Sv) (u : SolveVec) : List FVal := (s.run.vals.b.zip (s.rowSums u)).map fun p => (val32 p.1).add p.2.neg

/-! ### The preconditioner (R274, R280) -/

/-- First rows of the block-Jacobi blocks with their sizes, and the first word of each inverse. -/
def blockTable : List Nat → Nat → Nat → List (Nat × Nat × Nat)
  | [], _, _ => []
  | k :: r, row, off => (row, k, off) :: blockTable r (row + k) (off + k * k)

/-- Block-Jacobi: each block's inverse times its part of r. -/
def Sv.applyBlocks (s : Sv) (r : SolveVec) : List FVal :=
  (blockTable s.img.blocks 0 0).flatMap fun b => (List.range b.2.1).map fun i =>
    let n := (List.range b.2.1).foldl (fun (acc : Int) j =>
      acc + s.run.prec.l.getD (b.2.2 + i * b.2.1 + j) 0 * r.w.getD (b.1 + j) 0) 0
    (FVal.ofInt n).scale (s.run.prec.le + r.e - 62)

/-- Local entries of a row below its diagonal: entry index and column. -/
def SolveImage.lower (i : SolveImage) (r : Nat) : List (Nat × Nat) :=
  ((i.row r).map fun k => (k, i.colIdx.getD k 0)).filter fun p => p.2 < r

/-- A triangular-solve row: `(x − Σ l·y)` times the pivot's reciprocal, exactly (R274). -/
def Sv.triRow (s : Sv) (i : Nat) (x : FVal) (terms : List (Nat × FVal)) : FVal :=
  let l := fun (k : Nat) => (FVal.ofInt (s.run.prec.l.getD k 0)).scale (s.run.prec.le - 31)
  let n := terms.foldl (fun acc p => acc.add ((l p.1).mul p.2).neg) x
  n.mul ((FVal.ofInt (s.run.prec.d.getD i 0)).scale (s.run.prec.de - 31))

/-- The forward solve L·y = r, row by row, each row rounded once at y's exponent. -/
def Sv.forward (s : Sv) (r : SolveVec) : SolveVec :=
  let e := Config.forwardExp r.w r.e
  let w := (List.range s.img.nrow).foldl (fun (ws : List Int) i =>
    let y : SolveVec := { w := ws, e := e }
    ws ++ (quantize e [s.triRow i (r.val i) ((s.img.lower i).map fun p => (p.1, y.val p.2))]).1) []
  { w := w, e := e }

/-- Entries of column `i` in later rows: entry index and row. -/
def SolveImage.below (i : SolveImage) (c : Nat) : List (Nat × Nat) :=
  ((List.range i.nrow).filter (c < ·)).flatMap fun r => ((i.lower r).filter fun p => p.2 = c).map fun p => (p.1, r)

/-- The backward solve Lᵀ·z = y from the last row up: exact elements. -/
def Sv.backExact (s : Sv) (y : SolveVec) : List FVal :=
  (List.range s.img.nrow).foldl (fun (zs : List FVal) n =>
    let i := s.img.nrow - 1 - n
    s.triRow i (y.val i) ((s.img.below i).map fun p => (p.1, zs.getD (p.2 - i - 1) (.fin false 0 0))) :: zs) []

/-- The backward solve with every row rounded once at z's exponent. -/
def Sv.backWords (s : Sv) (y : SolveVec) (e : Int) : List Int × Bool :=
  (List.range s.img.nrow).foldl (fun (z : List Int × Bool) n =>
    let i := s.img.nrow - 1 - n
    let v := s.triRow i (y.val i) ((s.img.below i).map fun p => (p.1, (FVal.ofInt (z.1.getD (p.2 - i - 1) 0)).scale (e - 31)))
    let q := quantize e [v]
    (q.1 ++ z.1, z.2 || q.2)) ([], false)

/-- `z := m(r)` as a pass. -/
def Sv.precond (s : Sv) (r : SolveVec) : Pass :=
  if s.img.prec = 1 then Pass.plain (s.applyBlocks r)
  else
    let y := s.forward r
    { exact := s.backExact y, words := fun e => s.backWords y e }

/-! ### Setup (R279 to R281) -/

/-- A factor in progress: the rows of L below the diagonal, the diagonal, the pivots replaced, and whether a pivot was
no number. -/
structure IcAcc where
  rows : List (List (Nat × F64)) := []
  diag : List F64 := []
  pivots : Nat := 0
  ok : Bool := true

/-- An element of a row of L on its pattern. -/
def rowAt (row : List (Nat × F64)) (c : Nat) : Option F64 := (row.find? fun p => p.1 = c).map (·.2)

/-- One row of the incomplete factor: L on the pattern of the local lower triangle (R280). -/
def icRow (img : SolveImage) (a : Nat → F64) (tau dmax : F64) (s : IcAcc) (i : Nat) : IcAcc :=
  let low := img.lower i
  let cols := (List.range i).filter fun c => low.any fun p => p.2 = c
  let row := cols.foldl (fun (row : List (Nat × F64)) j =>
    let lj := s.rows.getD j []
    let x := ((low.find? fun p => p.2 = j).map fun p => a p.1).getD 0
    let n := dot64 x (row.filterMap fun p => (rowAt lj p.1).map fun l => (p.2, l))
    row ++ [(j, f64div n (s.diag.getD j f64one))]) []
  let d := dot64 (a (img.rowPtr.getD i 0)) (row.map fun p => (p.2, p.2))
  let floor := f64mul tau dmax
  let low := f64lt d floor
  { rows := s.rows ++ [row], diag := s.diag ++ [f64sqrt (if low then floor else d)],
    pivots := s.pivots + (if low then 1 else 0), ok := s.ok && !(f64isNan d) }

/-- A list rounded to words at the smallest exponent over every partition (R273). -/
def Sv.toWords (s : Sv) (l : List FVal) : List Int × Int × Sv :=
  let (e, s) := s.exp (measure l)
  ((quantize e l).1, e, s)

/-- IC(0): the preconditioner, the pivots replaced and whether it stands (R280). -/
def Sv.ic0 (s : Sv) (tau : F64) : SolvePrec × Nat × Bool × Sv :=
  let a := fun (k : Nat) => f64 ((FVal.ofInt (s.run.a.getD k 0)).scale (s.run.ae - 31))
  let dg := (List.range s.img.nrow).map fun i => a (s.img.rowPtr.getD i 0)
  let dmax := dg.foldl f64max (dg.headD 0)
  let f := (List.range s.img.nrow).foldl (icRow s.img a tau dmax) {}
  let ls := (List.range s.img.nrow).flatMap fun i => (s.img.row i).map fun k =>
    val64 ((rowAt (f.rows.getD i []) (s.img.colIdx.getD k 0)).getD 0)
  let (l, le, s) := s.toWords ls
  let (d, de, s) := s.toWords (f.diag.map fun x => val64 (f64div f64one x))
  ({ l := l, le := le, d := d, de := de }, f.pivots, f.ok, s)

/-- Block-Jacobi: the inverse of each diagonal block's symmetric part (R280). -/
def Sv.blockJacobi (s : Sv) (tau : F64) : SolvePrec × Nat × Bool × Sv :=
  let at_ := fun (r c : Nat) => match (s.img.row r).find? fun k => s.img.colIdx.getD k 0 = c with
    | some k => f64 ((FVal.ofInt (s.run.a.getD k 0)).scale (s.run.ae - 31))
    | none => 0
  let (acc, ls) := (blockTable s.img.blocks 0 0).foldl (fun (p : DirectAcc × List FVal) b =>
    let n := b.2.1
    let m := (List.range n).flatMap fun i => (List.range n).map fun j =>
      f64div (f64add (at_ (b.1 + i) (b.1 + j)) (at_ (b.1 + j) (b.1 + i))) (f64pow2 1)
    let (acc, z) := cholinv tau (2 ^ 32) n p.1 m
    (acc, p.2 ++ z.map val64)) ({}, [])
  let (l, le, s) := s.toWords ls
  ({ l := l, le := le }, acc.pivots, acc.ok, s)

/-- Setup with new values (R279 to R281): the solve with its matrix and preconditioner, and outcome 5 where there is
none; `earlier` is the preconditioner the work area holds of the same registration. -/
def Sv.setup (s : Sv) (values : List Nat) (earlier : Option SolvePrec) : Sv :=
  let (a, ae, s) := s.toWords (values.map val32)
  let s := { s with run := { s.run with a := a, ae := ae } }
  let tau := f32to64 s.run.params.tau
  let (p, piv, ok, s) := if s.img.prec = 1 then s.blockJacobi tau else s.ic0 tau
  let bad := !ok || piv > s.run.params.pivLimit
  let r := { s.run with pivReg := piv + s.peer.pivots, setupDone := true, illcond := bad }
  let s := { s with out := { s.out with pivots := piv } }
  match bad, earlier with
  | false, _ => { s with run := { r with prec := p } }
  | true, some e => { s with run := { r with prec := e } }
  | true, none => { s with run := { r with outcome := 5, stage := .finished } }

/-! ### The methods (R285) -/

/-- Elementwise binary64 over a partition's rows. -/
def Sv.each (s : Sv) (f : Nat → F64) : Pass := Pass.plain ((List.range s.img.nrow).map fun i => val64 (f i))

/-- Change the vectors and scalars. -/
def Sv.setVals (s : Sv) (f : SolveVals → SolveVals) : Sv := { s with run := { s.run with vals := f s.run.vals } }
/-- The solve stands at the next residual test (R285): `res` is √(r·r)/bn. -/
def Sv.toBoundary (s : Sv) (rr : F64) : Sv :=
  let s := s.setVals fun v => { v with res := f64div (f64sqrt rr) v.bn }
  { s with run := { s.run with stage := .boundary } }
/-- The solve returns an outcome. -/
def Sv.return (s : Sv) (code : Nat) : Sv :=
  { s with out := { s.out with decision := code }
           run := { s.run with outcome := code, stage := if s.run.params.flags.testBit 2 then .trueRes else .finished } }

def isZero64 (x : F64) : Bool := match val64 x with | .fin _ 0 _ => true | _ => false

/-- From the start to boundary 0; dot products in the order r·r, r·z (PCG), b·b. -/
def Sv.first (s : Sv) : Sv :=
  let x := s.run.vals.x
  let (r, s) := s.writeTracked 1 {} (Pass.plain (s.residual x))
  let (rr, s) := s.dotVec r r
  if s.run.method = 0 then
    let (z, s) := s.writeTracked 3 {} (s.precond r)
    let (p, s) := s.writeTracked 2 {} (s.each z.at64)
    let (rho, s) := s.dotVec r z
    let (bb, s) := s.dotB
    (s.setVals fun v => { v with r := r, z := z, p := p, rho := rho, bn := f64sqrt bb }).toBoundary rr
  else
    let (rh, s) := s.writeTracked 5 {} (s.each r.at64)
    let zero : SolveVec := { w := List.replicate s.img.nrow 0 }
    let (bb, s) := s.dotB
    (s.setVals fun v => { v with r := r, rh := rh, rho := f64one, alpha := f64one, omega := f64one, v := zero, p := zero, bn := f64sqrt bb }).toBoundary rr

/-- After the tests of a boundary: to the first product of the iteration. -/
def Sv.begin (s : Sv) : Sv :=
  let v := s.run.vals
  if s.run.method = 0 then { s with run := { s.run with stage := .product1 } }
  else
    let (rho2, s) := s.dotVec v.rh v.r
    if isZero64 rho2 || isZero64 v.omega then s.return 4
    else
      let c := f64mul (f64div rho2 v.rho) (f64div v.alpha v.omega)
      let (p, s) := s.writeTracked 2 v.p (s.each fun i =>
        f64add (v.r.at64 i) (f64mul c (f64sub (v.p.at64 i) (f64mul v.omega (v.v.at64 i)))))
      let (ph, s) := s.writeTracked 9 v.ph (s.precond p)
      let s := s.setVals fun v => { v with p := p, ph := ph, rho := rho2 }
      { s with run := { s.run with stage := .product1 } }

/-- PCG from q := A·p to the next boundary. -/
def Sv.pcgBody (s : Sv) : Sv :=
  let v := s.run.vals
  let (q, s) := s.writeProduct 4 v.q v.p (Pass.plain (s.rowSums v.p))
  let (pq, s) := s.dotVec v.p q
  let s := s.setVals fun v => { v with q := q }
  if !(f64lt 0 pq) then s.return 4
  else
    let alpha := f64div v.rho pq
    let (x, s) := s.writeTracked 0 v.x (s.each fun i => f64add (v.x.at64 i) (f64mul alpha (v.p.at64 i)))
    let (r, s) := s.writeTracked 1 v.r (s.each fun i => f64sub (v.r.at64 i) (f64mul alpha (q.at64 i)))
    let (z, s) := s.writeTracked 3 v.z (s.precond r)
    let (rr, s) := s.dotVec r r
    let (rho2, s) := s.dotVec r z
    let c := f64div rho2 v.rho
    let (p, s) := s.writeTracked 2 v.p (s.each fun i => f64add (z.at64 i) (f64mul c (v.p.at64 i)))
    let s := s.setVals fun v => { v with x := x, r := r, z := z, p := p, rho := rho2, alpha := alpha }
    { s with run := { s.run with k := s.run.k + 1 } }.toBoundary rr

/-- BiCGStab from v := A·p̂ to the second product. -/
def Sv.bicgV (s : Sv) : Sv :=
  let v := s.run.vals
  let (av, s) := s.writeProduct 6 v.v v.ph (Pass.plain (s.rowSums v.ph))
  let (rv, s) := s.dotVec v.rh av
  let s := s.setVals fun v => { v with v := av }
  if isZero64 rv then s.return 4
  else
    let alpha := f64div v.rho rv
    let (sv, s) := s.writeTracked 7 v.s_ (s.each fun i => f64sub (v.r.at64 i) (f64mul alpha (av.at64 i)))
    let (sh, s) := s.writeTracked 10 v.sh (s.precond sv)
    let s := s.setVals fun v => { v with s_ := sv, sh := sh, alpha := alpha }
    { s with run := { s.run with stage := .product2 } }

/-- BiCGStab from t := A·ŝ to the next boundary. -/
def Sv.bicgT (s : Sv) : Sv :=
  let v := s.run.vals
  let (t, s) := s.writeProduct 8 v.t v.sh (Pass.plain (s.rowSums v.sh))
  let (tt, s) := s.dotVec t t
  let (ts, s) := s.dotVec t v.s_
  let omega := if isZero64 tt then 0 else f64div ts tt
  let (x, s) := s.writeTracked 0 v.x (s.each fun i =>
    f64add (f64add (v.x.at64 i) (f64mul v.alpha (v.ph.at64 i))) (f64mul omega (v.sh.at64 i)))
  let (r, s) := s.writeTracked 1 v.r (s.each fun i => f64sub (v.s_.at64 i) (f64mul omega (t.at64 i)))
  let (rr, s) := s.dotVec r r
  let s := s.setVals fun v => { v with t := t, x := x, r := r, omega := omega }
  { s with run := { s.run with k := s.run.k + 1 } }.toBoundary rr

/-- TRUE_RES: the relative norm of b − A·x (R288). -/
def Sv.trueNorm (s : Sv) : Sv :=
  let (r, s) := s.measured (s.img.entry 1).2 (Pass.plain (s.residual s.run.vals.x))
  let (rr, s) := s.dotVec r r
  let s := s.setVals fun v => { v with trueRes := f64div (f64sqrt rr) v.bn }
  { s with run := { s.run with trueDone := true, stage := .finished } }

/-- The tests of a boundary (R285 to R287); a partition other than 0 takes partition 0's decision (R291). -/
def Sv.test (s : Sv) (late : Bool) : Sv :=
  let s := { s with decided := s.img.pindex = 0 }
  let v := s.run.vals
  let p := s.run.params
  if isZero64 v.bn then
    (s.setVals fun v => { v with x := { w := List.replicate s.img.nrow 0 } }).return 1
  else if s.img.pindex ≠ 0 then (if s.peer.decision = 0 then s.begin else s.return s.peer.decision)
  else if !(f64isNan v.res) && !(f64lt (f32to64 p.tol) v.res) then s.return 1
  else if s.run.k = p.itmax then s.return 2
  else if late then s.return 3
  else s.begin

/-- Whether a stage gathers halo values before it goes on (R290). -/
def SolveStage.gathers : SolveStage → Bool
  | .first | .product1 | .product2 | .trueRes => true
  | .setup | .boundary | .finished => false

/-- Partitions this one gathers from. -/
def SolveImage.sources (i : SolveImage) : List Nat := (i.gather.map (·.src)).eraseDups

/-- Run the stage whose halo values are in. -/
def Sv.stage (s : Sv) : Sv :=
  match s.run.stage with
  | .first => s.first
  | .product1 => if s.run.method = 0 then s.pcgBody else s.bicgV
  | .product2 => s.bicgT
  | .trueRes => s.trueNorm
  | .setup => s
  | .boundary => s
  | .finished => s

/-- Run on until a boundary, the end, or a product whose halo values have not come. -/
def Sv.go : Nat → Sv → Sv
  | 0, s => s
  | n + 1, s =>
    if s.run.stage.gathers && s.img.sources.all s.run.ready.contains then
      let s := s.stage
      Sv.go n { s with run := { s.run with ready := [], halo := [] } }
    else s

end Sys2Proof.Machine
end

