-- ==== Sys2Proof/Machine/Solve.lean ====
section
/-! DEFINITION. Schedule images (R270 to R272, R296) and solve tasks (R282 to R293). -/

namespace Sys2Proof.Machine

def State.setSolver (s : State) (v : Solver) : State := { s with solver := v }
/-- The solve whose lead hall this is. -/
def State.solveRun (s : State) (h : Nat) : Option SolveRun := s.solver.runs.get none h
/-- A registered image by id. -/
def State.image (s : State) (id : Nat) : Option SolveImage := s.solver.images.find? fun i => i.id = id

/-- The stalls that a solve borrows in every hall it engages: in FP64 mode for its setup, in Q mode for the iteration (R280, R284,
DESIGN CHOICE, log entry 134). -/
def State.lendSolve (s : State) (r : SolveRun) : State :=
  [0, 1, 2, 3].foldl (fun (s : State) (h : Nat) =>
    if (s.image r.image).any fun i => i.hallMask.getLsbD h then
      match r.stage with
      | .finished => s.unlend h r.graph r.task
      | .setup => s.lendTo h r.graph r.task 1 (16 * r.params.lend)
      | _ => s.lendTo h r.graph r.task 2 (16 * r.params.lend)
    else s) s

/-- A solve changes, and what it borrows with it. -/
def State.setSolveRun (s : State) (h : Nat) (r : Option SolveRun) : State :=
  let s' := s.setSolver { s.solver with runs := s.solver.runs.set none h r }
  match r, s.solveRun h with
  | some r, _ => s'.lendSolve r
  | none, some o => s'.lendSolve { o with stage := .finished }
  | none, none => s'

/-- Lent tasks of a fenced stall are placed again, on others of the hall (R16, R250, R284, R293). -/
def State.relend (s : State) : State :=
  [0, 1, 2, 3].foldl (fun (s : State) (h : Nat) =>
    let s := s.lendRoot h
    match s.solveRun h with
    | some r => s.lendSolve r
    | none => s) s

/-! ### Registering an image (R270, R271) -/

/-- `n` little-endian entries of `w` bytes from an offset. -/
def entriesAt (b : List Byte) (off w n : Nat) : List Nat := (List.range n).map fun i => leAt b (off + w * i) w

/-- ⌈log2 n⌉. -/
def ceilLog (n : Nat) : Nat := if n ≤ 1 then 0 else bitLen (n - 1)

/-- Whether a range entry breaks Table 9.3. -/
def rangeBad (maxRnz id w : Nat) : Bool :=
  let g := w / 256 % 256
  if id > 10 then w ≠ 0
  else w = 0 || w / 65536 ≠ 0 || w % 256 > 1
    || (if w % 2 = 1 then !([4, 6, 8].contains id) || g < ceilLog maxRnz || g > 16 else g = 0 || g > 16)

/-- First rows of the halls, and the halls of the mask. -/
def imageHalls (b : List Byte) : List (Nat × Nat) := [0, 1, 2, 3].map fun h => (h, leAt b (0x28 + 4 * h) 4)

/-- Whether HFIRST breaks Table 9.1: rising over the mask from 0, zero outside it. -/
def hfirstBad (b : List Byte) : Bool :=
  let m := leAt b 7 1
  let inside := ((imageHalls b).filter fun p => m.testBit p.1).map (·.2)
  (imageHalls b).any (fun p => !(m.testBit p.1) && p.2 ≠ 0) || inside.headD 1 ≠ 0
    || (inside.zip (inside.drop 1)).any (fun p => p.1 ≥ p.2) || inside.any (· ≥ leAt b 8 4)

/-- Whether a section lies outside the image, or its offset is no multiple of 128. -/
def sectionBad (b : List Byte) (field len : Nat) : Bool := leAt b field 8 % 128 ≠ 0 || leAt b field 8 + len > leAt b 0xA0 8

/-- The offset of the first header field that breaks Table 9.1 (R271). -/
def imageHeaderBad (b : List Byte) : Option Nat :=
  let prec := leAt b 6 1
  let nrow := leAt b 8 4
  let nhalo := leAt b 0xC 4
  let nnz := leAt b 0x10 8
  let npart := leAt b 0x18 2
  let nblk := leAt b 0x20 4
  let nlev := leAt b 0x24 4
  let fields : List (Nat × Bool) :=
    [(0x00, leAt b 0 4 ≠ 0x4A35534C), (0x04, leAt b 4 2 ≠ 1), (0x06, prec > 1), (0x07, leAt b 7 1 = 0 || leAt b 7 1 > 15),
     (0x08, nrow = 0 || nrow > 2 ^ 28), (0x0C, nhalo > 2 ^ 24 || (npart = 1 && nhalo ≠ 0)), (0x10, nnz < nrow || nnz > 2 ^ 31),
     (0x18, npart = 0 || npart > 8192), (0x1A, leAt b 0x1A 2 ≥ npart), (0x1C, leAt b 0x1C 2 = 0 || leAt b 0x1C 2 > 4096),
     (0x1E, leAt b 0x1E 2 ≠ 0), (0x20, if prec = 0 then nblk ≠ 0 else nblk = 0),
     (0x24, if prec = 0 then nlev = 0 || nlev > 2 ^ 20 else nlev ≠ 0), (0x28, hfirstBad b),
     (0x38, sectionBad b 0x38 (8 * (nrow + 1))), (0x40, sectionBad b 0x40 (4 * nnz)),
     (0x48, sectionBad b 0x48 (if prec = 0 then 4 * (nlev + nrow) else 0)), (0x50, sectionBad b 0x50 (8 * nhalo)),
     (0x58, sectionBad b 0x58 (2 * npart + nblk))]
  let checks := fields ++ ((List.range 16).map fun i => (0x60 + 4 * i, rangeBad (leAt b 0x1C 2) i (leAt b (0x60 + 4 * i) 4)))
    ++ [(0xB0, ((b.drop 0xB0).take 16).any (· ≠ 0))]
  (checks.find? (·.2)).map (·.1)

/-- The image as registered. -/
def SolveImage.parse (id reg : Nat) (job : Byte) (va : Nat) (b : List Byte) : SolveImage :=
  let nrow := leAt b 8 4
  let nlev := leAt b 0x24 4
  let ic := leAt b 6 1 = 0
  { id := id, registration := reg, job := job, va := va, prec := leAt b 6 1, hallMask := BitVec.ofNat 4 (leAt b 7 1), nrow := nrow,
    nhalo := leAt b 0xC 4, nnz := leAt b 0x10 8, npart := leAt b 0x18 2, pindex := leAt b 0x1A 2, maxRnz := leAt b 0x1C 2,
    rowPtr := entriesAt b (leAt b 0x38 8) 8 (nrow + 1), colIdx := (entriesAt b (leAt b 0x40 8) 4 (leAt b 0x10 8)).map (· % 2 ^ 29),
    levels := entriesAt b (leAt b 0x48 8) 4 nlev, order := if ic then entriesAt b (leAt b 0x48 8 + 4 * nlev) 4 nrow else [],
    gather := (entriesAt b (leAt b 0x50 8) 8 (leAt b 0xC 4)).map fun w => { row := w % 2 ^ 28, src := w / 2 ^ 28 % 2 ^ 13 },
    parts := entriesAt b (leAt b 0x58 8) 2 (leAt b 0x18 2),
    blocks := entriesAt b (leAt b 0x58 8 + 2 * leAt b 0x18 2) 1 (leAt b 0x20 4),
    range := (entriesAt b 0x60 4 11).map fun w => (w % 2 = 1, w / 256 % 256) }

/-- The level of each row in the level list. -/
def levelOf (levels order : List Nat) : SMap Nat :=
  (levels.foldl (fun (p : SMap Nat × Nat × List Nat) n =>
    ((p.2.2.take n).foldl (fun m r => m.set 0 r p.2.1) p.1, p.2.1 + 1, p.2.2.drop n)) (([] : SMap Nat), 0, order)).1

/-- The offset of the first entry of a section that breaks R271, in the order of its list. -/
def imageBodyBad (b : List Byte) (i : SolveImage) : Option Nat :=
  let rp := leAt b 0x38 8
  let ci := leAt b 0x40 8
  let lv := leAt b 0x48 8
  let aux := leAt b 0x58 8 + 2 * i.npart
  let rows := List.range i.nrow
  let level := levelOf i.levels i.order
  let firsts := (imageHalls b).map (·.2)
  let gather := entriesAt b (leAt b 0x50 8) 8 i.nhalo
  let checks : List (Option Nat) :=
    [((List.range i.nhalo).find? fun k => let w := gather.getD k 0
        w / 2 ^ 41 ≠ 0 || w / 2 ^ 28 % 2 ^ 13 ≥ i.npart || w / 2 ^ 28 % 2 ^ 13 = i.pindex).map fun k => leAt b 0x50 8 + 8 * k,
     ((entriesAt b ci 4 i.nnz).findIdx? fun w => w / 2 ^ 29 ≠ 0).map fun k => ci + 4 * k,
     if (b.take 0xA8 ++ List.replicate 8 0 ++ b.drop 0xB0 |> sha384).take 8 = (b.drop 0xA8).take 8 then none else some 0xA8,
     if i.rowPtr.headD 1 ≠ 0 then some rp else (rows.find? fun r => i.rowPtr.getD r 0 > i.rowPtr.getD (r + 1) 0).map fun r => rp + 8 * (r + 1),
     if i.rowPtr.getD i.nrow 0 ≠ i.nnz then some (rp + 8 * i.nrow) else none,
     (i.colIdx.findIdx? fun c => c ≥ i.nrow + i.nhalo).map fun k => ci + 4 * k,
     (rows.find? fun r => (i.row r).isEmpty || i.colIdx.getD (i.rowPtr.getD r 0) 0 ≠ r).map fun r => ci + 4 * i.rowPtr.getD r 0,
     (rows.find? fun r => (i.row r).length > i.maxRnz).map fun r => rp + 8 * (r + 1),
     if i.prec = 0 && (i.levels.foldl (· + ·) 0 ≠ i.nrow || !(rows.all fun r => (i.order.filter (· = r)).length = 1)) then some lv else none,
     if i.prec = 0 then (rows.find? fun r => (i.lower r).any fun p => level.get 0 p.2 ≥ level.get 0 r).map fun r =>
       lv + 4 * i.levels.length + 4 * ((i.order.findIdx? (· = r)).getD 0) else none,
     (i.blocks.findIdx? fun n => n = 0 || n > 128).map fun k => aux + k,
     if i.prec = 1 && i.blocks.foldl (· + ·) 0 ≠ i.nrow then some aux else none,
     ((blockTable i.blocks 0 0).findIdx? fun t => firsts.any fun f => t.1 < f && f < t.1 + t.2.1).map fun k => aux + k]
  checks.findSome? id

/-- SOLVE_IMAGE_SET (R271, R272, R296). -/
def execSolveImageSet (h : CmdHdr) (va : W64) (s : State) : Host.Outcome State Fault Refusal :=
  command 0x0B10 1 true h s fun c s =>
    if va.toNat % 128 ≠ 0 then s.reply c stInvalid [0]
    else s.cmdPeek c h.job va.toNat 192 fun hd s =>
      match imageHeaderBad hd with
      | some o => (s.dropHub h.job).reply c stInvalid [BitVec.ofNat 64 o]
      | none => s.cmdRead c h.job va.toNat (leAt hd 0xA0 8) fun b s =>
        match (List.range 256).find? fun i => (s.image i).isNone with
        | none => s.reply c stBusy []
        | some id =>
          let img := SolveImage.parse id s.solver.nextReg h.job va.toNat b
          match imageBodyBad b img with
          | some o => s.reply c stInvalid [BitVec.ofNat 64 o]
          | none => (s.setSolver { s.solver with images := s.solver.images ++ [img], nextReg := s.solver.nextReg + 1 }).reply c stOk
              [BitVec.ofNat 64 id]

/-- A job's registered image. -/
def State.imageOf (s : State) (job : Byte) (id : W64) : Option SolveImage := (s.image id.toNat).filter fun i => i.job = job

/-- SOLVE_IMAGE_CLEAR (R296). -/
def execSolveImageClear (h : CmdHdr) (image : W64) (s : State) : Host.Outcome State Fault Refusal :=
  command 0x0B11 1 true h s fun c s =>
    match s.imageOf h.job image with
    | none => s.reply c stInvalid []
    | some i =>
      if (s.tasksOfKind 5).any fun q => q.2.2.1.hdr.job = h.job && q.2.2.2.body.toNat = i.va then s.reply c stBusy []
      else (s.setSolver { s.solver with images := s.solver.images.filter fun x => x.id ≠ i.id }).reply c stOk []

/-- SOLVE_STATUS (R296). -/
def execSolveStatus (h : CmdHdr) (image va : W64) (s : State) : Host.Outcome State Fault Refusal :=
  command 0x0B12 2 true h s fun c s =>
    match s.imageOf h.job image with
    | none => s.reply c stInvalid []
    | some i => s.cmdWrite c h.job va.toNat (padTo 64 i.status) []

/-! ### Taking a solve task (R282, R283, R413) -/

/-- The fields of a parameter block (Table 9.4). -/
def SolveParams.parse (b : List Byte) : SolveParams where
  method := leAt b 0 1
  flags := leAt b 1 1
  lend := leAt b 2 1
  itmax := leAt b 4 4
  tol := leAt b 8 4
  tau := leAt b 0xC 4
  deadline := leAt b 0x10 4
  peerTimeout := leAt b 0x14 4
  pivLimit := leAt b 0x18 2
  valPtr := leAt b 0x20 8
  bPtr := leAt b 0x28 8
  xPtr := leAt b 0x30 8
  workPtr := leAt b 0x38 8
  statusPtr := leAt b 0x40 8

/-- Whether a parameter block breaks Table 9.4 or R282 for an image. -/
def solveParamsBad (b : List Byte) (i : SolveImage) : Bool :=
  let p := SolveParams.parse b
  p.method > 1 || p.flags > 7 || p.lend = 0 || p.lend > 36 || leAt b 3 1 ≠ 0 || p.itmax = 0 || p.itmax > 2 ^ 24
    || !(f32between p.tol (pow2 (-24)) (pow2 (-1))) || !(f32between p.tau (pow2 (-52)) (pow2 (-8)))
    || (if i.npart = 1 then p.peerTimeout ≠ 0 else p.peerTimeout < 100 || p.peerTimeout > 1000000)
    || leAt b 0x1A 6 ≠ 0 || p.valPtr % 128 ≠ 0 || p.bPtr % 128 ≠ 0 || p.xPtr % 128 ≠ 0 || p.workPtr % 128 ≠ 0
    || p.statusPtr % 64 ≠ 0 || (b.drop 0x48).any (· ≠ 0)

/-- Bytes of the work area (R283). -/
def SolveImage.workSize (i : SolveImage) : Nat :=
  let pw := if i.prec = 0 then i.nnz + i.nrow else i.blocks.foldl (fun n k => n + k * k) 0
  4 * (i.nnz + pw + 11 * (i.nrow + i.nhalo)) + 65536

/-- The ranges a solve task names (R413). -/
def solveRanges (i : SolveImage) (p : SolveParams) : List PinRange :=
  (if p.flags.testBit 0 then [{ va := p.valPtr, len := 4 * i.nnz, write := false }] else [])
    ++ [{ va := p.bPtr, len := 4 * i.nrow, write := false }, { va := p.xPtr, len := 4 * i.nrow, write := true },
        { va := p.workPtr, len := i.workSize, write := true }, { va := p.statusPtr, len := 64, write := true }]

/-- A solve task's image and parameters, once read: neither where they break R282. -/
def State.solveRead (s : State) (h : Nat) (gr : Graph) (r : TaskRec) : Acc (Option (SolveImage × SolveParams)) :=
  match s.imageAt gr.hdr.job r.body.toNat with
  | none => .ok none
  | some i =>
    if r.arg.toNat % 64 ≠ 0 || !(i.hallMask.getLsbD h) then .ok none
    else accMap (fun b => if solveParamsBad b i then none else some (i, SolveParams.parse b)) (s.hubRead gr.hdr.job r.arg.toNat 128)

/-- SLV takes a placed task and probes its ranges (R282, R413). -/
def State.solveProbe (s : State) (h g t : Nat) : State :=
  match s.unitTask g t 5 with
  | some (gr, ts, r) =>
    if r.placeHall ≠ h || ts.probed then s
    else match s.solveRead h gr r with
      | .ok none => (s.dropHub gr.hdr.job).failTask g t 0x22
      | .ok (some (i, p)) => (s.dropHub gr.hdr.job).pinTask h 5 g t ts.tags (solveRanges i p)
      | e => s.unitStop h g t gr.hdr.job ts.tags e
  | none => s

/-! ### Running (R284 to R293) -/

/-- The 64 bytes of a status record (Table 9.5). -/
def SolveRun.record (r : SolveRun) (elapsed : Nat) : List Byte :=
  let v := r.vals
  let flags := (if r.illcond then 1 else 0) + (if v.satCount > 0 then 2 else 0) + (if r.outcome = 3 then 4 else 0)
    + (if r.trueDone then 8 else 0) + (if r.setupDone then 16 else 0)
  leBytes 1 r.outcome ++ leBytes 1 r.method ++ leBytes 2 flags ++ leBytes 4 r.k ++ leBytes 8 v.res ++ leBytes 8 v.trueRes
    ++ leBytes 4 r.pivReg ++ leBytes 4 v.satCount ++ leBytes 2 v.satVec.toNat ++ leBytes 2 0 ++ leBytes 4 r.setupLc
    ++ leBytes 4 elapsed ++ leBytes 4 r.step.toNat ++ List.replicate 16 0

/-- The partitions other than this one. -/
def SolveImage.others (i : SolveImage) : List Nat := (List.range i.npart).filter (· ≠ i.pindex)

/-- Before a product, readiness messages go to every partition that gathers from this one; which those are, only their images
say (R290, log entry 136). -/
def State.sendReady (s : State) (i : SolveImage) (r : SolveRun) : State :=
  if r.stage.gathers && r.ready.isEmpty then
    (i.others.filter (Config.gathersFrom i.registration)).foldl (fun (s : State) p => s.send (.solveReady (i.parts.getD p 0) r.job)) s
  else s

/-- What a run of a solve tells the other partitions: contributions go to partition 0, its totals and decisions to all (R275,
R291; the route is DESIGN CHOICE, log entry 136). -/
def State.sendSolve (s : State) (v : Sv) : State :=
  if v.out = {} && !v.decided then s
  else
    let m := { v.out with method := v.run.method }
    ((if v.img.pindex = 0 then v.img.others else [0]).foldl (fun (s : State) p => s.send (.solveMsg (v.img.parts.getD p 0) v.run.job m)) s)

/-- Run a solve on, and tell the peers where it stops before a product. -/
def State.solveGo (s : State) (h : Nat) (v : Sv) : State :=
  let v := v.go 6
  let s := s.count .solveSaturated 0 (v.run.vals.satCount - ((s.solveRun h).elim 0 fun r => r.vals.satCount))
  let s := s.count .solveIterations 0 (v.run.k - ((s.solveRun h).elim 0 fun r => r.k))
  ((s.setSolveRun h (some v.run)).sendSolve v).sendReady v.img v.run

/-- A step of a solve that reads or writes: its result, or what stopped it. -/
def State.solveDo (s : State) (h g t : Nat) (job : Byte) (tags : W64) (a : Acc State) : State :=
  match a with
  | .ok s => s.dropHub job
  | .err x p => (s.setSolveRun h none).unitAddress h g t tags x p
  | .fault _ va _ _ => (s.setSolveRun h none).unitAddress h g t tags va false
  | .remote va pa len => s.hubFetch job va pa len

/-- The solve's start: b, x_0 and, with SETUP, the values; outcomes 5, 6 and 7 (R279, R281, R289). -/
def Sv.start (s : Sv) (b : List Nat) (x0 : Option (List Nat)) (vals : Option (List Nat)) (old : Option SolveSetup) : Sv :=
  let stop := fun (s : Sv) (code : Nat) => ({ s with run := { s.run with outcome := code, stage := .finished } } : Sv)
  if b.any (fun w => !(f32finite w)) || (x0.getD []).any fun w => !(f32finite w) then stop s 6
  else
    let s := s.setVals fun v => { v with b := b }
    let s := match vals, old with
      | some l, old => if l.any fun w => !(f32finite w) then stop s 6 else s.setup l (old.map (·.prec))
      | none, some o => { s with run := { s.run with a := o.a, ae := o.ae, prec := o.prec } }
      | none, none => stop s 7
    if s.run.stage = .finished then s
    else match x0 with
      | some l =>
        let (x, s) := s.measured (s.img.entry 0).2 (Pass.plain (l.map val32))
        s.setVals fun v => { v with x := x }
      | none => s.setVals fun v => { v with x := { w := List.replicate s.img.nrow 0 } }

/-- Halls that an image engages. -/
def SolveImage.halls (i : SolveImage) : List Nat := [0, 1, 2, 3].filter i.hallMask.getLsbD

/-- The setup a work area holds for an image's registration. -/
def State.setupFor (s : State) (i : SolveImage) (p : SolveParams) : Option SolveSetup :=
  s.solver.setups.find? fun x => x.job = i.job && x.work = p.workPtr && x.registration = i.registration

/-- Keep what setup built under the work area's address, with its tag (R279). -/
def State.keepSetup (s : State) (i : SolveImage) (r : SolveRun) : State :=
  if r.setupDone then
    let x : SolveSetup := { job := i.job, work := r.params.workPtr, registration := i.registration, a := r.a, ae := r.ae, prec := r.prec }
    s.setSolver { s.solver with setups := s.solver.setups.filter (fun y => !(y.job = x.job && y.work = x.work))
                                            ++ if r.outcome = 5 then [] else [x] }
  else s

/-- A taken solve starts: its SLVs are engaged and its setup runs (R284). -/
def State.solveEngage (s : State) (h g task : Nat) (gr : Graph) (ts : TaskSt) (i : SolveImage) (p : SolveParams) : State :=
  s.setSolveRun h (some { graph := g, task := task, job := gr.hdr.job, tags := ts.tags, step := gr.step, image := i.id, params := p,
                          method := p.method, start := s.hallLc h })

/-- The setup of a started solve has ended, with the other partitions' contributions: b, x_0 and, with SETUP, the values, then the
first residual (R279, R285, R289); SETUP_LC is the lc since its start (Table 9.5). -/
def State.solveBegin (s : State) (h : Nat) (i : SolveImage) (q : SolveRun) (peer : SolvePeer) : Acc State :=
  let job := q.job
  let g := q.graph
  let task := q.task
  let p := q.params
  let lc := s.hallLc h
  let r : SolveRun := { q with stage := .first, method := if i.pindex = 0 then p.method else peer.method }
  let floats := fun (va n : Nat) => accMap (wordsOf n) (s.taskRead g task job va (4 * n))
  accBind (floats p.bPtr i.nrow) fun b =>
  accBind (if p.flags.testBit 1 then .ok none else accMap some (floats p.xPtr i.nrow)) fun x0 =>
  accBind (if p.flags.testBit 0 then accMap some (floats p.valPtr i.nnz) else .ok none) fun vals =>
  accMap (fun (s : State) =>
    let v := Sv.start { img := i, run := r, peer := peer } b x0 vals (s.setupFor i p)
    let v := { v with run := { v.run with setupLc := if v.run.setupDone then (lc - q.start).toNat else 0 } }
    ((s.keepSetup i v.run).setSolveRun h (some r)).solveGo h v)
    (s.taskWrite g task job q.tags p.workPtr (workBytes p.workPtr i.workSize lc))

/-- SOLVE_TASK_RUN: the lead SLV starts the placed task, unless a hall of the image is fenced or failed; again for the same task, its
setup ends and the method runs (R284, R293; DESIGN CHOICE, log entry 135). -/
def execSolveTaskRun (hall : Fin 4) (graph : Fin 8) (task : Nat) (peer : SolvePeer) (s : State) : Host.Outcome State Fault Refusal :=
  let h := hall.val
  let g := graph.val
  if s.power.supply ≠ .on || !(s.hallRuns h) then .next s
  else if (s.solveRun h).isSome then
    match s.solveRun h with
    | some r => (match s.image r.image with
      | some i => if r.stage = .setup && r.graph = g && r.task = task then .next (s.solveDo h g task r.job r.tags (s.solveBegin h i r peer)) else .next s
      | none => .next s)
    | none => .next s
  else
    let s := s.solveProbe h g task
    match s.unitTask g task 5 with
    | some (gr, ts, rec) =>
      if !ts.probed || rec.placeHall ≠ h then .next s
      else match s.solveRead h gr rec with
        | .ok (some (i, p)) =>
          if i.halls.any fun k => !(s.hallRuns k) || s.roots.failed.getLsbD k then .next ((s.dropHub gr.hdr.job).failTask g task 0x2A)
          else .next ((s.solveEngage h g task gr ts i p).dropHub gr.hdr.job)
        | .ok none => .next ((s.dropHub gr.hdr.job).failTask g task 0x22)
        | e => .next (s.unitStop h g task gr.hdr.job ts.tags e)
    | none => .next s

/-- Whether a solve's deadline has passed: DEADLINE lc of its lead hall since its start (R287). In the lc in which the count reaches
DEADLINE only the event can say (log entry 135). -/
def State.solveIsLate (s : State) (h : Nat) (r : SolveRun) (deadlinePassed : Bool) : Bool :=
  reached r.params.deadline (s.hallLc h - r.start).toNat deadlinePassed

/-- SOLVE_ITERATION_BOUNDARY: the residual test, and the iteration as far as its next product or boundary (R285 to
R287, R291). -/
def execSolveIterationBoundary (hall : Fin 4) (deadlinePassed : Bool) (peer : SolvePeer) (s : State) :
    Host.Outcome State Fault Refusal :=
  match s.solveRun hall.val with
  | none => .next s
  | some r => match s.image r.image with
    | none => .next s
    | some i =>
      if r.stage ≠ .boundary then .next s
      else
        let v := (({ img := i, run := r, peer := peer } : Sv).test (s.solveIsLate hall.val r deadlinePassed))
        .next (s.solveGo hall.val v)

/-- SOLVE_READINESS: a peer's message arrives and its halo words are gathered, in gather-entry order; the product runs
once every peer has answered (R290). -/
def execSolveReadiness (hall : Fin 4) (partition : Nat) (words : List W32) (peer : SolvePeer) (s : State) :
    Host.Outcome State Fault Refusal :=
  match s.solveRun hall.val with
  | none => .next s
  | some r => match s.image r.image with
    | none => .next s
    | some i =>
      if !r.stage.gathers || !(i.sources.contains partition) || r.ready.contains partition then .next s
      else
        let slots := ((List.range i.nhalo).zip i.gather).filterMap fun p => if p.2.src = partition then some p.1 else none
        let halo := ((slots.zip words).map fun p => (p.1, p.2.toInt)).foldl (fun (m : SMap Int) p => m.set 0 p.1 p.2) r.halo
        .next (s.solveGo hall.val { img := i, run := { r with halo := halo, ready := r.ready ++ [partition] }, peer := peer })

/-- Write a solve's status record, and keep it with its image (R288, R296). -/
def State.solveRecord (s : State) (h : Nat) (r : SolveRun) : Acc State :=
  let b := r.record (s.hallLc h - r.start).toNat
  accMap (fun (s : State) => s.setSolver { s.solver with images := s.solver.images.map fun i => if i.id = r.image then { i with status := b } else i })
    (s.taskWrite r.graph r.task r.job r.tags r.params.statusPtr b)

/-- SOLVE_PEER_TIMEOUT: outcome 8, and the graph ends (R292). -/
def execSolvePeerTimeout (hall : Fin 4) (s : State) : Host.Outcome State Fault Refusal :=
  let h := hall.val
  match s.solveRun h with
  | none => .next s
  | some r =>
    if r.stage = .finished || (s.image r.image).all fun i => i.npart = 1 then .next s
    else
      .next (s.solveDo h r.graph r.task r.job r.tags (accMap (fun (s : State) => (s.setSolveRun h none).failTask r.graph r.task 0x29)
        (s.solveRecord h { r with outcome := 8 })))

/-- SOLVE_DONE: x for outcomes 1 to 4, then the status record, and the task is complete (R288). -/
def execSolveDone (hall : Fin 4) (s : State) : Host.Outcome State Fault Refusal :=
  let h := hall.val
  match s.solveRun h with
  | none => .next s
  | some r =>
    if r.stage ≠ .finished then .next s
    else
      let x := (List.range r.vals.x.w.length).map fun i => f32 (r.vals.x.val i)
      let w := if r.outcome ≤ 4 then s.taskWrite r.graph r.task r.job r.tags r.params.xPtr (wordBytes x) else .ok s
      .next (s.solveDo h r.graph r.task r.job r.tags (accBind w fun s =>
        accMap (fun (s : State) => (s.setSolveRun h none).modTask r.graph r.task fun ts => { ts with unitDone := true }) (s.solveRecord h r)))

/-- A hall of a running solve is fenced, or its ROOT marked failed: the solve stops without writing x (R293). -/
def State.stopSolves (s : State) (k : Nat) : State :=
  [0, 1, 2, 3].foldl (fun (s : State) (h : Nat) => match s.solveRun h with
    | some r => if (s.image r.image).any fun i => i.hallMask.getLsbD k then (s.setSolveRun h none).failTask r.graph r.task 0x2A else s
    | none => s) s

/-- ROOT_SELFTEST: the two tests of a hall's ROOT (R262). -/
def execRootSelftest (h : CmdHdr) (hall : W64) (pass : Bool) (s : State) : Host.Outcome State Fault Refusal :=
  command 0x0B05 1 false h s fun c s =>
    if hall.toNat > 3 then s.reply c stInvalid []
    else if s.rootBusy hall.toNat then s.reply c stBusy []
    else if pass then s.reply c 0x10 []
    else ((s.failRoot hall.toNat).stopSolves hall.toNat).reply c 0x11 []

/-- PIN_PROBE: a collective, root or solve task's unit probes and pins its ranges (R413). -/
def execPinProbe (graph : Fin 8) (task : Nat) (s : State) : Host.Outcome State Fault Refusal :=
  let g := graph.val
  match s.rec_ g task with
  | some r =>
    if r.kind = 3 then .next ((s.collTake g task).collProbe g task)
    else if r.kind = 4 then .next (s.rootProbe r.placeHall g task)
    else if r.kind = 5 then .next (s.solveProbe r.placeHall g task)
    else .next s
  | none => .next s

end Sys2Proof.Machine
end

