-- ==== Sys2Proof/Machine/Faults.lean ====
section
/-! DEFINITION. Fencing, re-dispatch and spares (R16 to R22, R266, R293, R343, R350, R427, R610, Table 22.3). -/

namespace Sys2Proof.Machine

/-! ### Tasks of a fenced unit (R16, R17) -/

/-- The tasks that run on a stall. -/
def State.tasksOn (s : State) (k : Nat) : List (Nat × Nat) :=
  s.residents.flatMap fun p => ((List.range p.2.tasks.length).zip p.2.tasks).filterMap fun e =>
    if e.2.place = some k && e.2.st = .running then some (p.1, e.1) else none

/-- Every task of the resident graphs with its record. -/
def State.allTasks (s : State) : List (Nat × Nat × TaskSt × TaskRec) :=
  s.residents.flatMap fun p => ((List.range p.2.tasks.length).zip (p.2.tasks.zip p.2.recs)).map fun e => (p.1, e.1, e.2.1, e.2.2)

/-- Threads that wait in SPLITK for a group with a fenced stall go on with XD := 1 (R176). -/
def State.failSplitk (s : State) (k : Nat) : State :=
  s.threads.foldl (fun (s : State) (p : Nat × Option Thread) => match p.2 with
    | some th => (match th.status with
      | .splitk _ _ n => if aisleOf (stallOf p.1) = aisleOf k && k % 16 ≤ n.toNat then s.splitkResult p.1 1 else s
      | _ => s)
    | none => s) s

/-- The contexts that trapped tasks still hold on a stall, and those of lent tasks, are lost with it (R123, R250). -/
def State.dropStopped (s : State) (k : Nat) : State :=
  let l := s.threads.filterMap fun p => match p.2 with
    | some th => if stallOf p.1 = k && (th.status = .stopped || th.status = .lent) then some (p.1, th) else none
    | none => none
  (l.map fun p => p.2.graph).eraseDups.foldl State.settle ((s.freeContextsOf l).finishAllocFrees)

/-- A stall loses what it held, and every task that ran on it starts again (R16, Table 22.3 steps 1 to 3). -/
def State.emptyStall (s : State) (k : Nat) : State :=
  let ts := s.tasksOn k
  let s := s.modStall k fun i => { i with fenced := true, onSpare := false, slots := [], drains := [], exact := none, exactNext := none }
  ((ts.foldl (fun (s : State) (t : Nat × Nat) => s.redispatch t.1 t.2) s).dropStopped k).failSplitk k

/-- Whether a task that is not placed waits in a queue: ready, for its layout epoch, or for a translation of its dispatcher's read. -/
def queuedTask (r : TaskRec) (t : TaskSt) : Bool :=
  match t.st with
  | .ready => true
  | .waitLayout => true
  | .faultHeld _ => !r.probes
  | _ => false

/-- Tasks in the queues of fenced units go to the remaining ones, or end their graph where PLACE leaves none (R16,
R17). -/
def State.requeue (s : State) (lost : Nat × Nat → Bool) : State :=
  s.allTasks.foldl (fun (s : State) e =>
    if queuedTask e.2.2.2 e.2.2.1 && e.2.2.1.queue.any lost then
      if s.placeLost e.2.2.2 then (s.modTask e.1 e.2.1 fun ts => { ts with st := .aborted, queue := none }).failGraph e.1 0x2F (BitVec.ofNat 64 e.2.1)
      else
        let q := s.chooseQueue e.2.2.2
        s.modTask e.1 e.2.1 fun ts => { ts with queue := q }
    else s) s

/-! ### Aisles (R20) -/

/-- The stalls of a hall that execute (R20). -/
def State.enabledStalls (s : State) (h : Nat) : Nat :=
  ((List.range 576).filter fun i =>
    let k := h * 576 + i
    !(s.hall h).fenced && s.aisleUp (aisleOf k) && !(s.stall k).fenced).length

/-- The degraded rate of a hall that runs without an aisle is reported: the enabled stalls, of 576 (R20, log entry 132). -/
def State.degradedFault (s : State) (a : Nat) (cls : FaultClass) : State :=
  s.aisleFault a cls 5 0 (BitVec.ofNat 64 (s.enabledStalls (a / 36)))

/-- The hall retires an aisle: its tasks go elsewhere, and it is gone for good where AX serves already (R16, R20). -/
def State.fenceAisle (s : State) (a : Nat) (cls : FaultClass) : State :=
  if (s.aisle a).fenced || (s.aisle a).gone then s
  else
    let last := (s.hall (a / 36)).axFor.isSome
    let s := s.setAisle a { s.aisle a with fenced := true, gone := last }
    let s := (List.range 16).foldl (fun (s : State) i => s.emptyStall (a * 16 + i)) s
    let s := (s.requeue fun q => q = (a / 36, a % 36)).relend
    (((if last then s.degradedFault a cls else s.aisleFault a cls 3 0 0).raiseAlert 7).count .fences (a / 36) 1).updateLend (a / 36)

/-- A stall is fenced; where SX serves already, the hall retires its aisle (R16, R20, Table 22.3). -/
def State.fenceStall (s : State) (k : Nat) (cls : FaultClass) : State :=
  if (s.stall k).fenced || !(s.hallRuns (hallOf k)) then s
  else
    let s := (((s.emptyStall k).stallFault k cls 3 0 0).raiseAlert 7).count .fences (hallOf k) 1
    if (s.aisle (aisleOf k)).sxFor.isSome then s.fenceAisle (aisleOf k) cls else s.relend.updateLend (hallOf k)

/-- STALL_UE: an uncorrectable error of a stall (Table 22.2). -/
def execStallUe (st : StallId) (s : State) : Host.Outcome State Fault Refusal := .next (s.fenceStall (skey st) .stallUe)
/-- STALL_TIMEOUT: a stall has held a crossbar request 100 lc (Table 22.2). -/
def execStallTimeout (st : StallId) (s : State) : Host.Outcome State Fault Refusal := .next (s.fenceStall (skey st) .stallTimeout)
/-- AISLE_UE: an uncorrectable error of an aisle (Table 22.2). -/
def execAisleUe (hall : Fin 4) (aisle : Fin 36) (s : State) : Host.Outcome State Fault Refusal :=
  .next (if s.hallRuns hall.val then s.fenceAisle (aisleKey hall.val aisle.val) .aisleUe else s)
/-- AISLE_TIMEOUT: an aisle has held a mesh request 200 lc (Table 22.2). -/
def execAisleTimeout (hall : Fin 4) (aisle : Fin 36) (s : State) : Host.Outcome State Fault Refusal :=
  .next (if s.hallRuns hall.val then s.fenceAisle (aisleKey hall.val aisle.val) .aisleTimeout else s)

/-- CTX_PARITY: the task of a context with a parity error starts again; a lent task's tiles are recomputed (Table 22.2, R16, R250). -/
def execCtxParity (t : ThreadRef) (s : State) : Host.Outcome State Fault Refusal :=
  match s.thread (tkey t) with
  | none => .next s
  | some th =>
    let tags := s.threadTags th
    let s := s.stallFault (skey t.st) .ctxParity 2 tags 0
    .next (if th.status = .lent then (((s.setThread (tkey t) none).modStall (skey t.st) fun i => i.freeTask th.graph th.task).releaseHeld (skey t.st) fun w _ => w = .xmode).relend
      else s.redispatch th.graph th.task)

/-! ### Quiet points (R18, R22, R610) -/

/-- Write the repair log; a manufacturing-test start writes none (R22, R550, R629). -/
def State.logRepair (s : State) (f : Repair → Repair) : State :=
  if s.boot.mode = 2 then s else { s with boot := { s.boot with repair := f s.boot.repair } }

/-- A spare takes a logical identifier, and the repair log records it (R18, R22). -/
def State.useSx (s : State) (k : Nat) : State :=
  let a := aisleOf k
  let s := s.setAisle a { s.aisle a with sxFor := some (k % 16) }
  let s := s.modStall k fun i => { i with fenced := false, onSpare := true }
  let s : State := { s with scratch := s.scratch.filter fun c => !(k * 786432 ≤ c.1 && c.1 < (k + 1) * 786432) }
  (s.logRepair fun r => { r with stallMap := r.stallMap.set none a (some (k % 16)) }).stallFault
    k .stallUe 4 0 0

/-- AX takes an aisle's identifier, with sixteen stalls of its own and its own store. -/
def State.useAx (s : State) (a : Nat) : State :=
  let h := a / 36
  let s := s.setHall h { s.hall h with axFor := some (a % 36) }
  let s := s.setAisle a { onSpare := true }
  let s := (List.range 16).foldl (fun (s : State) i => s.setStall (a * 16 + i) {}) s
  let s : State :=
    { s with
      scratch := s.scratch.filter fun c => !(a * 16 * 786432 ≤ c.1 && c.1 < (a + 1) * 16 * 786432)
      aisleMem := s.aisleMem.filter fun c => !(a * 4194304 ≤ c.1 && c.1 < (a + 1) * 4194304) }
  (s.logRepair fun r => { r with aisleMap := r.aisleMap.set none h (some (a % 36)), stallMap := r.stallMap.set none a none }).aisleFault
    a .aisleUe 4 0 0

/-- An aisle with a fenced stall that SX cannot take any more is retired (R20). -/
def State.retireShort (s : State) (a : Nat) : State :=
  if (List.range 16).any fun i => (s.stall (a * 16 + i)).fenced then s.fenceAisle a .stallUe else s

/-- STALL_QUIET_POINT: at a quiet point the idle spare tests itself and replaces a fenced stall, or a fenced aisle; a spare
that fails stands as in service (R18, R20, R610). -/
def execStallQuietPoint (hall : Fin 4) (aisle : Fin 36) (stall : Option (Fin 16)) (sparePass : Bool) (s : State) :
    Host.Outcome State Fault Refusal :=
  let a := aisleKey hall.val aisle.val
  if !(s.hallRuns hall.val) then .next s
  else match stall with
    | some i =>
      let k := a * 16 + i.val
      if !(s.stall k).fenced || (s.aisle a).fenced || (s.aisle a).gone || (s.aisle a).sxFor.isSome then .next s
      else if sparePass then .next ((s.useSx k).retireShort a)
      else .next ((s.setAisle a { s.aisle a with sxFor := some 16 }).fenceAisle a .stallUe)
    | none =>
      if !(s.aisle a).fenced || (s.aisle a).gone || (s.hall hall.val).axFor.isSome then .next s
      else if sparePass then .next (s.useAx a)
      else
        let s := s.setHall hall.val { s.hall hall.val with axFor := some 36 }
        let s := s.setAisle a { s.aisle a with gone := true }
        .next ((s.requeue fun q => q = (hall.val, aisle.val)).degradedFault a .aisleUe)

/-! ### Halls (R21) -/

/-- The counters homed in a fenced hall are lost: every watch on one ends LOST (R350). -/
def State.loseCounters (s : State) (h : Nat) : State :=
  let gone := fun (w : Watch) => bellHome w.index = h
  let ws := s.bell.watches.filter gone ++ s.bell.heldRegs.filter gone
  s.setBell { s.bell with watches := s.bell.watches.filter (fun w => !(gone w)), heldRegs := s.bell.heldRegs.filter (fun w => !(gone w)),
                          msgs := s.bell.msgs ++ ws.map fun w => s.watchMsg w .lost false }

/-- The capture whose buffer lay in a fenced hall's store is lost and its claim released (R343). -/
def State.loseCapture (s : State) (h : Nat) : State :=
  (s.replay.cfgs.filter fun c => c.hall = h).foldl (fun (s : State) c =>
    let s : State := { s with replay := { s.replay with cfgs := s.replay.cfgs.filter fun x => x.hall ≠ h } }
    (s.unclaim fun x => x.kind = .hallStoreTop && x.index = h).hallFault h .hallUe 2 7 (BitVec.ofNat 16 h) 0 (c.job.setWidth 64)) s

/-- Tasks of a fenced hall: those on its ROOT and SLV end their graphs, saved tasks of its area start again (R266, R293,
R427). -/
def State.stopHallTask (s : State) (h : Nat) (g t : Nat) (ts : TaskSt) (r : TaskRec) : State :=
  let here := r.onHall && r.placeHall = h && (ts.st = .running && !ts.unitDone || (match ts.st with | .faultHeld _ => true | _ => false))
  if here then s.failTask g t (if r.kind = 4 then 0x28 else 0x2A)
  else if ts.saved.any fun x => x.hall = h then s.redispatch g t
  else s

/-- The part fences a hall (R21). -/
def State.fenceHall (s : State) (h : Nat) (mesh : Bool) (cls : FaultClass) : State :=
  if (s.hall h).fenced then s
  else
    let s := (((s.hallFault h cls 2 3 (BitVec.ofNat 16 h) 0 0).raiseAlert 7).count .fences h 1).setLendable h false
    let s := s.setHall h { s.hall h with fenced := true, meshUp := (s.hall h).meshUp && !mesh }
    let s := (s.stopRoot h).stopSolves h
    let s := (List.range 576).foldl (fun (s : State) i => s.emptyStall (h * 576 + i)) s
    let s := s.allTasks.foldl (fun (s : State) e => s.stopHallTask h e.1 e.2.1 e.2.2.1 e.2.2.2) s
    let s := s.requeue fun q => q.1 = h
    let s := (s.loseCounters h).loseCapture h
    let s : State := { s with rescale := s.rescale.filter (fun p => p.1 / 8 ≠ h), sweeps := s.sweeps.set none h none,
                              mem := s.mem.filter fun c => !(0xE0000000000 + h * 0x4000000 ≤ c.1 && c.1 < 0xE0000000000 + (h + 1) * 0x4000000) }
    s.afterSweep

/-- HALL_UE: mesh parity, or an uncorrectable error of a hall's own units (Table 22.2). -/
def execHallUe (hall : Fin 4) (mesh : Bool) (s : State) : Host.Outcome State Fault Refusal := .next (s.fenceHall hall.val mesh .hallUe)
/-- HALL_TIMEOUT: a hall has held a request 500 lc (Table 22.2). -/
def execHallTimeout (hall : Fin 4) (s : State) : Host.Outcome State Fault Refusal := .next (s.fenceHall hall.val false .hallTimeout)

end Sys2Proof.Machine
end

