-- ==== Sys2Proof/Machine/Ingest.lean ====
section
/-! DEFINITION. Ethernet ingest: regions, queue pairs and their events (R461 to R463, Tables 15.10 and 15.11). -/

namespace Sys2Proof.Machine

/-- Change a queue pair. -/
def State.modQp (s : State) (id : Nat) (f : Qp → Qp) : State :=
  s.setFab { s.fab with qps := s.fab.qps.map fun q => if q.id = id then f q else q }
/-- A queue pair. -/
def State.qp (s : State) (id : Nat) : Option Qp := s.fab.qps.find? fun q => q.id = id

/-! ### Commands -/

/-- INGEST_MR_REG: a region of HBM offsets with its key (R462). -/
def execIngestMrReg (h : CmdHdr) (off len key : W64) (s : State) : Host.Outcome State Fault Refusal :=
  command 0x0740 3 true h s fun c s =>
    let o := off.toNat
    let n := len.toNat
    if n = 0 || n % 65536 ≠ 0 || !(s.hbmRange o n) || !(inRange key 0 0xFFFFFFFF) then s.reply c stInvalid []
    else if s.fab.mrs.length ≥ 4096 then s.reply c stBusy []
    else if s.fab.mrs.any fun m => m.off < o + n && o < m.off + m.len then s.reply c stConflict []
    else
      let id := s.fab.nextMr
      let s := s.setFab { s.fab with mrs := s.fab.mrs ++ [{ id := id, job := h.job, off := o, len := n, key := bits key 0 32 }], nextMr := id + 1 }
      (s.claim { kind := .mrRange, index := id, job := h.job, opcode := 0x0740 }).reply c stOk [BitVec.ofNat 64 id]

/-- Whether a queue pair can meet a region: one of its job that receives (DEDUCED, log entry 26), or a pair's exchange. -/
def State.mrUsed (s : State) (m : Mr) : Bool :=
  (s.fab.qps.any fun q => q.job = m.job && (q.st = .rtr || q.st = .rts || q.st = .sqd)) || s.replica.pairs.any fun p => p.region = m.id

/-- INGEST_MR_CLEAR (Table 15.11). -/
def execIngestMrClear (h : CmdHdr) (region : W64) (s : State) : Host.Outcome State Fault Refusal :=
  command 0x0741 1 false h s fun c s =>
    match s.fab.mrs.find? fun m => m.id = region.toNat with
    | none => s.reply c stNotFound []
    | some m =>
      if s.mrUsed m then s.reply c stBusy []
      else
        let s := s.setFab { s.fab with mrs := s.fab.mrs.filter fun x => x.id ≠ m.id }
        (s.unclaim fun x => x.kind = .mrRange && x.index = m.id).reply c stOk []

/-- INGEST_QP_CREATE: a queue pair with its ring in HBM and its completion counter (R463). -/
def execIngestQpCreate (h : CmdHdr) (port ring depth counter : W64) (s : State) : Host.Outcome State Fault Refusal :=
  command 0x0742 4 true h s fun c s =>
    if !(inRange port 0 1) || !(inRange depth 16 65536) || !(inRange counter 0 65535) || region ring.toNat ≠ .hbm || !(s.mapped ring.toNat) then
      s.reply c stInvalid []
    else match (List.range 1024).find? fun i => (s.qp i).isNone with
      | none => s.reply c stBusy []
      | some id =>
        let q : Qp := { id := id, job := h.job, port := port.toNat, ring := ring, depth := depth.toNat, counter := bits counter 0 16 }
        (s.setFab { s.fab with qps := s.fab.qps ++ [q] }).reply c stOk [BitVec.ofNat 64 id]

/-- The states by their RoCE v2 codes (PRESUMED, log entry 27). -/
def qpStateOf (v : W64) : Option QpState :=
  if v = 0 then some .reset else if v = 1 then some .init else if v = 2 then some .rtr else if v = 3 then some .rts
  else if v = 4 then some .sqd else if v = 6 then some .err else none

/-- The transitions RoCE v2 allows. -/
def qpMayMove (a b : QpState) : Bool :=
  match b with
  | .reset => true
  | .err => true
  | .init => a = .reset || a = .init
  | .rtr => a = .init
  | .rts => a = .rtr || a = .rts || a = .sqd
  | .sqd => a = .rts || a = .sqd

/-- INGEST_QP_MODIFY (Table 15.11). -/
def execIngestQpModify (h : CmdHdr) (qp state raddr rqp mtu cut : W64) (s : State) : Host.Outcome State Fault Refusal :=
  command 0x0743 6 false h s fun c s =>
    match s.qp qp.toNat, qpStateOf state with
    | none, _ => s.reply c stNotFound []
    | some _, none => s.reply c stInvalid []
    | some q, some st =>
      if !(qpMayMove q.st st) || !(inRange rqp 0 0xFFFFFF) || !(mtu = 1024 || mtu = 2048 || mtu = 4096) || !(inRange cut 1 128) then
        s.reply c stInvalid []
      else
        (s.modQp q.id fun x => { x with st := st, raddr := raddr, rqp := rqp, mtu := mtu.toNat, cut := cut.toNat,
                                        rate := if st = .reset then 65536 else x.rate, completed := if st = .reset then 0 else x.completed }).reply c stOk []

/-- INGEST_QP_CLEAR (Table 15.11). -/
def execIngestQpClear (h : CmdHdr) (qp : W64) (s : State) : Host.Outcome State Fault Refusal :=
  command 0x0744 1 false h s fun c s =>
    match s.qp qp.toNat with
    | none => s.reply c stNotFound []
    | some q => (s.setFab { s.fab with qps := s.fab.qps.filter fun x => x.id ≠ q.id }).reply c stOk []

/-! ### Events -/

/-- A queue pair goes to the error state with a fault record (R462, R463). -/
def State.qpError (s : State) (q : Qp) : State :=
  (s.modQp q.id fun x => { x with st := .err }).partFault .ingestQp 9 7 (BitVec.ofNat 16 q.port) 0 (BitVec.ofNat 64 q.id)

/-- An inbound RDMA access meets memory: it writes, or its bytes are the answer; an address-error or poison status fails the queue pair
as a check does (R396, R462, R612). -/
def State.rdmaAccess (s : State) (qp : Nat) (write : Bool) (off : Nat) (data : List Byte) (len : Nat) : State :=
  let ps := pieces (len / 65536 + 2) off len
  let fails := fun (poison : Bool) (a : Nat) =>
    let s := (s.send (.rdmaError qp)).accessFault 4 poison a 0
    match s.qp qp with
    | some q => s.qpError q
    | none => s
  match ps.find? fun p => !(s.mapped p.1) with
  | some p => fails false (s.partNo * 2 ^ 44 + p.1)
  | none =>
    if write then (s.poke off data).send (.rdmaAnswer qp none)
    else if s.poisoned off len then fails true (s.partNo * 2 ^ 44 + s.poisonAt off len)
    else s.send (.rdmaAnswer qp (some (s.mem.read off len)))

/-- INGEST_RDMA_ACCESS: an inbound WRITE or READ is checked against its region and key; it waits while HBM is in self-refresh (R399,
R461, R462). -/
def execIngestRdmaAccess (qp : Nat) (op : RdmaOp) (key : W32) (off : W64) (data : List Byte) (len : Nat) (s : State) :
    Host.Outcome State Fault Refusal :=
  match s.qp qp with
  | none => .next s
  | some q =>
    if !(q.st = .rtr || q.st = .rts || q.st = .sqd) || s.power.supply = .off then .next s
    else
      let n := match op with | .write => data.length | .read => len
      let o := off.toNat
      let ok := s.fab.mrs.any fun m => m.job = q.job && m.key = key && m.off ≤ o && o + n ≤ m.off + m.len
      if !ok then .next ((s.send (.rdmaError qp)).qpError q)
      else if s.hbmHeld then .next (s.setFab { s.fab with heldPkts := s.fab.heldPkts ++ [.rdma qp (op = .write) o data n] })
      else .next (s.rdmaAccess qp (op = .write) o data n)

/-- WORK_REQUEST_DONE: the oldest work request completes and is signalled, or fails (R463). -/
def execWorkRequestDone (qp : Nat) (ok : Bool) (s : State) : Host.Outcome State Fault Refusal :=
  match s.qp qp with
  | none => .next s
  | some q =>
    if !(q.st = .rts || q.st = .sqd) then .next s
    else if ok then .next ((s.modQp qp fun x => { x with completed := x.completed + 1 }).signalAt s.partNo q.counter 1)
    else .next (s.qpError q)

/-- CNP: the requester's rate falls by RATE_CUT (Table 15.10). -/
def execCnp (qp : Nat) (s : State) : Host.Outcome State Fault Refusal :=
  match s.qp qp with
  | none => .next s
  | some q => .next ((s.modQp qp fun x => { x with rate := x.rate - x.rate * q.cut / 256 }).count .cnpReceived q.port 1)

/-- RATE_RECOVERY_TICK: 50 µs without a CNP (Table 15.10). -/
def execRateRecoveryTick (qp : Nat) (s : State) : Host.Outcome State Fault Refusal :=
  .next (s.modQp qp fun x => { x with rate := min 65536 (x.rate + 4096) })

end Sys2Proof.Machine
end

