-- ==== Sys2Proof/Machine/Supply.lean ====
section
/-! DEFINITION. VBUS, the rails, shedding, the orderly stop, cooling trips and the resets of scope part (chapter 20, R536 to
R538, Table 20.11). -/

namespace Sys2Proof.Machine

/-! ### What a part keeps (R389, R397, R430, R537, R572) -/

/-- What of a stack the boot flash remembers (Table 19.3). The rebuilt map is used from the next start (R389). -/
def Stack.kept (k : Stack) : Stack :=
  { rowMap := k.rowMap, sparesUsed := k.sparesUsed, remaps := k.remaps, retired := k.retired, marked := k.marked
    erased := k.erased.map fun e => (e.1, true) }

/-- The state after everything but the boot flash and the fuses is lost (R537, R572). -/
def State.wiped (s : State) : State :=
  { pending := s.pending, sent := s.sent, startNo := s.startNo
    boot := { s.boot with restart := false, mode := 0, recoveryStep := 0, partnerOk := 0, partnerWrong := 0 }
    hbm := (List.range 12).foldl (fun (m : SMap Stack) (k : Nat) => m.set {} k (s.stack k).kept) []
    xlt := { redirects := s.xlt.redirects, dead := s.xlt.dead }
    power := { pwrEn := s.power.pwrEn } }

/-- Every rail falls: the part is off and keeps no state (R572, R576). -/
def State.turnOff (s : State) : State := s.wiped.modPower fun p => { p with supply := .off }

/-- DEPART goes out on every port in service, and the ports turn dark (R457, R536, R568). -/
def State.departPorts (s : State) : State :=
  (List.range 8).foldl (fun (s : State) (n : Nat) =>
    if (s.port n).st = .inService then (s.send (.depart n)).portState n .dark else s) s

/-- A start begins afresh at step 1 with this cause (R536 to R539). -/
def State.startOver (s : State) (cause : Byte) : State :=
  let s := s.departPorts.wiped
  { s with startNo := s.startNo + 1, startStep := 1, boot := { s.boot with cause := cause } }

/-! ### Shedding (R576 to R578, Table 20.7) -/

/-- The `k` lowest lane groups of a mask. -/
def lowGroups (k : Nat) (m : BitVec 12) : BitVec 12 :=
  ((List.range 12).foldl (fun (a : BitVec 12 × Nat) (i : Nat) =>
    if m.getLsbD i && a.2 < k then (a.1 ||| ((1 : BitVec 12) <<< i), a.2 + 1) else a) (0, 0)).1

/-- An optical port's directions take other lane groups, by Table 15.6 and with no record (Table 20.7). -/
def State.reWidth (s : State) (f : BitVec 12 → BitVec 12) : State :=
  [2, 3, 4, 5, 6, 7].foldl (fun (s : State) (n : Nat) =>
    if (s.port n).st = .inService then
      s.modPort n fun x => { x with tx := f x.tx, rx := f x.rx, txChanging := x.txChanging || f x.tx != x.tx, rxChanging := x.rxChanging || f x.rx != x.rx }
    else s) s

/-- The 44 V row: optical ports run on 4 groups and halls at most at 0.65 V. -/
def State.take44 (s : State) : State :=
  if s.power.below44 then s else ((s.modPower fun p => { p with below44 := true }).clampHalls).reWidth (lowGroups 4)

/-- The 42 V row: dispatch and Till commands stop, and open captures end (R577). -/
def State.take42 (s : State) : State :=
  if s.power.below42 then s
  else (List.range 8).foldl State.abortCapture (s.modPower fun p => { p with below42 := true })

/-- Every stack enters or leaves self-refresh. -/
def State.setRefresh (s : State) (v : Bool) : State :=
  (List.range 12).foldl (fun (s : State) (k : Nat) => s.setStack k { s.stack k with selfRefresh := v }) s

/-- The 40 V row: Tills stop, digests are written, HBM enters self-refresh (R325, R398, Table 13.6). -/
def State.take40 (s : State) : State :=
  if s.power.below40 then s else (s.stopTills.modPower fun p => { p with below40 := true }).setRefresh true

/-- A crossing of 42 V, 40 V or 38 V has a fault record and the supply alert (R578). -/
def State.crossing (s : State) : State := ((s.supplyFault .supply 3 0 0 0).raiseAlert 1).count .supplyCrossings 0 1

/-- The state an outcome leaves, the old one where it stops. -/
def outState (s : State) (o : Host.Outcome State Fault Refusal) : State :=
  match o with
  | .next t => t
  | _ => s

/-- A held request meets its service (R399). -/
def State.serveHeld (s : State) (r : HeldReq) : State :=
  match r with
  | .packet p =>
    outState s (if p.type = 0x01 then execRead p s else if p.type = 0x02 then execWrite p s
      else if p.type = 0x03 then execAtomic p s else execResp p s)
  | .rdma qp write off data len => s.rdmaAccess qp write off data len

/-- VBUS_BELOW_44V (Table 20.7). -/
def execVbusBelow44v (s : State) : Host.Outcome State Fault Refusal :=
  if s.power.supply = .on then .next s.take44 else .next s

/-- VBUS_ABOVE_45V: optical ports retrain on all groups and the cap lifts (Table 20.7). -/
def execVbusAbove45v (s : State) : Host.Outcome State Fault Refusal :=
  if s.power.supply = .on && s.power.below44 then
    .next ((s.modPower fun p => { p with below44 := false }).reWidth fun _ => 0xFF)
  else .next s

/-- VBUS_BELOW_42V (R577, R578). -/
def execVbusBelow42v (s : State) : Host.Outcome State Fault Refusal :=
  match s.power.supply with
  | .off => .next s
  | .on => if s.power.below42 then .next s else .next s.take42.crossing
  | .stopped _ => .next s.crossing

/-- VBUS_ABOVE_43V: dispatch resumes (R576, R578). -/
def execVbusAbove43v (s : State) : Host.Outcome State Fault Refusal :=
  match s.power.supply with
  | .off => .next s
  | .on => if s.power.below42 then .next (s.modPower fun p => { p with below42 := false }).crossing else .next s
  | .stopped _ => .next s.crossing

/-- VBUS_BELOW_40V (R398, R578). -/
def execVbusBelow40v (s : State) : Host.Outcome State Fault Refusal :=
  match s.power.supply with
  | .off => .next s
  | .on => if s.power.below40 then .next s else .next s.take40.crossing
  | .stopped _ => .next s.crossing

/-- VBUS_ABOVE_41V: HBM leaves self-refresh, and what was held is served in arrival order (R399, R578, Table 13.6). -/
def execVbusAbove41v (s : State) : Host.Outcome State Fault Refusal :=
  match s.power.supply with
  | .off => .next s
  | .stopped _ => .next s.crossing
  | .on =>
    if !s.power.below40 then .next s
    else
      let l := s.fab.heldPkts
      let s := (((s.modPower fun p => { p with below40 := false }).setRefresh false).setFab { s.fab with heldPkts := [] }).traceFlush.crossing
      .next (l.foldl State.serveHeld s)

/-! ### The orderly stop (R579, R580, Table 20.8) -/

/-- The cause code a stop's record holds: R579 lists the causes in this order. -/
def StopCause.code (c : StopCause) : Nat := c.ctorIdx

/-- The orderly stop: every row of Table 20.7 in order, DEPART and dark ports, 0.55 V, the valve fully open, the record, PSTATE 3 and the
alert (R594, Table 20.8 steps 1 to 3). Before the hub rail is up there is nothing to stop. -/
def State.orderlyStop (s : State) (c : StopCause) : State :=
  if s.power.supply ≠ .on || (s.pstate = 0 && s.startStep.toNat ≤ 1) then s
  else
    let s := s.take44.take42.take40.departPorts.withdrawPairs
    let s := [0, 1, 2, 3].foldl (fun (s : State) (h : Nat) => s.modHallPower h fun x => { x with mv := min x.mv 550 }) s
    let s := s.forceValve.modPower fun p => { p with supply := .stopped c }
    let s := s.supplyFault .stop 3 7 0 c.code
    State.raiseAlert { s with pstate := 3 } 6

/-- VBUS_BELOW_38V: the orderly stop begins (R578, R579). -/
def execVbusBelow38v (s : State) : Host.Outcome State Fault Refusal :=
  match s.power.supply with
  | .on => .next (s.crossing.orderlyStop .vbus38)
  | .stopped _ => .next s.crossing
  | .off => .next s

/-- VBUS_BELOW_36V: every rail falls (R576, Table 20.7). -/
def execVbusBelow36v (s : State) : Host.Outcome State Fault Refusal := .next s.turnOff

/-- VBUS_OVERVOLTAGE: above 60 V for more than 10 ms (R571, R579). -/
def execVbusOvervoltage (s : State) : Host.Outcome State Fault Refusal := .next (s.orderlyStop .overvoltage)

/-- VBUS_DISCONNECT: above 74 V the input stage disconnects at once (R571). -/
def execVbusDisconnect (s : State) : Host.Outcome State Fault Refusal := .next s.turnOff

/-- VBUS_LOCKOUT: below 32 V (R571). -/
def execVbusLockout (s : State) : Host.Outcome State Fault Refusal := .next s.turnOff

/-! ### Power-on, PWR_EN and the resets (R536, R568, R572) -/

/-- A power-on: a part that was off begins a start (Table 19.1 cause 1). -/
def State.powerOn (s : State) : State :=
  if s.power.supply = .off && s.power.pwrEn then (s.modPower fun p => { p with supply := .on }).startOver 1 else s

/-- POWER_ON: VBUS enters the start window while PWR_EN is high (R536). -/
def execPowerOn (s : State) : Host.Outcome State Fault Refusal := .next s.powerOn

/-- PWR_EN_RISE: PWR_EN rises, and a power-on begins when VBUS lies in the start window (R572, Table 20.3). -/
def execPwrEnRise (inWindow : Bool) (s : State) : Host.Outcome State Fault Refusal :=
  let s := s.modPower fun p => { p with pwrEn := true }
  .next (if inWindow then s.powerOn else s)

/-- PWR_EN_FALL: the orderly stop, then every rail off (R536, R579, Table 20.8). -/
def execPwrEnFall (s : State) : Host.Outcome State Fault Refusal :=
  let s := s.modPower fun p => { p with pwrEn := false }
  if s.power.supply = .off then .next s else .next (s.orderlyStop .pwrEn).turnOff

/-- PART_RESET: a part reset is released, and the straps are sampled (R536, R539). -/
def execPartReset (straps : Straps) (s : State) : Host.Outcome State Fault Refusal :=
  if s.power.supply = .off then .next s
  else
    let s := s.startOver 2
    .next { s with boot := { s.boot with straps := straps } }

/-- The entry of a step in the current record. -/
def State.entry (s : State) (i : Nat) : StepEntry := match s.boot.records with
  | r :: _ => r.steps.getD (i - 1) {}
  | [] => {}
/-- Change the current step record. -/
def State.modRecord (s : State) (f : StepRec → StepRec) : State :=
  match s.boot.records with
  | r :: rest => { s with boot := { s.boot with records := f r :: rest } }
  | [] => s
/-- Write a step's entry in the current record (R545). -/
def State.writeStep (s : State) (i : Nat) (f : StepEntry → StepEntry) : State :=
  s.modRecord fun r => { r with steps := r.steps.modify (i - 1) f }

/-- The step that runs now: a start has opened its record, and the step has no END (R546). -/
def State.running (s : State) : Option Nat :=
  let i := s.startStep.toNat
  if s.power.supply ≠ .off && s.pstate = 0 && i ≥ 2 && (s.entry i).started && (s.entry i).ended.isNone then some i else none

/-- WATCHDOG_RESET: the running step's entry ends 0x11, the failure is recorded, and the part resets (R536, R547, Table
22.2). -/
def execWatchdogReset (s : State) : Host.Outcome State Fault Refusal :=
  if s.power.supply = .off || (s.pstate = 0 && s.startStep.toNat ≤ 1) then .next s
  else
    let s := match s.running with
      | some i => s.writeStep i fun e => { e with ended := some 0x11 }
      | none => s
    .next ((s.partFault .hubUe 3 0 0 0 0).startOver 4)

/-- RESTART: 100 ms after a mandatory step failed (R549). -/
def execRestart (s : State) : Host.Outcome State Fault Refusal :=
  if s.power.supply ≠ .off && s.boot.restart then .next (s.startOver 3) else .next s

/-! ### Rails (R574, R575) -/

/-- Another phase or unit of a rail is lost, with a record (R574). -/
def State.losePhase (s : State) (r : Rail) (cls : FaultClass) (action : Byte) : State :=
  let i := railIndex r
  (s.modPower fun p => { p with lost := p.lost.set 0 i (p.lost.get 0 i + 1) }).supplyFault cls 7 action i 0

/-- PHASE_LOSS: the first phase of a rail is isolated; no work stops (R574). -/
def execPhaseLoss (rail : Rail) (s : State) : Host.Outcome State Fault Refusal :=
  if s.power.supply = .on && s.power.lost.get 0 (railIndex rail) = 0 then .next (s.losePhase rail .phase 3) else .next s

/-- What a rail below its rated load means (R575). The current limit of a hall and the bus stage's cap follow from the count
of lost phases. -/
def State.railAction (s : State) : Rail → State
  | .core h => if railPhases (.core h) - s.power.lost.get 0 (railIndex (.core h)) < 8 then s.fenceHall h.val false .railLoss else s
  | .bus => s
  | .opt n => if s.portUp (n.val + 2) then (s.declareFailed (n.val + 2)).turnBack (n.val + 2) else s
  | .base k =>
    if (s.tillOf k.val).pipes = 0 then s
    else (((s.modTillOf k.val fun t => { t with pipes := 0 })).partFault .tillFailed 5 3 (BitVec.ofNat 16 k.val) 0 0).raiseAlert 7
  | .hbm k => (s.logRepair fun r => { r with stackPos := r.stackPos.set .full k.val .excluded }).orderlyStop .railLoss
  | .hub => (s.logRepair fun r => { r with railFail := true }).orderlyStop .railLoss
  | .phy => (s.logRepair fun r => { r with railFail := true }).orderlyStop .railLoss

/-- RAIL_LOSS: a second loss takes the rail below its rated load (R575). -/
def execRailLoss (rail : Rail) (s : State) : Host.Outcome State Fault Refusal :=
  if s.power.supply = .on && s.power.lost.get 0 (railIndex rail) ≥ 1 && s.power.lost.get 0 (railIndex rail) < railPhases rail then
    .next ((s.losePhase rail .railLoss 7).railAction rail)
  else .next s

/-! ### Cooling trips (R583, Table 20.11) -/

/-- FLOW_LOSS: flow below 1.5 L/min, or no edge, for 2 s. -/
def execFlowLoss (s : State) : Host.Outcome State Fault Refusal :=
  if s.pstate = 1 then .next (s.coolingAlert.orderlyStop .flow) else .next s

/-- INLET_HOT: above 40 °C the cap falls by 100 W per kelvin; at 45 °C for 5 s the orderly stop begins (R594). -/
def execInletHot (inlet : Int) (held5s : Bool) (s : State) : Host.Outcome State Fault Refusal :=
  if s.pstate ≠ 1 || inlet ≤ 160 then .next s
  else
    let first := s.power.inletCut = 0
    let s := (s.modPower fun p => { p with inletCut := 25 * (inlet - 160).toNat }).forceValve
    let s := s.supplyFault .cooling 8 0 0 0
    let s := if first then s.coolingAlert else s
    .next (if inlet ≥ 180 && held5s then s.orderlyStop .inlet else s)

/-- OUTLET_HOT: above 60 °C for 5 s. -/
def execOutletHot (s : State) : Host.Outcome State Fault Refusal :=
  if s.pstate = 1 then .next (s.coolingAlert.orderlyStop .outlet) else .next s

/-- JUNCTION_TRIP: 125 °C turns the part off at once; 115 °C of a hall or the hub begins the orderly stop. Readings are in
0.25 °C. -/
def execJunctionTrip (temp : Int) (s : State) : Host.Outcome State Fault Refusal :=
  if temp ≥ 500 then .next s.turnOff
  else if s.pstate = 1 && temp ≥ 460 then .next (s.coolingAlert.orderlyStop .junction)
  else .next s

end Sys2Proof.Machine
end

