-- ==== Sys2Proof/Machine/Hbm.lean ====
section
/-! DEFINITION. HBM4E stacks: reconstruction, poison, pseudo-channel failure, row remapping, retirement, scrubbing, refresh and
the health commands (chapter 13, R429 to R431). -/

namespace Sys2Proof.Machine

/-! ### From a stack-local address back (R381, R382) -/

/-- The HBM offset of a stack-local address. -/
def State.offsetOf (s : State) (k l : Nat) : Option Nat :=
  let h := k / 3
  let up := [3 * h, 3 * h + 1, 3 * h + 2].filter fun x => !(s.stack x).excluded
  match up.findIdx? (· = k) with
  | none => none
  | some j =>
    let hl := (l / 65536 * up.length + j) * 65536 + l % 65536
    let off := hl / 2 ^ 30 * 2 ^ 32 + h * 2 ^ 30 + hl % 2 ^ 30
    if l < 2 ^ 37 && s.locate off = some (h, k, l) then some off else none

/-- A stack whose controller works: powered, trained and not excluded. -/
def State.stackUp (s : State) (k : Nat) : Bool := s.power.supply = .on && s.startStep.toNat ≥ 7 && !(s.stack k).excluded

/-- A record of a stack. -/
def State.stackFault (s : State) (k : Nat) (cls : FaultClass) (action : Byte) (detail : Nat) : State :=
  s.hallFault (k / 3) cls 4 action (BitVec.ofNat 16 k) 0 (BitVec.ofNat 64 detail)

/-- Change one stack. -/
def State.modStack (s : State) (k : Nat) (f : Stack → Stack) : State := s.setStack k (f (s.stack k))

/-- The stack unit whose accesses reach a physical unit: its own number, or the unit redirected to it. -/
def State.ownerUnit (s : State) (k u : Nat) : Nat :=
  match s.xlt.redirects.find? fun r => r.1 / 2 ^ 32 = k && r.2 = some u with
  | some r => r.1 % 2 ^ 32
  | none => u

/-- The HBM offset whose accesses reach a physical place of a stack. -/
def State.offsetAt (s : State) (k l : Nat) : Option Nat := s.offsetOf k (s.ownerUnit k (l / 65536) * 65536 + l % 65536)

/-! ### Parity (R385) -/

/-- The places at one (bank, row, granule) position of a parity group: one in each of its 16 pseudo-channels. -/
def groupPlaces (l : Nat) : List Nat :=
  let (pc, bank, row) := rowOf l
  (List.range 16).map fun i => ((row * 64 + bank) * 64 + (pc / 16 * 16 + i)) * 2048 + l % 2048 / 64 * 64

/-- The granule at a physical place, as software reads it. -/
def State.granuleAt (s : State) (k l : Nat) : List Byte :=
  match s.offsetAt k l with
  | some off => s.mem.read (off / 64 * 64) 64
  | none => List.replicate 64 0

/-- The XOR of granules. -/
def xorGranules (l : List (List Byte)) : List Byte := l.foldr (fun a b => (a.zip b).map fun p => p.1 ^^^ p.2) (List.replicate 64 0)

/-- The parity granule at a place's position: the XOR of the group's 16 data granules, which every write keeps (R385). The parity
pseudo-channels hold nothing else, so the model computes them from the data. -/
def State.parityAt (s : State) (k l : Nat) : List Byte := xorGranules ((groupPlaces l).map (s.granuleAt k))

/-- The granule that the 15 others of its group and the parity granule give (R386). -/
def State.rebuiltAt (s : State) (k l : Nat) : List Byte :=
  xorGranules (s.parityAt k l :: ((groupPlaces l).filter fun x => x ≠ l / 64 * 64).map (s.granuleAt k))

/-! ### Errors (R386 to R389) -/

/-- Whether the parity of a pseudo-channel's group can still rebuild a granule of it (R385, R389). -/
def Stack.canRebuild (x : Stack) (pc : Nat) : Bool := x.erased.all fun e => e.1 / 16 ≠ pc / 16 || (e.1 = pc && !e.2)

/-- Whether a place's row is rebuilt already, where its pseudo-channel is erased (Table 13.4 step 4). -/
def State.rowBack (s : State) (k l : Nat) : Bool :=
  let (pc, bank, row) := rowOf l
  (s.stack k).erased.any fun e => e.1 = pc && (e.2 || Config.rowRebuilt k pc bank row (s.hallLc (k / 3)))

/-- Whether another granule at a place's position is uncorrectable: a poisoned one (R387). -/
def State.mateBad (s : State) (k l : Nat) : Bool :=
  (groupPlaces l).any fun x => x ≠ l / 64 * 64 && (s.offsetAt k x).any fun off => s.poisonGranule (off / 64)

/-- A place's granule is poisoned. -/
def State.poisonPlace (s : State) (k l : Nat) : State :=
  match s.offsetAt k l with
  | some off => { s with poison := s.poison.set false (off / 64) true }
  | none => s

/-- The places at a granule's position that only parity could give: those of an erased pseudo-channel whose row is not rebuilt
(Table 13.4 step 3). -/
def State.byParity (s : State) (k l : Nat) : List Nat :=
  (groupPlaces l).filter fun x => x ≠ l / 64 * 64 && ((s.stack k).erased.any fun e => e.1 = (rowOf x).1) && !(s.rowBack k x)

/-- GRANULE_RECON: an uncorrectable granule is rebuilt, counted and rewritten as it was, or is poisoned when a second granule at its
position is uncorrectable too or its group has no parity; what only parity could give at that position is lost with it
(R386, R387). `addr` is a stack-local address. -/
def execGranuleRecon (stack : Fin 12) (addr : Nat) (s : State) : Host.Outcome State Fault Refusal :=
  let k := stack.val
  match s.offsetOf k addr with
  | none => .next s
  | some off =>
    let l := s.redirect k addr
    if !(s.stackUp k) then .next s
    else if (s.stack k).canRebuild (rowOf l).1 && !(s.rowBack k l) && !(s.mateBad k l) then
      .next (((s.modStack k fun x => { x with recon := x.recon + 1 }).count .granuleRecon k 1).stackFault k .granuleRecon 1 0)
    else .next ((s.byParity k l).foldl (fun (s : State) (x : Nat) => s.poisonPlace k x) { s with poison := s.poison.set false (off / 64) true })

/-- POISON_READ: a read of a poisoned granule causes a fault record with its address (R387, Table 22.2). -/
def execPoisonRead (stack : Fin 12) (addr : Nat) (s : State) : Host.Outcome State Fault Refusal :=
  let k := stack.val
  match s.offsetOf k addr with
  | none => .next s
  | some off =>
    if s.stackUp k && s.poisonGranule (off / 64) then
      .next ((s.count .poisonRead k 1).stackFault k .poison 0 (s.partNo * 2 ^ 44 + off / 64 * 64))
    else .next s

/-- The granules of a pseudo-channel that just failed and that a poisoned granule at their position keeps from being rebuilt
are poisoned (R387). -/
def State.poisonMates (s : State) (k pc : Nat) : State :=
  s.poison.foldl (fun (s : State) (e : Nat × Bool) =>
    match (if region (e.1 * 64) = .hbm then s.locate (e.1 * 64) else none) with
    | some (_, j, l) =>
      let l := s.redirect j l
      if j = k && (rowOf l).1 / 16 = pc / 16 then
        ((groupPlaces l).filter fun x => (rowOf x).1 = pc).foldl (fun (s : State) (x : Nat) => s.poisonPlace k x) s
      else s
    | none => s) s

/-- PC_FAILED: the pseudo-channel is erased and served by reconstruction; a second one of its group loses its granules, and the
first one those not rebuilt yet (R388, R389, Table 13.4). -/
def execPcFailed (stack : Fin 12) (pc : Fin 64) (s : State) : Host.Outcome State Fault Refusal :=
  let k := stack.val
  let x := s.stack k
  if !(s.stackUp k) || (x.erased.any fun e => e.1 = pc.val) || x.lostPcs.contains pc.val then .next s
  else match x.erased.find? fun e => e.1 / 16 = pc.val / 16 with
  | none => .next ((((s.poisonMates k pc.val).modStack k fun x => { x with erased := (pc.val, false) :: x.erased })).stackFault k .pcFailed 6 0)
  | some (first, rebuilt) =>
    let cut := !(rebuilt || x.lostPcs.contains first)
    .next ((s.modStack k fun x =>
      { x with lostPcs := (if cut then [pc.val, first] else [pc.val]) ++ x.lostPcs
               halted := if cut then x.halted.set none first (some (s.hallLc (k / 3))) else x.halted }).stackFault k .pcSecond 0 0)

/-- PC_REBUILD_DONE: the rebuild into the parity pseudo-channel has ended (Table 13.4 step 5). -/
def execPcRebuildDone (stack : Fin 12) (s : State) : Host.Outcome State Fault Refusal :=
  let k := stack.val
  match (s.stack k).erased.find? fun e => !e.2 && !((s.stack k).lostPcs.contains e.1) with
  | none => .next s
  | some e =>
    if !(s.stackUp k) then .next s
    else .next ((s.modStack k fun x => { x with erased := x.erased.map fun d => if d = e then (d.1, true) else d }).stackFault k .pcFailed 8 0)

/-! ### Remapping and retirement (R394 to R397, R429 to R431) -/

/-- Spare rows of a bank (Table 13.1). -/
def spareRows : Nat := 32

/-- ROW_REMAP: the row moves to a fresh spare; with none left its unit is to be retired (R394 to R396). -/
def execRowRemap (stack : Fin 12) (pc : Fin 64) (bank : Fin 64) (row : Fin 16384) (s : State) : Host.Outcome State Fault Refusal :=
  let k := stack.val
  let b := bank.val * 64 + pc.val
  let used := (s.stack k).sparesUsed.get 0 b
  if !(s.stackUp k) then .next s
  else if used < spareRows then
    .next (((s.modStack k fun x =>
      { x with rowMap := x.rowMap.set none (b * 16384 + row.val) (some used), sparesUsed := x.sparesUsed.set 0 b (used + 1)
               remaps := x.remaps + 1 }).count .remaps k 1).stackFault k .rowRemap 4 0)
  else
    let u := (row.val * 4096 + bank.val * 64 + pc.val) / 32
    if s.xlt.retiring.contains (k, u) || (s.stack k).retired.contains u then .next s
    else .next (s.setXlt { s.xlt with retiring := s.xlt.retiring ++ [(k, u)] })

/-- The stack units of a hall's reserve that lie in a stack, that no redirect uses and that are not retired (R429, R430). -/
def State.freeReserve (s : State) (k : Nat) : List Nat :=
  match s.xlt.reserves.get none (k / 3) with
  | none => []
  | some a => (List.range (a.size / 65536)).filterMap fun i => match s.locate (a.off + i * 65536) with
    | some (_, j, l) => if j = k && !(s.xlt.redirects.any fun r => r.1 / 2 ^ 32 = k && r.2 = some (l / 65536)) && !(s.unitGone k (l / 65536)) then some (l / 65536) else none
    | none => none

/-- Entries of a memory controller's redirect table (R429). -/
def redirectRoom : Nat := 1024

/-- The reserve unit a unit moves to: the first free one, where the redirect table has room for its entry (R429, R430; a full table
counts as no reserve: DEDUCED, log entry 139). -/
def State.replacement (s : State) (k v : Nat) : Option Nat :=
  if (s.xlt.redirects.get none (k * 2 ^ 32 + v)).isSome || (s.xlt.redirects.filter fun r => r.1 / 2 ^ 32 = k).length < redirectRoom
  then (s.freeReserve k).head? else none

/-- The unit at an HBM offset now lies in the reserve unit `r`: its copy is whole but for the granules that were poisoned
(R430, Table 14.10 steps 2 and 3). -/
def State.moveUnitTo (s : State) (k v off r : Nat) : State :=
  let gs := (List.range 1024).map fun i => off / 64 + i
  let lost := gs.filter s.lostGranule
  let s := s.setXlt { s.xlt with redirects := s.xlt.redirects.set none (k * 2 ^ 32 + v) (some r) }
  let s : State := { s with poison := lost.foldl (fun (m : SMap Bool) (g : Nat) => m.set false g true) s.poison
                            healed := gs.foldl (fun (m : SMap Bool) (g : Nat) => m.set false g false) s.healed }
  { s with healed := (gs.filter s.lostGranule).foldl (fun (m : SMap Bool) (g : Nat) => m.set false g true) s.healed }

/-- UNIT_RETIRE: a unit that waits for it, and that no pin holds, is redirected to a free reserve unit of its stack, or is
retired without a copy; a pinned one is held (R396, R397, R417, R430, R431, Table 14.10). -/
def execUnitRetire (stack : Fin 12) (unit : Nat) (s : State) : Host.Outcome State Fault Refusal :=
  let k := stack.val
  let v := s.ownerUnit k unit
  match s.offsetOf k (v * 65536) with
  | none => .next s
  | some off =>
    let pinned := s.xlt.pins.any fun p => p.pa / 2 ^ 44 = s.partNo && p.pa % 2 ^ 44 < off + 65536 && off < p.pa % 2 ^ 44 + p.size
    if !(s.stackUp k) || !(s.xlt.retiring.contains (k, unit)) then .next s
    else if pinned then .next (if s.xlt.holding.contains (k, unit) then s else s.setXlt { s.xlt with holding := s.xlt.holding ++ [(k, unit)] })
    else
      let s := match s.replacement k v with
        | some r => s.moveUnitTo k v off r
        | none => s.setXlt { s.xlt with dead := (k * 2 ^ 32 + unit) :: s.xlt.dead }
      let s := s.setXlt { s.xlt with retiring := s.xlt.retiring.filter (fun r => r ≠ (k, unit)), holding := s.xlt.holding.filter fun r => r ≠ (k, unit) }
      let n := (s.stack k).retired.length + 1
      let s := (s.modStack k fun y => { y with retired := unit :: y.retired, marked := y.marked || n > 1024 }).count .retired k 1
      let s := s.stackFault k .unitRetired 5 0
      .next (if n > 1024 then s.raiseAlert 3 else s).releaseUnit

/-! ### Scrubbing, refresh and temperature (R390 to R393, Table 13.5) -/

/-- ROW_ACTIVATION_LIMIT: the row's neighbours are refreshed (R393). -/
def execRowActivationLimit (stack : Fin 12) (pc : Fin 64) (bank : Fin 64) (row : Fin 16384) (s : State) : Host.Outcome State Fault Refusal :=
  let _ := (pc, bank, row)
  if s.stackUp stack.val then .next (s.modStack stack.val fun x => { x with rfm := x.rfm + 1 }) else .next s

/-- The controller reads its stack's on-die error-check-and-scrub counters and its own count of retried transfers into Tally and its
health record (Table 13.1); how far they rose is a free value (log entry 138). -/
def State.readEcs (s : State) (k : Nat) : State :=
  let x := s.stack k
  let lc := s.hallLc (k / 3)
  let n := Config.onDieErrs k lc x.corrOnDie
  let m := Config.linkRetries k lc x.crcRetry
  ((s.modStack k fun x => { x with corrOnDie := x.corrOnDie + BitVec.ofNat 64 n, crcRetry := x.crcRetry + BitVec.ofNat 32 m }).count
    .correctedOnDie k n).count .crcRetry k m

/-- SCRUB_PASS: a full pass has ended; what it corrected is counted (R390, Table 13.8). -/
def execScrubPass (stack : Fin 12) (corrected : Nat) (s : State) : Host.Outcome State Fault Refusal :=
  let k := stack.val
  if !(s.stackUp k) then .next s
  else
    let s := s.modStack k fun x => { x with scrubLc := s.hallLc (k / 3), corrCode := x.corrCode + BitVec.ofNat 64 corrected }
    .next ((if corrected = 0 then s else s.count .correctedCode k corrected).readEcs k)

/-- The refresh rate a reading leads to: it rises above a threshold and falls 3 K below it (R391). In 0.25 °C. -/
def refreshRate (now : Nat) (t : Int) : Nat :=
  if t > 380 then 4
  else if now = 4 && t > 368 then 4
  else if t > 340 then 2
  else if now ≥ 2 && t > 328 then 2
  else 1

/-- HBM_TEMP_READ: the hottest die's reading sets the next refresh rate; above 105 °C the stack is throttled and its hall held
at 0.55 V until 102 °C; at 110 °C the part stops (R391, R392). -/
def execHbmTempRead (stack : Fin 12) (temp : Int) (s : State) : Host.Outcome State Fault Refusal :=
  let k := stack.val
  let h := k / 3
  if !(s.stackUp k) then .next s
  else
    let was := (s.stack k).throttled
    let hot := if was then temp > 408 else temp > 420
    let s := s.modStack k fun x => { x with temp := temp, refreshNext := refreshRate x.refreshNext temp, throttled := hot }
    let hold := [3 * h, 3 * h + 1, 3 * h + 2].any fun j => (s.stack j).throttled
    let s := (s.modHallPower h fun x => { x with hbmHold := hold }).clampHalls
    let s := if hot && !was then (s.stackFault k .stackThrottle 6 0).coolingAlert else s
    .next (if temp ≥ 440 then s.orderlyStop .hbmTemp else s)

/-- PER_BANK_REFRESH: a bank is refreshed at the current rate; a change of rate takes effect (R391). -/
def execPerBankRefresh (stack : Fin 12) (pc : Fin 64) (bank : Fin 64) (s : State) : Host.Outcome State Fault Refusal :=
  let k := stack.val
  let _ := (pc, bank)
  if !(s.stackUp k) || (s.stack k).selfRefresh then .next s
  else .next (s.modStack k fun x => { x with refresh := x.refreshNext, refreshes := x.refreshes + 1 })

/-! ### Health commands (R400, Table 13.7) -/

/-- Granules of a stack that are poisoned now. -/
def State.poisonCount (s : State) (k : Nat) : Nat :=
  let mine := fun (g : Nat) => match s.locate (g * 64) with
    | some (_, j, l) => if j = k then some (s.redirect k l) else none
    | none => none
  let lost := (s.stack k).lostPcs
  let kept := (s.stack k).halted.foldl (fun n e => match e.2 with
    | some lc => n + ((List.range (64 * 16384)).filter fun r => Config.rowRebuilt k e.1 (r / 16384) (r % 16384) lc).length * 32
    | none => n) 0
  let own := s.poison.filter fun e => e.1 < 0x18000000000 / 64 && (match mine e.1 with
    | some l => !(s.lostPlace k l) || s.healed.get false e.1
    | none => false)
  let healed := s.healed.filter fun e => (mine e.1).any (s.lostPlace k)
  own.length + lost.length * (64 * 16384 * 32) - kept - healed.length

/-- STATE of Table 13.8: an excluded stack, one marked for service, a throttled and a conservative one, in this order. -/
def Stack.stateCode (x : Stack) : Nat :=
  if x.excluded then 2 else if x.marked then 4 else if x.throttled then 3 else if x.conservative then 1 else 0

/-- Fewest usable spare rows in any bank. -/
def Stack.spareMin (x : Stack) : Nat := spareRows - x.sparesUsed.foldl (fun m e => max m e.2) 0

/-- The health record (Table 13.8); ERASED names the newest erased pseudo-channel. -/
def State.healthBytes (s : State) (k : Nat) : List Byte :=
  let x := s.stack k
  let er := match x.erased with
    | (pc, done) :: _ => pc + 64 + (if done then 128 else 0)
    | [] => 0
  leBytes 1 k ++ leBytes 1 x.stateCode ++ leBytes 1 x.refresh ++ leBytes 1 er ++ s16 x.temp ++ leBytes 2 0
    ++ leBytes 8 x.corrOnDie.toNat ++ leBytes 8 x.corrCode.toNat ++ leBytes 8 x.recon.toNat
    ++ leBytes 4 (s.poisonCount k) ++ leBytes 4 x.remaps.toNat ++ leBytes 2 x.retired.length ++ leBytes 2 x.spareMin
    ++ leBytes 4 x.crcRetry.toNat ++ leBytes 8 x.scrubLc.toNat ++ leBytes 8 0

/-- MEM_HEALTH (Table 13.7). The header's JOB names the space of its address (DEDUCED, log entry 25). -/
def execMemHealth (h : CmdHdr) (stack va : W64) (s : State) : Host.Outcome State Fault Refusal :=
  command 0x0220 2 true h s fun c s =>
    if inRange stack 0 11 then
      let s := s.readEcs stack.toNat
      s.cmdWrite c h.job va.toNat (s.healthBytes stack.toNat) []
    else s.reply c stInvalid []

/-- MEM_RETIRED (Table 13.7): the newest entries first. -/
def execMemRetired (h : CmdHdr) (stack va cap : W64) (s : State) : Host.Outcome State Fault Refusal :=
  command 0x0221 3 true h s fun c s =>
    if !(inRange stack 0 11) then s.reply c stInvalid []
    else
      let l := (s.stack stack.toNat).retired
      s.cmdWrite c h.job va.toNat ((l.take cap.toNat).flatMap fun u => leBytes 8 (u % 2 ^ 21)) [BitVec.ofNat 64 l.length]

/-- MEM_SCRUB_SET (Table 13.7). -/
def execMemScrubSet (h : CmdHdr) (stack period : W64) (s : State) : Host.Outcome State Fault Refusal :=
  command 0x0222 2 false h s fun c s =>
    if !(inRange period 1 168) then s.reply c stInvalid []
    else if stack = 0xFF then
      ((List.range 12).foldl (fun (s : State) (k : Nat) => s.modStack k fun x => { x with scrubHours := period.toNat }) s).reply c stOk []
    else if inRange stack 0 11 then (s.modStack stack.toNat fun x => { x with scrubHours := period.toNat }).reply c stOk []
    else s.reply c stInvalid []

end Sys2Proof.Machine
end

