-- ==== Sys2Proof/Machine/Startup.lean ====
section
/-! DEFINITION. The start-up sequencer: steps, records, policy, recovery and domain discovery (R542 to R557, R628, R629). -/

namespace Sys2Proof.Machine

/-! ### Step records (R545 to R548) -/

/-- The failure count of a step over earlier records, newest first: it ends at a record where the step ended done, and does
not reach back past a FW_COMMIT; interrupted records, records where the step did not run and MODE 2 records are passed over
(R546, R548, R629). -/
def failures (i : Nat) : List StepRec → Nat
  | [] => 0
  | r :: rest =>
    if r.commit then 0
    else if r.mode = 2 then failures i rest
    else match (r.steps.getD (i - 1) {}).ended with
    | some e => if e = 0x10 || e = 0x11 then failures i rest + 1 else if e = 0x00 || e = 0x01 then 0 else failures i rest
    | none => failures i rest

/-- The newest earlier entry in which a step failed. -/
def lastFailed (i : Nat) : List StepRec → Option (StepRec × StepEntry)
  | [] => none
  | r :: rest =>
    let e := r.steps.getD (i - 1) {}
    if r.mode ≠ 2 && (e.ended = some 0x10 || e.ended = some 0x11) then some (r, e) else lastFailed i rest

/-- Steps whose failure counts lead to recovery (Table 19.6). -/
def mandatorySteps : List Nat := [2, 3, 4, 5, 6, 7, 8, 9]

/-- The body of a configuration bundle (Table 19.7). -/
def Bundle.parse (obj : List Byte) : Bundle :=
  let b := obj.drop 512
  { domainId := BitVec.ofNat 64 (leAt b 0 8), shape := (leAt b 8 1, leAt b 9 1, leAt b 0xA 1, leAt b 0xB 1), discTimeout := leAt b 0xC 4
    clear := BitVec.ofNat 16 (leAt b 0x10 2)
    members := ((List.range 8192).zip (arr 8192 16 (b.drop 0x20))).filterMap fun e => if e.2 = 0 then none else some (e.1, BitVec.ofNat 128 e.2)
    digest := (obj.drop 0x10).take 48 }

/-- The flash header copy in force: the valid one of the higher generation (R541). -/
def Boot.header (b : Boot) : Option FlashHeader :=
  (b.headers.filter (·.valid)).foldl (fun (m : Option FlashHeader) (h : FlashHeader) => match m with
    | some g => if g.gen ≥ h.gen then m else some h
    | none => some h) none

/-- Begin a step: START is written before it begins. -/
def State.openEntry (s : State) (i : Nat) : State :=
  ({ s with startStep := BitVec.ofNat 8 i }).writeStep i fun e => { e with started := true }

/-- End a step (R545). -/
def State.endStep (s : State) (i : Nat) (code action : Byte) (detail : Nat) : State :=
  s.writeStep i fun e => { e with ended := some code, action := action, detail := BitVec.ofNat 32 detail }

/-- A mandatory step fails: the part restarts (R549). -/
def State.failStep (s : State) (i : Nat) (action : Byte) (detail : Nat) (note : Byte) : State :=
  let s := (s.endStep i 0x10 action detail).writeStep i fun e => { e with note := note }
  { s with boot := { s.boot with restart := true } }

/-- A step ends done, or done degraded with the affected units (R550). -/
def State.doneStep (s : State) (i : Nat) (action : Byte) (detail : Nat) : State :=
  s.endStep i (if action = 0 then 0x00 else 0x01) action detail

/-- Records of earlier starts: the current one heads the list. -/
def State.earlier (s : State) : List StepRec := s.boot.records.drop 1

/-- Steps that a bundle's CLEAR makes run as on a first start (R551). -/
def clearedSteps (clear : W16) : List Nat :=
  (if clear.getLsbD 0 || clear.getLsbD 1 || clear.getLsbD 4 then [5] else []) ++ (if clear.getLsbD 1 then [8] else [])
    ++ (if clear.getLsbD 2 then [6] else []) ++ (if clear.getLsbD 3 then [9] else []) ++ (if clear.getLsbD 5 then [7] else [])

/-- The newest failure of a step that this start answers to, if its count is not zero. -/
def State.priorFailure (s : State) (cleared : List Nat) (i : Nat) : Option (StepRec × StepEntry) :=
  if s.boot.mode = 2 || cleared.contains i || failures i s.earlier = 0 then none else lastFailed i s.earlier

/-! ### The steps (Tables 19.4 and 19.6) -/

/-- Bits of a mask as a number. -/
def maskOf (l : List Nat) : Nat := l.foldl (fun n i => n + 2 ^ i) 0

/-- CLEAR acts at the first start that uses its bundle (R551). -/
def State.applyClear (s : State) : State × List Nat :=
  let b := s.boot.bundle
  let r := s.boot.repair
  if b.clear = 0 || r.cleared.contains b.digest then (s, [])
  else
    let c := b.clear
    let r := if c.getLsbD 0 then { r with stallMap := [], aisleMap := [] } else r
    let r := if c.getLsbD 1 then { r with hallFence := 0, meshFail := 0 } else r
    let r := if c.getLsbD 2 then { r with stackPos := [] } else r
    let r := if c.getLsbD 3 then { r with portHalf := 0, portDrop := 0 } else r
    let r := if c.getLsbD 4 then { r with skipExt := false } else r
    let r := if c.getLsbD 5 then { r with tillFail := 0 } else r
    ({ s with boot := { s.boot with repair := { r with cleared := b.digest :: r.cleared } } }, clearedSteps c)

/-- Areas that step 3 uses: those of the header, the other firmware area by strap, and the other area of an object that failed
in the last failed start (Tables 19.2, 19.6). -/
def State.areasFor (s : State) (hd : FlashHeader) : Bool × Bool :=
  let fw := if s.boot.straps.bootSel = 1 then !hd.fwArea else hd.fwArea
  match if failures 3 s.boot.records = 0 then none else lastFailed 3 s.boot.records with
  | some (r, e) => (if e.note.getLsbD 0 then !r.fwArea else fw, if e.note.getLsbD 1 then !r.cfgArea else hd.cfgArea)
  | none => (fw, hd.cfgArea)

/-- Recovery mode (R552): PSTATE 2, units unpowered, ports dark; a start record of MODE 1 where the flash is readable. -/
def State.recover (s : State) (step : Nat) (readable : Bool) : State :=
  let hd := s.boot.header.getD {}
  let r : StepRec := { startNo := (match s.boot.records with | r :: _ => r.startNo + 1 | [] => 1), cause := s.boot.cause, straps := s.boot.straps
                       fwArea := hd.fwArea, cfgArea := hd.cfgArea, mode := 1 }
  let recs := if readable then (r :: s.boot.records).take 512 else s.boot.records
  { s with pstate := 2, startStep := 2, boot := { s.boot with mode := 1, recoveryStep := step, records := recs } }

/-- A failed stall is spared at once, or its aisle retired (R18, R20, R544). -/
def State.spareStall (s : State) (k : Nat) : State :=
  let a := aisleOf k
  if (s.aisle a).gone || (s.aisle a).fenced then s
  else
    let s := s.fenceStall k .stallUe
    if (s.aisle a).gone then s
    else if (s.aisle a).fenced then (if (s.hall (a / 36)).axFor.isNone then s.useAx a else s)
    else if (s.aisle a).sxFor.isNone then s.useSx k else s

/-- The replacement map is applied: spares stand for the units it lists (R22). -/
def State.applyMap (s : State) : State :=
  let r := s.boot.repair
  let s := r.aisleMap.foldl (fun (s : State) (e : Nat × Option Nat) => match e.2 with
    | some i => (s.setHall e.1 { s.hall e.1 with axFor := some i }).setAisle (e.1 * 36 + i) { onSpare := true }
    | none => s) s
  r.stallMap.foldl (fun (s : State) (e : Nat × Option Nat) => match e.2 with
    | some i => (s.setAisle e.1 { s.aisle e.1 with sxFor := some i }).modStall (e.1 * 16 + i) fun x => { x with onSpare := true }
    | none => s) s

/-- Step 5: halls come up at 0.75 V, the repair log applies, self-tests run (R544, R550, Table 19.6). True: the start goes
on; with a replacement applied or made, degraded (R22). -/
def State.step5 (s : State) (f : StartupFacts) (cleared : List Nat) : Bool × State :=
  let s := match s.priorFailure cleared 5 with
    | none => s
    | some (_, e) =>
      let halls : BitVec 4 := e.detail.setWidth 4
      s.logRepair fun r =>
        { r with hallFence := r.hallFence ||| halls, meshFail := r.meshFail ||| (halls &&& ~~~(bits e.note 1 4)), skipExt := r.skipExt || e.note.getLsbD 0 }
  let r := s.boot.repair
  let bad := f.hallFail &&& ~~~r.hallFence
  let ext := f.extFail && !r.skipExt
  if bad ≠ 0 || ext then
    (false, s.failStep 5 (if r.skipExt then 2 else if r.hallFence ≠ 0 then 1 else 0) bad.toNat (BitVec.ofNat 8 ((if ext then 1 else 0) + 2 * f.meshPass.toNat)))
  else
    let s := [0, 1, 2, 3].foldl (fun (s : State) (h : Nat) =>
      if r.hallFence.getLsbD h then s.setHall h { s.hall h with fenced := true, meshUp := !(r.meshFail.getLsbD h) }
      else s.modHallPower h fun x => { x with mv := 750 }) s
    let s := s.applyMap
    let s := (f.stallFail.map skey).foldl (fun (s : State) (k : Nat) => if (s.hall (hallOf k)).fenced then s else s.spareStall k) s
    let s := [0, 1, 2, 3].foldl (fun (s : State) (h : Nat) => if f.rootFail.getLsbD h && !(s.hall h).fenced then s.failRoot h else s) s
    let action : Byte := if r.skipExt then 2 else if r.hallFence ≠ 0 then 1 else 0
    let degraded := action ≠ 0 || !(r.aisleMap.isEmpty && r.stallMap.isEmpty) || !f.stallFail.isEmpty
    (true, s.endStep 5 (if degraded then 0x01 else 0x00) action r.hallFence.toNat)

/-- One position down, unless the stack is excluded or its hall has an excluded stack already (Table 19.6). -/
def moveDown (m : SMap StackPos) (k : Nat) : SMap StackPos :=
  let h := k / 3
  match m.get .full k with
  | .full => m.set .full k .conservative
  | .conservative => if [3 * h, 3 * h + 1, 3 * h + 2].any fun j => m.get .full j = .excluded then m else m.set .full k .excluded
  | .excluded => m

/-- Step 6: stacks train at the rate their mode sets (R380, R382, Table 19.6). -/
def State.step6 (s : State) (f : StartupFacts) (cleared : List Nat) : Bool × State :=
  let s := match s.priorFailure cleared 6 with
    | none => s
    | some (_, e) => s.logRepair fun r =>
      { r with stackPos := ((List.range 12).filter fun k => e.detail.getLsbD k).foldl moveDown r.stackPos }
  let r := s.boot.repair
  let out := fun (k : Nat) => r.stackPos.get .full k = .excluded || (r.hallFence.getLsbD (k / 3) && r.meshFail.getLsbD (k / 3))
  let bad := (List.range 12).filter fun k => f.stackFail.getLsbD k && !(out k)
  let low := (List.range 12).filter fun k => out k || r.stackPos.get .full k = .conservative
  if !bad.isEmpty then (false, s.failStep 6 (if low.isEmpty then 0 else 1) (maskOf bad) 0)
  else
    let s := (List.range 12).foldl (fun (s : State) (k : Nat) =>
      s.modStack k fun x => { x with excluded := out k, conservative := r.stackPos.get .full k = .conservative }) s
    (true, s.doneStep 6 (if low.isEmpty then 0 else 1) (maskOf low))

/-- Step 7: Tills load; at a further failure the failed Tills are marked FAILED and the start goes on (Table 19.6). -/
def State.step7 (s : State) (f : StartupFacts) (cleared : List Nat) : Bool × State :=
  let bad := (List.range 12).filter fun k => f.tillFail.getLsbD k && !(s.stack k).excluded && !(s.boot.repair.tillFail.getLsbD k)
  if !bad.isEmpty && (s.priorFailure cleared 7).isNone then
    (false, s.failStep 7 (if s.boot.repair.tillFail = 0 then 0 else 1) (maskOf bad) 0)
  else
    let s := s.logRepair fun r => { r with tillFail := r.tillFail ||| BitVec.ofNat 12 (maskOf bad) }
    let gone := (List.range 12).filter fun k => s.boot.repair.tillFail.getLsbD k
    let s := gone.foldl (fun (s : State) (k : Nat) => s.modTillOf k fun t => { t with pipes := 0 }) s
    (true, s.doneStep 7 (if gone.isEmpty then 0 else 1) (maskOf gone))

/-- The hub's count goes on from the halls' new counts: what commands still wait for keeps the time it has waited (R638). -/
def State.restartHubLc (s : State) : State :=
  match s.clockHall with
  | none => s
  | some h =>
    let d := s.refLc - s.hallLc h
    { s.setHost { s.host with cmds := s.host.cmds.map fun c => { c with fetched := c.fetched - d } } with refLc := s.hallLc h }

/-- Step 8: every hall's counter starts at 0; at a further failure the hall is fenced (R4, R602, Table 19.6). -/
def State.step8 (s : State) (f : StartupFacts) (cleared : List Nat) : Bool × State :=
  let bad := [0, 1, 2, 3].filter fun h => f.calFail.getLsbD h && !(s.hall h).fenced
  if !bad.isEmpty && (s.priorFailure cleared 8).isNone then (false, s.failStep 8 0 (maskOf bad) 0)
  else
    let s := s.logRepair fun r => { r with hallFence := r.hallFence ||| BitVec.ofNat 4 (maskOf bad) }
    let s := bad.foldl (fun (s : State) (h : Nat) =>
      (s.setHall h { s.hall h with fenced := true }).modHallPower h fun x => { x with mv := 0 }) s
    let s := [0, 1, 2, 3].foldl (fun (s : State) (h : Nat) =>
      if (s.hall h).fenced then s else s.setHall h { s.hall h with lc := 0, lcRunning := true }) s
    let s := s.restartHubLc
    (true, s.doneStep 8 (if bad.isEmpty then 0 else 1) (maskOf bad))

/-- Step 9: every port of a ring trains unless it is dropped; after a failure failed ports train at half rate, and at a further
one they are dropped (R448, Table 19.6). -/
def State.step9 (s : State) (f : StartupFacts) (cleared : List Nat) : Bool × State :=
  let s := { s with fab := { s.fab with shape := if s.boot.mode = 2 then (1, 1, 1, 1) else s.boot.bundle.shape } }
  let prior := s.priorFailure cleared 9
  let s := match prior with
    | none => s
    | some (_, e) => s.logRepair fun r => { r with portHalf := r.portHalf ||| e.detail.setWidth 8 }
  let live := (List.range 8).filter fun n => s.axisSize (portAxis n) > 1 && !(s.boot.repair.portDrop.getLsbD n)
  let bad := live.filter fun n => f.portFail.getLsbD n
  if !bad.isEmpty && prior.isNone then
    (false, s.failStep 9 (if s.boot.repair.portHalf ||| s.boot.repair.portDrop = 0 then 0 else 1) (maskOf bad) 0)
  else
    let s := s.logRepair fun r => { r with portDrop := r.portDrop ||| BitVec.ofNat 8 (maskOf bad) }
    let r := s.boot.repair
    let low := (List.range 8).filter fun n => r.portHalf.getLsbD n || r.portDrop.getLsbD n
    (true, s.doneStep 9 (if low.isEmpty then 0 else 1) (maskOf low))

/-! ### Domain discovery (R555 to R557) and the last step -/

/-- The part number under which a bundle lists this part, if its T coordinate is QUAD_POS (R556). -/
def State.listedAs (s : State) : Option Nat :=
  match s.boot.bundle.members.find? fun e => e.2 = s.boot.serial with
  | some e => if e.1 % 4 = s.boot.straps.quadPos.toNat && e.1 < 8192 && s.boot.serial ≠ 0 then some e.1 else none
  | none => none

/-- Ports that must carry a partner: of an axis larger than 1, and not dropped (R434, R556). -/
def State.partnerPorts (s : State) : List Nat :=
  (List.range 8).filter fun n => s.axisSize (portAxis n) > 1 && !(s.boot.repair.portDrop.getLsbD n)

/-- Step 11: the part is ready, and the SVN floor rises to that of its firmware (R561). -/
def State.ready (s : State) : State :=
  let s := ((s.openEntry 11).endStep 11 0x00 0 0)
  { s with pstate := 1, boot := { s.boot with svnFloor := max s.boot.svnFloor s.boot.fwSvn } }

/-- Step 10 completes once every expected partner has answered (R556, R557). An END of 0x12 stays as written. -/
def State.discover (s : State) : State :=
  if s.listedAs.isSome && (s.partnerPorts.all fun n => s.boot.partnerOk.getLsbD n) then
    (if (s.entry 10).ended.isSome then s else s.endStep 10 0x00 0 0).ready
  else s

/-- Step 10 begins: the ports open and each sends the part's serial number (R556). In manufacturing test mode it is skipped,
and the part is number 0 of a domain of itself (R628). -/
def State.step10 (s : State) : State :=
  let s := s.openEntry 10
  if s.boot.mode = 2 then State.ready ({ s with partNo := 0 }.endStep 10 0x00 2 0)
  else
    let s := { s with partNo := s.listedAs.getD 0 }
    let s := (List.range 8).foldl (fun (s : State) (n : Nat) =>
      if s.axisSize (portAxis n) ≤ 1 then s
      else if s.boot.repair.portDrop.getLsbD n then
        (s.portState n .failed).setFab { (s.portState n .failed).fab with failedLinks := s.fab.failedLinks ++ [s.linkOf n] }
      else (s.openPort n (portGroups n)).send (.discovery n)) s
    s.discover

/-! ### The rows -/

/-- The steps of a start after step 2, as far as the report goes; each runs only when the one before it ended done. -/
def State.runSteps (s : State) (f : StartupFacts) (cleared : List Nat) : List Nat → State
  | [] => s.step10
  | i :: rest =>
    let s := s.openEntry i
    if f.hangAt = i then s
    else
      let (on, s) :=
        if i = 4 then (if f.step4Fail then (false, s.failStep 4 0 0 0) else (true, s.doneStep 4 0 0))
        else if i = 5 then s.step5 f cleared
        else if i = 6 then s.step6 f cleared
        else if i = 7 then s.step7 f cleared
        else if i = 8 then s.step8 f cleared
        else s.step9 f cleared
      if on then s.runSteps f cleared rest else s

/-- Steps 2 and 3: the header, the record, recovery, and the objects that start (R541, R549, R552 to R554, R559). -/
def State.startUp (s : State) (f : StartupFacts) : State :=
  let counts := mandatorySteps.filter fun i => failures i s.boot.records ≥ 3
  match if f.noHeader then none else s.boot.header with
  | none => s.recover 0 false
  | some hd =>
    if s.boot.straps.bootSel = 2 then s.recover 0 true
    else match if s.boot.straps.bootSel = 1 then none else counts.head? with
    | some i => s.recover i true
    | none =>
      let areas := s.areasFor hd
      let mode : Byte := if s.boot.straps.bootSel = 3 then 2 else 0
      let r : StepRec := { startNo := (match s.boot.records with | r :: _ => r.startNo + 1 | [] => 1), cause := s.boot.cause, straps := s.boot.straps
                           fwArea := areas.1, cfgArea := areas.2, mode := mode }
      let s : State := { s with boot := { s.boot with records := (r :: s.boot.records).take 512, mode := mode } }
      let s := (((s.openEntry 1).doneStep 1 0 0).openEntry 2)
      if f.hangAt = 2 then s
      else if f.step2Fail then s.failStep 2 0 0 0
      else
        let s := (s.doneStep 2 0 0).openEntry 3
        let alt : Byte := if areas = (hd.fwArea, hd.cfgArea) then 0 else 1
        if f.hangAt = 3 then s
        else if f.fwFail || f.cfgFail then s.failStep 3 alt 0 ((if f.fwFail then 1 else 0) + (if f.cfgFail then 2 else 0))
        else
          let cfg := s.boot.cfgAreas.get [] (if areas.2 then 1 else 0)
          let s : State := if cfg.isEmpty then s else { s with boot := { s.boot with bundle := Bundle.parse cfg } }
          let fw := s.boot.fwAreas.get [] (if areas.1 then 1 else 0)
          let s : State := if fw.isEmpty then s else { s with boot := { s.boot with fwDigest := (fw.drop 0x10).take 48, fwSvn := leAt fw 8 4 } }
          let s := s.endStep 3 0x00 alt 0
          let (s, cleared) := s.applyClear
          s.runSteps f cleared [4, 5, 6, 7, 8, 9]

/-- SUPPLY_CHECK_DONE: the conditions of step 1 hold together and the start proceeds (Table 19.4). A part whose VHUB or VPHY
rail was lost fails step 1 (R575). -/
def execSupplyCheckDone (f : StartupFacts) (s : State) : Host.Outcome State Fault Refusal :=
  if s.power.supply = .on && s.pstate = 0 && s.startStep.toNat ≤ 1 && !s.boot.repair.railFail then .next (s.startUp f) else .next s

/-- STARTUP_STEP_BOUND: the running step exceeds its bound; END 0x11, and the part is to restart (R547, R549). -/
def execStartupStepBound (step : Fin 12) (s : State) : Host.Outcome State Fault Refusal :=
  if s.running = some step.val && step.val ≤ 9 then
    let s := s.endStep step.val 0x11 0 0
    .next { s with boot := { s.boot with restart := true } }
  else .next s

/-- DISCOVERY_PARTNER: a serial number arrives on a port in step 10 (R556, R557). -/
def execDiscoveryPartner (port : Fin 8) (serial : BitVec 128) (s : State) : Host.Outcome State Fault Refusal :=
  let n := port.val
  if s.pstate ≠ 0 || s.startStep ≠ 10 || (s.port n).st ≠ .inService || s.power.supply ≠ .on then .next s
  else
    let bit : BitVec 8 := (1 : BitVec 8) <<< n
    let ok := s.listedAs.isSome && serial = s.boot.bundle.members.get 0 (s.partnerOf n)
    let b := s.boot
    let b := if ok then { b with partnerOk := b.partnerOk ||| bit, partnerWrong := b.partnerWrong &&& ~~~bit }
      else { b with partnerOk := b.partnerOk &&& ~~~bit, partnerWrong := b.partnerWrong ||| bit }
    .next (State.discover { s with boot := b })

/-- DISC_TIMEOUT: wrong or missing partners; the step is recorded as waiting and goes on waiting (R557). -/
def execDiscTimeout (s : State) : Host.Outcome State Fault Refusal :=
  if s.pstate = 0 && s.startStep = 10 && (s.entry 10).ended.isNone && s.power.supply = .on then
    .next (s.endStep 10 0x12 0 (maskOf (s.partnerPorts.filter fun n => !(s.boot.partnerOk.getLsbD n))))
  else .next s

end Sys2Proof.Machine
end

