-- ==== Sys2Proof/Machine/Tools.lean ====
section
/-! DEFINITION. Self-test, margining and trace capture (chapter 23). -/

namespace Sys2Proof.Machine

/-- Whether any graph is resident. -/
def State.anyResident (s : State) : Bool := !s.residents.isEmpty

/-! ### SELFTEST (R630, R631, Table 23.1) -/

/-- A failed aisle is retired, and AX replaces it at once when it is free (Table 23.1). -/
def State.spareAisle (s : State) (a : Nat) : State :=
  if (s.aisle a).fenced || (s.aisle a).gone || (s.hall (a / 36)).fenced then s
  else
    let free := (s.hall (a / 36)).axFor.isNone
    let s := s.fenceAisle a .aisleUe
    if free then s.useAx a else s

/-- A Till loses a pipeline; with the fourth it is out of service (R316). -/
def State.loseTillPipe (s : State) (k : Nat) : State :=
  outState s (execTillPipeFail (Fin.ofNat 12 k) s)

/-- The stores a test exercises hold nothing any more (R630, DESIGN CHOICE, log entry 1). -/
def State.destroyStores (s : State) (mask : W64) : State :=
  let all := mask.getLsbD 4
  let s : State := if mask.getLsbD 0 || all then { s with scratch := [] } else s
  if mask.getLsbD 1 || all then
    { s with aisleMem := [], mem := s.mem.filter fun c => !(0xE0000000000 ≤ c.1 && c.1 < 0xE0010000000) }
  else s

/-- Failing units of the tests the mask names. -/
def namedFailures (f : SelfTestFacts) (mask : W64) : SelfTestFacts :=
  let all := mask.getLsbD 4
  { stalls := if mask.getLsbD 0 || all then f.stalls else []
    aisles := if mask.getLsbD 1 || all then f.aisles else []
    meshes := if mask.getLsbD 1 || all then f.meshes else 0
    tills := if mask.getLsbD 2 || all then f.tills else 0
    roots := if mask.getLsbD 3 then f.roots else 0
    sagged := f.sagged }

/-- What follows the failures (Table 23.1): stalls and aisles are spared, halls fenced, pipelines lost, ROOTs marked. -/
def State.takeFailures (s : State) (f : SelfTestFacts) : State :=
  let s := (f.stalls.map skey).foldl (fun (s : State) (k : Nat) => if (s.hall (hallOf k)).fenced then s else s.spareStall k) s
  let s := f.aisles.foldl (fun (s : State) (a : Fin 4 × Fin 36) => s.spareAisle (aisleKey a.1.val a.2.val)) s
  let s := [0, 1, 2, 3].foldl (fun (s : State) (h : Nat) => if f.meshes.getLsbD h then s.fenceHall h true .hallUe else s) s
  let s := (List.range 12).foldl (fun (s : State) (k : Nat) => if f.tills.getLsbD k then s.loseTillPipe k else s) s
  [0, 1, 2, 3].foldl (fun (s : State) (h : Nat) => if f.roots.getLsbD h && !(s.hall h).fenced then s.failRoot h else s) s

/-- SELFTEST: the named tests run on a part with no resident graph; a sag below 42 V stops them (R630, R631). -/
def execSelftest (h : CmdHdr) (mask : W64) (facts : SelfTestFacts) (s : State) : Host.Outcome State Fault Refusal :=
  command 0x0960 1 false h s fun c s =>
    if !(inRange mask 0 31) then s.reply c stInvalid []
    else if s.anyResident then s.reply c stBusy []
    else
      let s := s.destroyStores mask
      if facts.sagged then s.reply c 0x0F []
      else
        let f := namedFailures facts mask
        let per := fun (x : Nat) => (f.stalls.filter fun st => st.hall.val = x).length
        let none_ := f.stalls.isEmpty && f.aisles.isEmpty && f.meshes = 0 && f.tills = 0 && f.roots = 0
        (s.takeFailures f).reply c (if none_ then 0x10 else 0x11)
          [BitVec.ofNat 64 (per 0 + per 1 * 2 ^ 16 + per 2 * 2 ^ 32 + per 3 * 2 ^ 48), f.tills.setWidth 64, f.roots.setWidth 64]

/-! ### Margins (R632, R633, Table 23.2) -/

/-- Offsets below 0 in a row with 0 that pass. -/
def runDown (p : BitVec 64) : Nat → Nat
  | 0 => 0
  | n + 1 => if p.getLsbD n then runDown p n + 1 else 0
/-- Offsets above 0 in a row with 0 that pass: from bit 63 − n. -/
def runUp (p : BitVec 64) : Nat → Nat
  | 0 => 0
  | n + 1 => if p.getLsbD (63 - n) then runUp p n + 1 else 0

/-- The window: the run of passing points that contains offset 0, bit 32 (R633); `none` when 0 fails. Its lowest and highest
offsets. -/
def marginWindow (p : BitVec 64) : Option (Int × Int) :=
  if p.getLsbD 32 then some (-(runDown p 32 : Int), (runUp p 31 : Int)) else none

/-- Points of a window. -/
def windowPoints (p : BitVec 64) : Nat := match marginWindow p with
  | some (a, b) => (b - a + 1).toNat
  | none => 0

/-- A window as two signed 16-bit offsets; an empty one reads 0 to −1. -/
def windowBytes (p : BitVec 64) : List Byte := match marginWindow p with
  | some (a, b) => s16 a ++ s16 b
  | none => s16 0 ++ s16 (-1)

/-- MARGIN_HBM: a window per selected pseudo-channel, then the marginal mask (R632, R633, Table 23.2). -/
def execMarginHbm (h : CmdHdr) (stack mask param : W64) (pass : List (BitVec 64)) (s : State) : Host.Outcome State Fault Refusal :=
  command 0x0961 3 false h s fun c s =>
    if !(inRange stack 0 11) || !(inRange param 0 3) then s.reply c stInvalid []
    else if s.anyResident then s.reply c stBusy []
    else
      let pcs := ((List.range 64).filter fun i => mask.getLsbD i).zip pass
      let marginal := fun (p : BitVec 64) => if param.toNat < 2 then decide (windowPoints p * 100 < 40 * 64) else decide (windowPoints p * 5 < 60)
      let bad := maskOf ((pcs.filter fun x => marginal x.2).map (·.1))
      let b := (pcs.flatMap fun x => windowBytes x.2) ++ leBytes 8 bad
      s.replyBulk c b [BitVec.ofNat 64 b.length]

/-- Lanes of a port: four in each lane group of an optical port, eight in each of an electrical one. -/
def portLanes (n : Nat) : Nat := if n < 2 then 96 else 32

/-- MARGIN_LINK: a window per lane, or per eye for voltage, then the marginal mask (R632, R633, Table 23.2). -/
def execMarginLink (h : CmdHdr) (port maskLo maskHi param : W64) (pass : List (BitVec 64)) (s : State) : Host.Outcome State Fault Refusal :=
  command 0x0962 4 false h s fun c s =>
    let lanes := (List.range 128).filter fun i => if i < 64 then maskLo.getLsbD i else maskHi.getLsbD (i - 64)
    if !(inRange port 0 7) || !(inRange param 0 1) || (lanes.any fun i => i ≥ portLanes port.toNat) then s.reply c stInvalid []
    else if s.anyResident then s.reply c stBusy []
    else
      let eyes := if param = 1 then lanes.flatMap fun i => [i, i, i] else lanes
      let ws := eyes.zip pass
      let marginal := fun (p : BitVec 64) => if param = 0 then decide (windowPoints p * 100 < 25 * 64) else decide (windowPoints p * 2 < 20)
      let bad := maskOf (((ws.filter fun x => marginal x.2).map (·.1)).eraseDups)
      let b := (ws.flatMap fun x => windowBytes x.2) ++ leBytes 16 bad
      s.replyBulk c b [BitVec.ofNat 64 b.length]

/-! ### Trace capture (R634, R635, Table 23.4) -/

/-- The key under which the trace buffer's pins stand, in place of a graph. -/
def tracePinKey : Nat := 1024

/-- Local offset of each 64 KiB unit of a pinned buffer; `none` where one lies on another part. -/
def State.traceUnits (s : State) (job : Byte) (va : Nat) : Nat → Option (List Nat)
  | 0 => some []
  | n + 1 => match s.walk job .write va, s.traceUnits job (va + 65536) n with
    | .page pa _ _, some l => if pa / 2 ^ 44 = s.partNo then some (pa % 2 ^ 44 :: l) else none
    | _, _ => none

/-- TRACE_CONFIG (R634). The header's JOB names the space of its buffer (DEDUCED, log entry 25). -/
def execTraceConfig (h : CmdHdr) (va size trig cls events post : W64) (s : State) : Host.Outcome State Fault Refusal :=
  command 0x0968 6 true h s fun c s =>
    if va.toNat % 65536 ≠ 0 || size = 0 || size.toNat % 262144 ≠ 0 || !(inRange trig 0 7) || !(inRange cls 0 255)
        || !(inRange events 0 1023) || events.getLsbD 0 then s.reply c stInvalid []
    else if s.trace.cfg.isSome || (trig.getLsbD 0 && s.host.claimed .syncIn 0) then s.reply c stConflict []
    else match s.traceUnits h.job va.toNat (size.toNat / 65536),
        s.probeAll 4 tracePinKey 0 h.job [{ va := va.toNat, len := size.toNat, write := true }] [] with
      | some us, .ok ps =>
        if s.pinsIn 4 + ps.length > pinRoom then s.parkCmd c
        else
          let cfg : TraceCfg := { job := h.job, va := va.toNat, size := size.toNat, units := us, trig := bits trig 0 3, cls := bits cls 0 8
                                  events := bits events 0 10, post := post.toNat }
          let s := s.setXlt { s.xlt with pins := s.xlt.pins ++ ps }
          let s : State := { s with trace := { cfg := some cfg } }
          let s := if trig.getLsbD 0 then s.claim { kind := .syncIn, index := 0, job := h.job, opcode := 0x0968 } else s
          s.reply c stOk []
      | _, _ => s.reply c stInvalid []

/-- TRACE_ARM: capture begins, unless it runs already; FIRE triggers it where the trigger mask names it (R634, R635). -/
def execTraceArm (h : CmdHdr) (flags : W64) (s : State) : Host.Outcome State Fault Refusal :=
  command 0x0969 1 false h s fun c s =>
    match s.trace.cfg with
    | none => s.reply c stNotFound []
    | some cfg =>
      if !(inRange flags 0 1) then s.reply c stInvalid []
      else
        let s : State := if s.trace.armed && !s.trace.fired then s else { s with trace := { cfg := some cfg, armed := true } }
        let s := if flags.getLsbD 0 && cfg.trig.getLsbD 2 then s.traceTrigger else s
        s.reply c stOk []

/-- TRACE_RELEASE: the buffer and the claim are free (R634). -/
def execTraceRelease (h : CmdHdr) (s : State) : Host.Outcome State Fault Refusal :=
  command 0x096A 0 false h s fun c s =>
    let s : State := { s with trace := {} }
    ((s.unpin fun p => p.graph = tracePinKey).unclaim fun x => x.kind = .syncIn && x.opcode = 0x0968).reply c stOk []

/-- TRACE_STATUS: four fields per hall, to bulk (R527, Table 23.4). -/
def execTraceStatus (h : CmdHdr) (s : State) : Host.Outcome State Fault Refusal :=
  command 0x096B 0 false h s fun c s =>
    let b := [0, 1, 2, 3].flatMap fun i =>
      let x := s.traceHall i
      leBytes 8 x.written ++ leBytes 8 x.dropped ++ leBytes 8 (if x.stopped then 1 else 0) ++ leBytes 8 x.trigAt
    s.replyBulk c b [BitVec.ofNat 64 b.length]

/-- TRIG_IN_EDGE: where trace capture holds the land, the edge triggers it; every edge takes a sync mark (R604, R634,
R635). -/
def execTrigInEdge (s : State) : Host.Outcome State Fault Refusal :=
  if s.power.supply = .off then .next s
  else
    let s := s.ownMark 2
    .next (if s.trace.cfg.any fun c => c.trig.getLsbD 0 then s.traceTrigger else s)

end Sys2Proof.Machine
end

