-- ==== Sys2Proof/Machine/HostLink.lean ====
section
/-! DEFINITION. BAR0, the command ring, interrupts and the resets of the host interface (R509 to R530). -/

namespace Sys2Proof.Machine

/-! ### Writing what waits (R512, R514, R526, R529) -/

/-- Replies that waited go to their reserved entries, oldest first, as the ring has room. -/
def drainReplies : Nat → State → State
  | 0, s => s
  | n + 1, s => match s.host.replies with
    | [] => s
    | b :: r => if s.host.writes && s.host.used < s.host.rplSize then drainReplies n ((s.setHost { s.host with replies := r }).writeEntry 1 b) else s

/-- Waiting replies, then held entries, are written while the ring has room (R526). -/
def State.drainRing (s : State) : State :=
  let s := drainReplies s.host.replies.length s
  drainEvents (s.host.events.length + 2) s

/-- Whether BAR0 answers: from step 2 on (Table 19.4). -/
def State.bar0Up (s : State) : Bool := s.power.supply ≠ .off && s.startStep.toNat ≥ 2

/-! ### BAR0 (R513 to R516, Table 18.2) -/

/-- BAR0_DOORBELL: CMD_TAIL takes a valid count; an invalid one sets RING_OVERRUN (R516). -/
def execBar0Doorbell (v : W64) (s : State) : Host.Outcome State Fault Refusal :=
  let t : W32 := v.setWidth 32
  if !s.bar0Up then .next s
  else if (t - s.host.cmdHead).toNat ≤ 2 ^ s.host.cmdLog2.toNat then .next (s.setHost { s.host with cmdTail := t })
  else .next (s.setErr 0)

/-- BAR0_ENABLE_WRITE: a rise clears the four counts and the DMA stop, and what waits is written; a fall stops fetch and
writes (R514, R529). -/
def execBar0EnableWrite (v : W64) (s : State) : Host.Outcome State Fault Refusal :=
  if !s.bar0Up then .next s
  else if v.getLsbD 0 then
    if s.host.enable then .next s
    else
      .next (s.setHost { s.host with enable := true, dmaStopped := false, cmdTail := 0, cmdHead := 0, rplTail := 0, rplHead := 0 }).drainRing
  else .next (s.setHost { s.host with enable := false })

/-- BAR0_RPL_HEAD_WRITE: entries free, and what waits is written (R525, R526). -/
def execBar0RplHeadWrite (v : W64) (s : State) : Host.Outcome State Fault Refusal :=
  if !s.bar0Up then .next s else .next (s.setHost { s.host with rplHead := v.setWidth 32 }).drainRing

/-- BAR0_ERR_CLEAR: ones clear their bits of offset 0x0060 (Table 18.2). -/
def execBar0ErrClear (v : W64) (s : State) : Host.Outcome State Fault Refusal :=
  if !s.bar0Up then .next s else .next (s.setHost { s.host with err := s.host.err &&& ~~~(bits v 0 4) })

/-- A write into the MSI-X table (R513): a vector's address, or its data and mask; an unmasked pending vector is sent. -/
def State.msixWrite (s : State) (off : Nat) (v : W64) : State :=
  let i := (off - 0x8000) / 16
  let x := s.host.msix.get {} i
  if off % 16 = 0 then s.setHost { s.host with msix := s.host.msix.set {} i { x with addr := v } }
  else
    let s := s.setHost { s.host with msix := s.host.msix.set {} i { x with data := v.setWidth 32, masked := v.getLsbD 32 } }
    if !(v.getLsbD 32) && s.host.pba.getLsbD i then (s.setHost { s.host with pba := s.host.pba &&& ~~~((1 : W64) <<< i) }).msix i else s

/-- BAR0_REG_WRITE: the registers that only store. Ring registers keep their values while ENABLE is 1; a value outside a
field's range leaves the field (R514, Table 18.2). Other offsets have their own rows, or are read-only or reserved. -/
def execBar0RegWrite (offset : W16) (v : W64) (s : State) : Host.Outcome State Fault Refusal :=
  let o := offset.toNat
  let h := s.host
  if !s.bar0Up || o % 8 ≠ 0 then .next s
  else if 0x8000 ≤ o && o < 0x8400 then .next (s.msixWrite o v)
  else if o = 0x0070 then .next (s.setHost { h with irqMap := v &&& 0x3F3F3F3F3F3F3F3F })
  else if o = 0x0078 then
    let k := bits v 16 8
    .next (s.setHost { h with holdoff := bits v 0 16, coalesce := if k = 0 then h.coalesce else k })
  else if h.enable then .next s
  else if o = 0x0018 then .next (s.setHost { h with cmdLoc := v.getLsbD 0, cmdBase := bits v 12 52 })
  else if o = 0x0020 then
    let k := bits v 0 4
    .next (if 4 ≤ k.toNat && k.toNat ≤ 12 then s.setHost { h with cmdLog2 := k } else s)
  else if o = 0x0038 then .next (s.setHost { h with rplBase := bits v 12 52 })
  else if o = 0x0040 then
    let k := bits v 0 5
    .next (if 6 ≤ k.toNat && k.toNat ≤ 16 then s.setHost { h with rplLog2 := k } else s)
  else .next s

/-- CREDITS: free admission entries (Table 18.2). -/
def HostIf.credits (h : HostIf) : Nat := 256 - (h.cmds.filter fun c => c.phase ≠ .long).length
/-- LONGFREE: free long-command places (Table 18.2). -/
def HostIf.longFree (h : HostIf) : Nat := 64 - (h.cmds.filter fun c => c.phase = .long).length

/-- The ID register (Table 18.2). -/
def idRegister : W64 := 0x01B10A35

/-- A BAR0 register as software reads it (Table 18.2). -/
def State.bar0Read (s : State) (o : Nat) : W64 :=
  let h := s.host
  if o = 0x0000 then idRegister
  else if o = 0x0008 then BitVec.ofNat 64 (s.pstate.toNat + s.startStep.toNat * 2 ^ 8 + s.partNo * 2 ^ 32)
  else if o = 0x0010 then (if h.enable then 1 else 0)
  else if o = 0x0018 then BitVec.ofNat 64 ((if h.cmdLoc then 1 else 0) + h.cmdBase.toNat * 2 ^ 12)
  else if o = 0x0020 then h.cmdLog2.setWidth 64
  else if o = 0x0028 then h.cmdTail.setWidth 64
  else if o = 0x0030 then h.cmdHead.setWidth 64
  else if o = 0x0038 then BitVec.ofNat 64 (h.rplBase.toNat * 2 ^ 12)
  else if o = 0x0040 then h.rplLog2.setWidth 64
  else if o = 0x0048 then h.rplTail.setWidth 64
  else if o = 0x0050 then h.rplHead.setWidth 64
  else if o = 0x0058 then BitVec.ofNat 64 (h.credits + h.longFree * 2 ^ 16)
  else if o = 0x0060 then h.err.setWidth 64
  else if o = 0x0068 then h.lostCount.setWidth 64
  else if o = 0x0070 then h.irqMap
  else if o = 0x0078 then BitVec.ofNat 64 (h.holdoff.toNat + h.coalesce.toNat * 2 ^ 16)
  else if 0x8000 ≤ o ∧ o < 0x8400 then
    let x := h.msix.get {} ((o - 0x8000) / 16)
    if o % 16 = 0 then x.addr else if o % 16 = 8 then BitVec.ofNat 64 (x.data.toNat + if x.masked then 2 ^ 32 else 0) else 0
  else if o = 0x9000 then h.pba
  else 0

/-! ### Fetch and admission (R517, R520 to R522) -/

/-- Whether the next slot may be fetched (R520, R512, R514, R529). -/
def HostIf.mayFetch (h : HostIf) : Bool :=
  h.enable && !h.d3hot && !h.dmaStopped && h.cmdTail ≠ h.cmdHead && h.credits > 0 && h.used + h.reserved < h.rplSize

/-- COMMAND_FETCH: the next slot is consumed and admitted; one whose SEQ is not its count answers BAD_SLOT (R517, R520). -/
def execCommandFetch (opcode : W16) (hdr : CmdHdr) (s : State) : Host.Outcome State Fault Refusal :=
  if !s.coresRun || !s.host.mayFetch then .next s
  else
    let n := s.host.cmdHead
    let c : Cmd := { op := opcode, hdr := hdr, fetched := s.hubLc }
    let s := s.setHost { s.host with cmdHead := n + 1 }
    if hdr.seq ≠ n then .next ((s.setErr 1).reply c 0x13 [])
    else .next (s.setHost { s.host with cmds := s.host.cmds ++ [c] })

/-- COMMAND_EXPIRE: a command not started EXPIRE lc after its fetch answers EXPIRED (Table 18.3). -/
def execCommandExpire (seq : W32) (s : State) : Host.Outcome State Fault Refusal :=
  match s.host.cmds.find? fun c => c.hdr.seq = seq && c.phase = .admitted && c.hdr.expire ≠ 0 with
  | some c => if s.coresRun then .next (s.reply c 0x15 []) else .next s
  | none => .next s

/-- LONG_COMMAND: a command that still runs frees its admission entry and its core, if a long place is free (R522). -/
def execLongCommand (seq : W32) (s : State) : Host.Outcome State Fault Refusal :=
  match s.host.cmds.find? fun c => c.hdr.seq = seq && c.phase = .running with
  | some c => if s.host.longFree > 0 then .next (s.modCmd c fun d => { d with phase := .long }) else .next s
  | none => .next s

/-- The opcodes this manual lists (Table 18.6). -/
def knownOpcodes : List Nat :=
  [0x0101, 0x0102, 0x0110, 0x0111, 0x0201, 0x0202, 0x0203, 0x0204, 0x0220, 0x0221, 0x0222, 0x0230, 0x0231, 0x0232, 0x0233, 0x0234, 0x0235,
   0x0301, 0x0302, 0x0401, 0x0402, 0x0403, 0x0404, 0x0501, 0x0502, 0x0503, 0x0504, 0x0505, 0x0506, 0x0507, 0x0508, 0x0509, 0x050A]
  ++ [0x0601, 0x0602, 0x0603, 0x0604, 0x0605, 0x0630, 0x0631, 0x0632, 0x0633, 0x0634, 0x0640, 0x0641, 0x0642, 0x0701, 0x0702, 0x0710,
      0x0720, 0x0721, 0x0722, 0x0740, 0x0741, 0x0742, 0x0743, 0x0744, 0x0801, 0x0802, 0x0803, 0x0810, 0x0811, 0x0812, 0x0813, 0x0814, 0x0820]
  ++ [0x0830, 0x0831, 0x0901, 0x0902, 0x0910, 0x0911, 0x0920, 0x0921, 0x0922, 0x0923, 0x0930, 0x0940, 0x0941, 0x0942, 0x0943, 0x0948, 0x0949,
      0x094A, 0x0950, 0x0951, 0x0960, 0x0961, 0x0962, 0x0968, 0x0969, 0x096A, 0x096B, 0x0A01, 0x0A02, 0x0A03, 0x0A10, 0x0A11, 0x0B01, 0x0B02,
      0x0B03, 0x0B04, 0x0B05, 0x0B10, 0x0B11, 0x0B12]

/-- UNKNOWN_OPCODE: an opcode that no table lists (R519). -/
def execUnknownOpcode (opcode : W16) (hdr : CmdHdr) (s : State) : Host.Outcome State Fault Refusal :=
  match s.host.findCmd opcode hdr with
  | none => .next s
  | some c =>
    if !s.coresRun || knownOpcodes.contains opcode.toNat then .next s
    else .next (s.reply c (if s.expired c then 0x15 else 0x14) [])

/-! ### Events, interrupts and resets (R511, R512, R526, R528, R529) -/

/-- EVENT_BUFFER_DRAIN: what waits is written while unreserved entries are free (R526). -/
def execEventBufferDrain (s : State) : Host.Outcome State Fault Refusal := .next s.drainRing

/-- INTERRUPT_HOLDOFF: HOLDOFF lc after the first unsignalled entry of a kind its message goes (R528). -/
def execInterruptHoldoff (kind : Fin 8) (s : State) : Host.Outcome State Fault Refusal :=
  let k := kind.val
  if s.host.irqCount.get 0 k = 0 then .next s
  else .next ((s.setHost { s.host with irqCount := s.host.irqCount.set 0 k 0 }).msix (s.host.vector k))

/-- HOST_DMA_ERROR: a host read or write completes in error; fetching and writing stop (R529). -/
def execHostDmaError (s : State) : Host.Outcome State Fault Refusal :=
  if s.bar0Up && s.host.enable then .next ((s.setErr 2).setHost { (s.setErr 2).host with dmaStopped := true }) else .next s

/-- HOST_INTERFACE_RESET: BAR0 returns to its reset values, held entries are discarded, and the replies of commands in hand
will be lost; nothing else changes (R511). -/
def execHostInterfaceReset (kind : HostReset) (s : State) : Host.Outcome State Fault Refusal :=
  let _ := kind
  if !s.bar0Up then .next s
  else
    let h := s.host
    .next (s.setHost { cmds := h.cmds.map (fun c => { c with lostReply := true }), claims := h.claims, allocs := h.allocs, lastGen := h.lastGen
                       seeds := h.seeds, wkeys := h.wkeys, staged := h.staged, faultLog := h.faultLog })

/-- PCIE_POWER_STATE_CHANGE: in D3hot nothing is fetched or written; in D0 what waited is written (R512). -/
def execPciePowerStateChange (d3hot : Bool) (s : State) : Host.Outcome State Fault Refusal :=
  if !s.bar0Up then .next s
  else
    let s := s.setHost { s.host with d3hot := d3hot }
    .next (if d3hot then s else s.drainRing)

end Sys2Proof.Machine
end

