-- ==== Sys2Proof/Machine/HostMem.lean ====
section
/-! DEFINITION. The memory, descriptor, diagnostics and fault-log commands (Tables 4.6, 18.9, 22.5; R152, R153, R533, R534, R626,
R637). -/

namespace Sys2Proof.Machine

/-! ### Allocations (R135, R533) -/

/-- The lowest handle that is not live. -/
def HostIf.freeHandle (h : HostIf) : Option Nat :=
  ((List.range 65535).map fun i => i + 1).find? fun i => !(h.allocs.any fun a => a.handle.toNat = i)

/-- The generation after a handle's last one, modulo 2^16 and skipping 0. -/
def nextGen (g : W16) : W16 := if g + 1 = 0 then 1 else g + 1

/-- ALLOC_REG (R533, Table 18.9). -/
def execAllocReg (h : CmdHdr) (va len : W64) (s : State) : Host.Outcome State Fault Refusal :=
  command 0x0201 2 true h s fun c s =>
    let a := va.toNat
    let n := len.toNat
    if a % 128 ≠ 0 || n % 128 ≠ 0 || n < 128 || n > 2 ^ 48 || a + n > 2 ^ 64 then s.reply c stInvalid []
    else if s.host.allocs.any fun x => x.job = h.job && a < x.va + x.len && x.va < a + n then s.reply c stConflict []
    else match s.host.freeHandle with
    | none => s.reply c stBusy []
    | some i =>
      let g := nextGen (s.host.lastGen.get 0 i)
      let s := s.setHost { s.host with lastGen := s.host.lastGen.set 0 i g
                                       allocs := s.host.allocs ++ [{ handle := BitVec.ofNat 16 i, gen := g, job := h.job, va := a, len := n }] }
      (s.claim { kind := .allocRange, index := i, job := h.job, opcode := 0x0201 }).reply c stOk [BitVec.ofNat 64 i, g.setWidth 64]

/-- ALLOC_FREE: the allocation is dead at once; the reply waits for the accepted instructions that name it (R135). -/
def execAllocFree (h : CmdHdr) (handle : W64) (s : State) : Host.Outcome State Fault Refusal :=
  command 0x0202 1 true h s fun c s =>
    if !(inRange handle 0 65535) then s.reply c stInvalid []
    else if !(s.host.allocs.any fun a => a.handle.toNat = handle.toNat && a.job = h.job) then s.reply c stNotFound []
    else
      let s := s.setHost { s.host with allocs := s.host.allocs.filter fun a => a.handle.toNat ≠ handle.toNat }
      let s := s.unclaim fun x => x.kind = .allocRange && x.index = handle.toNat
      (s.waitCmd c (.allocFree (handle.setWidth 16))).finishAllocFrees

/-! ### MEM_WRITE and MEM_READ (R534) -/

/-- Copy bulk into a job's space, in ascending order: the writes that leave the part, and the bytes done where the copy
stopped. Eight bytes written to a counter signal it (R351). -/
def State.copyIn (s : State) (job : Byte) : List (Nat × Nat) → List Byte → Nat → State × List (Nat × List Byte) × Option Nat
  | [], _, _ => (s, [], none)
  | (va, n) :: r, bulk, done => match s.vwrite job va (bulk.take n) with
    | .ok (s, away) =>
      let (s, more, stop) := s.copyIn job r (bulk.drop n) (done + n)
      (s, away ++ more, stop)
    | .err a p => (match s.windowSignal job va (bulk.take n) with
      | some s =>
        let (s, more, stop) := s.copyIn job r (bulk.drop n) (done + n)
        (s, more, stop)
      | none => (s.accessFault 4 p a 0, [], some done))
    | .fault _ _ _ _ => (s, [], some done)
    | .remote _ _ _ => (s, [], some done)

/-- MEM_WRITE (R534). -/
def execMemWrite (h : CmdHdr) (va len : W64) (bulk : List Byte) (s : State) : Host.Outcome State Fault Refusal :=
  command 0x0203 2 true h s fun c s =>
    let n := len.toNat
    if n = 0 || n > 2 ^ 32 || c.hdr.bulkLen.toNat < n then s.reply c stInvalid []
    else
      let (s, away, stop) := s.copyIn h.job (pieces (n / 65536 + 2) va.toNat n) (padTo n (bulk.take n)) 0
      match stop with
      | some done => (s.remoteWrites (.posted h.job) 0 false away).reply c stAddress [BitVec.ofNat 64 done]
      | none => if away.isEmpty then s.reply c stOk [] else (s.remoteWrites (.cmd c.hdr.seq) 0 false away).waitCmd c (.acks [])

/-- The pieces of a range that lie in one 64-byte granule each. -/
def grains : Nat → Nat → Nat → List (Nat × Nat)
  | 0, _, _ => []
  | fuel + 1, va, n =>
    if n = 0 then []
    else
      let k := min n (64 - va % 64)
      (va, k) :: grains fuel (va + k) (n - k)

/-- Copy a job's space out, in ascending order: the bytes read, and what stopped the copy. Eight bytes of a window are one
access (R303, R351, R595). -/
def State.copyOut (s : State) (job : Byte) : List (Nat × Nat) → List Byte × Option (Acc Unit)
  | [] => ([], none)
  | (va, n) :: r => match s.hubRead job va n with
    | .ok bs =>
      let (more, stop) := s.copyOut job r
      (bs ++ more, stop)
    | .fault k v lo size => ([], some (.fault k v lo size))
    | e => match (s.windowPiece job va n).getD e with
      | .ok bs =>
        let (more, stop) := s.copyOut job r
        (bs ++ more, stop)
      | .err a p => ([], some (.err a p))
      | .fault k v lo size => ([], some (.fault k v lo size))
      | .remote v pa l => ([], some (.remote v pa l))

/-- MEM_READ (R534): the bytes before a stop are in bulk. -/
def execMemRead (h : CmdHdr) (va len : W64) (s : State) : Host.Outcome State Fault Refusal :=
  command 0x0204 2 true h s fun c s =>
    let n := len.toNat
    if n = 0 || n > 2 ^ 32 || c.hdr.bulkLen.toNat < n then s.reply c stInvalid []
    else
      let (bs, stop) := s.copyOut h.job (grains (n / 64 + 2) va.toNat n)
      match stop with
      | some (.remote v pa l) => (s.parkCmd c).hubFetch h.job v pa l
      | some (.err a p) => (((s.dropHub h.job).accessFault 4 p a 0).bulkOut c bs).reply c stAddress [BitVec.ofNat 64 bs.length]
      | some _ => ((s.dropHub h.job).bulkOut c bs).reply c stAddress [BitVec.ofNat 64 bs.length]
      | none => ((s.dropHub h.job).bulkOut c bs).reply c stOk []

/-! ### Descriptor commands (R152, R153, R637) -/

/-- How a batch of drafts ended, or what holds it up. -/
inductive Batch where
  /-- Every draft was sealed (code 0), or the next one failed with this code. -/ | done (code : Nat)
  /-- The command stops at the next draft with ADDRESS (R637). -/ | stop (err : Option (Nat × Bool))
  /-- The next draft lies on another part. -/ | remote (va pa len : Nat)
  /-- The next draft's output entry lies on another part: the descriptor and the writes. -/ | away (d : W512) (w : List (Nat × List Byte))
  deriving DecidableEq, Repr

/-- Seal the next drafts after `done`, newest first, as far as this part alone can (R140, R153). -/
def State.sealBatch (s : State) (job : Byte) (drafts out : Nat) : Nat → List W512 → State × List W512 × Batch
  | 0, done => (s, done, .done 0)
  | left + 1, done =>
    let i := done.length
    match s.hubRead job (drafts + 64 * i) 64 with
    | .remote va pa len => (s, done, .remote va pa len)
    | .err a p => (s, done, .stop (some (a, p)))
    | .fault _ _ _ _ => (s, done, .stop none)
    | .ok bs =>
      let draft : W512 := BitVec.ofNat 512 (ofLe bs)
      let j := (bits (Desc.parse draft).pair 0 12).toNat
      let src := if j < i then done.reverse[j]? else none
      let code := createCheck s.host.allocs job false src draft
      if code ≠ 0 then (s, done, .done code)
      else
        let d := createDesc s.startNo src draft
        match s.vwrite job (out + 64 * i) (leBytes 64 d.toNat) with
        | .ok (s, away) => if away.isEmpty then s.sealBatch job drafts out left (d :: done) else (s, done, .away d away)
        | .err a p => (s, done, .stop (some (a, p)))
        | .fault _ _ _ _ => (s, done, .stop none)
        | .remote _ _ _ => (s, done, .stop none)

/-- DESC_CREATE: drafts are checked and sealed in index order up to the first failure; an output entry on another part is
acknowledged before the next draft (R153, R637). -/
def execDescCreate (h : CmdHdr) (drafts count out : W64) (s : State) : Host.Outcome State Fault Refusal :=
  command 0x0301 3 true h s fun c s =>
    if drafts.toNat % 64 ≠ 0 || out.toNat % 64 ≠ 0 || !(inRange count 1 4096) then s.reply c stInvalid []
    else
      let (t, done, e) := s.sealBatch h.job drafts.toNat out.toNat (count.toNat - c.sealed.length) c.sealed
      let i : W64 := BitVec.ofNat 64 done.length
      let c := { c with sealed := done }
      match e with
      | .remote va pa len => ((t.modCmd c fun _ => c).parkCmd c).hubFetch h.job va pa len
      | .away d w => (((t.modCmd c fun _ => c).dropHub h.job).remoteWrites (.cmd c.hdr.seq) 0 false w).waitCmd c (.sealing d)
      | .stop err =>
        let t := match err with | some (a, p) => t.accessFault 4 p a 0 | none => t
        (t.dropHub h.job).reply c stAddress [i, i]
      | .done code => (t.dropHub h.job).reply c stOk [i, i, BitVec.ofNat 64 code]

/-- DESC_CHECK: the seal and the allocation of one descriptor (R152, R637). -/
def execDescCheck (h : CmdHdr) (va : W64) (s : State) : Host.Outcome State Fault Refusal :=
  command 0x0302 1 true h s fun c s =>
    s.cmdRead c h.job va.toNat 64 fun bs s =>
      let w : W512 := BitVec.ofNat 512 (ofLe bs)
      let d := Desc.parse w
      let code : W64 := if !(sealOk s.startNo w) || d.job ≠ h.job then 0x0C else if d.space = 2 && (findAlloc s.host.allocs d).isNone then 0x0D else 0
      s.reply c stOk [code]

/-! ### Diagnostics (R124, R531, R607, R626) -/

/-- The stall key of a logical stall in the form of RDSYS 0, if it names one. -/
def stallOfId (v : W64) : Option Nat :=
  let h := v.toNat / 4096
  let a := v.toNat / 64 % 64
  if v.toNat < 16384 && v.toNat / 16 % 4 = 0 && a < 36 then some ((h * 36 + a) * 16 + v.toNat % 16) else none

/-- A stall's trap log, newest first. -/
def State.trapBytes (s : State) (k : Nat) : List Byte := (s.stall k).trapLog.flatMap TrapRec.bytes

/-- TRAP_LOG_READ (R124, Table 18.9). -/
def execTrapLogRead (h : CmdHdr) (stall : W64) (s : State) : Host.Outcome State Fault Refusal :=
  command 0x0901 1 false h s fun c s =>
    match stallOfId stall with
    | none => s.reply c stInvalid []
    | some k => s.replyBulk c (s.trapBytes k) [BitVec.ofNat 64 (s.stall k).trapLog.length]

/-- One entry of CLAIM_STATUS: resource type by its row in Table 18.8, index, owning job, owning opcode. -/
def Claim.bytes (x : Claim) : List Byte := leBytes 4 x.kind.ctorIdx ++ leBytes 4 x.index ++ leBytes 4 x.job.toNat ++ leBytes 4 x.opcode.toNat

/-- CLAIM_STATUS (R531, Table 18.9). -/
def execClaimStatus (h : CmdHdr) (s : State) : Host.Outcome State Fault Refusal :=
  command 0x0902 0 false h s fun c s =>
    s.replyBulk c (s.host.claims.flatMap Claim.bytes) [BitVec.ofNat 64 s.host.claims.length]

/-- FAULT_LOG_READ: the newest records to bulk, newest first (R607, Table 22.5). -/
def execFaultLogRead (h : CmdHdr) (count : W64) (s : State) : Host.Outcome State Fault Refusal :=
  command 0x0950 1 false h s fun c s =>
    if inRange count 1 4096 then
      let b := (s.host.faultLog.take count.toNat).flatMap FaultRec.bytes
      s.replyBulk c b [BitVec.ofNat 64 b.length]
    else s.reply c stInvalid []

/-- The bytes of a step entry (Table 19.5): unwritten bytes stay erased. -/
def StepEntry.bytes (e : StepEntry) (startNo i : Nat) : List Byte :=
  let t := fun (j : Nat) => leBytes 4 (Config.stepTime startNo (2 * i + j)).toNat
  let blank := List.replicate 4 (0xFF : Byte)
  if !e.started then List.replicate 16 0xFF
  else match e.ended with
  | none => [0x00, 0xFF, 0xFF, 0xFF] ++ blank ++ t 0 ++ blank
  | some x => [0x00, x, ~~~x, e.action] ++ leBytes 4 e.detail.toNat ++ t 0 ++ t 1

/-- The 512 bytes of a step record (Table 19.5). -/
def StepRec.bytes (r : StepRec) : List Byte :=
  leBytes 4 0x4A355352 ++ leBytes 4 r.startNo ++ [r.cause] ++ leBytes 1 (r.straps.quadPos.toNat + 4 * r.straps.bootSel.toNat + 0xF0)
    ++ leBytes 1 ((if r.fwArea then 1 else 0) + (if r.cfgArea then 2 else 0) + 0xFC) ++ [r.mode] ++ List.replicate 20 0xFF
    ++ (((List.range 11).zip r.steps).flatMap fun e => e.2.bytes r.startNo (e.1 + 1)) ++ List.replicate 304 0xFF

/-- The replica and pair status that POSTMORTEM holds: for each configured job, its number and the fields of its status
reply. -/
def State.pairBytes (s : State) : List Byte :=
  (s.replica.cfgs.flatMap fun r =>
    leBytes 8 r.job.toNat ++ leBytes 8 r.lastStep.toNat ++ leBytes 8 r.lastAgreed.toNat ++ leBytes 8 r.repaired ++ leBytes 8 r.rederived
      ++ leBytes 8 r.rollbacks ++ leBytes 8 (if s.rollbackHeld r.job then 2 else if (s.workOf r.job).isSome then 1 else 0))
  ++ s.replica.pairs.flatMap fun p => leBytes 8 p.job.toNat ++ leBytes 8 p.state ++ leBytes 8 p.lastStep.toNat ++ leBytes 8 p.timeouts

/-- The post-mortem collection (R626). -/
def State.postmortem (s : State) (freeze : Bool) : List Byte :=
  padTo 64 (leBytes 4 0x4A35504D ++ leBytes 4 s.partNo ++ leBytes 8 s.hubLc.toNat)
    ++ s.host.faultLog.flatMap FaultRec.bytes ++ s.bellDump freeze ++ ((List.range 2304).flatMap s.trapBytes)
    ++ ((List.range 8192).flatMap fun i => leBytes 8 (s.tallyAt i).toNat) ++ s.power.marks.flatMap Mark.bytes
    ++ (match s.boot.records with | r :: _ => r.bytes | [] => []) ++ s.pairBytes

/-- POSTMORTEM (R626, Table 22.5). -/
def execPostmortem (h : CmdHdr) (flags : W64) (s : State) : Host.Outcome State Fault Refusal :=
  command 0x0951 1 false h s fun c s =>
    if !(inRange flags 0 1) then s.reply c stInvalid []
    else
      let b := s.postmortem (flags = 1)
      s.replyBulk c b [BitVec.ofNat 64 b.length]

end Sys2Proof.Machine
end

