-- ==== Sys2Proof/Machine/LayoutCmds.lean ====
section
/-! DEFINITION. The layout commands and messages (R480 to R486). -/

namespace Sys2Proof.Machine

/-- LAYOUT_SWITCH: this part coordinates a change of the job's layout epoch (R481, R484, R485). -/
def execLayoutSwitch (h : CmdHdr) (epoch timeout : W64) (s : State) : Host.Outcome State Fault Refusal :=
  command 0x0720 2 true h s fun c s =>
    let e : W16 := epoch.setWidth 16
    if epoch.toNat ≥ 2 ^ 16 || !(inRange timeout 1000 10000000) || !(epochNewer e (s.layoutEpoch.get 0 h.job.toNat)) then s.reply c stInvalid []
    else if s.replay.runs.any fun r => r.job = h.job then s.reply c stBusy []
    else if (s.lpart h.job).isSome then s.reply c stConflict []
    else match s.fab.lost with
    | p :: _ => s.reply c stPartLost [BitVec.ofNat 64 p]
    | [] =>
      let s := s.waitCmd c (.layoutSwitch h.job)
      let s := s.setLayouts { s.layouts with coords := s.layouts.coords ++ [{ job := h.job, epoch := e, since := s.hubLc, timeout := timeout }] }
      (s.send (.mgmt none (.layoutPrepare h.job e))).prepareLayout s.partNo h.job e

/-- LAYOUT_STATUS (R486). -/
def execLayoutStatus (h : CmdHdr) (s : State) : Host.Outcome State Fault Refusal :=
  command 0x0721 0 true h s fun c s =>
    let st : Nat := match s.lpart h.job with | none => 0 | some p => if p.ready then 2 else 1
    s.reply c stOk [(s.layoutEpoch.get 0 h.job.toNat).setWidth 64, BitVec.ofNat 64 st, BitVec.ofNat 64 (s.layouts.drops.get 0 h.job.toNat)]

/-- LAYOUT_PREPARE: the first PREPARE of a job is accepted, a later one refused (R481, R485). -/
def execLayoutPrepare (coord : Fin 8192) (job : Byte) (epoch : W16) (s : State) : Host.Outcome State Fault Refusal :=
  if coord.val = s.partNo || !(s.member coord.val) then .next s
  else if (s.lpart job).isSome then .next (s.send (.mgmt (some coord.val) (.layoutRefuse job)))
  else .next (s.prepareLayout coord.val job epoch)

/-- LAYOUT_READY reaches the coordinator (R481). -/
def execLayoutReady (part : Fin 8192) (job : Byte) (s : State) : Host.Outcome State Fault Refusal :=
  if s.member part.val then .next (s.layoutReadyFrom job part.val) else .next s

/-- LAYOUT_COMMIT: the epoch becomes current and held steps go on (R481, R483). -/
def execLayoutCommit (coord : Fin 8192) (job : Byte) (epoch : W16) (s : State) : Host.Outcome State Fault Refusal :=
  match s.lpart job with
  | some p => if p.coord = coord.val && p.epoch = epoch && coord.val ≠ s.partNo then .next (s.commitLayout job epoch) else .next s
  | none => .next s

/-- LAYOUT_ABORT: the holds are released, the epoch stays (R484). -/
def execLayoutAbort (coord : Fin 8192) (job : Byte) (s : State) : Host.Outcome State Fault Refusal :=
  match s.lpart job with
  | some p => if p.coord = coord.val && coord.val ≠ s.partNo then .next (s.leaveLayout job) else .next s
  | none => .next s

/-- LAYOUT_REFUSE: the coordinator aborts with CONFLICT (R485). -/
def execLayoutRefuse (part : Fin 8192) (job : Byte) (s : State) : Host.Outcome State Fault Refusal :=
  if (s.lcoord job).isSome && s.member part.val then .next (s.abortLayout job stConflict []) else .next s

/-- LAYOUT_SWITCH_TIMEOUT: the reply names the lowest part that sent no READY (R484). -/
def execLayoutSwitchTimeout (job : Byte) (s : State) : Host.Outcome State Fault Refusal :=
  match s.lcoord job with
  | some c => .next (s.abortLayout job stTimeout [BitVec.ofNat 64 ((s.domainParts.find? fun n => !(c.ready.contains n)).getD 0)])
  | none => .next s

end Sys2Proof.Machine
end

