-- ==== Sys2Proof/Machine/Secure.lean ====
section
/-! DEFINITION. Identity, attestation, seeds, weight keys and firmware staging (R211, R535, R541, R558 to R563, Table 18.9). -/

namespace Sys2Proof.Machine

/-! ### Identity -/

/-- DEVICE_INFO (Table 18.9): the serial number's field holds its low 8 bytes. -/
def execDeviceInfo (h : CmdHdr) (s : State) : Host.Outcome State Fault Refusal :=
  command 0x0101 0 false h s fun c s =>
    let (t, p, d, x) := partCoords s.partNo
    let part := s.partNo + t * 2 ^ 16 + p * 2 ^ 24 + d * 2 ^ 32 + x * 2 ^ 40
    let stalls := [0, 1, 2, 3].foldl (fun n i => n + s.enabledStalls i * 2 ^ (16 * i)) 0
    let inService := maskOf ((List.range 12).filter fun k => !(s.stack k).excluded)
    s.reply c stOk [idRegister, s.boot.serial.setWidth 64, BitVec.ofNat 64 part, BitVec.ofNat 64 stalls, BitVec.ofNat 64 inService,
      Config.firmwareVersion s.firmwareDigest]

/-- PING (Table 18.9). -/
def execPing (h : CmdHdr) (s : State) : Host.Outcome State Fault Refusal :=
  command 0x0102 0 false h s fun c s => s.reply c stOk []

/-- In recovery mode that step 4's failures caused, nothing of the identity works (R553). -/
def State.noIdentity (s : State) : Bool := s.pstate = 2 && s.boot.recoveryStep = 4

/-- ID_CERT_READ (Table 18.9, R553). -/
def execIdCertRead (h : CmdHdr) (s : State) : Host.Outcome State Fault Refusal :=
  command 0x0110 0 false h s fun c s =>
    if s.noIdentity then s.reply c 0x16 [] else s.replyBulk c s.boot.certificate [BitVec.ofNat 64 s.boot.certificate.length]

/-- A degradation stands in the repair log (R550). -/
def Repair.degraded (r : Repair) : Bool :=
  !r.stackPos.isEmpty || r.hallFence ≠ 0 || r.tillFail ≠ 0 || r.portHalf ≠ 0 || r.portDrop ≠ 0 || r.skipExt

/-- The repair log as numbers, in the order of Table 19.3. -/
def State.repairNums (s : State) : List Nat :=
  let r := s.boot.repair
  let o := fun (m : SMap (Option Nat)) => m.flatMap fun e => [e.1, e.2.getD 0]
  o r.stallMap ++ o r.aisleMap ++ [r.hallFence.toNat, r.meshFail.toNat] ++ (r.stackPos.flatMap fun e => [e.1, e.2.ctorIdx])
    ++ [r.portHalf.toNat, r.portDrop.toNat, if r.skipExt then 1 else 0, r.tillFail.toNat, if r.railFail then 1 else 0]
    ++ ((List.range 12).flatMap fun k =>
      let x := s.stack k
      (x.erased.map (·.1)) ++ o x.rowMap ++ x.retired)
    ++ o s.xlt.redirects ++ (r.cleared.flatMap fun d => d.map BitVec.toNat)

/-- BODY_DIGEST of the configuration bundle in force. -/
def State.configDigest (s : State) : List Byte := if s.boot.bundle.digest.isEmpty then Config.flashDigest 1 else s.boot.bundle.digest

/-- The first 0x180 bytes of the attestation report (Table 19.9). -/
def State.report (s : State) (nonce : List Byte) : List Byte :=
  let rec_ := s.pstate = 2
  let alt := s.boot.straps.bootSel = 1 && (match s.boot.records, s.boot.header with
    | r :: _, some hd => r.fwArea != hd.fwArea
    | _, _ => false)
  let flags := (if rec_ then 1 else 0) + (if s.boot.mode = 2 then 2 else 0) + (if s.boot.owner.isSome then 4 else 0) + (if alt then 8 else 0)
    + (if s.boot.repair.degraded then 16 else 0)
  let keys := sha384 ((List.range 8).flatMap fun i => match s.host.wkeys.get [] i with
    | [] => List.replicate 48 0
    | k => sha384 k)
  leBytes 4 0x4A354154 ++ leBytes 2 1 ++ leBytes 2 flags ++ leBytes 16 s.boot.serial.toNat ++ leBytes 4 (if rec_ then 0 else s.boot.fwSvn)
    ++ leBytes 2 (if s.startStep.toNat < 10 then 0xFFFF else s.partNo) ++ leBytes 2 0 ++ fixTo 48 nonce ++ fixTo 48 Config.romDigest
    ++ fixTo 48 (if rec_ then [] else s.firmwareDigest) ++ fixTo 48 s.configDigest ++ fixTo 48 (s.boot.owner.getD []) ++ fixTo 48 keys
    ++ fixTo 48 (Config.repairDigest s.repairNums) ++ leBytes 4 (match s.boot.records with | r :: _ => r.startNo | [] => 0) ++ leBytes 12 0

/-- ATTEST: the report, signed by the identity key, to bulk (R563). -/
def execAttest (h : CmdHdr) (n0 n1 n2 n3 n4 n5 : W64) (s : State) : Host.Outcome State Fault Refusal :=
  command 0x0111 6 false h s fun c s =>
    if s.noIdentity then s.reply c 0x16 []
    else
      let r := s.report ([n0, n1, n2, n3, n4, n5].flatMap fun w => leBytes 8 w.toNat)
      s.replyBulk c (r ++ fixTo 96 (Config.identitySign r)) [480]

/-! ### Signed objects (R558 to R560, Table 19.8) -/

/-- The three kinds of signed object. -/
inductive SignedKind where
  | firmware | config | weightKey
  deriving DecidableEq, Repr

/-- Bytes of an object: header, body and certificate. -/
def objSize (b : List Byte) : Nat := 512 + leAt b 0xC 4 + leAt b 0x40 4

/-- Every field lies within Table 19.8. -/
def objFields (kind : SignedKind) (b : List Byte) : Bool :=
  let fl := leAt b 6 2
  let svn := leAt b 8 4
  let body := leAt b 0xC 4
  let chain := leAt b 0x40 4
  b.length ≥ 512 && leAt b 4 2 = 1 && leAt b 0x44 4 = 0 && (b.drop 0x108).take 248 = List.replicate 248 0 && objSize b ≤ b.length
    && (match kind with
      | .firmware => leAt b 0 4 = 0x4A354657 && fl = 0 && 1 ≤ svn && svn ≤ 63 && 1 ≤ chain && chain ≤ 4096 && body ≤ 2 ^ 23 - 512 - chain
      | .config => leAt b 0 4 = 0x4A354346 && fl ≤ 1 && svn = 0 && chain = 0 && body = 131104
      | .weightKey => leAt b 0 4 = 0x4A354B42 && fl = 0 && svn = 0 && chain = 0 && body = 104)

/-- PUBKEY of an object, x then y. -/
def objKey (b : List Byte) : List Byte := (b.drop 0x48).take 96
/-- The body of an object. -/
def objBody (b : List Byte) : List Byte := (b.drop 512).take (leAt b 0xC 4)
/-- ENROL of a configuration bundle. -/
def objEnrol (b : List Byte) : Bool := leAt b 6 2 % 2 = 1

/-- Whether the signer is trusted (R560). -/
def State.signerTrusted (s : State) (kind : SignedKind) (b : List Byte) : Bool :=
  match kind with
  | .firmware => Config.certTrusted ((b.drop (512 + leAt b 0xC 4)).take (leAt b 0x40 4)) (objKey b) && s.boot.svnFloor ≤ leAt b 8 4
  | _ => match s.boot.owner with
    | some d => sha384 (objKey b) = d
    | none => kind = .config && objEnrol b

/-- Whether body, signature and signer hold (R559). -/
def State.objTrusted (s : State) (kind : SignedKind) (b : List Byte) : Bool :=
  sha384 (objBody b) = (b.drop 0x10).take 48 && ecdsaVerify ofLe (objKey b) (sha384 (b.take 0xA8)) ((b.drop 0xA8).take 96) && s.signerTrusted kind b

/-- A command that takes a signed object from bulk: INVALID, SIGNATURE, or `k` with the object (R559). -/
def State.withObject (s : State) (c : Cmd) (kind : SignedKind) (bulk : List Byte) (k : List Byte → State → State) : State :=
  let b := bulk.take c.hdr.bulkLen.toNat
  if !(objFields kind b) then s.reply c stInvalid []
  else
    let o := b.take (objSize b)
    if s.objTrusted kind o then k o s else s.reply c 0x0A []

/-! ### Seeds, keys and images (R211, R535, R541, R561) -/

/-- JOB_SEED_SET (R211, Table 18.9). -/
def execJobSeedSet (h : CmdHdr) (seed : W64) (s : State) : Host.Outcome State Fault Refusal :=
  command 0x0A01 1 true h s fun c s =>
    if s.jobResident h.job then s.reply c stBusy []
    else (s.setHost { s.host with seeds := s.host.seeds.set 0 h.job.toNat seed }).reply c stOk []

/-- WKEY_INSTALL: a weight-key bundle is verified and its key fills the slot (R535, R558, R561). -/
def execWkeyInstall (h : CmdHdr) (slot : W64) (bulk : List Byte) (s : State) : Host.Outcome State Fault Refusal :=
  command 0x0A02 1 false h s fun c s =>
    if !(inRange slot 0 7) then s.reply c stInvalid []
    else s.withObject c .weightKey bulk fun b s =>
      let body := objBody b
      if leAt body 0 1 ≠ slot.toNat || leAt body 1 7 ≠ 0 then s.reply c stInvalid []
      else (s.setHost { s.host with wkeys := s.host.wkeys.set [] slot.toNat ((body.drop 8).take 96) }).reply c stOk []

/-- WKEY_CLEAR (Table 18.9). -/
def execWkeyClear (h : CmdHdr) (slot : W64) (s : State) : Host.Outcome State Fault Refusal :=
  command 0x0A03 1 false h s fun c s =>
    if !(inRange slot 0 7) then s.reply c stInvalid []
    else if !s.weights.loads.isEmpty then s.reply c stBusy []
    else (s.setHost { s.host with wkeys := s.host.wkeys.set [] slot.toNat [] }).reply c stOk []

/-- The object a target names. -/
def stagedKind (target : W64) : SignedKind := if target = 0 then .firmware else .config

/-- FW_STAGE: a valid object is written to the inactive area of its target (R535, R559). -/
def execFwStage (h : CmdHdr) (target : W64) (bulk : List Byte) (s : State) : Host.Outcome State Fault Refusal :=
  command 0x0A10 1 false h s fun c s =>
    if !(inRange target 0 1) then s.reply c stInvalid []
    else s.withObject c (stagedKind target) bulk fun b s =>
      let hd := s.boot.header.getD {}
      let boot := if target = 0 then { s.boot with fwAreas := s.boot.fwAreas.set [] (if hd.fwArea then 0 else 1) b }
        else { s.boot with cfgAreas := s.boot.cfgAreas.set [] (if hd.cfgArea then 0 else 1) b }
      let s : State := { s with boot := boot }
      (s.setHost { s.host with staged := s.host.staged.set none target.toNat (some b) }).reply c stOk []

/-- The header copies after a commit: the copy that is not in force is written with the next generation (R541). -/
def Boot.commitHeader (b : Boot) (f : FlashHeader → FlashHeader) : Boot :=
  let hd := b.header.getD {}
  let new := { f hd with gen := hd.gen + 1, valid := true }
  let first := b.headers.getD 0 {}
  { b with headers := if first = hd && first.valid then [first, new] else [new, b.headers.getD 1 {}] }

/-- FW_COMMIT: the staged area becomes active at the next start; ENROL burns OWNER while it is blank; failure counts begin
again (R541, R548, R554, R561). -/
def execFwCommit (h : CmdHdr) (target : W64) (s : State) : Host.Outcome State Fault Refusal :=
  command 0x0A11 1 false h s fun c s =>
    if !(inRange target 0 1) then s.reply c stInvalid []
    else match s.host.staged.get none target.toNat with
    | none => s.reply c stNotReady []
    | some b =>
      let boot := s.boot.commitHeader fun x => if target = 0 then { x with fwArea := !x.fwArea } else { x with cfgArea := !x.cfgArea }
      let owner := if target = 1 && objEnrol b && boot.owner.isNone then some (sha384 (objKey b)) else boot.owner
      let s := State.modRecord { s with boot := { boot with owner := owner } } fun r => { r with commit := true }
      (s.setHost { s.host with staged := s.host.staged.set none target.toNat none }).reply c stOk []

end Sys2Proof.Machine
end

