-- ==== Sys2Proof/Machine/Dispatch.lean ====
section
/-! DEFINITION. One arm per command: the dispatch of `exec`. -/

namespace Sys2Proof.Machine

def exec (i : Instr) (s : State) : Host.Outcome State Fault Refusal :=
  match i with
  | .add t f => Sys2Proof.Machine.execAdd t f s
  | .sub t f => Sys2Proof.Machine.execSub t f s
  | .mul t f => Sys2Proof.Machine.execMul t f s
  | .mulhu t f => Sys2Proof.Machine.execMulhu t f s
  | .and t f => Sys2Proof.Machine.execAnd t f s
  | .or t f => Sys2Proof.Machine.execOr t f s
  | .xor t f => Sys2Proof.Machine.execXor t f s
  | .shl t f => Sys2Proof.Machine.execShl t f s
  | .shr t f => Sys2Proof.Machine.execShr t f s
  | .sar t f => Sys2Proof.Machine.execSar t f s
  | .min t f => Sys2Proof.Machine.execMin t f s
  | .max t f => Sys2Proof.Machine.execMax t f s
  | .slt t f => Sys2Proof.Machine.execSlt t f s
  | .sltu t f => Sys2Proof.Machine.execSltu t f s
  | .movi t f => Sys2Proof.Machine.execMovi t f s
  | .movhi t f => Sys2Proof.Machine.execMovhi t f s
  | .ld t f => Sys2Proof.Machine.execLd t f s
  | .st t f => Sys2Proof.Machine.execSt t f s
  | .rdsys t f => Sys2Proof.Machine.execRdsys t f s
  | .br t f => Sys2Proof.Machine.execBr t f s
  | .beq t f => Sys2Proof.Machine.execBeq t f s
  | .bne t f => Sys2Proof.Machine.execBne t f s
  | .blt t f => Sys2Proof.Machine.execBlt t f s
  | .bge t f => Sys2Proof.Machine.execBge t f s
  | .bltu t f => Sys2Proof.Machine.execBltu t f s
  | .bgeu t f => Sys2Proof.Machine.execBgeu t f s
  | .jr t f => Sys2Proof.Machine.execJr t f s
  | .trap t f => Sys2Proof.Machine.execTrap t f s
  | .endI t f => Sys2Proof.Machine.execEndI t f s
  | .mma t f => Sys2Proof.Machine.execMma t f s
  | .mmaTa t f => Sys2Proof.Machine.execMmaTa t f s
  | .mmaTb t f => Sys2Proof.Machine.execMmaTb t f s
  | .pass t f => Sys2Proof.Machine.execPass t f s
  | .copy t f => Sys2Proof.Machine.execCopy t f s
  | .tcopy t f => Sys2Proof.Machine.execTcopy t f s
  | .pcopy t f => Sys2Proof.Machine.execPcopy t f s
  | .dmov t f => Sys2Proof.Machine.execDmov t f s
  | .dld t f => Sys2Proof.Machine.execDld t f s
  | .dst t f => Sys2Proof.Machine.execDst t f s
  | .cld t f => Sys2Proof.Machine.execCld t f s
  | .cst t f => Sys2Proof.Machine.execCst t f s
  | .mld t f => Sys2Proof.Machine.execMld t f s
  | .mst t f => Sys2Proof.Machine.execMst t f s
  | .sig t f => Sys2Proof.Machine.execSig t f s
  | .wait t f => Sys2Proof.Machine.execWait t f s
  | .barrier t f => Sys2Proof.Machine.execBarrier t f s
  | .waittok t f => Sys2Proof.Machine.execWaittok t f s
  | .fence t f => Sys2Proof.Machine.execFence t f s
  | .yield t f => Sys2Proof.Machine.execYield t f s
  | .dcreate t f => Sys2Proof.Machine.execDcreate t f s
  | .splitk t f => Sys2Proof.Machine.execSplitk t f s
  | .xslice t f => Sys2Proof.Machine.execXslice t f s
  | .tallyrd t f => Sys2Proof.Machine.execTallyrd t f s
  | .moveComplete t tok => Sys2Proof.Machine.execMoveComplete t tok s
  | .drainComplete st => Sys2Proof.Machine.execDrainComplete st s
  | .slotBeginGrant t => Sys2Proof.Machine.execSlotBeginGrant t s
  | .slotPressureTimeout t => Sys2Proof.Machine.execSlotPressureTimeout t s
  | .splitkGroupForm hall aisle slot nm1 job => Sys2Proof.Machine.execSplitkGroupForm hall aisle slot nm1 job s
  | .splitkTimeout t => Sys2Proof.Machine.execSplitkTimeout t s
  | .xsliceModeSet t => Sys2Proof.Machine.execXsliceModeSet t s
  | .bar0Doorbell v => Sys2Proof.Machine.execBar0Doorbell v s
  | .bar0EnableWrite v => Sys2Proof.Machine.execBar0EnableWrite v s
  | .bar0RplHeadWrite v => Sys2Proof.Machine.execBar0RplHeadWrite v s
  | .bar0ErrClear v => Sys2Proof.Machine.execBar0ErrClear v s
  | .bar0RegWrite offset v => Sys2Proof.Machine.execBar0RegWrite offset v s
  | .commandFetch opcode h => Sys2Proof.Machine.execCommandFetch opcode h s
  | .commandExpire seq => Sys2Proof.Machine.execCommandExpire seq s
  | .longCommand seq => Sys2Proof.Machine.execLongCommand seq s
  | .unknownOpcode opcode h => Sys2Proof.Machine.execUnknownOpcode opcode h s
  | .eventBufferDrain => Sys2Proof.Machine.execEventBufferDrain s
  | .interruptHoldoff kind => Sys2Proof.Machine.execInterruptHoldoff kind s
  | .hostDmaError => Sys2Proof.Machine.execHostDmaError s
  | .hostInterfaceReset kind => Sys2Proof.Machine.execHostInterfaceReset kind s
  | .pciePowerStateChange d3hot => Sys2Proof.Machine.execPciePowerStateChange d3hot s
  | .deviceInfo h => Sys2Proof.Machine.execDeviceInfo h s
  | .ping h => Sys2Proof.Machine.execPing h s
  | .idCertRead h => Sys2Proof.Machine.execIdCertRead h s
  | .attest h n0 n1 n2 n3 n4 n5 => Sys2Proof.Machine.execAttest h n0 n1 n2 n3 n4 n5 s
  | .allocReg h va len => Sys2Proof.Machine.execAllocReg h va len s
  | .allocFree h handle => Sys2Proof.Machine.execAllocFree h handle s
  | .memWrite h va len bulk => Sys2Proof.Machine.execMemWrite h va len bulk s
  | .memRead h va len => Sys2Proof.Machine.execMemRead h va len s
  | .memHealth h stack va => Sys2Proof.Machine.execMemHealth h stack va s
  | .memRetired h stack va cap => Sys2Proof.Machine.execMemRetired h stack va cap s
  | .memScrubSet h stack period => Sys2Proof.Machine.execMemScrubSet h stack period s
  | .xltSpaceSet h root limit => Sys2Proof.Machine.execXltSpaceSet h root limit s
  | .xltSpaceClear h => Sys2Proof.Machine.execXltSpaceClear h s
  | .xltInvalidate h va len => Sys2Proof.Machine.execXltInvalidate h va len s
  | .xltFaultResolve h fault action => Sys2Proof.Machine.execXltFaultResolve h fault action s
  | .xltSaveAreaSet h hall off size => Sys2Proof.Machine.execXltSaveAreaSet h hall off size s
  | .xltReserveSet h hall off units => Sys2Proof.Machine.execXltReserveSet h hall off units s
  | .descCreate h drafts count out => Sys2Proof.Machine.execDescCreate h drafts count out s
  | .descCheck h va => Sys2Proof.Machine.execDescCheck h va s
  | .graphSubmit h va => Sys2Proof.Machine.execGraphSubmit h va s
  | .graphStop h handle mode => Sys2Proof.Machine.execGraphStop h handle mode s
  | .graphStatus h handle => Sys2Proof.Machine.execGraphStatus h handle s
  | .graphRelease h handle => Sys2Proof.Machine.execGraphRelease h handle s
  | .bellRead h part index => Sys2Proof.Machine.execBellRead h part index s
  | .bellSignal h part index inc => Sys2Proof.Machine.execBellSignal h part index inc s
  | .bellWatch h part index target cmp timeout cookie => Sys2Proof.Machine.execBellWatch h part index target cmp timeout cookie s
  | .bellCancel h watch => Sys2Proof.Machine.execBellCancel h watch s
  | .bellReset h first count => Sys2Proof.Machine.execBellReset h first count s
  | .bellBarrierSet h index n scope => Sys2Proof.Machine.execBellBarrierSet h index n scope s
  | .bellBarrierClear h index => Sys2Proof.Machine.execBellBarrierClear h index s
  | .bellPairSet h p c b => Sys2Proof.Machine.execBellPairSet h p c b s
  | .bellPairClear h pair => Sys2Proof.Machine.execBellPairClear h pair s
  | .bellLendSet h enable theta => Sys2Proof.Machine.execBellLendSet h enable theta s
  | .bellDump h va flags => Sys2Proof.Machine.execBellDump h va flags s
  | .weightSetReg h set ncopy base size stride => Sys2Proof.Machine.execWeightSetReg h set ncopy base size stride s
  | .weightSetClear h set => Sys2Proof.Machine.execWeightSetClear h set s
  | .weightLoad h set manifest stOff stSize nsrc srcs timeout flags => Sys2Proof.Machine.execWeightLoad h set manifest stOff stSize nsrc srcs timeout flags s
  | .weightSwitch h timeout => Sys2Proof.Machine.execWeightSwitch h timeout s
  | .weightStatus h => Sys2Proof.Machine.execWeightStatus h s
  | .tillGroupSet h va => Sys2Proof.Machine.execTillGroupSet h va s
  | .tillGroupClear h gid => Sys2Proof.Machine.execTillGroupClear h gid s
  | .tillGroupStatus h gid va => Sys2Proof.Machine.execTillGroupStatus h gid va s
  | .tillGroupEpoch h gid wepoch lepoch => Sys2Proof.Machine.execTillGroupEpoch h gid wepoch lepoch s
  | .tillDigestVerify h gid flags => Sys2Proof.Machine.execTillDigestVerify h gid flags s
  | .gmaskSet h va => Sys2Proof.Machine.execGmaskSet h va s
  | .gmaskClear h mid => Sys2Proof.Machine.execGmaskClear h mid s
  | .gmaskBind h gid mid => Sys2Proof.Machine.execGmaskBind h gid mid s
  | .fabPortStatus h port va => Sys2Proof.Machine.execFabPortStatus h port va s
  | .fabPortRetrain h port groups => Sys2Proof.Machine.execFabPortRetrain h port groups s
  | .fabAtomic h addr opx a b => Sys2Proof.Machine.execFabAtomic h addr opx a b s
  | .layoutSwitch h epoch timeout => Sys2Proof.Machine.execLayoutSwitch h epoch timeout s
  | .layoutStatus h => Sys2Proof.Machine.execLayoutStatus h s
  | .collStatus h clear => Sys2Proof.Machine.execCollStatus h clear s
  | .ingestMrReg h off len key => Sys2Proof.Machine.execIngestMrReg h off len key s
  | .ingestMrClear h region => Sys2Proof.Machine.execIngestMrClear h region s
  | .ingestQpCreate h port ring depth counter => Sys2Proof.Machine.execIngestQpCreate h port ring depth counter s
  | .ingestQpModify h qp state raddr rqp mtu cut => Sys2Proof.Machine.execIngestQpModify h qp state raddr rqp mtu cut s
  | .ingestQpClear h qp => Sys2Proof.Machine.execIngestQpClear h qp s
  | .powerCapSet h cap => Sys2Proof.Machine.execPowerCapSet h cap s
  | .powerHallSet h hall floor ceil => Sys2Proof.Machine.execPowerHallSet h hall floor ceil s
  | .powerStatus h => Sys2Proof.Machine.execPowerStatus h s
  | .tallyRead h first count => Sys2Proof.Machine.execTallyRead h first count s
  | .tallyClear h first count => Sys2Proof.Machine.execTallyClear h first count s
  | .tallyMap h => Sys2Proof.Machine.execTallyMap h s
  | .alertConfig h alert enable entry threshold => Sys2Proof.Machine.execAlertConfig h alert enable entry threshold s
  | .alertAck h mask => Sys2Proof.Machine.execAlertAck h mask s
  | .valveSet h mode value => Sys2Proof.Machine.execValveSet h mode value s
  | .lcMark h id scope => Sys2Proof.Machine.execLcMark h id scope s
  | .lcMarkRead h count => Sys2Proof.Machine.execLcMarkRead h count s
  | .trapLogRead h stall => Sys2Proof.Machine.execTrapLogRead h stall s
  | .claimStatus h => Sys2Proof.Machine.execClaimStatus h s
  | .xchkConfig h base entries entry threads alerts => Sys2Proof.Machine.execXchkConfig h base entries entry threads alerts s
  | .xchkStatus h clear va => Sys2Proof.Machine.execXchkStatus h clear va s
  | .replayConfig h hall mode step buf batch list count => Sys2Proof.Machine.execReplayConfig h hall mode step buf batch list count s
  | .replayRead h step va => Sys2Proof.Machine.execReplayRead h step va s
  | .replayCheck h step header => Sys2Proof.Machine.execReplayCheck h step header s
  | .replayRun h step header flags => Sys2Proof.Machine.execReplayRun h step header flags s
  | .replicaSet h graph axes k snap size list count first ncnt => Sys2Proof.Machine.execReplicaSet h graph axes k snap size list count first ncnt s
  | .replicaClear h => Sys2Proof.Machine.execReplicaClear h s
  | .replicaStatus h => Sys2Proof.Machine.execReplicaStatus h s
  | .replicaResume h => Sys2Proof.Machine.execReplicaResume h s
  | .pairSet h role qp region raddr rkey hb0 hb1 timeout => Sys2Proof.Machine.execPairSet h role qp region raddr rkey hb0 hb1 timeout s
  | .pairClear h => Sys2Proof.Machine.execPairClear h s
  | .pairStatus h => Sys2Proof.Machine.execPairStatus h s
  | .faultLogRead h count => Sys2Proof.Machine.execFaultLogRead h count s
  | .postmortem h flags => Sys2Proof.Machine.execPostmortem h flags s
  | .selftest h mask facts => Sys2Proof.Machine.execSelftest h mask facts s
  | .marginHbm h stack mask param pass => Sys2Proof.Machine.execMarginHbm h stack mask param pass s
  | .marginLink h port maskLo maskHi param pass => Sys2Proof.Machine.execMarginLink h port maskLo maskHi param pass s
  | .traceConfig h va size trig cls events post => Sys2Proof.Machine.execTraceConfig h va size trig cls events post s
  | .traceArm h flags => Sys2Proof.Machine.execTraceArm h flags s
  | .traceRelease h => Sys2Proof.Machine.execTraceRelease h s
  | .traceStatus h => Sys2Proof.Machine.execTraceStatus h s
  | .jobSeedSet h seed => Sys2Proof.Machine.execJobSeedSet h seed s
  | .wkeyInstall h slot bulk => Sys2Proof.Machine.execWkeyInstall h slot bulk s
  | .wkeyClear h slot => Sys2Proof.Machine.execWkeyClear h slot s
  | .fwStage h target bulk => Sys2Proof.Machine.execFwStage h target bulk s
  | .fwCommit h target => Sys2Proof.Machine.execFwCommit h target s
  | .rootFactorSet h va => Sys2Proof.Machine.execRootFactorSet h va s
  | .rootFactorClear h fid => Sys2Proof.Machine.execRootFactorClear h fid s
  | .rootStatus h fid va => Sys2Proof.Machine.execRootStatus h fid va s
  | .rootReset h fid flags => Sys2Proof.Machine.execRootReset h fid flags s
  | .rootSelftest h hall pass => Sys2Proof.Machine.execRootSelftest h hall pass s
  | .solveImageSet h va => Sys2Proof.Machine.execSolveImageSet h va s
  | .solveImageClear h image => Sys2Proof.Machine.execSolveImageClear h image s
  | .solveStatus h image va => Sys2Proof.Machine.execSolveStatus h image va s
  | .taskPlace graph task => Sys2Proof.Machine.execTaskPlace graph task s
  | .taskComplete graph task => Sys2Proof.Machine.execTaskComplete graph task s
  | .stepStart graph => Sys2Proof.Machine.execStepStart graph s
  | .deadlockTimeout graph => Sys2Proof.Machine.execDeadlockTimeout graph s
  | .gateHeld graph task => Sys2Proof.Machine.execGateHeld graph task s
  | .syncInEdge => Sys2Proof.Machine.execSyncInEdge s
  | .holdExpire graph => Sys2Proof.Machine.execHoldExpire graph s
  | .admitMb job step mb => Sys2Proof.Machine.execAdmitMb job step mb s
  | .close job step c => Sys2Proof.Machine.execClose job step c s
  | .start job step expired => Sys2Proof.Machine.execStart job step expired s
  | .midtaskPreemptTimeout graph task st => Sys2Proof.Machine.execMidtaskPreemptTimeout graph task st s
  | .taskSave graph task => Sys2Proof.Machine.execTaskSave graph task s
  | .taskRestore graph task st => Sys2Proof.Machine.execTaskRestore graph task st s
  | .stallQuietPoint hall aisle stall sparePass => Sys2Proof.Machine.execStallQuietPoint hall aisle stall sparePass s
  | .bellSig src index inc seq rid replay => Sys2Proof.Machine.execBellSig src index inc seq rid replay s
  | .bellReg src index target cmp timeout waiter => Sys2Proof.Machine.execBellReg src index target cmp timeout waiter s
  | .bellMsg m => Sys2Proof.Machine.execBellMsg m s
  | .watchTimeout watch also => Sys2Proof.Machine.execWatchTimeout watch also s
  | .watchTableFree home => Sys2Proof.Machine.execWatchTableFree home s
  | .barrierRelease part index gen => Sys2Proof.Machine.execBarrierRelease part index gen s
  | .barrierReleaseAck index => Sys2Proof.Machine.execBarrierReleaseAck index s
  | .bellWindowWrite src off size v => Sys2Proof.Machine.execBellWindowWrite src off size v s
  | .tillCommandWrite src stack bytes => Sys2Proof.Machine.execTillCommandWrite src stack bytes s
  | .tillCommandStart => Sys2Proof.Machine.execTillCommandStart s
  | .tillUnitDone stack unit => Sys2Proof.Machine.execTillUnitDone stack unit s
  | .tillCommandDone => Sys2Proof.Machine.execTillCommandDone s
  | .tillPipeFail stack => Sys2Proof.Machine.execTillPipeFail stack s
  | .faultLimitExpire fault => Sys2Proof.Machine.execFaultLimitExpire fault s
  | .pinProbe graph task => Sys2Proof.Machine.execPinProbe graph task s
  | .moveTransferStart graph task => Sys2Proof.Machine.execMoveTransferStart graph task s
  | .moveTransferDone graph task => Sys2Proof.Machine.execMoveTransferDone graph task s
  | .unitRetire stack unit => Sys2Proof.Machine.execUnitRetire stack unit s
  | .read p => Sys2Proof.Machine.execRead p s
  | .write p => Sys2Proof.Machine.execWrite p s
  | .atomic p => Sys2Proof.Machine.execAtomic p s
  | .resp p => Sys2Proof.Machine.execResp p s
  | .remoteTimeout rid => Sys2Proof.Machine.execRemoteTimeout rid s
  | .epochAheadRetry rid => Sys2Proof.Machine.execEpochAheadRetry rid s
  | .linkFrame port seq flits crcOk => Sys2Proof.Machine.execLinkFrame port seq flits crcOk s
  | .linkNak port firstUnacked => Sys2Proof.Machine.execLinkNak port firstUnacked s
  | .linkAckTimeout port => Sys2Proof.Machine.execLinkAckTimeout port s
  | .creditUpdate port pool vc cls count => Sys2Proof.Machine.execCreditUpdate port pool vc cls count s
  | .headAgeTimeout port vc input => Sys2Proof.Machine.execHeadAgeTimeout port vc input s
  | .laneGroupLoss port rx group => Sys2Proof.Machine.execLaneGroupLoss port rx group s
  | .widthChangeDone port rx => Sys2Proof.Machine.execWidthChangeDone port rx s
  | .portSilenceTimeout port => Sys2Proof.Machine.execPortSilenceTimeout port s
  | .portFail port => Sys2Proof.Machine.execPortFail port s
  | .depart port => Sys2Proof.Machine.execDepart port s
  | .partnerProbeTimeout port => Sys2Proof.Machine.execPartnerProbeTimeout port s
  | .ringState axis a restored => Sys2Proof.Machine.execRingState axis a restored s
  | .lostPart part => Sys2Proof.Machine.execLostPart part s
  | .coll p rank params first data collId step => Sys2Proof.Machine.execColl p rank params first data collId step s
  | .collStart graph task => Sys2Proof.Machine.execCollStart graph task s
  | .collDone graph task => Sys2Proof.Machine.execCollDone graph task s
  | .collTimeout graph task => Sys2Proof.Machine.execCollTimeout graph task s
  | .layoutPrepare coord job epoch => Sys2Proof.Machine.execLayoutPrepare coord job epoch s
  | .layoutReady part job => Sys2Proof.Machine.execLayoutReady part job s
  | .layoutCommit coord job epoch => Sys2Proof.Machine.execLayoutCommit coord job epoch s
  | .layoutAbort coord job => Sys2Proof.Machine.execLayoutAbort coord job s
  | .layoutRefuse part job => Sys2Proof.Machine.execLayoutRefuse part job s
  | .layoutSwitchTimeout job => Sys2Proof.Machine.execLayoutSwitchTimeout job s
  | .weightPrepare coord job epoch => Sys2Proof.Machine.execWeightPrepare coord job epoch s
  | .weightReady part job step mb => Sys2Proof.Machine.execWeightReady part job step mb s
  | .weightCommit coord job epoch step mb => Sys2Proof.Machine.execWeightCommit coord job epoch step mb s
  | .weightAbort coord job => Sys2Proof.Machine.execWeightAbort coord job s
  | .weightSwitchTimeout job => Sys2Proof.Machine.execWeightSwitchTimeout job s
  | .shardFetchDone job bytes => Sys2Proof.Machine.execShardFetchDone job bytes s
  | .shardTimeout job => Sys2Proof.Machine.execShardTimeout job s
  | .crier src job set epoch shard bytes => Sys2Proof.Machine.execCrier src job set epoch shard bytes s
  | .loaded part job => Sys2Proof.Machine.execLoaded part job s
  | .loadMismatch part job => Sys2Proof.Machine.execLoadMismatch part job s
  | .ingestRdmaAccess qp op key off data len => Sys2Proof.Machine.execIngestRdmaAccess qp op key off data len s
  | .workRequestDone qp ok => Sys2Proof.Machine.execWorkRequestDone qp ok s
  | .cnp qp => Sys2Proof.Machine.execCnp qp s
  | .rateRecoveryTick qp => Sys2Proof.Machine.execRateRecoveryTick qp s
  | .rootTaskRun hall graph task => Sys2Proof.Machine.execRootTaskRun hall graph task s
  | .rootIterationBoundary hall deadlinePassed => Sys2Proof.Machine.execRootIterationBoundary hall deadlinePassed s
  | .rootPanelBoundary hall deadlinePassed => Sys2Proof.Machine.execRootPanelBoundary hall deadlinePassed s
  | .rootTaskDone hall => Sys2Proof.Machine.execRootTaskDone hall s
  | .solveTaskRun hall graph task peer => Sys2Proof.Machine.execSolveTaskRun hall graph task peer s
  | .solveIterationBoundary hall deadlinePassed peer => Sys2Proof.Machine.execSolveIterationBoundary hall deadlinePassed peer s
  | .solveReadiness hall partition words peer => Sys2Proof.Machine.execSolveReadiness hall partition words peer s
  | .solvePeerTimeout hall => Sys2Proof.Machine.execSolvePeerTimeout hall s
  | .solveDone hall => Sys2Proof.Machine.execSolveDone hall s
  | .granuleRecon stack addr => Sys2Proof.Machine.execGranuleRecon stack addr s
  | .poisonRead stack addr => Sys2Proof.Machine.execPoisonRead stack addr s
  | .pcFailed stack pc => Sys2Proof.Machine.execPcFailed stack pc s
  | .pcRebuildDone stack => Sys2Proof.Machine.execPcRebuildDone stack s
  | .rowRemap stack pc bank row => Sys2Proof.Machine.execRowRemap stack pc bank row s
  | .rowActivationLimit stack pc bank row => Sys2Proof.Machine.execRowActivationLimit stack pc bank row s
  | .scrubPass stack corrected => Sys2Proof.Machine.execScrubPass stack corrected s
  | .hbmTempRead stack temp => Sys2Proof.Machine.execHbmTempRead stack temp s
  | .phaseLoss rail => Sys2Proof.Machine.execPhaseLoss rail s
  | .railLoss rail => Sys2Proof.Machine.execRailLoss rail s
  | .vbusBelow44v => Sys2Proof.Machine.execVbusBelow44v s
  | .vbusAbove45v => Sys2Proof.Machine.execVbusAbove45v s
  | .vbusBelow42v => Sys2Proof.Machine.execVbusBelow42v s
  | .vbusAbove43v => Sys2Proof.Machine.execVbusAbove43v s
  | .vbusBelow40v => Sys2Proof.Machine.execVbusBelow40v s
  | .vbusAbove41v => Sys2Proof.Machine.execVbusAbove41v s
  | .vbusBelow38v => Sys2Proof.Machine.execVbusBelow38v s
  | .vbusBelow36v => Sys2Proof.Machine.execVbusBelow36v s
  | .vbusOvervoltage => Sys2Proof.Machine.execVbusOvervoltage s
  | .vbusDisconnect => Sys2Proof.Machine.execVbusDisconnect s
  | .vbusLockout => Sys2Proof.Machine.execVbusLockout s
  | .pwrEnRise inWindow => Sys2Proof.Machine.execPwrEnRise inWindow s
  | .pwrEnFall => Sys2Proof.Machine.execPwrEnFall s
  | .partReset straps => Sys2Proof.Machine.execPartReset straps s
  | .watchdogReset => Sys2Proof.Machine.execWatchdogReset s
  | .restart => Sys2Proof.Machine.execRestart s
  | .supplyCheckDone facts => Sys2Proof.Machine.execSupplyCheckDone facts s
  | .startupStepBound step => Sys2Proof.Machine.execStartupStepBound step s
  | .discoveryPartner port serial => Sys2Proof.Machine.execDiscoveryPartner port serial s
  | .discTimeout => Sys2Proof.Machine.execDiscTimeout s
  | .powerSample p => Sys2Proof.Machine.execPowerSample p s
  | .hallVoltageStep raise => Sys2Proof.Machine.execHallVoltageStep raise s
  | .hallPark hall => Sys2Proof.Machine.execHallPark hall s
  | .powerOvercapTimeout => Sys2Proof.Machine.execPowerOvercapTimeout s
  | .junctionReduction hall temp => Sys2Proof.Machine.execJunctionReduction hall temp s
  | .flowGate edges inlet outlet => Sys2Proof.Machine.execFlowGate edges inlet outlet s
  | .lowFlow => Sys2Proof.Machine.execLowFlow s
  | .flowLoss => Sys2Proof.Machine.execFlowLoss s
  | .inletHot inlet held5s => Sys2Proof.Machine.execInletHot inlet held5s s
  | .outletHot => Sys2Proof.Machine.execOutletHot s
  | .thermistorFault b => Sys2Proof.Machine.execThermistorFault b s
  | .junctionTrip temp => Sys2Proof.Machine.execJunctionTrip temp s
  | .capLift inlet => Sys2Proof.Machine.execCapLift inlet s
  | .lcRecalibrate hall => Sys2Proof.Machine.execLcRecalibrate hall s
  | .lcMarkPacket origin id hops => Sys2Proof.Machine.execLcMarkPacket origin id hops s
  | .smbAlertsWrite v => Sys2Proof.Machine.execSmbAlertsWrite v s
  | .smbCapWrite v => Sys2Proof.Machine.execSmbCapWrite v s
  | .smbTallyValueRead => Sys2Proof.Machine.execSmbTallyValueRead s
  | .smbAlertResponse => Sys2Proof.Machine.execSmbAlertResponse s
  | .smbRegWrite code v => Sys2Proof.Machine.execSmbRegWrite code v s
  | .stallUe st => Sys2Proof.Machine.execStallUe st s
  | .stallTimeout st => Sys2Proof.Machine.execStallTimeout st s
  | .aisleUe hall aisle => Sys2Proof.Machine.execAisleUe hall aisle s
  | .aisleTimeout hall aisle => Sys2Proof.Machine.execAisleTimeout hall aisle s
  | .hallUe hall mesh => Sys2Proof.Machine.execHallUe hall mesh s
  | .hallTimeout hall => Sys2Proof.Machine.execHallTimeout hall s
  | .ctxParity t => Sys2Proof.Machine.execCtxParity t s
  | .exchangeTable job step table => Sys2Proof.Machine.execExchangeTable job step table s
  | .exchTimeout job => Sys2Proof.Machine.execExchTimeout job s
  | .heartbeatSend job => Sys2Proof.Machine.execHeartbeatSend job s
  | .heartbeatLoss job => Sys2Proof.Machine.execHeartbeatLoss job s
  | .withdraw job => Sys2Proof.Machine.execWithdraw job s
  | .pairLossBroadcast job => Sys2Proof.Machine.execPairLossBroadcast job s
  | .trigInEdge => Sys2Proof.Machine.execTrigInEdge s
  | .powerOn => Sys2Proof.Machine.execPowerOn s
  | .partnerProbe port answer src => Sys2Proof.Machine.execPartnerProbe port answer src s
  | .snapshotCopyDone job gid => Sys2Proof.Machine.execSnapshotCopyDone job gid s
  | .perBankRefresh stack pc bank => Sys2Proof.Machine.execPerBankRefresh stack pc bank s
  | .creditUpdateTimer port => Sys2Proof.Machine.execCreditUpdateTimer port s

end Sys2Proof.Machine
end

