-- ==== Sys2Proof/WellFormed.lean ====
section
/-! DEFINITION. Well-formed commands: what a row of the table can report. The widths and most ranges are in the types
of Syntax.lean; these are the bounds that remain. -/

namespace Sys2Proof

/-- A task index of a graph: below 2^24 (Table 2.1). -/
def taskOk (t : Nat) : Bool := t < 2 ^ 24

/-- A packet whose payload is what PLEN says (R439). -/
def Pkt.wf (p : Pkt) : Bool := p.payload.isEmpty || p.payload.length = 32 * p.plen.toNat

/-- An element of a stack: its 128 GiB (Table 13.1). -/
def stackAddrOk (a : Nat) : Bool := a < 2 ^ 37

/-- Whether a command is well formed. -/
def Instr.wf : Instr → Bool
  | .taskPlace _ t => taskOk t
  | .taskComplete _ t => taskOk t
  | .gateHeld _ t => taskOk t
  | .midtaskPreemptTimeout _ t _ => taskOk t
  | .taskSave _ t => taskOk t
  | .taskRestore _ t _ => taskOk t
  | .pinProbe _ t => taskOk t
  | .moveTransferStart _ t => taskOk t
  | .moveTransferDone _ t => taskOk t
  | .collStart _ t => taskOk t
  | .collDone _ t => taskOk t
  | .collTimeout _ t => taskOk t
  | .rootTaskRun _ _ t => taskOk t
  | .solveTaskRun _ _ t _ => taskOk t
  | .read p => p.wf
  | .write p => p.wf
  | .atomic p => p.wf
  | .resp p => p.wf
  | .tillCommandWrite _ _ b => b.length = 128
  | .bellWindowWrite _ off n _ => n ≤ 128 && off.toNat < 2 ^ 19
  | .unitRetire _ u => u < 2 ^ 21
  | .granuleRecon _ a => stackAddrOk a
  | .poisonRead _ a => stackAddrOk a
  | .wkeyInstall _ _ b => b.length ≤ 2 ^ 32
  | .startupStepBound n => n.val ≥ 1
  | _ => true

end Sys2Proof
end

