-- ==== Sys2Proof/Safety.lean ====
section
/-! DEFINITION. The terms claims use: an outcome that goes on, the canonical form of the stores, a thread that issues
an instruction (R99, R115), and a host command that starts with a sound header (R517 to R521). -/

namespace Sys2Proof.Machine

/-- An outcome that goes on. -/
def goesOn (o : Host.Outcome State Fault Refusal) : Prop := ∃ s', o = .next s'

/-- The byte stores keep their canonical form: addresses rising, no zero byte listed. -/
abbrev State.storesWf (s : State) : Prop :=
  s.mem.wf = true ∧ s.scratch.wf = true ∧ s.aisleMem.wf = true

/-- Thread `t` holds context `th`, may issue, and its PC holds the word `w` (R98, R115). -/
abbrev State.issues (s : State) (t : ThreadRef) (w : W64) (th : Thread) : Prop :=
  s.thread (tkey t) = some th ∧ s.mayIssue (tkey t) th = true ∧ s.fetch th = .word w

/-- The command `c` (opcode `op`, header `h`) starts now and passes every check before its own rules: admission order, the
part's mode, EXPIRE, the header, the parameter count (R518, R519, R521). -/
abbrev State.serves (s : State) (op : W16) (nparams : Nat) (usesJob : Bool) (h : CmdHdr) (c : Cmd) : Prop :=
  s.host.findCmd op h = some c ∧ s.coresRun = true ∧ s.expired c = false ∧ s.modeAnswer op = none
    ∧ headerBad h nparams usesJob = false ∧ (s.hbmHeld && needsHbm op) = false

/-- A command once it has started, or goes on. -/
def State.begun (s : State) (c : Cmd) : Cmd := c.begun s.hubLc

/-- The state once a command has started. -/
def State.begin_ (s : State) (c : Cmd) : State := s.modCmd c fun _ => s.begun c

/-- A sound packet of this part's own lands: HBM serves, its header holds, it was not applied before (R399, R440, R449). -/
abbrev State.lands (s : State) (p : Pkt) (type : Byte) : Prop :=
  p.type = type ∧ s.power.supply ≠ .off ∧ s.hbmHeld = false ∧ pktHeaderOk p = true ∧ p.dst.toNat % 8192 = s.partNo
    ∧ (pktReplay p && (s.landed p).alreadySeen (p.src.toNat % 8192) p.seq) = false

/-- A request packet that lands passes the tag check and is noted as applied (R449, R455); the state in which it acts. -/
abbrev State.takes (s : State) (p : Pkt) (type : Byte) (u : State) : Prop :=
  s.lands p type ∧ (s.landed p).tagCheck p = none ∧ u = (s.landed p).noteSeq (p.src.toNat % 8192) p.seq

/-- The outcome in which a started command replies. -/
def State.answers (s : State) (c : Cmd) (status : Byte) (results : List W64) : Host.Outcome State Fault Refusal :=
  .next (s.reply c status results)

/-- The outcome in which a started command writes its bulk data and replies (R525). -/
def State.answersBulk (s : State) (c : Cmd) (bytes : List Byte) (results : List W64) : Host.Outcome State Fault Refusal :=
  .next ((s.bulkOut c bytes).reply c stOk results)

end Sys2Proof.Machine
end

