-- ==== Sys2Proof/Certificates/Slice0/Obligations.lean ====
section
/-! DEFINITION. The statements for the provers, one `def Obligations.<Name> : Prop` each. -/

open Sys2Proof Sys2Proof.Machine

/-! ### The queue and reset -/

/-- The command in front of the queue runs, with the rest of the queue left waiting; nothing else runs. -/
def Obligations.StepRunsTheFrontCommand : Prop :=
  ∀ (c : Instr) (rest : List Instr) (s : State), s.pending = c :: rest → step s = exec c { s with pending := rest }

/-- With no command waiting, one lc passes in each hall whose counter runs and at the hub, whose own count follows the lowest
running hall (R4, R638); a report of a lendable hall ends once a thread of it no longer waits long enough, and a hall parked
for that report rises (R376, R589); nothing else changes (log entry 15, the model's choice). -/
def Obligations.EmptyQueueTicks : Prop :=
  ∀ s : State, s.pending = [] → ∃ u : State, step s = .next u
    ∧ u = { s with halls := u.halls, refLc := u.refLc, bell := { s.bell with lendable := u.bell.lendable },
                   power := { s.power with halls := u.power.halls } }
    ∧ (s.clockHall = none → u.refLc = s.refLc + 1) ∧ (∀ c, s.clockHall = some c → u.refLc = s.hallLc c + 1)
    ∧ ∀ h : Fin 4, (u.hall h.val = if (s.hall h.val).lcRunning then { s.hall h.val with lc := (s.hall h.val).lc + 1 } else s.hall h.val)
      ∧ u.bell.lendable.getLsbD h.val = (s.bell.lendable.getLsbD h.val && u.isLendable h.val)
      ∧ let p := s.power.halls.get {} h.val
        u.power.halls.get {} h.val = if s.bell.lendable.getLsbD h.val && !(u.isLendable h.val) && p.lent
          then { p with parked := false, lent := false, returning := true } else p

/-- Right after a part reset every Bell counter reads 0 (R348), every Tally counter and gauge reads 0, no graph, no thread, no
allocation, no space and no claim is left (R537), and every BAR0 register has the reset value of Table 18.2 (the MSI-X table at
0x8000 is the PCIe specification's, R513). -/
def Obligations.ResetLeavesNoJobState : Prop :=
  (∀ i : W16, State.reset.counter i = 0) ∧ (∀ n, State.reset.tallyAt n = 0) ∧ (∀ g, State.reset.graph g = none)
    ∧ (∀ k, State.reset.thread k = none) ∧ State.reset.host.allocs = [] ∧ State.reset.xlt.spaces = []
    ∧ State.reset.host.claims = [] ∧ State.reset.pending = []
    ∧ (∀ o, ¬(0x8000 ≤ o ∧ o < 0x8400) → State.reset.bar0Read o = if o = 0x0000 then 0x01B10A35 else if o = 0x0020 then 4 else if o = 0x0040 then 6
        else if o = 0x0058 then 0x400100 else if o = 0x0078 then 0x10000 else 0)

/-- The byte stores are canonical right after reset. -/
def Obligations.ResetStoresCanonical : Prop := State.reset.storesWf

/-! ### Instructions -/

/-- Every two-operand scalar instruction whose unused bits are 0 sets XD to its result and moves PC by 8 (R115, Table 3.4). B
is XB, or IMM sign-extended; shifts use B[5:0]; MIN, MAX and SLT compare signed values. -/
def Obligations.ScalarResults : Prop :=
  ∀ (t : ThreadRef) (f : ScalarF) (s : State) (th : Thread), (f.i = false → bits f.low 0 38 = 0) →
    let a := th.xr f.xa
    let b := if f.i then f.low.signExtend 64 else th.xr (bits f.low 38 5)
    let sets := fun (v : W64) => Host.Outcome.next (s.retire (tkey t) (th.setX f.xd v))
    (s.issues t (scalarWord 0x00 f) th → exec (.add t f) s = sets (BitVec.ofNat 64 (a.toNat + b.toNat)))
    ∧ (s.issues t (scalarWord 0x01 f) th → exec (.sub t f) s = sets (BitVec.ofInt 64 (a.toInt - b.toInt)))
    ∧ (s.issues t (scalarWord 0x02 f) th → exec (.mul t f) s = sets (BitVec.ofNat 64 (a.toNat * b.toNat)))
    ∧ (s.issues t (scalarWord 0x03 f) th → exec (.mulhu t f) s = sets (BitVec.ofNat 64 (a.toNat * b.toNat / 2 ^ 64)))
    ∧ (s.issues t (scalarWord 0x04 f) th → exec (.and t f) s = sets (a &&& b))
    ∧ (s.issues t (scalarWord 0x05 f) th → exec (.or t f) s = sets (a ||| b))
    ∧ (s.issues t (scalarWord 0x06 f) th → exec (.xor t f) s = sets (a ^^^ b))
    ∧ (s.issues t (scalarWord 0x07 f) th → exec (.shl t f) s = sets (BitVec.ofNat 64 (a.toNat * 2 ^ (b.toNat % 64))))
    ∧ (s.issues t (scalarWord 0x08 f) th → exec (.shr t f) s = sets (BitVec.ofNat 64 (a.toNat / 2 ^ (b.toNat % 64))))
    ∧ (s.issues t (scalarWord 0x09 f) th → exec (.sar t f) s = sets (BitVec.ofInt 64 (a.toInt / (2 ^ (b.toNat % 64) : Nat))))
    ∧ (s.issues t (scalarWord 0x0A f) th → exec (.min t f) s = sets (if a.toInt ≤ b.toInt then a else b))
    ∧ (s.issues t (scalarWord 0x0B f) th → exec (.max t f) s = sets (if a.toInt ≤ b.toInt then b else a))
    ∧ (s.issues t (scalarWord 0x0C f) th → exec (.slt t f) s = sets (if a.toInt < b.toInt then 1 else 0))
    ∧ (s.issues t (scalarWord 0x0D f) th → exec (.sltu t f) s = sets (if a.toNat < b.toNat then 1 else 0))

/-- MOVI, MOVHI and RDSYS in every form (Table 3.4, R99, R102). MOVI gives XD the immediate, sign-extended; MOVHI replaces
XD[63:43] and keeps XD[42:0]; RDSYS gives the stall's identifier, the task's index, the step, the micro-batch tag, the weight
epoch, the hall's count or the number of micro-batches admitted, by IMM. With I = 0, XA non-zero, a non-zero IMM[42:21] of
MOVHI, or another IMM of RDSYS, the instruction traps with cause ILLEGAL. -/
def Obligations.ImmediatesAndSystemValues : Prop :=
  ∀ (t : ThreadRef) (f : ScalarF) (s : State) (th : Thread) (gr : Graph),
    let k := tkey t
    let sets := fun (v : W64) => Host.Outcome.next (s.retire k (th.setX f.xd v))
    let traps := fun (w : W64) => Host.Outcome.next (s.trap k .illegal 0 w)
    let sound := f.i = true ∧ f.xa = 0
    (s.issues t (scalarWord 0x0E f) th →
      (sound → exec (.movi t f) s = sets (BitVec.ofInt 64 f.low.toInt)) ∧ (¬ sound → exec (.movi t f) s = traps (scalarWord 0x0E f)))
    ∧ (s.issues t (scalarWord 0x0F f) th →
      (sound → f.low.toNat < 2 ^ 21 →
        exec (.movhi t f) s = sets (BitVec.ofNat 64 (f.low.toNat * 2 ^ 43 + (th.xr f.xd).toNat % 2 ^ 43)))
      ∧ (¬ (sound ∧ f.low.toNat < 2 ^ 21) → exec (.movhi t f) s = traps (scalarWord 0x0F f)))
    ∧ (s.issues t (scalarWord 0x12 f) th → s.graph th.graph = some gr →
      (sound →
        (f.low = 0 → exec (.rdsys t f) s = sets ((logicalStall (skey t.st)).setWidth 64))
        ∧ (f.low = 1 → exec (.rdsys t f) s = sets (BitVec.ofNat 64 th.task))
        ∧ (f.low = 2 → exec (.rdsys t f) s = sets (gr.step.setWidth 64))
        ∧ (f.low = 3 → exec (.rdsys t f) s = sets ((tagMb (s.threadTags th)).setWidth 64))
        ∧ (f.low = 4 → exec (.rdsys t f) s = sets ((tagWeight (s.threadTags th)).setWidth 64))
        ∧ (f.low = 5 → exec (.rdsys t f) s = sets (s.hallLc (hallOf (skey t.st))))
        ∧ (f.low = 6 → exec (.rdsys t f) s = sets (BitVec.ofNat 64 (gr.closeC.getD gr.admitted))))
      ∧ (¬ (sound ∧ f.low.toNat ≤ 6) → exec (.rdsys t f) s = traps (scalarWord 0x12 f)))

/-- LD and ST reach the stall's own scratch only, at a multiple of 8 below 786,432: LD reads the 8 bytes there, ST writes them
and no other byte of any store; any other address traps with SCRATCH_RANGE and the address as DETAIL (R101); I = 0 is ILLEGAL
(Table 3.4); one that meets a pending move or drain waits (R116). -/
def Obligations.LoadsAndStores : Prop :=
  ∀ (t : ThreadRef) (f : ScalarF) (s : State) (th : Thread),
    let a := th.xr f.xa + f.low.signExtend 64
    let k := tkey t
    let own := skey t.st * 786432 + a.toNat
    let run : Run := ⟨0, a.toNat, a.toNat + 8⟩
    let waits := fun w => Host.Outcome.next (s.setThread k (some { th with status := .held w }))
    (f.i = false → (s.issues t (scalarWord 0x10 f) th → exec (.ld t f) s = .next (s.trap k .illegal 0 (scalarWord 0x10 f)))
      ∧ (s.issues t (scalarWord 0x11 f) th → exec (.st t f) s = .next (s.trap k .illegal 0 (scalarWord 0x11 f))))
    ∧ (f.i = true → a.toNat % 8 = 0 → a.toNat < 786432 →
      (s.issues t (scalarWord 0x10 f) th →
        (s.holdFor k th [run] [] = none → exec (.ld t f) s = .next ((s.touch th.graph th.task a.toNat (a.toNat + 7)).retire k
          (th.setX f.xd (BitVec.ofNat 64 (ofLe (s.scratch.read own 8))))))
        ∧ (∀ w, s.holdFor k th [run] [] = some w → exec (.ld t f) s = waits w))
      ∧ (s.issues t (scalarWord 0x11 f) th →
        (s.holdFor k th [] [run] = none → ∃ u : State, exec (.st t f) s = .next u ∧ u.scratch.read own 8 = leBytes 8 (th.xr f.xd).toNat
          ∧ (∀ x, x < own ∨ own + 8 ≤ x → u.scratch.get x = s.scratch.get x) ∧ u.aisleMem = s.aisleMem ∧ u.mem = s.mem)
        ∧ (∀ w, s.holdFor k th [] [run] = some w → exec (.st t f) s = waits w)))
    ∧ (f.i = true → (a.toNat % 8 ≠ 0 ∨ a.toNat ≥ 786432) →
      (s.issues t (scalarWord 0x10 f) th → exec (.ld t f) s = .next (s.trap k .scratchRange a (scalarWord 0x10 f)))
      ∧ (s.issues t (scalarWord 0x11 f) th → exec (.st t f) s = .next (s.trap k .scratchRange a (scalarWord 0x11 f))))

/-- Branches and JR (Tables 3.5 and 3.6, R103): a taken branch goes to PC + 8 × OFFS, LINK writes PC + 8, JR goes to XA. A JR
whose target is not a multiple of 8 traps with cause ILLEGAL_TARGET (R103). TRAP takes a trap of cause SOFTWARE with OFFS[15:0]
in DETAIL; END of a thread with no slot left ends it: the context is free at once when no move, remote write or drain of it is
pending, else the thread waits for that; END of a thread with an open or held slot traps with cause SLOT_STATE (R125, Table
3.6). -/
def Obligations.ControlTransfers : Prop :=
  (∀ (t : ThreadRef) (f : ControlF) (s : State) (th : Thread), f.rsv = 0 →
      let k := tkey t
      let a := th.xr f.xa
      let b := th.xr f.xb
      let target := BitVec.ofInt 64 (th.pc.toNat + 8 * f.offs.toInt)
      let linked := if f.link then th.setX f.xl (BitVec.ofNat 64 (th.pc.toNat + 8)) else th
      let cond := fun (c : Bool) => Host.Outcome.next (if c then s.retireTo k th target else s.retire k th)
      (s.issues t (controlWord 0x00 f) th → f.xa = 0 → f.xb = 0 → (f.link = false → f.xl = 0) →
        exec (.br t f) s = .next (s.retireTo k linked target))
      ∧ (f.link = false → f.xl = 0 →
        (s.issues t (controlWord 0x01 f) th → exec (.beq t f) s = cond (a = b))
        ∧ (s.issues t (controlWord 0x02 f) th → exec (.bne t f) s = cond (a ≠ b))
        ∧ (s.issues t (controlWord 0x03 f) th → exec (.blt t f) s = cond (a.toInt < b.toInt))
        ∧ (s.issues t (controlWord 0x04 f) th → exec (.bge t f) s = cond (b.toInt ≤ a.toInt))
        ∧ (s.issues t (controlWord 0x05 f) th → exec (.bltu t f) s = cond (a.toNat < b.toNat))
        ∧ (s.issues t (controlWord 0x06 f) th → exec (.bgeu t f) s = cond (b.toNat ≤ a.toNat)))
      ∧ (s.issues t (controlWord 0x08 f) th → f.xb = 0 → f.offs = 0 → (f.link = false → f.xl = 0) → a.toNat % 8 = 0 →
        exec (.jr t f) s = .next (s.retireTo k linked a)))
  ∧ (∀ (t : ThreadRef) (f : ControlF) (s : State) (th : Thread), s.issues t (controlWord 0x08 f) th → f.rsv = 0 → f.xb = 0 →
      f.offs = 0 → (f.link = false → f.xl = 0) → (th.xr f.xa).toNat % 8 ≠ 0 →
      exec (.jr t f) s = .next (s.trap (tkey t) .illegalTarget (th.xr f.xa) (controlWord 0x08 f)))
  ∧ (∀ (t : ThreadRef) (f : ControlF) (s : State) (th : Thread), f.xa = 0 → f.xb = 0 → f.xl = 0 → f.link = false → f.rsv = 0 →
      (s.issues t (controlWord 0x0E f) th → f.offs.toNat < 65536 →
        exec (.trap t f) s = .next (s.trap (tkey t) .software (BitVec.ofNat 64 f.offs.toNat) (controlWord 0x0E f)))
      ∧ (s.issues t (controlWord 0x0F f) th → f.offs = 0 → (∀ x ∈ (s.stall (skey t.st)).slots, x.owner ≠ tkey t) →
        ∃ u : State, exec (.endI t f) s = .next u ∧
          if s.canEnd (tkey t) th then u.thread (tkey t) = none else (u.thread (tkey t)).map (·.status) = some .ending)
      ∧ (∀ x, s.issues t (controlWord 0x0F f) th → f.offs = 0 → (s.stall (skey t.st)).slots.find? (fun x => x.owner = tkey t) = some x →
        exec (.endI t f) s = .next (s.trap (tkey t) .slotState (BitVec.ofNat 64 x.idx) (controlWord 0x0F f))))

/-- What a trap does (R123, R124): its record is the newest of the stall's trap log, which keeps 16; the threads of the task
stop, and the only contexts left to it are those of accepted moves still under way; its slots of the stall are free; the task
is aborted and the graph ends with status 0x26 unless it had ended or had a cause already. A word with a reserved CLASS or an
OP its class does not list traps with cause ILLEGAL, whichever row stands for its issue (R99; log entry 6). A field that its
class or OP does not use must be zero: with any other value the instruction traps with ILLEGAL and DETAIL 0 (R99, Tables 3.4 to
3.6, 3.11 to 3.13). This holds for every scalar, control, register-move and sync OP; CMP 3 and an empty TOKMASK of WAITTOK are
ILLEGAL too, as is a TRAP code above 65,535. -/
def Obligations.TrapActions : Prop :=
  ((∀ (s : State) (t : ThreadRef) (th : Thread) (cause : Cause) (detail insn : W64) (gr : Graph),
      s.thread (tkey t) = some th → s.graph th.graph = some gr → gr.phase ≠ .ended → (s.task th.graph th.task).isSome = true →
      let u := s.trap (tkey t) cause detail insn
      (∃ r, (u.stall (skey t.st)).trapLog = (r :: (s.stall (skey t.st)).trapLog).take 16 ∧ r.cause = cause.code ∧ r.pc = th.pc
          ∧ r.insn = insn ∧ r.detail = detail ∧ r.graph = th.graph ∧ r.task = th.task ∧ r.thread = th.idx)
      ∧ (∀ k x, u.thread k = some x → x.graph = th.graph → x.task = th.task →
          x.status = .stopped ∧ ∀ m ∈ x.moves, m.finished = false ∧ m.fault = none)
      ∧ ((s.task th.graph th.task).bind (·.place) = some (skey t.st) →
          ∀ x ∈ (u.stall (skey t.st)).slots, ¬ (x.graph = th.graph ∧ x.task = th.task))
      ∧ (u.task th.graph th.task).map (·.st) = some .aborted
      ∧ (u.graph th.graph).map (·.cause) = some (some (gr.cause.getD ⟨0x26, BitVec.ofNat 64 (th.task + cause.code.toNat * 2 ^ 24)⟩)))
    ∧ (∀ (s : State) (t : ThreadRef) (th : Thread) (w : W64) (x : ScalarF) (y : SyncF),
        s.thread (tkey t) = some th → s.mayIssue (tkey t) th = true → s.fetch th = .word w → wordListed w = false →
        exec (.add t x) s = .next (s.trap (tkey t) .illegal 0 w) ∧ exec (.yield t y) s = .next (s.trap (tkey t) .illegal 0 w)))
  ∧ (∀ (t : ThreadRef) (x : ScalarF) (c : ControlF) (v : MoveRegF) (y : SyncF) (s : State) (th : Thread),
      let traps := fun (i : Instr) (w : W64) => s.issues t w th → exec i s = .next (s.trap (tkey t) .illegal 0 w)
      let xs : List (BitVec 6 × Instr) := [(0, .add t x), (1, .sub t x), (2, .mul t x), (3, .mulhu t x), (4, .and t x), (5, .or t x), (6, .xor t x),
        (7, .shl t x), (8, .shr t x), (9, .sar t x), (10, .min t x), (11, .max t x), (12, .slt t x), (13, .sltu t x)]
      let bs : List (BitVec 6 × Instr) := [(1, .beq t c), (2, .bne t c), (3, .blt t c), (4, .bge t c), (5, .bltu t c), (6, .bgeu t c)]
      let jump := c.link = false ∧ c.xl ≠ 0 ∨ c.rsv ≠ 0
      let code := c.xa ≠ 0 ∨ c.xb ≠ 0 ∨ c.xl ≠ 0 ∨ c.link = true ∨ c.rsv ≠ 0
      let sync := fun (d a b k m : Bool) => (d = false ∧ y.xd ≠ 0) ∨ (a = false ∧ y.xa ≠ 0) ∨ (b = false ∧ y.xb ≠ 0)
        ∨ (k = false ∧ (y.cmp ≠ 0 ∨ y.timeout ≠ 0)) ∨ y.cmp = 3 ∨ (m = false ∧ y.tokmask ≠ 0) ∨ y.rsv ≠ 0
      (x.i = false → bits x.low 0 38 ≠ 0 → ∀ p ∈ xs, traps p.2 (scalarWord p.1 x))
      ∧ (c.link = true ∨ c.xl ≠ 0 ∨ c.rsv ≠ 0 → ∀ p ∈ bs, traps p.2 (controlWord p.1 c))
      ∧ (c.xa ≠ 0 ∨ c.xb ≠ 0 ∨ jump → traps (.br t c) (controlWord 0x00 c))
      ∧ (c.xb ≠ 0 ∨ c.offs ≠ 0 ∨ jump → traps (.jr t c) (controlWord 0x08 c))
      ∧ (code ∨ 65536 ≤ c.offs.toNat → traps (.trap t c) (controlWord 0x0E c))
      ∧ (code ∨ c.offs ≠ 0 → traps (.endI t c) (controlWord 0x0F c))
      ∧ (v.xa ≠ 0 ∨ v.creg ≠ 0 ∨ v.mreg ≠ 0 ∨ v.rsv ≠ 0 → traps (.dmov t v) (moveRegWord 0x08 v))
      ∧ (v.dsrc ≠ 0 ∨ v.creg ≠ 0 ∨ v.mreg ≠ 0 ∨ v.rsv ≠ 0 → traps (.dld t v) (moveRegWord 0x09 v) ∧ traps (.dst t v) (moveRegWord 0x0A v))
      ∧ (v.dsrc ≠ 0 ∨ v.dreg ≠ 0 ∨ v.mreg ≠ 0 ∨ v.rsv ≠ 0 → traps (.cld t v) (moveRegWord 0x0B v) ∧ traps (.cst t v) (moveRegWord 0x0C v))
      ∧ (v.dsrc ≠ 0 ∨ v.dreg ≠ 0 ∨ v.creg ≠ 0 ∨ v.rsv ≠ 0 → traps (.mld t v) (moveRegWord 0x0D v) ∧ traps (.mst t v) (moveRegWord 0x0E v))
      ∧ (sync false true true false false → traps (.sig t y) (syncWord 0 y))
      ∧ (sync true true true true false → traps (.wait t y) (syncWord 1 y))
      ∧ (sync true true false false false → traps (.barrier t y) (syncWord 2 y))
      ∧ (sync false false false false true ∨ y.tokmask = 0 → traps (.waittok t y) (syncWord 3 y))
      ∧ (sync false false false false false → traps (.fence t y) (syncWord 4 y) ∧ traps (.yield t y) (syncWord 5 y)))

/-- MMA, MMA_TA and MMA_TB in every form (Table 3.7, R120, R122, R156, R161 to R164, R171, R177, R181, R186 to R188, R639). An
instruction that breaks a check traps with the first cause of R639; a drain form empties its held slot; one that finds its
stall in, or about to enter, another task's exact-slice mode waits, and so does one without a free physical slot, which traps
with SLOT_EXHAUSTED when all 64 are its own task's. Any other forms its product once no pending move or drain overlaps: PC
moves by 8, and the slot then holds the sums of products of its A and B tiles (A transposed for MMA_TA, B for MMA_TB, slices in
exact-slice mode), which replace its values at BEGIN = 1 and are added to them at BEGIN = 0; with CLOSE it is the newest drain
of the stall; with TAP, slot TSLOT accumulates the transposed tap partner times A. Element (r, c) of a product is the exact sum
of the 32 products a[r][k] × b[k][c]; a floating-point slot rounds it once to its format, alone at BEGIN and added to the
element otherwise (R156); an integer slot adds it exactly and saturates, and a saturated element stays so (R158). An MMA that
breaks rules of several kinds traps with the first cause in the order of R639: an instruction whose fields break R104 traps
with ILLEGAL whatever else it breaks. -/
def Obligations.TensorProducts : Prop :=
  (∀ (op : Fin 3) (t : ThreadRef) (f : TensorF) (s : State) (th : Thread),
      let k := tkey t
      let st := skey t.st
      let i := s.stall st
      let w := tensorWord (BitVec.ofNat 6 op.val) f
      let c := match op with | 0 => Instr.mma t f | 1 => .mmaTa t f | 2 => .mmaTb t f
      let half : Bool := decide (f.accw = 1)
      let free := 64 - i.usedSlots
      s.issues t w th →
      (∀ cause d, mmaCheck op.val f th k s = some (cause, d) → exec c s = .next (s.trap k cause d w))
      ∧ (mmaCheck op.val f th k s = none →
        (f.fmt ≠ 0xB → (i.exact ≠ none ∨ (f.beginF = true ∧ i.exactNext ≠ none)) → exec c s = .next (s.hold k th .xmode))
        ∧ ((f.fmt = 0xB ∨ (i.exact = none ∧ (f.beginF = true → i.exactNext = none))) →
          (∀ x, drainTarget op.val f k i = some x → s.holdFor k th [] (mmaWrites f th) = none → exec c s = .next (closeSlot s k th f x))
          ∧ (drainTarget op.val f k i = none →
            (free < mmaNeeds f th k i (s.widens f th) → exec c s = .next (if i.exhausted th.graph th.task
              then s.trap k .slotExhausted (BitVec.ofNat 64 (tensorIdx f)) w
              else s.setThread k (some { th with status := .slotWait op.val f (s.hallLc (hallOf st)) })))
            ∧ (mmaNeeds f th k i (s.widens f th) ≤ free →
              (∀ why, s.holdFor k th (mmaReads op.val f th) (mmaWrites f th) = some why → exec c s = .next (s.hold k th why))
              ∧ (s.holdFor k th (mmaReads op.val f th) (mmaWrites f th) = none →
                ∃ u : State, exec c s = .next (u.trapExhausted st) ∧ (u.thread k).map (·.pc) = some (th.pc + 8) ∧
                  let mode := (i.exact.map (·.1)).getD 0
                  let n := if f.fmt = 0xB then (if mode = 1 then 7 else 4) else 0
                  let ra := (operandTile s st th f.da f.xia n th.reuseA).1
                  let rb := (operandTile s st th f.db f.xib n th.reuseB).1
                  let a := if op = 1 then tilesT n ra else ra
                  let b := if op = 2 then tilesT n rb else rb
                  let sums := if f.fmt = 0xB then sliceSums n (if mode = 1 then 8 else 5) a b else mmaSums a b
                  (∀ old : Slot, s.widens f th = false →
                    (if f.beginF then old = { owner := k, graph := th.graph, task := th.task, idx := tensorIdx f, half := half,
                                              kind := targetKind f th k i, fmt := f.fmt, accw := f.accw, vals := [] }
                     else i.find k (tensorIdx f) half = some old) →
                    let x := old.accumulate f.beginF sums
                    (f.close = false → (u.stall st).find k (tensorIdx f) half = some x)
                    ∧ (f.close = true → ∃ d : Drain, (u.stall st).drains = i.drains ++ [d] ∧ d.slot = x ∧ d.mode = f.drain
                        ∧ d.dc = (th.dr f.dc).getD 0 ∧ d.origin = th.originOf f.xic ∧ (u.stall st).find k (tensorIdx f) half = none))
                  ∧ (∀ p, f.tap = true → partnerOf op.val f th = some p →
                    let pt := s.readTile st (th.desc p.dreg) p.origin
                    let fresh : Slot := { owner := k, graph := th.graph, task := th.task, idx := f.tslot.toNat, st := .heldTap,
                                          kind := if f.fmt = 9 && intKind (th.desc p.dreg) (th.desc f.da) then .i32 else .f32, fmt := f.fmt, vals := [] }
                    (u.stall st).find k f.tslot.toNat false = some (((i.find k f.tslot.toNat false).getD fresh).accumulate
                      (i.find k f.tslot.toNat false).isNone (mmaSums (tileT (if p.transposed then tileT pt else pt)) a)))))))))
  ∧ ((∀ (a b : List FVal) (r c : Fin 32),
      (mmaSums a b).length = 1024 ∧ tileAt (mmaSums a b) r.val c.val
        = FVal.sum ((List.range 32).map fun k => (tileAt a r.val k).mul (tileAt b k c.val)))
    ∧ (∀ (x : Slot) (fresh : Bool) (sums : List FVal) (e : Fin 1024),
      let v := sums.getD e.val (.fin false 0 0)
      let got := (x.accumulate fresh sums).vals.getD e.val 0
      (x.kind.isInt = false → got = (x.ffmt.encode (if fresh then v else (x.ffmt.decode (x.vals.getD e.val 0).toNat).add v) : Nat))
      ∧ (x.kind.isInt = true → got = if fresh = false ∧ e.val ∈ x.sat then x.vals.getD e.val 0
          else max x.kind.range.1 (min x.kind.range.2 ((if fresh then 0 else x.vals.getD e.val 0) + v.trunc)))))
  ∧ (∀ (op : Fin 3) (t : ThreadRef) (f : TensorF) (s : State) (th : Thread),
      s.issues t (tensorWord (BitVec.ofNat 6 op.val) f) th → tensorIllegal f = true →
      exec (match op with | 0 => Instr.mma t f | 1 => .mmaTa t f | 2 => .mmaTb t f) s
        = .next (s.trap (tkey t) .illegal 0 (tensorWord (BitVec.ofNat 6 op.val) f)))

/-- A PASS that passes its checks and meets no pending move or drain streams its sources through the chain CC names into DD
(R107, R193); a copy that passes its checks and finds its token free is accepted, moves what it can at once, and lets the
thread go on when it is asynchronous, and waits for a busy token (R108, R115, R116); each traps with the first check it breaks,
and waits while a pending move or drain overlaps. -/
def Obligations.PassAndCopies : Prop :=
  ∀ (t : ThreadRef) (s : State) (th : Thread),
    let k := tkey t
    (∀ f : ChainF, s.issues t (chainWord 0 f) th →
      (∀ cause d, passCheck f th s = some (cause, d) → exec (.pass t f) s = .next (s.trap k cause d (chainWord 0 f)))
      ∧ (passCheck f th s = none →
        let p := passOps f th (skey t.st)
        let e := passEnv f th s
        let n := passRow e.cfg p.ds p.dd (th.originOf f.xis)
        let ext := if e.cfg.rout = 0 then p.ext else p.ds.movedExt.set 0 n
        let reads := p.ds.runs p.os (if p.ds.fmt = 0xB then ext.set 2 (p.ds.extent 2) else ext) false
          ++ (match p.ds2 with | some d => d.runs p.os2 (p.ext.set 0 n) false | none => [])
        let writes := p.dd.runs p.od p.dd.movedExt true
        (∀ why, s.holdFor k th reads writes = some why → exec (.pass t f) s = .next (s.hold k th why))
        ∧ (s.holdFor k th reads writes = none →
          exec (.pass t f) s = .next (((p.run e n s).touchRuns th.graph th.task (reads ++ writes)).retire k th.wroteScratch))))
    ∧ (∀ (op : Fin 3) (f : CopyF),
      let w := copyWord (BitVec.ofNat 6 op.val) f
      let c := match op with | 0 => Instr.copy t f | 1 => .tcopy t f | 2 => .pcopy t f
      let m : Move := { tok := if f.async then f.tok.toNat else 4, word := w, pc := th.pc, ds := (th.dr f.ds).getD 0,
                        dd := (th.dr f.dd).getD 0, os := th.originOf f.xis, od := th.originOf f.xid, op := op.val, perm := f.perm }
      s.issues t w th →
      (∀ cause d, copyCheck op.val f th s = some (cause, d) → exec c s = .next (s.trap k cause d w))
      ∧ (copyCheck op.val f th s = none →
        ((∃ x ∈ th.moves, x.tok = m.tok) → exec c s = .next (s.hold k th .token))
        ∧ ((∀ x ∈ th.moves, x.tok ≠ m.tok) → ∀ why, s.holdFor k th m.srcRuns m.dstRuns = some why → exec c s = .next (s.hold k th why))
        ∧ ((∀ x ∈ th.moves, x.tok ≠ m.tok) → s.holdFor k th m.srcRuns m.dstRuns = none →
          ∃ th', th'.moves = th.moves ++ [m] ∧ th'.x = th.x ∧ th'.d = th.d ∧ th'.status = (if f.async then .ready else .syncMove) ∧
            exec c s = .next (((s.touchRuns th.graph th.task (m.srcRuns ++ m.dstRuns)).retire k th').pumpMove k m))))

/-- The register moves (Table 3.11, R96, R109, R143, R144): DMOV copies a valid descriptor register; DLD, CLD and MLD read 64,
32 and 16 aligned bytes of scratch; DST, CST and MST write them; each waits while an earlier move or drain of the thread
overlaps. DMOV and DST trap with the first check that the descriptor they read breaks; an access that is misaligned or outside
scratch traps with SCRATCH_RANGE and its address as DETAIL. -/
def Obligations.RegisterMoves : Prop :=
  ∀ (t : ThreadRef) (f : MoveRegF) (s : State) (th : Thread), f.rsv = 0 →
    let k := tkey t
    let a := (th.xr f.xa).toNat
    let span := fun (n : Nat) => s.touch th.graph th.task a (a + n - 1)
    let inside := fun (n : Nat) => a % n = 0 ∧ a + n ≤ 786432
    let free := fun (n : Nat) (st : Bool) => inside n ∧
      s.holdFor k th (if st then [] else [⟨0, a, a + n⟩]) (if st then [⟨0, a, a + n⟩] else []) = none
    let val := fun (n : Nat) => ofLe (s.sread (skey t.st) 0 a n)
    let stored := fun (n v : Nat) => Host.Outcome.next (((span n).swrite (skey t.st) 0 a (leBytes n v)).retire k th.wroteScratch)
    let traps := fun (w : W64) => Host.Outcome.next (s.trap k .scratchRange (th.xr f.xa) w)
    let waits := fun (n : Nat) (st : Bool) (c : Instr) => ∀ why, inside n →
      s.holdFor k th (if st then [] else [⟨0, a, a + n⟩]) (if st then [⟨0, a, a + n⟩] else []) = some why → exec c s = .next (s.hold k th why)
    (f.xa = 0 → f.creg = 0 → f.mreg = 0 → s.issues t (moveRegWord 0x08 f) th →
      (∀ w, th.dr f.dsrc = some w → s.readCheck th f.dsrc = none → exec (.dmov t f) s = .next (s.retire k (th.setD f.dreg (some w))))
      ∧ (∀ c d, s.readCheck th f.dsrc = some (c, d) → exec (.dmov t f) s = .next (s.trap k c d (moveRegWord 0x08 f))))
    ∧ (f.dsrc = 0 → f.creg = 0 → f.mreg = 0 → s.issues t (moveRegWord 0x09 f) th →
      (free 64 false → exec (.dld t f) s = .next ((span 64).retire k (th.setD f.dreg (some (BitVec.ofNat 512 (val 64))))))
      ∧ waits 64 false (.dld t f)
      ∧ (¬ inside 64 → exec (.dld t f) s = traps (moveRegWord 0x09 f)))
    ∧ (f.dsrc = 0 → f.creg = 0 → f.mreg = 0 → s.issues t (moveRegWord 0x0A f) th →
      (∀ w, th.dr f.dreg = some w → s.readCheck th f.dreg = none →
        (free 64 true → exec (.dst t f) s = stored 64 w.toNat) ∧ waits 64 true (.dst t f) ∧ (¬ inside 64 → exec (.dst t f) s = traps (moveRegWord 0x0A f)))
      ∧ (∀ c d, s.readCheck th f.dreg = some (c, d) → exec (.dst t f) s = .next (s.trap k c d (moveRegWord 0x0A f))))
    ∧ (f.dreg = 0 → f.dsrc = 0 → f.mreg = 0 → s.issues t (moveRegWord 0x0B f) th →
      (free 32 false → exec (.cld t f) s = .next ((span 32).retire k { th with c := th.c.set 0 f.creg.toNat (BitVec.ofNat 256 (val 32)) }))
      ∧ waits 32 false (.cld t f)
      ∧ (¬ inside 32 → exec (.cld t f) s = traps (moveRegWord 0x0B f)))
    ∧ (f.dreg = 0 → f.dsrc = 0 → f.mreg = 0 → s.issues t (moveRegWord 0x0C f) th →
      (free 32 true → exec (.cst t f) s = stored 32 (th.c.get 0 f.creg.toNat).toNat)
      ∧ waits 32 true (.cst t f)
      ∧ (¬ inside 32 → exec (.cst t f) s = traps (moveRegWord 0x0C f)))
    ∧ (f.dreg = 0 → f.dsrc = 0 → f.creg = 0 → s.issues t (moveRegWord 0x0D f) th →
      (free 16 false → exec (.mld t f) s = .next ((span 16).retire k { th with m := th.m.set 0 f.mreg.toNat (BitVec.ofNat 128 (val 16)) }))
      ∧ waits 16 false (.mld t f)
      ∧ (¬ inside 16 → exec (.mld t f) s = traps (moveRegWord 0x0D f)))
    ∧ (f.dreg = 0 → f.dsrc = 0 → f.creg = 0 → s.issues t (moveRegWord 0x0E f) th →
      (free 16 true → exec (.mst t f) s = stored 16 (th.m.get 0 f.mreg.toNat).toNat)
      ∧ waits 16 true (.mst t f)
      ∧ (¬ inside 16 → exec (.mst t f) s = traps (moveRegWord 0x0E f)))

/-- SIG advances a counter that is neither lost nor a barrier once no earlier write of the thread is pending, here at once, at
another part by a request (R111, R352); WAIT and BARRIER suspend the thread with a watch stored, an entry made or an entry
sent, a re-run's BARRIER for its journalled generation (R112, R365, R373); WAITTOK and FENCE go on when nothing is pending, and
suspend the thread otherwise (Table 3.13); YIELD makes the thread the least recently issued. A SIG of a lost counter or a
barrier, and one, a WAIT or a BARRIER that names a part outside the domain, trap with ADDRESS (R41, R350, R368). -/
def Obligations.SyncInstructions : Prop :=
  ∀ (t : ThreadRef) (f : SyncF) (s : State) (th : Thread),
    let k := tkey t
    let hall := hallOf (skey t.st)
    let part := ((th.xr f.xa).toNat / 2 ^ 16) % 2 ^ 13
    let i : W16 := BitVec.ofNat 16 (th.xr f.xa).toNat
    let at_ := BitVec.ofNat 64 (counterAddr part i)
    let outside := fun (w : W64) => Host.Outcome.next
      ((s.accessFault hall false (counterAddr part i) (s.threadTags th)).trap k .address at_ w)
    (s.issues t (syncWord 0 f) th → syncBad false true true false false false f = false → s.writesPending k th = none →
      let j := s.journalSignal th.graph th.task part i (th.xr f.xb)
      (s.member part = false → exec (.sig t f) s = outside (syncWord 0 f))
      ∧ (s.member part = true → part = s.partNo → (s.bellLost i = false ∧ s.isBarrier i = false →
          ∃ u : State, j.2.signal i j.1 = some u ∧ exec (.sig t f) s = .next (u.retire k th))
        ∧ (s.bellLost i = true ∨ s.isBarrier i = true → exec (.sig t f) s = .next (j.2.trap k .address at_ (syncWord 0 f))))
      ∧ (s.member part = true → part ≠ s.partNo → exec (.sig t f) s = .next
          (((j.2.setThread k (some { th with status := .remote (syncWord 0 f), issued := s.clock })).tick).request (bellPacket 0x04 part i [j.1]) (.bell k))))
    ∧ (s.issues t (syncWord 1 f) th → syncBad true true true true true false f = false →
      (s.member part = false → exec (.wait t f) s = outside (syncWord 1 f))
      ∧ (s.member part = true → let lim : W32 := th.timeoutLeft.elim (f.timeout.setWidth 32) (·.setWidth 32)
        let th' := { th with status := .wait f.xd part i (s.hallLc hall) lim, timeoutLeft := none, issued := s.clock, watch := s.bell.nextWatch }
        exec (.wait t f) s = .next ((((s.setThread k (some th')).tick).registerAt part i (th.xr f.xb) f.cmp lim (.thread k)).updateLend hall)))
    ∧ (s.issues t (syncWord 2 f) th → syncBad true true false false false false f = false →
      let rerun := (s.task th.graph th.task).bind fun ts => journalGen ts.replay th.idx part i
      (s.member part = false → exec (.barrier t f) s = outside (syncWord 2 f))
      ∧ (s.member part = true → rerun = none → part = s.partNo →
        (∀ g u, s.enterBarrier i false = (.joined g, u) → exec (.barrier t f) s = .next
          (((((u.journalBarrier th part i g).setThread k (some (Thread.inBarrier { th with issued := u.clock } f.xd part i g (u.hallLc hall) 0)))).tick).updateLend hall))
        ∧ (∀ u, s.enterBarrier i false = (.overrun, u) → exec (.barrier t f) s = .next (u.trap k .barrierOverrun (counterWord part i) (syncWord 2 f)))
        ∧ (∀ u, s.enterBarrier i false = (.bad, u) → exec (.barrier t f) s = .next (u.trap k .address at_ (syncWord 2 f))))
      ∧ (s.member part = true → rerun = none → part ≠ s.partNo → exec (.barrier t f) s = .next
        (((s.setThread k (some { th with status := .barrierAsk f.xd part i, issued := s.clock, watch := s.bell.nextWatch, waitFrom := s.hallLc hall })).tick).registerAt
          part i 0 3 0 (.thread k)))
      ∧ (∀ g, s.member part = true → rerun = some g →
        let u := (s.modTask th.graph th.task fun ts => { ts with replay := ts.replay.filter fun e => e ≠ .barrier th.idx part i g }).journalBarrier th part i g
        exec (.barrier t f) s = .next ((u.tick.awaitGen k { th with issued := u.clock } f.xd part i g (syncWord 2 f)).updateLend hall)))
    ∧ (s.issues t (syncWord 3 f) th → syncBad false false false false false true f = false → f.tokmask ≠ 0 →
      let busy := ∃ m ∈ th.moves, m.tok < 4 ∧ f.tokmask.getLsbD m.tok = true
      (¬ busy → exec (.waittok t f) s = .next (s.retire k th))
      ∧ (busy → exec (.waittok t f) s = .next (s.setThread k (some { th with status := .waitTok f.tokmask, issued := s.clock })).tick))
    ∧ (s.issues t (syncWord 4 f) th → syncBad false false false false false false f = false →
      exec (.fence t f) s = .next (if s.writesPending k th = none then s.retire k th
        else (s.setThread k (some { th with status := .fence, issued := s.clock })).tick))
    ∧ (s.issues t (syncWord 5 f) th → syncBad false false false false false false f = false →
      exec (.yield t f) s = .next ((s.setThread k (some { th.past with issued := 0 })).tick))

/-- In a privileged thread: DCREATE seals a sound draft into DREG with XD := 0 and leaves DREG empty with the error code
otherwise, and traps with SCRATCH_RANGE outside scratch (R114); SPLITK suspends the thread while every participant stall runs,
and gives XD := 1 when one does not (R174, R176); XSLICE enters exact-slice mode with XD := 0 when the stall has no mode and no
slot of another format, waits for such slots, leaves the mode with MODE 0, refuses with XD := 1 beside another mode and with XD
:= 2 while it holds a slot of the mode, and traps with ILLEGAL in a check task (R177, R178); TALLYRD reads an entry (R597). A
privileged-class instruction with sound fields in an unprivileged thread traps with cause PRIVILEGE (R113); one with a field
that its OP does not use traps with ILLEGAL in either mode (log entry 128, the model's order). -/
def Obligations.PrivilegedInstructions : Prop :=
  (∀ (t : ThreadRef) (f : PrivF) (s : State) (th : Thread), th.prv = true →
      let k := tkey t
      let st := skey t.st
      let i := s.stall st
      let a := (th.xr f.xa).toNat
      let draft : W512 := BitVec.ofNat 512 (ofLe (s.sread st 0 a 64))
      let src := pairSource s.startNo th draft
      let code := createCheck s.host.allocs (tagJob (s.threadTags th)) true src draft
      let own := fun (m : BitVec 3) => i.exact = some (m, th.graph, th.task)
      (s.issues t (privWord 0 f) th → privBad true true false false false f = false →
        (a % 64 = 0 → a + 64 ≤ 786432 → s.holdFor k th [⟨0, a, a + 64⟩] [] = none →
          exec (.dcreate t f) s = .next ((s.touch th.graph th.task a (a + 63)).retire k ((th.setX f.xd (BitVec.ofNat 64 code)).setD f.dreg
            (if code = 0 then some (createDesc s.startNo src draft) else none))))
        ∧ (a % 64 ≠ 0 ∨ 786432 < a + 64 → exec (.dcreate t f) s = .next (s.trap k .scratchRange (th.xr f.xa) (privWord 0 f))))
      ∧ (s.issues t (privWord 1 f) th → privBad false false true true false f = false → (f.nm1 = 1 ∨ f.nm1 = 3 ∨ f.nm1 = 7 ∨ f.nm1 = 15) →
        exec (.splitk t f) s = .next (if ∀ j ≤ f.nm1.toNat, s.stallRuns (aisleOf st * 16 + j) = true
          then (s.setThread k (some { th with status := .splitk f.xd f.slot f.nm1, issued := s.clock })).tick
          else s.retire k (th.setX f.xd 1)))
      ∧ (s.issues t (privWord 2 f) th → privBad false false false false true f = false → f.mode.toNat ≤ 2 →
        ((∃ r, s.rec_ th.graph th.task = some r ∧ r.kind = 7) → exec (.xslice t f) s = .next (s.trap k .illegal 0 (privWord 2 f)))
        ∧ ((s.rec_ th.graph th.task).all (fun r => r.kind ≠ 7) = true →
          (∀ e, i.exact = some e → ¬ own e.1 → exec (.xslice t f) s = .next (s.retire k (th.setX f.xd 1)))
          ∧ (∀ m, own m → f.mode ≠ 0 → f.mode ≠ m → exec (.xslice t f) s = .next (s.retire k (th.setX f.xd 1)))
          ∧ ((i.exact = none ∨ ∃ m, own m) → f.mode = 0 → exec (.xslice t f) s = .next (if i.holdsExact th.graph th.task then s.retire k (th.setX f.xd 2)
              else ((s.modStall st fun i => { i with exact := none }).releaseHeld st fun w _ => w = .xmode).retire k (th.setX f.xd 0)))
          ∧ ((i.exact = none ∨ own f.mode) → f.mode ≠ 0 →
            (i.otherFormat = false → i.nextIs th.graph th.task = true →
              ∃ u : State, exec (.xslice t f) s = .next u ∧ (u.stall st).exact = some (f.mode, th.graph, th.task) ∧ (u.stall st).exactNext = none
                ∧ (u.thread k).map (fun x => (x.xr f.xd, x.pc)) = some (0, th.pc + 8))
            ∧ (i.otherFormat = true ∨ i.nextIs th.graph th.task = false →
              ∃ u : State, exec (.xslice t f) s = .next u ∧ (u.stall st).exact = i.exact
                ∧ (u.stall st).exactNext = some (i.exactNext.getD (f.mode, th.graph, th.task))
                ∧ (u.thread k).map (fun x => (x.status, x.pc)) = some (.xslice f.xd f.mode, th.pc)))))
      ∧ (s.issues t (privWord 3 f) th → privBad true false false false false f = false → (th.xr f.xa).toNat ≤ 8191 →
        exec (.tallyrd t f) s = .next (s.retire k (th.setX f.xd (s.tallyAt (th.xr f.xa).toNat)))))
  ∧ (∀ (t : ThreadRef) (f : PrivF) (s : State) (th : Thread),
      let traps := fun (bad : Bool) (w : W64) => Host.Outcome.next (s.trap (tkey t) (if bad then .illegal else .privilege) 0 w)
      let nm1 := f.nm1 = 1 ∨ f.nm1 = 3 ∨ f.nm1 = 7 ∨ f.nm1 = 15
      ∀ bad : Bool, (th.prv = false ∨ bad = true) →
      (s.issues t (privWord 0 f) th → privBad true true false false false f = bad → exec (.dcreate t f) s = traps bad (privWord 0 f))
      ∧ (s.issues t (privWord 1 f) th → (privBad false false true true false f || !decide nm1) = bad → exec (.splitk t f) s = traps bad (privWord 1 f))
      ∧ (s.issues t (privWord 2 f) th → (privBad false false false false true f || decide (2 < f.mode.toNat)) = bad →
          exec (.xslice t f) s = traps bad (privWord 2 f))
      ∧ (s.issues t (privWord 3 f) th → privBad true false false false false f = bad → exec (.tallyrd t f) s = traps bad (privWord 3 f)))

/-- TALLYRD writes XD := entry X[XA]; an index above 8,191 traps with cause ADDRESS (R597); DETAIL is the address that entry
would have in Tally's window of the part (log entry 100, the model's reading of Table 3.15). -/
def Obligations.TallyReadInstruction : Prop :=
  ∀ (t : ThreadRef) (f : PrivF) (s : State) (th : Thread), th.prv = true → s.issues t (privWord 3 f) th →
    privBad true false false false false f = false →
    ((th.xr f.xa).toNat ≤ 8191 → exec (.tallyrd t f) s = .next (s.retire (tkey t) (th.setX f.xd (s.tallyAt (th.xr f.xa).toNat))))
    ∧ (8191 < (th.xr f.xa).toNat → exec (.tallyrd t f) s = .next (s.trap (tkey t) .address
        (BitVec.ofNat 64 (s.partNo * 2 ^ 44 + 0xF0000200000) + 8 * th.xr f.xa) (privWord 3 f)))

/-- A finished move frees its token (R116); the oldest drain writes its tile, converted when DRAIN is 2, and leaves the stall
(R165, R166, R168); a BEGIN that waited gets its slot and proceeds (R120), or after 64 lc a task is chosen for pre-emption
(R121); a SPLITK group that cannot form ends with XD := 3 and keeps its slots (R176); a waiting XSLICE sets its mode once it
may (R177). SPLITK_GROUP_FORM when a thread waits in SPLITK on each of stalls S0 to S(NM1) (R174 to R176): with one open slot
of one kind on each, the slots combine in the fixed tree, S0 keeps the total as a held slot, the other participants' slots are
free and every participant sees XD := 0; with a slot missing or of another kind, every participant sees XD := 2 and the slots
stay. -/
def Obligations.StallEvents : Prop :=
  (∀ (t : ThreadRef) (s : State) (th : Thread), s.thread (tkey t) = some th →
      let k := tkey t
      let st := skey t.st
      let i := s.stall st
      let now := { th with status := ThreadStatus.ready }
      (∀ (tok : Fin 5), (∃ m ∈ th.moves, m.tok = tok.val ∧ m.finished = true) → (∀ w ∈ s.till.waiting, w.who.writeOf k = false) →
        exec (.moveComplete t tok) s = .next
          (((s.setThread k (some { th with moves := th.moves.filter fun m => m.tok ≠ tok.val })).moveFreed k).finishAllocFrees))
      ∧ (∀ d r, i.drains = d :: r → d.sample = none → s.hallRuns (hallOf st) = true → i.fenced = false → s.hbmHeld = false →
        let v := if d.mode = 1 then drainRaw s st d else drainChain s st d
        let w := if d.slot.kind = .i32 then v.count .int32Saturated (hallOf st) d.slot.sat.length
          else if d.slot.kind.isInt then v.count .exactSaturated (hallOf st) d.slot.sat.length else v
        exec (.drainComplete t.st) s = .next (finishDrain w st d))
      ∧ (∀ op f since, th.status = .slotWait op f since → mmaNeeds f now k i (s.widens f now) ≤ 64 - i.usedSlots → s.canIssue k now = true →
        exec (.slotBeginGrant t) s = .next (runMma op f k now s))
      ∧ (∀ op f since p u, th.status = .slotWait op f since → s.slotVictim st th.graph th.task = some p →
        s.beginSave p.1 p.2 .slotPressure 0 = some u → exec (.slotPressureTimeout t) s = .next u)
      ∧ (∀ xd slot nm1, th.status = .splitk xd slot nm1 →
        ∃ u : State, exec (.splitkTimeout t) s = .next u ∧ (u.thread k).map (fun x => (x.xr xd, x.pc, x.status)) = some (3, th.pc + 8, .ready)
          ∧ u.stalls = s.stalls)
      ∧ (∀ xd mode, th.status = .xslice xd mode → i.otherFormat = false → i.nextIs th.graph th.task = true →
        (i.exact = none ∨ i.exact = some (mode, th.graph, th.task) →
          ∃ u : State, exec (.xsliceModeSet t) s = .next u ∧ (u.stall st).exact = some (mode, th.graph, th.task)
            ∧ (u.thread k).map (fun x => (x.xr xd, x.pc, x.status)) = some (0, th.pc + 8, .ready))
        ∧ (∀ e, i.exact = some e → e ≠ (mode, th.graph, th.task) →
          ∃ u : State, exec (.xsliceModeSet t) s = .next u ∧ u.stalls = s.stalls
            ∧ (u.thread k).map (fun x => (x.xr xd, x.pc, x.status)) = some (1, th.pc + 8, .ready))))
  ∧ (∀ (hall : Fin 4) (aisle : Fin 36) (slot : BitVec 6) (nm1 : BitVec 4) (job : Byte) (s : State) (ps : List (Nat × Thread))
      (xs : List Slot),
      let sts := (List.range (nm1.toNat + 1)).map (aisleKey hall.val aisle.val * 16 + ·)
      sts.filterMap (fun st => s.splitkOn st slot nm1 job) = ps → ps.length = sts.length →
      ps.filterMap (fun p => (s.stall (stallOf p.1)).find p.1 slot.toNat false) = xs →
      let sound := xs.length = sts.length ∧ ∀ y ∈ xs, y.st = .open_ ∧ xs.head?.all (fun z => y.kind = z.kind) = true
      (∀ x rest, sound → slotTree xs = x :: rest → exec (.splitkGroupForm hall aisle slot nm1 job) s = .next
        (ps.foldl (fun u p => u.splitkResult p.1 0)
          ((xs.foldl (fun u y => u.modStall (stallOf y.owner) fun i => i.remove y) s).modStall (stallOf x.owner)
            fun i => i.put { x with st := .heldSplit })))
      ∧ (¬ sound → exec (.splitkGroupForm hall aisle slot nm1 job) s = .next (ps.foldl (fun u p => u.splitkResult p.1 2) s)))

/-! ### The host interface -/

/-- Writes of BAR0 while it answers (R514, R516, R525, R526, Table 18.2): a valid doorbell moves CMD_TAIL and an invalid one
sets RING_OVERRUN; a rise of ENABLE clears the four counts and the DMA stop, a fall only stops the rings, a write of the value
it holds changes nothing; RPL_HEAD frees entries and what waits is written; ones clear ERR bits; the registers that only store
take their fields, a COALESCE of 0 and a ring size out of range leave the field, the ring registers change only while ENABLE is
0, the MSI-X table stores, and a read-only or reserved offset ignores a write. Before BAR0 answers no write has an effect. Held
entries are written while the ring has room (R526); HOLDOFF lc after a kind's first unsignalled entry its message goes (R528),
and with none unsignalled nothing goes; a failing host access stops fetching and writing and sets DMA_ERR (R529); a
host-interface reset of either kind returns BAR0 to its reset values, discards held entries, loses the replies of commands in
hand and leaves everything else (R511); D3hot stops the rings and D0 writes what waited (R512). -/
def Obligations.Bar0Writes : Prop :=
  (∀ (v : W64) (s : State),
      let h := s.host
      (s.bar0Up = false → exec (.bar0Doorbell v) s = .next s ∧ exec (.bar0EnableWrite v) s = .next s ∧ exec (.bar0RplHeadWrite v) s = .next s
        ∧ exec (.bar0ErrClear v) s = .next s ∧ ∀ off, exec (.bar0RegWrite off v) s = .next s)
      ∧ (s.bar0Up = true →
        (exec (.bar0Doorbell v) s = .next (if (v.setWidth 32 - h.cmdHead).toNat ≤ 2 ^ h.cmdLog2.toNat
          then s.setHost { h with cmdTail := v.setWidth 32 } else s.setErr 0))
        ∧ (exec (.bar0EnableWrite v) s = .next (if v.getLsbD 0 = false then s.setHost { h with enable := false }
          else if h.enable = true then s
          else (s.setHost { h with enable := true, dmaStopped := false, cmdTail := 0, cmdHead := 0, rplTail := 0, rplHead := 0 }).drainRing))
        ∧ (exec (.bar0RplHeadWrite v) s = .next (s.setHost { h with rplHead := v.setWidth 32 }).drainRing)
        ∧ (∃ u : State, exec (.bar0ErrClear v) s = .next u ∧ u = s.setHost { h with err := u.host.err } ∧
            ∀ i : Fin 4, u.host.err.getLsbD i.val = (h.err.getLsbD i.val && !v.getLsbD i.val))
        ∧ (exec (.bar0RegWrite 0x0070 v) s = .next (s.setHost { h with irqMap := v &&& 0x3F3F3F3F3F3F3F3F }))
        ∧ (let k : Byte := if bits v 16 8 = 0 then h.coalesce else bits v 16 8
          exec (.bar0RegWrite 0x0078 v) s = .next (s.setHost { h with holdoff := bits v 0 16, coalesce := k }))
        ∧ (∀ i, i < 64 →
          exec (.bar0RegWrite (BitVec.ofNat 16 (0x8000 + 16 * i)) v) s = .next
            (s.setHost { h with msix := h.msix.set {} i { h.msix.get {} i with addr := v } })
          ∧ (v.getLsbD 32 = true ∨ h.pba.getLsbD i = false → exec (.bar0RegWrite (BitVec.ofNat 16 (0x8008 + 16 * i)) v) s = .next
            (s.setHost { h with msix := h.msix.set {} i { h.msix.get {} i with data := v.setWidth 32, masked := v.getLsbD 32 } }))
          ∧ (v.getLsbD 32 = false → h.pba.getLsbD i = true → exec (.bar0RegWrite (BitVec.ofNat 16 (0x8008 + 16 * i)) v) s = .next
            (let t := h.msix.set {} i { h.msix.get {} i with data := v.setWidth 32, masked := false }
             (s.setHost { h with msix := t, pba := h.pba &&& ~~~((1 : W64) <<< i) }).msix i)))
        ∧ (exec (.bar0RegWrite 0x0018 v) s = .next (if h.enable = true then s else s.setHost { h with cmdLoc := v.getLsbD 0, cmdBase := bits v 12 52 }))
        ∧ (exec (.bar0RegWrite 0x0038 v) s = .next (if h.enable = true then s else s.setHost { h with rplBase := bits v 12 52 }))
        ∧ (exec (.bar0RegWrite 0x0020 v) s = .next (if h.enable = true ∨ v.toNat % 16 < 4 ∨ 12 < v.toNat % 16 then s
          else s.setHost { h with cmdLog2 := bits v 0 4 }))
        ∧ (exec (.bar0RegWrite 0x0040 v) s = .next (if h.enable = true ∨ v.toNat % 32 < 6 ∨ 16 < v.toNat % 32 then s
          else s.setHost { h with rplLog2 := bits v 0 5 }))
        ∧ (∀ off : W16, (off.toNat < 0x8000 ∨ 0x8400 ≤ off.toNat) → ¬ off.toNat ∈ [0x18, 0x20, 0x38, 0x40, 0x70, 0x78] →
          exec (.bar0RegWrite off v) s = .next s)))
  ∧ (∀ (s : State), 
      let h := s.host
      (exec .eventBufferDrain s = .next s.drainRing)
      ∧ (∀ kind : Fin 8, exec (.interruptHoldoff kind) s = .next (if h.irqCount.get 0 kind.val = 0 then s
          else (s.setHost { h with irqCount := h.irqCount.set 0 kind.val 0 }).msix (h.vector kind.val)))
      ∧ (s.bar0Up = true →
        (h.enable = true → ∃ u : State, exec .hostDmaError s = .next u ∧ u = s.setHost { h with err := u.host.err, dmaStopped := true }
            ∧ ∀ i : Fin 4, u.host.err.getLsbD i.val = (h.err.getLsbD i.val || i.val == 2))
        ∧ (h.enable = false → exec .hostDmaError s = .next s)
        ∧ (∀ kind, ∃ u : State, exec (.hostInterfaceReset kind) s = .next u ∧ u = s.setHost u.host
            ∧ (∀ o, u.bar0Read o = (s.setHost { State.reset.host with cmds := h.cmds }).bar0Read o)
            ∧ u.host.events = [] ∧ u.host.replies = [] ∧ u.host.cmds = h.cmds.map (fun c => { c with lostReply := true })
            ∧ u.host.claims = h.claims ∧ u.host.allocs = h.allocs ∧ u.host.lastGen = h.lastGen ∧ u.host.seeds = h.seeds
            ∧ u.host.wkeys = h.wkeys ∧ u.host.staged = h.staged ∧ u.host.faultLog = h.faultLog)
        ∧ (exec (.pciePowerStateChange true) s = .next (s.setHost { h with d3hot := true }))
        ∧ (exec (.pciePowerStateChange false) s = .next (s.setHost { h with d3hot := false }).drainRing))
      ∧ (s.bar0Up = false → exec .hostDmaError s = .next s ∧ (∀ kind, exec (.hostInterfaceReset kind) s = .next s)
        ∧ ∀ d, exec (.pciePowerStateChange d) s = .next s))

/-- While ENABLE is 1, the J5 ignores writes to offsets 0x0018, 0x0020, 0x0038 and 0x0040; a rise of ENABLE sets the four
counts to 0; a fall stops fetching, and commands already admitted continue, their replies waiting in the event buffer (R514). -/
def Obligations.RingRegistersHold : Prop :=
  ∀ (v : W64) (s : State),
    (s.host.enable = true →
      exec (.bar0RegWrite 0x0018 v) s = .next s ∧ exec (.bar0RegWrite 0x0020 v) s = .next s
      ∧ exec (.bar0RegWrite 0x0038 v) s = .next s ∧ exec (.bar0RegWrite 0x0040 v) s = .next s)
    ∧ (s.bar0Up = true → s.host.enable = false → v.getLsbD 0 = true →
      ∃ u : State, exec (.bar0EnableWrite v) s = .next u.drainRing ∧ u.host.enable = true ∧ u.host.cmdTail = 0 ∧ u.host.cmdHead = 0
        ∧ u.host.rplTail = 0 ∧ u.host.rplHead = 0)
    ∧ (s.bar0Up = true → s.host.enable = true → v.getLsbD 0 = false →
      ∃ u : State, exec (.bar0EnableWrite v) s = .next u ∧ (∀ op h, exec (.commandFetch op h) u = .next u) ∧ u.host.cmds = s.host.cmds
        ∧ ∀ c status results, c.lostReply = false → (u.reply c status results).sent = u.sent
          ∧ (u.reply c status results).host.replies = s.host.replies ++ [c.replyBytes status results])

/-- A fetched slot is consumed and admitted, or answers BAD_SLOT when its SEQ is not its count (R517, R520); nothing is fetched
while the rings are stopped, empty or out of places; a command not started EXPIRE lc after its fetch answers EXPIRED; a command
that still runs takes a long place if one is free (R522); an opcode that is not listed answers UNKNOWN_OPCODE, or EXPIRED
(R519). A command that cannot run answers before its own rules: EXPIRED, what the part's mode answers, INVALID for a broken
header (R518, R519, R543, R580). -/
def Obligations.CommandRing : Prop :=
  (∀ (op : W16) (hd : CmdHdr) (seq : W32) (s : State), s.coresRun = true →
      let h := s.host
      let c : Cmd := { op := op, hdr := hd, fetched := s.hubLc }
      (exec (.commandFetch op hd) s =
        if h.enable = false ∨ h.d3hot = true ∨ h.dmaStopped = true ∨ h.cmdTail = h.cmdHead ∨ h.credits = 0 ∨ h.rplSize ≤ h.used + h.reserved
          then .next s
        else if hd.seq = h.cmdHead then .next (s.setHost { h with cmdHead := h.cmdHead + 1, cmds := h.cmds ++ [c] })
        else ((s.setHost { h with cmdHead := h.cmdHead + 1 }).setErr 1).answers c 0x13 [])
      ∧ (∀ d, h.cmds.find? (fun c => c.hdr.seq = seq && c.phase = .admitted && c.hdr.expire ≠ 0) = some d →
        exec (.commandExpire seq) s = s.answers d 0x15 [])
      ∧ (h.cmds.find? (fun c => c.hdr.seq = seq && c.phase = .admitted && c.hdr.expire ≠ 0) = none → exec (.commandExpire seq) s = .next s)
      ∧ (∀ d, h.cmds.find? (fun c => c.hdr.seq = seq && c.phase = .running) = some d →
        exec (.longCommand seq) s = .next (if (h.cmds.filter fun c => c.phase = .long).length < 64
          then s.modCmd d fun c => { c with phase := .long } else s))
      ∧ (h.cmds.find? (fun c => c.hdr.seq = seq && c.phase = .running) = none → exec (.longCommand seq) s = .next s)
      ∧ (∀ d, h.findCmd op hd = some d → ¬ op.toNat ∈ knownOpcodes →
        exec (.unknownOpcode op hd) s = s.answers d (if s.expired d = true then 0x15 else 0x14) [])
      ∧ (h.findCmd op hd = none ∨ op.toNat ∈ knownOpcodes → exec (.unknownOpcode op hd) s = .next s))
  ∧ (∀ (h : CmdHdr) (c : Cmd) (s : State), s.host.findCmd 0x0102 h = some c → s.coresRun = true →
      (s.expired c = true → exec (.ping h) s = s.answers c 0x15 [])
      ∧ (s.expired c = false → h.plen.toNat ≠ 0 → s.modeAnswer 0x0102 = none → exec (.ping h) s = s.answers c 0x02 [])
      ∧ (∀ handle d, s.host.findCmd 0x0403 h = some d → s.expired d = false → s.pstate = 2 →
          exec (.graphStatus h handle) s = s.answers d 0x16 [])
      ∧ (∀ handle d, s.host.findCmd 0x0403 h = some d → s.expired d = false → s.pstate = 0 →
          exec (.graphStatus h handle) s = s.answers d 0x01 []))

/-- An opcode that no rule lists answers UNKNOWN_OPCODE; in recovery mode every command outside families 0x01 and 0x0A answers
RECOVERY, whatever it would do (R519). -/
def Obligations.RecoveryAndUnknownOpcodes : Prop :=
  ∀ (op : W16) (h : CmdHdr) (c : Cmd) (s : State), s.host.findCmd op h = some c → s.coresRun = true → s.expired c = false →
    (knownOpcodes.contains op.toNat = false → exec (.unknownOpcode op h) s = s.answers c 0x14 [])
    ∧ (s.pstate = 2 → op.toNat / 256 ≠ 0x01 → op.toNat / 256 ≠ 0x0A → ∀ nparams usesJob run,
      command op nparams usesJob h s run = s.answers c 0x16 [])

/-- From the end of step 3 until step 11 the command interface serves families 0x01 and 0x0A, and every other command answers
BUSY (R543). -/
def Obligations.CommandsDuringStartup : Prop :=
  ∀ (op : W16) (h : CmdHdr) (c : Cmd) (s : State) (nparams : Nat) (usesJob : Bool) (run : Cmd → State → State),
    s.host.findCmd op h = some c → s.expired c = false → s.pstate = 0 → s.power.supply = .on → 4 ≤ s.startStep.toNat →
    (op.toNat / 256 ≠ 0x01 → op.toNat / 256 ≠ 0x0A → command op nparams usesJob h s run = s.answers c 0x01 [])
    ∧ ((op.toNat / 256 = 0x01 ∨ op.toNat / 256 = 0x0A) → headerBad h nparams usesJob = false → (s.hbmHeld && needsHbm op) = false →
      command op nparams usesJob h s run = .next (run (s.begun c) (s.begin_ c)))

/-- In D3hot the J5 fetches no command and writes no reply; work already placed continues, and replies and events wait in the
event buffer until D0 returns (R512). -/
def Obligations.NothingMovesInD3hot : Prop :=
  ∀ (s : State) (op : W16) (h : CmdHdr) (c : Cmd) (status : Byte) (results : List W64), s.bar0Up = true →
    (exec (.pciePowerStateChange true) s = .next (s.setHost { s.host with d3hot := true }))
    ∧ (s.host.d3hot = true →
      exec (.commandFetch op h) s = .next s
      ∧ (c.lostReply = false → let u := s.reply c status results
        u.sent = s.sent ∧ u.host.rplTail = s.host.rplTail ∧ u.host.replies = s.host.replies ++ [c.replyBytes status results])
      ∧ (s.host.events.length < 1024 → ∀ kind tag rec,
        s.post kind tag rec = s.setHost { s.host with events := s.host.events ++ [(kind, eventBody tag rec)] }))
    ∧ (exec (.pciePowerStateChange false) s = .next (s.setHost { s.host with d3hot := false }).drainRing)

/-- A reply goes to reply ring entry RPL_TAIL mod 2^RPL_LOG2 (R525): the KIND byte carries PHASE, then status, opcode, SEQ and
TAG (Table 18.4); results are packed from offset 0x10 as 8-byte little-endian fields (R527); the command leaves the records and
its entry is used (R520). -/
def Obligations.ReplyEntry : Prop :=
  ∀ (s : State) (c : Cmd) (status : Byte) (results : List W64),
    c.lostReply = false → s.host.writes = true →
    let u := s.reply c status results
    let i := s.host.rplTail.toNat
    let n := 2 ^ s.host.rplLog2.toNat
    (∃ e ∈ u.sent, e = .replyEntry (i % n)
      (BitVec.ofNat 8 (1 + 128 * (1 - i / n % 2)) :: status :: leBytes 2 c.op.toNat ++ leBytes 4 c.hdr.seq.toNat ++ leBytes 8 c.hdr.tag.toNat
        ++ padTo 48 ((results.take 6).flatMap fun w => leBytes 8 w.toNat)))
    ∧ u.host.rplTail = s.host.rplTail + 1
    ∧ (∀ d ∈ u.host.cmds, d.hdr.seq ≠ c.hdr.seq ∨ d.fetched ≠ c.fetched)
    ∧ u = { s with sent := u.sent, host := u.host }
    ∧ u.host.claims = s.host.claims ∧ u.host.allocs = s.host.allocs ∧ u.host.faultLog = s.host.faultLog ∧ u.host.cmdHead = s.host.cmdHead

/-- DEVICE_INFO, PING, ID_CERT_READ, ATTEST, JOB_SEED_SET, WKEY_INSTALL, WKEY_CLEAR, FW_STAGE and FW_COMMIT (Table 18.9, R211,
R535, R541, R553, R559, R561, R563): with sound operands each has its effect; otherwise it answers INVALID, BUSY, SIGNATURE,
NOT_READY, or RECOVERY where the identity does not work, and changes nothing else. -/
def Obligations.DeviceAndSecurityCommands : Prop :=
  ∀ (h : CmdHdr) (c : Cmd) (s : State) (v : W64) (bulk : List Byte),
    let r := s.begin_ c
    let b := s.begun c
    let given := bulk.take h.bulkLen.toNat
    let toBulk := fun (bs : List Byte) (l : List W64) => if bs.length ≤ h.bulkLen.toNat then (r.bulkOut b bs).answers b stOk l else r.answers b stInvalid []
    (s.serves 0x0101 0 false h c → ∃ l, exec (.deviceInfo h) s = r.answers b stOk l ∧ l.take 2 = [0x01B10A35, s.boot.serial.setWidth 64]
      ∧ l.length = 6)
    ∧ (s.serves 0x0102 0 false h c → exec (.ping h) s = r.answers b stOk [])
    ∧ (s.serves 0x0110 0 false h c → exec (.idCertRead h) s = if s.noIdentity = true then r.answers b 0x16 []
        else toBulk s.boot.certificate [BitVec.ofNat 64 s.boot.certificate.length])
    ∧ (∀ n0 n1 n2 n3 n4 n5, s.serves 0x0111 6 false h c →
      let body := r.report ([n0, n1, n2, n3, n4, n5].flatMap fun w => leBytes 8 w.toNat)
      exec (.attest h n0 n1 n2 n3 n4 n5) s = if s.noIdentity = true then r.answers b 0x16 []
        else toBulk (body ++ fixTo 96 (Config.identitySign body)) [480])
    ∧ (s.serves 0x0A01 1 true h c → exec (.jobSeedSet h v) s = if s.jobResident h.job = true then r.answers b stBusy []
        else (r.setHost { r.host with seeds := s.host.seeds.set 0 h.job.toNat v }).answers b stOk [])
    ∧ (s.serves 0x0A02 1 false h c →
      let body := objBody (given.take (objSize given))
      let sound := v.toNat ≤ 7 ∧ objFields .weightKey given = true
      let signed := s.objTrusted .weightKey (given.take (objSize given)) = true
      (¬ sound → exec (.wkeyInstall h v bulk) s = r.answers b stInvalid [])
      ∧ (sound → ¬ signed → exec (.wkeyInstall h v bulk) s = r.answers b 0x0A [])
      ∧ (sound → signed → ¬ (leAt body 0 1 = v.toNat ∧ leAt body 1 7 = 0) → exec (.wkeyInstall h v bulk) s = r.answers b stInvalid [])
      ∧ (sound → signed → leAt body 0 1 = v.toNat → leAt body 1 7 = 0 → exec (.wkeyInstall h v bulk) s =
        (r.setHost { r.host with wkeys := s.host.wkeys.set [] v.toNat ((body.drop 8).take 96) }).answers b stOk []))
    ∧ (s.serves 0x0A03 1 false h c → exec (.wkeyClear h v) s = if 7 < v.toNat then r.answers b stInvalid []
        else if s.weights.loads ≠ [] then r.answers b stBusy []
        else (r.setHost { r.host with wkeys := s.host.wkeys.set [] v.toNat [] }).answers b stOk [])
    ∧ (s.serves 0x0A10 1 false h c →
      let sound := v.toNat ≤ 1 ∧ objFields (stagedKind v) given = true
      let signed := s.objTrusted (stagedKind v) (given.take (objSize given)) = true
      (¬ sound → exec (.fwStage h v bulk) s = r.answers b stInvalid [])
      ∧ (sound → ¬ signed → exec (.fwStage h v bulk) s = r.answers b 0x0A [])
      ∧ (sound → signed → ∃ u : State, exec (.fwStage h v bulk) s = u.answers b stOk []
        ∧ u.host.staged.get none v.toNat = some (given.take (objSize given)) ∧ u.boot.headers = s.boot.headers))
    ∧ (s.serves 0x0A11 1 false h c →
      (1 < v.toNat → exec (.fwCommit h v) s = r.answers b stInvalid [])
      ∧ (v.toNat ≤ 1 → s.host.staged.get none v.toNat = none → exec (.fwCommit h v) s = r.answers b stNotReady [])
      ∧ (∀ img, v.toNat ≤ 1 → s.host.staged.get none v.toNat = some img →
        ∃ u : State, exec (.fwCommit h v) s = u.answers b stOk [] ∧ u.host.staged.get none v.toNat = none
          ∧ u.boot.headers = (s.boot.commitHeader fun x => if v = 0 then { x with fwArea := !x.fwArea } else { x with cfgArea := !x.cfgArea }).headers
          ∧ u.boot.owner = if v = 1 ∧ objEnrol img = true ∧ s.boot.owner = none then some (sha384 (objKey img)) else s.boot.owner))

/-! ### Memory and translation -/

/-- ALLOC_REG gives the lowest free handle with its next generation, or answers INVALID, CONFLICT or BUSY (R533); ALLOC_FREE
makes the allocation dead at once, and its reply waits for what still names it (R135); MEM_WRITE and MEM_READ copy in ascending
order up to an address that stops them (R534), 8 aligned bytes of a window included: a write signals a counter, a read gives
what the window holds (R351, R595; log entry 118); bytes of another part are acknowledged or fetched first; DESC_CREATE seals a
batch up to its first failure (R153) or its first bad address (R637); DESC_CHECK answers the code (R152); the logs and claims
go to bulk (R124, R531, R607, R626), or the command answers INVALID where bulk is too short (R532). How a command reads and
writes its job's memory (R39, R407, R452, R510): sound bytes go to what follows, and what another part sent is forgotten at the
last read; an error status is recorded and answers ADDRESS, a translation fault answers ADDRESS; bytes of another part are
fetched while the command waits; a written record answers OK, after every acknowledgement of another part. A command on what
queued and running tasks may name reads their blocks so, and answers BUSY where one names it (R269, R334). -/
def Obligations.MemoryAndDescriptorCommands : Prop :=
  (∀ (h : CmdHdr) (c : Cmd) (s : State) (va len v : W64) (bulk : List Byte),
      let r := s.begin_ c
      let b := s.begun c
      let toBulk := fun (bs : List Byte) (l : List W64) => if bs.length ≤ h.bulkLen.toNat then (r.bulkOut b bs).answers b stOk l else r.answers b stInvalid []
      (s.serves 0x0201 2 true h c →
        let bad := va.toNat % 128 ≠ 0 ∨ len.toNat % 128 ≠ 0 ∨ len.toNat < 128 ∨ 2 ^ 48 < len.toNat ∨ 2 ^ 64 < va.toNat + len.toNat
        let clash := ∃ x ∈ s.host.allocs, x.job = h.job ∧ va.toNat < x.va + x.len ∧ x.va < va.toNat + len.toNat
        (bad → exec (.allocReg h va len) s = r.answers b stInvalid []) ∧ (¬ bad → clash → exec (.allocReg h va len) s = r.answers b stConflict [])
        ∧ (¬ bad → ¬ clash → s.host.freeHandle = none → exec (.allocReg h va len) s = r.answers b stBusy [])
        ∧ (∀ i, ¬ bad → ¬ clash → s.host.freeHandle = some i →
          ∃ (u : State) (g : W16), exec (.allocReg h va len) s = u.answers b stOk [BitVec.ofNat 64 i, g.setWidth 64]
            ∧ g = nextGen (s.host.lastGen.get 0 i) ∧ u.host.lastGen = s.host.lastGen.set 0 i g
            ∧ u.host.allocs = s.host.allocs ++ [{ handle := BitVec.ofNat 16 i, gen := g, job := h.job, va := va.toNat, len := len.toNat }]
            ∧ u.mem = s.mem ∧ u.threads = s.threads))
      ∧ (s.serves 0x0202 1 true h c →
        let mine := ∃ a ∈ s.host.allocs, a.handle.toNat = v.toNat ∧ a.job = h.job
        (65535 < v.toNat → exec (.allocFree h v) s = r.answers b stInvalid [])
        ∧ (v.toNat ≤ 65535 → ¬ mine → exec (.allocFree h v) s = r.answers b stNotFound [])
        ∧ (v.toNat ≤ 65535 → mine → ∃ u : State, exec (.allocFree h v) s = .next u.finishAllocFrees ∧ u.mem = s.mem
            ∧ u.host.allocs = s.host.allocs.filter (fun a => a.handle.toNat ≠ v.toNat)
            ∧ (∀ x ∈ u.host.claims, ¬ (x.kind = .allocRange ∧ x.index = v.toNat)) ∧ u.host.lastGen = s.host.lastGen))
      ∧ (s.serves 0x0203 2 true h c →
        let n := len.toNat
        (n = 0 ∨ 2 ^ 32 < n ∨ h.bulkLen.toNat < n → exec (.memWrite h va len bulk) s = r.answers b stInvalid [])
        ∧ (0 < n → n ≤ 2 ^ 32 → n ≤ h.bulkLen.toNat →
          ∃ (u : State) (away : List (Nat × List Byte)) (stop : Option Nat),
            r.copyIn h.job (pieces (n / 65536 + 2) va.toNat n) (padTo n (bulk.take n)) 0 = (u, away, stop)
            ∧ exec (.memWrite h va len bulk) s = (match stop with
              | some done => (u.remoteWrites (.posted h.job) 0 false away).answers b stAddress [BitVec.ofNat 64 done]
              | none => if away = [] then u.answers b stOk [] else .next ((u.remoteWrites (.cmd h.seq) 0 false away).waitCmd b (.acks []))))
        ∧ (∀ u, 0 < n → n ≤ 65536 - va.toNat % 65536 → n ≤ h.bulkLen.toNat → bulk.length = n →
          r.vwrite h.job va.toNat bulk = .ok (u, []) → exec (.memWrite h va len bulk) s = u.answers b stOk []))
      ∧ (s.serves 0x0204 2 true h c →
        let n := len.toNat
        (n = 0 ∨ 2 ^ 32 < n ∨ h.bulkLen.toNat < n → exec (.memRead h va len) s = r.answers b stInvalid [])
        ∧ (0 < n → n ≤ 2 ^ 32 → n ≤ h.bulkLen.toNat →
          ∃ bs stop, r.copyOut h.job (grains (n / 64 + 2) va.toNat n) = (bs, stop) ∧
            (stop = none → exec (.memRead h va len) s = ((r.dropHub h.job).bulkOut b bs).answers b stOk [])
            ∧ (∀ w pa l, stop = some (.remote w pa l) → exec (.memRead h va len) s = .next ((r.parkCmd b).hubFetch h.job w pa l))
            ∧ (∀ a p, stop = some (.err a p) → exec (.memRead h va len) s =
              (((r.dropHub h.job).accessFault 4 p a 0).bulkOut b bs).answers b stAddress [BitVec.ofNat 64 bs.length])
            ∧ (∀ k w lo size, stop = some (.fault k w lo size) → exec (.memRead h va len) s =
              ((r.dropHub h.job).bulkOut b bs).answers b stAddress [BitVec.ofNat 64 bs.length]))
        ∧ (∀ bs, 0 < n → n ≤ 64 - va.toNat % 64 → n ≤ h.bulkLen.toNat →
          r.hubRead h.job va.toNat n = .ok bs → exec (.memRead h va len) s = ((r.dropHub h.job).bulkOut b bs).answers b stOk []))
      ∧ (len = 8 → va.toNat % 8 = 0 → 8 ≤ h.bulkLen.toNat →
        (∀ a p u, s.serves 0x0203 2 true h c → bulk.length = 8 → r.vwrite h.job va.toNat bulk = .err a p → r.windowSignal h.job va.toNat bulk = some u →
          exec (.memWrite h va len bulk) s = u.answers b stOk [])
        ∧ (∀ a p bs, s.serves 0x0204 2 true h c → r.hubRead h.job va.toNat 8 = .err a p → r.windowPiece h.job va.toNat 8 = some (.ok bs) →
          exec (.memRead h va len) s = ((r.dropHub h.job).bulkOut b bs).answers b stOk []))
      ∧ (∀ drafts count out, s.serves 0x0301 3 true h c →
        let bad := drafts.toNat % 64 ≠ 0 ∨ out.toNat % 64 ≠ 0 ∨ count.toNat < 1 ∨ 4096 < count.toNat
        (bad → exec (.descCreate h drafts count out) s = r.answers b stInvalid [])
        ∧ (¬ bad → ∃ (u : State) (done : List W512) (e : Batch),
          r.sealBatch h.job drafts.toNat out.toNat (count.toNat - c.sealed.length) c.sealed = (u, done, e) ∧
          let i := BitVec.ofNat 64 done.length
          let d := { b with sealed := done }
          (∀ code, e = .done code → exec (.descCreate h drafts count out) s = (u.dropHub h.job).answers d stOk [i, i, BitVec.ofNat 64 code])
          ∧ (∀ a p, e = .stop (some (a, p)) → exec (.descCreate h drafts count out) s =
            ((u.accessFault 4 p a 0).dropHub h.job).answers d stAddress [i, i])
          ∧ (e = .stop none → exec (.descCreate h drafts count out) s = (u.dropHub h.job).answers d stAddress [i, i])
          ∧ (∀ w pa l, e = .remote w pa l → exec (.descCreate h drafts count out) s =
            .next (((u.modCmd d fun _ => d).parkCmd d).hubFetch h.job w pa l))
          ∧ (∀ w l, e = .away w l → exec (.descCreate h drafts count out) s =
            .next ((((u.modCmd d fun _ => d).dropHub h.job).remoteWrites (.cmd h.seq) 0 false l).waitCmd d (.sealing w)))))
      ∧ (s.serves 0x0302 1 true h c →
        (∀ bs, r.hubRead h.job va.toNat 64 = .ok bs →
          let w : W512 := BitVec.ofNat 512 (ofLe bs)
          exec (.descCheck h va) s = (r.dropHub h.job).answers b stOk [if sealOk s.startNo w = false ∨ (Desc.parse w).job ≠ h.job then 0x0C
            else if (Desc.parse w).space = 2 ∧ findAlloc s.host.allocs (Desc.parse w) = none then 0x0D else 0])
        ∧ (∀ a p, r.hubRead h.job va.toNat 64 = .err a p → exec (.descCheck h va) s = ((r.dropHub h.job).accessFault 4 p a 0).answers b stAddress [])
        ∧ (∀ k w lo size, r.hubRead h.job va.toNat 64 = .fault k w lo size → exec (.descCheck h va) s = (r.dropHub h.job).answers b stAddress [])
        ∧ (∀ w pa l, r.hubRead h.job va.toNat 64 = .remote w pa l → exec (.descCheck h va) s = .next ((r.parkCmd b).hubFetch h.job w pa l)))
      ∧ (s.serves 0x0901 1 false h c →
        (stallOfId v = none → exec (.trapLogRead h v) s = r.answers b stInvalid [])
        ∧ (∀ k, stallOfId v = some k → exec (.trapLogRead h v) s = toBulk (s.trapBytes k) [BitVec.ofNat 64 (s.stall k).trapLog.length]))
      ∧ (s.serves 0x0902 0 false h c →
        exec (.claimStatus h) s = toBulk (s.host.claims.flatMap Claim.bytes) [BitVec.ofNat 64 s.host.claims.length])
      ∧ (s.serves 0x0950 1 false h c →
        let l := (s.host.faultLog.take v.toNat).flatMap FaultRec.bytes
        exec (.faultLogRead h v) s = if 1 ≤ v.toNat ∧ v.toNat ≤ 4096 then toBulk l [BitVec.ofNat 64 l.length] else r.answers b stInvalid [])
      ∧ (s.serves 0x0951 1 false h c →
        let l := r.postmortem (v = 1)
        exec (.postmortem h v) s = if v.toNat ≤ 1 then toBulk l [BitVec.ofNat 64 l.length] else r.answers b stInvalid []))
  ∧ (∀ (s : State) (c : Cmd) (job : Byte) (va n : Nat) (k : List Byte → State → State) (bs : List Byte) (l : List W64),
      let d := s.dropHub job
      (∀ x, s.hubRead job va n = .ok x → s.cmdPeek c job va n k = k x s ∧ s.cmdRead c job va n k = k x d)
      ∧ (∀ a p, s.hubRead job va n = .err a p → let u := (d.accessFault 4 p a 0).reply c stAddress []
          s.cmdPeek c job va n k = u ∧ s.cmdRead c job va n k = u)
      ∧ (∀ q x lo size, s.hubRead job va n = .fault q x lo size → let u := d.reply c stAddress []
          s.cmdPeek c job va n k = u ∧ s.cmdRead c job va n k = u)
      ∧ (∀ v pa z, s.hubRead job va n = .remote v pa z → let u := (s.parkCmd c).hubFetch job v pa z
          s.cmdPeek c job va n k = u ∧ s.cmdRead c job va n k = u)
      ∧ (∀ u away, s.vwrite job va bs = .ok (u, away) → s.cmdWrite c job va bs l =
          if away = [] then u.reply c stOk l else (u.remoteWrites (.cmd c.hdr.seq) 0 false away).waitCmd c (.acks l))
      ∧ (∀ a p, s.vwrite job va bs = .err a p → s.cmdWrite c job va bs l = (s.accessFault 4 p a 0).reply c stAddress [])
      ∧ (∀ q x lo size, s.vwrite job va bs = .fault q x lo size → s.cmdWrite c job va bs l = s.reply c stAddress [])
      ∧ (∀ q : State → State,
          (s.unlessBusy c job (.ok true) q = d.reply c stBusy []) ∧ (s.unlessBusy c job (.ok false) q = q d)
          ∧ (∀ v pa z, s.unlessBusy c job (.remote v pa z) q = (s.parkCmd c).hubFetch job v pa z)
          ∧ (∀ a p, s.unlessBusy c job (.err a p) q = (d.accessFault 4 p a 0).reply c stAddress [])
          ∧ (∀ k x lo size, s.unlessBusy c job (.fault k x lo size) q = d.reply c stAddress [])))

/-- MEM_HEALTH reads a stack's on-die counters and MEM_RETIRED its list, and each writes its record to the job's space (R400):
OK at once where all of it is local, after the acknowledgements where some lies on another part, ADDRESS where the space does
not let it; MEM_SCRUB_SET sets a stack's period, or every stack's (R390); a stack above 11 or a period outside 1 to 168 answers
INVALID. HBM events (R385 to R397, R417, R429 to R431): an uncorrectable granule is rebuilt and counted, or poisoned where its
group has no parity or a second granule at its position is bad, with what only parity could give there; a read of poison is
recorded; a pseudo-channel fails, a second one of its group is lost, and the first, once rebuilt, serves; a row takes a spare,
and with none its unit waits for retirement; a unit a pin holds waits, another is redirected to a free reserve unit or retired
without a copy, and what waited for it goes on; refresh, scrub and temperature. A stack that is down, and an event with nothing
to act on, change nothing. -/
def Obligations.HbmCommands : Prop :=
  (∀ (h : CmdHdr) (c : Cmd) (s : State) (stack va v : W64),
      let r := s.begin_ c
      let b := s.begun c
      let k := stack.toNat
      let q := r.readEcs k
      let writes := fun (p : State) (bs : List Byte) (l : List W64) (o : Host.Outcome State Fault Refusal) =>
        (∀ u, p.vwrite h.job va.toNat bs = .ok (u, []) → o = u.answers b stOk l)
        ∧ (∀ u w ws, p.vwrite h.job va.toNat bs = .ok (u, w :: ws) →
          o = .next ((u.remoteWrites (.cmd h.seq) 0 false (w :: ws)).waitCmd b (.acks l)))
        ∧ (∀ a f, p.vwrite h.job va.toNat bs = .err a f → o = (p.accessFault 4 f a 0).answers b stAddress [])
        ∧ (∀ kind x lo size, p.vwrite h.job va.toNat bs = .fault kind x lo size → o = p.answers b stAddress [])
      (s.serves 0x0220 2 true h c → (11 < k → exec (.memHealth h stack va) s = r.answers b stInvalid [])
        ∧ (k ≤ 11 → (goesOn (exec (.memHealth h stack va) s)) ∧ writes q (q.healthBytes k) [] (exec (.memHealth h stack va) s)))
      ∧ (s.serves 0x0221 3 true h c →
        let l := (s.stack k).retired
        (11 < k → exec (.memRetired h stack va v) s = r.answers b stInvalid [])
        ∧ (k ≤ 11 → (goesOn (exec (.memRetired h stack va v) s))
          ∧ writes r ((l.take v.toNat).flatMap fun x => leBytes 8 (x % 2 ^ 21)) [BitVec.ofNat 64 l.length] (exec (.memRetired h stack va v) s)))
      ∧ (s.serves 0x0222 2 false h c →
        (v.toNat < 1 ∨ 168 < v.toNat ∨ 11 < k ∧ stack ≠ 0xFF → exec (.memScrubSet h stack v) s = r.answers b stInvalid [])
        ∧ (k ≤ 11 → 1 ≤ v.toNat → v.toNat ≤ 168 →
          exec (.memScrubSet h stack v) s = (r.modStack k fun x => { x with scrubHours := v.toNat }).answers b stOk [])
        ∧ (1 ≤ v.toNat → v.toNat ≤ 168 →
          ∃ u : State, exec (.memScrubSet h 0xFF v) s = u.answers b stOk [] ∧ ∀ j : Fin 12, (u.stack j.val).scrubHours = v.toNat)))
  ∧ (∀ (s : State) (stack : Fin 12) (addr : Nat) (pc bank : Fin 64) (row : Fin 16384),
      let k := stack.val
      let x := s.stack k
      let b := bank.val * 64 + pc.val
      (s.stackUp k = false →
        exec (.granuleRecon stack addr) s = .next s ∧ exec (.poisonRead stack addr) s = .next s ∧ exec (.pcFailed stack pc) s = .next s
        ∧ exec (.pcRebuildDone stack) s = .next s ∧ exec (.rowRemap stack pc bank row) s = .next s ∧ exec (.unitRetire stack addr) s = .next s
        ∧ exec (.rowActivationLimit stack pc bank row) s = .next s ∧ exec (.scrubPass stack addr) s = .next s
        ∧ (∀ t, exec (.hbmTempRead stack t) s = .next s) ∧ exec (.perBankRefresh stack pc bank) s = .next s)
      ∧ (s.offsetOf k addr = none → exec (.granuleRecon stack addr) s = .next s ∧ exec (.poisonRead stack addr) s = .next s)
      ∧ (∀ off, s.stackUp k = true → s.offsetOf k addr = some off →
        let l := s.redirect k addr
        let sound := x.canRebuild (rowOf l).1 = true ∧ s.rowBack k l = false ∧ s.mateBad k l = false
        (sound → exec (.granuleRecon stack addr) s = .next
          (((s.modStack k fun x => { x with recon := x.recon + 1 }).count .granuleRecon k 1).stackFault k .granuleRecon 1 0))
        ∧ (¬ sound → ∃ u : State, exec (.granuleRecon stack addr) s = .next u ∧ u = { s with poison := u.poison } ∧ u.poison.get false (off / 64) = true
          ∧ (∀ n, s.poison.get false n = true → u.poison.get false n = true)
          ∧ (∀ y ∈ s.byParity k l, ∀ o, s.offsetAt k y = some o → u.poison.get false (o / 64) = true)
          ∧ (∀ n, n ≠ off / 64 → (∀ y ∈ s.byParity k l, (s.offsetAt k y).map (· / 64) ≠ some n) → u.poison.get false n = s.poison.get false n))
        ∧ (exec (.poisonRead stack addr) s = .next (if s.poisonGranule (off / 64) = true
            then (s.count .poisonRead k 1).stackFault k .poison 0 (s.partNo * 2 ^ 44 + off / 64 * 64) else s)))
      ∧ (s.stackUp k = true →
        (let fresh := (∀ e ∈ x.erased, e.1 ≠ pc.val) ∧ ¬ pc.val ∈ x.lostPcs;
          ((¬ fresh) → exec (.pcFailed stack pc) s = .next s)
          ∧ (fresh → (∀ e ∈ x.erased, e.1 / 16 ≠ pc.val / 16) → exec (.pcFailed stack pc) s = .next
            (((s.poisonMates k pc.val).modStack k fun y => { y with erased := (pc.val, false) :: y.erased }).stackFault k .pcFailed 6 0))
          ∧ (∀ first done, fresh → x.erased.find? (fun e => e.1 / 16 = pc.val / 16) = some (first, done) →
            let cut := done = false ∧ ¬ first ∈ x.lostPcs
            let gone := (if cut then [pc.val, first] else [pc.val]) ++ x.lostPcs
            let still := if cut then x.halted.set none first (some (s.hallLc (k / 3))) else x.halted
            exec (.pcFailed stack pc) s = .next ((s.modStack k fun y => { y with lostPcs := gone, halted := still }).stackFault k .pcSecond 0 0)))
        ∧ (exec (.pcRebuildDone stack) s = .next (match x.erased.find? fun e => !e.2 && !(x.lostPcs.contains e.1) with
          | some e => (s.modStack k fun y => { y with erased := y.erased.map fun d => if d = e then (d.1, true) else d }).stackFault k .pcFailed 8 0
          | none => s))
        ∧ (let used := x.sparesUsed.get 0 b
          let u := (row.val * 4096 + bank.val * 64 + pc.val) / 32
          (used < 32 → exec (.rowRemap stack pc bank row) s = .next
            (((s.modStack k fun x => { x with rowMap := x.rowMap.set none (b * 16384 + row.val) (some used), sparesUsed := x.sparesUsed.set 0 b (used + 1), remaps := x.remaps + 1 }).count .remaps k 1).stackFault
              k .rowRemap 4 0))
          ∧ (32 ≤ used → exec (.rowRemap stack pc bank row) s = .next (if (k, u) ∈ s.xlt.retiring ∨ u ∈ x.retired then s
            else s.setXlt { s.xlt with retiring := s.xlt.retiring ++ [(k, u)] })))
        ∧ (∀ unit o, let v := s.ownerUnit k unit
          s.offsetOf k (v * 65536) = some o →
          let pinned := ∃ p ∈ s.xlt.pins, p.pa / 2 ^ 44 = s.partNo ∧ p.pa % 2 ^ 44 < o + 65536 ∧ o < p.pa % 2 ^ 44 + p.size
          (¬ (k, unit) ∈ s.xlt.retiring → exec (.unitRetire stack unit) s = .next s)
          ∧ ((k, unit) ∈ s.xlt.retiring → pinned → exec (.unitRetire stack unit) s = .next (if (k, unit) ∈ s.xlt.holding then s
            else s.setXlt { s.xlt with holding := s.xlt.holding ++ [(k, unit)] }))
          ∧ ((k, unit) ∈ s.xlt.retiring → ¬ pinned → ∃ u : State, exec (.unitRetire stack unit) s = .next u.releaseUnit
            ∧ ¬ (k, unit) ∈ u.xlt.retiring ∧ ¬ (k, unit) ∈ u.xlt.holding ∧ (u.stack k).retired = unit :: x.retired
            ∧ (∀ r, s.replacement k v = some r → u.xlt.redirects.get none (k * 2 ^ 32 + v) = some r ∧ u.xlt.dead = s.xlt.dead)
            ∧ (s.replacement k v = none → u.xlt.dead = (k * 2 ^ 32 + unit) :: s.xlt.dead ∧ u.xlt.redirects = s.xlt.redirects)
            ∧ (1024 < x.retired.length + 1 → (u.stack k).marked = true) ∧ (s.trace.cfg = none → u.mem = s.mem)))
        ∧ (exec (.rowActivationLimit stack pc bank row) s = .next (s.modStack k fun x => { x with rfm := x.rfm + 1 }))
        ∧ (∀ n, ∃ u : State, exec (.scrubPass stack n) s = .next (u.readEcs k) ∧ (u.stack k).scrubLc = s.hallLc (k / 3)
          ∧ (u.stack k).corrCode = x.corrCode + BitVec.ofNat 64 n ∧ u.mem = s.mem ∧ u.xlt = s.xlt)
        ∧ (∀ temp : Int, ∃ u : State, exec (.hbmTempRead stack temp) s = .next (if 440 ≤ temp then u.orderlyStop .hbmTemp else u) ∧ (u.stack k).temp = temp
          ∧ (u.stack k).refreshNext = refreshRate x.refreshNext temp ∧ (u.stack k).throttled = (if x.throttled then decide (408 < temp) else decide (420 < temp))
          ∧ u.xlt = s.xlt ∧ u.graphs = s.graphs)
        ∧ (exec (.perBankRefresh stack pc bank) s = .next (if x.selfRefresh = true then s
            else s.modStack k fun x => { x with refresh := x.refreshNext, refreshes := x.refreshes + 1 })))
      ∧ (let m := Config.onDieErrs k (s.hallLc (k / 3)) x.corrOnDie
        let q := Config.linkRetries k (s.hallLc (k / 3)) x.crcRetry
        s.readEcs k = ((s.modStack k fun y => { y with corrOnDie := y.corrOnDie + BitVec.ofNat 64 m, crcRetry := y.crcRetry + BitVec.ofNat 32 q }).count
          .correctedOnDie k m).count .crcRetry k q))

/-- The translation commands (R401, R409, R411, R420, R429, Table 14.11): a space is registered (INVALID for a root or limit
out of range, CONFLICT where the job has one) and cleared (BUSY while the job has a resident graph); a save area and a reserve
are placed (INVALID outside mapped HBM or the sizes, BUSY while the hall holds records or redirected units); RETRY and FAIL end
a pending fault (NOT_FOUND for none), FAULT_LIMIT ends it as FAIL does; XLT_INVALIDATE replies once no pin is left in its range
and no access of the job is under way. -/
def Obligations.TranslationCommands : Prop :=
  ∀ (h : CmdHdr) (c : Cmd) (s : State) (v size off : W64),
    let r := s.begin_ c
    let b := s.begun c
    (s.serves 0x0230 2 true h c →
      let ok := s.tableOk 0 v.toNat = true ∧ 1 ≤ size.toNat ∧ size.toNat ≤ 10000000
      (¬ ok → exec (.xltSpaceSet h v size) s = r.answers b stInvalid [])
      ∧ (ok → s.space h.job ≠ none → exec (.xltSpaceSet h v size) s = r.answers b stConflict [])
      ∧ (ok → s.space h.job = none → exec (.xltSpaceSet h v size) s =
        (r.setXlt { r.xlt with spaces := s.xlt.spaces ++ [{ job := h.job, root := v.toNat, limit := size }] }).answers b stOk []))
    ∧ (s.serves 0x0231 0 true h c → exec (.xltSpaceClear h) s = if s.jobResident h.job = true then r.answers b stBusy []
        else (r.setXlt { r.xlt with spaces := s.xlt.spaces.filter fun x => x.job ≠ h.job }).answers b stOk [])
    ∧ (s.serves 0x0232 2 true h c → exec (.xltInvalidate h v size) s =
        if v.toNat % 65536 = 0 ∧ size.toNat % 65536 = 0 ∧ (size = 0 → v = 0)
          then .next (r.waitCmd b (.invalidate h.job v.toNat size.toNat)).finishInvalidates
          else r.answers b stInvalid [])
    ∧ (s.serves 0x0233 2 false h c →
      (1 < size.toNat → exec (.xltFaultResolve h v size) s = r.answers b stInvalid [])
      ∧ (size.toNat ≤ 1 → s.xlt.faults.find? (fun x => x.id = v.toNat) = none → exec (.xltFaultResolve h v size) s = r.answers b stNotFound [])
      ∧ (∀ f, s.xlt.faults.find? (fun x => x.id = v.toNat) = some f →
        exec (.xltFaultResolve h v 0) s = (r.retryFault f).answers b stOk [] ∧ exec (.xltFaultResolve h v 1) s = (r.failFault f).answers b stOk []))
    ∧ (∀ (id : W32),
      (∀ f, s.xlt.faults.find? (fun x => x.id = id.toNat) = some f → (s.space f.job).isSome = true →
        exec (.faultLimitExpire id) s = .next (s.failFault f))
      ∧ (s.xlt.faults.find? (fun x => x.id = id.toNat) = none → exec (.faultLimitExpire id) s = .next s))
    ∧ (s.serves 0x0234 3 false h c →
      let ok := v.toNat ≤ 3 ∧ size.toNat % 65536 = 0 ∧ 4 * 2 ^ 20 ≤ size.toNat ∧ size.toNat ≤ 64 * 2 ^ 30 ∧ s.hbmRange off.toNat size.toNat = true
      (¬ ok → exec (.xltSaveAreaSet h v off size) s = r.answers b stInvalid [])
      ∧ (ok → s.records v.toNat ≠ [] → exec (.xltSaveAreaSet h v off size) s = r.answers b stBusy [])
      ∧ (ok → s.records v.toNat = [] → exec (.xltSaveAreaSet h v off size) s =
        (r.setXlt { r.xlt with saveAreas := s.xlt.saveAreas.set none v.toNat (some { off := off.toNat, size := size.toNat }) }).answers b stOk []))
    ∧ (s.serves 0x0235 3 false h c →
      let ok := v.toNat ≤ 3 ∧ size.toNat ≤ 3072 ∧ s.hbmRange off.toNat (size.toNat * 65536) = true
      let used := ∃ x ∈ s.xlt.redirects, x.1 / 2 ^ 32 / 3 = v.toNat
      let area : Option Area := if size = 0 then none else some { off := off.toNat, size := size.toNat * 65536 }
      (¬ ok → exec (.xltReserveSet h v off size) s = r.answers b stInvalid [])
      ∧ (ok → used → exec (.xltReserveSet h v off size) s = r.answers b stBusy [])
      ∧ (ok → ¬ used → exec (.xltReserveSet h v off size) s =
        (r.setXlt { r.xlt with reserves := s.xlt.reserves.set none v.toNat area }).answers b stOk []))

/-- XLT gives each fault an id unique within the start (R410): a fault that a pending one of the same job and kind governs
joins it; any other takes an id that is neither 0 nor pending, is pending from then on, and leaves memory alone. -/
def Obligations.TranslationFaultIds : Prop :=
  ∀ (s : State) (xlt unit : Nat) (job : Byte) (kind va lo size : Nat) (source : W64), s.xlt.faults.length < 2 ^ 31 →
    let p := s.raise xlt unit job kind va lo size source
    (∀ f, s.xlt.faults.find? (fun f => f.job = job && f.kind = kind && f.lo ≤ va && va < f.lo + f.size) = some f → p = (f.id, s))
    ∧ (s.xlt.faults.find? (fun f => f.job = job && f.kind = kind && f.lo ≤ va && va < f.lo + f.size) = none →
      p.1 ≠ 0 ∧ (∀ f ∈ s.xlt.faults, f.id ≠ p.1) ∧ p.2.mem = s.mem ∧
      ∃ f, p.2.xlt.faults = s.xlt.faults ++ [f] ∧ f.id = p.1 ∧ f.job = job ∧ f.kind = kind ∧ f.va = va ∧ f.lo = lo ∧ f.size = size)

/-- A virtual address with a bit of [63:57] set completes with an address-error status and raises no translation fault (R402). -/
def Obligations.HighAddressesAreErrors : Prop :=
  ∀ (s : State) (job : Byte) (va : Nat), 2 ^ 57 ≤ va →
    (∀ use n have_ buf, 0 < n → s.vread job use va n have_ buf = .err va false)
    ∧ (∀ bs who, 0 < bs.length → s.vwrite job va bs who = .err va false)

/-! ### Graphs -/

/-- GRAPH_SUBMIT gives a sound image the lowest free handle, claims SYNC_IN for a sync master (CONFLICT where it is claimed),
replies and reads the image (R44, R47, R77); a bad header answers INVALID, a bad address ADDRESS, and a header of another part
or behind a fault is waited for; GRAPH_STATUS answers the state, the step, the tasks completed, the micro-batches admitted and
the expired holds; GRAPH_STOP in mode 1 stops placement at once and in mode 0 at the step's end (R87), and answers at once for
an ended graph; GRAPH_RELEASE frees an ended graph's handle and claims (R88); a handle above 7 answers INVALID and a free one
NOT_FOUND. GRAPH_RELEASE of a graph that has not ended answers BUSY and changes nothing else (R88). -/
def Obligations.GraphCommands : Prop :=
  (∀ (h : CmdHdr) (c : Cmd) (s : State) (v mode : W64) (g : Nat) (gr : Graph),
      let r := s.begin_ c
      let b := s.begun c
      (s.serves 0x0401 1 true h c → s.freeHandle = some g →
        (s.fab.broken = true → exec (.graphSubmit h v) s = r.answers b 0x0E [])
        ∧ (s.fab.broken = false →
          (v.toNat % 128 ≠ 0 → exec (.graphSubmit h v) s = r.answers b stInvalid [])
          ∧ (v.toNat % 128 = 0 →
            (∀ a p, r.hubRead h.job v.toNat 128 = .err a p →
              exec (.graphSubmit h v) s = ((r.dropHub h.job).accessFault 4 p a 0).answers b stAddress [])
            ∧ (∀ x pa l, r.hubRead h.job v.toNat 128 = .remote x pa l → exec (.graphSubmit h v) s = .next ((r.parkCmd b).hubFetch h.job x pa l))
            ∧ (∀ k x lo size, r.hubRead h.job v.toNat 128 = .fault k x lo size →
              let p := r.raise 4 2 h.job k x lo size 0
              exec (.graphSubmit h v) s = .next (p.2.parkCmd b p.1))
            ∧ (∀ bs, r.hubRead h.job v.toNat 128 = .ok bs →
              let hd := GraphHdr.parse bs
              let q := r.dropHub h.job
              let fresh : Graph := { hdr := hd, headerVa := v, recs := [], tasks := [], roots := [], step := hd.stepFirst }
              let wants := hd.syncMode ≠ 0 ∧ hd.syncMaster = true
              let taken := q.claim { kind := .syncIn, index := 0, job := h.job, opcode := 0x0401, graph := some g }
              (hdrBad bs h.job = true → exec (.graphSubmit h v) s = q.answers b stInvalid [])
              ∧ (hdrBad bs h.job = false → wants → q.host.claimed .syncIn 0 = true → exec (.graphSubmit h v) s = q.answers b stConflict [])
              ∧ (hdrBad bs h.job = false → wants → q.host.claimed .syncIn 0 = false →
                exec (.graphSubmit h v) s = .next (((taken.setGraph g (some fresh)).reply b stOk [BitVec.ofNat 64 g]).loadGraph g))
              ∧ (hdrBad bs h.job = false → ¬ wants →
                exec (.graphSubmit h v) s = .next (((q.setGraph g (some fresh)).reply b stOk [BitVec.ofNat 64 g]).loadGraph g))))))
      ∧ (∀ o, (o = exec (.graphStatus h v) s ∧ s.serves 0x0403 1 false h c) ∨ (o = exec (.graphRelease h v) s ∧ s.serves 0x0404 1 false h c)
            ∨ (o = exec (.graphStop h v mode) s ∧ s.serves 0x0402 2 false h c ∧ mode.toNat ≤ 1) →
          (7 < v.toNat → o = r.answers b stInvalid []) ∧ (v.toNat ≤ 7 → s.graph v.toNat = none → o = r.answers b stNotFound []))
      ∧ (s.serves 0x0402 2 false h c → 1 < mode.toNat → exec (.graphStop h v mode) s = r.answers b stInvalid [])
      ∧ (s.graph v.toNat = some gr → v.toNat < 8 →
        (s.serves 0x0403 1 false h c → exec (.graphStatus h v) s = r.answers b stOk
          [BitVec.ofNat 64 gr.phase.code, gr.step.setWidth 64, BitVec.ofNat 64 gr.completed, BitVec.ofNat 64 gr.admitted,
           BitVec.ofNat 64 gr.expiredCount, if gr.phase = .ended then gr.endStatus.setWidth 64 else 0])
        ∧ (s.serves 0x0402 2 false h c → mode.toNat ≤ 1 → gr.phase = .ended →
          exec (.graphStop h v mode) s = r.answers b stOk [gr.step.setWidth 64, gr.endStatus.setWidth 64])
        ∧ (s.serves 0x0402 2 false h c → gr.phase ≠ .ended →
          exec (.graphStop h v 1) s = .next ((r.waitCmd b (.graphStop v.toNat)).failGraph v.toNat 0x21 0))
        ∧ (s.serves 0x0402 2 false h c → gr.phase ≠ .ended → (gr.loading.isSome = true ∨ gr.phase = .boundary ∧ gr.boundaryWork = false) →
          exec (.graphStop h v 0) s = .next ((r.waitCmd b (.graphStop v.toNat)).failGraph v.toNat 0x21 0))
        ∧ (s.serves 0x0402 2 false h c → gr.phase ≠ .ended → gr.loading = none → (gr.phase = .boundary → gr.boundaryWork = true) →
          exec (.graphStop h v 0) s = .next ((r.waitCmd b (.graphStop v.toNat)).modGraph v.toNat fun x =>
            { x with atStepEnd := some (x.atStepEnd.getD ⟨0x21, 0⟩) }))
        ∧ (s.serves 0x0404 1 false h c → gr.phase ≠ .ended → exec (.graphRelease h v) s = r.answers b stBusy [])
        ∧ (s.serves 0x0404 1 false h c → gr.phase = .ended →
          ∃ u : State, exec (.graphRelease h v) s = u.answers b stOk [] ∧ u.graph v.toNat = none
            ∧ (∀ x ∈ u.host.claims, x.kind = .syncIn → x.graph ≠ some v.toNat)
            ∧ (∀ k, k ≠ v.toNat → u.graph k = s.graph k) ∧ u.mem = s.mem)))
  ∧ (∀ (h : CmdHdr) (c : Cmd) (s : State) (v : W64) (gr : Graph), s.serves 0x0404 1 false h c → v.toNat < 8 →
      s.graph v.toNat = some gr → gr.phase ≠ .ended → exec (.graphRelease h v) s = (s.begin_ c).answers (s.begun c) 0x01 [])

/-- The part holds up to 8 resident graphs: a ninth submission answers BUSY (R47). -/
def Obligations.NinthGraphIsBusy : Prop :=
  ∀ (s : State), s.residents.length ≤ 8
    ∧ ∀ (h : CmdHdr) (c : Cmd) (va : W64), s.serves 0x0401 1 true h c → s.residents.length = 8 →
      exec (.graphSubmit h va) s = (s.begin_ c).answers (s.begun c) 0x01 []

/-- The dispatcher and the step (R54 to R64, R72, R74, R78 to R85, R505): a ready task that goes first and fits is placed, once
its descriptors are read; one with an epoch that is past is dropped and its graph ends, and one ahead of its layout epoch
waits; a finished task completes; a graph with no task that can move ends; the next step starts as SYNC_MODE says, or when its
hold expires; messages of the sync master reach every graph of the job that hears it, or are kept for its step; an edge takes a
mark, and the first one of a step is latched. A row that meets no such task or graph changes nothing. Pre-emption, saves and
restores (R72, R90, R421 to R427, Tables 14.7 and 14.8): a save that is quiet writes the record to its area and ends with the
task saved and off its stall, and waits otherwise; a task with a layout epoch that is past is dropped at its restore; a restore
gives a task contexts, slots, mode and span on a stall of its hall, and waits until they are there; a poisoned record sends it
back to its start; a ready task of a MIDTASK graph pre-empts on its stall, or on the one that holds most contexts of lower
graphs, and otherwise nothing changes. Fencing and spares (R16 to R22, R250, R266, R293, R350, R427, R610, Tables 22.2 and
22.3): a stall's error or timeout empties it, records it, and retires its aisle where SX serves already; an aisle or hall is
fenced once; a context's parity error starts its task again, or recomputes a lent one; at a quiet point a passing spare takes
the unit's place, and one that fails counts as used. An event of a hall that does not run, and a quiet point with nothing to
replace, change nothing. -/
def Obligations.DispatchAndSteps : Prop :=
  (∀ (s : State) (g : Fin 8) (t : Nat),
      (s.graph g.val = none ∨ s.task g.val t = none ∨ s.rec_ g.val t = none → exec (.taskPlace g t) s = .next s)
      ∧ (s.task g.val t = none ∨ s.rec_ g.val t = none → exec (.taskComplete g t) s = .next s)
      ∧ (s.graph g.val = none → exec (.deadlockTimeout g) s = .next s ∧ exec (.stepStart g) s = .next s ∧ exec (.holdExpire g) s = .next s)
      ∧ (∀ ts r, s.task g.val t = some ts → s.rec_ g.val t = some r →
        exec (.taskComplete g t) s = .next (if s.taskFinished g.val t ts r = true then s.completeTask g.val t ts r else s))
      ∧ (∀ gr ts r, s.graph g.val = some gr → s.task g.val t = some ts → s.rec_ g.val t = some r →
        let job := gr.hdr.job
        let c : Cand := { g := g.val, t := t, gr := gr, ts := ts, r := r, cls := s.placeClass r }
        let cur := s.layoutEpoch.get 0 job.toNat
        let open_ := ts.st = .ready ∧ gr.phase = .running ∧ gr.loading = none ∧ s.dispatchOn = true
        (¬ open_ → exec (.taskPlace g t) s = .next s)
        ∧ (open_ → epochNewer cur (tagLayout ts.tags) = true → exec (.taskPlace g t) s = .next (s.dropStale g.val t ts.tags))
        ∧ (open_ → epochNewer cur (tagLayout ts.tags) = false → tagLayout ts.tags ≠ cur →
          exec (.taskPlace g t) s = .next (s.modTask g.val t fun x => { x with st := .waitLayout }))
        ∧ (open_ → tagLayout ts.tags = cur →
          (s.weightOk job ts.tags = false → exec (.taskPlace g t) s = .next (s.dropStale g.val t ts.tags))
          ∧ (s.weightOk job ts.tags = true →
            (r.onStall = true → s.stallFor c = none → exec (.taskPlace g t) s = .next s)
            ∧ (∀ k, r.onStall = true → s.stallFor c = some k →
              exec (.taskPlace g t) s = .next (if s.blocked c = true ∨ s.restoreFirst c k = true then s else s.place c (some k)))
            ∧ (r.onStall = false → exec (.taskPlace g t) s = .next (if s.fits c = true ∧ s.blocked c = false then s.place c none else s))))
        ∧ (∀ u : Option Nat,
          let wanted := if r.onStall = true then r.drefs else if r.kind = 2 then r.drefs.take 2 else []
          let xlt := (ts.queue.map (·.1)).getD 4
          let d := if wanted = [] then s else s.dropHub job
          (∀ ds, s.readDrefs job wanted = .ok ds → s.place c u = match u with
            | some k => d.startOnStall c k ds
            | none => d.startOnUnit c ds)
          ∧ (∀ va pa n, s.readDrefs job wanted = .remote va pa n → s.place c u = s.hubFetch job va pa n)
          ∧ (∀ k va lo n, s.readDrefs job wanted = .fault k va lo n →
            s.place c u = (s.raise xlt 2 job k va lo n (BitVec.ofNat 64 t)).2.modTask g.val t fun x => { x with st := .faultHeld (s.raise xlt 2 job k va lo n (BitVec.ofNat 64 t)).1 })
          ∧ (∀ a p, s.readDrefs job wanted = .err a p → s.place c u =
            (((s.dropHub job).accessFault xlt p a ts.tags).modTask g.val t fun x => { x with st := .aborted, queue := none }).failGraph g.val 0x05 (BitVec.ofNat 64 t))))
      ∧ (∀ gr, s.graph g.val = some gr →
        let stuck := ∀ x ∈ gr.tasks, x.st = .waitPred ∨ x.st = .waitAdmit ∨ x.st = .waitUpdate ∨ x.st = .done ∨ x.st = .skipped ∨ x.st = .aborted
        let left := (gr.tasks.filter fun x => !(x.st = .done || x.st = .skipped)).length
        let ends := gr.phase = .running ∧ gr.loading = none ∧ left ≠ 0
        let next := gr.step + 1
        let free := s.mayStartStep gr = true
        let wide := 2 ≤ gr.hdr.syncMode.toNat
        let master := gr.hdr.syncMaster = true
        let pulsed := gr.edge = true ∨ gr.pairLost = true ∨ gr.hdr.holdMs = 0
        (stuck → ends → exec (.deadlockTimeout g) s = .next (s.failGraph g.val 0x24 (BitVec.ofNat 64 left)))
        ∧ (¬ ends → exec (.deadlockTimeout g) s = .next s)
        ∧ ((∃ x ∈ gr.tasks, x.st = .running ∨ x.st = .ready ∨ x.st = .gated ∨ x.st = .waitLayout) → exec (.deadlockTimeout g) s = .next s)
        ∧ (¬ free → exec (.stepStart g) s = .next s ∧ exec (.holdExpire g) s = .next s)
        ∧ (free → ¬ wide → exec (.stepStart g) s = .next (s.beginStep g.val next false) ∧ exec (.holdExpire g) s = .next s)
        ∧ (free → wide → master → exec (.stepStart g) s = .next (if pulsed then s.masterStart g.val gr false else s))
        ∧ (free → wide → master → exec (.holdExpire g) s = .next (if pulsed then s else (s.graphEvent g.val 2 0 0).masterStart g.val gr true))
        ∧ (free → wide → ¬ master → exec (.holdExpire g) s = .next s
          ∧ exec (.stepStart g) s = .next (match gr.starts.find? fun p => p.1 = next with
            | some p => s.beginStep g.val next p.2
            | none => s)))
      ∧ (s.power.supply = .off → exec .syncInEdge s = .next s)
      ∧ (s.power.supply ≠ .off → let m := s.ownMark 2
        let at_ := (m.host.claims.find? fun c => c.kind = .syncIn).bind (·.graph)
        (at_.bind m.graph = none → exec .syncInEdge s = .next m)
        ∧ (∀ k gr, at_ = some k → m.graph k = some gr →
          let hears := gr.pairLost = false ∧ (gr.phase = .running ∨ gr.phase = .boundary)
          (¬ hears → exec .syncInEdge s = .next m)
          ∧ (hears → gr.edge = true → exec .syncInEdge s = .next (m.count .syncEdges 0 1))
          ∧ (hears → gr.edge = false → exec .syncInEdge s = .next (m.latchEdge k))))
      ∧ (∀ job step,
        (s.slaves job = [] → (∀ m, exec (.admitMb job step m) s = .next s) ∧ (∀ n, exec (.close job step n) s = .next s)
          ∧ ∀ e, exec (.start job step e) s = .next s)
        ∧ (∀ k gr, s.slaves job = [(k, gr)] →
          let now := gr.step = step ∧ gr.phase = .running ∧ gr.loading = none
          (∀ m : W16, let u := s.modGraph k fun x => { x with admits := x.admits ++ [(step, m.toNat)] }
            exec (.admitMb job step m) s = .next (if now then u.readmit k else u))
          ∧ (∀ n : W16, exec (.close job step n) s = .next (if now then ((s.closeStep k n.toNat).readmit k).checkStepEnd k
            else s.modGraph k fun x => { x with closes := x.closes ++ [(step, n.toNat)] }))
          ∧ (∀ e, exec (.start job step e) s = .next (s.modGraph k fun x => { x with starts := x.starts ++ [(step, e)] })))
        ∧ (∀ m n e, ∃ u v w : State, exec (.admitMb job step m) s = .next u ∧ exec (.close job step n) s = .next v ∧ exec (.start job step e) s = .next w)))
  ∧ (∀ (s : State) (g : Fin 8) (t : Nat) (st : StallId),
      let k := skey st
      (s.task g.val t = none → exec (.taskSave g t) s = .next s ∧ exec (.taskRestore g t st) s = .next s)
      ∧ (∀ ts, s.task g.val t = some ts →
        (ts.saving = none ∨ ts.place = none → exec (.taskSave g t) s = .next s)
        ∧ (∀ cause fid off n p, ts.saving = some (cause, fid, off, n) → ts.place = some p →
          (s.saveReady g.val t p = false → exec (.taskSave g t) s = .next s)
          ∧ (s.saveReady g.val t p = true → ∃ u : State, exec (.taskSave g t) s = .next (u.updateLend (hallOf p)).checkLayouts ∧
            ∃ x q, u.task g.val t = some x ∧ x.place = none ∧ x.saving = none ∧ x.saved = some q ∧ q.off = off ∧ q.bytes = n ∧ q.cause = cause
              ∧ q.hall = hallOf p ∧ q.faultId = fid ∧ (s.trace.cfg = none → u.mem = (s.poke off (padTo n (recordBytes g.val t ts.tags q))).mem)))
        ∧ (ts.saved = none → exec (.taskRestore g t st) s = .next s)
        ∧ (∀ r, ts.saved = some r →
          let past := s.restorable g.val ts = true ∧ epochNewer (s.layoutEpoch.get 0 (tagJob ts.tags).toNat) (tagLayout ts.tags) = true
          (past → exec (.taskRestore g t st) s = .next ((s.dropStale g.val t ts.tags).finishAllocFrees))
          ∧ (¬ past → s.canRestore g.val ts r k = false → exec (.taskRestore g t st) s = .next s)
          ∧ (¬ past → s.canRestore g.val ts r k = true → s.poisoned r.off r.bytes = true → exec (.taskRestore g t st) s = .next (s.redispatch g.val t))
          ∧ (¬ past → s.canRestore g.val ts r k = true → s.poisoned r.off r.bytes = false → let cs := (s.freeContexts k).take r.threads.length
            let u := s.reload g.val t k r cs
            (∃ x, u.task g.val t = some x ∧ x.st = .running ∧ x.place = some k ∧ x.saved = none)
            ∧ exec (.taskRestore g t st) s = .next ((cs.foldl (fun (s : State) (c : Nat) => (s.rewait c).resumeMoves c)
              ((u.tick.unpark (hallOf k)).traceStall k 9 t)).updateLend (hallOf k)))))
      ∧ (s.graph g.val = none ∨ s.task g.val t = none ∨ s.rec_ g.val t = none → exec (.midtaskPreemptTimeout g t st) s = .next s)
      ∧ (∀ gr ts r, s.graph g.val = some gr → s.task g.val t = some ts → s.rec_ g.val t = some r →
        let most := ∀ i, i < 16 → s.stallRuns (aisleOf k * 16 + i) = true → s.lowerContexts g.val (aisleOf k * 16 + i) ≤ s.lowerContexts g.val k
        let here := gr.hdr.midtask = true ∧ gr.phase = .running ∧ ts.st = .ready ∧ r.onStall = true ∧ ts.queue = some (hallOf k, aisleOf k % 36)
          ∧ s.stallRuns k = true ∧ (r.placeStall = k % 16 ∨ r.placeStall = 31) ∧ (r.placeStall = 31 → most)
        (here → exec (.midtaskPreemptTimeout g t st) s =
          .next (s.preemptUntil r.nthreads (s.victims g.val k) ((s.freeContexts k).length + s.savingContexts k)))
        ∧ (¬ here → exec (.midtaskPreemptTimeout g t st) s = .next s)))
  ∧ (∀ (s : State) (st : StallId) (hall : Fin 4) (aisle : Fin 36) (t : ThreadRef),
      let k := skey st
      let a := aisleKey hall.val aisle.val
      let runs := s.hallRuns hall.val = true
      (exec (.stallUe st) s = .next (s.fenceStall k .stallUe) ∧ exec (.stallTimeout st) s = .next (s.fenceStall k .stallTimeout))
      ∧ (∀ q, ((s.stall k).fenced = true ∨ s.hallRuns (hallOf k) = false → s.fenceStall k q = s)
        ∧ ((s.stall k).fenced = false → s.hallRuns (hallOf k) = true →
          let u := (((s.emptyStall k).stallFault k q 3 0 0).raiseAlert 7).count .fences (hallOf k) 1
          s.fenceStall k q = if (u.aisle (aisleOf k)).sxFor = none then u.relend.updateLend (hallOf k) else u.fenceAisle (aisleOf k) q))
      ∧ (∀ q, ((s.aisle a).fenced = true ∨ (s.aisle a).gone = true → s.fenceAisle a q = s)
        ∧ ((s.aisle a).fenced = false → (s.aisle a).gone = false →
          let last := (s.hall (a / 36)).axFor ≠ none
          let e := (List.range 16).foldl (fun (s : State) i => s.emptyStall (a * 16 + i)) (s.setAisle a { s.aisle a with fenced := true, gone := (s.hall (a / 36)).axFor.isSome })
          let u := (e.requeue fun x => x = (a / 36, a % 36)).relend
          s.fenceAisle a q = ((((if last then u.degradedFault a q else u.aisleFault a q 3 0 0).raiseAlert 7).count .fences (a / 36) 1).updateLend (a / 36))))
      ∧ (exec (.aisleUe hall aisle) s = .next (if runs then s.fenceAisle a .aisleUe else s))
      ∧ (exec (.aisleTimeout hall aisle) s = .next (if runs then s.fenceAisle a .aisleTimeout else s))
      ∧ (∀ x pass, ¬ runs → exec (.stallQuietPoint hall aisle x pass) s = .next s)
      ∧ (∀ (i : Fin 16) (pass : Bool), runs → let n := a * 16 + i.val
        let due := (s.stall n).fenced = true ∧ (s.aisle a).fenced = false ∧ (s.aisle a).gone = false ∧ (s.aisle a).sxFor = none
        exec (.stallQuietPoint hall aisle (some i) pass) s = .next (if ¬ due then s
          else if pass = true then (s.useSx n).retireShort a else (s.setAisle a { s.aisle a with sxFor := some 16 }).fenceAisle a .stallUe))
      ∧ (∀ (pass : Bool), runs →
        let due := (s.aisle a).fenced = true ∧ (s.aisle a).gone = false ∧ (s.hall hall.val).axFor = none
        let u := s.setHall hall.val { s.hall hall.val with axFor := some 36 }
        exec (.stallQuietPoint hall aisle none pass) s = .next (if ¬ due then s else if pass = true then s.useAx a
          else ((u.setAisle a { u.aisle a with gone := true }).requeue fun q => q = (hall.val, aisle.val)).degradedFault a .aisleUe))
      ∧ (∀ mesh, exec (.hallUe hall mesh) s = .next (s.fenceHall hall.val mesh .hallUe))
      ∧ (exec (.hallTimeout hall) s = .next (s.fenceHall hall.val false .hallTimeout))
      ∧ (∀ mesh q, (s.hall hall.val).fenced = true → s.fenceHall hall.val mesh q = s)
      ∧ (s.thread (tkey t) = none → exec (.ctxParity t) s = .next s)
      ∧ (∀ th, s.thread (tkey t) = some th → let u := s.stallFault (skey t.st) .ctxParity 2 (s.threadTags th) 0
        exec (.ctxParity t) s = .next (if th.status = .lent
          then (((u.setThread (tkey t) none).modStall (skey t.st) fun i => i.freeTask th.graph th.task).releaseHeld (skey t.st) fun w _ => w = .xmode).relend
          else u.redispatch th.graph th.task)))

/-! ### Bell -/

/-- The Bell commands, on counters of this part and of others (Table 12.4, R41, R350 to R352, R355, R362 to R364, R368, R376,
R378): what each answers, INVALID, ADDRESS, CONFLICT, NOT_FOUND and BUSY among it. An access to a counter whose home hall is
fenced, and a signal to a counter configured as a barrier, completes with an address-error status (R350, R368): BELL_READ and
BELL_SIGNAL answer ADDRESS. -/
def Obligations.BellCommands : Prop :=
  (∀ (h : CmdHdr) (c : Cmd) (s : State) (part index v w : W64),
      let r := s.begin_ c
      let b := s.begun c
      let i : W16 := index.setWidth 16
      let inR := fun (j : W16) => index.toNat ≤ j.toNat ∧ j.toNat < index.toNat + v.toNat
      let args := part.toNat < 8192 ∧ index.toNat < 65536
      let own := part.toNat = s.partNo
      (s.serves 0x0501 2 false h c → exec (.bellRead h part index) s =
        if ¬ args then r.answers b stInvalid [] else if s.member part.toNat = false then r.answers b stAddress []
        else if ¬ own then .next ((r.remoteRead (.cmd h.seq) 0 false (counterAddr part.toNat i) 8).waitCmd b .atomic)
        else if s.bellLost i = true then r.answers b stAddress [] else r.answers b stOk [s.counter i])
      ∧ (s.serves 0x0502 3 false h c →
        (¬ args → exec (.bellSignal h part index v) s = r.answers b stInvalid [])
        ∧ (args → s.member part.toNat = false → exec (.bellSignal h part index v) s = r.answers b stAddress [])
        ∧ (args → s.member part.toNat = true → ¬ own → exec (.bellSignal h part index v) s =
          .next ((r.request (bellPacket 0x04 part.toNat i [v]) (.cmd h.seq)).waitCmd b (.acks [])))
        ∧ (args → s.member part.toNat = true → own → r.signal i v = none → exec (.bellSignal h part index v) s = r.answers b stAddress [])
        ∧ (∀ u, args → s.member part.toNat = true → own → r.signal i v = some u → exec (.bellSignal h part index v) s = u.answers b stOk []))
      ∧ (∀ cmp tm ck, s.serves 0x0503 6 false h c →
        let ok := args ∧ cmp.toNat ≤ 2 ∧ tm.toNat < 2 ^ 32
        let id := s.bell.nextWatch
        let q := r.reply b stOk [BitVec.ofNat 64 id]
        let t := if own then q else q.setBell { q.bell with away := q.bell.away ++ [(id, part.toNat, i)] }
        exec (.bellWatch h part index v cmp tm ck) s = if ¬ ok then r.answers b stInvalid []
          else if s.member part.toNat = false then r.answers b stAddress []
          else .next (t.registerAt part.toNat i v (cmp.setWidth 2) (tm.setWidth 32) (.host ck)))
      ∧ (s.serves 0x0504 1 false h c →
        let mine := (∃ x ∈ s.bell.watches ++ s.bell.heldRegs, x.hostIs v.toNat = true) ∨ ∃ x ∈ s.bell.away, x.1 = v.toNat
        (¬ mine → exec (.bellCancel h v) s = r.answers b stNotFound [])
        ∧ (mine → ∃ u : State, exec (.bellCancel h v) s = u.answers b stOk [] ∧ (∀ x ∈ u.bell.watches ++ u.bell.heldRegs, x.hostIs v.toNat = false)
          ∧ (∀ x ∈ u.bell.away, x.1 ≠ v.toNat) ∧ u.bell.counters = s.bell.counters))
      ∧ (s.serves 0x0505 2 false h c →
        let ok := index.toNat ≤ 65535 ∧ 1 ≤ v.toNat ∧ index.toNat + v.toNat ≤ 65536
        let lost := ∃ j : W16, inR j ∧ s.bellLost j = true
        let busy := (∃ x ∈ s.bell.watches ++ s.bell.heldRegs, inR x.index) ∨ (∃ x ∈ s.bell.pairs, inR x.p ∨ inR x.c)
          ∨ ∃ x ∈ s.bell.barriers, inR x.index ∧ s.barrierWaits x = true
        (¬ ok → exec (.bellReset h index v) s = r.answers b stInvalid [])
        ∧ (ok → lost → exec (.bellReset h index v) s = r.answers b stAddress [])
        ∧ (ok → ¬ lost → busy → exec (.bellReset h index v) s = r.answers b stBusy [])
        ∧ (ok → ¬ lost → ¬ busy → exec (.bellReset h index v) s = (r.resetCounters index.toNat (index.toNat + v.toNat)).answers b stOk []))
      ∧ (s.serves 0x0506 3 false h c →
        let ok := 0xF000 ≤ index.toNat ∧ index.toNat ≤ 0xFFFF ∧ 1 ≤ v.toNat ∧ v.toNat ≤ 16777216 ∧ w.toNat ≤ 1
        (¬ ok → exec (.bellBarrierSet h index v w) s = r.answers b stInvalid [])
        ∧ (ok → s.isBarrier i = true → exec (.bellBarrierSet h index v w) s = r.answers b stConflict [])
        ∧ (ok → s.isBarrier i = false →
          ∃ u : State, exec (.bellBarrierSet h index v w) s = u.answers b stOk [] ∧ u.counter i = 0
            ∧ u.bell.barriers = s.bell.barriers ++ [{ index := i, n := v.toNat, domain := w = 1 }]))
      ∧ (s.serves 0x0507 1 false h c →
        (s.bell.barriers.find? (fun x => x.index.toNat = index.toNat) = none → exec (.bellBarrierClear h index) s = r.answers b stInvalid [])
        ∧ (∀ x, s.bell.barriers.find? (fun x => x.index.toNat = index.toNat) = some x →
          (s.barrierWaits x = true → exec (.bellBarrierClear h index) s = r.answers b stBusy [])
          ∧ (s.barrierWaits x = false →
            ∃ u : State, exec (.bellBarrierClear h index) s = u.answers b stOk [] ∧ u.isBarrier x.index = false
              ∧ u.bell.barriers = s.bell.barriers.filter fun y => y.index ≠ x.index)))
      ∧ (∀ ci, s.serves 0x0508 3 false h c →
        let cj : W16 := ci.setWidth 16
        let ok := index.toNat ≤ 65535 ∧ ci.toNat ≤ 65535 ∧ 1 ≤ v.toNat ∧ v.toNat ≤ 65535 ∧ index ≠ ci ∧ bellHome i = bellHome cj
        let used := ∃ x ∈ s.bell.pairs, x.p = i ∨ x.c = i ∨ x.p = cj ∨ x.c = cj
        (¬ ok → exec (.bellPairSet h index ci v) s = r.answers b stInvalid [])
        ∧ (ok → used → exec (.bellPairSet h index ci v) s = r.answers b stConflict [])
        ∧ (ok → ¬ used →
          ∃ u : State, exec (.bellPairSet h index ci v) s = u.answers b stOk [BitVec.ofNat 64 s.bell.nextPair]
            ∧ u.bell.pairs = s.bell.pairs ++ [{ id := s.bell.nextPair, p := i, c := cj, b := v.setWidth 16 }]))
      ∧ (s.serves 0x0509 1 false h c →
        (¬ (∃ x ∈ s.bell.pairs, x.id = v.toNat) → exec (.bellPairClear h v) s = r.answers b stNotFound [])
        ∧ ((∃ x ∈ s.bell.pairs, x.id = v.toNat) → ∃ u : State, exec (.bellPairClear h v) s = u.answers b stOk []
          ∧ u.bell.pairs = s.bell.pairs.filter fun x => x.id ≠ v.toNat))
      ∧ (s.serves 0x050A 2 false h c →
        let ok := index.toNat ≤ 1 ∧ 1 ≤ v.toNat ∧ v.toNat ≤ 1000000
        (¬ ok → exec (.bellLendSet h index v) s = r.answers b stInvalid [])
        ∧ (ok → ∃ u : State, exec (.bellLendSet h index v) s = u.answers b stOk [] ∧ u.bell.lendEnable = decide (index = 1) ∧ u.bell.lendTheta = v))
      ∧ (s.serves 0x0930 2 true h c →
        let d := r.bellDump (v = 1)
        (1 < v.toNat → exec (.bellDump h w v) s = r.answers b stInvalid [])
        ∧ (v.toNat ≤ 1 → goesOn (exec (.bellDump h w v) s))
        ∧ (∀ u, v.toNat ≤ 1 → r.vwrite h.job w.toNat d = .ok (u, []) → exec (.bellDump h w v) s = u.answers b stOk [BitVec.ofNat 64 d.length])
        ∧ (∀ u x xs, v.toNat ≤ 1 → r.vwrite h.job w.toNat d = .ok (u, x :: xs) → exec (.bellDump h w v) s =
            .next ((u.remoteWrites (.cmd h.seq) 0 false (x :: xs)).waitCmd b (.acks [BitVec.ofNat 64 d.length])))
        ∧ (∀ a f, v.toNat ≤ 1 → r.vwrite h.job w.toNat d = .err a f → exec (.bellDump h w v) s = (r.accessFault 4 f a 0).answers b stAddress [])
        ∧ (∀ kind x lo size, v.toNat ≤ 1 → r.vwrite h.job w.toNat d = .fault kind x lo size → exec (.bellDump h w v) s = r.answers b stAddress [])))
  ∧ (∀ (h : CmdHdr) (c : Cmd) (s : State) (index v : W64), index.toNat < 65536 → s.partNo < 8192 → s.member s.partNo = true →
      (s.serves 0x0501 2 false h c → s.bellLost (index.setWidth 16) = true →
        exec (.bellRead h (BitVec.ofNat 64 s.partNo) index) s = (s.begin_ c).answers (s.begun c) 0x05 [])
      ∧ (s.serves 0x0502 3 false h c → (s.bellLost (index.setWidth 16) = true ∨ s.isBarrier (index.setWidth 16) = true) →
        exec (.bellSignal h (BitVec.ofNat 64 s.partNo) index v) s = (s.begin_ c).answers (s.begun c) 0x05 []))

/-- An entry into a barrier joins generation (v − 1) / N + 1, where v is the counter after it, and generation g closes when the
counter reaches g × N while no generation is being released (R365). An entry past the generation behind the one being released
is BARRIER_OVERRUN and adds nothing (R367); a counter that is no barrier, and an entry of another part into a barrier of one
part, are refused and change nothing (R368). -/
def Obligations.BarrierGenerations : Prop :=
  ∀ (s : State) (i : W16) (remote : Bool),
    let find := s.bell.barriers.find? fun b => b.index = i
    let v := (s.counter i).toNat + 1
    let p := s.enterBarrier i remote
    (find = none → p = (.bad, s))
    ∧ (∀ b, find = some b →
      let runsOver := ∃ g, b.releasing = some g ∧ (g.toNat + 1) * b.n ≤ (s.counter i).toNat
      (remote = true → b.domain = false → p = (.bad, s))
      ∧ ((remote = true → b.domain = true) → runsOver → p.1 = .overrun ∧ p.2.bell.counters = s.bell.counters ∧ p.2.bell.barriers = s.bell.barriers)
      ∧ ((remote = true → b.domain = true) → (¬ runsOver) → 0 < b.n → v < 2 ^ 64 →
        p.1 = .joined (BitVec.ofNat 64 ((v - 1) / b.n + 1)) ∧ (p.2.counter i).toNat = v
        ∧ (b.releasing.isSome = true ∨ v ≠ b.openGen.toNat * b.n → p.2.bell.barriers = s.bell.barriers)
        ∧ (b.releasing = none → v = b.openGen.toNat * b.n → (p.2.bell.barriers.find? fun x => x.index = i).bind (·.releasing) = some b.openGen)))

/-- Events of Bell (chapter 12): a signal and a registration that arrive act on their counter, a registration with CMP 3 being
a barrier's entry, a restored wait or a removal (log entry 10); a message reaches the host or the thread whose WAIT or BARRIER
it is of, and a thread that does not wait for it discards it (R362); a stored watch whose limit passes sends TIMEOUT, or HELD
with TIE when its condition holds then, in one arbitration with what was signalled (R357, R358, R361); a held registration is
stored once its table has room (R355); an aligned 8-byte window write signals, and any other is an address error (R351); a
released generation resumes the threads that joined it (R366); an acknowledgement counts, and the last one opens the next
generation and starts its release where it is already full (R367); a held gate readies its task (R53). A signal adds its
increment to one counter (R352); an addition that would pass 2^64 − 1 leaves the counter at 2^64 − 1 (R348); no other counter
changes, and watches of the counter whose condition holds leave the table and send HELD (R357, R362). -/
def Obligations.BellEvents : Prop :=
  (∀ (s : State),
      (∀ src i inc sq rid replay,
        let q := if src.val = s.partNo then s else s.noteSeq src.val sq
        let ends := fun (x : State) st => if src.val = s.partNo then x else x.respond src.val rid st 0 []
        (replay = true → s.alreadySeen src.val sq = true → exec (.bellSig src i inc sq rid replay) s = .next s.countDrop)
        ∧ ((replay && s.alreadySeen src.val sq) = false →
          (q.signal i inc = none → exec (.bellSig src i inc sq rid replay) s = .next (ends q rsAddress))
          ∧ ∀ u, q.signal i inc = some u → exec (.bellSig src i inc sq rid replay) s = .next (ends u rsOk)))
      ∧ (∀ src i tgt cmp tm wt,
        (cmp ≠ 3 → exec (.bellReg src i tgt cmp tm wt) s = .next (s.newWatch.2.register
          { id := s.newWatch.1, index := i, target := tgt, cmp := cmp, timeout := tm, waiter := .remote src.val wt, since := 0 }))
        ∧ (exec (.bellReg src i 0 3 tm wt) s = .next ((s.enterBarrier i (src.val ≠ s.partNo)).2.answerEntry src.val i wt
            (s.enterBarrier i (src.val ≠ s.partNo)).1))
        ∧ (exec (.bellReg src i removalTarget 3 tm wt) s = .next (s.withdraw src.val i wt))
        ∧ (tgt ≠ 0 → tgt ≠ removalTarget → exec (.bellReg src i tgt 3 tm wt) s = .next (s.awaitRemote src.val i tgt wt)))
      ∧ (∀ m : BellMsg, m.part.val = s.partNo →
        let q := s.setBell { s.bell with msgs := eraseMsg m s.bell.msgs }
        (¬ m ∈ s.bell.msgs → exec (.bellMsg m) s = .next s)
        ∧ (m ∈ s.bell.msgs →
          (∀ w ck, m.dest = .host w ck → exec (.bellMsg m) s = .next (q.post 4 ck (bellEventBytes m w ck)))
          ∧ (∀ t, m.dest = .thread t → (∀ th, s.thread (tkey t) = some th → th.awaits m = false) → exec (.bellMsg m) s = .next q)
          ∧ (∀ t th, m.dest = .thread t → s.thread (tkey t) = some th → th.awaits m = true →
            (∀ xd since lim, th.status = .wait xd m.part.val m.index since lim → m.outcome ≠ .lost →
              ∃ u : State, exec (.bellMsg m) s = .next u ∧ (u.thread (tkey t)).map (fun x => (x.xr xd, x.pc, x.status))
                = some (if m.outcome = .held then 0 else 1, th.pc + 8, .ready))
            ∧ (∀ xd gen, th.status = .barrier xd m.part.val m.index gen → m.outcome ≠ .lost →
              ∃ u : State, exec (.bellMsg m) s = .next u ∧ (u.thread (tkey t)).map (fun x => (x.xr xd, x.pc, x.status))
                = some (gen, th.pc + 8, .ready))
            ∧ (let h := hallOf (skey t.st)
              let v := q.setLendable h false
              let adr := counterAddr m.part.val m.index
              ((∃ xd since lim, th.status = .wait xd m.part.val m.index since lim) ∨ ∃ xd gen, th.status = .barrier xd m.part.val m.index gen) →
              m.outcome = .lost → exec (.bellMsg m) s = .next ((v.accessFault h false adr (v.threadTags th)).trap (tkey t) .address (BitVec.ofNat 64 adr)
                (match (v.accessFault h false adr (v.threadTags th)).fetch th with | .word w => w | _ => 0)))
            ∧ (∀ xd rel, th.status = .barrierAsk xd m.part.val m.index rel → m.outcome = .held →
              let j := q.journalBarrier th m.part.val m.index m.value
              exec (.bellMsg m) s = .next (if ∃ g ∈ rel, m.value.toNat ≤ g.toNat then j.setThread (tkey t) (some (th.resumed xd m.value))
                else (j.setThread (tkey t) (some { th with status := .barrier xd m.part.val m.index m.value, watch := 0 })).updateLend (hallOf (skey t.st)))))))
      ∧ (∀ m : BellMsg, m.part.val ≠ s.partNo →
        ((∃ p w, m.dest = .remote p w) → exec (.bellMsg m) s = .next s) ∧ ((¬ ∃ p w, m.dest = .remote p w) → exec (.bellMsg m) s = .next (s.deliver m)))
      ∧ (∀ (id : W32),
        (s.bell.watches.find? (fun w => w.id = id.toNat) = none → ∀ also, exec (.watchTimeout id also) s = .next s)
        ∧ (∀ w also, s.bell.watches.find? (fun w => w.id = id.toNat) = some w → w.timeout ≠ 0 →
          let t := applySignals also s
          exec (.watchTimeout id also) s = .next (t.endArbitration ((also.map (·.1)).eraseDups.filter fun i => t.counter i ≠ s.counter i) id.toNat))
        ∧ (∀ w, s.bell.watches.filter (fun w => w.id = id.toNat) = [w] → w.timeout ≠ 0 →
          ∃ u : State, exec (.watchTimeout id []) s = .next u ∧ (∀ x ∈ u.bell.watches, x.id ≠ id.toNat) ∧ u.bell.counters = s.bell.counters
            ∧ u.bell.msgs = s.bell.msgs ++ [if cmpHolds w.cmp (s.counter w.index) w.target then s.watchMsg w .held true else s.watchMsg w .timeout false]))
      ∧ (∀ home : Fin 5,
        (∀ w, s.bell.heldRegs.find? (fun w => bellHome w.index = home.val) = some w →
          exec (.watchTableFree home) s = .next (if s.bell.stored home.val < homeSize home.val
            then (s.setBell { s.bell with heldRegs := s.bell.heldRegs.filter fun x => x.id ≠ w.id }).acceptReg w true else s))
        ∧ (s.bell.heldRegs.find? (fun w => bellHome w.index = home.val) = none → exec (.watchTableFree home) s = .next s))
      ∧ (∀ (src : Fin 8192) (off : W32) (size : Nat) (v : W64),
        let ok := size = 8 ∧ off.toNat % 8 = 0 ∧ off.toNat < 0x80000 ∧ s.member src.val = true
        let bad := s.accessFault 4 false (0xF0000000000 + off.toNat) 0
        (¬ ok → exec (.bellWindowWrite src off size v) s = .next bad)
        ∧ (ok → s.signal (BitVec.ofNat 16 (off.toNat / 8)) v = none → exec (.bellWindowWrite src off size v) s = .next bad)
        ∧ (∀ u, ok → s.signal (BitVec.ofNat 16 (off.toNat / 8)) v = some u → exec (.bellWindowWrite src off size v) s = .next u))
      ∧ (∀ (part : Fin 8192) (i : W16) (g : W64),
        let q : State := { s with threads := s.threads.map fun p => (p.1, p.2.map (releaseThread part.val i g)) }
        let here := ∃ x ∈ s.bell.barriers, x.index = i ∧ x.releasing = some g ∧ x.pendingHalls ≠ 0
        (part.val = s.partNo → ¬ here → exec (.barrierRelease part i g) s = .next s)
        ∧ (part.val = s.partNo → here → exec (.barrierRelease part i g) s = .next (q.updateLends.setBell { q.updateLends.bell with
            barriers := q.updateLends.bell.barriers.map fun b => if b.index = i then { b with pendingHalls := 0 } else b }))
        ∧ (part.val ≠ s.partNo → exec (.barrierRelease part i g) s = .next (q.updateLends.send (.mgmt (some part.val) (.barrierAck i)))))
      ∧ (∀ (i : W16),
        (∀ o, s.bell.barriers.find? (fun x => x.index = i) = o → (∀ x, o = some x → x.releasing = none) → exec (.barrierReleaseAck i) s = .next s)
        ∧ (∀ x g, s.bell.barriers.find? (fun x => x.index = i) = some x → x.releasing = some g →
          let upd := fun f => s.setBell { s.bell with barriers := s.bell.barriers.map fun y => if y.index = i then f y else y }
          let opened := upd fun y => { y with acks := 0, releasing := none, openGen := g + 1 }
          (x.pendingHalls ≠ 0 → (x.domain = false ∨ x.acks ≤ 1) → exec (.barrierReleaseAck i) s = .next s)
          ∧ (1 < x.acks → (x.pendingHalls = 0 ∨ x.domain = true) → exec (.barrierReleaseAck i) s = .next (upd fun y => { y with acks := y.acks - 1 }))
          ∧ (x.acks ≤ 1 → x.pendingHalls = 0 → exec (.barrierReleaseAck i) s =
            .next (if (s.counter i).toNat = (g.toNat + 1) * x.n then opened.startRelease x (g + 1) else opened))))
      ∧ (∀ (g : Fin 8) t r, s.rec_ g.val t = some r →
        (r.gatePart.toNat % 8192 = s.partNo →
          (∀ m, s.bell.msgs.find? (fun m => m.dest = .gate g t && m.outcome = .held) = some m →
            exec (.gateHeld g t) s = .next ((s.setBell { s.bell with msgs := eraseMsg m s.bell.msgs }).deliver m))
          ∧ (∀ m ts, s.bell.msgs.find? (fun m => m.dest = .gate g t && m.outcome = .held) = some m → s.task g.val t = some ts → ts.st = .gated →
            msgOf m ts.gateWatch = true →
            exec (.gateHeld g t) s = .next ((s.setBell { s.bell with msgs := eraseMsg m s.bell.msgs }).pastGate g.val t))
          ∧ (s.bell.msgs.find? (fun m => m.dest = .gate g t && m.outcome = .held) = none → exec (.gateHeld g t) s = .next s))
        ∧ (∀ ts, r.gatePart.toNat % 8192 ≠ s.partNo → s.task g.val t = some ts → ts.st = .gated →
            exec (.gateHeld g t) s = .next (s.pastGate g.val t))))
  ∧ (∀ (s u : State) (i : W16) (inc : W64), s.signal i inc = some u →
      s.bellLost i = false ∧ s.isBarrier i = false
      ∧ u.counter i = BitVec.ofNat 64 (min ((s.counter i).toNat + inc.toNat) (2 ^ 64 - 1))
      ∧ (∀ j, j ≠ i → u.counter j = s.counter j)
      ∧ (inc ≠ 0 → ∀ w ∈ u.bell.watches, w.index = i → cmpHolds w.cmp (u.counter i) w.target = false)
      ∧ (∀ w ∈ s.bell.watches, w.index ≠ i → w ∈ u.bell.watches))

/-! ### Weights and the Tills -/

/-- The weight commands (Table 17.4): a set is registered and pinned, or waits for room in the pin table (R487, R488); it is
cleared while the job runs no graph and no load; a load starts from a signed manifest (R490 to R492, R501), and answers
INVALID, NOT_FOUND, BUSY, PART_LOST, MANIFEST or SIGNATURE where it cannot; a switch starts (R503); the status is answered in
the reply while it has at most six fields, and in bulk beyond that (R508, R527). -/
def Obligations.WeightCommands : Prop :=
  ∀ (h : CmdHdr) (c : Cmd) (s : State) (set ncopy base size stride v : W64),
    let r := s.begin_ c
    let b := s.begun c
    (s.serves 0x0601 5 true h c →
      let ok := set.toNat ≤ 15 ∧ 1 ≤ ncopy.toNat ∧ ncopy.toNat ≤ 2 ∧ base.toNat % 65536 = 0 ∧ size.toNat % 65536 = 0
        ∧ (ncopy = 2 → stride.toNat % 65536 = 0 ∧ size.toNat ≤ stride.toNat)
      let st := if ncopy = 2 then stride.toNat else 0
      let x : WSet := { job := h.job, id := set.toNat, ncopy := ncopy.toNat, base := base.toNat, size := size.toNat, stride := st }
      (¬ ok → exec (.weightSetReg h set ncopy base size stride) s = r.answers b stInvalid [])
      ∧ (ok → s.wset h.job set.toNat ≠ none → exec (.weightSetReg h set ncopy base size stride) s = r.answers b stConflict [])
      ∧ (ok → s.wset h.job set.toNat = none →
        ((∀ ps, r.probeAll 4 (setPinKey h.job) x.id h.job x.ranges [] ≠ .ok ps) →
          exec (.weightSetReg h set ncopy base size stride) s = r.answers b stAddress [])
        ∧ (∀ ps, r.probeAll 4 (setPinKey h.job) x.id h.job x.ranges [] = .ok ps → pinRoom < r.pinsIn 4 + ps.length →
          exec (.weightSetReg h set ncopy base size stride) s = .next (r.parkCmd b))
        ∧ (∀ ps, r.probeAll 4 (setPinKey h.job) x.id h.job x.ranges [] = .ok ps → r.pinsIn 4 + ps.length ≤ pinRoom →
          ∃ u : State, exec (.weightSetReg h set ncopy base size stride) s = u.answers b stOk [] ∧ u.weights.sets = s.weights.sets ++ [x]
            ∧ u.xlt.pins = s.xlt.pins ++ ps)))
    ∧ (s.serves 0x0602 1 true h c →
      (s.wset h.job set.toNat = none → exec (.weightSetClear h set) s = r.answers b stNotFound [])
      ∧ (∀ x, s.wset h.job set.toNat = some x →
        ((s.loadRuns h.job = true ∨ s.jobResident h.job = true) → exec (.weightSetClear h set) s = r.answers b stBusy [])
        ∧ (s.loadRuns h.job = false → s.jobResident h.job = false →
          ∃ u : State, exec (.weightSetClear h set) s = u.answers b stOk [] ∧ u.wset h.job set.toNat = none
            ∧ ∀ p ∈ u.xlt.pins, ¬ (p.graph = setPinKey h.job ∧ p.task = set.toNat))))
    ∧ (∀ off n (srcs : List (W64 × W64 × W64)) tm fl, s.serves 0x0603 (7 + 3 * n.toNat) true h c →
      let ok := set.toNat ≤ 15 ∧ v.toNat % 128 = 0 ∧ 1 ≤ n.toNat ∧ n.toNat ≤ 4 ∧ srcs.length = n.toNat ∧ 1000 ≤ tm.toNat ∧ tm.toNat ≤ 10000000
        ∧ fl.toNat ≤ 1 ∧ off.toNat + size.toNat ≤ 0x18000000000 ∧ ∀ q ∈ srcs, ∃ p ∈ s.fab.qps, p.id = q.1.toNat ∧ p.job = h.job
      (¬ ok → exec (.weightLoad h set v off size n srcs tm fl) s = r.answers b stInvalid [])
      ∧ (ok → s.wset h.job set.toNat = none → exec (.weightLoad h set v off size n srcs tm fl) s = r.answers b stNotFound [])
      ∧ (∀ x, ok → s.wset h.job set.toNat = some x →
        let e := if x.ncopy = 2 then nextEpoch (s.epochOf h.job) else s.epochOf h.job
        let busy := s.loadRuns h.job = true ∨ s.copyHeld x e = true
        (busy → exec (.weightLoad h set v off size n srcs tm fl) s = r.answers b stBusy [BitVec.ofNat 64 s.partNo])
        ∧ (∀ p l, ¬ busy → s.fab.lost = p :: l → exec (.weightLoad h set v off size n srcs tm fl) s = r.answers b stPartLost [BitVec.ofNat 64 p])
        ∧ (∀ bs, ¬ busy → s.fab.lost = [] → r.hubRead h.job v.toNat 128 = .ok bs → manifestBad bs x.size = true →
          exec (.weightLoad h set v off size n srcs tm fl) s = (r.dropHub h.job).answers b 0x0B [])
        ∧ (∀ k, ¬ busy → s.fab.lost = [] → (∀ bs, r.hubRead h.job v.toNat 128 ≠ .ok bs) →
          exec (.weightLoad h set v off size n srcs tm fl) s = .next (r.cmdPeek b h.job v.toNat 128 k))
        ∧ (∀ bs k, ¬ busy → s.fab.lost = [] → r.hubRead h.job v.toNat 128 = .ok bs → manifestBad bs x.size = false →
          (∀ m, r.hubRead h.job v.toNat (128 + 96 * leAt bs 8 4) ≠ .ok m) →
          exec (.weightLoad h set v off size n srcs tm fl) s = .next (r.cmdRead b h.job v.toNat (128 + 96 * leAt bs 8 4) k))
        ∧ (∀ bs m, ¬ busy → s.fab.lost = [] → r.hubRead h.job v.toNat 128 = .ok bs → manifestBad bs x.size = false →
          r.hubRead h.job v.toNat (128 + 96 * leAt bs 8 4) = .ok m →
          let key := s.host.wkeys.get [] (leAt m 6 1)
          let good := key ≠ [] ∧ ecdsaVerify ofBe key (manifestDigest m) ((m.drop 0x20).take 96) = true
          let q := r.dropHub h.job
          (¬ good → exec (.weightLoad h set v off size n srcs tm fl) s = q.answers b 0x0A [])
          ∧ (good → exec (.weightLoad h set v off size n srcs tm fl) s = .next
            (q.beginLoad b x e m (off.toNat, size.toNat) (srcs.map fun q => (q.1.toNat, q.2.1, q.2.2)) tm (fl = 1))))))
    ∧ (s.serves 0x0604 1 true h c → exec (.weightSwitch h v) s = if 1000 ≤ v.toNat ∧ v.toNat ≤ 10000000 then .next (r.startSwitch b v [])
        else r.answers b stInvalid [])
    ∧ (s.serves 0x0605 0 true h c →
      let sets := s.weights.sets.filter fun x => x.job = h.job
      let fields : List W64 := [(s.epochOf h.job).setWidth 64]
        ++ (sets.flatMap fun x => (List.range x.ncopy).flatMap fun k => [x.models.getD k 0, BitVec.ofNat 64 (s.copyState x k)])
        ++ [BitVec.ofNat 64 (s.weights.refetched.get 0 h.job.toNat), BitVec.ofNat 64 (s.weights.drops.get 0 h.job.toNat)]
      let bs := fields.flatMap fun w => leBytes 8 w.toNat
      exec (.weightStatus h) s = if fields.length ≤ 6 then r.answers b stOk fields
        else if bs.length ≤ h.bulkLen.toNat then (r.bulkOut b bs).answers b stOk [BitVec.ofNat 64 bs.length] else r.answers b stInvalid [])

/-- A weight switch on a part (R503, Table 17.3): PREPARE holds admissions and answers READY; READY reaches the coordinator,
and the last one sends COMMIT; COMMIT ends the hold and gives the boundary; ABORT and the timeout end the switch with the epoch
unchanged; a message of no switch of this part changes nothing. A load (R492 to R496, R499 to R501): a shard whose SHA-384 is
its digest is broadcast, lands where this part keeps it, and the next one is fetched; another is fetched again from the next
source and counted, and after four failures ends the load; a missing shard, or one that does not decode, ends it; a receiver
forwards a packet, starts a load from a manifest that agrees with its own set and reports a mismatch or a busy copy, and drops
packets of a load it does not run; LOADED and LOAD_MISMATCH reach the loader. -/
def Obligations.WeightSwitchEvents : Prop :=
  (∀ (s : State) (p : Fin 8192) (job : Byte) (e : W16) (step : W32) (mb : W16),
      let coord := s.weights.coords.find? fun c => c.job = job
      ((p.val = s.partNo ∨ s.member p.val = false ∨ s.wpart job ≠ none) → exec (.weightPrepare p job e) s = .next s)
      ∧ (p.val ≠ s.partNo → s.member p.val = true → s.wpart job = none →
        ∃ u : State, exec (.weightPrepare p job e) s = .next u ∧ u.weights.parts = s.weights.parts ++ [{ job := job, coord := p.val, epoch := e }]
          ∧ u.sent = .mgmt (some p.val) (.weightReady job (maxPair ((s.liveGraphs job).map Graph.nextPair)).1
              (BitVec.ofNat 16 (maxPair ((s.liveGraphs job).map Graph.nextPair)).2)) :: s.sent)
      ∧ ((s.member p.val = false ∨ coord = none) → exec (.weightReady p job step mb) s = .next s)
      ∧ (∀ w, s.member p.val = true → coord = some w → (∀ r ∈ w.ready, r.1 ≠ p.val) →
        ((∃ n ∈ s.domainParts, n ≠ p.val ∧ ∀ r ∈ w.ready, r.1 ≠ n) →
          ∃ u : State, exec (.weightReady p job step mb) s = .next u ∧ u.sent = s.sent ∧
            (u.weights.coords.find? fun c => c.job = job).map (·.ready) = some (w.ready ++ [(p.val, step, mb.toNat)]))
        ∧ ((∀ n ∈ s.domainParts, n = p.val ∨ ∃ r ∈ w.ready, r.1 = n) →
          let x := maxPair ((w.ready ++ [(p.val, step, mb.toNat)]).map (·.2))
          let q := (s.setWeights { s.weights with coords := s.weights.coords.filter fun x => x.job ≠ job }).send
            (.mgmt none (.weightCommit job w.epoch x.1 (BitVec.ofNat 16 x.2)))
          exec (.weightReady p job step mb) s = .next ((q.commitWeights job x).replyWaiting (.weightSwitch job) stOk
            (w.before ++ [w.epoch.setWidth 64, x.1.setWidth 64, BitVec.ofNat 64 x.2]))))
      ∧ (∀ w, s.wpart job = some w →
        (w.coord = p.val → w.epoch = e → w.commit = none → p.val ≠ s.partNo →
          exec (.weightCommit p job e step mb) s = .next (s.commitWeights job (step, mb.toNat)))
        ∧ (¬ (w.coord = p.val ∧ w.epoch = e ∧ w.commit = none ∧ p.val ≠ s.partNo) → exec (.weightCommit p job e step mb) s = .next s)
        ∧ (w.coord = p.val → w.commit = none → p.val ≠ s.partNo →
          let q := s.setWeights { s.weights with parts := s.weights.parts.filter fun p => p.job ≠ job }
          exec (.weightAbort p job) s = .next (s.residents.foldl (fun u g => if g.2.hdr.job = job then u.readmit g.1 else u) q)
          ∧ ((∀ q ∈ s.residents, q.2.hdr.job ≠ job) →
            ∃ u : State, exec (.weightAbort p job) s = .next u ∧ u.wpart job = none ∧ u.weightEpoch = s.weightEpoch))
        ∧ (¬ (w.coord = p.val ∧ w.commit = none ∧ p.val ≠ s.partNo) → exec (.weightAbort p job) s = .next s))
      ∧ (s.wpart job = none → exec (.weightCommit p job e step mb) s = .next s ∧ exec (.weightAbort p job) s = .next s)
      ∧ (∀ w n, coord = some w → s.domainParts.find? (fun n => !(w.ready.any fun r => r.1 = n)) = some n →
        exec (.weightSwitchTimeout job) s = .next (s.abortWeights job 0x06 [BitVec.ofNat 64 n]))
      ∧ (coord = none → exec (.weightSwitchTimeout job) s = .next s))
  ∧ (∀ (s : State) (p : Fin 8192) (job : Byte),
      (∀ l w x, s.loader job = some l → s.load job = some w → w.shards[l.next]? = some x →
        let counted := (s.count .weightRefetch job.toNat 1).setWeights { s.weights with refetched := s.weights.refetched.set 0 job.toNat (s.weights.refetched.get 0 job.toNat + 1) }
        (exec (.shardFetchDone job none) s = .next (s.endLoad job 0x0D [BitVec.ofNat 64 l.next]))
        ∧ (∀ b, b.length ≠ x.slen → exec (.shardFetchDone job (some b)) s = .next s)
        ∧ (∀ b, b.length = x.slen → sha384 b ≠ x.digest → l.bad < 3 → exec (.shardFetchDone job (some b)) s =
          .next ((counted.modLoader job fun y => { y with bad := y.bad + 1, src := (y.src + 1) % y.srcs.length }).fetchShard job))
        ∧ (∀ b, b.length = x.slen → sha384 b ≠ x.digest → 3 ≤ l.bad → exec (.shardFetchDone job (some b)) s =
          .next (counted.endLoad job 0x0C [BitVec.ofNat 64 l.next]))
        ∧ (∀ b, b.length = x.slen → sha384 b = x.digest → x.raw b = none → exec (.shardFetchDone job (some b)) s =
          .next (s.endLoad job 0x0B [BitVec.ofNat 64 l.next]))
        ∧ (∀ b raw, b.length = x.slen → sha384 b = x.digest → x.raw b = some raw →
          let q := (s.poke (l.stOff + l.next % 2 * (l.stSize / 2)) b).sendCrier s.partNo job w.set w.epoch (some l.next) b
          exec (.shardFetchDone job (some b)) s = .next
            (((((if s.keeps x = true then q.landShard w x raw else q).modLoad job fun w => { w with got := w.got ++ [l.next] }).modLoader job
              fun y => { y with next := l.next + 1, bad := 0, src := 0 }).fetchShard job).reportLoaded job)))
      ∧ ((s.loader job = none ∨ s.load job = none) → ∀ b, exec (.shardFetchDone job b) s = .next s)
      ∧ (∀ l, s.loader job = some l → exec (.shardTimeout job) s =
          .next (if s.power.below40 = true then s else s.endLoad job 0x0D [BitVec.ofNat 64 l.next]))
      ∧ (s.loader job = none → exec (.shardTimeout job) s = .next s)
      ∧ (∀ (set : Fin 16) e i bytes, p.val ≠ s.partNo → s.member p.val = true → s.load job = none →
        exec (.crier p job set e (some i) bytes) s = .next ((s.sendCrier p.val job set.val e (some i) bytes).dropCrier job))
      ∧ (∀ (set : Fin 16) e i bytes l x, p.val ≠ s.partNo → s.member p.val = true → s.load job = some l → l.shards[i]? = some x →
        let q := s.sendCrier p.val job set.val e (some i) bytes
        (¬ (l.set = set.val ∧ l.epoch = e ∧ l.loader = p.val ∧ bytes.length = x.slen) → exec (.crier p job set e (some i) bytes) s = .next (q.dropCrier job))
        ∧ (∀ raw, l.set = set.val → l.epoch = e → l.loader = p.val → bytes.length = x.slen → x.raw bytes = some raw →
          exec (.crier p job set e (some i) bytes) s = .next
            (((if s.keeps x = true ∧ ¬ i ∈ l.got then q.landShard l x raw else q).modLoad job fun l => { l with got := l.got ++ [i] }).reportLoaded job)))
      ∧ (∀ (set : Fin 16) e bytes, p.val ≠ s.partNo → s.member p.val = true →
        let q := s.sendCrier p.val job set.val e none bytes
        (s.wset job set.val = none → exec (.crier p job set e none bytes) s = .next (q.send (.mgmt (some p.val) (.loadMismatch job))))
        ∧ (∀ x, s.wset job set.val = some x →
          (x.record ≠ bytes.take 32 → exec (.crier p job set e none bytes) s = .next (q.send (.mgmt (some p.val) (.loadMismatch job))))
          ∧ (x.record = bytes.take 32 → s.copyHeld x e = true → exec (.crier p job set e none bytes) s =
            .next (q.send (.mgmt (some p.val) (.loadBusy job))))
          ∧ (x.record = bytes.take 32 → s.copyHeld x e = false →
            ∃ u : State, exec (.crier p job set e none bytes) s = .next (u.reportLoaded job)
              ∧ u.load job = some (loadOf job set.val e p.val x.ncopy (bytes.drop 32)))))
      ∧ ((p.val = s.partNo ∨ s.member p.val = false) → ∀ set e i bytes, exec (.crier p job set e i bytes) s = .next s)
      ∧ (exec (.loaded p job) s = .next (if s.member p.val = true then s.loadedFrom job p.val else s))
      ∧ (exec (.loadMismatch p job) s = .next (if (s.loader job).isSome = true ∧ s.member p.val = true
          then s.endLoad job 0x09 [BitVec.ofNat 64 p.val] else s)))

/-- The Till and mask commands (Tables 10.9 and 11.3, R298, R302, R322, R330, R332, R334): a sound record registers a group and
writes its headers, digests and table; a group that is not of the job answers INVALID and one with commands queued BUSY; a
group is cleared, read, given epochs or verified; a mask is registered, cleared and bound, unless a queued or running user
still names it. -/
def Obligations.TillAndMaskCommands : Prop :=
  ∀ (h : CmdHdr) (c : Cmd) (s : State) (v w le : W64) (g : TillGroup),
    let r := s.begin_ c
    let b := s.begun c
    let q := r.dropHub h.job
    (s.serves 0x0630 1 true h c →
      (∀ k, (∀ bs, r.hubRead h.job v.toNat 128 ≠ .ok bs) → exec (.tillGroupSet h v) s = .next (r.cmdRead b h.job v.toNat 128 k))
      ∧ (∀ bs, r.hubRead h.job v.toNat 128 = .ok bs → TillGroup.parse bs = g →
        let area := q.areaOk g = true
        let table := q.rangeWritable g.job g.digest g.digestSize = true
        let soundTo := fun (n : Nat) => ∀ o, groupBad bs h.job = some o → n < o
        (∀ o, groupBad bs h.job = some o → o ≤ 0x20 ∨ (area ∧ (o ≤ 0x28 ∨ table)) →
          exec (.tillGroupSet h v) s = q.answers b stInvalid [BitVec.ofNat 64 o])
        ∧ (soundTo 0x20 → ¬ area → exec (.tillGroupSet h v) s = q.answers b stInvalid [0x20])
        ∧ (soundTo 0x28 → area → ¬ table → exec (.tillGroupSet h v) s = q.answers b stInvalid [0x28])
        ∧ (groupBad bs h.job = none → area → table →
          let clash := (∃ x ∈ s.till.groups, x.gid = g.gid)
            ∨ ∃ x ∈ s.till.groups, x.job = g.job ∧ x.area < g.area + g.units * 65536 ∧ g.area < x.area + x.units * 65536
          (clash → exec (.tillGroupSet h v) s = q.answers b stConflict [])
          ∧ (∀ a p, ¬ clash → q.mapUnits g (registerUnit g) (List.range g.units) = .err a p →
            exec (.tillGroupSet h v) s = (q.accessFault 4 p a 0).answers b stAddress [])
          ∧ (∀ u1 ds, ¬ clash → q.mapUnits g (registerUnit g) (List.range g.units) = .ok u1 →
            let reg := (u1.setTill { u1.till with groups := u1.till.groups ++ [g] }).claim { kind := .tillArea, index := g.gid, job := g.job, opcode := 0x0630 }
            reg.unitDigests g = .ok ds →
            exec (.tillGroupSet h v) s = .next (reg.cmdWrite b g.job g.digest (digestTable 0xFFFFFFFF ds) [])))))
    ∧ (s.jobGroup h.job v = none →
      (s.serves 0x0631 1 true h c → exec (.tillGroupClear h v) s = r.answers b stInvalid [])
      ∧ (s.serves 0x0632 2 true h c → exec (.tillGroupStatus h v w) s = r.answers b stInvalid [])
      ∧ (s.serves 0x0633 3 true h c → exec (.tillGroupEpoch h v w le) s = r.answers b stInvalid [])
      ∧ (s.serves 0x0634 2 true h c → exec (.tillDigestVerify h v w) s = r.answers b stInvalid [])
      ∧ (s.serves 0x0642 2 true h c → exec (.gmaskBind h v w) s = r.answers b stInvalid []))
    ∧ (s.jobGroup h.job v = some g →
      (s.serves 0x0631 1 true h c →
        (s.groupBusy g.gid = true → exec (.tillGroupClear h v) s = r.answers b stBusy [])
        ∧ (s.groupBusy g.gid = false → ∃ u : State, exec (.tillGroupClear h v) s = u.answers b stOk []
          ∧ u.till.groups = s.till.groups.filter (fun x => x.gid ≠ g.gid) ∧ ∀ x ∈ u.host.claims, ¬ (x.kind = .tillArea ∧ x.index = g.gid)))
      ∧ (s.serves 0x0632 2 true h c →
        exec (.tillGroupStatus h v w) s = .next (r.cmdWrite b h.job w.toNat g.statusBytes []))
      ∧ (s.serves 0x0633 3 true h c → exec (.tillGroupEpoch h v w le) s = if 0xFFFF < w.toNat ∨ 0xFFFF < le.toNat then r.answers b stInvalid []
        else if s.groupBusy g.gid = true then r.answers b stBusy []
        else (r.modGroup g.gid fun g => { g with wepoch := bits w 0 16, lepoch := bits le 0 16 }).answers b stOk [])
      ∧ (s.serves 0x0634 2 true h c →
        (1 < w.toNat → exec (.tillDigestVerify h v w) s = r.answers b stInvalid [])
        ∧ (w.toNat ≤ 1 → s.groupBusy g.gid = true → exec (.tillDigestVerify h v w) s = r.answers b stBusy [])
        ∧ (∀ l, s.groupBusy g.gid = false → r.differing g = .ok l →
          let res := [BitVec.ofNat 64 l.length, BitVec.ofNat 64 (l.headD 0xFFFFFFFF)]
          exec (.tillDigestVerify h v 0) s = r.answers b stOk res
          ∧ (∀ u1 ds, r.mapUnits g (fun _ x => x.take 16 ++ unitDigest x ++ x.drop 64) (List.range g.units) = .ok u1 →
            u1.unitDigests g = .ok ds →
            exec (.tillDigestVerify h v 1) s = .next (u1.cmdWrite b g.job g.digest (digestTable g.tableStep ds) res)))
        ∧ (∀ a p, w.toNat ≤ 1 → s.groupBusy g.gid = false → r.differing g = .err a p →
          exec (.tillDigestVerify h v w) s = (r.accessFault 4 p a 0).answers b stAddress []))
      ∧ (s.serves 0x0642 2 true h c →
        let fits := w = 0xFF ∨ ∃ m, s.mask w.toNat = some m ∧ m.job = h.job ∧ g.base + g.nelem ≤ m.rows * m.cols
        let named := if w = 0xFF then (g.mask.map (r.maskNamed h.job)).getD (.ok false) else r.maskNamed h.job w.toNat
        (¬ fits → exec (.gmaskBind h v w) s = r.answers b stInvalid [])
        ∧ (fits → s.groupBusy g.gid = true → exec (.gmaskBind h v w) s = r.answers b stBusy [])
        ∧ (∀ k, fits → s.groupBusy g.gid = false → named ≠ .ok false → exec (.gmaskBind h v w) s = .next (r.unlessBusy b h.job named k))
        ∧ (fits → s.groupBusy g.gid = false → named = .ok false → exec (.gmaskBind h v w) s =
          ((r.dropHub h.job).modGroup g.gid fun x => { x with mask := if w = 0xFF then none else some w.toNat }).answers b stOk [])))
    ∧ (s.serves 0x0640 1 true h c → ∀ k, (∀ bs, r.hubRead h.job v.toNat 160 ≠ .ok bs) →
      exec (.gmaskSet h v) s = .next (r.cmdRead b h.job v.toNat 160 k))
    ∧ (s.serves 0x0640 1 true h c → ∀ bs, r.hubRead h.job v.toNat 160 = .ok bs →
      (∀ o, maskBad bs h.job = some o → exec (.gmaskSet h v) s = q.answers b stInvalid [BitVec.ofNat 64 o])
      ∧ (maskBad bs h.job = none → s.mask (leAt bs 0 1) ≠ none → exec (.gmaskSet h v) s = q.answers b stConflict [])
      ∧ (maskBad bs h.job = none → s.mask (leAt bs 0 1) = none →
        exec (.gmaskSet h v) s = State.answers { q with masks := s.masks ++ [Mask.parse bs] } b stOk []))
    ∧ (s.serves 0x0641 1 true h c →
      ((¬ ∃ m, s.mask v.toNat = some m ∧ m.job = h.job) → exec (.gmaskClear h v) s = r.answers b stInvalid [])
      ∧ (∀ m, s.mask v.toNat = some m → m.job = h.job →
        (s.maskBusy v.toNat = true → exec (.gmaskClear h v) s = r.answers b stBusy [])
        ∧ (∀ k, s.maskBusy v.toNat = false → r.maskNamed h.job v.toNat ≠ .ok false →
          exec (.gmaskClear h v) s = .next (r.unlessBusy b h.job (r.maskNamed h.job v.toNat) k))
        ∧ (s.maskBusy v.toNat = false → r.maskNamed h.job v.toNat = .ok false →
          ∃ u : State, exec (.gmaskClear h v) s = u.answers b stOk [] ∧ (∀ x ∈ u.masks, x.mid ≠ v.toNat)
            ∧ ∀ x ∈ u.till.groups, x.mask ≠ some v.toNat)))

/-- The Tills' events (R303 to R309, R316, R325): a 128-byte command write of a member is queued; the oldest starts once the
Tills are free, its group is not being copied and VBUS stands above 42 V, is refused when invalid, with a record, or stale,
counted too; a unit is computed and written whole by a Till in service, left unwritten at an error status, fetched for first
where bytes lie on another part, and a translation fault pauses the Till; with every unit done, lost or in error the command
ends, its table written, and signals DONE; a failed pipeline leaves service, and with the fourth its Till. A row that meets no
such command or unit changes nothing. A command is over (R309, Table 10.10): the Tills are free and the group records the
outcome, the command's step and its counts. A unit task probes and pins (R413); the Porter starts the first waiting transfer on
the lowest free channel and finishes one whose units are written and acknowledged (R54, R415, R416). A row that meets no such
task or transfer changes nothing. -/
def Obligations.TillEvents : Prop :=
  (∀ (s : State) (stack : Fin 12),
      let k := stack.val
      (∀ (src : Fin 8192) bytes, exec (.tillCommandWrite src stack bytes) s =
        .next (if bytes.length = 128 ∧ s.member src.val = true then s.tillPost { src := src.val, bytes := bytes } else s))
      ∧ (s.till.run ≠ none ∨ s.till.queue = [] → exec .tillCommandStart s = .next s)
      ∧ (∀ p q, s.till.run = none → s.till.queue = p :: q →
        let c := TillCmd.parse p.bytes
        let v := (s.setTill { s.till with queue := q }).admitPost.finishInvalidates
        let run : TillRun := { src := p.src, bytes := p.bytes, gid := (v.tillGroup c.gid).map (·.gid) }
        let waits := s.power.supply ≠ .on ∨ s.power.below42 = true ∨ c.gid ∈ s.till.copying
        (waits → exec .tillCommandStart s = .next s)
        ∧ (¬ waits → v.tillInvalid p.src c = true → exec .tillCommandStart s = .next
          ((v.setTill { v.till with run := some { run with refused := 3 } }).partFault .address 3 0 0 c.tags (BitVec.ofNat 64 c.gid)))
        ∧ (∀ g, ¬ waits → v.tillInvalid p.src c = false → v.tillGroup c.gid = some g → exec .tillCommandStart s = .next (if tillStale g c = true
          then (((v.setTill { v.till with run := some { run with refused := 2 } }).modGroup g.gid fun g => { g with stale := g.stale + 1 }).count
            .tillStale 0 1).partFault .staleTag 3 0 0 c.tags (BitVec.ofNat 64 c.gid)
          else v.setTill { v.till with run := some run })))
      ∧ (s.till.run = none → (∀ unit, exec (.tillUnitDone stack unit) s = .next s) ∧ exec .tillCommandDone s = .next s.pumpBoundaries)
      ∧ (∀ r g, s.till.run = some r → r.gid.bind s.tillGroup = some g →
        let c := TillCmd.parse r.bytes
        (∀ unit, let serves := r.refused = 0 ∧ unit < g.units ∧ ¬ unit ∈ r.done ∧ ¬ unit ∈ r.bad ∧ (s.unitStack g unit = none ∨ s.unitStack g unit = some k)
            ∧ (s.tillOf k).pipes ≠ 0 ∧ (∀ p ∈ r.paused, p.1 ≠ k) ∧ s.power.supply = .on ∧ s.power.below40 = false
          (¬ serves → exec (.tillUnitDone stack unit) s = .next s)
          ∧ (∀ b x t away, serves → s.unitResult g c unit = .ok (b, x) → s.vwrite g.job (g.unitVa unit) b = .ok (t, away) →
            exec (.tillUnitDone stack unit) s = .next
              ((((t.dropHub g.job).modRun fun r => { r with done := unit :: r.done, counts := r.counts.add x, perTill := r.perTill.set 0 k (r.perTill.get 0 k + 1) }).modTillOf
                k fun t => { t with elems := t.elems + BitVec.ofNat 64 x.updated }).tallyTill k x))
          ∧ (∀ b x, serves → s.unitResult g c unit = .ok (b, x) → (∀ t away, s.vwrite g.job (g.unitVa unit) b ≠ .ok (t, away)) →
            exec (.tillUnitDone stack unit) s = .next (s.unitBad k g unit (g.unitVa unit) false))
          ∧ (∀ a p, serves → s.unitResult g c unit = .err a p → exec (.tillUnitDone stack unit) s = .next (s.unitBad k g unit a p))
          ∧ (∀ va pa n, serves → s.unitResult g c unit = .remote va pa n → exec (.tillUnitDone stack unit) s = .next (s.hubFetch g.job va pa n))
          ∧ (∀ kind va lo n, serves → s.unitResult g c unit = .fault kind va lo n → let f := s.raise (k / 3) 6 g.job kind va lo n 0
            exec (.tillUnitDone stack unit) s = .next (f.2.modRun fun r => { r with paused := (k, f.1, unit) :: r.paused })))
        ∧ (let lost := s.lostUnits r g
          let u := if r.digested = true then s else (s.writeDigests g c.step).modRun fun r => { r with digested := true }
          let ended := s.finishRun r r.refused
          let closed := u.finishRun r (if lost ≠ [] then 5 else if r.bad = [] then 1 else 4)
          let signal := fun (v : State) => if c.donePart.getLsbD 15 then v.signalAt (c.donePart.toNat % 8192) c.doneIndex 1 else v
          (r.refused ≠ 0 → exec .tillCommandDone s = .next (signal ended).pumpBoundaries)
          ∧ (r.refused = 0 → r.done.length + r.bad.length + lost.length < g.units → exec .tillCommandDone s = .next s.pumpBoundaries)
          ∧ (r.refused = 0 → g.units ≤ r.done.length + r.bad.length + lost.length →
            exec .tillCommandDone s = .next (if u.outstanding (.till 12) = true then u else signal closed).pumpBoundaries)))
      ∧ ((s.tillOf k).pipes = 0 → exec (.tillPipeFail stack) s = .next s)
      ∧ (∀ n, (s.tillOf k).pipes = n + 1 →
        let v := (s.modTillOf k fun t => { t with pipes := n }).partFault .tillPipe 5 3 (BitVec.ofNat 16 k) 0 (BitVec.ofNat 64 (4 - (n + 1)))
        exec (.tillPipeFail stack) s = .next (if n = 0 then (v.partFault .tillFailed 5 3 (BitVec.ofNat 16 k) 0 0).raiseAlert 7 else v)))
  ∧ (∀ (s : State) (r : TillRun) (g : TillGroup) (n : Nat), r.gid = some g.gid → s.tillGroup g.gid = some g →
      (s.finishRun r n).till.run = none ∧ (s.finishRun r n).mem = s.mem ∧
      ((s.finishRun r n).tillGroup g.gid).map (fun x => (x.outcome, x.step, x.unitsDone, x.counts)) =
        some (n, (TillCmd.parse r.bytes).step, r.done.length, r.counts))
  ∧ (∀ (s : State) (g : Fin 8) (t : Nat),
      (s.rec_ g.val t = none → exec (.pinProbe g t) s = .next s)
      ∧ (∀ r, s.rec_ g.val t = some r → exec (.pinProbe g t) s = .next (
        if r.kind = 3 then (s.collTake g.val t).collProbe g.val t else if r.kind = 4 then s.rootProbe r.placeHall g.val t
        else if r.kind = 5 then s.solveProbe r.placeHall g.val t else s))
      ∧ (s.transfer g.val t = none → exec (.moveTransferStart g t) s = .next s ∧ exec (.moveTransferDone g t) s = .next s)
      ∧ (∀ x, s.transfer g.val t = some x →
        let first := x.channel = none ∧ x.mv.fault = none ∧ (∀ y ∈ s.waitingTransfers, y.before x = false)
        let serves := s.power.supply = .on ∧ s.power.below40 = false
        (∀ c, s.freeChannel = some c → first → serves → exec (.moveTransferStart g t) s = .next (s.pumpTransfer { x with channel := some c, started := true }))
        ∧ (s.freeChannel = none ∨ ¬ first ∨ ¬ serves → exec (.moveTransferStart g t) s = .next s)
        ∧ (exec (.moveTransferDone g t) s = .next (if x.channel ≠ none ∧ x.mv.finished = true ∧ s.outstanding (.portWrite g.val t) = false
            then ((s.dropTransfer g.val t).modTask g.val t fun ts => { ts with unitDone := true }).finishAllocFrees else s)))
      ∧ (∀ x unit tags w ps, s.probeAll x g.val t (tagJob tags) [w] [] = .ok ps → s.pinsIn x + ps.length ≤ pinRoom →
        s.pinTask x unit g.val t tags [w] = (s.setXlt { s.xlt with pins := s.xlt.pins ++ ps }).modTask g.val t fun ts => { ts with probed := true }))

/-! ### The fabric -/

/-- What a packet meets when it lands (R399, R440, R444, R449, R455), and what a request or response of this part then does. A
READ of mapped, unpoisoned bytes inside one 2 KiB block returns them; another answers ADDRESS or POISON with a fault record
(R452); a WRITE applies its bytes, signals a counter or queues a Till command, and is acknowledged, or answers ADDRESS (R304,
R351, R452); an ATOMIC replaces one aligned word and returns the old value, or answers ADDRESS or POISON (R454); a response
completes its request and EPOCH_AHEAD has it sent again (R449, R456); 5,000 lc without one complete it with an address error
(R408). The values of the four atomics (Table 15.8): ADD, SWAP, compare-and-swap, unsigned MAX; no other operation has one. -/
def Obligations.FabricPackets : Prop :=
  (∀ (s u : State) (p : Pkt),
      let off := p.addr.toNat % 2 ^ 44
      let src := p.src.toNat % 8192
      let n := 32 * (p.plen.toNat % 128)
      let len := p.payload.length
      let bad := (u.accessFault 4 false (s.partNo * 2 ^ 44 + off) p.tags).respond src p.rid rsAddress p.tags []
      let l := s.landed p
      (∀ i t, (i, t) ∈ [(Instr.read p, (0x01 : Byte)), (.write p, 0x02), (.atomic p, 0x03), (.resp p, 0x10)] →
        ((p.type ≠ t ∨ s.power.supply = .off) → exec i s = .next s)
        ∧ (p.type = t → s.power.supply ≠ .off →
          (s.hbmHeld = true → exec i s = .next (s.setFab { s.fab with heldPkts := s.fab.heldPkts ++ [.packet p] }))
          ∧ (s.hbmHeld = false → pktHeaderOk p = false → exec i s = .next ((l.portDrop p).dropPacket p))
          ∧ (s.hbmHeld = false → pktHeaderOk p = true → p.dst.toNat % 8192 ≠ s.partNo → exec i s = .next (l.transmit (l.inputOf p) p))
          ∧ (s.hbmHeld = false → pktHeaderOk p = true → p.dst.toNat % 8192 = s.partNo → (pktReplay p && l.alreadySeen src p.seq) = true →
            exec i s = .next (l.portDrop p).countDrop)))
      ∧ (∀ i t st, (i, t) ∈ [(Instr.read p, (0x01 : Byte)), (.write p, 0x02), (.atomic p, 0x03)] → s.lands p t → l.tagCheck p = some st →
        exec i s = .next ((if st = rsStale then ((l.portDrop p).countDrop).count .staleTag 0 1 else l).respond src p.rid st p.tags []))
      ∧ (s.takes p 0x01 u →
        (¬ (0 < n ∧ n ≤ 2048 ∧ off % 2048 + n ≤ 2048) → exec (.read p) s = .next bad)
        ∧ (0 < n → n ≤ 2048 → off % 2048 + n ≤ 2048 →
          (off < 0x18000000000 → u.readStat off n = .ok → exec (.read p) s = .next (u.respond src p.rid rsOk p.tags (u.mem.read off n)))
          ∧ (off < 0x18000000000 → u.readStat off n = .address → exec (.read p) s = .next bad)
          ∧ (off < 0x18000000000 → u.readStat off n = .poison → exec (.read p) s = .next
            ((u.accessFault 4 true (s.partNo * 2 ^ 44 + u.poisonAt off n) p.tags).respond src p.rid rsPoison p.tags []))
          ∧ ((∃ i, region off = .bell i) →
            (∀ b, n = 32 → u.windowRead off = some b → exec (.read p) s = .next (u.respond src p.rid rsOk p.tags b))
            ∧ ((n ≠ 32 ∨ u.windowRead off = none) → exec (.read p) s = .next bad))))
      ∧ (s.takes p 0x02 u →
        (¬ (0 < len ∧ len ≤ n ∧ len ≤ 2048 ∧ off % 2048 + len ≤ 2048) → exec (.write p) s = .next bad)
        ∧ (0 < len → len ≤ n → len ≤ 2048 → off % 2048 + len ≤ 2048 →
          (off < 0x18000000000 → exec (.write p) s = .next (if u.writable off len = true
            then (u.poke off p.payload).respond src p.rid rsOk p.tags [] else bad))
          ∧ (∀ i, region off = .bell i →
            ((off % 8 ≠ 0 ∨ len ≠ 8) → exec (.write p) s = .next bad)
            ∧ (off % 8 = 0 → len = 8 →
              (u.signal (BitVec.ofNat 16 i) (BitVec.ofNat 64 (ofLe p.payload)) = none → exec (.write p) s = .next bad)
              ∧ ∀ x, u.signal (BitVec.ofNat 16 i) (BitVec.ofNat 64 (ofLe p.payload)) = some x →
                exec (.write p) s = .next (x.respond src p.rid rsOk p.tags [])))
          ∧ (∀ k, region off = .till k → exec (.write p) s = .next (if tillPostAt off len = false then bad
              else if u.till.queue.length < 64 then (u.tillPost { src := src, bytes := p.payload }).respond src p.rid rsOk p.tags []
              else u.tillPost { src := src, bytes := p.payload, who := .packet src p.rid p.tags }))))
      ∧ (s.takes p 0x03 u →
        let old : W64 := BitVec.ofNat 64 (ofLe (u.mem.read off 8))
        let new := atomicOp p.opx.toNat old (BitVec.ofNat 64 (leAt p.payload 0 8)) (BitVec.ofNat 64 (leAt p.payload 8 8))
        ((new = none ∨ off % 8 ≠ 0 ∨ u.mapped off = false) → exec (.atomic p) s = .next bad)
        ∧ (∀ v, new = some v → off % 8 = 0 → u.mapped off = true → exec (.atomic p) s = .next (if u.poisoned off 8 = true
            then (u.accessFault 4 true (s.partNo * 2 ^ 44 + off) p.tags).respond src p.rid rsPoison p.tags []
            else (u.poke off (leBytes 8 v.toNat)).respond src p.rid rsOk p.tags (leBytes 8 old.toNat))))
      ∧ (s.lands p 0x10 →
        (l.req p.rid.toNat = none → exec (.resp p) s = .next (l.portDrop p).countDrop)
        ∧ (∀ r, l.req p.rid.toNat = some r →
          let st := r.answer.getD p.opx
          let q := l.noteSeq src p.seq
          (r.answer = none → p.src ≠ r.pkt.dst → exec (.resp p) s = .next (l.portDrop p).countDrop)
          ∧ ((r.answer ≠ none ∨ p.src = r.pkt.dst) → st ≠ rsEpochAhead → exec (.resp p) s = .next (q.completeReq r st p.payload))
          ∧ ((r.answer ≠ none ∨ p.src = r.pkt.dst) → st = rsEpochAhead → exec (.resp p) s = .next
            (q.setFab { q.fab with reqs := q.fab.reqs.map fun x => if x.rid = r.rid then { x with retry := true } else x }))))
      ∧ (∀ (rid : W16),
        (∀ r, s.req rid.toNat = some r → exec (.remoteTimeout rid) s = .next (s.completeReq r (r.answer.getD rsAddress) []))
        ∧ (s.req rid.toNat = none → exec (.remoteTimeout rid) s = .next s ∧ exec (.epochAheadRetry rid) s = .next s)
        ∧ (∀ r, s.req rid.toNat = some r → r.retry = false → exec (.epochAheadRetry rid) s = .next s)
        ∧ (∀ r, s.req rid.toNat = some r → r.retry = true →
          ∃ q, exec (.epochAheadRetry rid) s = .next (((s.nextSeq (r.pkt.dst.toNat % 8192)).2.setFab
            { (s.nextSeq (r.pkt.dst.toNat % 8192)).2.fab with reqs := s.fab.reqs.map fun x => if x.rid = r.rid then { x with retry := false, pkt := q } else x }).transmit 8 q)
            ∧ q = { r.pkt with seq := (s.nextSeq (r.pkt.dst.toNat % 8192)).1 })))
  ∧ (∀ old a b : W64, atomicOp 0 old a b = some (BitVec.ofNat 64 (old.toNat + a.toNat)) ∧ atomicOp 1 old a b = some a
      ∧ atomicOp 2 old a b = some (if old = a then b else old) ∧ atomicOp 3 old a b = some (if old.toNat < a.toNat then a else old)
      ∧ ∀ n, 4 ≤ n → atomicOp n old a b = none)

/-- Each target keeps the SEQ of every packet it has applied; a replayed packet whose SEQ was applied is dropped (R449): memory
stays as it was. -/
def Obligations.ReplaysApplyOnce : Prop :=
  ∀ (s u : State) (p : Pkt), pktReplay p = true → (s.landed p).alreadySeen (p.src.toNat % 8192) p.seq = true →
    p.dst.toNat % 8192 = s.partNo → pktHeaderOk p = true →
    (p.type = 0x02 → exec (.write p) s = .next u → u.mem = s.mem ∧ u.till = s.till ∧ u.bell = s.bell)
    ∧ (p.type = 0x03 → exec (.atomic p) s = .next u → u.mem = s.mem)

/-- Each link delivers frames in order and once (R436): the next frame in order is acknowledged, one taken already is
acknowledged again, a bad or missing one asks for a replay; a NAK and an acknowledgement timeout replay what is unacknowledged;
credits return to their reserve and then the pool (R442); a packet that has waited 10 lc is served next (R443); a port out of
service does nothing. A lost lane group leaves service and its direction changes width; below two groups the port fails (R437,
R447); a silent port is declared failed and its packets turn back (R448); DEPART fails the port and probes the partner, whose
silence loses it for every part (R457 to R459); ring-state packets record failed and restored links, and what waits for a
failed link turns back (R448, R451). -/
def Obligations.LinkEvents : Prop :=
  (∀ (s : State) (port : Fin 8) (seq : W32) (flits : Fin 17),
      let n := port.val
      let x := s.port n
      (s.portUp n = false → (∀ ok, exec (.linkFrame port seq flits ok) s = .next s) ∧ exec (.linkNak port seq) s = .next s
        ∧ exec (.linkAckTimeout port) s = .next s ∧ (∀ pool vc cls k, exec (.creditUpdate port pool vc cls k) s = .next s)
        ∧ exec (.creditUpdateTimer port) s = .next s ∧ ∀ vc input, exec (.headAgeTimeout port vc input) s = .next s)
      ∧ (s.portUp n = true →
        (x.rxChanging = true → ∀ ok, exec (.linkFrame port seq flits ok) s = .next s)
        ∧ (x.rxChanging = false →
          (exec (.linkFrame port seq flits false) s = .next (s.send (.linkNak n x.rxSeq)))
          ∧ (seq = x.rxSeq → exec (.linkFrame port seq flits true) s = .next
            ((s.modPort n fun x => { x with rxSeq := x.rxSeq + 1, flitsRx := x.flitsRx + BitVec.ofNat 64 flits.val }).send (.linkAck n seq)))
          ∧ (seq ≠ x.rxSeq → (x.rxSeq - seq).toNat < 2 ^ 31 → exec (.linkFrame port seq flits true) s = .next (s.send (.linkAck n seq)))
          ∧ (seq ≠ x.rxSeq → 2 ^ 31 ≤ (x.rxSeq - seq).toNat → exec (.linkFrame port seq flits true) s = .next (s.send (.linkNak n x.rxSeq))))
        ∧ (let arrived := fun (q : W32) => q ≠ seq && (seq - q).toNat < 2 ^ 31
          exec (.linkNak port seq) s = .next ((s.modPort n fun x =>
            { x with replay := x.replay.filter (fun e => !(arrived e.1)), replayPkts := x.replayPkts.filter (fun e => !(arrived e.1)) }).replayLink n))
        ∧ (exec (.linkAckTimeout port) s = .next (s.replayLink n))
        ∧ (∀ pool (vc : Fin 6) (cls : Fin 3) count, let k := vc.val * 3 + cls.val
            exec (.creditUpdate port pool vc cls count) s = .next (pumpPort n x.outq.length (s.modPort n fun y =>
              let own := if pool = true then 0 else min count (reservedFlits - y.credits.get reservedFlits k)
              { y with credits := y.credits.set reservedFlits k (y.credits.get reservedFlits k + own), pool := min (poolFlits n) (y.pool + (count - own)) })))
        ∧ (exec (.creditUpdateTimer port) s = .next (s.returnCredits n))
        ∧ (∀ (vc : Fin 6) input,
          let old := (∃ e ∈ x.outq, vcOf e.2 = vc.val ∧ e.1 = input) ∧ (vc.val, input) ∉ x.urgent
          (old → exec (.headAgeTimeout port vc input) s = .next
            (pumpPort n x.outq.length (s.modPort n fun x => { x with urgent := x.urgent ++ [(vc.val, input)] })))
          ∧ (¬ old → exec (.headAgeTimeout port vc input) s = .next s))))
  ∧ (∀ (s : State) (port : Fin 8),
      let n := port.val
      let x := s.port n
      (s.portUp n = false → (∀ rx g, exec (.laneGroupLoss port rx g) s = .next s) ∧ (∀ rx, exec (.widthChangeDone port rx) s = .next s)
        ∧ exec (.portSilenceTimeout port) s = .next s ∧ exec (.depart port) s = .next s
        ∧ exec (.portFail port) s = .next (if x.st = .failed then s.turnBack n else s))
      ∧ (s.portUp n = true →
        (∀ rx (g : Fin 12),
          let old := if rx = true then x.rx else x.tx
          let m := old &&& ~~~((1 : BitVec 12) <<< g.val)
          let t := (s.modPort n fun x => if rx = true then { x with rx := m, rxChanging := true } else { x with tx := m, txChanging := true }).partFault
            .laneGroup 6 6 (BitVec.ofNat 16 n) 0 (BitVec.ofNat 64 g.val)
          exec (.laneGroupLoss port rx g) s = .next (if old.getLsbD g.val = false then s else if groupCount m < 2 then t.declareFailed n else t))
        ∧ (exec (.widthChangeDone port true) s = .next (if x.rxChanging = true then s.modPort n fun x => { x with rxChanging := false } else s))
        ∧ (let t := (s.modPort n fun x => { x with txChanging := false }).replayLink n
          exec (.widthChangeDone port false) s = .next (if x.txChanging = true then pumpPort n (t.port n).outq.length t else s))
        ∧ (exec (.portSilenceTimeout port) s = .next (s.declareFailed n))
        ∧ (exec (.portFail port) s = .next ((s.declareFailed n).turnBack n))
        ∧ (exec (.depart port) s = .next ((s.portState n .failed).probePartner n)))
      ∧ (exec (.partnerProbeTimeout port) s = .next (if x.probing = true
          then (((s.modPort n fun x => { x with probing := false }).portState n .partnerLost).send (.mgmt none (.lostPart (s.partnerOf n)))).losePart (s.partnerOf n)
          else s))
      ∧ (∀ src, exec (.partnerProbe port false src) s = .next (if s.power.supply ≠ .off ∧ s.pstate = 1 then s.send (.mgmt (some src.val) (.probeAnswer n)) else s))
      ∧ (∀ src, exec (.partnerProbe port true src) s = .next (if x.probing = true
          then ((s.modPort n fun x => { x with probing := false }).recordPort n).turnBack n else s))
      ∧ (∀ part : Fin 8192, exec (.lostPart part) s = .next (if s.power.supply ≠ .off ∧ s.pstate = 1 then s.losePart part.val else s))
      ∧ (∀ (axis : Fin 4) (a : Fin 8192),
          (s.power.supply = .off → ∀ restored, exec (.ringState axis a restored) s = .next s)
          ∧ (s.power.supply ≠ .off →
            (exec (.ringState axis a true) s = .next (s.setFab { s.fab with failedLinks := s.fab.failedLinks.filter fun l => l ≠ (axis.val, a.val) }))
            ∧ ((axis.val, a.val) ∈ s.fab.failedLinks → exec (.ringState axis a false) s = .next s)
            ∧ ((axis.val, a.val) ∉ s.fab.failedLinks →
              let crosses := fun (e : Nat × Pkt) => axis.val = ([0, 1, 2, 3].find? fun ax => coordAt (e.2.dst.toNat % 8192) ax ≠ coordAt s.partNo ax).getD 4
              let moved := (s.fab.ports.flatMap (·.outq)).filter crosses
              exec (.ringState axis a false) s = .next (moved.foldl (fun u e => u.transmit e.1 e.2) (s.setFab { s.fab with
                failedLinks := s.fab.failedLinks ++ [(axis.val, a.val)],
                ports := s.fab.ports.map fun x => { x with outq := x.outq.filter fun e => !(moved.contains e) } }))))))

/-- When a port fails, the part records it, and each unacknowledged or waiting packet leaves by another way or waits; the ring
hears of the link (R448): the failed port holds no packet afterwards, its state is failed and its link is among the failed
ones. -/
def Obligations.FailedPortIsEmpty : Prop :=
  ∀ (s : State) (port : Fin 8), s.portUp port.val = true → s.fab.ports.length = 8 → s.axisSize (portAxis port.val) ≠ 1 →
    (s.port port.val).outq = [] → (s.port port.val).replayPkts = [] →
    ∃ u : State, exec (.portFail port) s = .next u ∧ (u.port port.val).st = .failed ∧ (u.port port.val).outq = [] ∧ (u.port port.val).replay = []
      ∧ s.linkOf port.val ∈ u.fab.failedLinks ∧ (s.trace.cfg = none → u.mem = s.mem)

/-- FAB_PORT_STATUS writes a port's record; FAB_PORT_RETRAIN trains a port again on the groups it is given, in service or not,
and the ring hears of its restored link; FAB_ATOMIC acts on a word of this part or asks the part that holds it (Table 15.11,
R437, R451, R454); what is out of range answers INVALID, ADDRESS, BUSY or FAILED. The ingest commands (Table 15.11, R462,
R463): a region takes the next id (INVALID outside mapped HBM, BUSY beyond 4,096, CONFLICT on overlap) and is cleared unless a
queue pair or an exchange uses it; a queue pair takes the lowest free id and starts in reset; it moves only by the transitions
of RoCE v2; a clear forgets it; an id that names none answers NOT_FOUND. -/
def Obligations.FabricCommands : Prop :=
  (∀ (h : CmdHdr) (c : Cmd) (s : State) (v w : W64),
      let r := s.begin_ c
      let b := s.begun c
      let n := v.toNat
      (s.serves 0x0701 2 true h c →
        (7 < n → exec (.fabPortStatus h v w) s = r.answers b stInvalid [])
        ∧ (n ≤ 7 → (goesOn (exec (.fabPortStatus h v w) s))
          ∧ (∀ u, r.vwrite h.job w.toNat (r.portBytes n) = .ok (u, []) → exec (.fabPortStatus h v w) s = u.answers b stOk [])
          ∧ (∀ u x xs, r.vwrite h.job w.toNat (r.portBytes n) = .ok (u, x :: xs) → exec (.fabPortStatus h v w) s =
            .next ((u.remoteWrites (.cmd h.seq) 0 false (x :: xs)).waitCmd b (.acks [])))
          ∧ (∀ a f, r.vwrite h.job w.toNat (r.portBytes n) = .err a f → exec (.fabPortStatus h v w) s = (r.accessFault 4 f a 0).answers b stAddress [])))
      ∧ (∀ groups : BitVec 16, s.serves 0x0702 1 false h c →
        let m : BitVec 12 := groups.setWidth 12 &&& portGroups n
        let res := [BitVec.ofNat 64 (groupCount m)]
        let changing := (s.port n).txChanging = true ∨ (s.port n).rxChanging = true
        let few := groupCount m < 2 ∨ s.axisSize (portAxis n) = 1
        (7 < n → exec (.fabPortRetrain h v groups) s = r.answers b stInvalid [])
        ∧ (n ≤ 7 → changing → exec (.fabPortRetrain h v groups) s = r.answers b stBusy [])
        ∧ (n ≤ 7 → ¬ changing → few → exec (.fabPortRetrain h v groups) s = r.answers b 0x0F [])
        ∧ (n ≤ 7 → ¬ changing → ¬ few → (s.port n).st = .inService →
          exec (.fabPortRetrain h v groups) s = ((r.modPort n fun x => { x with tx := m, rx := m }).replayLink n).answers b stOk res)
        ∧ (n ≤ 7 → ¬ changing → ¬ few → (s.port n).st ≠ .inService →
          let t := (r.openPort n m).setFab { (r.openPort n m).fab with failedLinks := s.fab.failedLinks.filter fun l => l ≠ s.linkOf n }
          let t := if s.linkOf n ∈ s.fab.failedLinks
            then (t.ringOf (s.linkOf n).1).foldl (fun u p => u.send (.mgmt (some p) (.ringState (Fin.ofNat 4 (s.linkOf n).1) (s.linkOf n).2 true))) t else t
          exec (.fabPortRetrain h v groups) s = (pumpPort n (t.port n).outq.length t).answers b stOk res))
      ∧ (∀ opx a, s.serves 0x0710 4 false h c →
        let part := v.toNat / 2 ^ 44
        let off := v.toNat % 2 ^ 44
        let old : W64 := BitVec.ofNat 64 (ofLe (s.mem.read off 8))
        let bad := (r.accessFault 4 false v.toNat 0).answers b stAddress []
        (255 < opx.toNat → exec (.fabAtomic h v opx a w) s = r.answers b stInvalid [])
        ∧ (opx.toNat ≤ 255 → s.member part = false → exec (.fabAtomic h v opx a w) s = bad)
        ∧ (opx.toNat ≤ 255 → s.member part = true → part ≠ s.partNo →
          ∃ p : Pkt, exec (.fabAtomic h v opx a w) s = .next ((r.waitCmd b .atomic).request p (.cmd h.seq)) ∧ p.type = 0x03 ∧ p.dst.toNat = part
            ∧ p.addr.toNat = off ∧ p.opx = opx.setWidth 8 ∧ leAt p.payload 0 8 = a.toNat ∧ leAt p.payload 8 8 = w.toNat)
        ∧ (opx.toNat ≤ 255 → s.member part = true → part = s.partNo →
          ((3 < opx.toNat ∨ off % 8 ≠ 0 ∨ s.mapped off = false) → exec (.fabAtomic h v opx a w) s = bad)
          ∧ (opx.toNat ≤ 3 → off % 8 = 0 → s.mapped off = true → s.poisoned off 8 = true →
            exec (.fabAtomic h v opx a w) s = (r.accessFault 4 true v.toNat 0).answers b stAddress [])
          ∧ (opx.toNat ≤ 3 → off % 8 = 0 → s.mapped off = true → s.poisoned off 8 = false →
            ∃ x, atomicOp opx.toNat old a w = some x ∧
              exec (.fabAtomic h v opx a w) s = (r.poke off (leBytes 8 x.toNat)).answers b stOk [old]))))
  ∧ (∀ (h : CmdHdr) (c : Cmd) (s : State) (v w x y : W64),
      let r := s.begin_ c
      let b := s.begun c
      (s.serves 0x0740 3 true h c →
        let ok := 0 < w.toNat ∧ w.toNat % 65536 = 0 ∧ s.hbmRange v.toNat w.toNat = true ∧ x.toNat ≤ 0xFFFFFFFF
        let meets := ∃ m ∈ s.fab.mrs, m.off < v.toNat + w.toNat ∧ v.toNat < m.off + m.len
        (¬ ok → exec (.ingestMrReg h v w x) s = r.answers b stInvalid [])
        ∧ (ok → 4096 ≤ s.fab.mrs.length → exec (.ingestMrReg h v w x) s = r.answers b stBusy [])
        ∧ (ok → s.fab.mrs.length < 4096 → meets → exec (.ingestMrReg h v w x) s = r.answers b stConflict [])
        ∧ (ok → s.fab.mrs.length < 4096 → ¬ meets →
          ∃ u : State, exec (.ingestMrReg h v w x) s = u.answers b stOk [BitVec.ofNat 64 s.fab.nextMr] ∧ u.fab.nextMr = s.fab.nextMr + 1
            ∧ u.fab.mrs = s.fab.mrs ++ [{ id := s.fab.nextMr, job := h.job, off := v.toNat, len := w.toNat, key := bits x 0 32 }]))
      ∧ (s.serves 0x0741 1 false h c →
        (s.fab.mrs.find? (fun m => m.id = v.toNat) = none → exec (.ingestMrClear h v) s = r.answers b stNotFound [])
        ∧ (∀ m, s.fab.mrs.find? (fun m => m.id = v.toNat) = some m →
          (s.mrUsed m = true → exec (.ingestMrClear h v) s = r.answers b stBusy [])
          ∧ (s.mrUsed m = false → ∃ u : State, exec (.ingestMrClear h v) s = u.answers b stOk [] ∧ u.fab.mrs = s.fab.mrs.filter fun z => z.id ≠ m.id)))
      ∧ (s.serves 0x0742 4 true h c →
        let ok := v.toNat ≤ 1 ∧ region w.toNat = .hbm ∧ s.mapped w.toNat = true ∧ 16 ≤ x.toNat ∧ x.toNat ≤ 65536 ∧ y.toNat ≤ 65535
        (¬ ok → exec (.ingestQpCreate h v w x y) s = r.answers b stInvalid [])
        ∧ (ok → (List.range 1024).find? (fun i => (s.qp i).isNone) = none → exec (.ingestQpCreate h v w x y) s = r.answers b stBusy [])
        ∧ (∀ id, ok → (List.range 1024).find? (fun i => (s.qp i).isNone) = some id →
          exec (.ingestQpCreate h v w x y) s = (r.setFab { r.fab with qps := r.fab.qps ++
            [{ id := id, job := h.job, port := v.toNat, ring := w, depth := x.toNat, counter := bits y 0 16 }] }).answers b stOk [BitVec.ofNat 64 id]))
      ∧ (∀ (state mtu cut : W64), s.serves 0x0743 6 false h c →
        (s.qp v.toNat = none → exec (.ingestQpModify h v state w x mtu cut) s = r.answers b stNotFound [])
        ∧ (∀ q, s.qp v.toNat = some q →
          let fits := x.toNat ≤ 0xFFFFFF ∧ (mtu = 1024 ∨ mtu = 2048 ∨ mtu = 4096) ∧ 1 ≤ cut.toNat ∧ cut.toNat ≤ 128
          (qpStateOf state = none → exec (.ingestQpModify h v state w x mtu cut) s = r.answers b stInvalid [])
          ∧ (∀ st, qpStateOf state = some st →
            (¬ (qpMayMove q.st st = true ∧ fits) → exec (.ingestQpModify h v state w x mtu cut) s = r.answers b stInvalid [])
            ∧ (qpMayMove q.st st = true → fits →
              ∃ u : State, exec (.ingestQpModify h v state w x mtu cut) s = u.answers b stOk [] ∧
                (u.qp v.toNat).map (fun z => (z.st, z.raddr, z.rqp, z.mtu, z.cut)) = some (st, w, x, mtu.toNat, cut.toNat)))))
      ∧ (s.serves 0x0744 1 false h c →
        (s.qp v.toNat = none → exec (.ingestQpClear h v) s = r.answers b stNotFound [])
        ∧ (∀ q, s.qp v.toNat = some q →
          ∃ u : State, exec (.ingestQpClear h v) s = u.answers b stOk [] ∧ u.qp v.toNat = none)))

/-- The RDMA write and read a queue pair receives (R399, R461, R462): inside a region of its job and with its key the bytes are
applied or returned, once HBM serves; a poisoned read and any other access answer an error and the queue pair enters the error
state. Work requests complete in order and signal, or fail (R463); a congestion packet cuts the rate, and it recovers (Table
15.10). An event of no queue pair, or of one in a state that does not receive or send, changes nothing. -/
def Obligations.IngestEvents : Prop :=
  ∀ (s : State) (qp : Nat) (key : W32) (off : W64) (data : List Byte) (len : Nat),
    (s.qp qp = none → (∀ op, exec (.ingestRdmaAccess qp op key off data len) s = .next s) ∧ (∀ ok, exec (.workRequestDone qp ok) s = .next s)
      ∧ exec (.cnp qp) s = .next s)
    ∧ (∀ q, s.qp qp = some q →
      let inside := fun (n : Nat) => ∃ m ∈ s.fab.mrs, m.job = q.job ∧ m.key = key ∧ m.off ≤ off.toNat ∧ off.toNat + n ≤ m.off + m.len
      let all := fun (n : Nat) => ∀ p ∈ pieces (n / 65536 + 2) off.toNat n, s.mapped p.1 = true
      let receives := (q.st = .rtr ∨ q.st = .rts ∨ q.st = .sqd) ∧ s.power.supply ≠ .off
      (¬ receives → ∀ op, exec (.ingestRdmaAccess qp op key off data len) s = .next s)
      ∧ (receives →
        (¬ inside data.length → exec (.ingestRdmaAccess qp .write key off data len) s = .next ((s.send (.rdmaError qp)).qpError q))
        ∧ (¬ inside len → exec (.ingestRdmaAccess qp .read key off data len) s = .next ((s.send (.rdmaError qp)).qpError q))
        ∧ (inside data.length → s.hbmHeld = true → exec (.ingestRdmaAccess qp .write key off data len) s =
          .next (s.setFab { s.fab with heldPkts := s.fab.heldPkts ++ [.rdma qp true off.toNat data data.length] }))
        ∧ (inside len → s.hbmHeld = true → exec (.ingestRdmaAccess qp .read key off data len) s =
          .next (s.setFab { s.fab with heldPkts := s.fab.heldPkts ++ [.rdma qp false off.toNat data len] }))
        ∧ (inside data.length → s.hbmHeld = false → all data.length →
          exec (.ingestRdmaAccess qp .write key off data len) s = .next ((s.poke off.toNat data).send (.rdmaAnswer qp none)))
        ∧ (inside len → s.hbmHeld = false → all len → s.poisoned off.toNat len = false →
          exec (.ingestRdmaAccess qp .read key off data len) s = .next (s.send (.rdmaAnswer qp (some (s.mem.read off.toNat len)))))
        ∧ (inside len → s.hbmHeld = false → all len → s.poisoned off.toNat len = true →
          exec (.ingestRdmaAccess qp .read key off data len) s = .next (((s.send (.rdmaError qp)).accessFault 4 true
            (s.partNo * 2 ^ 44 + s.poisonAt off.toNat len) 0).qpError q)))
      ∧ ((q.st = .rts ∨ q.st = .sqd) →
          exec (.workRequestDone qp true) s = .next ((s.modQp qp fun x => { x with completed := x.completed + 1 }).signalAt s.partNo q.counter 1)
          ∧ exec (.workRequestDone qp false) s = .next (s.qpError q))
      ∧ (¬ (q.st = .rts ∨ q.st = .sqd) → ∀ ok, exec (.workRequestDone qp ok) s = .next s)
      ∧ (∃ u : State, exec (.cnp qp) s = .next u ∧ (u.qp qp).map (·.rate) = some (q.rate - q.rate * q.cut / 256) ∧ u.fab.mrs = s.fab.mrs)
      ∧ (∃ u : State, exec (.rateRecoveryTick qp) s = .next u ∧ (u.qp qp).map (·.rate) = some (min 65536 (q.rate + 4096)) ∧ u.mem = s.mem))

/-- The layout commands and messages (R481 to R486, Table 16.5): the coordinator prepares every part, unless the epoch is not
newer or a timeout is out of range (INVALID), a replay runs (BUSY), the part takes part in a switch (CONFLICT) or a part is
lost (PART_LOST); a part that takes part in a switch refuses another; READY is counted, and with the last one COMMIT goes out;
COMMIT makes the epoch current; ABORT, a refusal and the timeout end the switch with the epoch unchanged; a message of no
switch here changes nothing. -/
def Obligations.LayoutSwitching : Prop :=
  ∀ (h : CmdHdr) (c : Cmd) (s : State) (e : W16) (job : Byte) (p : Fin 8192),
    let r := s.begin_ c
    let b := s.begun c
    (∀ epoch timeout : W64, s.serves 0x0720 2 true h c →
      let ok := epoch.toNat < 65536 ∧ 1000 ≤ timeout.toNat ∧ timeout.toNat ≤ 10000000
        ∧ epochNewer (epoch.setWidth 16) (s.layoutEpoch.get 0 h.job.toNat) = true
      let runs := ∃ r ∈ s.replay.runs, r.job = h.job
      (¬ ok → exec (.layoutSwitch h epoch timeout) s = r.answers b stInvalid [])
      ∧ (ok → runs → exec (.layoutSwitch h epoch timeout) s = r.answers b stBusy [])
      ∧ (ok → ¬ runs → s.lpart h.job ≠ none → exec (.layoutSwitch h epoch timeout) s = r.answers b stConflict [])
      ∧ (∀ n l, ok → ¬ runs → s.lpart h.job = none → s.fab.lost = n :: l →
        exec (.layoutSwitch h epoch timeout) s = r.answers b stPartLost [BitVec.ofNat 64 n])
      ∧ (ok → ¬ runs → s.lpart h.job = none → s.fab.lost = [] →
        ∃ u : State, exec (.layoutSwitch h epoch timeout) s = .next (u.prepareLayout s.partNo h.job (epoch.setWidth 16))
          ∧ u.sent = .mgmt none (.layoutPrepare h.job (epoch.setWidth 16)) :: s.sent ∧ u.layoutEpoch = s.layoutEpoch
          ∧ u.layouts.coords = s.layouts.coords ++ [{ job := h.job, epoch := epoch.setWidth 16, since := s.hubLc, timeout := timeout }]))
    ∧ (s.serves 0x0721 0 true h c → exec (.layoutStatus h) s = r.answers b stOk
        [(s.layoutEpoch.get 0 h.job.toNat).setWidth 64,
         match s.lpart h.job with | none => 0 | some x => if x.ready = true then 2 else 1,
         BitVec.ofNat 64 (s.layouts.drops.get 0 h.job.toNat)])
    ∧ ((p.val = s.partNo ∨ s.member p.val = false) → exec (.layoutPrepare p job e) s = .next s)
    ∧ (p.val ≠ s.partNo → s.member p.val = true →
        (s.lpart job = none → exec (.layoutPrepare p job e) s = .next (s.prepareLayout p.val job e))
        ∧ ((s.lpart job).isSome = true → exec (.layoutPrepare p job e) s = .next (s.send (.mgmt (some p.val) (.layoutRefuse job)))))
    ∧ ((s.member p.val = false ∨ s.lcoord job = none) → exec (.layoutReady p job) s = .next s)
    ∧ (∀ w, s.member p.val = true → s.lcoord job = some w → p.val ∉ w.ready →
      ((∃ n ∈ s.domainParts, n ≠ p.val ∧ n ∉ w.ready) →
        ∃ u : State, exec (.layoutReady p job) s = .next u ∧ u.layoutEpoch = s.layoutEpoch ∧ u.sent = s.sent
          ∧ (u.lcoord job).map (·.ready) = some (w.ready ++ [p.val]))
      ∧ ((∀ n ∈ s.domainParts, n = p.val ∨ n ∈ w.ready) →
        let q := (s.setLayouts { s.layouts with coords := s.layouts.coords.filter fun x => x.job ≠ job }).send (.mgmt none (.layoutCommit job w.epoch))
        exec (.layoutReady p job) s = .next ((q.commitLayout job w.epoch).replyWaiting (.layoutSwitch job) stOk [])))
    ∧ (∀ w, s.lpart job = some w →
      (w.coord = p.val → w.epoch = e → p.val ≠ s.partNo →
        ∃ u : State, exec (.layoutCommit p job e) s = .next u ∧ u.layoutEpoch.get 0 job.toNat = e ∧ u.layouts.drops.get 0 job.toNat = 0 ∧ u.lpart job = none)
      ∧ (¬ (w.coord = p.val ∧ w.epoch = e ∧ p.val ≠ s.partNo) → exec (.layoutCommit p job e) s = .next s)
      ∧ (w.coord = p.val → p.val ≠ s.partNo →
        ∃ u : State, exec (.layoutAbort p job) s = .next u ∧ u.lpart job = none ∧ u.layoutEpoch = s.layoutEpoch)
      ∧ (¬ (w.coord = p.val ∧ p.val ≠ s.partNo) → exec (.layoutAbort p job) s = .next s))
    ∧ (s.lpart job = none → exec (.layoutCommit p job e) s = .next s ∧ exec (.layoutAbort p job) s = .next s)
    ∧ (exec (.layoutRefuse p job) s = .next (if (s.lcoord job).isSome = true ∧ s.member p.val = true then s.abortLayout job 0x03 [] else s))
    ∧ (∀ w n, s.lcoord job = some w → s.domainParts.find? (fun n => !(w.ready.contains n)) = some n →
      exec (.layoutSwitchTimeout job) s = .next (s.abortLayout job 0x06 [BitVec.ofNat 64 n]))
    ∧ (s.lcoord job = none → exec (.layoutSwitchTimeout job) s = .next s)

/-- Collectives (R399, R468 to R472, R478, R483, R486): a taken and pinned task begins, and waits while HBM is held or,
compressed, below 42 V; a packet that lands meets its collective or is held for it, one for another part goes on, one of an
older layout epoch is dropped and counted; a complete collective writes its destination and residuals and finishes its unit, or
ends its graph where an address lets it not; a late one ends the graph with COLL_TIMEOUT; the status is answered, and cleared
on request. -/
def Obligations.Collectives : Prop :=
  ∀ (s : State) (g : Fin 8) (task : Nat) (h : CmdHdr) (c : Cmd),
    ((s.power.supply ≠ .on ∨ s.hbmHeld = true) → exec (.collStart g task) s = .next s)
    ∧ (∀ u, s.power.supply = .on → s.hbmHeld = false → u = (s.collTake g.val task).collProbe g.val task →
      (u.unitTask g.val task 3 = none ∨ u.collRun g.val task = none → exec (.collStart g task) s = .next u)
      ∧ (∀ rec ts gr r, u.unitTask g.val task 3 = some (rec, ts, gr) → u.collRun g.val task = some r →
        let starts := ts.probed = true ∧ r.started = none ∧ ¬ (u.power.below42 = true ∧ (CollParams.parse r.block).comp ≠ 0)
        (starts → exec (.collStart g task) s = .next (u.collBegin g.val task r ts.tags)) ∧ (¬ starts → exec (.collStart g task) s = .next u)))
    ∧ (∀ (p : Pkt) (rank : Nat) (params : List Byte) (first : Nat) (data : List Byte) (id : W32) (step : W32), let src := p.src.toNat % 8192
      let m : CollMsg := { job := tagJob p.tags, step := step, collId := id, rank := rank, tags := p.tags, params := params, first := first, data := data }
      (p.type ≠ 0x08 → exec (.coll p rank params first data id step) s = .next s)
      ∧ (p.type = 0x08 →
        (pktHeaderOk p = false → exec (.coll p rank params first data id step) s = .next (s.dropPacket p))
        ∧ (pktHeaderOk p = true → p.dst.toNat % 8192 ≠ s.partNo → exec (.coll p rank params first data id step) s = .next (s.transmit (s.inputOf p) p))
        ∧ (pktHeaderOk p = true → p.dst.toNat % 8192 = s.partNo → (pktReplay p && s.alreadySeen src p.seq) = true →
          exec (.coll p rank params first data id step) s = .next s.countDrop)
        ∧ (pktHeaderOk p = true → p.dst.toNat % 8192 = s.partNo → (pktReplay p && s.alreadySeen src p.seq) = false →
          exec (.coll p rank params first data id step) s = .next ((s.collArrive src p.seq m).pumpBoundary m.job)))
      ∧ (epochNewer (s.layoutEpoch.get 0 m.job.toNat) (tagLayout m.tags) = true →
        (s.collArrive src p.seq m).layouts.drops.get 0 m.job.toNat = s.layouts.drops.get 0 m.job.toNat + 1
        ∧ (s.collArrive src p.seq m).colls.runs = s.colls.runs ∧ (s.collArrive src p.seq m).colls.held = s.colls.held))
    ∧ ((s.unitTask g.val task 3 = none ∨ s.collRun g.val task = none) → exec (.collDone g task) s = .next s ∧ exec (.collTimeout g task) s = .next s)
    ∧ (∀ rec ts gr r, s.unitTask g.val task 3 = some (rec, ts, gr) → s.collRun g.val task = some r →
      let p := CollParams.parse r.block
      let l := s.collGroup p.axes
      let ready := r.started.isSome = true ∧ s.power.supply = .on ∧ s.hbmHeld = false ∧
        ∀ x ∈ p.expected l.length (s.rankIn l) ++ (if p.op = 3 then p.expectedGather l.length (s.rankIn l) else []), x ∈ r.got
      let ws := elemRuns p.dst p.ds ((p.written l.length (s.rankIn l) (s.collMask r)).map fun i => (i, r.out.get 0 i)) ++ elemRuns p.res 2 r.resid
      (¬ ready → exec (.collDone g task) s = .next s)
      ∧ (∀ t, ready → s.taskWrites g.val task r.job ts.tags ws = .ok t →
        exec (.collDone g task) s = .next (((t.dropColl g.val task).countColl r.job fun c => { c with done := c.done + 1 }).modTask g.val task
          fun x => { x with unitDone := true }))
      ∧ (∀ a q, ready → s.taskWrites g.val task r.job ts.tags ws = .err a q →
        exec (.collDone g task) s = .next ((s.dropColl g.val task).unitAddress 4 g.val task ts.tags a q))
      ∧ (exec (.collTimeout g task) s = .next (if r.started.isSome = true
        then ((s.dropColl g.val task).countColl r.job fun c => { c with timeouts := c.timeouts + 1 }).failTask g.val task 0x2E else s)))
    ∧ (∀ v : W64, s.serves 0x0722 1 true h c → let x := s.colls.counts.get {} h.job.toNat
      let res := [BitVec.ofNat 64 x.done, BitVec.ofNat 64 x.mismatches, BitVec.ofNat 64 x.timeouts, BitVec.ofNat 64 x.sent, BitVec.ofNat 64 x.received]
      (1 < v.toNat → exec (.collStatus h v) s = (s.begin_ c).answers (s.begun c) stInvalid [])
      ∧ exec (.collStatus h 0) s = (s.begin_ c).answers (s.begun c) stOk res
      ∧ ∃ u : State, exec (.collStatus h 1) s = u.answers (s.begun c) stOk res ∧ u.colls.counts.get {} h.job.toNat = {})

/-! ### Power, cooling and telemetry -/

/-- The commands of Table 21.7: a cap of 1,800 to 3,400 W and a hall's floor and ceiling are kept (R584, R587); the power
record, Tally entries and the directory go to bulk (R598, R636); a clear sets counters to 0 and leaves gauges (R596); an alert
is enabled or masked, one of 8 to 15 with its entry and threshold, and pending bits are acknowledged (R599, R600); the valve
has two modes, its duty full outside the ready state (R593); a mark records the four hall counts, goes to the domain with scope
1, and is read back (R604). Any other operand, or a bulk that is too short, answers INVALID. -/
def Obligations.PowerAndTallyCommands : Prop :=
  ∀ (h : CmdHdr) (c : Cmd) (s : State) (v w x y : W64),
    let r := s.begin_ c
    let b := s.begun c
    let invalid := r.answers b stInvalid []
    let toBulk := fun (bs : List Byte) (l : List W64) => if bs.length ≤ h.bulkLen.toNat then (r.bulkOut b bs).answers b stOk l else invalid
    let span := 1 ≤ w.toNat ∧ v.toNat + w.toNat ≤ 8192
    (s.serves 0x0801 1 false h c → exec (.powerCapSet h v) s =
      if 1800 ≤ v.toNat ∧ v.toNat ≤ 3400 then (r.modPower fun p => { p with hostCap := v.toNat }).answers b stOk [] else invalid)
    ∧ (s.serves 0x0802 3 false h c → exec (.powerHallSet h v w x) s =
      if v.toNat ≤ 3 ∧ 550 ≤ w.toNat ∧ w.toNat ≤ x.toNat ∧ x.toNat ≤ 850 ∧ w.toNat % 5 = 0 ∧ x.toNat % 5 = 0
        then ((r.modHallPower v.toNat fun p => { p with floor := w.toNat, ceil := x.toNat }).clampHalls).answers b stOk [] else invalid)
    ∧ (s.serves 0x0803 0 false h c → exec (.powerStatus h) s = toBulk r.powerStatus [128])
    ∧ (s.serves 0x0810 2 false h c → exec (.tallyRead h v w) s =
      if span then toBulk ((List.range w.toNat).flatMap fun i => leBytes 8 (s.tallyAt (v.toNat + i)).toNat) [8 * w] else invalid)
    ∧ (s.serves 0x0811 2 false h c →
      (¬ span → exec (.tallyClear h v w) s = invalid)
      ∧ (span → ∃ t : SMap W64, exec (.tallyClear h v w) s = State.answers { r with tally := t } b stOk []
        ∧ ∀ i e, Config.tallyDir i = some e →
          let inside := v.toNat ≤ i ∧ i < v.toNat + w.toNat ∧ i < 0x0C00
          (inside → e.gauge = false → t.get 0 e.key = 0)
          ∧ ((∀ j d, v.toNat ≤ j → j < v.toNat + w.toNat → j < 0x0C00 → Config.tallyDir j = some d → d.gauge = false → d.key ≠ e.key) →
            t.get 0 e.key = s.tally.get 0 e.key)))
    ∧ (s.serves 0x0812 0 false h c → let l := (List.range 0x0C00).filterMap fun i => (Config.tallyDir i).map fun e => dirEntry i e
      exec (.tallyMap h) s = toBulk l.flatten [BitVec.ofNat 64 l.length])
    ∧ (s.serves 0x0813 4 false h c →
      let n := v.toNat
      let bit : W16 := (1 : W16) <<< n
      let set := r.modPower fun p => { p with alertMasked := if w = 1 then p.alertMasked &&& ~~~bit else p.alertMasked ||| bit }
      let sound := 1 ≤ n ∧ n ≤ 15 ∧ w.toNat ≤ 1 ∧ (w = 0 → n ≠ 1 ∧ n ≠ 6) ∧ (8 ≤ n → x.toNat ≤ 8191) ∧ (n < 8 → x = 0 ∧ y = 0)
      (¬ sound → exec (.alertConfig h v w x y) s = invalid)
      ∧ (sound → n < 8 → exec (.alertConfig h v w x y) s = set.answers b stOk [])
      ∧ (sound → 8 ≤ n → exec (.alertConfig h v w x y) s =
        ((set.modPower fun p => { p with alertEntry := p.alertEntry.set none (n - 8) (some (x.toNat, y)) }).counterAlert (n - 8)).answers b stOk []))
    ∧ (s.serves 0x0814 1 false h c →
      (65535 < v.toNat → exec (.alertAck h v) s = invalid)
      ∧ (v.toNat ≤ 65535 → ∃ u : State, u.power.alertPending = s.power.alertPending &&& ~~~(v.setWidth 16) ∧ u = r.clearAlerts (v.setWidth 16)
        ∧ exec (.alertAck h v) s = u.answers b stOk [u.power.alertPending.setWidth 64]))
    ∧ (s.serves 0x0820 2 false h c → exec (.valveSet h v w) s =
      if v = 0 ∧ 5 ≤ w.toNat ∧ w.toNat ≤ 16 then (r.modPower fun p => { p with manualValve := false, riseTarget := w.toNat }).answers b stOk []
      else if v = 1 ∧ w.toNat ≤ 1024 then
        (r.modPower fun p => { p with manualValve := true, duty := if r.pstate = 1 then w.toNat else 1024 }).answers b stOk []
      else invalid)
    ∧ (s.serves 0x0830 2 false h c →
      (1 < w.toNat → exec (.lcMark h y w) s = invalid)
      ∧ (w.toNat ≤ 1 → ∃ u : State, exec (.lcMark h y w) s = u.answers b stOk []
        ∧ u.power.marks = ({ kind := 3, hops := 0, origin := s.partNo, id := y, lcs := [0, 1, 2, 3].map s.hallLc } :: s.power.marks).take 256
        ∧ u.sent = if w = 1 then .mgmt none (.lcMark s.partNo y 0) :: s.sent else s.sent))
    ∧ (s.serves 0x0831 1 false h c → let l := s.power.marks.take v.toNat
      exec (.lcMarkRead h v) s =
        if 1 ≤ v.toNat ∧ v.toNat ≤ 256 then toBulk (l.flatMap Mark.bytes) [BitVec.ofNat 64 l.length] else invalid)

/-- The power manager (R585 to R592): a hall moves by 5 mV, down while the mean exceeds the cap, up while it lies more than 2 %
below and the slew hold does not stand, or while it returns from lending (R589); an idle or lendable hall is parked at 0.55 V
(R588, R589); a sample replaces the readings, counts energy and lifts a stop of dispatch below 95 % of the cap; 10 ms above the
cap with every hall at 0.55 V stops dispatch (R590). A mark packet and a recalibration record marks of the four hall counts
(R603, R604). Otherwise, or while the supply does not stand, nothing changes. Cooling (R569, R583, R592 to R594, Table 20.11):
a hall above 100 °C loses 25 mV of ceiling, up to 300 mV, and is lowered to it with an alert, and at 98 °C or below the
reduction ends; each second's gate gives the flow and moves the valve, fully open outside the ready state; low flow caps the
power in proportion; a failed thermistor caps it at 1,800 W; both open the valve fully, alert and are recorded; a cap lifts.
The SMBus target (R584, R600, R601, Tables 0.2 and 21.5): writes of the writable codes, reads of every code, a Tally value with
its index, and the Alert Response Address; a cap outside 1,800 to 3,400 W and a write of a read-only code keep the values.
While the target does not answer nothing changes. -/
def Obligations.PowerManager : Prop :=
  (∀ (s : State) (hall : Fin 4),
      let g := hall.val
      let p := s.power
      let up := s.returningHall = none ∧ p.mean * 100 < p.cap.1 * 98
      let low := ∀ k, k < 4 → (s.hall k).fenced = true ∨ (p.halls.get {} k).mv ≤ 550
      (p.supply = .on →
        (exec (.hallVoltageStep false) s = match s.hallToLower with
          | some n => if p.cap.1 < p.mean then .next (s.modHallPower n fun x => { x with mv := x.mv - 5, returning := false }) else .next s
          | none => .next s)
        ∧ (p.slewHold = true → exec (.hallVoltageStep true) s = .next s)
        ∧ (p.slewHold = false →
          (∀ n, s.returningHall = some n → exec (.hallVoltageStep true) s = .next (s.modHallPower n fun x => { x with mv := x.mv + 5 }))
          ∧ (∀ n, up → s.hallToRaise = some n →
            exec (.hallVoltageStep true) s = .next (s.modHallPower n fun x => { x with mv := x.mv + 5, returning := false }))
          ∧ (s.returningHall = none → ¬ (up ∧ s.hallToRaise ≠ none) → exec (.hallVoltageStep true) s = .next s))
        ∧ (exec (.hallPark hall) s = .next (if s.hallActive g = false then s
          else if s.bell.lendable.getLsbD g = true then s.modHallPower g fun x => { x with mv := 550, parked := true, lent := true, returning := false }
          else if s.hallIdle g = true then s.modHallPower g fun x => { x with mv := 550, parked := true, returning := false } else s))
        ∧ (p.overcap = false → p.cap.1 < p.mean → low →
          exec .powerOvercapTimeout s = .next ((s.modPower fun x => { x with overcap := true }).supplyFault .supply 3 7 0 0))
        ∧ (¬ (p.overcap = false ∧ p.cap.1 < p.mean ∧ low) → exec .powerOvercapTimeout s = .next s))
      ∧ (p.supply ≠ .on → (∀ up, exec (.hallVoltageStep up) s = .next s) ∧ exec (.hallPark hall) s = .next s ∧ exec .powerOvercapTimeout s = .next s)
      ∧ (∀ q : PowerSample, p.supply ≠ .off → ∃ u : State, exec (.powerSample q) s = .next u ∧ u = { s with power := u.power }
        ∧ u.power = { p with
            pin := q.pin, mean := q.mean1ms, vbusMv := q.vbusMv, iinMa := q.iinMa, hallW := q.hallW, hallTemp := q.hallTemp,
            hubTemp := q.hubTemp, iinHist := (q.iinMa :: p.iinHist).take 200, energy := u.power.energy, overcap := u.power.overcap }
        ∧ (u.power.energy = if s.pstate = 1 ∨ s.pstate = 3 then min (p.energy + q.pin) ((2 ^ 64 - 1) * 100) else p.energy)
        ∧ u.power.overcap = (p.overcap && decide (u.power.cap.1 * 95 ≤ q.mean1ms * 100)))
      ∧ (p.supply = .off → (∀ q, exec (.powerSample q) s = .next s) ∧ ∀ o id hops, exec (.lcMarkPacket o id hops) s = .next s)
      ∧ (∀ o id hops, p.supply ≠ .off → exec (.lcMarkPacket o id hops) s = .next (s.mark 3 hops o.val id))
      ∧ (exec (.lcRecalibrate hall) s = .next (if (s.hall g).lcRunning = true then s.ownMark 1 else s))
      ∧ (∀ kind hops o id, (s.mark kind hops o id).power.marks =
        ({ kind := kind, hops := hops, origin := o, id := id, lcs := [0, 1, 2, 3].map s.hallLc } :: p.marks).take 256))
  ∧ (∀ (s : State) (hall : Fin 4) (temp : Int),
      let g := hall.val
      let j := (s.power.halls.get {} g).jred
      (s.pstate = 1 →
        (400 < temp →
          let d := (s.modHallPower g fun x => { x with jred := min (j + 25) 300 }).clampHalls
          exec (.junctionReduction hall temp) s = .next ((if j = 0 then d.raiseAlert 4 else d).raiseAlert 5)
          ∧ (d.power.halls.get {} g).jred = min (j + 25) 300 ∧ ∀ k, k < 4 → (d.power.halls.get {} k).mv ≤ d.power.ceiling k)
        ∧ (temp ≤ 392 → exec (.junctionReduction hall temp) s = .next (s.modHallPower g fun x => { x with jred := 0 }))
        ∧ (392 < temp → temp ≤ 400 → exec (.junctionReduction hall temp) s = .next s)
        ∧ (let d := (s.modPower fun x => { x with flowCap := some (3400 * x.flow / 300), duty := 1024, manualValve := false }).supplyFault .cooling 8 0 0 0
          exec .lowFlow s = .next (if s.power.flowCap = none then d.raiseAlert 4 else d))
        ∧ (∀ b, let d := (s.modPower fun x => { x with
              thermCap := true, thermFault := x.thermFault ||| (if b then 2 else 1), duty := 1024, manualValve := false }).supplyFault .sensor 8 0 0 0
          exec (.thermistorFault b) s = .next (if s.power.thermCap = false then d.raiseAlert 4 else d)))
      ∧ (s.pstate ≠ 1 → exec (.junctionReduction hall temp) s = .next s ∧ exec .lowFlow s = .next s ∧ ∀ b, exec (.thermistorFault b) s = .next s)
      ∧ (∀ edges inlet outlet,
        let d := s.power.duty + 2 * (outlet - inlet - 4 * (s.power.riseTarget : Int)) + (if edges * 5 < 320 then 32 else 0)
        (s.power.supply ≠ .off → exec (.flowGate edges inlet outlet) s = .next (s.modPower fun x => { x with
          flow := edges * 5, inlet := inlet, outlet := outlet,
          duty := if s.pstate ≠ 1 then 1024 else if s.power.manualValve = true then x.duty else if 220 < outlet then 1024 else min 1024 (max 0 d) }))
        ∧ (s.power.supply = .off → exec (.flowGate edges inlet outlet) s = .next s))
      ∧ (exec (.capLift true) s = .next (s.modPower fun x => { x with inletCut := 0 }))
      ∧ (exec (.capLift false) s = .next (s.modPower fun x => { x with flowCap := none })))
  ∧ (∀ (s : State) (v : W16),
      let p := s.power
      (s.smbAnswers = true →
        (exec (.smbAlertsWrite v) s = .next (s.clearAlerts v))
        ∧ (exec (.smbRegWrite 0x02 v) s = .next (s.clearAlerts v))
        ∧ ((s.clearAlerts v).power.alertPending = p.alertPending &&& ~~~v)
        ∧ (exec (.smbCapWrite v) s = .next (if 1800 ≤ v.toNat ∧ v.toNat ≤ 3400 then s.modPower fun x => { x with smbCap := v.toNat } else s))
        ∧ (exec (.smbRegWrite 0x10 v) s = .next (s.modPower fun x => { x with smbIndex := v.setWidth 13 }))
        ∧ (exec (.smbRegWrite 0x0A v) s = exec (.smbCapWrite v) s)
        ∧ (∀ code : Byte, code ≠ 0x02 → code ≠ 0x0A → code ≠ 0x10 → exec (.smbRegWrite code v) s = .next s)
        ∧ (exec .smbTallyValueRead s = .next ((s.send (.smbRead (leBytes 8 (s.tallyAt p.smbIndex.toNat).toNat))).modPower
            fun x => { x with smbIndex := x.smbIndex + 1 }))
        ∧ (exec .smbAlertResponse s =
            .next (if p.alertPending = 0 then s else s.send (.smbRead [BitVec.ofNat 8 (0x58 + s.boot.straps.quadPos.toNat)])))
        ∧ (s.smbRead 0x01 = some [BitVec.ofNat 8 (s.pstate.toNat + if p.alertPending = 0 then 0 else 8)])
        ∧ (s.smbRead 0x02 = some (leBytes 2 p.alertPending.toNat)) ∧ (s.smbRead 0x03 = some (leBytes 2 p.mean))
        ∧ (s.smbRead 0x04 = some (leBytes 2 (p.vbusMv / 10))) ∧ (s.smbRead 0x05 = some (leBytes 2 (p.iinMa / 10)))
        ∧ (s.smbRead 0x06 = some (s16 p.inlet)) ∧ (s.smbRead 0x07 = some (s16 p.outlet)) ∧ (s.smbRead 0x08 = some (leBytes 2 p.flow))
        ∧ (s.smbRead 0x0A = some (leBytes 2 p.smbCap)) ∧ (s.smbRead 0x10 = some (leBytes 2 p.smbIndex.toNat)))
      ∧ (s.smbAnswers = false → exec (.smbAlertsWrite v) s = .next s ∧ exec (.smbCapWrite v) s = .next s ∧ (∀ code, exec (.smbRegWrite code v) s = .next s)
        ∧ exec .smbTallyValueRead s = .next s ∧ exec .smbAlertResponse s = .next s ∧ ∀ code, s.smbRead code = none))

/-- The cap takes the lowest of its limits, less the inlet's cut (R584). -/
def Obligations.CapIsTheLowestLimit : Prop :=
  ∀ p : Power, (∀ l ∈ p.limits, p.cap.1 ≤ l.1) ∧ (p.inletCut = 0 → p.cap ∈ p.limits) ∧ p.cap.1 ≤ p.hostCap ∧ p.cap.1 ≤ p.smbCap

/-- The supply (Table 20.7, R398, R399, R571 to R580, R594), in every supply state. A row whose condition already stands
changes nothing; a part that is off keeps everything; in the orderly stop a crossing of 42 V, 40 V or 38 V is recorded and
nothing else. Above 41 V the held requests are served in arrival order, RDMA accesses among them. 36 V, a disconnect, the
lockout and 125 °C turn the part off. The orderly stop leaves PSTATE 3 with its cause, and stops nothing before the hub rail is
up. A rail's first lost phase stops no work; a further one is RAIL_LOSS with the rail's action. Cooling trips act in PSTATE 1
alone; the one record of a supply crossing is raised with alert 1. Power-on, PWR_EN and the resets (R536 to R539, R547, R549,
R572), in every supply state: each begins a start at step 1 with its cause and counts it; a part reset samples the straps; a
fall of PWR_EN stops the part in order and turns it off; a watchdog reset ends the running step's entry with 0x11 and acts only
once step 2 has begun; a part that is off takes no reset. A part that is off keeps its boot flash and fuses alone (R430, R572,
R576): its registers, stores, graphs and counters are those of a part that was never on, its supply is off, and every stack
keeps its row map and its retired units; redirections stay. -/
def Obligations.SupplyEvents : Prop :=
  (∀ (s : State) (rail : Rail),
      let on := s.power.supply = .on
      let lost := s.power.lost.get 0 (railIndex rail)
      (exec .vbusBelow44v s = .next (if on then s.take44 else s))
      ∧ (exec .vbusAbove45v s = .next (if on ∧ s.power.below44 = true
          then (s.modPower fun p => { p with below44 := false }).reWidth fun _ => 0xFF else s))
      ∧ (s.power.supply = .off → exec .vbusBelow42v s = .next s ∧ exec .vbusAbove43v s = .next s ∧ exec .vbusBelow40v s = .next s
          ∧ exec .vbusAbove41v s = .next s ∧ exec .vbusBelow38v s = .next s)
      ∧ (∀ c, s.power.supply = .stopped c → exec .vbusBelow42v s = .next s.crossing ∧ exec .vbusAbove43v s = .next s.crossing
          ∧ exec .vbusBelow40v s = .next s.crossing ∧ exec .vbusAbove41v s = .next s.crossing ∧ exec .vbusBelow38v s = .next s.crossing)
      ∧ (on →
        (exec .vbusBelow42v s = .next (if s.power.below42 = true then s else s.take42.crossing))
        ∧ (exec .vbusAbove43v s = .next (if s.power.below42 = true then (s.modPower fun p => { p with below42 := false }).crossing else s))
        ∧ (exec .vbusBelow40v s = .next (if s.power.below40 = true then s else s.take40.crossing))
        ∧ (s.power.below40 = false → exec .vbusAbove41v s = .next s)
        ∧ (s.power.below40 = true → exec .vbusAbove41v s = .next (s.fab.heldPkts.foldl State.serveHeld
            ((((s.modPower fun p => { p with below40 := false }).setRefresh false).setFab { s.fab with heldPkts := [] }).traceFlush.crossing)))
        ∧ (exec .vbusBelow38v s = .next (s.crossing.orderlyStop .vbus38)))
      ∧ (∀ qp write off data len, s.serveHeld (.rdma qp write off data len) = s.rdmaAccess qp write off data len)
      ∧ (exec .vbusBelow36v s = .next s.turnOff) ∧ (exec .vbusDisconnect s = .next s.turnOff) ∧ (exec .vbusLockout s = .next s.turnOff)
      ∧ (exec .vbusOvervoltage s = .next (s.orderlyStop .overvoltage))
      ∧ (exec (.phaseLoss rail) s = .next (if on ∧ lost = 0 then s.losePhase rail .phase 3 else s))
      ∧ (exec (.railLoss rail) s = .next (if on ∧ 1 ≤ lost ∧ lost < railPhases rail then (s.losePhase rail .railLoss 7).railAction rail else s))
      ∧ (s.railAction rail = (match rail with
          | .core h => if railPhases (.core h) - s.power.lost.get 0 (railIndex (.core h)) < 8 then s.fenceHall h.val false .railLoss else s
          | .bus => s
          | .opt n => if s.portUp (n.val + 2) = true then (s.declareFailed (n.val + 2)).turnBack (n.val + 2) else s
          | .base k => if (s.tillOf k.val).pipes = 0 then s
            else ((s.modTillOf k.val fun t => { t with pipes := 0 }).partFault .tillFailed 5 3 (BitVec.ofNat 16 k.val) 0 0).raiseAlert 7
          | .hbm k => (s.logRepair fun r => { r with stackPos := r.stackPos.set .full k.val .excluded }).orderlyStop .railLoss
          | _ => (s.logRepair fun r => { r with railFail := true }).orderlyStop .railLoss))
      ∧ (exec .flowLoss s = .next (if s.pstate = 1 then s.coolingAlert.orderlyStop .flow else s))
      ∧ (exec .outletHot s = .next (if s.pstate = 1 then s.coolingAlert.orderlyStop .outlet else s))
      ∧ (∀ t : Int, exec (.junctionTrip t) s = .next (if 500 ≤ t then s.turnOff
          else if s.pstate = 1 ∧ 460 ≤ t then s.coolingAlert.orderlyStop .junction else s))
      ∧ (∀ (t : Int) (held : Bool), (s.pstate ≠ 1 ∨ t ≤ 160 → exec (.inletHot t held) s = .next s)
        ∧ (s.pstate = 1 → 160 < t → ∃ u : State, exec (.inletHot t held) s = .next (if 180 ≤ t ∧ held = true then u.orderlyStop .inlet else u)
            ∧ u.power.inletCut = 25 * (t - 160).toNat ∧ u.power.duty = 1024 ∧ u.power.manualValve = false ∧ u.power.supply = s.power.supply
            ∧ u.mem = s.mem ∧ u.graphs = s.graphs))
      ∧ (∀ c, let early := s.power.supply ≠ .on ∨ (s.pstate = 0 ∧ s.startStep.toNat ≤ 1)
        (early → s.orderlyStop c = s)
        ∧ ((¬ early) → (s.orderlyStop c).pstate = 3 ∧ (s.orderlyStop c).power.supply = .stopped c ∧ (s.orderlyStop c).power.duty = 1024
          ∧ (s.orderlyStop c).power.below42 = true ∧ (s.orderlyStop c).power.below40 = true)))
  ∧ (∀ (s : State) (straps : Straps),
      let off := s.power.supply = .off
      let up := s.modPower fun p => { p with pwrEn := true }
      let down := s.modPower fun p => { p with pwrEn := false }
      (exec .powerOn s = .next (if off ∧ s.power.pwrEn = true then (s.modPower fun p => { p with supply := .on }).startOver 1 else s))
      ∧ (∀ w : Bool, exec (.pwrEnRise w) s = .next (if w = true ∧ off then (up.modPower fun p => { p with supply := .on }).startOver 1 else up))
      ∧ (exec .pwrEnFall s = .next (if off then down else (down.orderlyStop .pwrEn).turnOff))
      ∧ (off → exec (.partReset straps) s = .next s ∧ exec .watchdogReset s = .next s ∧ exec .restart s = .next s)
      ∧ ((¬ off) →
        (let u := s.startOver 2;
          exec (.partReset straps) s = .next { u with boot := { u.boot with straps := straps } })
        ∧ (s.pstate = 0 → s.startStep.toNat ≤ 1 → exec .watchdogReset s = .next s)
        ∧ ((s.pstate ≠ 0 ∨ 1 < s.startStep.toNat) →
          (s.running = none → exec .watchdogReset s = .next ((s.partFault .hubUe 3 0 0 0 0).startOver 4))
          ∧ (∀ i, s.running = some i → exec .watchdogReset s = .next
            (((s.writeStep i fun e => { e with ended := some 0x11 }).partFault .hubUe 3 0 0 0 0).startOver 4)))
        ∧ (exec .restart s = .next (if s.boot.restart = true then s.startOver 3 else s)))
      ∧ (∀ c, let u := s.startOver c
        u.startNo = s.startNo + 1 ∧ u.startStep = 1 ∧ u.boot.cause = c ∧ u.pstate = 0 ∧ u.graphs = [] ∧ u.mem = [] ∧ u.threads = []
          ∧ u.boot.restart = false ∧ u.boot.records = s.boot.records ∧ u.boot.repair = s.boot.repair))
  ∧ (∀ s : State, let u := s.turnOff
      u.power.supply = .off ∧ u.mem = [] ∧ u.scratch = [] ∧ u.aisleMem = [] ∧ u.poison = [] ∧ u.graphs = [] ∧ u.threads = [] ∧ u.tally = []
        ∧ u.host = State.reset.host ∧ u.fab = State.reset.fab ∧ u.bell = State.reset.bell ∧ u.till = State.reset.till ∧ u.weights = State.reset.weights
        ∧ u.colls = State.reset.colls ∧ u.roots = State.reset.roots ∧ u.solver = State.reset.solver ∧ u.trace = State.reset.trace ∧ u.pstate = 0
        ∧ u.boot.records = s.boot.records ∧ u.boot.repair = s.boot.repair ∧ u.boot.headers = s.boot.headers ∧ u.boot.svnFloor = s.boot.svnFloor
        ∧ u.boot.serial = s.boot.serial ∧ u.xlt.redirects = s.xlt.redirects ∧ u.xlt.dead = s.xlt.dead
        ∧ (∀ k, k < 12 → (u.stack k).rowMap = (s.stack k).rowMap ∧ (u.stack k).retired = (s.stack k).retired))

/-- A part reset during start-up begins start-up again at step 1 and records the new cause; a host-interface reset does not
interrupt it (R538). -/
def Obligations.ResetsDuringStartup : Prop :=
  ∀ (s : State) (straps : Straps) (kind : HostReset), s.pstate = 0 → s.power.supply ≠ .off →
    (∃ u : State, exec (.partReset straps) s = .next u ∧ u.pstate = 0 ∧ u.startStep = 1 ∧ u.boot.cause = 2 ∧ u.startNo = s.startNo + 1)
    ∧ (∃ u : State, exec (.hostInterfaceReset kind) s = .next u ∧ u.pstate = 0 ∧ u.startStep = s.startStep ∧ u.boot = s.boot
      ∧ u.startNo = s.startNo)

/-- The start (R541, R545 to R557, R561, R628), in every state. Once the supply holds, the steps run as far as the report goes;
at any other time the row changes nothing, and a part that lost VHUB or VPHY fails step 1. No valid header, BOOT_SEL 2 and a
step of Table 19.6 that has failed three times lead to recovery, PSTATE 2. A step that never ends leaves its START alone;
beyond its bound it ends 0x11 and the part restarts. In step 10 the serial number of the partner the bundle lists counts for
its port, and any other counts against it; with every partner right the part is ready, and the SVN floor rises; a timeout is
recorded once and waits on. -/
def Obligations.StartupEvents : Prop :=
  ∀ (s : State) (f : StartupFacts) (port : Fin 8) (serial : BitVec 128),
    let go := s.power.supply = .on ∧ s.pstate = 0 ∧ s.startStep.toNat ≤ 1 ∧ s.boot.repair.railFail = false
    let in10 := s.power.supply = .on ∧ s.pstate = 0 ∧ s.startStep = 10
    (exec (.supplyCheckDone f) s = .next (if go then s.startUp f else s))
    ∧ (f.noHeader = true ∨ s.boot.header = none → s.startUp f = s.recover 0 false)
    ∧ (∀ hd, f.noHeader = false → s.boot.header = some hd →
      (s.boot.straps.bootSel = 2 → s.startUp f = s.recover 0 true)
      ∧ (∀ i rest, s.boot.straps.bootSel ≠ 1 → s.boot.straps.bootSel ≠ 2 → mandatorySteps.filter (fun i => failures i s.boot.records ≥ 3) = i :: rest →
          s.startUp f = s.recover i true))
    ∧ (∀ i readable, (s.recover i readable).pstate = 2 ∧ (s.recover i readable).boot.recoveryStep = i ∧ (s.recover i readable).boot.mode = 1)
    ∧ (∀ i rest cleared, f.hangAt = i → s.runSteps f cleared (i :: rest) = s.openEntry i)
    ∧ (∀ i : Fin 12, (s.running = some i.val ∧ i.val ≤ 9 → ∃ u : State, exec (.startupStepBound i) s = .next u ∧ u.boot.restart = true
        ∧ u.boot.records = (s.endStep i.val 0x11 0 0).boot.records ∧ u.mem = s.mem ∧ u.startStep = s.startStep)
      ∧ (¬ (s.running = some i.val ∧ i.val ≤ 9) → exec (.startupStepBound i) s = .next s))
    ∧ (¬ (in10 ∧ (s.port port.val).st = .inService) → exec (.discoveryPartner port serial) s = .next s)
    ∧ (in10 → (s.port port.val).st = .inService →
      let bit := (1 : BitVec 8) <<< port.val
      let right := s.listedAs.isSome = true ∧ serial = s.boot.bundle.members.get 0 (s.partnerOf port.val)
      ∃ v : State, exec (.discoveryPartner port serial) s = .next v.discover ∧ v = { s with boot := v.boot }
        ∧ (right → v.boot.partnerOk = s.boot.partnerOk ||| bit ∧ v.boot.partnerWrong = s.boot.partnerWrong &&& ~~~bit)
        ∧ ((¬ right) → v.boot.partnerOk = s.boot.partnerOk &&& ~~~bit ∧ v.boot.partnerWrong = s.boot.partnerWrong ||| bit)
        ∧ v.boot.records = s.boot.records ∧ v.boot.repair = s.boot.repair)
    ∧ (exec .discTimeout s = .next (if in10 ∧ (s.entry 10).ended = none
        then s.endStep 10 0x12 0 (maskOf (s.partnerPorts.filter fun n => !(s.boot.partnerOk.getLsbD n))) else s))
    ∧ (s.discover = if s.listedAs.isSome = true ∧ (∀ n ∈ s.partnerPorts, s.boot.partnerOk.getLsbD n = true)
        then (if (s.entry 10).ended = none then s.endStep 10 0x00 0 0 else s).ready else s)
    ∧ s.ready.pstate = 1 ∧ s.boot.svnFloor ≤ s.ready.boot.svnFloor ∧ s.boot.fwSvn ≤ s.ready.boot.svnFloor

/-! ### Replicas, tools, ROOT and SLV -/

/-- The capture and replay commands (R340, R344 to R346): a capture buffer is claimed at the top of a hall's store, its records
empty, or released; a buffer or region that breaks Table 11.9 answers INVALID and a claimed store CONFLICT; a record of the
step is written to memory; a check answers the first item that differs, after its reads of other parts; a run of a captured
step that agrees starts one graph of one step, and otherwise answers INVALID, BUSY, MISMATCH or LINK_DOWN. The replica and pair
commands (Table 22.5, R613, R618, R619, R622, R625): a comparison is bound to a graph of the job, cleared unless work is under
way, and answered; a rollback that holds the graph is resumed; a pair is bound, cleared and answered. A field out of range
answers INVALID, what is bound already CONFLICT, and what is not bound NOT_FOUND or zeros. The pair's events (R618, R622 to
R624, Table 22.4): a table arrives in the receive region and, while the domains are paired, is compared in its turn; silence, a
lost heartbeat and a WITHDRAW declare the other domain lost, with a record and a broadcast; the broadcast reaches the other
parts; heartbeats leave on both queue pairs; the copy of the lowest group that waits for one ends its hold. An event of no
pair, of a pair that is lost or without heartbeats, or of a group whose turn it is not, changes nothing. -/
def Obligations.ReplayCommands : Prop :=
  (∀ (h : CmdHdr) (c : Cmd) (s : State) (hall mode step buf batch list count header flags : W64),
      let r := s.begin_ c
      let b := s.begun c
      let d := r.dropHub h.job
      let cfg := Instr.replayConfig h hall mode step buf batch list count
      let hl := hall.toNat
      (s.serves 0x0920 7 true h c →
        let sound := step.toNat < 2 ^ 32 ∧ buf.toNat % 2 ^ 20 = 0 ∧ 2 ^ 20 ≤ buf.toNat ∧ buf.toNat ≤ 16 * 2 ^ 20 ∧ count.toNat ≤ 64
          ∧ (s.hall hl).fenced = false
        (¬ (hl ≤ 3 ∧ mode.toNat ≤ 2) → exec cfg s = r.answers b stInvalid [])
        ∧ (hl ≤ 3 → mode = 0 → exec cfg s =
          ((r.setReplay { r.replay with cfgs := s.replay.cfgs.filter fun x => !(x.job = h.job && x.hall = hl) }).unclaim
            fun x => x.kind = .hallStoreTop && x.index = hl && x.job = h.job).answers b stOk [])
        ∧ (hl ≤ 3 → (mode = 1 ∨ mode = 2) → ¬ sound → exec cfg s = r.answers b stInvalid [])
        ∧ (hl ≤ 3 → (mode = 1 ∨ mode = 2) → sound →
          (∀ k, (∀ bs, r.hubRead h.job list.toNat (16 * count.toNat) ≠ .ok bs) → exec cfg s = .next (r.cmdRead b h.job list.toNat (16 * count.toNat) k))
          ∧ (∀ bs, r.hubRead h.job list.toNat (16 * count.toNat) = .ok bs →
            let rs := parseRegions count.toNat bs
            let clean := regionsClean 3 count.toNat bs = true ∧ ∀ x ∈ rs, d.regionOk h.job x = true
            (¬ clean → exec cfg s = d.answers b stInvalid [])
            ∧ (clean → s.host.claimed .hallStoreTop hl = true → exec cfg s = d.answers b stConflict [])
            ∧ (clean → s.host.claimed .hallStoreTop hl = false →
              let x : ReplayCfg := { job := h.job, hall := hl, mode := mode.toNat, step := step.setWidth 32, buf := buf.toNat / 2 ^ 20, batch := batch.toNat, regions := rs }
              ∃ u : State, exec cfg s = u.answers b stOk [] ∧ u.replay.cfgs = s.replay.cfgs ++ [x] ∧ u.host.claimed .hallStoreTop hl = true
                ∧ (∀ i, i < 16 * x.buf → u.mem.get (recordOff x i) = 0)
                ∧ ∀ a, (∀ i, i < 16 * x.buf → a ≠ recordOff x i) → u.mem.get a = s.mem.get a))))
      ∧ (s.serves 0x0921 2 true h c →
        (s.findRecord h.job step (fun b => b ≠ 0) = none → exec (.replayRead h step header) s = r.answers b stInvalid [])
        ∧ (∀ x i, s.findRecord h.job step (fun b => b ≠ 0) = some (x, i) →
          exec (.replayRead h step header) s = .next (r.cmdWrite b h.job header.toNat (r.recBytes x i 0 65536) [])))
      ∧ (let l := r.checkRuns h.job step header.toNat
        let failed := ∃ p ∈ l, ∃ a q, r.hubRead h.job p.1 p.2 = .err a q
        let item := r.replayItem h.job step header.toNat
        (s.serves 0x0922 2 true h c →
          (∀ va pa n, r.firstAway h.job l = some (va, pa, n) → exec (.replayCheck h step header) s = .next ((r.parkCmd b).hubFetch h.job va pa n))
          ∧ (r.firstAway h.job l = none → failed → exec (.replayCheck h step header) s = ((r.readErrors h.job l).dropHub h.job).answers b stAddress [])
          ∧ (r.firstAway h.job l = none → ¬ failed → exec (.replayCheck h step header) s = d.answers b stOk (itemResults item)))
        ∧ (s.serves 0x0923 3 true h c →
          let run := Instr.replayRun h step header flags
          let busy := ∃ p ∈ s.residents, p.2.hdr.job = h.job ∧ p.2.phase ≠ .ended
          (1 < flags.toNat → exec run s = r.answers b stInvalid [])
          ∧ (flags.toNat ≤ 1 → busy ∨ s.freeHandle = none → exec run s = r.answers b stBusy [])
          ∧ (flags.toNat ≤ 1 → ¬ busy → s.freeHandle ≠ none → s.findRecord h.job step (fun b => b = 2) = none →
            exec run s = r.answers b stMismatch [1])
          ∧ (∀ g x i, flags.toNat ≤ 1 → ¬ busy → s.freeHandle = some g → s.findRecord h.job step (fun b => b = 2) = some (x, i) →
            (∀ va pa n, r.firstAway h.job l = some (va, pa, n) → exec run s = .next ((r.parkCmd b).hubFetch h.job va pa n))
            ∧ (r.firstAway h.job l = none → failed → exec run s = ((r.readErrors h.job l).dropHub h.job).answers b stAddress [])
            ∧ (r.firstAway h.job l = none → ¬ failed →
              (item.1 ≠ 0 → exec run s = d.answers b stMismatch (itemResults item))
              ∧ (item.1 = 0 → s.fab.broken = true → exec run s = d.answers b 0x0E [])
              ∧ (item.1 = 0 → s.fab.broken = false →
                (∀ k, (∀ bs, r.hubRead h.job header.toNat 128 ≠ .ok bs) → exec run s = .next (r.cmdRead b h.job header.toNat 128 k))
                ∧ (∀ bs, r.hubRead h.job header.toNat 128 = .ok bs → (header.toNat % 128 ≠ 0 ∨ hdrBad bs h.job = true) → exec run s = d.answers b stInvalid [])
                ∧ (∀ bs, r.hubRead h.job header.toNat 128 = .ok bs → header.toNat % 128 = 0 → hdrBad bs h.job = false →
                  ∃ u : State, exec run s = .next (u.loadGraph g) ∧ (∃ gr, u.graph g = some gr
                    ∧ gr.hdr = { GraphHdr.parse bs with syncMode := 0, stepFirst := step.setWidth 32, stepCount := 1 } ∧ gr.step = step.setWidth 32)
                  ∧ (let q : ReplayRun := { graph := g, job := h.job, hall := x.hall, noupdate := decide (flags = 1), c := leAt (s.recBytes x i 0x12 2) 0 2, record := i }
                    u.replay.runs = s.replay.runs ++ [q])
                  ∧ u.replay.cfgs = s.replay.cfgs)))))))
  ∧ (∀ (h : CmdHdr) (c : Cmd) (s : State) (graph axes k snap size list count first ncnt : W64),
      let r := s.begin_ c
      let b := s.begun c
      let d := r.dropHub h.job
      let held := s.rollbackHeld h.job = true
      let works := s.workOf h.job ≠ none
      (s.serves 0x0940 9 true h c →
        let set := Instr.replicaSet h graph axes k snap size list count first ncnt
        let sound := (∃ gr, graph.toNat < 8 ∧ s.graph graph.toNat = some gr ∧ gr.hdr.job = h.job ∧ gr.phase ≠ .ended) ∧ axes.toNat ≤ 15
          ∧ 1 ≤ k.toNat ∧ k.toNat ≤ 1000 ∧ snap.toNat % 65536 = 0 ∧ size.toNat % 65536 = 0 ∧ count.toNat ≤ 16 ∧ ncnt.toNat ≤ 4096
          ∧ first.toNat ≤ 65535 ∧ first.toNat + ncnt.toNat ≤ 65536
        (¬ sound → exec set s = r.answers b stInvalid [])
        ∧ (∀ q, sound → (∀ bs, r.hubRead h.job list.toNat (16 * count.toNat) ≠ .ok bs) →
          exec set s = .next (r.cmdRead b h.job list.toNat (16 * count.toNat) q))
        ∧ (∀ bs, sound → r.hubRead h.job list.toNat (16 * count.toNat) = .ok bs →
          let rs := parseRegions count.toNat bs
          let fits := regionsClean 0 count.toNat bs = true ∧ (∀ x ∈ rs, d.regionOk h.job x = true)
            ∧ s.areaTotal h.job + regionTotal rs + 8 * ncnt.toNat ≤ size.toNat ∧ d.rangeWritable h.job snap.toNat size.toNat = true
          (¬ fits → exec set s = d.answers b stInvalid [])
          ∧ (fits → s.replicaOf h.job ≠ none → exec set s = d.answers b stConflict [])
          ∧ (fits → s.replicaOf h.job = none →
            let x : ReplicaCfg := { job := h.job, graph := graph.toNat, axes := axes.toNat, k := k.toNat, snapVa := snap.toNat, snapSize := size.toNat, regions := rs, first := first.toNat, ncnt := ncnt.toNat }
            exec set s = (d.setReplica { d.replica with cfgs := s.replica.cfgs ++ [x] }).answers b stOk [])))
      ∧ (s.serves 0x0941 0 true h c →
        (s.replicaOf h.job = none → exec (.replicaClear h) s = r.answers b stNotFound [])
        ∧ (s.replicaOf h.job ≠ none → works ∨ held → exec (.replicaClear h) s = r.answers b stBusy [])
        ∧ (s.replicaOf h.job ≠ none → ¬ works → ¬ held → ∃ u : State, exec (.replicaClear h) s = u.answers b stOk [] ∧ u.replicaOf h.job = none
          ∧ (∀ x ∈ s.replica.cfgs, x.job ≠ h.job → x ∈ u.replica.cfgs) ∧ u.replica.pairs = s.replica.pairs
          ∧ u.till.copying = s.till.copying.filter fun g => !(((s.jobGroups h.job).map (·.gid)).contains g)))
      ∧ (s.serves 0x0942 0 true h c →
        let st : W64 := if s.rollbackHeld h.job = true then 2 else if s.workOf h.job = none then 0 else 1
        (s.replicaOf h.job = none → exec (.replicaStatus h) s = r.answers b stOk [0, 0, 0, 0, 0, st])
        ∧ (∀ x, s.replicaOf h.job = some x → exec (.replicaStatus h) s = r.answers b stOk [x.lastStep.setWidth 64, x.lastAgreed.setWidth 64,
          BitVec.ofNat 64 x.repaired, BitVec.ofNat 64 x.rederived, BitVec.ofNat 64 x.rollbacks, st]))
      ∧ (s.serves 0x0943 0 true h c →
        (¬ held → exec (.replicaResume h) s = r.answers b stNotFound [])
        ∧ (held → ∃ u : State, exec (.replicaResume h) s = u.answers b stOk [] ∧ u.mem = s.mem ∧ u.replica = s.replica
          ∧ (∀ g, (u.graph g).map (·.resumeHold) = (s.graph g).map fun x => x.resumeHold && x.hdr.job ≠ h.job)
          ∧ ∀ g, (u.graph g).map (·.step) = (s.graph g).map (·.step)))
      ∧ (∀ (role qp region raddr rkey hb0 hb1 timeout : W64), s.serves 0x0948 8 true h c →
        let set := Instr.pairSet h role qp region raddr rkey hb0 hb1 timeout
        let beats := (hb0 = 0xFFFF ∧ hb1 = 0xFFFF)
          ∨ ∃ x y, s.jobQp h.job hb0.toNat = some x ∧ s.jobQp h.job hb1.toNat = some y ∧ x.port ≠ y.port
        let sound := role.toNat ≤ 1 ∧ s.jobQp h.job qp.toNat ≠ none ∧ (∃ m ∈ s.fab.mrs, m.id = region.toNat ∧ m.job = h.job) ∧ beats
          ∧ rkey.toNat < 2 ^ 32 ∧ 1000 ≤ timeout.toNat ∧ timeout.toNat ≤ 1000000
        (¬ sound → exec set s = r.answers b stInvalid [])
        ∧ (sound → s.pairOf h.job ≠ none → exec set s = r.answers b stConflict [])
        ∧ (sound → s.pairOf h.job = none →
          let p : PairCfg := { job := h.job, role := role.toNat, qp := qp.toNat, region := region.toNat, raddr := raddr, rkey := rkey, hb0 := hb0.toNat, hb1 := hb1.toNat, timeout := timeout.toNat }
          ∃ u : State, exec set s = u.answers b stOk [] ∧ u.replica.pairs = s.replica.pairs ++ [p]
            ∧ (∀ x, u.replicaOf h.job = some x → x.snapStep = none ∧ x.rolledAt = none) ∧ u.mem = s.mem))
      ∧ (s.serves 0x0949 0 true h c →
        (s.pairOf h.job = none → exec (.pairClear h) s = r.answers b stNotFound [])
        ∧ (s.pairOf h.job ≠ none → works → exec (.pairClear h) s = r.answers b stBusy [])
        ∧ (s.pairOf h.job ≠ none → ¬ works →
          exec (.pairClear h) s = (r.setReplica { r.replica with pairs := s.replica.pairs.filter fun x => x.job ≠ h.job }).answers b stOk []))
      ∧ (s.serves 0x094A 0 true h c →
        (s.pairOf h.job = none → exec (.pairStatus h) s = r.answers b stOk [0, 0, 0])
        ∧ (∀ p, s.pairOf h.job = some p →
          exec (.pairStatus h) s = r.answers b stOk [BitVec.ofNat 64 p.state, p.lastStep.setWidth 64, BitVec.ofNat 64 p.timeouts])))
  ∧ (∀ (s : State) (job : Byte),
      (s.pairOf job = none → (∀ step table, exec (.exchangeTable job step table) s = .next s) ∧ exec (.pairLossBroadcast job) s = .next s)
      ∧ (∀ p, s.pairOf job = some p →
        (exec (.pairLossBroadcast job) s = .next (s.losePair job))
        ∧ (∀ step table, s.fab.mrs.find? (fun m => m.id = p.region) = none → exec (.exchangeTable job step table) s = .next s)
        ∧ (∀ step table m, s.fab.mrs.find? (fun m => m.id = p.region) = some m → exec (.exchangeTable job step table) s = .next (
            let u := s.poke m.off (table.flatMap fun w => leBytes 8 w.toNat)
            if m.len < 8 * table.length then s else if p.state ≠ 1 then u
            else (u.modPair job fun x => { x with inbox := x.inbox ++ [(step, table)] }).pumpBoundary job)))
      ∧ (s.paired job = none → exec (.exchTimeout job) s = .next s ∧ exec (.heartbeatSend job) s = .next s ∧ exec (.heartbeatLoss job) s = .next s
        ∧ exec (.withdraw job) s = .next s)
      ∧ (∀ p, s.paired job = some p →
        (∀ w, s.workOf job = some w → w.stage = .exchange → w.lengths ≠ [] → exec (.exchTimeout job) s = .next
          (((s.modPair job fun x => { x with timeouts := x.timeouts + 1 }).send (.rdmaSend p.qp (pairMessage 1))).declareLost job))
        ∧ ((∀ w, s.workOf job = some w → w.stage ≠ .exchange ∨ w.lengths = []) → exec (.exchTimeout job) s = .next s)
        ∧ (exec (.heartbeatSend job) s = .next (if p.hb0 = 0xFFFF then s
            else (s.send (.rdmaSend p.hb0 (pairMessage 0))).send (.rdmaSend p.hb1 (pairMessage 0))))
        ∧ (exec (.heartbeatLoss job) s = .next (if p.hb0 = 0xFFFF then s else s.declareLost job))
        ∧ (exec (.withdraw job) s = .next (s.declareLost job)))
      ∧ (∀ gid : Fin 4096, let next := (s.jobGroups job).find? fun g => s.till.copying.contains g.gid
        (s.replicaOf job = none ∨ next.map (·.gid) ≠ some gid.val → exec (.snapshotCopyDone job gid) s = .next s)
        ∧ (∀ x g, s.replicaOf job = some x → next = some g → g.gid = gid.val →
          let u := s.copySpace job g.area (x.snapVa + s.areaBefore job g.gid) g.units
          exec (.snapshotCopyDone job gid) s = .next ((u.setTill { u.till with copying := u.till.copying.filter fun y => y ≠ g.gid }).pumpBoundary job))))

/-- The check's commands (R237, R238) and those of chapter 23: a ring is claimed, and a job's counts of its last step and its
widened table are answered; a self-test of a part with no resident graph empties the stores it tests, takes a failing unit out
and answers PASS, FAIL or, at a sag, ABORTED (R630, R631); a margin sweep answers its windows and the marginal mask (R632,
R633); trace capture is configured, armed, released and answered, and an edge of TRIG_IN takes a mark and triggers it (R604,
R634, R635). Operands out of range answer INVALID, a resident graph BUSY, and what is claimed CONFLICT. -/
def Obligations.CheckTestAndTrace : Prop :=
  ∀ (h : CmdHdr) (c : Cmd) (s : State) (v w x y z : W64),
    let r := s.begin_ c
    let b := s.begun c
    let toBulk := fun (bs : List Byte) (l : List W64) => if bs.length ≤ h.bulkLen.toNat then (r.bulkOut b bs).answers b stOk l else r.answers b stInvalid []
    let idle := s.residents = []
    (s.serves 0x0910 5 true h c →
      let sound := v.toNat % 4096 = 0 ∧ 16 ≤ w.toNat ∧ w.toNat ≤ 4096 ∧ 1 ≤ y.toNat ∧ y.toNat ≤ 1024 ∧ z.toNat ≤ 65535
      let taken := s.jobResident h.job = true ∨ s.host.claimed .checkRing 0 = true
      (¬ sound → exec (.xchkConfig h v w x y z) s = r.answers b stInvalid [])
      ∧ (sound → taken → exec (.xchkConfig h v w x y z) s = r.answers b stConflict [])
      ∧ (sound → ¬ taken → ∃ u : State, exec (.xchkConfig h v w x y z) s = u.answers b stOk [] ∧ u.host.claimed .checkRing 0 = true
        ∧ u.xchk = { s.xchk with job := h.job, configured := true, base := v, entries := w.toNat, entry := x, threads := y.toNat, alerts := z.toNat, used := [] }))
    ∧ (s.serves 0x0911 2 true h c →
      let n := s.xchk.last.get {} h.job.toNat
      let wide := if s.xchk.job = h.job then s.xchk.widened else []
      let u : State := if w = 1 ∧ s.xchk.job = h.job then { r with xchk := { s.xchk with widened := [] } } else r
      (1 < w.toNat → exec (.xchkStatus h w v) s = r.answers b stInvalid [])
      ∧ (w.toNat ≤ 1 → exec (.xchkStatus h w v) s = .next (u.cmdWrite b h.job v.toNat (padTo 1024 (wide.flatMap fun q => leBytes 4 q.toNat))
        [n.samples, n.unchecked, n.disagreements, n.alerts, BitVec.ofNat 64 wide.length])))
    ∧ (∀ f : SelfTestFacts, s.serves 0x0960 1 false h c →
      (31 < v.toNat → exec (.selftest h v f) s = r.answers b stInvalid [])
      ∧ (v.toNat ≤ 31 → ¬ idle → exec (.selftest h v f) s = r.answers b stBusy [])
      ∧ (v.toNat ≤ 31 → idle → f.sagged = true → exec (.selftest h v f) s = (r.destroyStores v).answers b 0x0F [])
      ∧ (v.toNat ≤ 31 → idle → f.sagged = false →
        let n := namedFailures f v
        let per := fun (k : Nat) => (n.stalls.filter fun st => st.hall.val = k).length
        let none_ := n.stalls = [] ∧ n.aisles = [] ∧ n.meshes = 0 ∧ n.tills = 0 ∧ n.roots = 0
        exec (.selftest h v f) s = ((r.destroyStores v).takeFailures n).answers b (if none_ then 0x10 else 0x11)
          [BitVec.ofNat 64 (per 0 + per 1 * 2 ^ 16 + per 2 * 2 ^ 32 + per 3 * 2 ^ 48), n.tills.setWidth 64, n.roots.setWidth 64]
        ∧ (none_ → (r.destroyStores v).takeFailures n = r.destroyStores v)))
    ∧ (∀ ps : List (BitVec 64),
      (s.serves 0x0961 3 false h c →
        (¬ (v.toNat ≤ 11 ∧ x.toNat ≤ 3) → exec (.marginHbm h v w x ps) s = r.answers b stInvalid [])
        ∧ (v.toNat ≤ 11 → x.toNat ≤ 3 → ¬ idle → exec (.marginHbm h v w x ps) s = r.answers b stBusy [])
        ∧ (v.toNat ≤ 11 → x.toNat ≤ 3 → idle →
          let pcs := ((List.range 64).filter fun i => w.getLsbD i).zip ps
          let marginal := pcs.filter fun q => if x.toNat < 2 then decide (windowPoints q.2 * 100 < 40 * 64) else decide (windowPoints q.2 * 5 < 60)
          let bs := (pcs.flatMap fun q => windowBytes q.2) ++ leBytes 8 (maskOf (marginal.map (·.1)))
          exec (.marginHbm h v w x ps) s = toBulk bs [BitVec.ofNat 64 bs.length]))
      ∧ (s.serves 0x0962 4 false h c →
        let lanes := (List.range 128).filter fun i => if i < 64 then w.getLsbD i else x.getLsbD (i - 64)
        let sound := v.toNat ≤ 7 ∧ y.toNat ≤ 1 ∧ ∀ i ∈ lanes, i < portLanes v.toNat
        (¬ sound → exec (.marginLink h v w x y ps) s = r.answers b stInvalid [])
        ∧ (sound → ¬ idle → exec (.marginLink h v w x y ps) s = r.answers b stBusy [])
        ∧ (sound → idle →
          let ws := (if y = 1 then lanes.flatMap fun i => [i, i, i] else lanes).zip ps
          let marginal := ws.filter fun q => if y = 0 then decide (windowPoints q.2 * 100 < 25 * 64) else decide (windowPoints q.2 * 2 < 20)
          let bs := (ws.flatMap fun q => windowBytes q.2) ++ leBytes 16 (maskOf (marginal.map (·.1)).eraseDups)
          exec (.marginLink h v w x y ps) s = toBulk bs [BitVec.ofNat 64 bs.length])))
    ∧ (∀ trig cls events post : W64, s.serves 0x0968 6 true h c →
      let set := Instr.traceConfig h v w trig cls events post
      let sound := v.toNat % 65536 = 0 ∧ w ≠ 0 ∧ w.toNat % 262144 = 0 ∧ trig.toNat ≤ 7 ∧ cls.toNat ≤ 255 ∧ events.toNat ≤ 1023 ∧ events.getLsbD 0 = false
      let taken := s.trace.cfg ≠ none ∨ (trig.getLsbD 0 = true ∧ s.host.claimed .syncIn 0 = true)
      (¬ sound → exec set s = r.answers b stInvalid [])
      ∧ (sound → taken → exec set s = r.answers b stConflict [])
      ∧ (sound → ¬ taken → let probe := r.probeAll 4 tracePinKey 0 h.job [{ va := v.toNat, len := w.toNat, write := true }] []
        (r.traceUnits h.job v.toNat (w.toNat / 65536) = none → exec set s = r.answers b stInvalid [])
        ∧ ((∀ ps, probe ≠ .ok ps) → exec set s = r.answers b stInvalid [])
        ∧ (∀ us ps, r.traceUnits h.job v.toNat (w.toNat / 65536) = some us → probe = .ok ps →
          (pinRoom < r.pinsIn 4 + ps.length → exec set s = .next (r.parkCmd b))
          ∧ (r.pinsIn 4 + ps.length ≤ pinRoom →
            let q : TraceCfg := { job := h.job, va := v.toNat, size := w.toNat, units := us, trig := trig.setWidth 3, cls := cls.setWidth 8, events := events.setWidth 10, post := post.toNat }
            ∃ u : State, exec set s = u.answers b stOk [] ∧ u.trace = { cfg := some q } ∧ u.xlt = { s.xlt with pins := s.xlt.pins ++ ps }
              ∧ u.host.claims = if trig.getLsbD 0 then s.host.claims ++ [{ kind := .syncIn, index := 0, job := h.job, opcode := 0x0968 }] else s.host.claims))))
    ∧ (s.serves 0x0969 1 false h c →
      (s.trace.cfg = none → exec (.traceArm h v) s = r.answers b stNotFound [])
      ∧ (∀ q, s.trace.cfg = some q →
        (1 < v.toNat → exec (.traceArm h v) s = r.answers b stInvalid [])
        ∧ (v.toNat ≤ 1 →
          let u : State := if s.trace.armed = true ∧ s.trace.fired = false then r else { r with trace := { cfg := some q, armed := true } }
          exec (.traceArm h v) s = (if v = 1 ∧ q.trig.getLsbD 2 = true then u.traceTrigger else u).answers b stOk [])))
    ∧ (s.serves 0x096A 0 false h c → ∃ u : State, exec (.traceRelease h) s = u.answers b stOk [] ∧ u.trace = {} ∧ u.mem = s.mem
      ∧ u.host.claims = (s.host.claims.filter fun x => !(x.kind = .syncIn && x.opcode = 0x0968)))
    ∧ (s.serves 0x096B 0 false h c →
      let bs := [0, 1, 2, 3].flatMap fun i => let q := s.traceHall i
        leBytes 8 q.written ++ leBytes 8 q.dropped ++ leBytes 8 (if q.stopped then 1 else 0) ++ leBytes 8 q.trigAt
      bs.length = 128 ∧ exec (.traceStatus h) s = toBulk bs [128])
    ∧ (exec .trigInEdge s = .next (if s.power.supply = .off then s
        else if (∃ q, s.trace.cfg = some q ∧ q.trig.getLsbD 0 = true) then (s.ownMark 2).traceTrigger else s.ownMark 2))

/-- The commands of both units (Tables 8.4 and 9.6, R241, R252, R262, R269, R271, R296): a sound factor or image is registered,
and the first field that breaks its rule answers INVALID with its offset; a factor or image of the job that no queued or
running task names is cleared or reset, and its record of the last task is written, all zeros but its flags before one; a
self-test of an idle ROOT answers PASS, or marks the ROOT failed, stops the solves that engage it and answers FAIL. A root task
(R249 to R264): the placed and pinned task begins once its list is read, and ends its graph where the list breaks its rule; a
block at or below its tolerance installs its root; a warm start above OMEGA starts cold; a breached guard, a second stall and
the last iteration take the direct path; past the deadline the task ends; otherwise the next iteration follows. A panel's
pivots are counted, an ill-conditioned block keeps its root, and the next panel or the root follows. At the end the status
records are written and the unit is done (R252). What a task reads of another part is fetched first, and an address that stops
it ends its graph. A row that meets no such task changes nothing. A solve (R284 to R293): the placed and pinned task engages
its SLVs, and the same row again ends its setup (log entry 135, the model's choice); an image hall that is fenced or failed
ends the graph, and so does a block that breaks its rule; at a boundary the residual is tested, and the deadline after it; a
peer's words fill its halo and it is not awaited again; silence ends the graph with SOLVE_PEER_TIMEOUT; the end writes x and
the record, and the unit is done. A unit task probes and pins its ranges (R413). What a task reads of another part is fetched
first, and an address that stops it ends its graph. A row that meets no such task changes nothing. -/
def Obligations.RootAndSolveCommands : Prop :=
  (∀ (h : CmdHdr) (c : Cmd) (s : State) (v w : W64),
      let r := s.begin_ c
      let b := s.begun c
      let d := r.dropHub h.job
      let bad := fun (o : Nat) => d.answers b stInvalid [BitVec.ofNat 64 o]
      (s.serves 0x0B01 1 true h c →
        (∀ k, (∀ bs, r.hubRead h.job v.toNat 256 ≠ .ok bs) → exec (.rootFactorSet h v) s = .next (r.cmdRead b h.job v.toNat 256 k))
        ∧ (∀ bs, r.hubRead h.job v.toNat 256 = .ok bs →
          (∀ o, factorBad bs h.job = some o → exec (.rootFactorSet h v) s = bad o)
          ∧ (factorBad bs h.job = none → exec (.rootFactorSet h v) s =
            if s.factor (RootFactor.parse bs).fid = none then (d.setRoots { d.roots with factors := d.roots.factors ++ [RootFactor.parse bs] }).answers b stOk []
            else d.answers b stConflict [])))
      ∧ (s.factorOf h.job v = none →
        (s.serves 0x0B02 1 true h c → exec (.rootFactorClear h v) s = r.answers b stInvalid [])
        ∧ (s.serves 0x0B03 2 true h c → exec (.rootStatus h v w) s = r.answers b stInvalid [])
        ∧ (s.serves 0x0B04 2 true h c → exec (.rootReset h v w) s = r.answers b stInvalid []))
      ∧ (∀ f, s.factorOf h.job v = some f →
        (s.serves 0x0B02 1 true h c →
          (∀ k, r.factorBusy f ≠ .ok false → exec (.rootFactorClear h v) s = .next (r.unlessBusy b f.job (r.factorBusy f) k))
          ∧ (r.factorBusy f = .ok false → exec (.rootFactorClear h v) s =
            (d.setRoots { d.roots with factors := d.roots.factors.filter fun x => x.fid ≠ f.fid }).answers b stOk []))
        ∧ (s.serves 0x0B03 2 true h c → exec (.rootStatus h v w) s =
          .next (r.cmdWrite b h.job w.toNat (if f.status = [] then RootStat.bytes {} f 0 else f.status) []))
        ∧ (s.serves 0x0B04 2 true h c →
          (3 < w.toNat → exec (.rootReset h v w) s = r.answers b stInvalid [])
          ∧ (∀ k, w.toNat ≤ 3 → r.factorBusy f ≠ .ok false → exec (.rootReset h v w) s = .next (r.unlessBusy b f.job (r.factorBusy f) k))
          ∧ (r.factorBusy f = .ok false →
            let zeros := List.replicate (4 * f.elems) (0 : Byte)
            (exec (.rootReset h v 0) s = (d.putFactor f).answers b stOk [])
            ∧ (exec (.rootReset h v 1) s = .next ((d.putFactor { f with fValid := false, written := [] }).cmdWrite b h.job f.fPtr zeros []))
            ∧ (exec (.rootReset h v 2) s = (d.putFactor { f with rootValid := false, inService := [] }).answers b stOk [])
            ∧ (exec (.rootReset h v 3) s = .next ((d.putFactor { f with fValid := false, written := [], rootValid := false, inService := [] }).cmdWrite b
                h.job f.fPtr zeros [])))))
      ∧ (s.serves 0x0B05 1 false h c → ∀ pass, exec (.rootSelftest h v pass) s =
        if 3 < v.toNat then r.answers b stInvalid [] else if r.rootBusy v.toNat = true then r.answers b stBusy []
        else if pass = true then r.answers b 0x10 [] else ((r.failRoot v.toNat).stopSolves v.toNat).answers b 0x11 [])
      ∧ (s.serves 0x0B10 1 true h c →
        (v.toNat % 128 ≠ 0 → exec (.solveImageSet h v) s = r.answers b stInvalid [0])
        ∧ (∀ k, v.toNat % 128 = 0 → (∀ bs, r.hubRead h.job v.toNat 192 ≠ .ok bs) → exec (.solveImageSet h v) s = .next (r.cmdPeek b h.job v.toNat 192 k))
        ∧ (∀ hd, v.toNat % 128 = 0 → r.hubRead h.job v.toNat 192 = .ok hd →
          let n := leAt hd 0xA0 8
          (∀ o, imageHeaderBad hd = some o → exec (.solveImageSet h v) s = bad o)
          ∧ (imageHeaderBad hd = none →
            (∀ k, (∀ bs, r.hubRead h.job v.toNat n ≠ .ok bs) → exec (.solveImageSet h v) s = .next (r.cmdRead b h.job v.toNat n k))
            ∧ (∀ bs, r.hubRead h.job v.toNat n = .ok bs →
              let free := (List.range 256).find? fun k => (s.image k).isNone
              (free = none → exec (.solveImageSet h v) s = d.answers b stBusy [])
              ∧ (∀ id, free = some id → let img := SolveImage.parse id s.solver.nextReg h.job v.toNat bs
                (∀ o, imageBodyBad bs img = some o → exec (.solveImageSet h v) s = bad o)
                ∧ (imageBodyBad bs img = none → exec (.solveImageSet h v) s =
                  (d.setSolver { d.solver with images := s.solver.images ++ [img], nextReg := s.solver.nextReg + 1 }).answers b stOk [BitVec.ofNat 64 id]))))))
      ∧ (s.imageOf h.job v = none →
        (s.serves 0x0B11 1 true h c → exec (.solveImageClear h v) s = r.answers b stInvalid [])
        ∧ (s.serves 0x0B12 2 true h c → exec (.solveStatus h v w) s = r.answers b stInvalid []))
      ∧ (∀ i, s.imageOf h.job v = some i →
        (s.serves 0x0B11 1 true h c → exec (.solveImageClear h v) s =
          if (∃ q ∈ r.tasksOfKind 5, q.2.2.1.hdr.job = h.job ∧ q.2.2.2.body.toNat = i.va) then r.answers b stBusy []
          else (r.setSolver { r.solver with images := r.solver.images.filter fun x => x.id ≠ i.id }).answers b stOk [])
        ∧ (s.serves 0x0B12 2 true h c → exec (.solveStatus h v w) s = .next (r.cmdWrite b h.job w.toNat (padTo 64 i.status) []))))
  ∧ (∀ (s : State) (hall : Fin 4) (past : Bool) (g : Fin 8) (task : Nat),
      let h := hall.val
      let run := exec (.rootTaskRun hall g task) s
      (s.power.supply ≠ .on ∨ s.rootRun h ≠ none ∨ s.hallRuns h = false → run = .next s)
      ∧ (s.power.supply = .on → s.rootRun h = none → s.hallRuns h = true → let u := s.rootProbe h g.val task
        (u.unitTask g.val task 4 = none → run = .next u)
        ∧ (∀ gr ts rec, u.unitTask g.val task 4 = some (gr, ts, rec) →
          (ts.probed = false ∨ rec.placeHall ≠ h → run = .next u)
          ∧ (ts.probed = true → rec.placeHall = h → match u.rootRead h gr rec with
            | .ok (some (b, fs)) => let p := u.rootBegin h g.val task gr ts b fs
              run = .next (u.rootDo h p.1 p.2)
            | .ok none => run = .next ((u.dropHub gr.hdr.job).failTask g.val task 0x22)
            | e => run = .next (u.unitStop h g.val task gr.hdr.job ts.tags e))))
      ∧ (s.power.below42 = true ∨ s.rootRun h = none → exec (.rootIterationBoundary hall past) s = .next s ∧ exec (.rootPanelBoundary hall past) s = .next s)
      ∧ (∀ r, s.power.below42 = false → s.rootRun h = some r →
        let late := s.rootIsLate h r past = true
        let gone := (s.hallLc h - r.start).toNat
        (late ↔ r.deadline ≠ 0 ∧ (r.deadline < gone ∨ r.deadline = gone ∧ past = true))
        ∧ ((∀ w, r.phase ≠ .newton w) → exec (.rootIterationBoundary hall past) s = .next s)
        ∧ ((∀ l x m, r.phase ≠ .direct l x m) → exec (.rootPanelBoundary hall past) s = .next s)
        ∧ (∀ f, s.factor (r.facs.getD r.fac 0) = some f → let n := f.blkn.getD r.blk 0
          (∀ w, r.phase = .newton w →
            let e := newtonE n w.m
            let res := amaxOf e
            let q := r.modStat r.fac fun st => { st with resid := res }
            let tooWarm := w.warm = true ∧ w.k = 0 ∧ (val32 f.omega).lt (val32 res) = true
            let done := (val32 f.tol).lt (val32 res) = false
            let stall := if 3 ≤ w.k ∧ (val32 res).lt (val32 w.rPrev) = false then w.stall + 1 else 0
            let last := stall = 2 ∨ w.k = w.itmax
            (tooWarm → exec (.rootIterationBoundary hall past) s = .next ((if late then s.rootLate h (q.flag 0x40)
              else s.setRootRun h (some { q.flag 0x40 with phase := .newton (coldStart f w.scale n w.a) })).dropHub r.job))
            ∧ (¬ tooWarm → done → exec (.rootIterationBoundary hall past) s = .next (s.rootDo h q (s.rootInstall h q f (if w.warm then 1 else 2) w.root)))
            ∧ (¬ tooWarm → ¬ done → w.breached = true ∨ last → exec (.rootIterationBoundary hall past) s =
              .next (s.rootDo h q (s.rootFallback h (q.flag (if w.breached = true then 0x04 else 0x08)) f w.scale (s.rootIsLate h r past))))
            ∧ (¬ tooWarm → ¬ done → w.breached = false → ¬ last → exec (.rootIterationBoundary hall past) s = .next ((if late then s.rootLate h q
              else s.setRootRun h (some { (q.modStat r.fac fun st => { st with iters := st.iters + 1 }) with phase := .newton (w.advance f.logp n e res stall) })).dropHub r.job)))
          ∧ (∀ p rest result mid, r.phase = .direct (p :: rest) result mid →
            let u := if p = 0 then s else s.count .rootPivots 0 p
            let q := r.modStat r.fac fun st => { st with pivReg := st.pivReg + p }
            let kept := u.rootDo h q (u.rootNext h ((q.flag 0x20).outcome r.fac r.blk 5 (s.hallLc h)))
            (rest = [] → mid = true → exec (.rootPanelBoundary hall past) s = .next kept)
            ∧ (¬ (rest = [] ∧ mid = true) → late → exec (.rootPanelBoundary hall past) s = .next (u.rootLate h q))
            ∧ (rest = [] → mid = false → ¬ late → exec (.rootPanelBoundary hall past) s = .next (match result with
              | none => kept
              | some root => u.rootDo h q (u.rootInstall h q f 3 root)))
            ∧ (rest ≠ [] → ¬ late → exec (.rootPanelBoundary hall past) s = .next (u.setRootRun h (some { q with phase := .direct rest result mid })))))
        ∧ (∀ q f sc, s.rootFallback h q f sc true = .ok (s.rootLate h q))
        ∧ (∀ q f sc bs, s.rootBlock q f = .ok bs → s.rootFallback h q f sc false = .ok (s.setRootRun h (some (q.goDirect f sc (f.blkn.getD q.blk 0) bs)))))
      ∧ (∀ r (a : Acc State), (∀ t, a = .ok t → s.rootDo h r a = t.dropHub r.job)
        ∧ (∀ va pa n, a = .remote va pa n → s.rootDo h r a = s.hubFetch r.job va pa n)
        ∧ (∀ x p, a = .err x p → s.rootDo h r a = (s.setRootRun h none).unitAddress h r.graph r.task r.tags x p)
        ∧ (∀ k va lo n, a = .fault k va lo n → s.rootDo h r a = (s.setRootRun h none).unitAddress h r.graph r.task r.tags va false))
      ∧ ((∀ r, s.rootRun h = some r → r.phase ≠ .finished) → exec (.rootTaskDone hall) s = .next s)
      ∧ (∀ r, s.rootRun h = some r → r.phase = .finished →
        let recs := (r.facs.zip r.stats).map fun p => (s.factor p.1).elim (List.replicate 64 0) fun f => p.2.bytes f r.step
        let written := s.taskWrite r.graph r.task r.job r.tags r.statusPtr recs.flatten
        (∀ t, written = .ok t → ∃ v : State, exec (.rootTaskDone hall) s =
            .next (((v.setRootRun h none).modTask r.graph r.task fun ts => { ts with unitDone := true }).dropHub r.job)
          ∧ v.mem = t.mem ∧ v.graphs = t.graphs ∧ v = t.setRoots { t.roots with factors := v.roots.factors })
        ∧ (∀ k, (∀ t, written ≠ .ok t) → exec (.rootTaskDone hall) s = .next (s.rootDo h r (accMap k written)))))
  ∧ (∀ (s : State) (hall : Fin 4) (past : Bool) (g : Fin 8) (task : Nat) (peer : SolvePeer),
      let h := hall.val
      let run := exec (.solveTaskRun hall g task peer) s
      (s.power.supply ≠ .on ∨ s.hallRuns h = false → run = .next s)
      ∧ (s.power.supply = .on → s.hallRuns h = true → s.solveRun h = none → let u := s.solveProbe h g.val task
        (u.unitTask g.val task 5 = none → run = .next u)
        ∧ (∀ gr ts rec, u.unitTask g.val task 5 = some (gr, ts, rec) →
          (ts.probed = false ∨ rec.placeHall ≠ h → run = .next u)
          ∧ (ts.probed = true → rec.placeHall = h → match u.solveRead h gr rec with
            | .ok (some (i, p)) => run = .next (if (∃ k ∈ i.halls, u.hallRuns k = false ∨ u.roots.failed.getLsbD k = true)
                then (u.dropHub gr.hdr.job).failTask g.val task 0x2A else (u.solveEngage h g.val task gr ts i p).dropHub gr.hdr.job)
            | .ok none => run = .next ((u.dropHub gr.hdr.job).failTask g.val task 0x22)
            | e => run = .next (u.unitStop h g.val task gr.hdr.job ts.tags e))))
      ∧ (s.solveRun h = none → exec (.solveIterationBoundary hall past peer) s = .next s ∧ exec (.solvePeerTimeout hall) s = .next s
        ∧ exec (.solveDone hall) s = .next s ∧ ∀ part words, exec (.solveReadiness hall part words peer) s = .next s)
      ∧ (∀ r, s.solveRun h = some r → s.image r.image = none → run = .next s ∧ exec (.solveIterationBoundary hall past peer) s = .next s
        ∧ exec (.solvePeerTimeout hall) s = .next s ∧ ∀ part words, exec (.solveReadiness hall part words peer) s = .next s)
      ∧ (∀ r i, s.solveRun h = some r → s.image r.image = some i →
        let late := s.solveIsLate h r past
        let gone := (s.hallLc h - r.start).toNat
        (late = true ↔ r.params.deadline ≠ 0 ∧ (r.params.deadline < gone ∨ r.params.deadline = gone ∧ past = true))
        ∧ (s.power.supply = .on → s.hallRuns h = true → run = .next (if r.stage = .setup ∧ r.graph = g.val ∧ r.task = task
            then s.solveDo h g.val task r.job r.tags (s.solveBegin h i r peer) else s))
        ∧ (exec (.solveIterationBoundary hall past peer) s = .next (if r.stage = .boundary
            then s.solveGo h (({ img := i, run := r, peer := peer } : Sv).test late) else s))
        ∧ (∀ part words,
          let slots := ((List.range i.nhalo).zip i.gather).filterMap fun p => if p.2.src = part then some p.1 else none
          let halo := ((slots.zip words).map fun p => (p.1, p.2.toInt)).foldl (fun (m : SMap Int) p => m.set 0 p.1 p.2) r.halo
          exec (.solveReadiness hall part words peer) s = .next (if r.stage.gathers = true ∧ part ∈ i.sources ∧ ¬ part ∈ r.ready
            then s.solveGo h { img := i, run := { r with halo := halo, ready := r.ready ++ [part] }, peer := peer } else s))
        ∧ (let last := s.solveRecord h { r with outcome := 8 }
          (r.stage = .finished ∨ i.npart = 1 → exec (.solvePeerTimeout hall) s = .next s)
          ∧ (∀ t, r.stage ≠ .finished → i.npart ≠ 1 → last = .ok t →
            exec (.solvePeerTimeout hall) s = .next (((t.setSolveRun h none).failTask r.graph r.task 0x29).dropHub r.job))
          ∧ (∀ k, r.stage ≠ .finished → i.npart ≠ 1 → (∀ t, last ≠ .ok t) →
            exec (.solvePeerTimeout hall) s = .next (s.solveDo h r.graph r.task r.job r.tags (accMap k last)))))
      ∧ (∀ r, s.solveRun h = some r →
        let x := wordBytes ((List.range r.vals.x.w.length).map fun k => f32 (r.vals.x.val k))
        let first := if r.outcome ≤ 4 then s.taskWrite r.graph r.task r.job r.tags r.params.xPtr x else .ok s
        let both := accBind first fun u => u.solveRecord h r
        (r.stage ≠ .finished → exec (.solveDone hall) s = .next s)
        ∧ (∀ t, r.stage = .finished → both = .ok t →
          exec (.solveDone hall) s = .next (((t.setSolveRun h none).modTask r.graph r.task fun ts => { ts with unitDone := true }).dropHub r.job))
        ∧ (∀ k, r.stage = .finished → (∀ t, both ≠ .ok t) →
          exec (.solveDone hall) s = .next (s.solveDo h r.graph r.task r.job r.tags (accMap k both))))
      ∧ (∀ job tags (a : Acc State), (∀ t, a = .ok t → s.solveDo h g.val task job tags a = t.dropHub job)
        ∧ (∀ va pa n, a = .remote va pa n → s.solveDo h g.val task job tags a = s.hubFetch job va pa n)
        ∧ (∀ x p, a = .err x p → s.solveDo h g.val task job tags a = (s.setSolveRun h none).unitAddress h g.val task tags x p)
        ∧ (∀ k va lo n, a = .fault k va lo n → s.solveDo h g.val task job tags a = (s.setSolveRun h none).unitAddress h g.val task tags va false)))

/-! ### Frames and invariants -/

/-- Every instruction of Tables 3.4 and 3.6 that only computes, moves an immediate, reads a system value or branches completes,
and leaves everything but its own thread and the issue stamp as it was: memory, scratch, the aisle stores, the slots, every
other thread; and of its own thread every register but XD, or XL of a transfer with LINK (R95 to R98, R115). -/
def Obligations.RegisterInstructionsFrame : Prop :=
  ∀ (t : ThreadRef) (f : ScalarF) (b : ControlF) (s : State) (th : Thread),
    let cs : List (BitVec 6 × Instr) := [(0, .add t f), (1, .sub t f), (2, .mul t f), (3, .mulhu t f), (4, .and t f), (5, .or t f), (6, .xor t f),
      (7, .shl t f), (8, .shr t f), (9, .sar t f), (10, .min t f), (11, .max t f), (12, .slt t f), (13, .sltu t f)]
    let ds : List (BitVec 6 × Instr) := [(1, .beq t b), (2, .bne t b), (3, .blt t b), (4, .bge t b), (5, .bltu t b), (6, .bgeu t b)]
    let frame := fun (i : Instr) (written : Option (BitVec 5)) => ∃ u : State, exec i s = .next u ∧ u = { s with threads := u.threads, clock := u.clock }
      ∧ (∀ k, k ≠ tkey t → u.thread k = s.thread k)
      ∧ ∃ x, u.thread (tkey t) = some x ∧ x = { th with x := x.x, pc := x.pc, issued := x.issued, fetched := x.fetched }
        ∧ ∀ r, some r ≠ written → x.xr r = th.xr r
    ((f.i = false → bits f.low 0 38 = 0) → ∀ c ∈ cs, s.issues t (scalarWord c.1 f) th → frame c.2 (some f.xd))
    ∧ (f.i = true → f.xa = 0 → (s.issues t (scalarWord 0x0E f) th → frame (.movi t f) (some f.xd))
      ∧ (s.issues t (scalarWord 0x0F f) th → f.low.toNat < 2 ^ 21 → frame (.movhi t f) (some f.xd))
      ∧ (s.issues t (scalarWord 0x12 f) th → (s.graph th.graph).isSome = true → f.low.toNat ≤ 6 → frame (.rdsys t f) (some f.xd)))
    ∧ (b.rsv = 0 → b.link = false → b.xl = 0 → ∀ c ∈ ds, s.issues t (controlWord c.1 b) th → frame c.2 none)
    ∧ (b.rsv = 0 → b.xb = 0 → (b.link = false → b.xl = 0) →
      (b.xa = 0 → s.issues t (controlWord 0 b) th → frame (.br t b) (if b.link then some b.xl else none))
      ∧ (b.offs = 0 → (th.xr b.xa).toNat % 8 = 0 → s.issues t (controlWord 8 b) th → frame (.jr t b) (if b.link then some b.xl else none)))

/-- ST, DST, CST and MST store the bytes of their width at their scratch address and no other byte: every other byte of
scratch, the aisle stores, memory and every other thread are as before (R101, R109). A store that must wait for a pending move
or drain changes nothing but its thread's status (R116). A landed WRITE of memory stores its payload at its address and no
other byte, an ATOMIC one aligned word, a READ nothing (R452, R454). -/
def Obligations.StoresFrame : Prop :=
  (∀ (t : ThreadRef) (f : ScalarF) (m : MoveRegF) (s : State) (th : Thread),
      let base := skey t.st * 786432
      let stores := fun (i : Instr) (a n : Nat) (bs : List Byte) =>
        let h := s.holdFor (tkey t) th [] [⟨0, a, a + n⟩]
        (∀ w, h = some w → exec i s = .next (s.setThread (tkey t) (some { th with status := .held w })))
        ∧ (h = none → ∃ u : State, exec i s = .next u ∧ u.scratch.read (base + a) n = bs
          ∧ (∀ x, x < base + a ∨ base + a + n ≤ x → u.scratch.get x = s.scratch.get x)
          ∧ u.aisleMem = s.aisleMem ∧ u.mem = s.mem ∧ u.poison = s.poison ∧ u.stalls = s.stalls ∧ ∀ k, k ≠ tkey t → u.thread k = s.thread k)
      (∀ a, a = (th.xr f.xa + f.low.signExtend 64).toNat →
        s.issues t (scalarWord 0x11 f) th → f.i = true → a % 8 = 0 → a < 786432 → stores (.st t f) a 8 (leBytes 8 (th.xr f.xd).toNat))
      ∧ (∀ a, a = (th.xr m.xa).toNat →
        m.rsv = 0 → m.dsrc = 0 → a + 64 ≤ 786432 →
        (∀ w, s.issues t (moveRegWord 0x0A m) th → m.creg = 0 → m.mreg = 0 → th.dr m.dreg = some w → s.readCheck th m.dreg = none → a % 64 = 0 →
          stores (.dst t m) a 64 (leBytes 64 w.toNat))
        ∧ (s.issues t (moveRegWord 0x0C m) th → m.dreg = 0 → m.mreg = 0 → a % 32 = 0 →
          stores (.cst t m) a 32 (leBytes 32 (th.c.get 0 m.creg.toNat).toNat))
        ∧ (s.issues t (moveRegWord 0x0E m) th → m.dreg = 0 → m.creg = 0 → a % 16 = 0 →
          stores (.mst t m) a 16 (leBytes 16 (th.m.get 0 m.mreg.toNat).toNat))))
  ∧ (∀ (s u : State) (p : Pkt),
      let off := p.addr.toNat % 2 ^ 44
      let frame := fun (v : State) (n : Nat) => (∀ a, a < off ∨ off + n ≤ a → v.mem.get a = s.mem.get a) ∧ v.scratch = s.scratch ∧ v.aisleMem = s.aisleMem
        ∧ v.threads = s.threads ∧ v.graphs = s.graphs ∧ v.bell = s.bell ∧ v.till = s.till
      (s.takes p 0x02 u → 0 < p.payload.length → p.payload.length ≤ 32 * (p.plen.toNat % 128) → p.payload.length ≤ 2048 →
        off % 2048 + p.payload.length ≤ 2048 → off < 0x18000000000 → u.writable off p.payload.length = true →
        ∃ v, exec (.write p) s = .next v ∧ frame v p.payload.length ∧ v.mem.read off p.payload.length = p.payload)
      ∧ (s.takes p 0x03 u → off % 8 = 0 → u.mapped off = true → u.poisoned off 8 = false → p.opx.toNat ≤ 3 →
        ∃ v, exec (.atomic p) s = .next v ∧ frame v 8)
      ∧ (s.takes p 0x01 u → off < 0x18000000000 → ∃ v, exec (.read p) s = .next v ∧ frame v 0 ∧ v.mem = s.mem))

/-- No command ends in a fault or a refusal: every step of every state answers a next state. -/
def Obligations.EveryStepGoesOn : Prop := ∀ s : State, goesOn (step s)

/-- Every step keeps the byte stores canonical (memory, scratch, the aisle stores): addresses rise and no zero byte is listed. -/
def Obligations.StoresStayCanonical : Prop := ∀ s u : State, s.storesWf → step s = .next u → u.storesWf
end

