-- ==== Sys2Proof/Laws/SMap.lean ====
section
/-! SUPPORT. The laws of sparse maps and byte stores: read after write, and the canonical form is kept. -/

namespace Sys2Proof.Machine

namespace SMap

variable {α : Type}

theorem get_erase (d : α) (m : SMap α) (a b : Nat) :
    get d (erase m a) b = if b = a then d else get d m b := by
  induction m with
  | nil => simp [erase, get]
  | cons p m ih =>
    obtain ⟨k, v⟩ := p
    by_cases h : k = a
    · subst h
      simp only [erase, if_true, ih, get]
      by_cases hb : b = k
      · simp [hb]
      · simp [hb, Ne.symm hb]
    · simp only [erase, h, if_false, get, ih]
      by_cases hb : b = a
      · subst hb; simp [h]
      · simp [hb]

theorem get_ins (d : α) (m : SMap α) (a b : Nat) (v : α) :
    get d (ins m a v) b = if b = a then v else get d m b := by
  induction m with
  | nil =>
    by_cases hb : b = a
    · simp [ins, get, hb]
    · simp [ins, get, hb, Ne.symm hb]
  | cons p m ih =>
    obtain ⟨k, w⟩ := p
    simp only [ins]
    by_cases h1 : a < k
    · simp only [h1, if_true, get]
      by_cases hb : b = a
      · simp [hb]
      · simp [hb, Ne.symm hb]
    · by_cases h2 : a = k
      · subst h2
        simp only [h1, if_false, if_true, get]
        by_cases hb : b = a
        · simp [hb]
        · simp [hb, Ne.symm hb]
      · simp only [h1, h2, if_false, get, ih]
        by_cases hb : b = a
        · subst hb; simp [Ne.symm h2]
        · simp [hb]

@[simp] theorem get_set [DecidableEq α] (d : α) (m : SMap α) (a b : Nat) (v : α) :
    get d (set d m a v) b = if b = a then v else get d m b := by
  unfold set
  split
  · next h => subst h; exact get_erase v m a b
  · exact get_ins d m a b v

theorem get_set_same [DecidableEq α] (d : α) (m : SMap α) (a : Nat) (v : α) :
    get d (set d m a v) a = v := by simp

theorem get_set_other [DecidableEq α] (d : α) (m : SMap α) {a b : Nat} (v : α) (h : b ≠ a) :
    get d (set d m a v) b = get d m b := by simp [h]

theorem all_erase (m : SMap α) (a : Nat) (p : Nat × α → Bool) (h : m.all p = true) :
    (erase m a).all p = true := by
  induction m with
  | nil => rfl
  | cons q m ih =>
    obtain ⟨k, v⟩ := q
    simp only [List.all_cons, Bool.and_eq_true] at h
    simp only [erase]
    split
    · exact ih h.2
    · simp [h.1, ih h.2]

theorem wf_erase [DecidableEq α] (d : α) (m : SMap α) (a : Nat) (h : wf d m = true) :
    wf d (erase m a) = true := by
  induction m with
  | nil => rfl
  | cons q m ih =>
    obtain ⟨k, v⟩ := q
    simp only [wf, Bool.and_eq_true] at h
    simp only [erase]
    split
    · exact ih h.2
    · simp only [wf, Bool.and_eq_true]
      exact ⟨⟨h.1.1, all_erase m a _ h.1.2⟩, ih h.2⟩

theorem all_ins (m : SMap α) (a : Nat) (v : α) (p : Nat × α → Bool) (h : m.all p = true)
    (ha : p (a, v) = true) : (ins m a v).all p = true := by
  induction m with
  | nil => simp [ins, ha]
  | cons q m ih =>
    obtain ⟨k, w⟩ := q
    simp only [List.all_cons, Bool.and_eq_true] at h
    simp only [ins]
    split
    · simp [ha, h.1, h.2]
    · split
      · simp [ha, h.2]
      · simp [h.1, ih h.2]

theorem wf_ins [DecidableEq α] (d : α) (m : SMap α) (a : Nat) (v : α) (hv : v ≠ d)
    (h : wf d m = true) : wf d (ins m a v) = true := by
  induction m with
  | nil => simp [ins, wf, hv]
  | cons q m ih =>
    obtain ⟨k, w⟩ := q
    have h' := h
    simp only [wf, Bool.and_eq_true] at h
    obtain ⟨⟨hw, hall⟩, hm⟩ := h
    simp only [ins]
    split
    · next hlt =>
      have hall' : (m.all fun p => decide (a < p.1)) = true := by
        rw [List.all_eq_true] at hall ⊢
        intro p hp
        have := hall p hp
        simp only [decide_eq_true_eq] at this ⊢
        omega
      rw [wf]
      simp only [Bool.and_eq_true, List.all_cons, decide_eq_true_eq]
      exact ⟨⟨by simpa using hv, hlt, hall'⟩, h'⟩
    · split
      · next _ heq => subst heq; simp [wf, hv, hall, hm]
      · next h1 h2 =>
        have hk : k < a := by omega
        simp only [wf, Bool.and_eq_true]
        exact ⟨⟨hw, all_ins m a v _ hall (by simpa using hk)⟩, ih hm⟩

theorem wf_set [DecidableEq α] (d : α) (m : SMap α) (a : Nat) (v : α) (h : wf d m = true) :
    wf d (set d m a v) = true := by
  unfold set
  split
  · exact wf_erase d m a h
  · next hv => exact wf_ins d m a v hv h

end SMap

namespace Memory

@[simp] theorem get_set (m : Memory) (a b : Nat) (v : Byte) :
    (m.set a v).get b = if b = a then v else m.get b := SMap.get_set _ m a b v

theorem wf_set (m : Memory) (a : Nat) (v : Byte) (h : m.wf = true) : (m.set a v).wf = true :=
  SMap.wf_set _ m a v h

theorem wf_write (bs : List Byte) (m : Memory) (a : Nat) (h : m.wf = true) :
    (m.write a bs).wf = true := by
  induction bs generalizing m a with
  | nil => exact h
  | cons b bs ih => exact ih _ _ (wf_set m a b h)

/-- A block write leaves every byte outside the block as it was. -/
theorem get_write_outside (bs : List Byte) (m : Memory) (a b : Nat)
    (h : b < a ∨ a + bs.length ≤ b) : (m.write a bs).get b = m.get b := by
  induction bs generalizing m a with
  | nil => rfl
  | cons x bs ih =>
    simp only [List.length_cons] at h
    rw [Memory.write, ih _ _ (by omega), get_set, if_neg (by omega)]

/-- A block write is read back where it was written. -/
theorem get_write_inside (bs : List Byte) (m : Memory) (a i : Nat) (h : i < bs.length) :
    (m.write a bs).get (a + i) = bs[i] := by
  induction bs generalizing m a i with
  | nil => simp at h
  | cons x bs ih =>
    cases i with
    | zero =>
      rw [Memory.write, get_write_outside _ _ _ _ (by omega)]
      simp
    | succ i =>
      have := ih (m.set a x) (a + 1) i (by simpa using h)
      rw [Memory.write, show a + (i + 1) = a + 1 + i by omega, this]
      rfl

theorem read_length (m : Memory) (a n : Nat) : (m.read a n).length = n := by
  induction n generalizing a with
  | zero => rfl
  | succ n ih => simp [Memory.read, ih]

theorem read_write_same (bs : List Byte) (m : Memory) (a : Nat) :
    (m.write a bs).read a bs.length = bs := by
  apply List.ext_getElem
  · exact read_length _ _ _
  · intro i h1 h2
    have key : ∀ (m' : Memory) (n a i : Nat) (h : i < (m'.read a n).length),
        (m'.read a n)[i] = m'.get (a + i) := by
      intro m' n
      induction n with
      | zero => intro a i h; simp [Memory.read] at h
      | succ n ih =>
        intro a i h
        cases i with
        | zero => simp [Memory.read]
        | succ i =>
          simp only [Memory.read, List.getElem_cons_succ]
          rw [ih, show a + 1 + i = a + (i + 1) by omega]
    rw [key, get_write_inside bs m a i h2]

end Memory

end Sys2Proof.Machine
end

