-- ==== Sys2Proof/Laws/State.lean ====
section
/-! SUPPORT. One lemma per field per named update of the state: the field it writes holds the new value, every other field
is what it was. The updates of one entry that may find none (`modGraph`, `modTask`, `modThread`) have the same lemmas. -/

namespace Sys2Proof.Machine

/-! ### setHall -/

@[simp] theorem State.setHall_pending (s : State) (h : Nat) (v : HallInfo) : (s.setHall h v).pending = s.pending := rfl
@[simp] theorem State.setHall_sent (s : State) (h : Nat) (v : HallInfo) : (s.setHall h v).sent = s.sent := rfl
@[simp] theorem State.setHall_partNo (s : State) (h : Nat) (v : HallInfo) : (s.setHall h v).partNo = s.partNo := rfl
@[simp] theorem State.setHall_pstate (s : State) (h : Nat) (v : HallInfo) : (s.setHall h v).pstate = s.pstate := rfl
@[simp] theorem State.setHall_startStep (s : State) (h : Nat) (v : HallInfo) : (s.setHall h v).startStep = s.startStep := rfl
@[simp] theorem State.setHall_startNo (s : State) (h : Nat) (v : HallInfo) : (s.setHall h v).startNo = s.startNo := rfl
@[simp] theorem State.setHall_clock (s : State) (h : Nat) (v : HallInfo) : (s.setHall h v).clock = s.clock := rfl
@[simp] theorem State.setHall_halls (s : State) (h : Nat) (v : HallInfo) : (s.setHall h v).halls = s.halls.set {} h v := rfl
@[simp] theorem State.setHall_aisles (s : State) (h : Nat) (v : HallInfo) : (s.setHall h v).aisles = s.aisles := rfl
@[simp] theorem State.setHall_stalls (s : State) (h : Nat) (v : HallInfo) : (s.setHall h v).stalls = s.stalls := rfl
@[simp] theorem State.setHall_threads (s : State) (h : Nat) (v : HallInfo) : (s.setHall h v).threads = s.threads := rfl
@[simp] theorem State.setHall_scratch (s : State) (h : Nat) (v : HallInfo) : (s.setHall h v).scratch = s.scratch := rfl
@[simp] theorem State.setHall_aisleMem (s : State) (h : Nat) (v : HallInfo) : (s.setHall h v).aisleMem = s.aisleMem := rfl
@[simp] theorem State.setHall_mem (s : State) (h : Nat) (v : HallInfo) : (s.setHall h v).mem = s.mem := rfl
@[simp] theorem State.setHall_poison (s : State) (h : Nat) (v : HallInfo) : (s.setHall h v).poison = s.poison := rfl
@[simp] theorem State.setHall_healed (s : State) (h : Nat) (v : HallInfo) : (s.setHall h v).healed = s.healed := rfl
@[simp] theorem State.setHall_graphs (s : State) (h : Nat) (v : HallInfo) : (s.setHall h v).graphs = s.graphs := rfl
@[simp] theorem State.setHall_tally (s : State) (h : Nat) (v : HallInfo) : (s.setHall h v).tally = s.tally := rfl
@[simp] theorem State.setHall_bell (s : State) (h : Nat) (v : HallInfo) : (s.setHall h v).bell = s.bell := rfl
@[simp] theorem State.setHall_xlt (s : State) (h : Nat) (v : HallInfo) : (s.setHall h v).xlt = s.xlt := rfl
@[simp] theorem State.setHall_host (s : State) (h : Nat) (v : HallInfo) : (s.setHall h v).host = s.host := rfl
@[simp] theorem State.setHall_hbm (s : State) (h : Nat) (v : HallInfo) : (s.setHall h v).hbm = s.hbm := rfl
@[simp] theorem State.setHall_fab (s : State) (h : Nat) (v : HallInfo) : (s.setHall h v).fab = s.fab := rfl
@[simp] theorem State.setHall_till (s : State) (h : Nat) (v : HallInfo) : (s.setHall h v).till = s.till := rfl
@[simp] theorem State.setHall_masks (s : State) (h : Nat) (v : HallInfo) : (s.setHall h v).masks = s.masks := rfl
@[simp] theorem State.setHall_replay (s : State) (h : Nat) (v : HallInfo) : (s.setHall h v).replay = s.replay := rfl
@[simp] theorem State.setHall_power (s : State) (h : Nat) (v : HallInfo) : (s.setHall h v).power = s.power := rfl
@[simp] theorem State.setHall_boot (s : State) (h : Nat) (v : HallInfo) : (s.setHall h v).boot = s.boot := rfl
@[simp] theorem State.setHall_rescale (s : State) (h : Nat) (v : HallInfo) : (s.setHall h v).rescale = s.rescale := rfl
@[simp] theorem State.setHall_rescaleFull (s : State) (h : Nat) (v : HallInfo) : (s.setHall h v).rescaleFull = s.rescaleFull := rfl
@[simp] theorem State.setHall_sweeps (s : State) (h : Nat) (v : HallInfo) : (s.setHall h v).sweeps = s.sweeps := rfl
@[simp] theorem State.setHall_xchk (s : State) (h : Nat) (v : HallInfo) : (s.setHall h v).xchk = s.xchk := rfl
@[simp] theorem State.setHall_weightEpoch (s : State) (h : Nat) (v : HallInfo) : (s.setHall h v).weightEpoch = s.weightEpoch := rfl
@[simp] theorem State.setHall_layoutEpoch (s : State) (h : Nat) (v : HallInfo) : (s.setHall h v).layoutEpoch = s.layoutEpoch := rfl
@[simp] theorem State.setHall_weights (s : State) (h : Nat) (v : HallInfo) : (s.setHall h v).weights = s.weights := rfl
@[simp] theorem State.setHall_layouts (s : State) (h : Nat) (v : HallInfo) : (s.setHall h v).layouts = s.layouts := rfl
@[simp] theorem State.setHall_colls (s : State) (h : Nat) (v : HallInfo) : (s.setHall h v).colls = s.colls := rfl
@[simp] theorem State.setHall_replica (s : State) (h : Nat) (v : HallInfo) : (s.setHall h v).replica = s.replica := rfl
@[simp] theorem State.setHall_roots (s : State) (h : Nat) (v : HallInfo) : (s.setHall h v).roots = s.roots := rfl
@[simp] theorem State.setHall_solver (s : State) (h : Nat) (v : HallInfo) : (s.setHall h v).solver = s.solver := rfl
@[simp] theorem State.setHall_trace (s : State) (h : Nat) (v : HallInfo) : (s.setHall h v).trace = s.trace := rfl

/-! ### setAisle -/

@[simp] theorem State.setAisle_pending (s : State) (a : Nat) (v : AisleInfo) : (s.setAisle a v).pending = s.pending := rfl
@[simp] theorem State.setAisle_sent (s : State) (a : Nat) (v : AisleInfo) : (s.setAisle a v).sent = s.sent := rfl
@[simp] theorem State.setAisle_partNo (s : State) (a : Nat) (v : AisleInfo) : (s.setAisle a v).partNo = s.partNo := rfl
@[simp] theorem State.setAisle_pstate (s : State) (a : Nat) (v : AisleInfo) : (s.setAisle a v).pstate = s.pstate := rfl
@[simp] theorem State.setAisle_startStep (s : State) (a : Nat) (v : AisleInfo) : (s.setAisle a v).startStep = s.startStep := rfl
@[simp] theorem State.setAisle_startNo (s : State) (a : Nat) (v : AisleInfo) : (s.setAisle a v).startNo = s.startNo := rfl
@[simp] theorem State.setAisle_clock (s : State) (a : Nat) (v : AisleInfo) : (s.setAisle a v).clock = s.clock := rfl
@[simp] theorem State.setAisle_halls (s : State) (a : Nat) (v : AisleInfo) : (s.setAisle a v).halls = s.halls := rfl
@[simp] theorem State.setAisle_aisles (s : State) (a : Nat) (v : AisleInfo) : (s.setAisle a v).aisles = s.aisles.set {} a v := rfl
@[simp] theorem State.setAisle_stalls (s : State) (a : Nat) (v : AisleInfo) : (s.setAisle a v).stalls = s.stalls := rfl
@[simp] theorem State.setAisle_threads (s : State) (a : Nat) (v : AisleInfo) : (s.setAisle a v).threads = s.threads := rfl
@[simp] theorem State.setAisle_scratch (s : State) (a : Nat) (v : AisleInfo) : (s.setAisle a v).scratch = s.scratch := rfl
@[simp] theorem State.setAisle_aisleMem (s : State) (a : Nat) (v : AisleInfo) : (s.setAisle a v).aisleMem = s.aisleMem := rfl
@[simp] theorem State.setAisle_mem (s : State) (a : Nat) (v : AisleInfo) : (s.setAisle a v).mem = s.mem := rfl
@[simp] theorem State.setAisle_poison (s : State) (a : Nat) (v : AisleInfo) : (s.setAisle a v).poison = s.poison := rfl
@[simp] theorem State.setAisle_healed (s : State) (a : Nat) (v : AisleInfo) : (s.setAisle a v).healed = s.healed := rfl
@[simp] theorem State.setAisle_graphs (s : State) (a : Nat) (v : AisleInfo) : (s.setAisle a v).graphs = s.graphs := rfl
@[simp] theorem State.setAisle_tally (s : State) (a : Nat) (v : AisleInfo) : (s.setAisle a v).tally = s.tally := rfl
@[simp] theorem State.setAisle_bell (s : State) (a : Nat) (v : AisleInfo) : (s.setAisle a v).bell = s.bell := rfl
@[simp] theorem State.setAisle_xlt (s : State) (a : Nat) (v : AisleInfo) : (s.setAisle a v).xlt = s.xlt := rfl
@[simp] theorem State.setAisle_host (s : State) (a : Nat) (v : AisleInfo) : (s.setAisle a v).host = s.host := rfl
@[simp] theorem State.setAisle_hbm (s : State) (a : Nat) (v : AisleInfo) : (s.setAisle a v).hbm = s.hbm := rfl
@[simp] theorem State.setAisle_fab (s : State) (a : Nat) (v : AisleInfo) : (s.setAisle a v).fab = s.fab := rfl
@[simp] theorem State.setAisle_till (s : State) (a : Nat) (v : AisleInfo) : (s.setAisle a v).till = s.till := rfl
@[simp] theorem State.setAisle_masks (s : State) (a : Nat) (v : AisleInfo) : (s.setAisle a v).masks = s.masks := rfl
@[simp] theorem State.setAisle_replay (s : State) (a : Nat) (v : AisleInfo) : (s.setAisle a v).replay = s.replay := rfl
@[simp] theorem State.setAisle_power (s : State) (a : Nat) (v : AisleInfo) : (s.setAisle a v).power = s.power := rfl
@[simp] theorem State.setAisle_boot (s : State) (a : Nat) (v : AisleInfo) : (s.setAisle a v).boot = s.boot := rfl
@[simp] theorem State.setAisle_rescale (s : State) (a : Nat) (v : AisleInfo) : (s.setAisle a v).rescale = s.rescale := rfl
@[simp] theorem State.setAisle_rescaleFull (s : State) (a : Nat) (v : AisleInfo) : (s.setAisle a v).rescaleFull = s.rescaleFull := rfl
@[simp] theorem State.setAisle_sweeps (s : State) (a : Nat) (v : AisleInfo) : (s.setAisle a v).sweeps = s.sweeps := rfl
@[simp] theorem State.setAisle_xchk (s : State) (a : Nat) (v : AisleInfo) : (s.setAisle a v).xchk = s.xchk := rfl
@[simp] theorem State.setAisle_weightEpoch (s : State) (a : Nat) (v : AisleInfo) : (s.setAisle a v).weightEpoch = s.weightEpoch := rfl
@[simp] theorem State.setAisle_layoutEpoch (s : State) (a : Nat) (v : AisleInfo) : (s.setAisle a v).layoutEpoch = s.layoutEpoch := rfl
@[simp] theorem State.setAisle_weights (s : State) (a : Nat) (v : AisleInfo) : (s.setAisle a v).weights = s.weights := rfl
@[simp] theorem State.setAisle_layouts (s : State) (a : Nat) (v : AisleInfo) : (s.setAisle a v).layouts = s.layouts := rfl
@[simp] theorem State.setAisle_colls (s : State) (a : Nat) (v : AisleInfo) : (s.setAisle a v).colls = s.colls := rfl
@[simp] theorem State.setAisle_replica (s : State) (a : Nat) (v : AisleInfo) : (s.setAisle a v).replica = s.replica := rfl
@[simp] theorem State.setAisle_roots (s : State) (a : Nat) (v : AisleInfo) : (s.setAisle a v).roots = s.roots := rfl
@[simp] theorem State.setAisle_solver (s : State) (a : Nat) (v : AisleInfo) : (s.setAisle a v).solver = s.solver := rfl
@[simp] theorem State.setAisle_trace (s : State) (a : Nat) (v : AisleInfo) : (s.setAisle a v).trace = s.trace := rfl

/-! ### setStall -/

@[simp] theorem State.setStall_pending (s : State) (k : Nat) (v : StallInfo) : (s.setStall k v).pending = s.pending := rfl
@[simp] theorem State.setStall_sent (s : State) (k : Nat) (v : StallInfo) : (s.setStall k v).sent = s.sent := rfl
@[simp] theorem State.setStall_partNo (s : State) (k : Nat) (v : StallInfo) : (s.setStall k v).partNo = s.partNo := rfl
@[simp] theorem State.setStall_pstate (s : State) (k : Nat) (v : StallInfo) : (s.setStall k v).pstate = s.pstate := rfl
@[simp] theorem State.setStall_startStep (s : State) (k : Nat) (v : StallInfo) : (s.setStall k v).startStep = s.startStep := rfl
@[simp] theorem State.setStall_startNo (s : State) (k : Nat) (v : StallInfo) : (s.setStall k v).startNo = s.startNo := rfl
@[simp] theorem State.setStall_clock (s : State) (k : Nat) (v : StallInfo) : (s.setStall k v).clock = s.clock := rfl
@[simp] theorem State.setStall_halls (s : State) (k : Nat) (v : StallInfo) : (s.setStall k v).halls = s.halls := rfl
@[simp] theorem State.setStall_aisles (s : State) (k : Nat) (v : StallInfo) : (s.setStall k v).aisles = s.aisles := rfl
@[simp] theorem State.setStall_stalls (s : State) (k : Nat) (v : StallInfo) : (s.setStall k v).stalls = s.stalls.set {} k v := rfl
@[simp] theorem State.setStall_threads (s : State) (k : Nat) (v : StallInfo) : (s.setStall k v).threads = s.threads := rfl
@[simp] theorem State.setStall_scratch (s : State) (k : Nat) (v : StallInfo) : (s.setStall k v).scratch = s.scratch := rfl
@[simp] theorem State.setStall_aisleMem (s : State) (k : Nat) (v : StallInfo) : (s.setStall k v).aisleMem = s.aisleMem := rfl
@[simp] theorem State.setStall_mem (s : State) (k : Nat) (v : StallInfo) : (s.setStall k v).mem = s.mem := rfl
@[simp] theorem State.setStall_poison (s : State) (k : Nat) (v : StallInfo) : (s.setStall k v).poison = s.poison := rfl
@[simp] theorem State.setStall_healed (s : State) (k : Nat) (v : StallInfo) : (s.setStall k v).healed = s.healed := rfl
@[simp] theorem State.setStall_graphs (s : State) (k : Nat) (v : StallInfo) : (s.setStall k v).graphs = s.graphs := rfl
@[simp] theorem State.setStall_tally (s : State) (k : Nat) (v : StallInfo) : (s.setStall k v).tally = s.tally := rfl
@[simp] theorem State.setStall_bell (s : State) (k : Nat) (v : StallInfo) : (s.setStall k v).bell = s.bell := rfl
@[simp] theorem State.setStall_xlt (s : State) (k : Nat) (v : StallInfo) : (s.setStall k v).xlt = s.xlt := rfl
@[simp] theorem State.setStall_host (s : State) (k : Nat) (v : StallInfo) : (s.setStall k v).host = s.host := rfl
@[simp] theorem State.setStall_hbm (s : State) (k : Nat) (v : StallInfo) : (s.setStall k v).hbm = s.hbm := rfl
@[simp] theorem State.setStall_fab (s : State) (k : Nat) (v : StallInfo) : (s.setStall k v).fab = s.fab := rfl
@[simp] theorem State.setStall_till (s : State) (k : Nat) (v : StallInfo) : (s.setStall k v).till = s.till := rfl
@[simp] theorem State.setStall_masks (s : State) (k : Nat) (v : StallInfo) : (s.setStall k v).masks = s.masks := rfl
@[simp] theorem State.setStall_replay (s : State) (k : Nat) (v : StallInfo) : (s.setStall k v).replay = s.replay := rfl
@[simp] theorem State.setStall_power (s : State) (k : Nat) (v : StallInfo) : (s.setStall k v).power = s.power := rfl
@[simp] theorem State.setStall_boot (s : State) (k : Nat) (v : StallInfo) : (s.setStall k v).boot = s.boot := rfl
@[simp] theorem State.setStall_rescale (s : State) (k : Nat) (v : StallInfo) : (s.setStall k v).rescale = s.rescale := rfl
@[simp] theorem State.setStall_rescaleFull (s : State) (k : Nat) (v : StallInfo) : (s.setStall k v).rescaleFull = s.rescaleFull := rfl
@[simp] theorem State.setStall_sweeps (s : State) (k : Nat) (v : StallInfo) : (s.setStall k v).sweeps = s.sweeps := rfl
@[simp] theorem State.setStall_xchk (s : State) (k : Nat) (v : StallInfo) : (s.setStall k v).xchk = s.xchk := rfl
@[simp] theorem State.setStall_weightEpoch (s : State) (k : Nat) (v : StallInfo) : (s.setStall k v).weightEpoch = s.weightEpoch := rfl
@[simp] theorem State.setStall_layoutEpoch (s : State) (k : Nat) (v : StallInfo) : (s.setStall k v).layoutEpoch = s.layoutEpoch := rfl
@[simp] theorem State.setStall_weights (s : State) (k : Nat) (v : StallInfo) : (s.setStall k v).weights = s.weights := rfl
@[simp] theorem State.setStall_layouts (s : State) (k : Nat) (v : StallInfo) : (s.setStall k v).layouts = s.layouts := rfl
@[simp] theorem State.setStall_colls (s : State) (k : Nat) (v : StallInfo) : (s.setStall k v).colls = s.colls := rfl
@[simp] theorem State.setStall_replica (s : State) (k : Nat) (v : StallInfo) : (s.setStall k v).replica = s.replica := rfl
@[simp] theorem State.setStall_roots (s : State) (k : Nat) (v : StallInfo) : (s.setStall k v).roots = s.roots := rfl
@[simp] theorem State.setStall_solver (s : State) (k : Nat) (v : StallInfo) : (s.setStall k v).solver = s.solver := rfl
@[simp] theorem State.setStall_trace (s : State) (k : Nat) (v : StallInfo) : (s.setStall k v).trace = s.trace := rfl

/-! ### setThread -/

@[simp] theorem State.setThread_pending (s : State) (t : Nat) (v : Option Thread) : (s.setThread t v).pending = s.pending := rfl
@[simp] theorem State.setThread_sent (s : State) (t : Nat) (v : Option Thread) : (s.setThread t v).sent = s.sent := rfl
@[simp] theorem State.setThread_partNo (s : State) (t : Nat) (v : Option Thread) : (s.setThread t v).partNo = s.partNo := rfl
@[simp] theorem State.setThread_pstate (s : State) (t : Nat) (v : Option Thread) : (s.setThread t v).pstate = s.pstate := rfl
@[simp] theorem State.setThread_startStep (s : State) (t : Nat) (v : Option Thread) : (s.setThread t v).startStep = s.startStep := rfl
@[simp] theorem State.setThread_startNo (s : State) (t : Nat) (v : Option Thread) : (s.setThread t v).startNo = s.startNo := rfl
@[simp] theorem State.setThread_clock (s : State) (t : Nat) (v : Option Thread) : (s.setThread t v).clock = s.clock := rfl
@[simp] theorem State.setThread_halls (s : State) (t : Nat) (v : Option Thread) : (s.setThread t v).halls = s.halls := rfl
@[simp] theorem State.setThread_aisles (s : State) (t : Nat) (v : Option Thread) : (s.setThread t v).aisles = s.aisles := rfl
@[simp] theorem State.setThread_stalls (s : State) (t : Nat) (v : Option Thread) : (s.setThread t v).stalls = s.stalls := rfl
@[simp] theorem State.setThread_threads (s : State) (t : Nat) (v : Option Thread) : (s.setThread t v).threads = s.threads.set none t v := rfl
@[simp] theorem State.setThread_scratch (s : State) (t : Nat) (v : Option Thread) : (s.setThread t v).scratch = s.scratch := rfl
@[simp] theorem State.setThread_aisleMem (s : State) (t : Nat) (v : Option Thread) : (s.setThread t v).aisleMem = s.aisleMem := rfl
@[simp] theorem State.setThread_mem (s : State) (t : Nat) (v : Option Thread) : (s.setThread t v).mem = s.mem := rfl
@[simp] theorem State.setThread_poison (s : State) (t : Nat) (v : Option Thread) : (s.setThread t v).poison = s.poison := rfl
@[simp] theorem State.setThread_healed (s : State) (t : Nat) (v : Option Thread) : (s.setThread t v).healed = s.healed := rfl
@[simp] theorem State.setThread_graphs (s : State) (t : Nat) (v : Option Thread) : (s.setThread t v).graphs = s.graphs := rfl
@[simp] theorem State.setThread_tally (s : State) (t : Nat) (v : Option Thread) : (s.setThread t v).tally = s.tally := rfl
@[simp] theorem State.setThread_bell (s : State) (t : Nat) (v : Option Thread) : (s.setThread t v).bell = s.bell := rfl
@[simp] theorem State.setThread_xlt (s : State) (t : Nat) (v : Option Thread) : (s.setThread t v).xlt = s.xlt := rfl
@[simp] theorem State.setThread_host (s : State) (t : Nat) (v : Option Thread) : (s.setThread t v).host = s.host := rfl
@[simp] theorem State.setThread_hbm (s : State) (t : Nat) (v : Option Thread) : (s.setThread t v).hbm = s.hbm := rfl
@[simp] theorem State.setThread_fab (s : State) (t : Nat) (v : Option Thread) : (s.setThread t v).fab = s.fab := rfl
@[simp] theorem State.setThread_till (s : State) (t : Nat) (v : Option Thread) : (s.setThread t v).till = s.till := rfl
@[simp] theorem State.setThread_masks (s : State) (t : Nat) (v : Option Thread) : (s.setThread t v).masks = s.masks := rfl
@[simp] theorem State.setThread_replay (s : State) (t : Nat) (v : Option Thread) : (s.setThread t v).replay = s.replay := rfl
@[simp] theorem State.setThread_power (s : State) (t : Nat) (v : Option Thread) : (s.setThread t v).power = s.power := rfl
@[simp] theorem State.setThread_boot (s : State) (t : Nat) (v : Option Thread) : (s.setThread t v).boot = s.boot := rfl
@[simp] theorem State.setThread_rescale (s : State) (t : Nat) (v : Option Thread) : (s.setThread t v).rescale = s.rescale := rfl
@[simp] theorem State.setThread_rescaleFull (s : State) (t : Nat) (v : Option Thread) : (s.setThread t v).rescaleFull = s.rescaleFull := rfl
@[simp] theorem State.setThread_sweeps (s : State) (t : Nat) (v : Option Thread) : (s.setThread t v).sweeps = s.sweeps := rfl
@[simp] theorem State.setThread_xchk (s : State) (t : Nat) (v : Option Thread) : (s.setThread t v).xchk = s.xchk := rfl
@[simp] theorem State.setThread_weightEpoch (s : State) (t : Nat) (v : Option Thread) : (s.setThread t v).weightEpoch = s.weightEpoch := rfl
@[simp] theorem State.setThread_layoutEpoch (s : State) (t : Nat) (v : Option Thread) : (s.setThread t v).layoutEpoch = s.layoutEpoch := rfl
@[simp] theorem State.setThread_weights (s : State) (t : Nat) (v : Option Thread) : (s.setThread t v).weights = s.weights := rfl
@[simp] theorem State.setThread_layouts (s : State) (t : Nat) (v : Option Thread) : (s.setThread t v).layouts = s.layouts := rfl
@[simp] theorem State.setThread_colls (s : State) (t : Nat) (v : Option Thread) : (s.setThread t v).colls = s.colls := rfl
@[simp] theorem State.setThread_replica (s : State) (t : Nat) (v : Option Thread) : (s.setThread t v).replica = s.replica := rfl
@[simp] theorem State.setThread_roots (s : State) (t : Nat) (v : Option Thread) : (s.setThread t v).roots = s.roots := rfl
@[simp] theorem State.setThread_solver (s : State) (t : Nat) (v : Option Thread) : (s.setThread t v).solver = s.solver := rfl
@[simp] theorem State.setThread_trace (s : State) (t : Nat) (v : Option Thread) : (s.setThread t v).trace = s.trace := rfl

/-! ### setGraph -/

@[simp] theorem State.setGraph_pending (s : State) (g : Nat) (v : Option Graph) : (s.setGraph g v).pending = s.pending := rfl
@[simp] theorem State.setGraph_sent (s : State) (g : Nat) (v : Option Graph) : (s.setGraph g v).sent = s.sent := rfl
@[simp] theorem State.setGraph_partNo (s : State) (g : Nat) (v : Option Graph) : (s.setGraph g v).partNo = s.partNo := rfl
@[simp] theorem State.setGraph_pstate (s : State) (g : Nat) (v : Option Graph) : (s.setGraph g v).pstate = s.pstate := rfl
@[simp] theorem State.setGraph_startStep (s : State) (g : Nat) (v : Option Graph) : (s.setGraph g v).startStep = s.startStep := rfl
@[simp] theorem State.setGraph_startNo (s : State) (g : Nat) (v : Option Graph) : (s.setGraph g v).startNo = s.startNo := rfl
@[simp] theorem State.setGraph_clock (s : State) (g : Nat) (v : Option Graph) : (s.setGraph g v).clock = s.clock := rfl
@[simp] theorem State.setGraph_halls (s : State) (g : Nat) (v : Option Graph) : (s.setGraph g v).halls = s.halls := rfl
@[simp] theorem State.setGraph_aisles (s : State) (g : Nat) (v : Option Graph) : (s.setGraph g v).aisles = s.aisles := rfl
@[simp] theorem State.setGraph_stalls (s : State) (g : Nat) (v : Option Graph) : (s.setGraph g v).stalls = s.stalls := rfl
@[simp] theorem State.setGraph_threads (s : State) (g : Nat) (v : Option Graph) : (s.setGraph g v).threads = s.threads := rfl
@[simp] theorem State.setGraph_scratch (s : State) (g : Nat) (v : Option Graph) : (s.setGraph g v).scratch = s.scratch := rfl
@[simp] theorem State.setGraph_aisleMem (s : State) (g : Nat) (v : Option Graph) : (s.setGraph g v).aisleMem = s.aisleMem := rfl
@[simp] theorem State.setGraph_mem (s : State) (g : Nat) (v : Option Graph) : (s.setGraph g v).mem = s.mem := rfl
@[simp] theorem State.setGraph_poison (s : State) (g : Nat) (v : Option Graph) : (s.setGraph g v).poison = s.poison := rfl
@[simp] theorem State.setGraph_healed (s : State) (g : Nat) (v : Option Graph) : (s.setGraph g v).healed = s.healed := rfl
@[simp] theorem State.setGraph_graphs (s : State) (g : Nat) (v : Option Graph) : (s.setGraph g v).graphs = s.graphs.set none g v := rfl
@[simp] theorem State.setGraph_tally (s : State) (g : Nat) (v : Option Graph) : (s.setGraph g v).tally = s.tally := rfl
@[simp] theorem State.setGraph_bell (s : State) (g : Nat) (v : Option Graph) : (s.setGraph g v).bell = s.bell := rfl
@[simp] theorem State.setGraph_xlt (s : State) (g : Nat) (v : Option Graph) : (s.setGraph g v).xlt = s.xlt := rfl
@[simp] theorem State.setGraph_host (s : State) (g : Nat) (v : Option Graph) : (s.setGraph g v).host = s.host := rfl
@[simp] theorem State.setGraph_hbm (s : State) (g : Nat) (v : Option Graph) : (s.setGraph g v).hbm = s.hbm := rfl
@[simp] theorem State.setGraph_fab (s : State) (g : Nat) (v : Option Graph) : (s.setGraph g v).fab = s.fab := rfl
@[simp] theorem State.setGraph_till (s : State) (g : Nat) (v : Option Graph) : (s.setGraph g v).till = s.till := rfl
@[simp] theorem State.setGraph_masks (s : State) (g : Nat) (v : Option Graph) : (s.setGraph g v).masks = s.masks := rfl
@[simp] theorem State.setGraph_replay (s : State) (g : Nat) (v : Option Graph) : (s.setGraph g v).replay = s.replay := rfl
@[simp] theorem State.setGraph_power (s : State) (g : Nat) (v : Option Graph) : (s.setGraph g v).power = s.power := rfl
@[simp] theorem State.setGraph_boot (s : State) (g : Nat) (v : Option Graph) : (s.setGraph g v).boot = s.boot := rfl
@[simp] theorem State.setGraph_rescale (s : State) (g : Nat) (v : Option Graph) : (s.setGraph g v).rescale = s.rescale := rfl
@[simp] theorem State.setGraph_rescaleFull (s : State) (g : Nat) (v : Option Graph) : (s.setGraph g v).rescaleFull = s.rescaleFull := rfl
@[simp] theorem State.setGraph_sweeps (s : State) (g : Nat) (v : Option Graph) : (s.setGraph g v).sweeps = s.sweeps := rfl
@[simp] theorem State.setGraph_xchk (s : State) (g : Nat) (v : Option Graph) : (s.setGraph g v).xchk = s.xchk := rfl
@[simp] theorem State.setGraph_weightEpoch (s : State) (g : Nat) (v : Option Graph) : (s.setGraph g v).weightEpoch = s.weightEpoch := rfl
@[simp] theorem State.setGraph_layoutEpoch (s : State) (g : Nat) (v : Option Graph) : (s.setGraph g v).layoutEpoch = s.layoutEpoch := rfl
@[simp] theorem State.setGraph_weights (s : State) (g : Nat) (v : Option Graph) : (s.setGraph g v).weights = s.weights := rfl
@[simp] theorem State.setGraph_layouts (s : State) (g : Nat) (v : Option Graph) : (s.setGraph g v).layouts = s.layouts := rfl
@[simp] theorem State.setGraph_colls (s : State) (g : Nat) (v : Option Graph) : (s.setGraph g v).colls = s.colls := rfl
@[simp] theorem State.setGraph_replica (s : State) (g : Nat) (v : Option Graph) : (s.setGraph g v).replica = s.replica := rfl
@[simp] theorem State.setGraph_roots (s : State) (g : Nat) (v : Option Graph) : (s.setGraph g v).roots = s.roots := rfl
@[simp] theorem State.setGraph_solver (s : State) (g : Nat) (v : Option Graph) : (s.setGraph g v).solver = s.solver := rfl
@[simp] theorem State.setGraph_trace (s : State) (g : Nat) (v : Option Graph) : (s.setGraph g v).trace = s.trace := rfl

/-! ### setStack -/

@[simp] theorem State.setStack_pending (s : State) (k : Nat) (v : Stack) : (s.setStack k v).pending = s.pending := rfl
@[simp] theorem State.setStack_sent (s : State) (k : Nat) (v : Stack) : (s.setStack k v).sent = s.sent := rfl
@[simp] theorem State.setStack_partNo (s : State) (k : Nat) (v : Stack) : (s.setStack k v).partNo = s.partNo := rfl
@[simp] theorem State.setStack_pstate (s : State) (k : Nat) (v : Stack) : (s.setStack k v).pstate = s.pstate := rfl
@[simp] theorem State.setStack_startStep (s : State) (k : Nat) (v : Stack) : (s.setStack k v).startStep = s.startStep := rfl
@[simp] theorem State.setStack_startNo (s : State) (k : Nat) (v : Stack) : (s.setStack k v).startNo = s.startNo := rfl
@[simp] theorem State.setStack_clock (s : State) (k : Nat) (v : Stack) : (s.setStack k v).clock = s.clock := rfl
@[simp] theorem State.setStack_halls (s : State) (k : Nat) (v : Stack) : (s.setStack k v).halls = s.halls := rfl
@[simp] theorem State.setStack_aisles (s : State) (k : Nat) (v : Stack) : (s.setStack k v).aisles = s.aisles := rfl
@[simp] theorem State.setStack_stalls (s : State) (k : Nat) (v : Stack) : (s.setStack k v).stalls = s.stalls := rfl
@[simp] theorem State.setStack_threads (s : State) (k : Nat) (v : Stack) : (s.setStack k v).threads = s.threads := rfl
@[simp] theorem State.setStack_scratch (s : State) (k : Nat) (v : Stack) : (s.setStack k v).scratch = s.scratch := rfl
@[simp] theorem State.setStack_aisleMem (s : State) (k : Nat) (v : Stack) : (s.setStack k v).aisleMem = s.aisleMem := rfl
@[simp] theorem State.setStack_mem (s : State) (k : Nat) (v : Stack) : (s.setStack k v).mem = s.mem := rfl
@[simp] theorem State.setStack_poison (s : State) (k : Nat) (v : Stack) : (s.setStack k v).poison = s.poison := rfl
@[simp] theorem State.setStack_healed (s : State) (k : Nat) (v : Stack) : (s.setStack k v).healed = s.healed := rfl
@[simp] theorem State.setStack_graphs (s : State) (k : Nat) (v : Stack) : (s.setStack k v).graphs = s.graphs := rfl
@[simp] theorem State.setStack_tally (s : State) (k : Nat) (v : Stack) : (s.setStack k v).tally = s.tally := rfl
@[simp] theorem State.setStack_bell (s : State) (k : Nat) (v : Stack) : (s.setStack k v).bell = s.bell := rfl
@[simp] theorem State.setStack_xlt (s : State) (k : Nat) (v : Stack) : (s.setStack k v).xlt = s.xlt := rfl
@[simp] theorem State.setStack_host (s : State) (k : Nat) (v : Stack) : (s.setStack k v).host = s.host := rfl
@[simp] theorem State.setStack_hbm (s : State) (k : Nat) (v : Stack) : (s.setStack k v).hbm = s.hbm.set {} k v := rfl
@[simp] theorem State.setStack_fab (s : State) (k : Nat) (v : Stack) : (s.setStack k v).fab = s.fab := rfl
@[simp] theorem State.setStack_till (s : State) (k : Nat) (v : Stack) : (s.setStack k v).till = s.till := rfl
@[simp] theorem State.setStack_masks (s : State) (k : Nat) (v : Stack) : (s.setStack k v).masks = s.masks := rfl
@[simp] theorem State.setStack_replay (s : State) (k : Nat) (v : Stack) : (s.setStack k v).replay = s.replay := rfl
@[simp] theorem State.setStack_power (s : State) (k : Nat) (v : Stack) : (s.setStack k v).power = s.power := rfl
@[simp] theorem State.setStack_boot (s : State) (k : Nat) (v : Stack) : (s.setStack k v).boot = s.boot := rfl
@[simp] theorem State.setStack_rescale (s : State) (k : Nat) (v : Stack) : (s.setStack k v).rescale = s.rescale := rfl
@[simp] theorem State.setStack_rescaleFull (s : State) (k : Nat) (v : Stack) : (s.setStack k v).rescaleFull = s.rescaleFull := rfl
@[simp] theorem State.setStack_sweeps (s : State) (k : Nat) (v : Stack) : (s.setStack k v).sweeps = s.sweeps := rfl
@[simp] theorem State.setStack_xchk (s : State) (k : Nat) (v : Stack) : (s.setStack k v).xchk = s.xchk := rfl
@[simp] theorem State.setStack_weightEpoch (s : State) (k : Nat) (v : Stack) : (s.setStack k v).weightEpoch = s.weightEpoch := rfl
@[simp] theorem State.setStack_layoutEpoch (s : State) (k : Nat) (v : Stack) : (s.setStack k v).layoutEpoch = s.layoutEpoch := rfl
@[simp] theorem State.setStack_weights (s : State) (k : Nat) (v : Stack) : (s.setStack k v).weights = s.weights := rfl
@[simp] theorem State.setStack_layouts (s : State) (k : Nat) (v : Stack) : (s.setStack k v).layouts = s.layouts := rfl
@[simp] theorem State.setStack_colls (s : State) (k : Nat) (v : Stack) : (s.setStack k v).colls = s.colls := rfl
@[simp] theorem State.setStack_replica (s : State) (k : Nat) (v : Stack) : (s.setStack k v).replica = s.replica := rfl
@[simp] theorem State.setStack_roots (s : State) (k : Nat) (v : Stack) : (s.setStack k v).roots = s.roots := rfl
@[simp] theorem State.setStack_solver (s : State) (k : Nat) (v : Stack) : (s.setStack k v).solver = s.solver := rfl
@[simp] theorem State.setStack_trace (s : State) (k : Nat) (v : Stack) : (s.setStack k v).trace = s.trace := rfl

/-! ### setBell -/

@[simp] theorem State.setBell_pending (s : State) (v : Bell) : (s.setBell v).pending = s.pending := rfl
@[simp] theorem State.setBell_sent (s : State) (v : Bell) : (s.setBell v).sent = s.sent := rfl
@[simp] theorem State.setBell_partNo (s : State) (v : Bell) : (s.setBell v).partNo = s.partNo := rfl
@[simp] theorem State.setBell_pstate (s : State) (v : Bell) : (s.setBell v).pstate = s.pstate := rfl
@[simp] theorem State.setBell_startStep (s : State) (v : Bell) : (s.setBell v).startStep = s.startStep := rfl
@[simp] theorem State.setBell_startNo (s : State) (v : Bell) : (s.setBell v).startNo = s.startNo := rfl
@[simp] theorem State.setBell_clock (s : State) (v : Bell) : (s.setBell v).clock = s.clock := rfl
@[simp] theorem State.setBell_halls (s : State) (v : Bell) : (s.setBell v).halls = s.halls := rfl
@[simp] theorem State.setBell_aisles (s : State) (v : Bell) : (s.setBell v).aisles = s.aisles := rfl
@[simp] theorem State.setBell_stalls (s : State) (v : Bell) : (s.setBell v).stalls = s.stalls := rfl
@[simp] theorem State.setBell_threads (s : State) (v : Bell) : (s.setBell v).threads = s.threads := rfl
@[simp] theorem State.setBell_scratch (s : State) (v : Bell) : (s.setBell v).scratch = s.scratch := rfl
@[simp] theorem State.setBell_aisleMem (s : State) (v : Bell) : (s.setBell v).aisleMem = s.aisleMem := rfl
@[simp] theorem State.setBell_mem (s : State) (v : Bell) : (s.setBell v).mem = s.mem := rfl
@[simp] theorem State.setBell_poison (s : State) (v : Bell) : (s.setBell v).poison = s.poison := rfl
@[simp] theorem State.setBell_healed (s : State) (v : Bell) : (s.setBell v).healed = s.healed := rfl
@[simp] theorem State.setBell_graphs (s : State) (v : Bell) : (s.setBell v).graphs = s.graphs := rfl
@[simp] theorem State.setBell_tally (s : State) (v : Bell) : (s.setBell v).tally = s.tally := rfl
@[simp] theorem State.setBell_bell (s : State) (v : Bell) : (s.setBell v).bell = v := rfl
@[simp] theorem State.setBell_xlt (s : State) (v : Bell) : (s.setBell v).xlt = s.xlt := rfl
@[simp] theorem State.setBell_host (s : State) (v : Bell) : (s.setBell v).host = s.host := rfl
@[simp] theorem State.setBell_hbm (s : State) (v : Bell) : (s.setBell v).hbm = s.hbm := rfl
@[simp] theorem State.setBell_fab (s : State) (v : Bell) : (s.setBell v).fab = s.fab := rfl
@[simp] theorem State.setBell_till (s : State) (v : Bell) : (s.setBell v).till = s.till := rfl
@[simp] theorem State.setBell_masks (s : State) (v : Bell) : (s.setBell v).masks = s.masks := rfl
@[simp] theorem State.setBell_replay (s : State) (v : Bell) : (s.setBell v).replay = s.replay := rfl
@[simp] theorem State.setBell_power (s : State) (v : Bell) : (s.setBell v).power = s.power := rfl
@[simp] theorem State.setBell_boot (s : State) (v : Bell) : (s.setBell v).boot = s.boot := rfl
@[simp] theorem State.setBell_rescale (s : State) (v : Bell) : (s.setBell v).rescale = s.rescale := rfl
@[simp] theorem State.setBell_rescaleFull (s : State) (v : Bell) : (s.setBell v).rescaleFull = s.rescaleFull := rfl
@[simp] theorem State.setBell_sweeps (s : State) (v : Bell) : (s.setBell v).sweeps = s.sweeps := rfl
@[simp] theorem State.setBell_xchk (s : State) (v : Bell) : (s.setBell v).xchk = s.xchk := rfl
@[simp] theorem State.setBell_weightEpoch (s : State) (v : Bell) : (s.setBell v).weightEpoch = s.weightEpoch := rfl
@[simp] theorem State.setBell_layoutEpoch (s : State) (v : Bell) : (s.setBell v).layoutEpoch = s.layoutEpoch := rfl
@[simp] theorem State.setBell_weights (s : State) (v : Bell) : (s.setBell v).weights = s.weights := rfl
@[simp] theorem State.setBell_layouts (s : State) (v : Bell) : (s.setBell v).layouts = s.layouts := rfl
@[simp] theorem State.setBell_colls (s : State) (v : Bell) : (s.setBell v).colls = s.colls := rfl
@[simp] theorem State.setBell_replica (s : State) (v : Bell) : (s.setBell v).replica = s.replica := rfl
@[simp] theorem State.setBell_roots (s : State) (v : Bell) : (s.setBell v).roots = s.roots := rfl
@[simp] theorem State.setBell_solver (s : State) (v : Bell) : (s.setBell v).solver = s.solver := rfl
@[simp] theorem State.setBell_trace (s : State) (v : Bell) : (s.setBell v).trace = s.trace := rfl

/-! ### setXlt -/

@[simp] theorem State.setXlt_pending (s : State) (v : Xlt) : (s.setXlt v).pending = s.pending := rfl
@[simp] theorem State.setXlt_sent (s : State) (v : Xlt) : (s.setXlt v).sent = s.sent := rfl
@[simp] theorem State.setXlt_partNo (s : State) (v : Xlt) : (s.setXlt v).partNo = s.partNo := rfl
@[simp] theorem State.setXlt_pstate (s : State) (v : Xlt) : (s.setXlt v).pstate = s.pstate := rfl
@[simp] theorem State.setXlt_startStep (s : State) (v : Xlt) : (s.setXlt v).startStep = s.startStep := rfl
@[simp] theorem State.setXlt_startNo (s : State) (v : Xlt) : (s.setXlt v).startNo = s.startNo := rfl
@[simp] theorem State.setXlt_clock (s : State) (v : Xlt) : (s.setXlt v).clock = s.clock := rfl
@[simp] theorem State.setXlt_halls (s : State) (v : Xlt) : (s.setXlt v).halls = s.halls := rfl
@[simp] theorem State.setXlt_aisles (s : State) (v : Xlt) : (s.setXlt v).aisles = s.aisles := rfl
@[simp] theorem State.setXlt_stalls (s : State) (v : Xlt) : (s.setXlt v).stalls = s.stalls := rfl
@[simp] theorem State.setXlt_threads (s : State) (v : Xlt) : (s.setXlt v).threads = s.threads := rfl
@[simp] theorem State.setXlt_scratch (s : State) (v : Xlt) : (s.setXlt v).scratch = s.scratch := rfl
@[simp] theorem State.setXlt_aisleMem (s : State) (v : Xlt) : (s.setXlt v).aisleMem = s.aisleMem := rfl
@[simp] theorem State.setXlt_mem (s : State) (v : Xlt) : (s.setXlt v).mem = s.mem := rfl
@[simp] theorem State.setXlt_poison (s : State) (v : Xlt) : (s.setXlt v).poison = s.poison := rfl
@[simp] theorem State.setXlt_healed (s : State) (v : Xlt) : (s.setXlt v).healed = s.healed := rfl
@[simp] theorem State.setXlt_graphs (s : State) (v : Xlt) : (s.setXlt v).graphs = s.graphs := rfl
@[simp] theorem State.setXlt_tally (s : State) (v : Xlt) : (s.setXlt v).tally = s.tally := rfl
@[simp] theorem State.setXlt_bell (s : State) (v : Xlt) : (s.setXlt v).bell = s.bell := rfl
@[simp] theorem State.setXlt_xlt (s : State) (v : Xlt) : (s.setXlt v).xlt = v := rfl
@[simp] theorem State.setXlt_host (s : State) (v : Xlt) : (s.setXlt v).host = s.host := rfl
@[simp] theorem State.setXlt_hbm (s : State) (v : Xlt) : (s.setXlt v).hbm = s.hbm := rfl
@[simp] theorem State.setXlt_fab (s : State) (v : Xlt) : (s.setXlt v).fab = s.fab := rfl
@[simp] theorem State.setXlt_till (s : State) (v : Xlt) : (s.setXlt v).till = s.till := rfl
@[simp] theorem State.setXlt_masks (s : State) (v : Xlt) : (s.setXlt v).masks = s.masks := rfl
@[simp] theorem State.setXlt_replay (s : State) (v : Xlt) : (s.setXlt v).replay = s.replay := rfl
@[simp] theorem State.setXlt_power (s : State) (v : Xlt) : (s.setXlt v).power = s.power := rfl
@[simp] theorem State.setXlt_boot (s : State) (v : Xlt) : (s.setXlt v).boot = s.boot := rfl
@[simp] theorem State.setXlt_rescale (s : State) (v : Xlt) : (s.setXlt v).rescale = s.rescale := rfl
@[simp] theorem State.setXlt_rescaleFull (s : State) (v : Xlt) : (s.setXlt v).rescaleFull = s.rescaleFull := rfl
@[simp] theorem State.setXlt_sweeps (s : State) (v : Xlt) : (s.setXlt v).sweeps = s.sweeps := rfl
@[simp] theorem State.setXlt_xchk (s : State) (v : Xlt) : (s.setXlt v).xchk = s.xchk := rfl
@[simp] theorem State.setXlt_weightEpoch (s : State) (v : Xlt) : (s.setXlt v).weightEpoch = s.weightEpoch := rfl
@[simp] theorem State.setXlt_layoutEpoch (s : State) (v : Xlt) : (s.setXlt v).layoutEpoch = s.layoutEpoch := rfl
@[simp] theorem State.setXlt_weights (s : State) (v : Xlt) : (s.setXlt v).weights = s.weights := rfl
@[simp] theorem State.setXlt_layouts (s : State) (v : Xlt) : (s.setXlt v).layouts = s.layouts := rfl
@[simp] theorem State.setXlt_colls (s : State) (v : Xlt) : (s.setXlt v).colls = s.colls := rfl
@[simp] theorem State.setXlt_replica (s : State) (v : Xlt) : (s.setXlt v).replica = s.replica := rfl
@[simp] theorem State.setXlt_roots (s : State) (v : Xlt) : (s.setXlt v).roots = s.roots := rfl
@[simp] theorem State.setXlt_solver (s : State) (v : Xlt) : (s.setXlt v).solver = s.solver := rfl
@[simp] theorem State.setXlt_trace (s : State) (v : Xlt) : (s.setXlt v).trace = s.trace := rfl

/-! ### setHost -/

@[simp] theorem State.setHost_pending (s : State) (v : HostIf) : (s.setHost v).pending = s.pending := rfl
@[simp] theorem State.setHost_sent (s : State) (v : HostIf) : (s.setHost v).sent = s.sent := rfl
@[simp] theorem State.setHost_partNo (s : State) (v : HostIf) : (s.setHost v).partNo = s.partNo := rfl
@[simp] theorem State.setHost_pstate (s : State) (v : HostIf) : (s.setHost v).pstate = s.pstate := rfl
@[simp] theorem State.setHost_startStep (s : State) (v : HostIf) : (s.setHost v).startStep = s.startStep := rfl
@[simp] theorem State.setHost_startNo (s : State) (v : HostIf) : (s.setHost v).startNo = s.startNo := rfl
@[simp] theorem State.setHost_clock (s : State) (v : HostIf) : (s.setHost v).clock = s.clock := rfl
@[simp] theorem State.setHost_halls (s : State) (v : HostIf) : (s.setHost v).halls = s.halls := rfl
@[simp] theorem State.setHost_aisles (s : State) (v : HostIf) : (s.setHost v).aisles = s.aisles := rfl
@[simp] theorem State.setHost_stalls (s : State) (v : HostIf) : (s.setHost v).stalls = s.stalls := rfl
@[simp] theorem State.setHost_threads (s : State) (v : HostIf) : (s.setHost v).threads = s.threads := rfl
@[simp] theorem State.setHost_scratch (s : State) (v : HostIf) : (s.setHost v).scratch = s.scratch := rfl
@[simp] theorem State.setHost_aisleMem (s : State) (v : HostIf) : (s.setHost v).aisleMem = s.aisleMem := rfl
@[simp] theorem State.setHost_mem (s : State) (v : HostIf) : (s.setHost v).mem = s.mem := rfl
@[simp] theorem State.setHost_poison (s : State) (v : HostIf) : (s.setHost v).poison = s.poison := rfl
@[simp] theorem State.setHost_healed (s : State) (v : HostIf) : (s.setHost v).healed = s.healed := rfl
@[simp] theorem State.setHost_graphs (s : State) (v : HostIf) : (s.setHost v).graphs = s.graphs := rfl
@[simp] theorem State.setHost_tally (s : State) (v : HostIf) : (s.setHost v).tally = s.tally := rfl
@[simp] theorem State.setHost_bell (s : State) (v : HostIf) : (s.setHost v).bell = s.bell := rfl
@[simp] theorem State.setHost_xlt (s : State) (v : HostIf) : (s.setHost v).xlt = s.xlt := rfl
@[simp] theorem State.setHost_host (s : State) (v : HostIf) : (s.setHost v).host = v := rfl
@[simp] theorem State.setHost_hbm (s : State) (v : HostIf) : (s.setHost v).hbm = s.hbm := rfl
@[simp] theorem State.setHost_fab (s : State) (v : HostIf) : (s.setHost v).fab = s.fab := rfl
@[simp] theorem State.setHost_till (s : State) (v : HostIf) : (s.setHost v).till = s.till := rfl
@[simp] theorem State.setHost_masks (s : State) (v : HostIf) : (s.setHost v).masks = s.masks := rfl
@[simp] theorem State.setHost_replay (s : State) (v : HostIf) : (s.setHost v).replay = s.replay := rfl
@[simp] theorem State.setHost_power (s : State) (v : HostIf) : (s.setHost v).power = s.power := rfl
@[simp] theorem State.setHost_boot (s : State) (v : HostIf) : (s.setHost v).boot = s.boot := rfl
@[simp] theorem State.setHost_rescale (s : State) (v : HostIf) : (s.setHost v).rescale = s.rescale := rfl
@[simp] theorem State.setHost_rescaleFull (s : State) (v : HostIf) : (s.setHost v).rescaleFull = s.rescaleFull := rfl
@[simp] theorem State.setHost_sweeps (s : State) (v : HostIf) : (s.setHost v).sweeps = s.sweeps := rfl
@[simp] theorem State.setHost_xchk (s : State) (v : HostIf) : (s.setHost v).xchk = s.xchk := rfl
@[simp] theorem State.setHost_weightEpoch (s : State) (v : HostIf) : (s.setHost v).weightEpoch = s.weightEpoch := rfl
@[simp] theorem State.setHost_layoutEpoch (s : State) (v : HostIf) : (s.setHost v).layoutEpoch = s.layoutEpoch := rfl
@[simp] theorem State.setHost_weights (s : State) (v : HostIf) : (s.setHost v).weights = s.weights := rfl
@[simp] theorem State.setHost_layouts (s : State) (v : HostIf) : (s.setHost v).layouts = s.layouts := rfl
@[simp] theorem State.setHost_colls (s : State) (v : HostIf) : (s.setHost v).colls = s.colls := rfl
@[simp] theorem State.setHost_replica (s : State) (v : HostIf) : (s.setHost v).replica = s.replica := rfl
@[simp] theorem State.setHost_roots (s : State) (v : HostIf) : (s.setHost v).roots = s.roots := rfl
@[simp] theorem State.setHost_solver (s : State) (v : HostIf) : (s.setHost v).solver = s.solver := rfl
@[simp] theorem State.setHost_trace (s : State) (v : HostIf) : (s.setHost v).trace = s.trace := rfl

/-! ### setFab -/

@[simp] theorem State.setFab_pending (s : State) (v : Fab) : (s.setFab v).pending = s.pending := rfl
@[simp] theorem State.setFab_sent (s : State) (v : Fab) : (s.setFab v).sent = s.sent := rfl
@[simp] theorem State.setFab_partNo (s : State) (v : Fab) : (s.setFab v).partNo = s.partNo := rfl
@[simp] theorem State.setFab_pstate (s : State) (v : Fab) : (s.setFab v).pstate = s.pstate := rfl
@[simp] theorem State.setFab_startStep (s : State) (v : Fab) : (s.setFab v).startStep = s.startStep := rfl
@[simp] theorem State.setFab_startNo (s : State) (v : Fab) : (s.setFab v).startNo = s.startNo := rfl
@[simp] theorem State.setFab_clock (s : State) (v : Fab) : (s.setFab v).clock = s.clock := rfl
@[simp] theorem State.setFab_halls (s : State) (v : Fab) : (s.setFab v).halls = s.halls := rfl
@[simp] theorem State.setFab_aisles (s : State) (v : Fab) : (s.setFab v).aisles = s.aisles := rfl
@[simp] theorem State.setFab_stalls (s : State) (v : Fab) : (s.setFab v).stalls = s.stalls := rfl
@[simp] theorem State.setFab_threads (s : State) (v : Fab) : (s.setFab v).threads = s.threads := rfl
@[simp] theorem State.setFab_scratch (s : State) (v : Fab) : (s.setFab v).scratch = s.scratch := rfl
@[simp] theorem State.setFab_aisleMem (s : State) (v : Fab) : (s.setFab v).aisleMem = s.aisleMem := rfl
@[simp] theorem State.setFab_mem (s : State) (v : Fab) : (s.setFab v).mem = s.mem := rfl
@[simp] theorem State.setFab_poison (s : State) (v : Fab) : (s.setFab v).poison = s.poison := rfl
@[simp] theorem State.setFab_healed (s : State) (v : Fab) : (s.setFab v).healed = s.healed := rfl
@[simp] theorem State.setFab_graphs (s : State) (v : Fab) : (s.setFab v).graphs = s.graphs := rfl
@[simp] theorem State.setFab_tally (s : State) (v : Fab) : (s.setFab v).tally = s.tally := rfl
@[simp] theorem State.setFab_bell (s : State) (v : Fab) : (s.setFab v).bell = s.bell := rfl
@[simp] theorem State.setFab_xlt (s : State) (v : Fab) : (s.setFab v).xlt = s.xlt := rfl
@[simp] theorem State.setFab_host (s : State) (v : Fab) : (s.setFab v).host = s.host := rfl
@[simp] theorem State.setFab_hbm (s : State) (v : Fab) : (s.setFab v).hbm = s.hbm := rfl
@[simp] theorem State.setFab_fab (s : State) (v : Fab) : (s.setFab v).fab = v := rfl
@[simp] theorem State.setFab_till (s : State) (v : Fab) : (s.setFab v).till = s.till := rfl
@[simp] theorem State.setFab_masks (s : State) (v : Fab) : (s.setFab v).masks = s.masks := rfl
@[simp] theorem State.setFab_replay (s : State) (v : Fab) : (s.setFab v).replay = s.replay := rfl
@[simp] theorem State.setFab_power (s : State) (v : Fab) : (s.setFab v).power = s.power := rfl
@[simp] theorem State.setFab_boot (s : State) (v : Fab) : (s.setFab v).boot = s.boot := rfl
@[simp] theorem State.setFab_rescale (s : State) (v : Fab) : (s.setFab v).rescale = s.rescale := rfl
@[simp] theorem State.setFab_rescaleFull (s : State) (v : Fab) : (s.setFab v).rescaleFull = s.rescaleFull := rfl
@[simp] theorem State.setFab_sweeps (s : State) (v : Fab) : (s.setFab v).sweeps = s.sweeps := rfl
@[simp] theorem State.setFab_xchk (s : State) (v : Fab) : (s.setFab v).xchk = s.xchk := rfl
@[simp] theorem State.setFab_weightEpoch (s : State) (v : Fab) : (s.setFab v).weightEpoch = s.weightEpoch := rfl
@[simp] theorem State.setFab_layoutEpoch (s : State) (v : Fab) : (s.setFab v).layoutEpoch = s.layoutEpoch := rfl
@[simp] theorem State.setFab_weights (s : State) (v : Fab) : (s.setFab v).weights = s.weights := rfl
@[simp] theorem State.setFab_layouts (s : State) (v : Fab) : (s.setFab v).layouts = s.layouts := rfl
@[simp] theorem State.setFab_colls (s : State) (v : Fab) : (s.setFab v).colls = s.colls := rfl
@[simp] theorem State.setFab_replica (s : State) (v : Fab) : (s.setFab v).replica = s.replica := rfl
@[simp] theorem State.setFab_roots (s : State) (v : Fab) : (s.setFab v).roots = s.roots := rfl
@[simp] theorem State.setFab_solver (s : State) (v : Fab) : (s.setFab v).solver = s.solver := rfl
@[simp] theorem State.setFab_trace (s : State) (v : Fab) : (s.setFab v).trace = s.trace := rfl

/-! ### setTill -/

@[simp] theorem State.setTill_pending (s : State) (v : Till) : (s.setTill v).pending = s.pending := rfl
@[simp] theorem State.setTill_sent (s : State) (v : Till) : (s.setTill v).sent = s.sent := rfl
@[simp] theorem State.setTill_partNo (s : State) (v : Till) : (s.setTill v).partNo = s.partNo := rfl
@[simp] theorem State.setTill_pstate (s : State) (v : Till) : (s.setTill v).pstate = s.pstate := rfl
@[simp] theorem State.setTill_startStep (s : State) (v : Till) : (s.setTill v).startStep = s.startStep := rfl
@[simp] theorem State.setTill_startNo (s : State) (v : Till) : (s.setTill v).startNo = s.startNo := rfl
@[simp] theorem State.setTill_clock (s : State) (v : Till) : (s.setTill v).clock = s.clock := rfl
@[simp] theorem State.setTill_halls (s : State) (v : Till) : (s.setTill v).halls = s.halls := rfl
@[simp] theorem State.setTill_aisles (s : State) (v : Till) : (s.setTill v).aisles = s.aisles := rfl
@[simp] theorem State.setTill_stalls (s : State) (v : Till) : (s.setTill v).stalls = s.stalls := rfl
@[simp] theorem State.setTill_threads (s : State) (v : Till) : (s.setTill v).threads = s.threads := rfl
@[simp] theorem State.setTill_scratch (s : State) (v : Till) : (s.setTill v).scratch = s.scratch := rfl
@[simp] theorem State.setTill_aisleMem (s : State) (v : Till) : (s.setTill v).aisleMem = s.aisleMem := rfl
@[simp] theorem State.setTill_mem (s : State) (v : Till) : (s.setTill v).mem = s.mem := rfl
@[simp] theorem State.setTill_poison (s : State) (v : Till) : (s.setTill v).poison = s.poison := rfl
@[simp] theorem State.setTill_healed (s : State) (v : Till) : (s.setTill v).healed = s.healed := rfl
@[simp] theorem State.setTill_graphs (s : State) (v : Till) : (s.setTill v).graphs = s.graphs := rfl
@[simp] theorem State.setTill_tally (s : State) (v : Till) : (s.setTill v).tally = s.tally := rfl
@[simp] theorem State.setTill_bell (s : State) (v : Till) : (s.setTill v).bell = s.bell := rfl
@[simp] theorem State.setTill_xlt (s : State) (v : Till) : (s.setTill v).xlt = s.xlt := rfl
@[simp] theorem State.setTill_host (s : State) (v : Till) : (s.setTill v).host = s.host := rfl
@[simp] theorem State.setTill_hbm (s : State) (v : Till) : (s.setTill v).hbm = s.hbm := rfl
@[simp] theorem State.setTill_fab (s : State) (v : Till) : (s.setTill v).fab = s.fab := rfl
@[simp] theorem State.setTill_till (s : State) (v : Till) : (s.setTill v).till = v := rfl
@[simp] theorem State.setTill_masks (s : State) (v : Till) : (s.setTill v).masks = s.masks := rfl
@[simp] theorem State.setTill_replay (s : State) (v : Till) : (s.setTill v).replay = s.replay := rfl
@[simp] theorem State.setTill_power (s : State) (v : Till) : (s.setTill v).power = s.power := rfl
@[simp] theorem State.setTill_boot (s : State) (v : Till) : (s.setTill v).boot = s.boot := rfl
@[simp] theorem State.setTill_rescale (s : State) (v : Till) : (s.setTill v).rescale = s.rescale := rfl
@[simp] theorem State.setTill_rescaleFull (s : State) (v : Till) : (s.setTill v).rescaleFull = s.rescaleFull := rfl
@[simp] theorem State.setTill_sweeps (s : State) (v : Till) : (s.setTill v).sweeps = s.sweeps := rfl
@[simp] theorem State.setTill_xchk (s : State) (v : Till) : (s.setTill v).xchk = s.xchk := rfl
@[simp] theorem State.setTill_weightEpoch (s : State) (v : Till) : (s.setTill v).weightEpoch = s.weightEpoch := rfl
@[simp] theorem State.setTill_layoutEpoch (s : State) (v : Till) : (s.setTill v).layoutEpoch = s.layoutEpoch := rfl
@[simp] theorem State.setTill_weights (s : State) (v : Till) : (s.setTill v).weights = s.weights := rfl
@[simp] theorem State.setTill_layouts (s : State) (v : Till) : (s.setTill v).layouts = s.layouts := rfl
@[simp] theorem State.setTill_colls (s : State) (v : Till) : (s.setTill v).colls = s.colls := rfl
@[simp] theorem State.setTill_replica (s : State) (v : Till) : (s.setTill v).replica = s.replica := rfl
@[simp] theorem State.setTill_roots (s : State) (v : Till) : (s.setTill v).roots = s.roots := rfl
@[simp] theorem State.setTill_solver (s : State) (v : Till) : (s.setTill v).solver = s.solver := rfl
@[simp] theorem State.setTill_trace (s : State) (v : Till) : (s.setTill v).trace = s.trace := rfl

/-! ### setReplica -/

@[simp] theorem State.setReplica_pending (s : State) (v : Replica) : (s.setReplica v).pending = s.pending := rfl
@[simp] theorem State.setReplica_sent (s : State) (v : Replica) : (s.setReplica v).sent = s.sent := rfl
@[simp] theorem State.setReplica_partNo (s : State) (v : Replica) : (s.setReplica v).partNo = s.partNo := rfl
@[simp] theorem State.setReplica_pstate (s : State) (v : Replica) : (s.setReplica v).pstate = s.pstate := rfl
@[simp] theorem State.setReplica_startStep (s : State) (v : Replica) : (s.setReplica v).startStep = s.startStep := rfl
@[simp] theorem State.setReplica_startNo (s : State) (v : Replica) : (s.setReplica v).startNo = s.startNo := rfl
@[simp] theorem State.setReplica_clock (s : State) (v : Replica) : (s.setReplica v).clock = s.clock := rfl
@[simp] theorem State.setReplica_halls (s : State) (v : Replica) : (s.setReplica v).halls = s.halls := rfl
@[simp] theorem State.setReplica_aisles (s : State) (v : Replica) : (s.setReplica v).aisles = s.aisles := rfl
@[simp] theorem State.setReplica_stalls (s : State) (v : Replica) : (s.setReplica v).stalls = s.stalls := rfl
@[simp] theorem State.setReplica_threads (s : State) (v : Replica) : (s.setReplica v).threads = s.threads := rfl
@[simp] theorem State.setReplica_scratch (s : State) (v : Replica) : (s.setReplica v).scratch = s.scratch := rfl
@[simp] theorem State.setReplica_aisleMem (s : State) (v : Replica) : (s.setReplica v).aisleMem = s.aisleMem := rfl
@[simp] theorem State.setReplica_mem (s : State) (v : Replica) : (s.setReplica v).mem = s.mem := rfl
@[simp] theorem State.setReplica_poison (s : State) (v : Replica) : (s.setReplica v).poison = s.poison := rfl
@[simp] theorem State.setReplica_healed (s : State) (v : Replica) : (s.setReplica v).healed = s.healed := rfl
@[simp] theorem State.setReplica_graphs (s : State) (v : Replica) : (s.setReplica v).graphs = s.graphs := rfl
@[simp] theorem State.setReplica_tally (s : State) (v : Replica) : (s.setReplica v).tally = s.tally := rfl
@[simp] theorem State.setReplica_bell (s : State) (v : Replica) : (s.setReplica v).bell = s.bell := rfl
@[simp] theorem State.setReplica_xlt (s : State) (v : Replica) : (s.setReplica v).xlt = s.xlt := rfl
@[simp] theorem State.setReplica_host (s : State) (v : Replica) : (s.setReplica v).host = s.host := rfl
@[simp] theorem State.setReplica_hbm (s : State) (v : Replica) : (s.setReplica v).hbm = s.hbm := rfl
@[simp] theorem State.setReplica_fab (s : State) (v : Replica) : (s.setReplica v).fab = s.fab := rfl
@[simp] theorem State.setReplica_till (s : State) (v : Replica) : (s.setReplica v).till = s.till := rfl
@[simp] theorem State.setReplica_masks (s : State) (v : Replica) : (s.setReplica v).masks = s.masks := rfl
@[simp] theorem State.setReplica_replay (s : State) (v : Replica) : (s.setReplica v).replay = s.replay := rfl
@[simp] theorem State.setReplica_power (s : State) (v : Replica) : (s.setReplica v).power = s.power := rfl
@[simp] theorem State.setReplica_boot (s : State) (v : Replica) : (s.setReplica v).boot = s.boot := rfl
@[simp] theorem State.setReplica_rescale (s : State) (v : Replica) : (s.setReplica v).rescale = s.rescale := rfl
@[simp] theorem State.setReplica_rescaleFull (s : State) (v : Replica) : (s.setReplica v).rescaleFull = s.rescaleFull := rfl
@[simp] theorem State.setReplica_sweeps (s : State) (v : Replica) : (s.setReplica v).sweeps = s.sweeps := rfl
@[simp] theorem State.setReplica_xchk (s : State) (v : Replica) : (s.setReplica v).xchk = s.xchk := rfl
@[simp] theorem State.setReplica_weightEpoch (s : State) (v : Replica) : (s.setReplica v).weightEpoch = s.weightEpoch := rfl
@[simp] theorem State.setReplica_layoutEpoch (s : State) (v : Replica) : (s.setReplica v).layoutEpoch = s.layoutEpoch := rfl
@[simp] theorem State.setReplica_weights (s : State) (v : Replica) : (s.setReplica v).weights = s.weights := rfl
@[simp] theorem State.setReplica_layouts (s : State) (v : Replica) : (s.setReplica v).layouts = s.layouts := rfl
@[simp] theorem State.setReplica_colls (s : State) (v : Replica) : (s.setReplica v).colls = s.colls := rfl
@[simp] theorem State.setReplica_replica (s : State) (v : Replica) : (s.setReplica v).replica = v := rfl
@[simp] theorem State.setReplica_roots (s : State) (v : Replica) : (s.setReplica v).roots = s.roots := rfl
@[simp] theorem State.setReplica_solver (s : State) (v : Replica) : (s.setReplica v).solver = s.solver := rfl
@[simp] theorem State.setReplica_trace (s : State) (v : Replica) : (s.setReplica v).trace = s.trace := rfl

/-! ### setReplay -/

@[simp] theorem State.setReplay_pending (s : State) (v : Replay) : (s.setReplay v).pending = s.pending := rfl
@[simp] theorem State.setReplay_sent (s : State) (v : Replay) : (s.setReplay v).sent = s.sent := rfl
@[simp] theorem State.setReplay_partNo (s : State) (v : Replay) : (s.setReplay v).partNo = s.partNo := rfl
@[simp] theorem State.setReplay_pstate (s : State) (v : Replay) : (s.setReplay v).pstate = s.pstate := rfl
@[simp] theorem State.setReplay_startStep (s : State) (v : Replay) : (s.setReplay v).startStep = s.startStep := rfl
@[simp] theorem State.setReplay_startNo (s : State) (v : Replay) : (s.setReplay v).startNo = s.startNo := rfl
@[simp] theorem State.setReplay_clock (s : State) (v : Replay) : (s.setReplay v).clock = s.clock := rfl
@[simp] theorem State.setReplay_halls (s : State) (v : Replay) : (s.setReplay v).halls = s.halls := rfl
@[simp] theorem State.setReplay_aisles (s : State) (v : Replay) : (s.setReplay v).aisles = s.aisles := rfl
@[simp] theorem State.setReplay_stalls (s : State) (v : Replay) : (s.setReplay v).stalls = s.stalls := rfl
@[simp] theorem State.setReplay_threads (s : State) (v : Replay) : (s.setReplay v).threads = s.threads := rfl
@[simp] theorem State.setReplay_scratch (s : State) (v : Replay) : (s.setReplay v).scratch = s.scratch := rfl
@[simp] theorem State.setReplay_aisleMem (s : State) (v : Replay) : (s.setReplay v).aisleMem = s.aisleMem := rfl
@[simp] theorem State.setReplay_mem (s : State) (v : Replay) : (s.setReplay v).mem = s.mem := rfl
@[simp] theorem State.setReplay_poison (s : State) (v : Replay) : (s.setReplay v).poison = s.poison := rfl
@[simp] theorem State.setReplay_healed (s : State) (v : Replay) : (s.setReplay v).healed = s.healed := rfl
@[simp] theorem State.setReplay_graphs (s : State) (v : Replay) : (s.setReplay v).graphs = s.graphs := rfl
@[simp] theorem State.setReplay_tally (s : State) (v : Replay) : (s.setReplay v).tally = s.tally := rfl
@[simp] theorem State.setReplay_bell (s : State) (v : Replay) : (s.setReplay v).bell = s.bell := rfl
@[simp] theorem State.setReplay_xlt (s : State) (v : Replay) : (s.setReplay v).xlt = s.xlt := rfl
@[simp] theorem State.setReplay_host (s : State) (v : Replay) : (s.setReplay v).host = s.host := rfl
@[simp] theorem State.setReplay_hbm (s : State) (v : Replay) : (s.setReplay v).hbm = s.hbm := rfl
@[simp] theorem State.setReplay_fab (s : State) (v : Replay) : (s.setReplay v).fab = s.fab := rfl
@[simp] theorem State.setReplay_till (s : State) (v : Replay) : (s.setReplay v).till = s.till := rfl
@[simp] theorem State.setReplay_masks (s : State) (v : Replay) : (s.setReplay v).masks = s.masks := rfl
@[simp] theorem State.setReplay_replay (s : State) (v : Replay) : (s.setReplay v).replay = v := rfl
@[simp] theorem State.setReplay_power (s : State) (v : Replay) : (s.setReplay v).power = s.power := rfl
@[simp] theorem State.setReplay_boot (s : State) (v : Replay) : (s.setReplay v).boot = s.boot := rfl
@[simp] theorem State.setReplay_rescale (s : State) (v : Replay) : (s.setReplay v).rescale = s.rescale := rfl
@[simp] theorem State.setReplay_rescaleFull (s : State) (v : Replay) : (s.setReplay v).rescaleFull = s.rescaleFull := rfl
@[simp] theorem State.setReplay_sweeps (s : State) (v : Replay) : (s.setReplay v).sweeps = s.sweeps := rfl
@[simp] theorem State.setReplay_xchk (s : State) (v : Replay) : (s.setReplay v).xchk = s.xchk := rfl
@[simp] theorem State.setReplay_weightEpoch (s : State) (v : Replay) : (s.setReplay v).weightEpoch = s.weightEpoch := rfl
@[simp] theorem State.setReplay_layoutEpoch (s : State) (v : Replay) : (s.setReplay v).layoutEpoch = s.layoutEpoch := rfl
@[simp] theorem State.setReplay_weights (s : State) (v : Replay) : (s.setReplay v).weights = s.weights := rfl
@[simp] theorem State.setReplay_layouts (s : State) (v : Replay) : (s.setReplay v).layouts = s.layouts := rfl
@[simp] theorem State.setReplay_colls (s : State) (v : Replay) : (s.setReplay v).colls = s.colls := rfl
@[simp] theorem State.setReplay_replica (s : State) (v : Replay) : (s.setReplay v).replica = s.replica := rfl
@[simp] theorem State.setReplay_roots (s : State) (v : Replay) : (s.setReplay v).roots = s.roots := rfl
@[simp] theorem State.setReplay_solver (s : State) (v : Replay) : (s.setReplay v).solver = s.solver := rfl
@[simp] theorem State.setReplay_trace (s : State) (v : Replay) : (s.setReplay v).trace = s.trace := rfl

/-! ### setColls -/

@[simp] theorem State.setColls_pending (s : State) (v : Colls) : (s.setColls v).pending = s.pending := rfl
@[simp] theorem State.setColls_sent (s : State) (v : Colls) : (s.setColls v).sent = s.sent := rfl
@[simp] theorem State.setColls_partNo (s : State) (v : Colls) : (s.setColls v).partNo = s.partNo := rfl
@[simp] theorem State.setColls_pstate (s : State) (v : Colls) : (s.setColls v).pstate = s.pstate := rfl
@[simp] theorem State.setColls_startStep (s : State) (v : Colls) : (s.setColls v).startStep = s.startStep := rfl
@[simp] theorem State.setColls_startNo (s : State) (v : Colls) : (s.setColls v).startNo = s.startNo := rfl
@[simp] theorem State.setColls_clock (s : State) (v : Colls) : (s.setColls v).clock = s.clock := rfl
@[simp] theorem State.setColls_halls (s : State) (v : Colls) : (s.setColls v).halls = s.halls := rfl
@[simp] theorem State.setColls_aisles (s : State) (v : Colls) : (s.setColls v).aisles = s.aisles := rfl
@[simp] theorem State.setColls_stalls (s : State) (v : Colls) : (s.setColls v).stalls = s.stalls := rfl
@[simp] theorem State.setColls_threads (s : State) (v : Colls) : (s.setColls v).threads = s.threads := rfl
@[simp] theorem State.setColls_scratch (s : State) (v : Colls) : (s.setColls v).scratch = s.scratch := rfl
@[simp] theorem State.setColls_aisleMem (s : State) (v : Colls) : (s.setColls v).aisleMem = s.aisleMem := rfl
@[simp] theorem State.setColls_mem (s : State) (v : Colls) : (s.setColls v).mem = s.mem := rfl
@[simp] theorem State.setColls_poison (s : State) (v : Colls) : (s.setColls v).poison = s.poison := rfl
@[simp] theorem State.setColls_healed (s : State) (v : Colls) : (s.setColls v).healed = s.healed := rfl
@[simp] theorem State.setColls_graphs (s : State) (v : Colls) : (s.setColls v).graphs = s.graphs := rfl
@[simp] theorem State.setColls_tally (s : State) (v : Colls) : (s.setColls v).tally = s.tally := rfl
@[simp] theorem State.setColls_bell (s : State) (v : Colls) : (s.setColls v).bell = s.bell := rfl
@[simp] theorem State.setColls_xlt (s : State) (v : Colls) : (s.setColls v).xlt = s.xlt := rfl
@[simp] theorem State.setColls_host (s : State) (v : Colls) : (s.setColls v).host = s.host := rfl
@[simp] theorem State.setColls_hbm (s : State) (v : Colls) : (s.setColls v).hbm = s.hbm := rfl
@[simp] theorem State.setColls_fab (s : State) (v : Colls) : (s.setColls v).fab = s.fab := rfl
@[simp] theorem State.setColls_till (s : State) (v : Colls) : (s.setColls v).till = s.till := rfl
@[simp] theorem State.setColls_masks (s : State) (v : Colls) : (s.setColls v).masks = s.masks := rfl
@[simp] theorem State.setColls_replay (s : State) (v : Colls) : (s.setColls v).replay = s.replay := rfl
@[simp] theorem State.setColls_power (s : State) (v : Colls) : (s.setColls v).power = s.power := rfl
@[simp] theorem State.setColls_boot (s : State) (v : Colls) : (s.setColls v).boot = s.boot := rfl
@[simp] theorem State.setColls_rescale (s : State) (v : Colls) : (s.setColls v).rescale = s.rescale := rfl
@[simp] theorem State.setColls_rescaleFull (s : State) (v : Colls) : (s.setColls v).rescaleFull = s.rescaleFull := rfl
@[simp] theorem State.setColls_sweeps (s : State) (v : Colls) : (s.setColls v).sweeps = s.sweeps := rfl
@[simp] theorem State.setColls_xchk (s : State) (v : Colls) : (s.setColls v).xchk = s.xchk := rfl
@[simp] theorem State.setColls_weightEpoch (s : State) (v : Colls) : (s.setColls v).weightEpoch = s.weightEpoch := rfl
@[simp] theorem State.setColls_layoutEpoch (s : State) (v : Colls) : (s.setColls v).layoutEpoch = s.layoutEpoch := rfl
@[simp] theorem State.setColls_weights (s : State) (v : Colls) : (s.setColls v).weights = s.weights := rfl
@[simp] theorem State.setColls_layouts (s : State) (v : Colls) : (s.setColls v).layouts = s.layouts := rfl
@[simp] theorem State.setColls_colls (s : State) (v : Colls) : (s.setColls v).colls = v := rfl
@[simp] theorem State.setColls_replica (s : State) (v : Colls) : (s.setColls v).replica = s.replica := rfl
@[simp] theorem State.setColls_roots (s : State) (v : Colls) : (s.setColls v).roots = s.roots := rfl
@[simp] theorem State.setColls_solver (s : State) (v : Colls) : (s.setColls v).solver = s.solver := rfl
@[simp] theorem State.setColls_trace (s : State) (v : Colls) : (s.setColls v).trace = s.trace := rfl

/-! ### setLayouts -/

@[simp] theorem State.setLayouts_pending (s : State) (v : Layouts) : (s.setLayouts v).pending = s.pending := rfl
@[simp] theorem State.setLayouts_sent (s : State) (v : Layouts) : (s.setLayouts v).sent = s.sent := rfl
@[simp] theorem State.setLayouts_partNo (s : State) (v : Layouts) : (s.setLayouts v).partNo = s.partNo := rfl
@[simp] theorem State.setLayouts_pstate (s : State) (v : Layouts) : (s.setLayouts v).pstate = s.pstate := rfl
@[simp] theorem State.setLayouts_startStep (s : State) (v : Layouts) : (s.setLayouts v).startStep = s.startStep := rfl
@[simp] theorem State.setLayouts_startNo (s : State) (v : Layouts) : (s.setLayouts v).startNo = s.startNo := rfl
@[simp] theorem State.setLayouts_clock (s : State) (v : Layouts) : (s.setLayouts v).clock = s.clock := rfl
@[simp] theorem State.setLayouts_halls (s : State) (v : Layouts) : (s.setLayouts v).halls = s.halls := rfl
@[simp] theorem State.setLayouts_aisles (s : State) (v : Layouts) : (s.setLayouts v).aisles = s.aisles := rfl
@[simp] theorem State.setLayouts_stalls (s : State) (v : Layouts) : (s.setLayouts v).stalls = s.stalls := rfl
@[simp] theorem State.setLayouts_threads (s : State) (v : Layouts) : (s.setLayouts v).threads = s.threads := rfl
@[simp] theorem State.setLayouts_scratch (s : State) (v : Layouts) : (s.setLayouts v).scratch = s.scratch := rfl
@[simp] theorem State.setLayouts_aisleMem (s : State) (v : Layouts) : (s.setLayouts v).aisleMem = s.aisleMem := rfl
@[simp] theorem State.setLayouts_mem (s : State) (v : Layouts) : (s.setLayouts v).mem = s.mem := rfl
@[simp] theorem State.setLayouts_poison (s : State) (v : Layouts) : (s.setLayouts v).poison = s.poison := rfl
@[simp] theorem State.setLayouts_healed (s : State) (v : Layouts) : (s.setLayouts v).healed = s.healed := rfl
@[simp] theorem State.setLayouts_graphs (s : State) (v : Layouts) : (s.setLayouts v).graphs = s.graphs := rfl
@[simp] theorem State.setLayouts_tally (s : State) (v : Layouts) : (s.setLayouts v).tally = s.tally := rfl
@[simp] theorem State.setLayouts_bell (s : State) (v : Layouts) : (s.setLayouts v).bell = s.bell := rfl
@[simp] theorem State.setLayouts_xlt (s : State) (v : Layouts) : (s.setLayouts v).xlt = s.xlt := rfl
@[simp] theorem State.setLayouts_host (s : State) (v : Layouts) : (s.setLayouts v).host = s.host := rfl
@[simp] theorem State.setLayouts_hbm (s : State) (v : Layouts) : (s.setLayouts v).hbm = s.hbm := rfl
@[simp] theorem State.setLayouts_fab (s : State) (v : Layouts) : (s.setLayouts v).fab = s.fab := rfl
@[simp] theorem State.setLayouts_till (s : State) (v : Layouts) : (s.setLayouts v).till = s.till := rfl
@[simp] theorem State.setLayouts_masks (s : State) (v : Layouts) : (s.setLayouts v).masks = s.masks := rfl
@[simp] theorem State.setLayouts_replay (s : State) (v : Layouts) : (s.setLayouts v).replay = s.replay := rfl
@[simp] theorem State.setLayouts_power (s : State) (v : Layouts) : (s.setLayouts v).power = s.power := rfl
@[simp] theorem State.setLayouts_boot (s : State) (v : Layouts) : (s.setLayouts v).boot = s.boot := rfl
@[simp] theorem State.setLayouts_rescale (s : State) (v : Layouts) : (s.setLayouts v).rescale = s.rescale := rfl
@[simp] theorem State.setLayouts_rescaleFull (s : State) (v : Layouts) : (s.setLayouts v).rescaleFull = s.rescaleFull := rfl
@[simp] theorem State.setLayouts_sweeps (s : State) (v : Layouts) : (s.setLayouts v).sweeps = s.sweeps := rfl
@[simp] theorem State.setLayouts_xchk (s : State) (v : Layouts) : (s.setLayouts v).xchk = s.xchk := rfl
@[simp] theorem State.setLayouts_weightEpoch (s : State) (v : Layouts) : (s.setLayouts v).weightEpoch = s.weightEpoch := rfl
@[simp] theorem State.setLayouts_layoutEpoch (s : State) (v : Layouts) : (s.setLayouts v).layoutEpoch = s.layoutEpoch := rfl
@[simp] theorem State.setLayouts_weights (s : State) (v : Layouts) : (s.setLayouts v).weights = s.weights := rfl
@[simp] theorem State.setLayouts_layouts (s : State) (v : Layouts) : (s.setLayouts v).layouts = v := rfl
@[simp] theorem State.setLayouts_colls (s : State) (v : Layouts) : (s.setLayouts v).colls = s.colls := rfl
@[simp] theorem State.setLayouts_replica (s : State) (v : Layouts) : (s.setLayouts v).replica = s.replica := rfl
@[simp] theorem State.setLayouts_roots (s : State) (v : Layouts) : (s.setLayouts v).roots = s.roots := rfl
@[simp] theorem State.setLayouts_solver (s : State) (v : Layouts) : (s.setLayouts v).solver = s.solver := rfl
@[simp] theorem State.setLayouts_trace (s : State) (v : Layouts) : (s.setLayouts v).trace = s.trace := rfl

/-! ### setRoots -/

@[simp] theorem State.setRoots_pending (s : State) (v : Roots) : (s.setRoots v).pending = s.pending := rfl
@[simp] theorem State.setRoots_sent (s : State) (v : Roots) : (s.setRoots v).sent = s.sent := rfl
@[simp] theorem State.setRoots_partNo (s : State) (v : Roots) : (s.setRoots v).partNo = s.partNo := rfl
@[simp] theorem State.setRoots_pstate (s : State) (v : Roots) : (s.setRoots v).pstate = s.pstate := rfl
@[simp] theorem State.setRoots_startStep (s : State) (v : Roots) : (s.setRoots v).startStep = s.startStep := rfl
@[simp] theorem State.setRoots_startNo (s : State) (v : Roots) : (s.setRoots v).startNo = s.startNo := rfl
@[simp] theorem State.setRoots_clock (s : State) (v : Roots) : (s.setRoots v).clock = s.clock := rfl
@[simp] theorem State.setRoots_halls (s : State) (v : Roots) : (s.setRoots v).halls = s.halls := rfl
@[simp] theorem State.setRoots_aisles (s : State) (v : Roots) : (s.setRoots v).aisles = s.aisles := rfl
@[simp] theorem State.setRoots_stalls (s : State) (v : Roots) : (s.setRoots v).stalls = s.stalls := rfl
@[simp] theorem State.setRoots_threads (s : State) (v : Roots) : (s.setRoots v).threads = s.threads := rfl
@[simp] theorem State.setRoots_scratch (s : State) (v : Roots) : (s.setRoots v).scratch = s.scratch := rfl
@[simp] theorem State.setRoots_aisleMem (s : State) (v : Roots) : (s.setRoots v).aisleMem = s.aisleMem := rfl
@[simp] theorem State.setRoots_mem (s : State) (v : Roots) : (s.setRoots v).mem = s.mem := rfl
@[simp] theorem State.setRoots_poison (s : State) (v : Roots) : (s.setRoots v).poison = s.poison := rfl
@[simp] theorem State.setRoots_healed (s : State) (v : Roots) : (s.setRoots v).healed = s.healed := rfl
@[simp] theorem State.setRoots_graphs (s : State) (v : Roots) : (s.setRoots v).graphs = s.graphs := rfl
@[simp] theorem State.setRoots_tally (s : State) (v : Roots) : (s.setRoots v).tally = s.tally := rfl
@[simp] theorem State.setRoots_bell (s : State) (v : Roots) : (s.setRoots v).bell = s.bell := rfl
@[simp] theorem State.setRoots_xlt (s : State) (v : Roots) : (s.setRoots v).xlt = s.xlt := rfl
@[simp] theorem State.setRoots_host (s : State) (v : Roots) : (s.setRoots v).host = s.host := rfl
@[simp] theorem State.setRoots_hbm (s : State) (v : Roots) : (s.setRoots v).hbm = s.hbm := rfl
@[simp] theorem State.setRoots_fab (s : State) (v : Roots) : (s.setRoots v).fab = s.fab := rfl
@[simp] theorem State.setRoots_till (s : State) (v : Roots) : (s.setRoots v).till = s.till := rfl
@[simp] theorem State.setRoots_masks (s : State) (v : Roots) : (s.setRoots v).masks = s.masks := rfl
@[simp] theorem State.setRoots_replay (s : State) (v : Roots) : (s.setRoots v).replay = s.replay := rfl
@[simp] theorem State.setRoots_power (s : State) (v : Roots) : (s.setRoots v).power = s.power := rfl
@[simp] theorem State.setRoots_boot (s : State) (v : Roots) : (s.setRoots v).boot = s.boot := rfl
@[simp] theorem State.setRoots_rescale (s : State) (v : Roots) : (s.setRoots v).rescale = s.rescale := rfl
@[simp] theorem State.setRoots_rescaleFull (s : State) (v : Roots) : (s.setRoots v).rescaleFull = s.rescaleFull := rfl
@[simp] theorem State.setRoots_sweeps (s : State) (v : Roots) : (s.setRoots v).sweeps = s.sweeps := rfl
@[simp] theorem State.setRoots_xchk (s : State) (v : Roots) : (s.setRoots v).xchk = s.xchk := rfl
@[simp] theorem State.setRoots_weightEpoch (s : State) (v : Roots) : (s.setRoots v).weightEpoch = s.weightEpoch := rfl
@[simp] theorem State.setRoots_layoutEpoch (s : State) (v : Roots) : (s.setRoots v).layoutEpoch = s.layoutEpoch := rfl
@[simp] theorem State.setRoots_weights (s : State) (v : Roots) : (s.setRoots v).weights = s.weights := rfl
@[simp] theorem State.setRoots_layouts (s : State) (v : Roots) : (s.setRoots v).layouts = s.layouts := rfl
@[simp] theorem State.setRoots_colls (s : State) (v : Roots) : (s.setRoots v).colls = s.colls := rfl
@[simp] theorem State.setRoots_replica (s : State) (v : Roots) : (s.setRoots v).replica = s.replica := rfl
@[simp] theorem State.setRoots_roots (s : State) (v : Roots) : (s.setRoots v).roots = v := rfl
@[simp] theorem State.setRoots_solver (s : State) (v : Roots) : (s.setRoots v).solver = s.solver := rfl
@[simp] theorem State.setRoots_trace (s : State) (v : Roots) : (s.setRoots v).trace = s.trace := rfl

/-! ### setSolver -/

@[simp] theorem State.setSolver_pending (s : State) (v : Solver) : (s.setSolver v).pending = s.pending := rfl
@[simp] theorem State.setSolver_sent (s : State) (v : Solver) : (s.setSolver v).sent = s.sent := rfl
@[simp] theorem State.setSolver_partNo (s : State) (v : Solver) : (s.setSolver v).partNo = s.partNo := rfl
@[simp] theorem State.setSolver_pstate (s : State) (v : Solver) : (s.setSolver v).pstate = s.pstate := rfl
@[simp] theorem State.setSolver_startStep (s : State) (v : Solver) : (s.setSolver v).startStep = s.startStep := rfl
@[simp] theorem State.setSolver_startNo (s : State) (v : Solver) : (s.setSolver v).startNo = s.startNo := rfl
@[simp] theorem State.setSolver_clock (s : State) (v : Solver) : (s.setSolver v).clock = s.clock := rfl
@[simp] theorem State.setSolver_halls (s : State) (v : Solver) : (s.setSolver v).halls = s.halls := rfl
@[simp] theorem State.setSolver_aisles (s : State) (v : Solver) : (s.setSolver v).aisles = s.aisles := rfl
@[simp] theorem State.setSolver_stalls (s : State) (v : Solver) : (s.setSolver v).stalls = s.stalls := rfl
@[simp] theorem State.setSolver_threads (s : State) (v : Solver) : (s.setSolver v).threads = s.threads := rfl
@[simp] theorem State.setSolver_scratch (s : State) (v : Solver) : (s.setSolver v).scratch = s.scratch := rfl
@[simp] theorem State.setSolver_aisleMem (s : State) (v : Solver) : (s.setSolver v).aisleMem = s.aisleMem := rfl
@[simp] theorem State.setSolver_mem (s : State) (v : Solver) : (s.setSolver v).mem = s.mem := rfl
@[simp] theorem State.setSolver_poison (s : State) (v : Solver) : (s.setSolver v).poison = s.poison := rfl
@[simp] theorem State.setSolver_healed (s : State) (v : Solver) : (s.setSolver v).healed = s.healed := rfl
@[simp] theorem State.setSolver_graphs (s : State) (v : Solver) : (s.setSolver v).graphs = s.graphs := rfl
@[simp] theorem State.setSolver_tally (s : State) (v : Solver) : (s.setSolver v).tally = s.tally := rfl
@[simp] theorem State.setSolver_bell (s : State) (v : Solver) : (s.setSolver v).bell = s.bell := rfl
@[simp] theorem State.setSolver_xlt (s : State) (v : Solver) : (s.setSolver v).xlt = s.xlt := rfl
@[simp] theorem State.setSolver_host (s : State) (v : Solver) : (s.setSolver v).host = s.host := rfl
@[simp] theorem State.setSolver_hbm (s : State) (v : Solver) : (s.setSolver v).hbm = s.hbm := rfl
@[simp] theorem State.setSolver_fab (s : State) (v : Solver) : (s.setSolver v).fab = s.fab := rfl
@[simp] theorem State.setSolver_till (s : State) (v : Solver) : (s.setSolver v).till = s.till := rfl
@[simp] theorem State.setSolver_masks (s : State) (v : Solver) : (s.setSolver v).masks = s.masks := rfl
@[simp] theorem State.setSolver_replay (s : State) (v : Solver) : (s.setSolver v).replay = s.replay := rfl
@[simp] theorem State.setSolver_power (s : State) (v : Solver) : (s.setSolver v).power = s.power := rfl
@[simp] theorem State.setSolver_boot (s : State) (v : Solver) : (s.setSolver v).boot = s.boot := rfl
@[simp] theorem State.setSolver_rescale (s : State) (v : Solver) : (s.setSolver v).rescale = s.rescale := rfl
@[simp] theorem State.setSolver_rescaleFull (s : State) (v : Solver) : (s.setSolver v).rescaleFull = s.rescaleFull := rfl
@[simp] theorem State.setSolver_sweeps (s : State) (v : Solver) : (s.setSolver v).sweeps = s.sweeps := rfl
@[simp] theorem State.setSolver_xchk (s : State) (v : Solver) : (s.setSolver v).xchk = s.xchk := rfl
@[simp] theorem State.setSolver_weightEpoch (s : State) (v : Solver) : (s.setSolver v).weightEpoch = s.weightEpoch := rfl
@[simp] theorem State.setSolver_layoutEpoch (s : State) (v : Solver) : (s.setSolver v).layoutEpoch = s.layoutEpoch := rfl
@[simp] theorem State.setSolver_weights (s : State) (v : Solver) : (s.setSolver v).weights = s.weights := rfl
@[simp] theorem State.setSolver_layouts (s : State) (v : Solver) : (s.setSolver v).layouts = s.layouts := rfl
@[simp] theorem State.setSolver_colls (s : State) (v : Solver) : (s.setSolver v).colls = s.colls := rfl
@[simp] theorem State.setSolver_replica (s : State) (v : Solver) : (s.setSolver v).replica = s.replica := rfl
@[simp] theorem State.setSolver_roots (s : State) (v : Solver) : (s.setSolver v).roots = s.roots := rfl
@[simp] theorem State.setSolver_solver (s : State) (v : Solver) : (s.setSolver v).solver = v := rfl
@[simp] theorem State.setSolver_trace (s : State) (v : Solver) : (s.setSolver v).trace = s.trace := rfl

/-! ### setWeights -/

@[simp] theorem State.setWeights_pending (s : State) (v : Weights) : (s.setWeights v).pending = s.pending := rfl
@[simp] theorem State.setWeights_sent (s : State) (v : Weights) : (s.setWeights v).sent = s.sent := rfl
@[simp] theorem State.setWeights_partNo (s : State) (v : Weights) : (s.setWeights v).partNo = s.partNo := rfl
@[simp] theorem State.setWeights_pstate (s : State) (v : Weights) : (s.setWeights v).pstate = s.pstate := rfl
@[simp] theorem State.setWeights_startStep (s : State) (v : Weights) : (s.setWeights v).startStep = s.startStep := rfl
@[simp] theorem State.setWeights_startNo (s : State) (v : Weights) : (s.setWeights v).startNo = s.startNo := rfl
@[simp] theorem State.setWeights_clock (s : State) (v : Weights) : (s.setWeights v).clock = s.clock := rfl
@[simp] theorem State.setWeights_halls (s : State) (v : Weights) : (s.setWeights v).halls = s.halls := rfl
@[simp] theorem State.setWeights_aisles (s : State) (v : Weights) : (s.setWeights v).aisles = s.aisles := rfl
@[simp] theorem State.setWeights_stalls (s : State) (v : Weights) : (s.setWeights v).stalls = s.stalls := rfl
@[simp] theorem State.setWeights_threads (s : State) (v : Weights) : (s.setWeights v).threads = s.threads := rfl
@[simp] theorem State.setWeights_scratch (s : State) (v : Weights) : (s.setWeights v).scratch = s.scratch := rfl
@[simp] theorem State.setWeights_aisleMem (s : State) (v : Weights) : (s.setWeights v).aisleMem = s.aisleMem := rfl
@[simp] theorem State.setWeights_mem (s : State) (v : Weights) : (s.setWeights v).mem = s.mem := rfl
@[simp] theorem State.setWeights_poison (s : State) (v : Weights) : (s.setWeights v).poison = s.poison := rfl
@[simp] theorem State.setWeights_healed (s : State) (v : Weights) : (s.setWeights v).healed = s.healed := rfl
@[simp] theorem State.setWeights_graphs (s : State) (v : Weights) : (s.setWeights v).graphs = s.graphs := rfl
@[simp] theorem State.setWeights_tally (s : State) (v : Weights) : (s.setWeights v).tally = s.tally := rfl
@[simp] theorem State.setWeights_bell (s : State) (v : Weights) : (s.setWeights v).bell = s.bell := rfl
@[simp] theorem State.setWeights_xlt (s : State) (v : Weights) : (s.setWeights v).xlt = s.xlt := rfl
@[simp] theorem State.setWeights_host (s : State) (v : Weights) : (s.setWeights v).host = s.host := rfl
@[simp] theorem State.setWeights_hbm (s : State) (v : Weights) : (s.setWeights v).hbm = s.hbm := rfl
@[simp] theorem State.setWeights_fab (s : State) (v : Weights) : (s.setWeights v).fab = s.fab := rfl
@[simp] theorem State.setWeights_till (s : State) (v : Weights) : (s.setWeights v).till = s.till := rfl
@[simp] theorem State.setWeights_masks (s : State) (v : Weights) : (s.setWeights v).masks = s.masks := rfl
@[simp] theorem State.setWeights_replay (s : State) (v : Weights) : (s.setWeights v).replay = s.replay := rfl
@[simp] theorem State.setWeights_power (s : State) (v : Weights) : (s.setWeights v).power = s.power := rfl
@[simp] theorem State.setWeights_boot (s : State) (v : Weights) : (s.setWeights v).boot = s.boot := rfl
@[simp] theorem State.setWeights_rescale (s : State) (v : Weights) : (s.setWeights v).rescale = s.rescale := rfl
@[simp] theorem State.setWeights_rescaleFull (s : State) (v : Weights) : (s.setWeights v).rescaleFull = s.rescaleFull := rfl
@[simp] theorem State.setWeights_sweeps (s : State) (v : Weights) : (s.setWeights v).sweeps = s.sweeps := rfl
@[simp] theorem State.setWeights_xchk (s : State) (v : Weights) : (s.setWeights v).xchk = s.xchk := rfl
@[simp] theorem State.setWeights_weightEpoch (s : State) (v : Weights) : (s.setWeights v).weightEpoch = s.weightEpoch := rfl
@[simp] theorem State.setWeights_layoutEpoch (s : State) (v : Weights) : (s.setWeights v).layoutEpoch = s.layoutEpoch := rfl
@[simp] theorem State.setWeights_weights (s : State) (v : Weights) : (s.setWeights v).weights = v := rfl
@[simp] theorem State.setWeights_layouts (s : State) (v : Weights) : (s.setWeights v).layouts = s.layouts := rfl
@[simp] theorem State.setWeights_colls (s : State) (v : Weights) : (s.setWeights v).colls = s.colls := rfl
@[simp] theorem State.setWeights_replica (s : State) (v : Weights) : (s.setWeights v).replica = s.replica := rfl
@[simp] theorem State.setWeights_roots (s : State) (v : Weights) : (s.setWeights v).roots = s.roots := rfl
@[simp] theorem State.setWeights_solver (s : State) (v : Weights) : (s.setWeights v).solver = s.solver := rfl
@[simp] theorem State.setWeights_trace (s : State) (v : Weights) : (s.setWeights v).trace = s.trace := rfl

/-! ### send -/

@[simp] theorem State.send_pending (s : State) (o : Sent) : (s.send o).pending = s.pending := rfl
@[simp] theorem State.send_sent (s : State) (o : Sent) : (s.send o).sent = o :: s.sent := rfl
@[simp] theorem State.send_partNo (s : State) (o : Sent) : (s.send o).partNo = s.partNo := rfl
@[simp] theorem State.send_pstate (s : State) (o : Sent) : (s.send o).pstate = s.pstate := rfl
@[simp] theorem State.send_startStep (s : State) (o : Sent) : (s.send o).startStep = s.startStep := rfl
@[simp] theorem State.send_startNo (s : State) (o : Sent) : (s.send o).startNo = s.startNo := rfl
@[simp] theorem State.send_clock (s : State) (o : Sent) : (s.send o).clock = s.clock := rfl
@[simp] theorem State.send_halls (s : State) (o : Sent) : (s.send o).halls = s.halls := rfl
@[simp] theorem State.send_aisles (s : State) (o : Sent) : (s.send o).aisles = s.aisles := rfl
@[simp] theorem State.send_stalls (s : State) (o : Sent) : (s.send o).stalls = s.stalls := rfl
@[simp] theorem State.send_threads (s : State) (o : Sent) : (s.send o).threads = s.threads := rfl
@[simp] theorem State.send_scratch (s : State) (o : Sent) : (s.send o).scratch = s.scratch := rfl
@[simp] theorem State.send_aisleMem (s : State) (o : Sent) : (s.send o).aisleMem = s.aisleMem := rfl
@[simp] theorem State.send_mem (s : State) (o : Sent) : (s.send o).mem = s.mem := rfl
@[simp] theorem State.send_poison (s : State) (o : Sent) : (s.send o).poison = s.poison := rfl
@[simp] theorem State.send_healed (s : State) (o : Sent) : (s.send o).healed = s.healed := rfl
@[simp] theorem State.send_graphs (s : State) (o : Sent) : (s.send o).graphs = s.graphs := rfl
@[simp] theorem State.send_tally (s : State) (o : Sent) : (s.send o).tally = s.tally := rfl
@[simp] theorem State.send_bell (s : State) (o : Sent) : (s.send o).bell = s.bell := rfl
@[simp] theorem State.send_xlt (s : State) (o : Sent) : (s.send o).xlt = s.xlt := rfl
@[simp] theorem State.send_host (s : State) (o : Sent) : (s.send o).host = s.host := rfl
@[simp] theorem State.send_hbm (s : State) (o : Sent) : (s.send o).hbm = s.hbm := rfl
@[simp] theorem State.send_fab (s : State) (o : Sent) : (s.send o).fab = s.fab := rfl
@[simp] theorem State.send_till (s : State) (o : Sent) : (s.send o).till = s.till := rfl
@[simp] theorem State.send_masks (s : State) (o : Sent) : (s.send o).masks = s.masks := rfl
@[simp] theorem State.send_replay (s : State) (o : Sent) : (s.send o).replay = s.replay := rfl
@[simp] theorem State.send_power (s : State) (o : Sent) : (s.send o).power = s.power := rfl
@[simp] theorem State.send_boot (s : State) (o : Sent) : (s.send o).boot = s.boot := rfl
@[simp] theorem State.send_rescale (s : State) (o : Sent) : (s.send o).rescale = s.rescale := rfl
@[simp] theorem State.send_rescaleFull (s : State) (o : Sent) : (s.send o).rescaleFull = s.rescaleFull := rfl
@[simp] theorem State.send_sweeps (s : State) (o : Sent) : (s.send o).sweeps = s.sweeps := rfl
@[simp] theorem State.send_xchk (s : State) (o : Sent) : (s.send o).xchk = s.xchk := rfl
@[simp] theorem State.send_weightEpoch (s : State) (o : Sent) : (s.send o).weightEpoch = s.weightEpoch := rfl
@[simp] theorem State.send_layoutEpoch (s : State) (o : Sent) : (s.send o).layoutEpoch = s.layoutEpoch := rfl
@[simp] theorem State.send_weights (s : State) (o : Sent) : (s.send o).weights = s.weights := rfl
@[simp] theorem State.send_layouts (s : State) (o : Sent) : (s.send o).layouts = s.layouts := rfl
@[simp] theorem State.send_colls (s : State) (o : Sent) : (s.send o).colls = s.colls := rfl
@[simp] theorem State.send_replica (s : State) (o : Sent) : (s.send o).replica = s.replica := rfl
@[simp] theorem State.send_roots (s : State) (o : Sent) : (s.send o).roots = s.roots := rfl
@[simp] theorem State.send_solver (s : State) (o : Sent) : (s.send o).solver = s.solver := rfl
@[simp] theorem State.send_trace (s : State) (o : Sent) : (s.send o).trace = s.trace := rfl

/-! ### tick -/

@[simp] theorem State.tick_pending (s : State) : (s.tick).pending = s.pending := rfl
@[simp] theorem State.tick_sent (s : State) : (s.tick).sent = s.sent := rfl
@[simp] theorem State.tick_partNo (s : State) : (s.tick).partNo = s.partNo := rfl
@[simp] theorem State.tick_pstate (s : State) : (s.tick).pstate = s.pstate := rfl
@[simp] theorem State.tick_startStep (s : State) : (s.tick).startStep = s.startStep := rfl
@[simp] theorem State.tick_startNo (s : State) : (s.tick).startNo = s.startNo := rfl
@[simp] theorem State.tick_clock (s : State) : (s.tick).clock = s.clock + 1 := rfl
@[simp] theorem State.tick_halls (s : State) : (s.tick).halls = s.halls := rfl
@[simp] theorem State.tick_aisles (s : State) : (s.tick).aisles = s.aisles := rfl
@[simp] theorem State.tick_stalls (s : State) : (s.tick).stalls = s.stalls := rfl
@[simp] theorem State.tick_threads (s : State) : (s.tick).threads = s.threads := rfl
@[simp] theorem State.tick_scratch (s : State) : (s.tick).scratch = s.scratch := rfl
@[simp] theorem State.tick_aisleMem (s : State) : (s.tick).aisleMem = s.aisleMem := rfl
@[simp] theorem State.tick_mem (s : State) : (s.tick).mem = s.mem := rfl
@[simp] theorem State.tick_poison (s : State) : (s.tick).poison = s.poison := rfl
@[simp] theorem State.tick_healed (s : State) : (s.tick).healed = s.healed := rfl
@[simp] theorem State.tick_graphs (s : State) : (s.tick).graphs = s.graphs := rfl
@[simp] theorem State.tick_tally (s : State) : (s.tick).tally = s.tally := rfl
@[simp] theorem State.tick_bell (s : State) : (s.tick).bell = s.bell := rfl
@[simp] theorem State.tick_xlt (s : State) : (s.tick).xlt = s.xlt := rfl
@[simp] theorem State.tick_host (s : State) : (s.tick).host = s.host := rfl
@[simp] theorem State.tick_hbm (s : State) : (s.tick).hbm = s.hbm := rfl
@[simp] theorem State.tick_fab (s : State) : (s.tick).fab = s.fab := rfl
@[simp] theorem State.tick_till (s : State) : (s.tick).till = s.till := rfl
@[simp] theorem State.tick_masks (s : State) : (s.tick).masks = s.masks := rfl
@[simp] theorem State.tick_replay (s : State) : (s.tick).replay = s.replay := rfl
@[simp] theorem State.tick_power (s : State) : (s.tick).power = s.power := rfl
@[simp] theorem State.tick_boot (s : State) : (s.tick).boot = s.boot := rfl
@[simp] theorem State.tick_rescale (s : State) : (s.tick).rescale = s.rescale := rfl
@[simp] theorem State.tick_rescaleFull (s : State) : (s.tick).rescaleFull = s.rescaleFull := rfl
@[simp] theorem State.tick_sweeps (s : State) : (s.tick).sweeps = s.sweeps := rfl
@[simp] theorem State.tick_xchk (s : State) : (s.tick).xchk = s.xchk := rfl
@[simp] theorem State.tick_weightEpoch (s : State) : (s.tick).weightEpoch = s.weightEpoch := rfl
@[simp] theorem State.tick_layoutEpoch (s : State) : (s.tick).layoutEpoch = s.layoutEpoch := rfl
@[simp] theorem State.tick_weights (s : State) : (s.tick).weights = s.weights := rfl
@[simp] theorem State.tick_layouts (s : State) : (s.tick).layouts = s.layouts := rfl
@[simp] theorem State.tick_colls (s : State) : (s.tick).colls = s.colls := rfl
@[simp] theorem State.tick_replica (s : State) : (s.tick).replica = s.replica := rfl
@[simp] theorem State.tick_roots (s : State) : (s.tick).roots = s.roots := rfl
@[simp] theorem State.tick_solver (s : State) : (s.tick).solver = s.solver := rfl
@[simp] theorem State.tick_trace (s : State) : (s.tick).trace = s.trace := rfl

/-! ### modPower -/

@[simp] theorem State.modPower_pending (s : State) (f : Power → Power) : (s.modPower f).pending = s.pending := rfl
@[simp] theorem State.modPower_sent (s : State) (f : Power → Power) : (s.modPower f).sent = s.sent := rfl
@[simp] theorem State.modPower_partNo (s : State) (f : Power → Power) : (s.modPower f).partNo = s.partNo := rfl
@[simp] theorem State.modPower_pstate (s : State) (f : Power → Power) : (s.modPower f).pstate = s.pstate := rfl
@[simp] theorem State.modPower_startStep (s : State) (f : Power → Power) : (s.modPower f).startStep = s.startStep := rfl
@[simp] theorem State.modPower_startNo (s : State) (f : Power → Power) : (s.modPower f).startNo = s.startNo := rfl
@[simp] theorem State.modPower_clock (s : State) (f : Power → Power) : (s.modPower f).clock = s.clock := rfl
@[simp] theorem State.modPower_halls (s : State) (f : Power → Power) : (s.modPower f).halls = s.halls := rfl
@[simp] theorem State.modPower_aisles (s : State) (f : Power → Power) : (s.modPower f).aisles = s.aisles := rfl
@[simp] theorem State.modPower_stalls (s : State) (f : Power → Power) : (s.modPower f).stalls = s.stalls := rfl
@[simp] theorem State.modPower_threads (s : State) (f : Power → Power) : (s.modPower f).threads = s.threads := rfl
@[simp] theorem State.modPower_scratch (s : State) (f : Power → Power) : (s.modPower f).scratch = s.scratch := rfl
@[simp] theorem State.modPower_aisleMem (s : State) (f : Power → Power) : (s.modPower f).aisleMem = s.aisleMem := rfl
@[simp] theorem State.modPower_mem (s : State) (f : Power → Power) : (s.modPower f).mem = s.mem := rfl
@[simp] theorem State.modPower_poison (s : State) (f : Power → Power) : (s.modPower f).poison = s.poison := rfl
@[simp] theorem State.modPower_healed (s : State) (f : Power → Power) : (s.modPower f).healed = s.healed := rfl
@[simp] theorem State.modPower_graphs (s : State) (f : Power → Power) : (s.modPower f).graphs = s.graphs := rfl
@[simp] theorem State.modPower_tally (s : State) (f : Power → Power) : (s.modPower f).tally = s.tally := rfl
@[simp] theorem State.modPower_bell (s : State) (f : Power → Power) : (s.modPower f).bell = s.bell := rfl
@[simp] theorem State.modPower_xlt (s : State) (f : Power → Power) : (s.modPower f).xlt = s.xlt := rfl
@[simp] theorem State.modPower_host (s : State) (f : Power → Power) : (s.modPower f).host = s.host := rfl
@[simp] theorem State.modPower_hbm (s : State) (f : Power → Power) : (s.modPower f).hbm = s.hbm := rfl
@[simp] theorem State.modPower_fab (s : State) (f : Power → Power) : (s.modPower f).fab = s.fab := rfl
@[simp] theorem State.modPower_till (s : State) (f : Power → Power) : (s.modPower f).till = s.till := rfl
@[simp] theorem State.modPower_masks (s : State) (f : Power → Power) : (s.modPower f).masks = s.masks := rfl
@[simp] theorem State.modPower_replay (s : State) (f : Power → Power) : (s.modPower f).replay = s.replay := rfl
@[simp] theorem State.modPower_power (s : State) (f : Power → Power) : (s.modPower f).power = f s.power := rfl
@[simp] theorem State.modPower_boot (s : State) (f : Power → Power) : (s.modPower f).boot = s.boot := rfl
@[simp] theorem State.modPower_rescale (s : State) (f : Power → Power) : (s.modPower f).rescale = s.rescale := rfl
@[simp] theorem State.modPower_rescaleFull (s : State) (f : Power → Power) : (s.modPower f).rescaleFull = s.rescaleFull := rfl
@[simp] theorem State.modPower_sweeps (s : State) (f : Power → Power) : (s.modPower f).sweeps = s.sweeps := rfl
@[simp] theorem State.modPower_xchk (s : State) (f : Power → Power) : (s.modPower f).xchk = s.xchk := rfl
@[simp] theorem State.modPower_weightEpoch (s : State) (f : Power → Power) : (s.modPower f).weightEpoch = s.weightEpoch := rfl
@[simp] theorem State.modPower_layoutEpoch (s : State) (f : Power → Power) : (s.modPower f).layoutEpoch = s.layoutEpoch := rfl
@[simp] theorem State.modPower_weights (s : State) (f : Power → Power) : (s.modPower f).weights = s.weights := rfl
@[simp] theorem State.modPower_layouts (s : State) (f : Power → Power) : (s.modPower f).layouts = s.layouts := rfl
@[simp] theorem State.modPower_colls (s : State) (f : Power → Power) : (s.modPower f).colls = s.colls := rfl
@[simp] theorem State.modPower_replica (s : State) (f : Power → Power) : (s.modPower f).replica = s.replica := rfl
@[simp] theorem State.modPower_roots (s : State) (f : Power → Power) : (s.modPower f).roots = s.roots := rfl
@[simp] theorem State.modPower_solver (s : State) (f : Power → Power) : (s.modPower f).solver = s.solver := rfl
@[simp] theorem State.modPower_trace (s : State) (f : Power → Power) : (s.modPower f).trace = s.trace := rfl

/-! ### gauge -/

@[simp] theorem State.gauge_pending (s : State) (n : TallyName) (unit : Nat) (v : W64) : (s.gauge n unit v).pending = s.pending := rfl
@[simp] theorem State.gauge_sent (s : State) (n : TallyName) (unit : Nat) (v : W64) : (s.gauge n unit v).sent = s.sent := rfl
@[simp] theorem State.gauge_partNo (s : State) (n : TallyName) (unit : Nat) (v : W64) : (s.gauge n unit v).partNo = s.partNo := rfl
@[simp] theorem State.gauge_pstate (s : State) (n : TallyName) (unit : Nat) (v : W64) : (s.gauge n unit v).pstate = s.pstate := rfl
@[simp] theorem State.gauge_startStep (s : State) (n : TallyName) (unit : Nat) (v : W64) : (s.gauge n unit v).startStep = s.startStep := rfl
@[simp] theorem State.gauge_startNo (s : State) (n : TallyName) (unit : Nat) (v : W64) : (s.gauge n unit v).startNo = s.startNo := rfl
@[simp] theorem State.gauge_clock (s : State) (n : TallyName) (unit : Nat) (v : W64) : (s.gauge n unit v).clock = s.clock := rfl
@[simp] theorem State.gauge_halls (s : State) (n : TallyName) (unit : Nat) (v : W64) : (s.gauge n unit v).halls = s.halls := rfl
@[simp] theorem State.gauge_aisles (s : State) (n : TallyName) (unit : Nat) (v : W64) : (s.gauge n unit v).aisles = s.aisles := rfl
@[simp] theorem State.gauge_stalls (s : State) (n : TallyName) (unit : Nat) (v : W64) : (s.gauge n unit v).stalls = s.stalls := rfl
@[simp] theorem State.gauge_threads (s : State) (n : TallyName) (unit : Nat) (v : W64) : (s.gauge n unit v).threads = s.threads := rfl
@[simp] theorem State.gauge_scratch (s : State) (n : TallyName) (unit : Nat) (v : W64) : (s.gauge n unit v).scratch = s.scratch := rfl
@[simp] theorem State.gauge_aisleMem (s : State) (n : TallyName) (unit : Nat) (v : W64) : (s.gauge n unit v).aisleMem = s.aisleMem := rfl
@[simp] theorem State.gauge_mem (s : State) (n : TallyName) (unit : Nat) (v : W64) : (s.gauge n unit v).mem = s.mem := rfl
@[simp] theorem State.gauge_poison (s : State) (n : TallyName) (unit : Nat) (v : W64) : (s.gauge n unit v).poison = s.poison := rfl
@[simp] theorem State.gauge_healed (s : State) (n : TallyName) (unit : Nat) (v : W64) : (s.gauge n unit v).healed = s.healed := rfl
@[simp] theorem State.gauge_graphs (s : State) (n : TallyName) (unit : Nat) (v : W64) : (s.gauge n unit v).graphs = s.graphs := rfl
@[simp] theorem State.gauge_tally (s : State) (n : TallyName) (unit : Nat) (v : W64) : (s.gauge n unit v).tally = s.tally.set 0 (n.key unit) v := rfl
@[simp] theorem State.gauge_bell (s : State) (n : TallyName) (unit : Nat) (v : W64) : (s.gauge n unit v).bell = s.bell := rfl
@[simp] theorem State.gauge_xlt (s : State) (n : TallyName) (unit : Nat) (v : W64) : (s.gauge n unit v).xlt = s.xlt := rfl
@[simp] theorem State.gauge_host (s : State) (n : TallyName) (unit : Nat) (v : W64) : (s.gauge n unit v).host = s.host := rfl
@[simp] theorem State.gauge_hbm (s : State) (n : TallyName) (unit : Nat) (v : W64) : (s.gauge n unit v).hbm = s.hbm := rfl
@[simp] theorem State.gauge_fab (s : State) (n : TallyName) (unit : Nat) (v : W64) : (s.gauge n unit v).fab = s.fab := rfl
@[simp] theorem State.gauge_till (s : State) (n : TallyName) (unit : Nat) (v : W64) : (s.gauge n unit v).till = s.till := rfl
@[simp] theorem State.gauge_masks (s : State) (n : TallyName) (unit : Nat) (v : W64) : (s.gauge n unit v).masks = s.masks := rfl
@[simp] theorem State.gauge_replay (s : State) (n : TallyName) (unit : Nat) (v : W64) : (s.gauge n unit v).replay = s.replay := rfl
@[simp] theorem State.gauge_power (s : State) (n : TallyName) (unit : Nat) (v : W64) : (s.gauge n unit v).power = s.power := rfl
@[simp] theorem State.gauge_boot (s : State) (n : TallyName) (unit : Nat) (v : W64) : (s.gauge n unit v).boot = s.boot := rfl
@[simp] theorem State.gauge_rescale (s : State) (n : TallyName) (unit : Nat) (v : W64) : (s.gauge n unit v).rescale = s.rescale := rfl
@[simp] theorem State.gauge_rescaleFull (s : State) (n : TallyName) (unit : Nat) (v : W64) : (s.gauge n unit v).rescaleFull = s.rescaleFull := rfl
@[simp] theorem State.gauge_sweeps (s : State) (n : TallyName) (unit : Nat) (v : W64) : (s.gauge n unit v).sweeps = s.sweeps := rfl
@[simp] theorem State.gauge_xchk (s : State) (n : TallyName) (unit : Nat) (v : W64) : (s.gauge n unit v).xchk = s.xchk := rfl
@[simp] theorem State.gauge_weightEpoch (s : State) (n : TallyName) (unit : Nat) (v : W64) : (s.gauge n unit v).weightEpoch = s.weightEpoch := rfl
@[simp] theorem State.gauge_layoutEpoch (s : State) (n : TallyName) (unit : Nat) (v : W64) : (s.gauge n unit v).layoutEpoch = s.layoutEpoch := rfl
@[simp] theorem State.gauge_weights (s : State) (n : TallyName) (unit : Nat) (v : W64) : (s.gauge n unit v).weights = s.weights := rfl
@[simp] theorem State.gauge_layouts (s : State) (n : TallyName) (unit : Nat) (v : W64) : (s.gauge n unit v).layouts = s.layouts := rfl
@[simp] theorem State.gauge_colls (s : State) (n : TallyName) (unit : Nat) (v : W64) : (s.gauge n unit v).colls = s.colls := rfl
@[simp] theorem State.gauge_replica (s : State) (n : TallyName) (unit : Nat) (v : W64) : (s.gauge n unit v).replica = s.replica := rfl
@[simp] theorem State.gauge_roots (s : State) (n : TallyName) (unit : Nat) (v : W64) : (s.gauge n unit v).roots = s.roots := rfl
@[simp] theorem State.gauge_solver (s : State) (n : TallyName) (unit : Nat) (v : W64) : (s.gauge n unit v).solver = s.solver := rfl
@[simp] theorem State.gauge_trace (s : State) (n : TallyName) (unit : Nat) (v : W64) : (s.gauge n unit v).trace = s.trace := rfl

/-! ### setTraceHall -/

@[simp] theorem State.setTraceHall_pending (s : State) (h : Nat) (v : TraceHall) : (s.setTraceHall h v).pending = s.pending := rfl
@[simp] theorem State.setTraceHall_sent (s : State) (h : Nat) (v : TraceHall) : (s.setTraceHall h v).sent = s.sent := rfl
@[simp] theorem State.setTraceHall_partNo (s : State) (h : Nat) (v : TraceHall) : (s.setTraceHall h v).partNo = s.partNo := rfl
@[simp] theorem State.setTraceHall_pstate (s : State) (h : Nat) (v : TraceHall) : (s.setTraceHall h v).pstate = s.pstate := rfl
@[simp] theorem State.setTraceHall_startStep (s : State) (h : Nat) (v : TraceHall) : (s.setTraceHall h v).startStep = s.startStep := rfl
@[simp] theorem State.setTraceHall_startNo (s : State) (h : Nat) (v : TraceHall) : (s.setTraceHall h v).startNo = s.startNo := rfl
@[simp] theorem State.setTraceHall_clock (s : State) (h : Nat) (v : TraceHall) : (s.setTraceHall h v).clock = s.clock := rfl
@[simp] theorem State.setTraceHall_halls (s : State) (h : Nat) (v : TraceHall) : (s.setTraceHall h v).halls = s.halls := rfl
@[simp] theorem State.setTraceHall_aisles (s : State) (h : Nat) (v : TraceHall) : (s.setTraceHall h v).aisles = s.aisles := rfl
@[simp] theorem State.setTraceHall_stalls (s : State) (h : Nat) (v : TraceHall) : (s.setTraceHall h v).stalls = s.stalls := rfl
@[simp] theorem State.setTraceHall_threads (s : State) (h : Nat) (v : TraceHall) : (s.setTraceHall h v).threads = s.threads := rfl
@[simp] theorem State.setTraceHall_scratch (s : State) (h : Nat) (v : TraceHall) : (s.setTraceHall h v).scratch = s.scratch := rfl
@[simp] theorem State.setTraceHall_aisleMem (s : State) (h : Nat) (v : TraceHall) : (s.setTraceHall h v).aisleMem = s.aisleMem := rfl
@[simp] theorem State.setTraceHall_mem (s : State) (h : Nat) (v : TraceHall) : (s.setTraceHall h v).mem = s.mem := rfl
@[simp] theorem State.setTraceHall_poison (s : State) (h : Nat) (v : TraceHall) : (s.setTraceHall h v).poison = s.poison := rfl
@[simp] theorem State.setTraceHall_healed (s : State) (h : Nat) (v : TraceHall) : (s.setTraceHall h v).healed = s.healed := rfl
@[simp] theorem State.setTraceHall_graphs (s : State) (h : Nat) (v : TraceHall) : (s.setTraceHall h v).graphs = s.graphs := rfl
@[simp] theorem State.setTraceHall_tally (s : State) (h : Nat) (v : TraceHall) : (s.setTraceHall h v).tally = s.tally := rfl
@[simp] theorem State.setTraceHall_bell (s : State) (h : Nat) (v : TraceHall) : (s.setTraceHall h v).bell = s.bell := rfl
@[simp] theorem State.setTraceHall_xlt (s : State) (h : Nat) (v : TraceHall) : (s.setTraceHall h v).xlt = s.xlt := rfl
@[simp] theorem State.setTraceHall_host (s : State) (h : Nat) (v : TraceHall) : (s.setTraceHall h v).host = s.host := rfl
@[simp] theorem State.setTraceHall_hbm (s : State) (h : Nat) (v : TraceHall) : (s.setTraceHall h v).hbm = s.hbm := rfl
@[simp] theorem State.setTraceHall_fab (s : State) (h : Nat) (v : TraceHall) : (s.setTraceHall h v).fab = s.fab := rfl
@[simp] theorem State.setTraceHall_till (s : State) (h : Nat) (v : TraceHall) : (s.setTraceHall h v).till = s.till := rfl
@[simp] theorem State.setTraceHall_masks (s : State) (h : Nat) (v : TraceHall) : (s.setTraceHall h v).masks = s.masks := rfl
@[simp] theorem State.setTraceHall_replay (s : State) (h : Nat) (v : TraceHall) : (s.setTraceHall h v).replay = s.replay := rfl
@[simp] theorem State.setTraceHall_power (s : State) (h : Nat) (v : TraceHall) : (s.setTraceHall h v).power = s.power := rfl
@[simp] theorem State.setTraceHall_boot (s : State) (h : Nat) (v : TraceHall) : (s.setTraceHall h v).boot = s.boot := rfl
@[simp] theorem State.setTraceHall_rescale (s : State) (h : Nat) (v : TraceHall) : (s.setTraceHall h v).rescale = s.rescale := rfl
@[simp] theorem State.setTraceHall_rescaleFull (s : State) (h : Nat) (v : TraceHall) : (s.setTraceHall h v).rescaleFull = s.rescaleFull := rfl
@[simp] theorem State.setTraceHall_sweeps (s : State) (h : Nat) (v : TraceHall) : (s.setTraceHall h v).sweeps = s.sweeps := rfl
@[simp] theorem State.setTraceHall_xchk (s : State) (h : Nat) (v : TraceHall) : (s.setTraceHall h v).xchk = s.xchk := rfl
@[simp] theorem State.setTraceHall_weightEpoch (s : State) (h : Nat) (v : TraceHall) : (s.setTraceHall h v).weightEpoch = s.weightEpoch := rfl
@[simp] theorem State.setTraceHall_layoutEpoch (s : State) (h : Nat) (v : TraceHall) : (s.setTraceHall h v).layoutEpoch = s.layoutEpoch := rfl
@[simp] theorem State.setTraceHall_weights (s : State) (h : Nat) (v : TraceHall) : (s.setTraceHall h v).weights = s.weights := rfl
@[simp] theorem State.setTraceHall_layouts (s : State) (h : Nat) (v : TraceHall) : (s.setTraceHall h v).layouts = s.layouts := rfl
@[simp] theorem State.setTraceHall_colls (s : State) (h : Nat) (v : TraceHall) : (s.setTraceHall h v).colls = s.colls := rfl
@[simp] theorem State.setTraceHall_replica (s : State) (h : Nat) (v : TraceHall) : (s.setTraceHall h v).replica = s.replica := rfl
@[simp] theorem State.setTraceHall_roots (s : State) (h : Nat) (v : TraceHall) : (s.setTraceHall h v).roots = s.roots := rfl
@[simp] theorem State.setTraceHall_solver (s : State) (h : Nat) (v : TraceHall) : (s.setTraceHall h v).solver = s.solver := rfl
@[simp] theorem State.setTraceHall_trace (s : State) (h : Nat) (v : TraceHall) : (s.setTraceHall h v).trace = { s.trace with halls := s.trace.halls.set {} h v } := rfl

/-! ### modStall -/

@[simp] theorem State.modStall_pending (s : State) (k : Nat) (f : StallInfo → StallInfo) : (s.modStall k f).pending = s.pending := rfl
@[simp] theorem State.modStall_sent (s : State) (k : Nat) (f : StallInfo → StallInfo) : (s.modStall k f).sent = s.sent := rfl
@[simp] theorem State.modStall_partNo (s : State) (k : Nat) (f : StallInfo → StallInfo) : (s.modStall k f).partNo = s.partNo := rfl
@[simp] theorem State.modStall_pstate (s : State) (k : Nat) (f : StallInfo → StallInfo) : (s.modStall k f).pstate = s.pstate := rfl
@[simp] theorem State.modStall_startStep (s : State) (k : Nat) (f : StallInfo → StallInfo) : (s.modStall k f).startStep = s.startStep := rfl
@[simp] theorem State.modStall_startNo (s : State) (k : Nat) (f : StallInfo → StallInfo) : (s.modStall k f).startNo = s.startNo := rfl
@[simp] theorem State.modStall_clock (s : State) (k : Nat) (f : StallInfo → StallInfo) : (s.modStall k f).clock = s.clock := rfl
@[simp] theorem State.modStall_halls (s : State) (k : Nat) (f : StallInfo → StallInfo) : (s.modStall k f).halls = s.halls := rfl
@[simp] theorem State.modStall_aisles (s : State) (k : Nat) (f : StallInfo → StallInfo) : (s.modStall k f).aisles = s.aisles := rfl
@[simp] theorem State.modStall_threads (s : State) (k : Nat) (f : StallInfo → StallInfo) : (s.modStall k f).threads = s.threads := rfl
@[simp] theorem State.modStall_scratch (s : State) (k : Nat) (f : StallInfo → StallInfo) : (s.modStall k f).scratch = s.scratch := rfl
@[simp] theorem State.modStall_aisleMem (s : State) (k : Nat) (f : StallInfo → StallInfo) : (s.modStall k f).aisleMem = s.aisleMem := rfl
@[simp] theorem State.modStall_mem (s : State) (k : Nat) (f : StallInfo → StallInfo) : (s.modStall k f).mem = s.mem := rfl
@[simp] theorem State.modStall_poison (s : State) (k : Nat) (f : StallInfo → StallInfo) : (s.modStall k f).poison = s.poison := rfl
@[simp] theorem State.modStall_healed (s : State) (k : Nat) (f : StallInfo → StallInfo) : (s.modStall k f).healed = s.healed := rfl
@[simp] theorem State.modStall_graphs (s : State) (k : Nat) (f : StallInfo → StallInfo) : (s.modStall k f).graphs = s.graphs := rfl
@[simp] theorem State.modStall_tally (s : State) (k : Nat) (f : StallInfo → StallInfo) : (s.modStall k f).tally = s.tally := rfl
@[simp] theorem State.modStall_bell (s : State) (k : Nat) (f : StallInfo → StallInfo) : (s.modStall k f).bell = s.bell := rfl
@[simp] theorem State.modStall_xlt (s : State) (k : Nat) (f : StallInfo → StallInfo) : (s.modStall k f).xlt = s.xlt := rfl
@[simp] theorem State.modStall_host (s : State) (k : Nat) (f : StallInfo → StallInfo) : (s.modStall k f).host = s.host := rfl
@[simp] theorem State.modStall_hbm (s : State) (k : Nat) (f : StallInfo → StallInfo) : (s.modStall k f).hbm = s.hbm := rfl
@[simp] theorem State.modStall_fab (s : State) (k : Nat) (f : StallInfo → StallInfo) : (s.modStall k f).fab = s.fab := rfl
@[simp] theorem State.modStall_till (s : State) (k : Nat) (f : StallInfo → StallInfo) : (s.modStall k f).till = s.till := rfl
@[simp] theorem State.modStall_masks (s : State) (k : Nat) (f : StallInfo → StallInfo) : (s.modStall k f).masks = s.masks := rfl
@[simp] theorem State.modStall_replay (s : State) (k : Nat) (f : StallInfo → StallInfo) : (s.modStall k f).replay = s.replay := rfl
@[simp] theorem State.modStall_power (s : State) (k : Nat) (f : StallInfo → StallInfo) : (s.modStall k f).power = s.power := rfl
@[simp] theorem State.modStall_boot (s : State) (k : Nat) (f : StallInfo → StallInfo) : (s.modStall k f).boot = s.boot := rfl
@[simp] theorem State.modStall_rescale (s : State) (k : Nat) (f : StallInfo → StallInfo) : (s.modStall k f).rescale = s.rescale := rfl
@[simp] theorem State.modStall_rescaleFull (s : State) (k : Nat) (f : StallInfo → StallInfo) : (s.modStall k f).rescaleFull = s.rescaleFull := rfl
@[simp] theorem State.modStall_sweeps (s : State) (k : Nat) (f : StallInfo → StallInfo) : (s.modStall k f).sweeps = s.sweeps := rfl
@[simp] theorem State.modStall_xchk (s : State) (k : Nat) (f : StallInfo → StallInfo) : (s.modStall k f).xchk = s.xchk := rfl
@[simp] theorem State.modStall_weightEpoch (s : State) (k : Nat) (f : StallInfo → StallInfo) : (s.modStall k f).weightEpoch = s.weightEpoch := rfl
@[simp] theorem State.modStall_layoutEpoch (s : State) (k : Nat) (f : StallInfo → StallInfo) : (s.modStall k f).layoutEpoch = s.layoutEpoch := rfl
@[simp] theorem State.modStall_weights (s : State) (k : Nat) (f : StallInfo → StallInfo) : (s.modStall k f).weights = s.weights := rfl
@[simp] theorem State.modStall_layouts (s : State) (k : Nat) (f : StallInfo → StallInfo) : (s.modStall k f).layouts = s.layouts := rfl
@[simp] theorem State.modStall_colls (s : State) (k : Nat) (f : StallInfo → StallInfo) : (s.modStall k f).colls = s.colls := rfl
@[simp] theorem State.modStall_replica (s : State) (k : Nat) (f : StallInfo → StallInfo) : (s.modStall k f).replica = s.replica := rfl
@[simp] theorem State.modStall_roots (s : State) (k : Nat) (f : StallInfo → StallInfo) : (s.modStall k f).roots = s.roots := rfl
@[simp] theorem State.modStall_solver (s : State) (k : Nat) (f : StallInfo → StallInfo) : (s.modStall k f).solver = s.solver := rfl
@[simp] theorem State.modStall_trace (s : State) (k : Nat) (f : StallInfo → StallInfo) : (s.modStall k f).trace = s.trace := rfl

/-! ### modGraph -/

@[simp] theorem State.modGraph_pending (s : State) (g : Nat) (f : Graph → Graph) : (s.modGraph g f).pending = s.pending := by unfold State.modGraph; split <;> rfl
@[simp] theorem State.modGraph_sent (s : State) (g : Nat) (f : Graph → Graph) : (s.modGraph g f).sent = s.sent := by unfold State.modGraph; split <;> rfl
@[simp] theorem State.modGraph_partNo (s : State) (g : Nat) (f : Graph → Graph) : (s.modGraph g f).partNo = s.partNo := by unfold State.modGraph; split <;> rfl
@[simp] theorem State.modGraph_pstate (s : State) (g : Nat) (f : Graph → Graph) : (s.modGraph g f).pstate = s.pstate := by unfold State.modGraph; split <;> rfl
@[simp] theorem State.modGraph_startStep (s : State) (g : Nat) (f : Graph → Graph) : (s.modGraph g f).startStep = s.startStep := by unfold State.modGraph; split <;> rfl
@[simp] theorem State.modGraph_startNo (s : State) (g : Nat) (f : Graph → Graph) : (s.modGraph g f).startNo = s.startNo := by unfold State.modGraph; split <;> rfl
@[simp] theorem State.modGraph_clock (s : State) (g : Nat) (f : Graph → Graph) : (s.modGraph g f).clock = s.clock := by unfold State.modGraph; split <;> rfl
@[simp] theorem State.modGraph_halls (s : State) (g : Nat) (f : Graph → Graph) : (s.modGraph g f).halls = s.halls := by unfold State.modGraph; split <;> rfl
@[simp] theorem State.modGraph_aisles (s : State) (g : Nat) (f : Graph → Graph) : (s.modGraph g f).aisles = s.aisles := by unfold State.modGraph; split <;> rfl
@[simp] theorem State.modGraph_stalls (s : State) (g : Nat) (f : Graph → Graph) : (s.modGraph g f).stalls = s.stalls := by unfold State.modGraph; split <;> rfl
@[simp] theorem State.modGraph_threads (s : State) (g : Nat) (f : Graph → Graph) : (s.modGraph g f).threads = s.threads := by unfold State.modGraph; split <;> rfl
@[simp] theorem State.modGraph_scratch (s : State) (g : Nat) (f : Graph → Graph) : (s.modGraph g f).scratch = s.scratch := by unfold State.modGraph; split <;> rfl
@[simp] theorem State.modGraph_aisleMem (s : State) (g : Nat) (f : Graph → Graph) : (s.modGraph g f).aisleMem = s.aisleMem := by unfold State.modGraph; split <;> rfl
@[simp] theorem State.modGraph_mem (s : State) (g : Nat) (f : Graph → Graph) : (s.modGraph g f).mem = s.mem := by unfold State.modGraph; split <;> rfl
@[simp] theorem State.modGraph_poison (s : State) (g : Nat) (f : Graph → Graph) : (s.modGraph g f).poison = s.poison := by unfold State.modGraph; split <;> rfl
@[simp] theorem State.modGraph_healed (s : State) (g : Nat) (f : Graph → Graph) : (s.modGraph g f).healed = s.healed := by unfold State.modGraph; split <;> rfl
@[simp] theorem State.modGraph_tally (s : State) (g : Nat) (f : Graph → Graph) : (s.modGraph g f).tally = s.tally := by unfold State.modGraph; split <;> rfl
@[simp] theorem State.modGraph_bell (s : State) (g : Nat) (f : Graph → Graph) : (s.modGraph g f).bell = s.bell := by unfold State.modGraph; split <;> rfl
@[simp] theorem State.modGraph_xlt (s : State) (g : Nat) (f : Graph → Graph) : (s.modGraph g f).xlt = s.xlt := by unfold State.modGraph; split <;> rfl
@[simp] theorem State.modGraph_host (s : State) (g : Nat) (f : Graph → Graph) : (s.modGraph g f).host = s.host := by unfold State.modGraph; split <;> rfl
@[simp] theorem State.modGraph_hbm (s : State) (g : Nat) (f : Graph → Graph) : (s.modGraph g f).hbm = s.hbm := by unfold State.modGraph; split <;> rfl
@[simp] theorem State.modGraph_fab (s : State) (g : Nat) (f : Graph → Graph) : (s.modGraph g f).fab = s.fab := by unfold State.modGraph; split <;> rfl
@[simp] theorem State.modGraph_till (s : State) (g : Nat) (f : Graph → Graph) : (s.modGraph g f).till = s.till := by unfold State.modGraph; split <;> rfl
@[simp] theorem State.modGraph_masks (s : State) (g : Nat) (f : Graph → Graph) : (s.modGraph g f).masks = s.masks := by unfold State.modGraph; split <;> rfl
@[simp] theorem State.modGraph_replay (s : State) (g : Nat) (f : Graph → Graph) : (s.modGraph g f).replay = s.replay := by unfold State.modGraph; split <;> rfl
@[simp] theorem State.modGraph_power (s : State) (g : Nat) (f : Graph → Graph) : (s.modGraph g f).power = s.power := by unfold State.modGraph; split <;> rfl
@[simp] theorem State.modGraph_boot (s : State) (g : Nat) (f : Graph → Graph) : (s.modGraph g f).boot = s.boot := by unfold State.modGraph; split <;> rfl
@[simp] theorem State.modGraph_rescale (s : State) (g : Nat) (f : Graph → Graph) : (s.modGraph g f).rescale = s.rescale := by unfold State.modGraph; split <;> rfl
@[simp] theorem State.modGraph_rescaleFull (s : State) (g : Nat) (f : Graph → Graph) : (s.modGraph g f).rescaleFull = s.rescaleFull := by unfold State.modGraph; split <;> rfl
@[simp] theorem State.modGraph_sweeps (s : State) (g : Nat) (f : Graph → Graph) : (s.modGraph g f).sweeps = s.sweeps := by unfold State.modGraph; split <;> rfl
@[simp] theorem State.modGraph_xchk (s : State) (g : Nat) (f : Graph → Graph) : (s.modGraph g f).xchk = s.xchk := by unfold State.modGraph; split <;> rfl
@[simp] theorem State.modGraph_weightEpoch (s : State) (g : Nat) (f : Graph → Graph) : (s.modGraph g f).weightEpoch = s.weightEpoch := by unfold State.modGraph; split <;> rfl
@[simp] theorem State.modGraph_layoutEpoch (s : State) (g : Nat) (f : Graph → Graph) : (s.modGraph g f).layoutEpoch = s.layoutEpoch := by unfold State.modGraph; split <;> rfl
@[simp] theorem State.modGraph_weights (s : State) (g : Nat) (f : Graph → Graph) : (s.modGraph g f).weights = s.weights := by unfold State.modGraph; split <;> rfl
@[simp] theorem State.modGraph_layouts (s : State) (g : Nat) (f : Graph → Graph) : (s.modGraph g f).layouts = s.layouts := by unfold State.modGraph; split <;> rfl
@[simp] theorem State.modGraph_colls (s : State) (g : Nat) (f : Graph → Graph) : (s.modGraph g f).colls = s.colls := by unfold State.modGraph; split <;> rfl
@[simp] theorem State.modGraph_replica (s : State) (g : Nat) (f : Graph → Graph) : (s.modGraph g f).replica = s.replica := by unfold State.modGraph; split <;> rfl
@[simp] theorem State.modGraph_roots (s : State) (g : Nat) (f : Graph → Graph) : (s.modGraph g f).roots = s.roots := by unfold State.modGraph; split <;> rfl
@[simp] theorem State.modGraph_solver (s : State) (g : Nat) (f : Graph → Graph) : (s.modGraph g f).solver = s.solver := by unfold State.modGraph; split <;> rfl
@[simp] theorem State.modGraph_trace (s : State) (g : Nat) (f : Graph → Graph) : (s.modGraph g f).trace = s.trace := by unfold State.modGraph; split <;> rfl

/-! ### modThread -/

@[simp] theorem State.modThread_pending (s : State) (t : Nat) (f : Thread → Thread) : (s.modThread t f).pending = s.pending := by unfold State.modThread; split <;> rfl
@[simp] theorem State.modThread_sent (s : State) (t : Nat) (f : Thread → Thread) : (s.modThread t f).sent = s.sent := by unfold State.modThread; split <;> rfl
@[simp] theorem State.modThread_partNo (s : State) (t : Nat) (f : Thread → Thread) : (s.modThread t f).partNo = s.partNo := by unfold State.modThread; split <;> rfl
@[simp] theorem State.modThread_pstate (s : State) (t : Nat) (f : Thread → Thread) : (s.modThread t f).pstate = s.pstate := by unfold State.modThread; split <;> rfl
@[simp] theorem State.modThread_startStep (s : State) (t : Nat) (f : Thread → Thread) : (s.modThread t f).startStep = s.startStep := by unfold State.modThread; split <;> rfl
@[simp] theorem State.modThread_startNo (s : State) (t : Nat) (f : Thread → Thread) : (s.modThread t f).startNo = s.startNo := by unfold State.modThread; split <;> rfl
@[simp] theorem State.modThread_clock (s : State) (t : Nat) (f : Thread → Thread) : (s.modThread t f).clock = s.clock := by unfold State.modThread; split <;> rfl
@[simp] theorem State.modThread_halls (s : State) (t : Nat) (f : Thread → Thread) : (s.modThread t f).halls = s.halls := by unfold State.modThread; split <;> rfl
@[simp] theorem State.modThread_aisles (s : State) (t : Nat) (f : Thread → Thread) : (s.modThread t f).aisles = s.aisles := by unfold State.modThread; split <;> rfl
@[simp] theorem State.modThread_stalls (s : State) (t : Nat) (f : Thread → Thread) : (s.modThread t f).stalls = s.stalls := by unfold State.modThread; split <;> rfl
@[simp] theorem State.modThread_scratch (s : State) (t : Nat) (f : Thread → Thread) : (s.modThread t f).scratch = s.scratch := by unfold State.modThread; split <;> rfl
@[simp] theorem State.modThread_aisleMem (s : State) (t : Nat) (f : Thread → Thread) : (s.modThread t f).aisleMem = s.aisleMem := by unfold State.modThread; split <;> rfl
@[simp] theorem State.modThread_mem (s : State) (t : Nat) (f : Thread → Thread) : (s.modThread t f).mem = s.mem := by unfold State.modThread; split <;> rfl
@[simp] theorem State.modThread_poison (s : State) (t : Nat) (f : Thread → Thread) : (s.modThread t f).poison = s.poison := by unfold State.modThread; split <;> rfl
@[simp] theorem State.modThread_healed (s : State) (t : Nat) (f : Thread → Thread) : (s.modThread t f).healed = s.healed := by unfold State.modThread; split <;> rfl
@[simp] theorem State.modThread_graphs (s : State) (t : Nat) (f : Thread → Thread) : (s.modThread t f).graphs = s.graphs := by unfold State.modThread; split <;> rfl
@[simp] theorem State.modThread_tally (s : State) (t : Nat) (f : Thread → Thread) : (s.modThread t f).tally = s.tally := by unfold State.modThread; split <;> rfl
@[simp] theorem State.modThread_bell (s : State) (t : Nat) (f : Thread → Thread) : (s.modThread t f).bell = s.bell := by unfold State.modThread; split <;> rfl
@[simp] theorem State.modThread_xlt (s : State) (t : Nat) (f : Thread → Thread) : (s.modThread t f).xlt = s.xlt := by unfold State.modThread; split <;> rfl
@[simp] theorem State.modThread_host (s : State) (t : Nat) (f : Thread → Thread) : (s.modThread t f).host = s.host := by unfold State.modThread; split <;> rfl
@[simp] theorem State.modThread_hbm (s : State) (t : Nat) (f : Thread → Thread) : (s.modThread t f).hbm = s.hbm := by unfold State.modThread; split <;> rfl
@[simp] theorem State.modThread_fab (s : State) (t : Nat) (f : Thread → Thread) : (s.modThread t f).fab = s.fab := by unfold State.modThread; split <;> rfl
@[simp] theorem State.modThread_till (s : State) (t : Nat) (f : Thread → Thread) : (s.modThread t f).till = s.till := by unfold State.modThread; split <;> rfl
@[simp] theorem State.modThread_masks (s : State) (t : Nat) (f : Thread → Thread) : (s.modThread t f).masks = s.masks := by unfold State.modThread; split <;> rfl
@[simp] theorem State.modThread_replay (s : State) (t : Nat) (f : Thread → Thread) : (s.modThread t f).replay = s.replay := by unfold State.modThread; split <;> rfl
@[simp] theorem State.modThread_power (s : State) (t : Nat) (f : Thread → Thread) : (s.modThread t f).power = s.power := by unfold State.modThread; split <;> rfl
@[simp] theorem State.modThread_boot (s : State) (t : Nat) (f : Thread → Thread) : (s.modThread t f).boot = s.boot := by unfold State.modThread; split <;> rfl
@[simp] theorem State.modThread_rescale (s : State) (t : Nat) (f : Thread → Thread) : (s.modThread t f).rescale = s.rescale := by unfold State.modThread; split <;> rfl
@[simp] theorem State.modThread_rescaleFull (s : State) (t : Nat) (f : Thread → Thread) : (s.modThread t f).rescaleFull = s.rescaleFull := by unfold State.modThread; split <;> rfl
@[simp] theorem State.modThread_sweeps (s : State) (t : Nat) (f : Thread → Thread) : (s.modThread t f).sweeps = s.sweeps := by unfold State.modThread; split <;> rfl
@[simp] theorem State.modThread_xchk (s : State) (t : Nat) (f : Thread → Thread) : (s.modThread t f).xchk = s.xchk := by unfold State.modThread; split <;> rfl
@[simp] theorem State.modThread_weightEpoch (s : State) (t : Nat) (f : Thread → Thread) : (s.modThread t f).weightEpoch = s.weightEpoch := by unfold State.modThread; split <;> rfl
@[simp] theorem State.modThread_layoutEpoch (s : State) (t : Nat) (f : Thread → Thread) : (s.modThread t f).layoutEpoch = s.layoutEpoch := by unfold State.modThread; split <;> rfl
@[simp] theorem State.modThread_weights (s : State) (t : Nat) (f : Thread → Thread) : (s.modThread t f).weights = s.weights := by unfold State.modThread; split <;> rfl
@[simp] theorem State.modThread_layouts (s : State) (t : Nat) (f : Thread → Thread) : (s.modThread t f).layouts = s.layouts := by unfold State.modThread; split <;> rfl
@[simp] theorem State.modThread_colls (s : State) (t : Nat) (f : Thread → Thread) : (s.modThread t f).colls = s.colls := by unfold State.modThread; split <;> rfl
@[simp] theorem State.modThread_replica (s : State) (t : Nat) (f : Thread → Thread) : (s.modThread t f).replica = s.replica := by unfold State.modThread; split <;> rfl
@[simp] theorem State.modThread_roots (s : State) (t : Nat) (f : Thread → Thread) : (s.modThread t f).roots = s.roots := by unfold State.modThread; split <;> rfl
@[simp] theorem State.modThread_solver (s : State) (t : Nat) (f : Thread → Thread) : (s.modThread t f).solver = s.solver := by unfold State.modThread; split <;> rfl
@[simp] theorem State.modThread_trace (s : State) (t : Nat) (f : Thread → Thread) : (s.modThread t f).trace = s.trace := by unfold State.modThread; split <;> rfl

/-! ### modTask -/

@[simp] theorem State.modTask_pending (s : State) (g t : Nat) (f : TaskSt → TaskSt) : (s.modTask g t f).pending = s.pending := State.modGraph_pending _ _ _
@[simp] theorem State.modTask_sent (s : State) (g t : Nat) (f : TaskSt → TaskSt) : (s.modTask g t f).sent = s.sent := State.modGraph_sent _ _ _
@[simp] theorem State.modTask_partNo (s : State) (g t : Nat) (f : TaskSt → TaskSt) : (s.modTask g t f).partNo = s.partNo := State.modGraph_partNo _ _ _
@[simp] theorem State.modTask_pstate (s : State) (g t : Nat) (f : TaskSt → TaskSt) : (s.modTask g t f).pstate = s.pstate := State.modGraph_pstate _ _ _
@[simp] theorem State.modTask_startStep (s : State) (g t : Nat) (f : TaskSt → TaskSt) : (s.modTask g t f).startStep = s.startStep := State.modGraph_startStep _ _ _
@[simp] theorem State.modTask_startNo (s : State) (g t : Nat) (f : TaskSt → TaskSt) : (s.modTask g t f).startNo = s.startNo := State.modGraph_startNo _ _ _
@[simp] theorem State.modTask_clock (s : State) (g t : Nat) (f : TaskSt → TaskSt) : (s.modTask g t f).clock = s.clock := State.modGraph_clock _ _ _
@[simp] theorem State.modTask_halls (s : State) (g t : Nat) (f : TaskSt → TaskSt) : (s.modTask g t f).halls = s.halls := State.modGraph_halls _ _ _
@[simp] theorem State.modTask_aisles (s : State) (g t : Nat) (f : TaskSt → TaskSt) : (s.modTask g t f).aisles = s.aisles := State.modGraph_aisles _ _ _
@[simp] theorem State.modTask_stalls (s : State) (g t : Nat) (f : TaskSt → TaskSt) : (s.modTask g t f).stalls = s.stalls := State.modGraph_stalls _ _ _
@[simp] theorem State.modTask_threads (s : State) (g t : Nat) (f : TaskSt → TaskSt) : (s.modTask g t f).threads = s.threads := State.modGraph_threads _ _ _
@[simp] theorem State.modTask_scratch (s : State) (g t : Nat) (f : TaskSt → TaskSt) : (s.modTask g t f).scratch = s.scratch := State.modGraph_scratch _ _ _
@[simp] theorem State.modTask_aisleMem (s : State) (g t : Nat) (f : TaskSt → TaskSt) : (s.modTask g t f).aisleMem = s.aisleMem := State.modGraph_aisleMem _ _ _
@[simp] theorem State.modTask_mem (s : State) (g t : Nat) (f : TaskSt → TaskSt) : (s.modTask g t f).mem = s.mem := State.modGraph_mem _ _ _
@[simp] theorem State.modTask_poison (s : State) (g t : Nat) (f : TaskSt → TaskSt) : (s.modTask g t f).poison = s.poison := State.modGraph_poison _ _ _
@[simp] theorem State.modTask_healed (s : State) (g t : Nat) (f : TaskSt → TaskSt) : (s.modTask g t f).healed = s.healed := State.modGraph_healed _ _ _
@[simp] theorem State.modTask_tally (s : State) (g t : Nat) (f : TaskSt → TaskSt) : (s.modTask g t f).tally = s.tally := State.modGraph_tally _ _ _
@[simp] theorem State.modTask_bell (s : State) (g t : Nat) (f : TaskSt → TaskSt) : (s.modTask g t f).bell = s.bell := State.modGraph_bell _ _ _
@[simp] theorem State.modTask_xlt (s : State) (g t : Nat) (f : TaskSt → TaskSt) : (s.modTask g t f).xlt = s.xlt := State.modGraph_xlt _ _ _
@[simp] theorem State.modTask_host (s : State) (g t : Nat) (f : TaskSt → TaskSt) : (s.modTask g t f).host = s.host := State.modGraph_host _ _ _
@[simp] theorem State.modTask_hbm (s : State) (g t : Nat) (f : TaskSt → TaskSt) : (s.modTask g t f).hbm = s.hbm := State.modGraph_hbm _ _ _
@[simp] theorem State.modTask_fab (s : State) (g t : Nat) (f : TaskSt → TaskSt) : (s.modTask g t f).fab = s.fab := State.modGraph_fab _ _ _
@[simp] theorem State.modTask_till (s : State) (g t : Nat) (f : TaskSt → TaskSt) : (s.modTask g t f).till = s.till := State.modGraph_till _ _ _
@[simp] theorem State.modTask_masks (s : State) (g t : Nat) (f : TaskSt → TaskSt) : (s.modTask g t f).masks = s.masks := State.modGraph_masks _ _ _
@[simp] theorem State.modTask_replay (s : State) (g t : Nat) (f : TaskSt → TaskSt) : (s.modTask g t f).replay = s.replay := State.modGraph_replay _ _ _
@[simp] theorem State.modTask_power (s : State) (g t : Nat) (f : TaskSt → TaskSt) : (s.modTask g t f).power = s.power := State.modGraph_power _ _ _
@[simp] theorem State.modTask_boot (s : State) (g t : Nat) (f : TaskSt → TaskSt) : (s.modTask g t f).boot = s.boot := State.modGraph_boot _ _ _
@[simp] theorem State.modTask_rescale (s : State) (g t : Nat) (f : TaskSt → TaskSt) : (s.modTask g t f).rescale = s.rescale := State.modGraph_rescale _ _ _
@[simp] theorem State.modTask_rescaleFull (s : State) (g t : Nat) (f : TaskSt → TaskSt) : (s.modTask g t f).rescaleFull = s.rescaleFull := State.modGraph_rescaleFull _ _ _
@[simp] theorem State.modTask_sweeps (s : State) (g t : Nat) (f : TaskSt → TaskSt) : (s.modTask g t f).sweeps = s.sweeps := State.modGraph_sweeps _ _ _
@[simp] theorem State.modTask_xchk (s : State) (g t : Nat) (f : TaskSt → TaskSt) : (s.modTask g t f).xchk = s.xchk := State.modGraph_xchk _ _ _
@[simp] theorem State.modTask_weightEpoch (s : State) (g t : Nat) (f : TaskSt → TaskSt) : (s.modTask g t f).weightEpoch = s.weightEpoch := State.modGraph_weightEpoch _ _ _
@[simp] theorem State.modTask_layoutEpoch (s : State) (g t : Nat) (f : TaskSt → TaskSt) : (s.modTask g t f).layoutEpoch = s.layoutEpoch := State.modGraph_layoutEpoch _ _ _
@[simp] theorem State.modTask_weights (s : State) (g t : Nat) (f : TaskSt → TaskSt) : (s.modTask g t f).weights = s.weights := State.modGraph_weights _ _ _
@[simp] theorem State.modTask_layouts (s : State) (g t : Nat) (f : TaskSt → TaskSt) : (s.modTask g t f).layouts = s.layouts := State.modGraph_layouts _ _ _
@[simp] theorem State.modTask_colls (s : State) (g t : Nat) (f : TaskSt → TaskSt) : (s.modTask g t f).colls = s.colls := State.modGraph_colls _ _ _
@[simp] theorem State.modTask_replica (s : State) (g t : Nat) (f : TaskSt → TaskSt) : (s.modTask g t f).replica = s.replica := State.modGraph_replica _ _ _
@[simp] theorem State.modTask_roots (s : State) (g t : Nat) (f : TaskSt → TaskSt) : (s.modTask g t f).roots = s.roots := State.modGraph_roots _ _ _
@[simp] theorem State.modTask_solver (s : State) (g t : Nat) (f : TaskSt → TaskSt) : (s.modTask g t f).solver = s.solver := State.modGraph_solver _ _ _
@[simp] theorem State.modTask_trace (s : State) (g t : Nat) (f : TaskSt → TaskSt) : (s.modTask g t f).trace = s.trace := State.modGraph_trace _ _ _

/-! ### One entry read after it is written -/

@[simp] theorem State.setHall_hall (s : State) (k : Nat) (v : HallInfo) : (s.setHall k v).hall k = v := SMap.get_set_same ..
theorem State.setHall_hall_of_ne (s : State) (v : HallInfo) {j k : Nat} (hne : k ≠ j) : (s.setHall j v).hall k = s.hall k := SMap.get_set_other _ _ _ hne
@[simp] theorem State.setAisle_aisle (s : State) (k : Nat) (v : AisleInfo) : (s.setAisle k v).aisle k = v := SMap.get_set_same ..
theorem State.setAisle_aisle_of_ne (s : State) (v : AisleInfo) {j k : Nat} (hne : k ≠ j) : (s.setAisle j v).aisle k = s.aisle k := SMap.get_set_other _ _ _ hne
@[simp] theorem State.setStall_stall (s : State) (k : Nat) (v : StallInfo) : (s.setStall k v).stall k = v := SMap.get_set_same ..
theorem State.setStall_stall_of_ne (s : State) (v : StallInfo) {j k : Nat} (hne : k ≠ j) : (s.setStall j v).stall k = s.stall k := SMap.get_set_other _ _ _ hne
@[simp] theorem State.setThread_thread (s : State) (k : Nat) (v : Option Thread) : (s.setThread k v).thread k = v := SMap.get_set_same ..
theorem State.setThread_thread_of_ne (s : State) (v : Option Thread) {j k : Nat} (hne : k ≠ j) : (s.setThread j v).thread k = s.thread k := SMap.get_set_other _ _ _ hne
@[simp] theorem State.setGraph_graph (s : State) (k : Nat) (v : Option Graph) : (s.setGraph k v).graph k = v := SMap.get_set_same ..
theorem State.setGraph_graph_of_ne (s : State) (v : Option Graph) {j k : Nat} (hne : k ≠ j) : (s.setGraph j v).graph k = s.graph k := SMap.get_set_other _ _ _ hne
@[simp] theorem State.setStack_stack (s : State) (k : Nat) (v : Stack) : (s.setStack k v).stack k = v := SMap.get_set_same ..
theorem State.setStack_stack_of_ne (s : State) (v : Stack) {j k : Nat} (hne : k ≠ j) : (s.setStack j v).stack k = s.stack k := SMap.get_set_other _ _ _ hne

end Sys2Proof.Machine
end

