-- ==== Sys2Proof/Laws/Ops.lean ====
section
/-! SUPPORT. What the shared operations can change, said once for each: an interrupt, a ring entry, a held entry and a reply
change the host interface and what has been sent (`State.Sends`); an alert and a count also change the pending alerts and
Tally (`State.Counts`); a fault record and a trace record also write the trace buffer in memory (`State.Records`). -/

namespace Sys2Proof.Machine

/-! ### The three relations -/

/-- Nothing but the host interface and what was sent differs. -/
def State.Sends (s u : State) : Prop := u = { s with host := u.host, sent := u.sent }

/-- Nothing but the host interface, what was sent, the pending alerts and Tally differs. -/
def State.Counts (s u : State) : Prop :=
  u = { s with host := u.host, sent := u.sent, tally := u.tally, power := { s.power with alertPending := u.power.alertPending } }

/-- Nothing but the host interface, what was sent, the pending alerts, Tally, the trace state and memory differs. -/
def State.Records (s u : State) : Prop :=
  u = { s with host := u.host, sent := u.sent, tally := u.tally, power := { s.power with alertPending := u.power.alertPending },
               trace := u.trace, mem := u.mem }

theorem State.Sends.refl (s : State) : s.Sends s := rfl
theorem State.Counts.refl (s : State) : s.Counts s := rfl
theorem State.Records.refl (s : State) : s.Records s := rfl

theorem State.Sends.trans {s u v : State} (h : s.Sends u) (k : u.Sends v) : s.Sends v := by
  unfold State.Sends at *; rw [k, h]
theorem State.Counts.trans {s u v : State} (h : s.Counts u) (k : u.Counts v) : s.Counts v := by
  unfold State.Counts at *; rw [k, h]
theorem State.Records.trans {s u v : State} (h : s.Records u) (k : u.Records v) : s.Records v := by
  unfold State.Records at *; rw [k, h]

theorem State.Sends.counts {s u : State} (h : s.Sends u) : s.Counts u := by
  unfold State.Sends at h; unfold State.Counts; rw [h]
theorem State.Counts.records {s u : State} (h : s.Counts u) : s.Records u := by
  unfold State.Counts at h; unfold State.Records; rw [h]
theorem State.Sends.records {s u : State} (h : s.Sends u) : s.Records u := h.counts.records

/-! ### Interrupts, ring entries and replies (R525 to R529) -/

theorem sends_setHost (s : State) (v : HostIf) : s.Sends (s.setHost v) := rfl
theorem sends_send (s : State) (o : Sent) : s.Sends (s.send o) := rfl

theorem sends_msix (s : State) (vec : Nat) : s.Sends (s.msix vec) := by
  unfold State.msix; split <;> rfl

theorem sends_setErr (s : State) (i : Nat) : s.Sends (s.setErr i) := by
  unfold State.setErr; dsimp only; split
  · rfl
  · exact (sends_setHost ..).trans (sends_msix ..)

theorem sends_irqEntry (s : State) (kind : Nat) : s.Sends (s.irqEntry kind) := by
  unfold State.irqEntry; dsimp only; split
  · exact (sends_setHost ..).trans (sends_msix ..)
  · rfl

theorem sends_writeEntry (s : State) (kind : Nat) (body : List Byte) : s.Sends (s.writeEntry kind body) := by
  unfold State.writeEntry
  exact ((sends_send ..).trans (sends_setHost ..)).trans (sends_irqEntry ..)

theorem sends_drainEvents (n : Nat) (s : State) : s.Sends (drainEvents n s) := by
  induction n generalizing s with
  | zero => exact .refl s
  | succ n ih =>
    unfold drainEvents
    split
    · exact .refl s
    · split
      · exact ((sends_setHost ..).trans (sends_writeEntry ..)).trans (ih _)
      · split
        · exact .refl s
        · exact ((sends_setHost ..).trans (sends_writeEntry ..)).trans (ih _)

theorem sends_loseEntry (s : State) : s.Sends s.loseEntry := (sends_setHost ..).trans (sends_setErr ..)

theorem sends_post (s : State) (kind : Nat) (tag : W64) (rec : List Byte) : s.Sends (s.post kind tag rec) := by
  unfold State.post; dsimp only; split
  · exact sends_writeEntry ..
  · split
    · rfl
    · exact (sends_loseEntry ..).trans (sends_drainEvents ..)

theorem sends_reply (s : State) (c : Cmd) (st : Byte) (rs : List W64) : s.Sends (s.reply c st rs) := by
  unfold State.reply; dsimp only; split
  · exact (sends_setHost ..).trans (sends_loseEntry ..)
  · split
    · exact (sends_setHost ..).trans (sends_writeEntry ..)
    · rfl

/-- A fold of updates each of which only sends only sends. -/
theorem sends_foldl {α : Type} (l : List α) (f : State → α → State) (h : ∀ (s : State) (a : α), s.Sends (f s a)) (s : State) :
    s.Sends (l.foldl f s) := by
  induction l generalizing s with
  | nil => exact .refl s
  | cons a l ih => exact (h s a).trans (ih _)

theorem counts_foldl {α : Type} (l : List α) (f : State → α → State) (h : ∀ (s : State) (a : α), s.Counts (f s a)) (s : State) :
    s.Counts (l.foldl f s) := by
  induction l generalizing s with
  | nil => exact .refl s
  | cons a l ih => exact (h s a).trans (ih _)

theorem records_foldl {α : Type} (l : List α) (f : State → α → State) (h : ∀ (s : State) (a : α), s.Records (f s a)) (s : State) :
    s.Records (l.foldl f s) := by
  induction l generalizing s with
  | nil => exact .refl s
  | cons a l ih => exact (h s a).trans (ih _)

theorem sends_replyWaiting (s : State) (w : CmdWait) (st : Byte) (rs : List W64) : s.Sends (s.replyWaiting w st rs) :=
  sends_foldl _ _ (fun s c => sends_reply s c st rs) s

/-! ### Alerts and Tally (R596 to R600) -/

theorem counts_raiseAlert (s : State) (n : Nat) : s.Counts (s.raiseAlert n) := by
  unfold State.raiseAlert; split
  · dsimp only; split
    · refine State.Counts.trans ?_ (sends_post ..).counts; rfl
    · refine State.Counts.trans ?_ (sends_post ..).counts; rfl
  · exact .refl s

theorem counts_counterAlert (s : State) (n : Nat) : s.Counts (s.counterAlert n) := by
  unfold State.counterAlert; split
  · split
    · exact counts_raiseAlert ..
    · exact .refl s
  · exact .refl s

theorem counts_count (s : State) (n : TallyName) (unit k : Nat) : s.Counts (s.count n unit k) := by
  unfold State.count; dsimp only; split
  · rfl
  · refine State.Counts.trans ?_ (counts_foldl _ _ counts_counterAlert _); rfl

theorem counts_gauge (s : State) (n : TallyName) (unit : Nat) (v : W64) : s.Counts (s.gauge n unit v) := rfl

/-! ### Trace and fault records (R606, R607, R634, R635) -/

theorem records_setTraceHall (s : State) (h : Nat) (v : TraceHall) : s.Records (s.setTraceHall h v) := rfl

theorem records_tracePut (s : State) (c : TraceCfg) (h : Nat) (trig : Bool) (b : List Byte) : s.Records (s.tracePut c h trig b) :=
  rfl

theorem records_traceRecord (s : State) (c : TraceCfg) (h : Nat) (trig : Bool) (b : List Byte) :
    s.Records (s.traceRecord c h trig b) := by
  unfold State.traceRecord; dsimp only; split
  · exact .refl s
  · split
    · exact (records_setTraceHall ..).trans (counts_count ..).records
    · split <;> rfl

theorem records_traceEvent (s : State) (h ev : Nat) (unit : W16) (data : Nat) : s.Records (s.traceEvent h ev unit data) := by
  unfold State.traceEvent; split
  · exact .refl s
  · split
    · exact records_traceRecord ..
    · exact .refl s

theorem records_traceStall (s : State) (k ev data : Nat) : s.Records (s.traceStall k ev data) := records_traceEvent ..

theorem records_traceTrigger (s : State) : s.Records s.traceTrigger := by
  unfold State.traceTrigger; split
  · exact .refl s
  · split
    · exact .refl s
    · refine State.Records.trans ?_ (records_foldl _ _ (fun s h => records_traceRecord ..) _); rfl

theorem records_fault (s : State) (r : FaultRec) : s.Records (s.fault r) := by
  unfold State.fault; dsimp only
  refine State.Records.trans ?_ ((sends_setHost ..).trans (sends_post ..)).records
  refine (records_traceEvent s r.lcHall.val 5 (if r.level = 0 then r.lunit else 0) r.cls.code.toNat).trans ?_
  generalize s.traceEvent r.lcHall.val 5 (if r.level = 0 then r.lunit else 0) r.cls.code.toNat = u
  cases u.trace.cfg.any fun c => c.trig.getLsbD 1 && c.cls = r.cls.code
  · exact .refl u
  · exact records_traceTrigger u

theorem records_partFault (s : State) (cls : FaultClass) (utype action : Byte) (lunit : W16) (tags detail : W64) :
    s.Records (s.partFault cls utype action lunit tags detail) := records_fault ..
theorem records_hallFault (s : State) (h : Nat) (cls : FaultClass) (utype action : Byte) (lunit : W16) (tags detail : W64) :
    s.Records (s.hallFault h cls utype action lunit tags detail) := records_fault ..
theorem records_stallFault (s : State) (st : Nat) (cls : FaultClass) (action : Byte) (tags detail : W64) :
    s.Records (s.stallFault st cls action tags detail) := records_fault ..
theorem records_aisleFault (s : State) (a : Nat) (cls : FaultClass) (action : Byte) (tags detail : W64) :
    s.Records (s.aisleFault a cls action tags detail) := records_fault ..

/-- With no trace configured a fault record reaches the host interface only: its log and its ring. -/
theorem sends_fault_untraced (s : State) (r : FaultRec) (h : s.trace.cfg = none) : s.Sends (s.fault r) := by
  unfold State.fault State.traceEvent
  simp only [h, Option.any_none, Bool.false_eq_true, if_false]
  exact (sends_setHost ..).trans (sends_post ..)

/-! ### What these relations leave alone -/

theorem State.Records.frame {s u : State} (h : s.Records u) :
    u.pending = s.pending ∧ u.clock = s.clock ∧ u.halls = s.halls ∧ u.aisles = s.aisles ∧ u.stalls = s.stalls
      ∧ u.threads = s.threads ∧ u.graphs = s.graphs ∧ u.bell = s.bell ∧ u.xlt = s.xlt ∧ u.fab = s.fab ∧ u.till = s.till
      ∧ u.scratch = s.scratch ∧ u.aisleMem = s.aisleMem ∧ u.hbm = s.hbm ∧ u.boot = s.boot := by
  rw [h]; simp

theorem State.Counts.frame {s u : State} (h : s.Counts u) : u.mem = s.mem ∧ u.trace = s.trace := by
  rw [h]; simp

theorem State.Sends.frame {s u : State} (h : s.Sends u) : u.tally = s.tally ∧ u.power = s.power := by
  rw [h]; simp

/-! ### Retirement (R115) -/

/-- Retirement writes one thread and the order stamp. -/
theorem retire_eq (s : State) (k : Nat) (th : Thread) :
    s.retire k th = { s with threads := s.threads.set none k (some { th with pc := th.pc + 8, issued := s.clock, fetched := none }),
                             clock := s.clock + 1 } := rfl

theorem retire_thread (s : State) (k : Nat) (th : Thread) :
    (s.retire k th).thread k = some { th with pc := th.pc + 8, issued := s.clock, fetched := none } := by
  unfold State.retire State.thread
  simp only [State.tick_threads, State.setThread_threads]
  exact SMap.get_set_same none s.threads k _

theorem retire_thread_of_ne (s : State) (th : Thread) {k j : Nat} (h : j ≠ k) : (s.retire k th).thread j = s.thread j := by
  unfold State.retire State.thread
  simp only [State.tick_threads, State.setThread_threads]
  exact SMap.get_set_other none s.threads _ h

/-- A taken transfer writes one thread and the order stamp. -/
theorem retireTo_eq (s : State) (k : Nat) (th : Thread) (pc : W64) :
    s.retireTo k th pc = { s with threads := s.threads.set none k (some { th with pc := pc, issued := s.clock, fetched := none }),
                                  clock := s.clock + 1 } := rfl

/-- A write of a stall's stores touches those two stores only. -/
theorem swrite_frame (s : State) (st space a : Nat) (bs : List Byte) :
    s.swrite st space a bs = { s with scratch := (s.swrite st space a bs).scratch, aisleMem := (s.swrite st space a bs).aisleMem } := by
  unfold State.swrite; split <;> rfl

end Sys2Proof.Machine
end

