-- ==== Sys2Proof/Laws/Runs.lean ====
section
/-! SUPPORT. What the two shared entries of a command do: a thread that issues runs its instruction, a host command
that starts runs its effect; and every outcome of either goes on. -/

namespace Sys2Proof.Machine

/-- A thread whose PC holds the instruction's word runs it. -/
theorem issue_runs {s : State} {t : ThreadRef} {w : W64} {th : Thread} (h : s.issues t w th)
    (f : Nat → Thread → State → State) : issue t w s f = .next (f (tkey t) th s) := by
  obtain ⟨h1, h2, h3⟩ := h
  simp [issue, h1, h2, h3]

/-- A host command that starts and passes its checks runs. -/
theorem command_runs {s : State} {op : W16} {n : Nat} {j : Bool} {h : CmdHdr} {c : Cmd} (hs : s.serves op n j h c)
    (run : Cmd → State → State) : command op n j h s run = .next (run (s.begun c) (s.begin_ c)) := by
  obtain ⟨h1, h2, h3, h4, h5, h6⟩ := hs
  simp [command, h1, h2, h3, h4, h5, h6, State.begin_, State.begun]

/-- Every outcome of an instruction goes on. -/
theorem issue_goesOn (t : ThreadRef) (w : W64) (s : State) (f : Nat → Thread → State → State) :
    goesOn (issue t w s f) := by
  unfold issue goesOn
  split
  · split
    · split
      · split
        · exact ⟨_, rfl⟩
        · split <;> exact ⟨_, rfl⟩
      all_goals exact ⟨_, rfl⟩
    · exact ⟨_, rfl⟩
  · exact ⟨_, rfl⟩

/-- Every outcome of a host command goes on. -/
theorem command_goesOn (op : W16) (n : Nat) (j : Bool) (h : CmdHdr) (s : State) (run : Cmd → State → State) :
    goesOn (command op n j h s run) := by
  unfold command goesOn
  split
  · exact ⟨_, rfl⟩
  · dsimp only
    split
    · exact ⟨_, rfl⟩
    · split
      · exact ⟨_, rfl⟩
      · split
        · exact ⟨_, rfl⟩
        · split
          · exact ⟨_, rfl⟩
          · split <;> exact ⟨_, rfl⟩

end Sys2Proof.Machine
end

