-- ==== Sys2Proof/Laws/Seal.lean ====
section
/-! SUPPORT. Seals (R138, R143): a sealed descriptor carries a sound seal, and sealing changes no field but SEAL. -/

namespace Sys2Proof.Machine

set_option exponentiation.threshold 600

theorem withSeal_toNat (w : W512) (t : W32) : (withSeal w t).toNat = t.toNat * 2 ^ 480 + w.toNat % 2 ^ 480 := by
  have hlt : w.toNat % 2 ^ 480 < 2 ^ 480 := Nat.mod_lt _ (by decide)
  unfold withSeal bits
  rw [BitVec.toNat_append, Nat.shiftLeft_eq, BitVec.extractLsb'_toNat, Nat.shiftRight_zero,
    Nat.mul_comm, ← Nat.two_pow_add_eq_or_of_lt hlt]

theorem leBytes_mod (n x : Nat) : leBytes n (x % 2 ^ (8 * n)) = leBytes n x := by
  induction n generalizing x with
  | zero => rfl
  | succ n ih =>
    have h1 : 2 ^ (8 * (n + 1)) = 256 * 2 ^ (8 * n) := by rw [show 8 * (n + 1) = 8 + 8 * n by omega, Nat.pow_add]
    simp only [leBytes]
    rw [h1, Nat.mod_mul_right_div_self, ih]
    congr 1
    apply BitVec.eq_of_toNat_eq
    simp only [BitVec.toNat_ofNat]
    exact Nat.mod_mul_right_mod _ _ _

theorem leBytes_withSeal (w : W512) (t : W32) : leBytes 60 (withSeal w t).toNat = leBytes 60 w.toNat := by
  rw [← leBytes_mod 60 (withSeal w t).toNat, ← leBytes_mod 60 w.toNat, withSeal_toNat, Nat.mul_comm t.toNat]
  rw [show 8 * 60 = 480 from rfl, Nat.mul_add_mod, Nat.mod_mod]

theorem getLsbD_withSeal_eq (w : W512) (t : W32) (i : Nat) :
    (withSeal w t).getLsbD i = if i < 480 then w.getLsbD i else t.getLsbD (i - 480) := by
  refine (BitVec.getLsbD_append (x := t) (y := bits w 0 480) (i := i)).trans ?_
  by_cases h : i < 480 <;> simp [bits, h]

theorem bits_withSeal (w : W512) (t : W32) (o n : Nat) (h : o + n ≤ 480) : bits (withSeal w t) o n = bits w o n := by
  apply BitVec.eq_of_getLsbD_eq
  intro i hi
  have hlt : o + i < 480 := by omega
  simp [bits, hi, getLsbD_withSeal_eq, hlt]

theorem seal_withSeal (w : W512) (t : W32) : bits (withSeal w t) 480 32 = t := by
  apply BitVec.eq_of_getLsbD_eq
  intro i hi
  simp only [bits, BitVec.getLsbD_extractLsb', getLsbD_withSeal_eq]
  simp [hi, show ¬ 480 + i < 480 by omega]

theorem dField_withSeal (w : W512) (t : W32) (o n : Nat) (h : o + n ≤ 60) : dField (withSeal w t) o n = dField w o n := by
  have e : ∀ v : W512, dField v o n = (bits v (8 * o) (8 * n)).toNat := fun v => by
    simp [dField, bits, Nat.shiftRight_eq_div_pow]
  rw [e, e, bits_withSeal _ _ _ _ (by omega)]

/-- Sealing changes SEAL alone. -/
theorem parse_withSeal (w : W512) (t : W32) :
    Desc.parse (withSeal w t) = { Desc.parse w with raw := withSeal w t, code := t } := by
  simp [Desc.parse, dField_withSeal, bits_withSeal, seal_withSeal, -BitVec.getLsbD_eq_getElem, getLsbD_withSeal_eq]

/-- A sealed descriptor's seal verifies. -/
theorem sealOk_withSeal (n : Nat) (w : W512) : sealOk n (withSeal w (sealOf n w)) = true := by
  have h : sealOf n (withSeal w (sealOf n w)) = sealOf n w := by
    show (let t := _; if t = 0 then (1 : W32) else t) = _
    simp only [leBytes_withSeal]; rfl
  simp [sealOk, seal_withSeal, h]

end Sys2Proof.Machine
end

