-- ==== Sys2Proof/Laws/Stores.lean ====
section
/-! SUPPORT. The operations that write the byte stores keep their canonical form: addresses rising, no zero byte listed. -/

namespace Sys2Proof.Machine

/-- Dropping entries of a canonical map leaves it canonical. -/
theorem SMap.wf_filter {α : Type} [DecidableEq α] (d : α) (m : SMap α) (p : Nat × α → Bool) (h : SMap.wf d m = true) :
    SMap.wf d (m.filter p) = true := by
  induction m with
  | nil => rfl
  | cons e m ih =>
    obtain ⟨k, v⟩ := e
    simp only [SMap.wf, Bool.and_eq_true, List.all_eq_true] at h
    obtain ⟨⟨hv, hk⟩, hm⟩ := h
    by_cases hp : p (k, v) = true
    · simp only [List.filter_cons, hp, if_true, SMap.wf, Bool.and_eq_true, List.all_eq_true]
      exact ⟨⟨hv, fun q hq => hk q (List.mem_filter.mp hq).1⟩, ih hm⟩
    · simp only [List.filter_cons, hp]
      exact ih hm

theorem Memory.wf_filter (m : Memory) (p : Host.Cell → Bool) (h : m.wf = true) : Memory.wf (m.filter p) = true :=
  SMap.wf_filter _ m p h

/-- An update that leaves the three stores alone keeps the form. -/
theorem State.storesWf_of_eq {s u : State} (h : s.storesWf) (hm : u.mem = s.mem) (hs : u.scratch = s.scratch)
    (ha : u.aisleMem = s.aisleMem) : u.storesWf := by
  unfold State.storesWf; rw [hm, hs, ha]; exact h

theorem State.Counts.storesWf {s u : State} (r : s.Counts u) (h : s.storesWf) : u.storesWf :=
  storesWf_of_eq h r.frame.1 (by rw [r]) (by rw [r])

theorem State.Sends.storesWf {s u : State} (r : s.Sends u) (h : s.storesWf) : u.storesWf := r.counts.storesWf h

theorem storesWf_poke (s : State) (off : Nat) (bs : List Byte) (h : s.storesWf) : (s.poke off bs).storesWf :=
  ⟨Memory.wf_write bs s.mem off h.1, h.2.1, h.2.2⟩

theorem storesWf_swrite (s : State) (st space a : Nat) (bs : List Byte) (h : s.storesWf) :
    (s.swrite st space a bs).storesWf := by
  unfold State.swrite; split
  · exact ⟨h.1, Memory.wf_write _ _ _ h.2.1, h.2.2⟩
  · exact ⟨h.1, h.2.1, Memory.wf_write _ _ _ h.2.2⟩

theorem storesWf_tracePut (s : State) (c : TraceCfg) (k : Nat) (trig : Bool) (b : List Byte) (h : s.storesWf) :
    (s.tracePut c k trig b).storesWf := ⟨Memory.wf_write _ _ _ h.1, h.2.1, h.2.2⟩

theorem storesWf_traceRecord (s : State) (c : TraceCfg) (k : Nat) (trig : Bool) (b : List Byte) (h : s.storesWf) :
    (s.traceRecord c k trig b).storesWf := by
  unfold State.traceRecord; dsimp only; split
  · exact h
  · split
    · exact (counts_count ..).storesWf h
    · split
      · exact h
      · exact storesWf_tracePut _ _ _ _ _ h

theorem storesWf_traceEvent (s : State) (k ev : Nat) (unit : W16) (data : Nat) (h : s.storesWf) :
    (s.traceEvent k ev unit data).storesWf := by
  unfold State.traceEvent; split
  · exact h
  · split
    · exact storesWf_traceRecord _ _ _ _ _ h
    · exact h

/-- A fold of updates each of which keeps the form keeps it. -/
theorem storesWf_foldl {α : Type} (l : List α) (f : State → α → State) (hf : ∀ (s : State) (a : α), s.storesWf → (f s a).storesWf)
    (s : State) (h : s.storesWf) : (l.foldl f s).storesWf := by
  induction l generalizing s with
  | nil => exact h
  | cons a l ih => exact ih _ (hf s a h)

theorem storesWf_traceTrigger (s : State) (h : s.storesWf) : s.traceTrigger.storesWf := by
  unfold State.traceTrigger; split
  · exact h
  · split
    · exact h
    · exact storesWf_foldl _ _ (fun s k => storesWf_traceRecord s _ _ _ _) _ h

theorem storesWf_fault (s : State) (r : FaultRec) (h : s.storesWf) : (s.fault r).storesWf := by
  unfold State.fault; dsimp only
  refine ((sends_setHost ..).trans (sends_post ..)).storesWf ?_
  have hu := storesWf_traceEvent s r.lcHall.val 5 (if r.level = 0 then r.lunit else 0) r.cls.code.toNat h
  generalize s.traceEvent r.lcHall.val 5 (if r.level = 0 then r.lunit else 0) r.cls.code.toNat = u at hu ⊢
  cases u.trace.cfg.any fun c => c.trig.getLsbD 1 && c.cls = r.cls.code
  · exact hu
  · exact storesWf_traceTrigger u hu

theorem storesWf_retire (s : State) (k : Nat) (th : Thread) (h : s.storesWf) : (s.retire k th).storesWf := h

theorem storesWf_modGraph (s : State) (g : Nat) (f : Graph → Graph) (h : s.storesWf) : (s.modGraph g f).storesWf :=
  State.storesWf_of_eq h (by simp) (by simp) (by simp)
theorem storesWf_modThread (s : State) (t : Nat) (f : Thread → Thread) (h : s.storesWf) : (s.modThread t f).storesWf :=
  State.storesWf_of_eq h (by simp) (by simp) (by simp)

end Sys2Proof.Machine
end

