-- ==== Sys2Proof/Tests/Slice0.lean ====
section
/-! SUPPORT. Tests: a command that each check of WellFormed refuses, and for each statement states and operands that meet the
hypotheses of its clauses. Expected values are computed by hand from the rules named. -/

namespace Sys2Proof.Tests

set_option Elab.async false

open Sys2Proof Sys2Proof.Machine

/-! ### Well-formed commands -/

/-- A packet header with nothing in it. -/
def pkt0 : Pkt := ⟨0, 0, 0, 0, 0, 0, 0, 0, 0, 0, 0, []⟩

/-- Every bound of WellFormed refuses the command that passes it, and takes the one at the bound. -/
theorem test_wf_tasks : ∀ n ∈ [2 ^ 24 - 1, 2 ^ 24], ∀ c ∈ [Instr.taskPlace 0 n, .taskComplete 0 n, .gateHeld 0 n,
    .midtaskPreemptTimeout 0 n ⟨0, 0, 0⟩, .taskSave 0 n, .taskRestore 0 n ⟨0, 0, 0⟩, .pinProbe 0 n, .moveTransferStart 0 n,
    .moveTransferDone 0 n, .collStart 0 n, .collDone 0 n, .collTimeout 0 n, .rootTaskRun 0 0 n, .solveTaskRun 0 0 n {}],
    c.wf = decide (n < 2 ^ 24) := by decide +kernel

theorem test_wf_packets : ∀ l ∈ [0, 31, 32, 33], ∀ c ∈ [Instr.read { pkt0 with plen := 1, payload := List.replicate l 1 },
    .write { pkt0 with plen := 1, payload := List.replicate l 1 }, .atomic { pkt0 with plen := 1, payload := List.replicate l 1 },
    .resp { pkt0 with plen := 1, payload := List.replicate l 1 }], c.wf = (l = 0 || l = 32) := by decide +kernel

theorem test_wf_till_command : (Instr.tillCommandWrite 0 0 (List.replicate 127 0)).wf = false
    ∧ (Instr.tillCommandWrite 0 0 (List.replicate 128 0)).wf = true := by decide +kernel
theorem test_wf_bell_window : (Instr.bellWindowWrite 0 0 129 0).wf = false ∧ (Instr.bellWindowWrite 0 0x80000 8 0).wf = false
    ∧ (Instr.bellWindowWrite 0 0x7FFF8 8 0).wf = true := by decide +kernel
theorem test_wf_units : (Instr.unitRetire 0 (2 ^ 21)).wf = false ∧ (Instr.unitRetire 0 (2 ^ 21 - 1)).wf = true
    ∧ (Instr.granuleRecon 0 (2 ^ 37)).wf = false ∧ (Instr.poisonRead 0 (2 ^ 37)).wf = false := by decide +kernel
theorem test_wf_wkey : (Instr.wkeyInstall {} 0 (List.replicate (2 ^ 32 + 1) 0)).wf = false := by
  simp only [Instr.wf, List.length_replicate]; decide
theorem test_wf_step_bound : (Instr.startupStepBound 0).wf = false ∧ (Instr.startupStepBound 1).wf = true := by decide +kernel

/-! ### Helpers -/

/-- What a next state holds; none for a fault or a refusal. -/
def after {α : Type} (o : Host.Outcome State Fault Refusal) (f : State → α) : Option α :=
  match o with
  | .next u => some (f u)
  | _ => none

/-- An X register of context 0 afterwards. -/
def xAfter (i : BitVec 5) (o : Host.Outcome State Fault Refusal) : Option W64 :=
  (after o fun u => (u.thread 0).map fun th => th.xr i).join

/-- The PC of context 0 afterwards. -/
def pcAfter (o : Host.Outcome State Fault Refusal) : Option W64 := (after o fun u => (u.thread 0).map (·.pc)).join

/-- The cause of the newest trap of stall 0 afterwards. -/
def trapAfter (o : Host.Outcome State Fault Refusal) : Option Byte :=
  (after o fun u => (u.stall 0).trapLog.head?.map (·.cause)).join

/-- Page tables of one space: its first gigabyte is local memory, writable and fetchable (Tables 14.1, 14.2). -/
def tables : Memory :=
  [(0x10000, 0x01), (0x10001, 0x10), (0x10002, 0x01), (0x11000, 0x01), (0x11001, 0x20), (0x11002, 0x01), (0x12000, 0x0F)]

/-- A ready part with the space of job 0. -/
def ready : State :=
  { pstate := 1, startStep := 11, mem := tables, xlt := { spaces := [{ job := 0, root := 0x10000, limit := 1000 }] } }

/-- Context 0 of stall 0. -/
def t0 : ThreadRef := ⟨⟨0, 0, 0⟩, 0⟩

/-- A thread at address 0x40000. -/
def thr (prv : Bool := false) (x : SMap W64 := []) : Thread := { graph := 0, task := 0, idx := 0, pc := 0x40000, prv := prv, x := x }

/-- A ready part on which `th` is context 0 of stall 0 and finds the word `w` at its PC. -/
def running (w : W64) (th : Thread) : State :=
  { ready with threads := [(0, some th)], mem := tables.write 0x40000 (leBytes 8 w.toNat) }

/-- A writable scratch matrix of 32 by 32 elements of a format, rows 128 bytes apart (Table 4.1). -/
def draft (fmt base : Nat) : W512 :=
  BitVec.ofNat 512 (base + 2 ^ 64 + 32 * 2 ^ 192 + 32 * 2 ^ 224 + 2 ^ 256 + 2 ^ 272 + 2 ^ 288 + fmt * 2 ^ 304 + 4 * 2 ^ 312)

/-- Its sealed descriptor in start 0. -/
def sealed (fmt base : Nat) : W512 := withSeal (draft fmt base) (sealOf 0 (draft fmt base))

/-- A thread whose D0 is an FP16 matrix of scratch at 0 and D1 one at 8192. -/
def thrD : Thread := { thr with d := [(0, some (sealed 1 0)), (1, some (sealed 1 8192))] }

/-- A BEGIN of slot 0 from D0 and D0. -/
def mma0 : TensorF := ⟨0, false, 0, 31, 0, 31, 0, 0, 1, 0, true, false, 0, 0, false, 0⟩

theorem desc_sealed (fmt base : Nat) :
    Desc.parse (sealed fmt base) = { Desc.parse (draft fmt base) with raw := sealed fmt base, code := sealOf 0 (draft fmt base) } :=
  parse_withSeal _ _

theorem test_mma_checks : mmaCheck 0 mma0 thrD 0 (running (tensorWord 0 mma0) thrD) = none
    ∧ mmaCheck 1 mma0 thrD 0 (running (tensorWord 1 mma0) thrD) = none
    ∧ mmaCheck 2 mma0 thrD 0 (running (tensorWord 2 mma0) thrD) = none := by
  have h : Desc.parse ((thrD.dr 0).getD 0) = _ := desc_sealed 1 0
  have k : sealOk 0 ((thrD.dr 0).getD 0) = true := sealOk_withSeal 0 _
  have e : ∀ w, (running w thrD).startNo = 0 := fun _ => rfl
  have d : ∀ op w, drainTarget op mma0 0 ((running w thrD).stall (stallOf 0)) = none := fun _ _ => rfl
  have m : mma0.da = 0 ∧ mma0.db = 0 ∧ mma0.close = false ∧ mma0.tap = false ∧ mma0.beginF = true := by decide
  obtain ⟨m1, m2, m3, m4, m5⟩ := m
  simp only [mmaCheck, d, m1, m2, m3, m4, m5, Option.isSome_none, Bool.false_eq_true, ↓reduceIte, operandBad, sliceOperandBad, slotChecks, targetKind, kindOf,
    intKind, State.sealCheck, State.rowCheck, partnerOf,
    Thread.desc, List.flatMap_cons, List.flatMap_nil, List.append_nil, List.cons_append, List.nil_append, e, h, k]
  decide +kernel

/-! ### Instructions -/

/-- Two registers and the immediate form: X1 := X2 op X3, and X1 := X2 op IMM. -/
def fReg : ScalarF := ⟨1, 2, false, 3 * 2 ^ 38⟩
def fImm (imm : BitVec 43) : ScalarF := ⟨1, 2, true, imm⟩
/-- A thread with X2 and X3. -/
def thr2 (a b : W64) : Thread := thr false [(2, a), (3, b)]

/-- ScalarResults, ImmediatesAndSystemValues, LoadsAndStores: a thread issues each opcode in both forms. -/
theorem test_scalar_issues : ∀ op : Fin 0x13, (running (scalarWord (BitVec.ofNat 6 op.val) fReg) thr).issues t0 (scalarWord (BitVec.ofNat 6 op.val) fReg) thr
    ∧ (running (scalarWord (BitVec.ofNat 6 op.val) (fImm 8)) thr).issues t0 (scalarWord (BitVec.ofNat 6 op.val) (fImm 8)) thr := by decide +kernel
theorem test_scalar_reg_form : bits fReg.low 0 38 = 0 ∧ bits fReg.low 38 5 = 3 := by decide
theorem test_movi_form : (running (scalarWord 0x0E ⟨1, 0, true, -1⟩) thr).issues t0 (scalarWord 0x0E ⟨1, 0, true, -1⟩) thr
    ∧ (running (scalarWord 0x0F ⟨1, 0, true, 1⟩) thr).issues t0 (scalarWord 0x0F ⟨1, 0, true, 1⟩) thr
    ∧ bits (1 : BitVec 43) 21 22 = 0 := by decide +kernel
theorem test_rdsys_form : ∀ n : Fin 7, let f : ScalarF := ⟨1, 0, true, BitVec.ofNat 43 n.val⟩
    (running (scalarWord 0x12 f) thr).issues t0 (scalarWord 0x12 f) thr
    ∧ ((running (scalarWord 0x12 f) thr).rdsys 0 thr (f.low.signExtend 64)).isSome = true := by decide +kernel

/-- Table 3.4 by hand: wrap-around, the high product, shifts by B[5:0], signed and unsigned order. -/
def scalar (op : BitVec 6) (a b : W64) : State := running (scalarWord op fReg) (thr2 a b)
theorem test_add_wraps : xAfter 1 (exec (.add t0 fReg) (scalar 0 (-1) 1)) = some 0 := by decide +kernel
theorem test_sub_wraps : xAfter 1 (exec (.sub t0 fReg) (scalar 1 0 1)) = some (-1) := by decide +kernel
theorem test_mul_low : xAfter 1 (exec (.mul t0 fReg) (scalar 2 0x8000000000000000 3)) = some 0x8000000000000000 := by decide +kernel
theorem test_mulhu_high : xAfter 1 (exec (.mulhu t0 fReg) (scalar 3 0x8000000000000000 4)) = some 2 := by decide +kernel
theorem test_and : xAfter 1 (exec (.and t0 fReg) (scalar 4 0xF0 0x3C)) = some 0x30 := by decide +kernel
theorem test_or : xAfter 1 (exec (.or t0 fReg) (scalar 5 0xF0 0x3C)) = some 0xFC := by decide +kernel
theorem test_xor : xAfter 1 (exec (.xor t0 fReg) (scalar 6 0xF0 0x3C)) = some 0xCC := by decide +kernel
theorem test_shl_by_65 : xAfter 1 (exec (.shl t0 fReg) (scalar 7 1 65)) = some 2 := by decide +kernel
theorem test_shr_zero_fills : xAfter 1 (exec (.shr t0 fReg) (scalar 8 (-1) 63)) = some 1 := by decide +kernel
theorem test_sar_sign_fills : xAfter 1 (exec (.sar t0 fReg) (scalar 9 (-8) 1)) = some (-4) := by decide +kernel
theorem test_min_signed : xAfter 1 (exec (.min t0 fReg) (scalar 10 (-1) 1)) = some (-1) := by decide +kernel
theorem test_max_signed : xAfter 1 (exec (.max t0 fReg) (scalar 11 (-1) 1)) = some 1 := by decide +kernel
theorem test_slt_signed : xAfter 1 (exec (.slt t0 fReg) (scalar 12 (-1) 1)) = some 1 := by decide +kernel
theorem test_sltu_unsigned : xAfter 1 (exec (.sltu t0 fReg) (scalar 13 (-1) 1)) = some 0 := by decide +kernel
theorem test_add_imm_signed : xAfter 1 (exec (.add t0 (fImm (-1))) (running (scalarWord 0 (fImm (-1))) (thr2 5 0))) = some 4 := by decide +kernel
theorem test_movhi_keeps_low : xAfter 1 (exec (.movhi t0 ⟨1, 0, true, 1⟩) (running (scalarWord 0x0F ⟨1, 0, true, 1⟩) (thr false [(1, -1)])))
    = some 0xFFFFFFFFFFF := by decide +kernel
theorem test_st_then_bytes : after (exec (.st t0 (fImm 0)) (running (scalarWord 0x11 (fImm 0)) (thr false [(1, 0x0102), (2, 786424)])))
    (fun u => u.scratch.read 786424 2) = some [0x02, 0x01] := by decide +kernel
theorem test_ld_reads : xAfter 1 (exec (.ld t0 (fImm 8)) { running (scalarWord 0x10 (fImm 8)) thr with scratch := [(8, 0x34), (9, 0x12)] })
    = some 0x1234 := by decide +kernel
/-- LD and ST just above the last byte, and misaligned, trap with SCRATCH_RANGE (R101). -/
theorem test_scratch_range : trapAfter (exec (.ld t0 (fImm 0)) (running (scalarWord 0x10 (fImm 0)) (thr2 786432 0))) = some Cause.scratchRange.code
    ∧ trapAfter (exec (.st t0 (fImm 0)) (running (scalarWord 0x11 (fImm 0)) (thr2 4 0))) = some Cause.scratchRange.code := by decide +kernel

/-- ControlTransfers: each opcode issues, with and without LINK. -/
def fBr : ControlF := ⟨2, 3, 0, false, 0, -1⟩
def fNone : ControlF := ⟨0, 0, 0, false, 0, 0⟩
theorem test_control_issues : ∀ op : Fin 7, (running (controlWord (BitVec.ofNat 6 op.val) fBr) thr).issues t0 (controlWord (BitVec.ofNat 6 op.val) fBr) thr := by
  decide +kernel
theorem test_br_forms : (running (controlWord 0 { fNone with link := true, xl := 31, offs := 2 ^ 31 - 1 }) thr).issues t0 (controlWord 0 { fNone with link := true, xl := 31, offs := 2 ^ 31 - 1 }) thr
    ∧ (running (controlWord 8 { fNone with xa := 2 }) (thr2 0x80 0)).issues t0 (controlWord 8 { fNone with xa := 2 }) (thr2 0x80 0)
    ∧ (running (controlWord 8 { fNone with xa := 2 }) (thr2 0x84 0)).issues t0 (controlWord 8 { fNone with xa := 2 }) (thr2 0x84 0)
    ∧ (running (controlWord 0x0E { fNone with offs := 65535 }) thr).issues t0 (controlWord 0x0E { fNone with offs := 65535 }) thr
    ∧ (running (controlWord 0x0F fNone) thr).issues t0 (controlWord 0x0F fNone) thr := by decide +kernel
theorem test_br_back : pcAfter (exec (.beq t0 fBr) (running (controlWord 1 fBr) (thr2 7 7))) = some 0x3FFF8
    ∧ pcAfter (exec (.beq t0 fBr) (running (controlWord 1 fBr) (thr2 7 8))) = some 0x40008 := by decide +kernel
theorem test_bne : pcAfter (exec (.bne t0 fBr) (running (controlWord 2 fBr) (thr2 7 8))) = some 0x3FFF8 := by decide +kernel
theorem test_blt_signed : pcAfter (exec (.blt t0 fBr) (running (controlWord 3 fBr) (thr2 (-1) 0))) = some 0x3FFF8 := by decide +kernel
theorem test_bge_equal : pcAfter (exec (.bge t0 fBr) (running (controlWord 4 fBr) (thr2 5 5))) = some 0x3FFF8 := by decide +kernel
theorem test_bltu_unsigned : pcAfter (exec (.bltu t0 fBr) (running (controlWord 5 fBr) (thr2 (-1) 0))) = some 0x40008 := by decide +kernel
theorem test_bgeu_unsigned : pcAfter (exec (.bgeu t0 fBr) (running (controlWord 6 fBr) (thr2 (-1) 0))) = some 0x3FFF8 := by decide +kernel
theorem test_br_links : xAfter 31 (exec (.br t0 { fNone with link := true, xl := 31, offs := 2 }) (running (controlWord 0 { fNone with link := true, xl := 31, offs := 2 }) thr))
    = some 0x40008 := by decide +kernel
theorem test_jr_odd_traps : trapAfter (exec (.jr t0 { fNone with xa := 2 }) (running (controlWord 8 { fNone with xa := 2 }) (thr2 0x84 0)))
    = some Cause.illegalTarget.code := by decide +kernel
theorem test_trap_software : trapAfter (exec (.trap t0 { fNone with offs := 9 }) (running (controlWord 0x0E { fNone with offs := 9 }) thr))
    = some Cause.software.code := by decide +kernel
theorem test_end_frees : after (exec (.endI t0 fNone) (running (controlWord 0x0F fNone) thr)) (fun u => u.thread 0) = some none := by decide +kernel

/-! ### Tensors, chains, copies -/

/-- A graph header, a stall task's record, a task, a graph of one task, and a state with it as graph 0. -/
def hdr0 : GraphHdr := { GraphHdr.parse (List.replicate 128 0) with stages := 1, stepCount := 2, fwdPerMb := 1, mbCount := 1 }
def rec0 : TaskRec := { TaskRec.parse (List.replicate 128 0) with kind := 1, threads := 1 }
def task0 (st : TaskState) : TaskSt := { preds := 0, st := st, tags := 0 }
def graph0 (ts : TaskSt) : Graph := { hdr := hdr0, headerVa := 0, recs := [rec0], tasks := [ts], roots := [0], step := 0 }
def withGraph (s : State) (gr : Graph) : State := { s with graphs := [(0, some gr)] }

/-- TrapActions. -/
theorem test_trap_premises : let s := withGraph (running 0 thr) (graph0 (task0 .running))
    s.thread (tkey t0) = some thr ∧ s.graph thr.graph = some (graph0 (task0 .running)) ∧ (graph0 (task0 .running)).phase ≠ .ended
    ∧ (s.task thr.graph thr.task).isSome = true := by decide +kernel
/-- TrapActions: OP 0x13 of class 0 and class 7 are the first codes that no table lists. -/
theorem test_unlisted (b : Bool) : let w : W64 := if b then 0x04C0000000000000 else 0x7000000000000000
    (running w thr).thread (tkey t0) = some thr ∧ (running w thr).mayIssue (tkey t0) thr = true ∧ (running w thr).fetch thr = .word w ∧ wordListed w = false := by
  cases b <;> decide +kernel

/-- TensorProducts: the other premises of a BEGIN without TAP and CLOSE. -/
theorem issues_thrD (w : W64) (h : (running w thrD).mayIssue 0 thrD = true ∧ (running w thrD).fetch thrD = .word w) :
    (running w thrD).issues t0 w thrD := by
  refine ⟨?_, h⟩
  rw [show tkey t0 = 0 by decide]
  simp only [running, State.thread, SMap.get, if_true]
theorem test_mma_issues : (running (tensorWord 0 mma0) thrD).issues t0 (tensorWord 0 mma0) thrD
    ∧ (running (tensorWord 1 mma0) thrD).issues t0 (tensorWord 1 mma0) thrD
    ∧ (running (tensorWord 2 mma0) thrD).issues t0 (tensorWord 2 mma0) thrD :=
  ⟨issues_thrD _ (by decide +kernel), issues_thrD _ (by decide +kernel), issues_thrD _ (by decide +kernel)⟩
theorem test_mma_premises : ∀ op : Fin 3, let w := tensorWord (BitVec.ofNat 6 op.val) mma0; let s := running w thrD
    drainTarget op.val mma0 0 (s.stall 0) = none ∧ (s.stall 0).exact = none
    ∧ s.holdFor 0 thrD (mmaReads op.val mma0 thrD) (mmaWrites mma0 thrD) = none := by decide +kernel
theorem test_mma_room : mmaNeeds mma0 thrD 0 {} false ≤ 64 := by
  have h : kindOf mma0 (thrD.desc mma0.da) (thrD.desc mma0.db) 0 = .f32 := by simp [kindOf, mma0]
  simp only [mmaNeeds]; decide +kernel
theorem test_mma_illegal : tensorIllegal { mma0 with fmt := 0xC } = true
    ∧ (running (tensorWord 0 { mma0 with fmt := 0xC }) thr).issues t0 (tensorWord 0 { mma0 with fmt := 0xC }) thr
    ∧ trapAfter (exec (.mma t0 { mma0 with fmt := 0xC }) (running (tensorWord 0 { mma0 with fmt := 0xC }) thr)) = some Cause.illegal.code := by
  decide +kernel
/-- An MMA that names an empty D register, and one of an open slot that is not there, trap (R105, R106). -/
theorem test_mma_empty_register : trapAfter (exec (.mma t0 mma0) (running (tensorWord 0 mma0) thr)) = some Cause.regEmpty.code := by decide +kernel

/-- PassAndCopies: a PASS from D0 to D1, and a copy of D0 onto itself. -/
def pass0 : ChainF := ⟨0, 31, 0, 0, false, 0, 31, 0, 0, false, 0⟩
def copy0 : CopyF := ⟨0, 31, 0, 31, true, 3, 0, 0⟩
theorem test_pass_checks : passCheck pass0 thrD (running (chainWord 0 pass0) thrD) = none := by
  have h0 : Desc.parse ((thrD.dr 0).getD 0) = _ := desc_sealed 1 0
  have k0 : sealOk 0 ((thrD.dr 0).getD 0) = true := sealOk_withSeal 0 _
  have e : ∀ w, (running w thrD).startNo = 0 := fun _ => rfl
  have m : pass0.ds = 0 ∧ pass0.dd = 0 ∧ pass0.ds2 = 0 ∧ pass0.s2en = false := by decide
  obtain ⟨m1, m2, m3, m4⟩ := m
  simp only [passCheck, m1, m2, m3, m4, Bool.false_eq_true, ↓reduceIte, State.sealCheck, State.rowCheck, Thread.desc, List.map_cons,
    List.map_nil, List.append_nil, List.cons_append, List.nil_append, e, h0, k0, ne_eq, not_true, decide_false, Bool.and_false, Bool.false_and]
  decide +kernel
theorem test_copy_checks : copyCheck 0 copy0 thrD (running (copyWord 0 copy0) thrD) = none
    ∧ copyCheck 1 copy0 thrD (running (copyWord 1 copy0) thrD) = none
    ∧ copyCheck 2 { copy0 with perm := 0x4688 } thrD (running (copyWord 2 { copy0 with perm := 0x4688 }) thrD) = none := by
  have h0 : Desc.parse ((thrD.dr 0).getD 0) = _ := desc_sealed 1 0
  have k0 : sealOk 0 ((thrD.dr 0).getD 0) = true := sealOk_withSeal 0 _
  have e : ∀ w, (running w thrD).startNo = 0 := fun _ => rfl
  have m : copy0.ds = 0 ∧ copy0.dd = 0 := by decide
  obtain ⟨m1, m2⟩ := m
  simp only [copyCheck, m1, m2, State.sealCheck, State.rowCheck, Thread.desc, e, h0, k0, ne_eq, not_true, decide_false, Bool.and_false,
    Bool.false_and, ↓reduceIte, decide_true, Bool.and_true]
  decide +kernel

theorem test_pass_issues : (running (chainWord 0 pass0) thrD).issues t0 (chainWord 0 pass0) thrD
    ∧ (running (copyWord 0 copy0) thrD).issues t0 (copyWord 0 copy0) thrD ∧ (running (copyWord 1 copy0) thrD).issues t0 (copyWord 1 copy0) thrD
    ∧ (running (copyWord 2 { copy0 with perm := 0x4688 }) thrD).issues t0 (copyWord 2 { copy0 with perm := 0x4688 }) thrD
    ∧ thrD.moves = [] ∧ (∀ w r v, (running w thrD).holdFor 0 thrD r v = none) :=
  ⟨issues_thrD _ (by decide +kernel), issues_thrD _ (by decide +kernel), issues_thrD _ (by decide +kernel), issues_thrD _ (by decide +kernel),
    rfl, fun _ _ _ => rfl⟩

/-- RegisterMoves: each opcode at the last address of its width. -/
def fMove (d s c m : Nat) : MoveRegF := ⟨if d + s + c + m = 2 then 0 else 2, BitVec.ofNat 4 d, BitVec.ofNat 4 s, BitVec.ofNat 3 c, BitVec.ofNat 2 m, 0⟩
def thrM (a : W64) : Thread := { thr2 a 0 with d := [(0, some 7)] }
theorem test_move_issues : (running (moveRegWord 8 ⟨0, 1, 0, 0, 0, 0⟩) (thrM 0)).issues t0 (moveRegWord 8 ⟨0, 1, 0, 0, 0, 0⟩) (thrM 0) ∧ (thrM 0).dr 0 = some 7
    ∧ ∀ p ∈ [(9, 64), (10, 64), (11, 32), (12, 32), (13, 16), (14, 16)], let f : MoveRegF := ⟨2, 0, 0, 0, 0, 0⟩
      let th := thrM (BitVec.ofNat 64 (786432 - p.2))
      (running (moveRegWord (BitVec.ofNat 6 p.1) f) th).issues t0 (moveRegWord (BitVec.ofNat 6 p.1) f) th
      ∧ (th.xr f.xa).toNat % p.2 = 0 ∧ (th.xr f.xa).toNat + p.2 ≤ 786432
      ∧ ∀ st : Bool, (running (moveRegWord (BitVec.ofNat 6 p.1) f) th).holdFor 0 th (if st then [] else [⟨0, 786432 - p.2, 786432⟩])
          (if st then [⟨0, 786432 - p.2, 786432⟩] else []) = none := by decide +kernel
theorem test_mld_reads : ((after (exec (.mld t0 ⟨2, 0, 0, 0, 3, 0⟩) { running (moveRegWord 13 ⟨2, 0, 0, 0, 3, 0⟩) (thrM 16) with scratch := [(16, 5), (31, 1)] })
    fun u => (u.thread 0).map fun th => th.m.get 0 3).join) = some (2 ^ 120 + 5 : Nat) := by decide +kernel
theorem test_cst_misaligned : trapAfter (exec (.cst t0 ⟨2, 0, 0, 0, 0, 0⟩) (running (moveRegWord 12 ⟨2, 0, 0, 0, 0, 0⟩) (thrM 16))) = some Cause.scratchRange.code := by
  decide +kernel

/-- SyncInstructions: SIG, WAIT, BARRIER, WAITTOK, FENCE and YIELD on this part. -/
def fSync (xd xa xb : BitVec 5) (m : BitVec 4) : SyncF := ⟨xd, xa, xb, 0, 0, m, 0⟩
theorem test_sync_issues : (let f := fSync 0 2 3 0; (running (syncWord 0 f) thr).issues t0 (syncWord 0 f) thr ∧ syncBad false true true false false false f = false
      ∧ (running (syncWord 0 f) thr).writesPending 0 thr = none)
    ∧ (let f : SyncF := ⟨1, 2, 3, 2, 65535, 0, 0⟩; (running (syncWord 1 f) thr).issues t0 (syncWord 1 f) thr ∧ syncBad true true true true true false f = false ∧ thr.timeoutLeft = none)
    ∧ (let f := fSync 1 2 0 0; (running (syncWord 2 f) thr).issues t0 (syncWord 2 f) thr ∧ syncBad true true false false false false f = false)
    ∧ (let f := fSync 0 0 0 15; (running (syncWord 3 f) thr).issues t0 (syncWord 3 f) thr ∧ syncBad false false false false false true f = false ∧ f.tokmask ≠ 0 ∧ thr.moves = [])
    ∧ (let f := fSync 0 0 0 0; (running (syncWord 4 f) thr).issues t0 (syncWord 4 f) thr ∧ (running (syncWord 5 f) thr).issues t0 (syncWord 5 f) thr
      ∧ syncBad false false false false false false f = false ∧ (running (syncWord 4 f) thr).writesPending 0 thr = none)
    ∧ ready.member 0 = true ∧ ready.partNo = 0 ∧ ready.bellLost 0xEFFF = false ∧ ready.isBarrier 0xEFFF = false := by decide +kernel
theorem test_sig_saturates : after (exec (.sig t0 (fSync 0 2 3 0)) { running (syncWord 0 (fSync 0 2 3 0)) (thr2 9 3) with bell := { counters := [(9, -2)] } })
    (fun u => u.counter 9) = some (-1) := by decide +kernel
/-- A barrier of two threads: the first entry joins generation 1 and leaves the barrier open (R365). -/
theorem test_barrier_enters : let s := { ready with bell := { barriers := [{ index := 0xF000, n := 2, domain := false }] } }
    (s.enterBarrier 0xF000 false).1 = .joined 1 ∧ s.bell.barriers.find? (fun b => b.index = 0xF000) = some { index := 0xF000, n := 2, domain := false }
    ∧ (s.counter 0xF000).toNat + 1 < 2 ^ 64 := by decide +kernel
theorem test_barrier_last : let s := { ready with bell := { counters := [(0xF000, 1)], barriers := [{ index := 0xF000, n := 2, domain := false }] } }
    (s.enterBarrier 0xF000 false).1 = .joined 1
    ∧ ((s.enterBarrier 0xF000 false).2.bell.barriers.find? fun b => b.index = 0xF000).map (·.releasing) = some (some 1) := by decide +kernel

/-- PrivilegedInstructions and TallyReadInstruction, in both modes. -/
def fPriv : PrivF := ⟨1, 2, 0, 0, 0, 0, 0⟩
theorem test_priv_issues : ∀ p : Bool, ∀ q ∈ [(0, fPriv), (1, { fPriv with xa := 0, nm1 := 15, slot := 63 }), (2, { fPriv with xa := 0, mode := 2 }), (3, fPriv)],
    let th := thr p [(2, 8128)]
    (running (privWord (BitVec.ofNat 6 q.1) q.2) th).issues t0 (privWord (BitVec.ofNat 6 q.1) q.2) th
    ∧ privBad (q.1 = 0 || q.1 = 3) (q.1 = 0) (q.1 = 1) (q.1 = 1) (q.1 = 2) q.2 = false := by decide +kernel
theorem test_priv_operands : (thr true [(2, 786368)]).xr 2 = 786368 ∧ 786368 % 64 = 0 ∧ 786368 + 64 ≤ 786432
    ∧ ((running 0 thr).rec_ 0 0).all (fun r => r.kind ≠ 7) = true ∧ ((running 0 thr).stall 0).exact = none
    ∧ ((running 0 thr).stall 0).otherFormat = false ∧ (∀ j ≤ 15, (running 0 thr).stallRuns j = true) := by decide +kernel
theorem test_privilege_traps : trapAfter (exec (.tallyrd t0 fPriv) (running (privWord 3 fPriv) thr)) = some Cause.privilege.code := by decide +kernel
theorem test_tallyrd_range : trapAfter (exec (.tallyrd t0 fPriv) (running (privWord 3 fPriv) (thr true [(2, 8192)]))) = some Cause.address.code := by decide +kernel
theorem test_xslice_sets : after (exec (.xslice t0 { fPriv with xa := 0, mode := 1 }) (running (privWord 2 { fPriv with xa := 0, mode := 1 }) (thr true)))
    (fun u => (u.stall 0).exact) = some (some (1, 0, 0)) := by decide +kernel
theorem test_splitk_suspends : (after (exec (.splitk t0 { fPriv with xa := 0, nm1 := 1 }) (running (privWord 1 { fPriv with xa := 0, nm1 := 1 }) (thr true)))
    fun u => (u.thread 0).map (·.status)).join = some (.splitk 1 0 1) := by decide +kernel

/-! ### Events of a stall -/

/-- An open FP32 slot of a thread. -/
def slotOf (k g t idx : Nat) : Slot := { owner := k, graph := g, task := t, idx := idx, kind := .f32, fmt := 1, vals := [] }
/-- A raw drain of it. -/
def drain0 : Drain := ⟨0, 0, 0, 0, 0, 0, 0, slotOf 0 0 0 0, 1, 0, 0, 0, 0, 0, 0, 0, none⟩
/-- A ready part with `th` as context 0 of stall 0. -/
def holding (th : Thread) (i : StallInfo := {}) : State := { ready with threads := [(0, some th)], stalls := [(0, i)] }

/-- StallEvents, clause by clause. -/
theorem test_move_complete : let m : Move := { tok := 4, word := 0, ds := 0, dd := 0, os := 0, od := 0, op := 0, perm := 0, finished := true }
    let s := holding { thr with moves := [m], status := .syncMove }
    s.thread (tkey t0) = some { thr with moves := [m], status := .syncMove } ∧ (∃ x ∈ [m], x.tok = 4 ∧ x.finished = true) ∧ s.till.waiting = [] := by decide +kernel
theorem test_drain_complete : let s := holding thr { drains := [drain0] }
    s.thread (tkey t0) = some thr ∧ (s.stall 0).drains = drain0 :: [] ∧ drain0.mode = 1 ∧ drain0.sample = none ∧ drain0.slot.kind = .f32
    ∧ s.hallRuns 0 = true ∧ (s.stall 0).fenced = false ∧ s.hbmHeld = false := by decide +kernel
theorem test_slot_grant : let f := { mma0 with fmt := 0 }; let th := { thr with status := .slotWait 0 f 5 }; let now := { th with status := .ready }
    (holding th).thread (tkey t0) = some th ∧ mmaNeeds f now 0 ((holding th).stall 0) ((holding th).widens f now) ≤ 64 - ((holding th).stall 0).usedSlots
    ∧ (holding th).canIssue 0 now = true := by decide +kernel
/-- Task 1 of the graph holds a slot of the stall and can be saved: it is the one pre-empted (R121). -/
theorem test_slot_pressure : let th := { thr with status := .slotWait 0 mma0 5 }
    let s : State := { holding th { slots := [slotOf 1 0 1 0] } with
      graphs := [(0, some { graph0 { task0 .running with place := some 0 } with recs := [rec0, rec0], tasks := [{ task0 .running with place := some 0 }, { task0 .running with place := some 0 }] })]
      xlt := { saveAreas := [(0, some { off := 0x100000, size := 0x400000 })] } }
    s.slotVictim 0 th.graph th.task = some (0, 1) ∧ (s.beginSave 0 1 .slotPressure 0).isSome = true := by decide +kernel
theorem test_splitk_timeout : let th := { thr with status := .splitk 1 0 3 }
    (holding th).thread (tkey t0) = some th ∧ th.status = .splitk 1 0 3 ∧ xAfter 1 (exec (.splitkTimeout t0) (holding th)) = some 3 := by decide +kernel
theorem test_xslice_event : let th := { thr with status := .xslice 1 2 }
    (holding th).thread (tkey t0) = some th ∧ ((holding th).stall 0).otherFormat = false ∧ ((holding th).stall 0).exact = none
    ∧ xAfter 1 (exec (.xsliceModeSet t0) (holding th)) = some 0 := by decide +kernel
/-- Two participants: threads of stalls 0 and 1, each with slot 0 open. -/
def splitPair : State :=
  let th : Thread := { thr with status := .splitk 1 0 1 }
  { ready with threads := [(0, some th), (1024, some th)], stalls := [(0, { slots := [slotOf 0 0 0 0] }), (1, { slots := [slotOf 1024 0 0 0] })] }
theorem test_split_group : let sts := [0, 1]
    let ps := sts.filterMap (fun st => splitPair.splitkOn st 0 1 0)
    let xs := ps.filterMap (fun p => (splitPair.stall (stallOf p.1)).find p.1 0 false)
    sts = (List.range 2).map (aisleKey 0 0 * 16 + ·) ∧ ps.length = 2 ∧ xs.length = 2
    ∧ (∀ y ∈ xs, y.st = .open_ ∧ xs.head?.all (fun z => y.kind = z.kind) = true) ∧ (slotTree xs).length = 1 := by decide +kernel

/-! ### The host interface -/

/-- A header with `n` parameters and bulk room of 256 KiB, the command, and a ready part in which it waits to start. -/
def hdr (n : Nat) (job : Byte := 0) : CmdHdr := { plen := BitVec.ofNat 16 (8 * n), bulkLen := 0x40000, job := job }
def cmd (op : W16) (n : Nat) (job : Byte := 0) : Cmd := { op := op, hdr := hdr n job, fetched := 0 }
def asked (op : W16) (n : Nat) (s : State := ready) : State := { s with host := { s.host with cmds := [cmd op n] } }

/-- Every command of the statements starts and passes its checks in some state (R518 to R521). -/
theorem test_commands_serve_01 : ∀ q ∈ [((0x0101 : W16), 0), (0x0102, 0), (0x0110, 0), (0x0111, 6), (0x0201, 2), (0x0202, 1), (0x0203, 2), (0x0204, 2), (0x0220, 2), (0x0221, 3), (0x0222, 2), (0x0230, 2), (0x0231, 0), (0x0232, 2), (0x0233, 2), (0x0234, 3), (0x0235, 3), (0x0301, 3), (0x0302, 1), (0x0401, 1), (0x0402, 2), (0x0403, 1), (0x0404, 1), (0x0501, 2), (0x0502, 3), (0x0503, 6), (0x0504, 1), (0x0505, 2), (0x0506, 3), (0x0507, 1), (0x0508, 3), (0x0509, 1), (0x050A, 2)],
    ∀ j : Bool, (asked q.1 q.2).serves q.1 q.2 j (hdr q.2) (cmd q.1 q.2) := by decide +kernel
theorem test_commands_serve_06 : ∀ q ∈ [((0x0601 : W16), 5), (0x0602, 1), (0x0603, 10), (0x0603, 19), (0x0604, 1), (0x0605, 0), (0x0630, 1), (0x0631, 1), (0x0632, 2), (0x0633, 3), (0x0634, 2), (0x0640, 1), (0x0641, 1), (0x0642, 2), (0x0701, 2), (0x0702, 1), (0x0710, 4), (0x0720, 2), (0x0721, 0), (0x0722, 1), (0x0740, 3), (0x0741, 1), (0x0742, 4), (0x0743, 6), (0x0744, 1), (0x0801, 1), (0x0802, 3), (0x0803, 0), (0x0810, 2), (0x0811, 2), (0x0812, 0), (0x0813, 4), (0x0814, 1), (0x0820, 2), (0x0830, 2), (0x0831, 1)],
    ∀ j : Bool, (asked q.1 q.2).serves q.1 q.2 j (hdr q.2) (cmd q.1 q.2) := by decide +kernel
theorem test_commands_serve_09 : ∀ q ∈ [((0x0901 : W16), 1), (0x0902, 0), (0x0910, 5), (0x0911, 2), (0x0920, 7), (0x0921, 2), (0x0922, 2), (0x0923, 3), (0x0930, 2), (0x0940, 9), (0x0941, 0), (0x0942, 0), (0x0943, 0), (0x0948, 8), (0x0949, 0), (0x094A, 0), (0x0950, 1), (0x0951, 1), (0x0960, 1), (0x0961, 3), (0x0962, 4), (0x0968, 6), (0x0969, 1), (0x096A, 0), (0x096B, 0), (0x0A01, 1), (0x0A02, 1), (0x0A03, 1), (0x0A10, 1), (0x0A11, 1), (0x0B01, 1), (0x0B02, 1), (0x0B03, 2), (0x0B04, 2), (0x0B05, 1), (0x0B10, 1), (0x0B11, 1), (0x0B12, 2)],
    ∀ j : Bool, (asked q.1 q.2).serves q.1 q.2 j (hdr q.2) (cmd q.1 q.2) := by decide +kernel

/-- Bar0Writes, RingRegistersHold, NothingMovesInD3hot: BAR0 answers; ENABLE in both positions; a count of one kind. -/
def live : State := { ready with host := { enable := true, cmdTail := 5, cmdHead := 3 } }
theorem test_bar0_up : ready.bar0Up = true ∧ ready.host.enable = false ∧ live.bar0Up = true ∧ live.host.enable = true
    ∧ ({ live with host := { live.host with d3hot := true } } : State).bar0Up = true
    ∧ ({ live with host := { live.host with irqCount := [(7, 1)] } } : State).host.irqCount.get 0 7 ≠ 0 := by decide +kernel
/-- A doorbell 16 ahead of CMD_HEAD is valid, 17 ahead sets RING_OVERRUN (R516). -/
theorem test_doorbell_limit : after (exec (.bar0Doorbell 19) live) (fun u => (u.host.cmdTail, u.host.err)) = some (19, 0)
    ∧ after (exec (.bar0Doorbell 20) live) (fun u => (u.host.cmdTail, u.host.err)) = some (5, 1) := by decide +kernel
theorem test_ring_log2_range : after (exec (.bar0RegWrite 0x0020 12) ready) (fun u => u.host.cmdLog2) = some 12
    ∧ after (exec (.bar0RegWrite 0x0040 6) ready) (fun u => u.host.rplLog2) = some 6 := by decide +kernel

/-- CommandRing and RecoveryAndUnknownOpcodes. -/
theorem test_ring_fetch : live.coresRun = true ∧ live.host.mayFetch = true ∧ ({ seq := 3 } : CmdHdr).seq = live.host.cmdHead
    ∧ ({ seq := 4 } : CmdHdr).seq ≠ live.host.cmdHead := by decide +kernel
theorem test_ring_phases : let c : Cmd := { cmd 0x0102 0 with hdr := { hdr 0 with seq := 7, expire := 1 } }
    (let l := [c]; l.find? (fun c => c.hdr.seq = 7 && c.phase = .admitted && c.hdr.expire ≠ 0) = some c)
    ∧ (let l := [{ c with phase := .running }]; l.find? (fun c => c.hdr.seq = 7 && c.phase = .running) = some { c with phase := .running }
      ∧ (l.filter fun c => c.phase = .long).length < 64) := by decide +kernel
theorem test_unknown_opcode : let s := asked 0x01FF 0
    s.host.findCmd 0x01FF (hdr 0) = some (cmd 0x01FF 0) ∧ ¬ (0x01FF : W16).toNat ∈ knownOpcodes ∧ s.expired (cmd 0x01FF 0) = false ∧ s.coresRun = true := by
  decide +kernel
theorem test_recovery_answers : let s : State := { asked 0x0403 1 with pstate := 2 }
    s.host.findCmd 0x0403 (hdr 1) = some (cmd 0x0403 1) ∧ s.coresRun = true ∧ s.expired (cmd 0x0403 1) = false ∧ s.pstate = 2 ∧ (0x0403 : W16).toNat / 256 ≠ 1 := by
  decide +kernel
theorem test_ping_refusals : let c : Cmd := { cmd 0x0102 0 with hdr := { hdr 1 with expire := 1 } }
    let s : State := { ready with halls := [(0, { lc := 1, lcRunning := true })], host := { cmds := [c] } }
    s.host.findCmd 0x0102 c.hdr = some c ∧ s.coresRun = true ∧ s.expired c = true
    ∧ (asked 0x0102 1).host.findCmd 0x0102 (hdr 1) = some (cmd 0x0102 1) ∧ (hdr 1).plen.toNat ≠ 0 ∧ ready.modeAnswer 0x0102 = none := by decide +kernel
/-- CommandsDuringStartup: step 4, and step 10. -/
theorem test_startup_busy : ∀ n ∈ [4, 10], let s : State := { asked 0x0403 1 with pstate := 0, startStep := BitVec.ofNat 8 n }
    s.host.findCmd 0x0403 (hdr 1) = some (cmd 0x0403 1) ∧ s.expired (cmd 0x0403 1) = false ∧ s.pstate = 0 ∧ s.power.supply = .on ∧ 4 ≤ s.startStep.toNat
    ∧ headerBad (hdr 1) 1 true = false ∧ s.hbmHeld = false := by decide +kernel
/-- ReplyEntry: the ring takes entries; its first goes to entry 0 with PHASE 1 (R523, R525). -/
theorem test_reply_first_entry : live.host.writes = true ∧ (cmd 0x0102 0).lostReply = false
    ∧ ((live.reply (cmd 0x0102 0) 0x00 []).sent.filterMap fun e => match e with | .replyEntry i b => some (i, b.take 4) | _ => none)
      = [(0, [0x81, 0x00, 0x02, 0x01])] := by decide +kernel

/-- DeviceAndSecurityCommands. -/
theorem test_device_premises : ready.noIdentity = false ∧ ready.boot.certificate.length ≤ (hdr 0).bulkLen.toNat ∧ 480 ≤ (hdr 6).bulkLen.toNat
    ∧ ready.jobResident 0 = false ∧ ready.weights.loads = []
    ∧ ({ ready with host := { staged := [(1, some [1])] } } : State).host.staged.get none 1 = some [1] := by decide +kernel
theorem test_ping_ok : after (exec (.ping (hdr 0)) { asked 0x0102 0 with host := { enable := true, cmds := [cmd 0x0102 0] } })
    (fun u => (u.host.cmds, u.host.rplTail)) = some ([], 1) := by decide +kernel

/-- Whether an access succeeds, and whether a write leaves nothing to send. -/
def accOk {α : Type} : Acc α → Bool
  | .ok _ => true
  | _ => false
def wroteHere : Acc (State × List (Nat × List Byte)) → Bool
  | .ok (_, []) => true
  | _ => false

/-- A weight-key bundle for slot 3 whose body digest, fields and signer hold. Its signature holds outside the kernel's reach of
time: 1,152 point additions. -/
def wkeyBody : List Byte := 3 :: List.replicate 103 0
def wkeyObj : List Byte :=
  leBytes 4 0x4A354B42 ++ leBytes 2 1 ++ leBytes 2 0 ++ leBytes 4 0 ++ leBytes 4 104 ++ sha384 wkeyBody ++ List.replicate 8 0 ++ List.replicate 96 1
    ++ List.replicate 96 2 ++ List.replicate 248 0 ++ wkeyBody
theorem test_wkey_fields : objFields .weightKey wkeyObj = true ∧ objSize wkeyObj = 616 ∧ leAt (objBody wkeyObj) 0 1 = 3 ∧ leAt (objBody wkeyObj) 1 7 = 0 := by
  decide +kernel
theorem test_wkey_digest : sha384 (objBody wkeyObj) = (wkeyObj.drop 0x10).take 48
    ∧ ({ ready with boot := { owner := some (sha384 (objKey wkeyObj)) } } : State).signerTrusted .weightKey wkeyObj = true := by decide +kernel
theorem test_sha384_abc : sha384 [0x61, 0x62, 0x63] =
    [0xCB, 0x00, 0x75, 0x3F, 0x45, 0xA3, 0x5E, 0x8B, 0xB5, 0xA0, 0x3D, 0x69, 0x9A, 0xC6, 0x50, 0x07, 0x27, 0x2C, 0x32, 0xAB, 0x0E, 0xDE, 0xD1, 0x63,
     0x1A, 0x8B, 0x60, 0x5A, 0x43, 0xFF, 0x5B, 0xED, 0x80, 0x86, 0x07, 0x2B, 0xA1, 0xE7, 0xCC, 0x23, 0x58, 0xBA, 0xEC, 0xA1, 0x34, 0xC8, 0x25, 0xA7] := by
  decide +kernel

/-! ### Memory and translation -/

/-- MemoryAndDescriptorCommands: the smallest and the last allocation, memory accesses up to a granule's and a unit's end. -/
theorem test_alloc_premises : ready.host.freeHandle = some 1 ∧ (0x1FF80 : W64).toNat % 128 = 0 ∧ (128 : W64).toNat ≤ 2 ^ 48
    ∧ (∀ x ∈ ready.host.allocs, x.va + x.len ≤ 0) ∧ nextGen 0xFFFF = 1 := by decide +kernel
theorem test_alloc_free : after (exec (.allocFree (hdr 1) 9) (asked 0x0202 1 { ready with host := { allocs := [⟨9, 1, 0, 0, 128⟩] } }))
    (fun u => u.host.allocs) = some [] := by decide +kernel
theorem test_mem_write : wroteHere (((asked 0x0203 2).begin_ (cmd 0x0203 2)).vwrite 0 0x2FFFF [1]) = true ∧ 1 ≤ 65536 - 0x2FFFF % 65536 := by decide +kernel
theorem test_mem_read : accOk (((asked 0x0204 2).begin_ (cmd 0x0204 2)).hubRead 0 0x2003F 1) = true ∧ 1 ≤ 64 - 0x2003F % 64
    ∧ accOk (((asked 0x0302 1).begin_ (cmd 0x0302 1)).hubRead 0 0x20000 64) = true := by decide +kernel
/-- A part whose job 0 maps the windows at 0x40000000; counter 3 holds 7. -/
def windowed : State := { ready with mem := tables ++ [(0x12008, 0x0F), (0x1200D, 0x0F)], bell := { counters := [(3, 7)] } }
theorem test_window : (match windowed.windowPiece 0 0x40000018 8 with | some (.ok bs) => decide (bs = [7, 0, 0, 0, 0, 0, 0, 0]) | _ => false) = true
    ∧ (match windowed.hubRead 0 0x40000018 8 with | .err _ _ => true | _ => false) = true
    ∧ (windowed.windowSignal 0 0x40000018 [2, 0, 0, 0, 0, 0, 0, 0]).map (·.counter 3) = some 9
    ∧ (match windowed.vwrite 0 0x40000018 [2, 0, 0, 0, 0, 0, 0, 0] with | .err _ _ => true | _ => false) = true := by decide +kernel
theorem test_seal_batch : (match ((asked 0x0301 3).begin_ (cmd 0x0301 3)).sealBatch 0 0x20000 0x30000 1 [] with | (_, [], .done c) => decide (c ≠ 0) | _ => false) = true := by
  decide +kernel
theorem test_logs : stallOfId 0 = some 0 ∧ (ready.trapBytes 0).length ≤ 0x40000 ∧ 16 * ready.host.claims.length ≤ 0x40000
    ∧ ((ready.host.faultLog.take 4096).flatMap FaultRec.bytes).length ≤ 0x40000 := by decide +kernel
theorem leBytes_length (n x : Nat) : (leBytes n x).length = n := by
  induction n generalizing x with
  | zero => rfl
  | succ n ih => simp only [leBytes, List.length_cons, ih]
theorem length_flatMap_range (n c : Nat) (f : Nat → List Byte) (h : ∀ i, (f i).length = c) : ((List.range n).flatMap f).length = n * c := by
  induction n with
  | zero => simp
  | succ n ih => rw [List.range_succ, List.flatMap_append, List.length_append, ih, List.flatMap_singleton, h, Nat.succ_mul]
theorem test_bell_dump_room (b : Bool) : (ready.bellDump b).length = 64 + 524288 := by
  unfold State.bellDump
  simp only [List.length_append]
  rw [length_flatMap_range 65536 8 _ (fun _ => leBytes_length _ _)]
  simp only [leBytes_length]
  decide +kernel
theorem test_postmortem_room (b : Bool) : (ready.postmortem b).length ≤ 0xFFFFFFFF := by
  unfold State.postmortem
  simp only [List.length_append, test_bell_dump_room]
  rw [length_flatMap_range 2304 0 _ (fun _ => rfl), length_flatMap_range 8192 8 _ (fun _ => leBytes_length _ _)]
  decide +kernel

/-- HbmCommands. -/
theorem test_hbm_records : wroteHere (((asked 0x0220 2).begin_ (cmd 0x0220 2)).vwrite 0 0x20000 (((asked 0x0220 2).begin_ (cmd 0x0220 2)).healthBytes 11)) = true
    ∧ wroteHere (((asked 0x0221 3).begin_ (cmd 0x0221 3)).vwrite 0 0x20000 []) = true := by decide +kernel
theorem test_hbm_up : ready.stackUp 11 = true ∧ ready.offsetOf 11 0 = some (3 * 2 ^ 30 + 2 * 65536) ∧ ready.stackUp 0 = true ∧ ready.offsetOf 0 65536 = some (3 * 65536) := by
  decide +kernel
theorem test_hbm_rebuild : (ready.stack 0).canRebuild (rowOf (ready.redirect 0 0)).1 = true
    ∧ (let s : State := { ready with hbm := [(0, { erased := [(1, true)] })] }; s.stackUp 0 = true ∧ s.offsetOf 0 0 = some 0 ∧ (s.stack 0).canRebuild (rowOf (s.redirect 0 0)).1 = false)
    ∧ (let s : State := { ready with poison := [(0, true)] }; s.offsetOf 0 0 = some 0 ∧ s.poisonGranule 0 = true) := by decide +kernel
theorem test_hbm_pc : let s : State := { ready with hbm := [(0, { erased := [(1, false)] })] }
    (ready.stack 0).lostPcs = [] ∧ (ready.stack 0).erased = [] ∧ s.stackUp 0 = true
    ∧ (s.stack 0).erased.find? (fun e => !e.2 && !((s.stack 0).lostPcs.contains e.1)) = some (1, false) := by decide +kernel
theorem test_hbm_spares : (ready.stack 0).sparesUsed.get 0 0 < 32
    ∧ (let s : State := { ready with hbm := [(0, { sparesUsed := [(0, 32)] })] }; s.stackUp 0 = true ∧ 32 ≤ (s.stack 0).sparesUsed.get 0 0 ∧ s.xlt.retiring = [] ∧ (s.stack 0).retired = []) := by
  decide +kernel
theorem test_hbm_retire : let s : State := { ready with xlt := { retiring := [(0, 7)] } }
    s.stackUp 0 = true ∧ (s.offsetOf 0 (s.ownerUnit 0 7 * 65536)).isSome = true ∧ (0, 7) ∈ s.xlt.retiring ∧ s.xlt.pins = [] ∧ s.freeReserve 0 = [] := by decide +kernel
theorem test_hbm_reserve : let s : State := { ready with xlt := { retiring := [(0, 7)], reserves := [(0, some { off := 0, size := 65536 })] } }
    (s.freeReserve 0).length = 1 ∧ (s.offsetOf 0 (s.ownerUnit 0 7 * 65536)).isSome = true := by decide +kernel

/-- TranslationCommands and TranslationFaultIds. -/
def pf : PFault := { id := 3, kind := 1, unit := 0, job := 0, va := 0x5000, lo := 0, size := 65536, source := 0, xlt := 4, raised := 0 }
def faulted : State := { ready with xlt := { spaces := [{ job := 0, root := 0x10000, limit := 1000 }], faults := [pf] } }
theorem test_xlt_space : ready.tableOk 0 0x10000 = true ∧ ready.space 1 = none ∧ (asked 0x0231 0).jobResident 0 = false := by decide +kernel
theorem test_xlt_space_serves : let s : State := { ready with host := { cmds := [cmd 0x0230 2 1] } }
    s.serves 0x0230 2 true (hdr 2 1) (cmd 0x0230 2 1) ∧ s.space (hdr 2 1).job = none := by decide +kernel
theorem test_xlt_resolve : (asked 0x0233 2 faulted).serves 0x0233 2 false (hdr 2) (cmd 0x0233 2)
    ∧ (asked 0x0233 2 faulted).xlt.faults.find? (fun x => x.id = (3 : W64).toNat) = some pf ∧ (faulted.space pf.job).isSome = true := by decide +kernel
theorem test_xlt_areas : ready.hbmRange 0x100000 0x400000 = true ∧ ready.records 3 = [] ∧ ready.hbmRange 0x100000 65536 = true ∧ ready.xlt.redirects = [] := by decide +kernel
theorem test_xlt_ids : faulted.xlt.faults.length < 2 ^ 31
    ∧ faulted.xlt.faults.find? (fun f => f.job = 0 && f.kind = 1 && f.lo ≤ 0xFFFF && 0xFFFF < f.lo + f.size) = some pf
    ∧ faulted.xlt.faults.find? (fun f => f.job = 0 && f.kind = 1 && f.lo ≤ 0x10000 && 0x10000 < f.lo + f.size) = none := by decide +kernel
/-- The last serviceable address of the space and the first high one (R402). -/
theorem test_high_address : ready.walk 0 .read 0x3FFFFFFF = .page 0x3FFFFFFF 0 (2 ^ 30) ∧ ready.walk 0 .read (2 ^ 57) = .bad := by decide +kernel
theorem test_walk_faults : ready.walk 0 .read 0x40000000 = .fault 1 0x40000000 (2 ^ 30) := by decide +kernel

/-! ### Graphs -/

/-- The bytes of a sound graph header: one task, one root (Table 2.1). -/
def hdrBytes (flags sync : Nat) : List Byte :=
  leBytes 4 0x4A354731 ++ leBytes 2 1 ++ leBytes 2 flags ++ leBytes 4 1 ++ leBytes 4 1 ++ leBytes 8 0x21000 ++ leBytes 8 0x22000 ++ [0, 0] ++ leBytes 2 1
    ++ [1, 0] ++ leBytes 2 0 ++ leBytes 8 0 ++ leBytes 4 0xFFFFFFFF ++ leBytes 4 0 ++ leBytes 4 1 ++ [BitVec.ofNat 8 sync, 0] ++ leBytes 2 0 ++ leBytes 8 9
    ++ List.replicate 56 0
/-- Command `op` waits on a part whose memory holds the header at 0x20000 and whose graph 0 is `gr`. -/
def graphCmd (op : W16) (n : Nat) (gr : Option Graph) : State :=
  asked op n { ready with mem := tables.write 0x20000 (hdrBytes 0 0), graphs := match gr with | some x => [(0, some x)] | none => [] }
def endedG : Graph := { graph0 (task0 .done) with phase := .ended }

/-- GraphCommands and NinthGraphIsBusy. -/
theorem test_graph_submit : let s := graphCmd 0x0401 1 none
    s.serves 0x0401 1 true (hdr 1) (cmd 0x0401 1) ∧ s.freeHandle = some 0 ∧ s.fab.broken = false
    ∧ (match (s.begin_ (cmd 0x0401 1)).hubRead 0 0x20000 128 with | .ok b => decide (b = hdrBytes 0 0) | _ => false) = true ∧ hdrBad (hdrBytes 0 0) 0 = false
    ∧ (GraphHdr.parse (hdrBytes 0 0)).syncMode = 0 := by decide +kernel
theorem test_graph_status : let s := graphCmd 0x0403 1 (some (graph0 (task0 .running)))
    s.serves 0x0403 1 false (hdr 1) (cmd 0x0403 1) ∧ s.graph 0 = some (graph0 (task0 .running)) := by decide +kernel
theorem test_graph_stop : let s := graphCmd 0x0402 2 (some (graph0 (task0 .running)))
    s.serves 0x0402 2 false (hdr 2) (cmd 0x0402 2) ∧ (graph0 (task0 .running)).phase = .running ∧ (graph0 (task0 .running)).atStepEnd = none := by decide +kernel
theorem test_graph_release : (graphCmd 0x0404 1 (some endedG)).serves 0x0404 1 false (hdr 1) (cmd 0x0404 1) ∧ endedG.phase = .ended
    ∧ after (exec (.graphRelease (hdr 1) 0) (graphCmd 0x0404 1 (some endedG))) (fun u => u.graph 0) = some none
    ∧ (graph0 (task0 .running)).phase ≠ .ended := by decide +kernel
theorem test_ninth_graph : let s : State := { graphCmd 0x0401 1 none with graphs := [0, 1, 2, 3, 4, 5, 6, 7].map fun g => (g, some endedG) }
    s.residents.length = 8 ∧ s.serves 0x0401 1 true (hdr 1) (cmd 0x0401 1) := by decide +kernel

/-- DispatchAndSteps: a ready task of hall 0, aisle 0. -/
def readyTask : TaskSt := { task0 .ready with queue := some (0, 0) }
def cand0 (ts : TaskSt) (r : TaskRec) : Cand := { g := 0, t := 0, gr := { graph0 ts with recs := [r] }, ts := ts, r := r, cls := 0 }
def placing (ts : TaskSt) (r : TaskRec) : State := withGraph ready { graph0 ts with recs := [r] }
def rec1 : TaskRec := { rec0 with place := 31 * 512 }
theorem test_place_stall : let s := placing readyTask rec1; let c := cand0 readyTask rec1
    s.task 0 0 = some readyTask ∧ s.rec_ 0 0 = some rec1 ∧ s.placeClass rec1 = 0 ∧ s.dispatchOn = true ∧ tagLayout readyTask.tags = s.layoutEpoch.get 0 0
    ∧ s.weightOk 0 readyTask.tags = true ∧ rec1.onStall = true ∧ s.stallFor c = some 0 ∧ s.blocked c = false ∧ s.restoreFirst c 0 = false
    ∧ rec1.drefs ≠ [] ∧ accOk (s.readDrefs 0 rec1.drefs) = true := by decide +kernel
theorem test_place_unit : let r := { rec0 with kind := 3 }; let ts := { task0 .ready with queue := some (4, 36) }
    r.onStall = false ∧ r.kind ≠ 2 ∧ (placing ts r).fits (cand0 ts r) = true ∧ (placing ts r).blocked (cand0 ts r) = false := by decide +kernel
theorem test_place_stale : epochNewer 1 (tagLayout readyTask.tags) = true ∧ epochNewer 32768 0 = false ∧ epochNewer 32767 0 = true := by decide +kernel
theorem test_task_finished : let ts := { task0 .running with place := some 0 }; (placing ts rec1).taskFinished 0 0 ts rec1 = true
    ∧ (let ts := { task0 .running with unitDone := true }; let r := { rec0 with kind := 3 }; (placing ts r).taskFinished 0 0 ts r = true) := by decide +kernel
theorem test_deadlock : let gr := graph0 (task0 .waitPred)
    gr.phase = .running ∧ gr.loading = none ∧ (∀ x ∈ gr.tasks, x.st = .waitPred ∨ x.st = .done ∨ x.st = .skipped)
    ∧ (gr.tasks.filter fun x => !(x.st = .done || x.st = .skipped)).length ≠ 0 := by decide +kernel
/-- STEP_START in each SYNC_MODE, and the end of a hold. -/
def boundaryG (mode : BitVec 2) (master : Bool) : Graph :=
  { graph0 (task0 .done) with phase := .boundary, hdr := { hdr0 with syncMode := mode, syncMaster := master, holdMs := 5 } }
theorem test_step_start : ∀ m : Fin 4, ∀ b : Bool, (withGraph ready (boundaryG (BitVec.ofNat 2 m.val) b)).mayStartStep (boundaryG (BitVec.ofNat 2 m.val) b) = true := by
  decide +kernel
theorem test_step_edges : let gr := { boundaryG 2 true with edge := true }; let sl := { boundaryG 3 false with starts := [(1, true)] }
    (withGraph ready gr).mayStartStep gr = true ∧ gr.edge = true ∧ (withGraph ready sl).mayStartStep sl = true
    ∧ sl.starts.find? (fun p => p.1 = sl.step + 1) = some (1, true) ∧ (boundaryG 2 true).edge = false ∧ (boundaryG 2 true).pairLost = false
    ∧ (boundaryG 2 true).hdr.holdMs ≠ 0 := by decide +kernel
theorem test_sync_messages : let gr := boundaryG 2 false; let s := withGraph ready gr
    s.graph 0 = some gr ∧ gr.hdr.syncMaster = false ∧ gr.phase ≠ .ended ∧ (∀ p ∈ s.slaves 0, p.2.step ≠ 1) ∧ s.power.supply ≠ .off ∧ s.host.claims = [] := by
  decide +kernel

/-- Saves, restores and pre-emption. -/
def savedRec : SavedTask :=
  { hall := 0, off := 0x100000, bytes := 65536, cause := .priority, faultId := 0, threads := [(0, thr)], slots := [], xmode := 0, spanLo := 0, spanN := 0, lines := [], lc := 0 }
theorem test_task_save : let ts : TaskSt := { task0 .running with saving := some (.fault, 3, 0x100000, 65536), place := some 0 }
    let s := placing ts rec1; s.task 0 0 = some ts ∧ ts.place = some (skey ⟨0, 0, 0⟩) ∧ s.saveReady 0 0 0 = true := by decide +kernel
theorem test_task_restore : let ts : TaskSt := { task0 (.saved true) with saved := some savedRec }; let s := placing ts rec1
    s.task 0 0 = some ts ∧ s.canRestore 0 ts savedRec 0 = true ∧ s.poisoned 0x100000 65536 = false
    ∧ ({ s with poison := [(0x100000 / 64, true)] } : State).poisoned 0x100000 65536 = true := by decide +kernel
theorem test_preempt : let r := { rec0 with place := 3 * 512 }; let s := withGraph ready { graph0 readyTask with recs := [r], hdr := { hdr0 with midtask := true } }
    s.rec_ 0 0 = some r ∧ r.onStall = true ∧ readyTask.st = .ready ∧ readyTask.queue = some (hallOf 3, aisleOf 3 % 36) ∧ r.placeStall = 3 % 16 ∧ r.placeStall ≠ 31
    ∧ s.stallRuns 3 = true := by decide +kernel

/-- Fences and spares. -/
theorem test_fences : let s : State := { ready with stalls := [(5, { fenced := true })], aisles := [(1, { fenced := true })], halls := [(3, { fenced := true })] }
    (ready.stall 5).fenced = false ∧ ready.hallRuns (hallOf 5) = true ∧ (ready.aisle (aisleOf 5)).sxFor = none ∧ ready.tasksOn 5 = []
    ∧ (s.stall 5).fenced = true ∧ (s.aisle 0).fenced = false ∧ (s.aisle 0).gone = false ∧ (s.aisle 0).sxFor = none
    ∧ (s.aisle 1).fenced = true ∧ (s.aisle 1).gone = false ∧ (s.hall 0).axFor = none ∧ s.hallRuns 0 = true ∧ (s.hall 3).fenced = true := by decide +kernel
theorem test_ctx_parity : (holding thr).thread (tkey t0) = some thr := by decide +kernel

/-! ### Bell -/

/-- BellCommands: counters of this part, a barrier with none waiting, a host watch, a pair. -/
theorem test_bell_part : ready.partNo < 8192 ∧ ready.member ready.partNo = true ∧ (0xFFFF : W64).toNat < 65536 ∧ ready.bellLost 0xFFFF = false
    ∧ (((asked 0x0502 3).begin_ (cmd 0x0502 3)).signal 0xEFFF 1).isSome = true := by decide +kernel
def bar0 : Barrier := { index := 0xF000, n := 2, domain := false }
def watch0 (w : Waiter) : Watch := ⟨5, 0xEFFF, 9, 0, 100, w, 0⟩
theorem test_bell_cancel : let s := asked 0x0504 1 { ready with bell := { watches := [watch0 (.host 3)] } }
    s.serves 0x0504 1 false (hdr 1) (cmd 0x0504 1) ∧ (∃ x ∈ s.bell.watches, x.hostIs 5 = true) := by decide +kernel
theorem test_bell_reset_range : (65535 : Nat) + 1 ≤ 65536 ∧ ready.bell.watches ++ ready.bell.heldRegs = [] ∧ ready.bell.pairs = [] ∧ ready.bell.barriers = []
    ∧ after (exec (.bellReset (hdr 2) 0xFFFE 2) (asked 0x0505 2 { ready with bell := { counters := [(0xFFFD, 1), (0xFFFF, 7)] } })) (fun u => (u.counter 0xFFFD, u.counter 0xFFFF))
      = some (1, 0) := by decide +kernel
theorem test_bell_barrier_cmds : let s := asked 0x0507 1 { ready with bell := { barriers := [bar0] } }
    s.serves 0x0507 1 false (hdr 1) (cmd 0x0507 1) ∧ s.bell.barriers.find? (fun x => x.index.toNat = 0xF000) = some bar0 ∧ s.barrierWaits bar0 = false
    ∧ ready.isBarrier 0xF000 = false := by decide +kernel
theorem test_bell_pair_cmds : let s := asked 0x0509 1 { ready with bell := { pairs := [⟨4, 0, 1, 1, 0⟩] } }
    s.serves 0x0509 1 false (hdr 1) (cmd 0x0509 1) ∧ (∃ x ∈ s.bell.pairs, x.id = (4 : W64).toNat) ∧ bellHome 0 = bellHome 15359 ∧ bellHome 15360 = 1 := by decide +kernel
theorem test_bell_lost : let s : State := { asked 0x0501 2 with halls := [(0, { fenced := true })] }
    s.serves 0x0501 2 false (hdr 2) (cmd 0x0501 2) ∧ s.bellLost 15359 = true ∧ s.bellLost 15360 = false
    ∧ ({ asked 0x0502 3 with bell := { barriers := [bar0] } } : State).isBarrier 0xF000 = true := by decide +kernel
theorem test_bell_signal_barrier : ({ asked 0x0502 3 with bell := { barriers := [bar0] } } : State).serves 0x0502 3 false (hdr 3) (cmd 0x0502 3) := by decide +kernel

/-- BellEvents. -/
theorem test_bell_events : (0 : Fin 8192).val = ready.partNo ∧ (ready.signal 9 1).isSome = true ∧ ready.member 0 = true
    ∧ (ready.signal (BitVec.ofNat 16 (0x7FFF8 / 8)) 1).isSome = true := by decide +kernel
theorem test_bell_host_msg : let m : BellMsg := { index := 9, dest := .host 5 7, outcome := .held, part := 0, value := 0, tie := false, lc := 0 }
    m ∈ ({ ready with bell := { msgs := [m] } } : State).bell.msgs ∧ m.dest = .host 5 7 := by decide +kernel
theorem test_bell_thread_msg : let m : BellMsg := { index := 9, dest := .thread t0, outcome := .held, part := 0, value := 0, tie := false, lc := 0, watch := 1 }
    let th := { thr with status := .wait 1 0 9 0 0, watch := 1 }
    (let s : State := { holding th with bell := { msgs := [m] } }; s.thread (tkey t0) = some th ∧ m ∈ s.bell.msgs
      ∧ xAfter 1 (exec (.bellMsg m) { holding { th with x := [(1, 5)] } with bell := { msgs := [m] } }) = some 0) := by decide +kernel
theorem test_watch_timeout : let s : State := { ready with bell := { counters := [(0xEFFF, 9)], watches := [watch0 (.remote 1 2)] } }
    s.bell.watches.find? (fun w => w.id = 5) = some (watch0 (.remote 1 2)) ∧ (watch0 (.remote 1 2)).timeout ≠ 0
    ∧ cmpHolds 0 9 9 = true ∧ cmpHolds 0 8 9 = false := by decide +kernel
theorem test_table_free : let s : State := { ready with bell := { heldRegs := [watch0 (.host 1)] } }
    s.bell.heldRegs.find? (fun w => bellHome w.index = 3) = some (watch0 (.host 1)) ∧ s.bell.stored 3 < homeSize 3 := by decide +kernel
theorem test_barrier_release : let x : Barrier := { bar0 with releasing := some 1, pendingHalls := 1, acks := 1 }
    let s : State := { ready with bell := { barriers := [x], counters := [(0xF000, 2)] } }
    x ∈ s.bell.barriers ∧ x.releasing = some 1 ∧ x.pendingHalls ≠ 0 ∧ s.bell.barriers.find? (fun x => x.index = 0xF000) = some x ∧ x.acks ≤ 1
    ∧ (s.counter 0xF000).toNat ≠ ((1 : W64).toNat + 1) * x.n := by decide +kernel
theorem test_gate_held : let r := { rec1 with gatePart := 0, gateIndex := 9 }; let m : BellMsg := { index := 9, dest := .gate 0 0, outcome := .held, part := 0, value := 0, tie := false, lc := 0 }
    let s : State := { placing (task0 .gated) r with bell := { msgs := [m] } }
    s.rec_ 0 0 = some r ∧ r.gatePart.toNat % 8192 = s.partNo ∧ s.task 0 0 = some (task0 .gated) ∧ s.bell.msgs.find? (fun m => m.dest = .gate 0 0 && m.outcome = .held) = some m := by
  decide +kernel

/-! ### Weights and the Tills -/

/-- A weight set of two copies, 64 KiB each, at 1 MiB. -/
def wset0 : WSet := { job := 0, id := 3, ncopy := 2, base := 0x100000, size := 0x10000, stride := 0x10000 }
/-- A manifest of one shard: MODEL_ID 7, key slot 2, its signature and the key. The point r is chosen so that both scalars are 1. -/
def maniHead : List Byte := leBytes 4 0x4A35574D ++ leBytes 2 1 ++ [2, 0] ++ leBytes 4 1 ++ leBytes 4 0 ++ leBytes 8 0x10000 ++ leBytes 8 7
def maniSig : List Byte := beBytes 96 0x06be22df050cd222b896b38b165bdffd0600f97bbd368e4f63aca57c90749009e8e393cc9f772e0c90e376ecbdde718e06be22df050cd222b896b38b165bdffd0600f97bbd368e4f63aca57c90749009e8e393cc9f772e0c90e376ecbdde718e
def maniKey : List Byte := leBytes 48 0xb4364058be759951dc3571638a3de78770a70cc45191fae27df1d7b517ecd1dba4ea4a80f1e2a3ce50c6f05a939cd8f7 ++ leBytes 48 0x81fef4100016fd474deaf0a9bac5b9297f1a6469b9df93daa4752a4ad9456545b13d683902e389e8075063b1bf307076
def manifest0 : List Byte := maniHead ++ maniSig ++ List.replicate 96 0
theorem test_manifest_signature : ecdsaVerify ofBe maniKey (manifestDigest manifest0) ((manifest0.drop 0x20).take 96) = true := by decide +kernel

/-- WeightCommands. -/
theorem test_weight_reg : let s := asked 0x0601 5; let x : WSet := { job := 0, id := 15, ncopy := 1, base := 0x100000, size := 0x10000, stride := 0 }
    s.serves 0x0601 5 true (hdr 5) (cmd 0x0601 5) ∧ s.wset 0 15 = none
    ∧ (match (s.begin_ (cmd 0x0601 5)).probeAll 4 (setPinKey 0) x.id 0 x.ranges [] with | .ok l => decide ((s.begin_ (cmd 0x0601 5)).pinsIn 4 + l.length ≤ pinRoom) | _ => false) = true := by
  decide +kernel
theorem test_weight_clear : let s := asked 0x0602 1 { ready with weights := { sets := [wset0] } }
    s.serves 0x0602 1 true (hdr 1) (cmd 0x0602 1) ∧ s.wset 0 3 = some wset0 ∧ s.loadRuns 0 = false ∧ s.jobResident 0 = false := by decide +kernel
def qp0 : Qp := { id := 7, job := 0, port := 0, ring := 0, depth := 16, counter := 9 }
def loadCmd : State :=
  asked 0x0603 10 { ready with mem := tables.write 0x20000 manifest0, weights := { sets := [wset0] }, fab := { ready.fab with qps := [qp0] }, host := { wkeys := [(2, maniKey)] } }
theorem test_weight_load : loadCmd.serves 0x0603 (7 + 3 * 1) true (hdr 10) (cmd 0x0603 10) ∧ (∃ p ∈ loadCmd.fab.qps, p.id = (7 : W64).toNat ∧ p.job = 0)
    ∧ loadCmd.wset 0 3 = some wset0 ∧ loadCmd.loadRuns 0 = false ∧ loadCmd.copyHeld wset0 (nextEpoch (loadCmd.epochOf 0)) = false ∧ loadCmd.fab.lost = []
    ∧ manifestBad (manifest0.take 128) wset0.size = false ∧ leAt manifest0 6 1 = 2 ∧ loadCmd.host.wkeys.get [] 2 ≠ [] := by decide +kernel
theorem test_weight_load_reads : (match (loadCmd.begin_ (cmd 0x0603 10)).hubRead 0 0x20000 128, ((loadCmd.begin_ (cmd 0x0603 10)).dropHub 0).hubRead 0 0x20000 (128 + 96) with
    | .ok a, .ok b => decide (a = manifest0.take 128 ∧ b = manifest0) | _, _ => false) = true := by decide +kernel

/-- WeightSwitchEvents: parts 0 to 3 form the domain; part 1 coordinates, or this part does. -/
theorem test_weight_prepare : ready.member 1 = true ∧ ready.partNo ≠ 1 ∧ ready.wpart 0 = none ∧ ready.member 3 = true ∧ ready.member 4 = false := by decide +kernel
theorem test_weight_ready : let w : WCoord := { job := 0, epoch := 1, since := 0, timeout := 1000 }
    let s : State := { ready with weights := { coords := [w] } }
    s.weights.coords.find? (fun c => c.job = 0) = some w ∧ (∀ r ∈ w.ready, r.1 ≠ 1) ∧ (2 ∈ s.domainParts ∧ 2 ≠ 1 ∧ ∀ r ∈ w.ready, r.1 ≠ 2)
    ∧ s.domainParts.find? (fun n => !(w.ready.any fun r => r.1 = n)) = some 0 := by decide +kernel
theorem test_weight_commit : let w : WPart := { job := 0, coord := 1, epoch := 5 }; let s : State := { ready with weights := { parts := [w] } }
    s.wpart 0 = some w ∧ w.commit = none ∧ (∀ q ∈ s.residents, q.2.hdr.job ≠ 0) := by decide +kernel
/-- A shard of four bytes and the load it belongs to. -/
def shard0 : Shard := { soff := 0, slen := 4, enc := 0, sfmt := 0, dfmt := 0, layout := 0, tsplit := 0, pstage := 1, rows := 1, cols := 2, doff := 0, scoff := 0,
                        digest := sha384 [1, 2, 3, 4], clean := true }
def loading : State :=
  { ready with weights := { sets := [wset0], loads := [{ job := 0, set := 3, epoch := 1, loader := 0, copy := 1, model := 7, shards := [shard0] }],
                            loaders := [{ job := 0, stOff := 0x200000, stSize := 0x20000, srcs := [(7, 0, 0)], timeout := 1000, andSwitch := false, since := 0 }] } }
theorem test_shard_lands : (loading.loader 0).isSome = true ∧ ((loading.load 0).bind fun w => w.shards[0]?) = some shard0 ∧ ([1, 2, 3, 4] : List Byte).length = shard0.slen
    ∧ sha384 [1, 2, 3, 4] = shard0.digest ∧ shard0.raw [1, 2, 3, 4] = some [1, 2, 3, 4] ∧ loading.keeps shard0 = false := by decide +kernel
theorem test_shard_mismatch : sha384 [1, 2, 3, 5] ≠ shard0.digest ∧ ((loading.loader 0).map (·.bad)) = some 0 ∧ loading.power.below40 = false := by decide +kernel
theorem test_crier : ready.load 0 = none ∧ (let s : State := { ready with weights := { sets := [wset0] } }; s.wset 0 3 = some wset0 ∧ s.copyHeld wset0 1 = false) := by decide +kernel

/-- TillAndMaskCommands: a W group of one unit at 1 MiB, its digest table at 2 MiB; a mask of one range. -/
def groupBytes : List Byte := leBytes 2 5 ++ [0, 1] ++ leBytes 4 0 ++ leBytes 8 0 ++ leBytes 8 8 ++ leBytes 8 0 ++ leBytes 8 0x100000 ++ leBytes 8 0x200000
  ++ List.replicate 4 0 ++ leBytes 4 0x3F800000 ++ List.replicate 72 0
def group0 : TillGroup := TillGroup.parse groupBytes
theorem test_group_record : groupBytes.length = 128 ∧ groupBad groupBytes 0 = none ∧ group0.gid = 5 ∧ group0.units = 1 ∧ ready.areaOk group0 = true
    ∧ ready.rangeWritable group0.job group0.digest group0.digestSize = true ∧ accOk (ready.unitDigests group0) = true := by decide +kernel
theorem test_group_cmds : let s := asked 0x0631 1 { ready with till := { groups := [group0] } }
    s.serves 0x0631 1 true (hdr 1) (cmd 0x0631 1) ∧ s.jobGroup 0 5 = some group0 ∧ s.groupBusy group0.gid = false := by decide +kernel
theorem test_group_status : let s := asked 0x0632 2 { ready with till := { groups := [group0] } }
    s.serves 0x0632 2 true (hdr 2) (cmd 0x0632 2) ∧ wroteHere ((s.begin_ (cmd 0x0632 2)).vwrite 0 0x30000 group0.statusBytes) = true := by decide +kernel
def maskBytes : List Byte := [254, 0, 0, 1] ++ leBytes 4 0 ++ leBytes 4 4 ++ leBytes 4 4 ++ leBytes 16 0 ++ leBytes 4 1 ++ leBytes 4 3 ++ List.replicate 120 0
theorem test_mask_record : maskBytes.length = 160 ∧ maskBad maskBytes 0 = none ∧ ready.mask 254 = none
    ∧ (match ({ ready with mem := tables.write 0x20000 maskBytes } : State).hubRead 0 0x20000 160 with | .ok b => decide (b = maskBytes) | _ => false) = true := by decide +kernel
theorem test_mask_cmds : let m := Mask.parse maskBytes; let s : State := { ready with masks := [m], till := { groups := [group0] } }
    s.mask 254 = some m ∧ m.job = 0 ∧ s.maskBusy 254 = false ∧ s.jobGroup 0 5 = some group0 ∧ group0.base + group0.nelem ≤ m.rows * m.cols := by decide +kernel

/-- TillEvents: an update of group 5 at the front of the queue; a run whose one unit is done. -/
def tillBytes (gid : Nat) : List Byte := [1, 0] ++ leBytes 2 gid ++ leBytes 4 4 ++ leBytes 8 0xFFFF0000000000 ++ List.replicate 112 0
def tillTags : W64 := (TillCmd.parse (tillBytes 5)).tags
theorem test_till_write : (tillBytes 5).length = 128 ∧ ready.member 0 = true := by decide +kernel
def tillQueued (gid : Nat) : State := { ready with till := { groups := [group0], queue := [{ src := 0, bytes := tillBytes gid }] } }
theorem test_till_start : (tillQueued 5).till.run = none ∧ (tillQueued 5).power.supply = .on ∧ (tillQueued 5).power.below42 = false ∧ (tillQueued 5).till.copying = []
    ∧ (let s := tillQueued 6; let v := (s.setTill { s.till with queue := [] }).admitPost; v.tillGroup 6 = none) := by decide +kernel

def tillRun (done : List Nat) : TillRun := { src := 0, bytes := tillBytes 5, gid := some 5, done := done, digested := true }
def tillRunning (done : List Nat) : State := { ready with till := { groups := [group0], run := some (tillRun done) } }
theorem test_till_unit : let s := tillRunning []
    s.till.run = some (tillRun []) ∧ (tillRun []).gid.bind s.tillGroup = some group0 ∧ 0 < group0.units ∧ s.unitStack group0 0 = some 1 ∧ (s.tillOf 1).pipes ≠ 0
    ∧ s.power.below40 = false := by decide +kernel
theorem test_till_done : let s := tillRunning [0]
    (tillRun [0]).gid.bind s.tillGroup = some group0 ∧ (tillRun [0]).bad = [] ∧ s.lostUnits (tillRun [0]) group0 = [] ∧ group0.units ≤ (tillRun [0]).done.length
    ∧ (tillRun [0]).refused = 0 ∧ s.outstanding (.till 12) = false ∧ (TillCmd.parse (tillRun [0]).bytes).donePart.getLsbD 15 = false
    ∧ (tillRun [0]).gid = some group0.gid ∧ s.tillGroup group0.gid = some group0 := by decide +kernel
theorem test_till_pipes : (ready.tillOf 11).pipes = 3 + 1 ∧ ({ ready with till := { stacks_ := [(0, { pipes := 1 })] } } : State).tillOf 0 = { pipes := 0 + 1 } := by decide +kernel
theorem test_unit_probes : ∀ k ∈ [3, 4, 5], (placing (task0 .running) { rec0 with kind := BitVec.ofNat 8 k }).rec_ 0 0 = some { rec0 with kind := BitVec.ofNat 8 k } := by
  decide +kernel
def move0 (finished : Bool) : Move := { tok := 4, word := 0, ds := 0, dd := 0, os := 0, od := 0, op := 0, perm := 0, finished := finished }
theorem test_move_transfers : let x : Transfer := { graph := 0, task := 0, cls := 0, stamp := 1, mv := move0 false }
    let y : Transfer := { x with channel := some 0, mv := move0 true }
    let s : State := { ready with xlt := { transfers := [x] } }; let u : State := { ready with xlt := { transfers := [y] } }
    s.transfer 0 0 = some x ∧ s.freeChannel = some 0 ∧ (∀ z ∈ s.waitingTransfers, z.before x = false) ∧ u.transfer 0 0 = some y ∧ y.channel.isSome = true
    ∧ y.mv.finished = true ∧ u.outstanding (.portWrite 0 0) = false := by decide +kernel
theorem test_pin_one : (match ready.probeAll 4 0 0 0 [{ va := 0, len := 65536, write := true }] [] with | .ok l => l.length | _ => 0) = 1 ∧ ready.pinsIn 4 + 1 ≤ pinRoom := by
  decide +kernel

/-! ### The fabric -/

/-- A request packet of part 1 to part 0 and its class of virtual channel (Table 15.3). -/
def pkt (type ctrl : Byte) (addr : W64) (payload : List Byte) : Pkt := { type := type, ctrl := ctrl, dst := 0, src := 1, plen := 1, addr := addr, seq := 4, payload := payload }
theorem test_read_packet : let p := pkt 0x01 0 0x207E0 []; let s := ready
    pktHeaderOk p = true ∧ s.lands p 0x01 ∧ (s.landed p).tagCheck p = none ∧ 0x207E0 % 2048 + 32 ≤ 2048
    ∧ ((s.landed p).noteSeq 1 4).readStat 0x207E0 32 = .ok := by decide +kernel
/-- FabricPackets: the last bytes of a 2 KiB block, a write of one byte, an atomic, a response, a retry. -/
theorem test_write_packet : let p := pkt 0x02 0 0x207FF [7]
    ready.lands p 0x02 ∧ (ready.landed p).tagCheck p = none ∧ ((ready.landed p).noteSeq 1 4).writable 0x207FF 1 = true ∧ 0x207FF % 2048 + 1 ≤ 2048
    ∧ after (exec (.write p) ready) (fun u => (u.mem.get 0x207FF, u.mem.get 0x207FE)) = some (7, 0) := by decide +kernel
theorem test_atomic_packet : let p := pkt 0x03 0 0x20008 (leBytes 16 1)
    ready.lands p 0x03 ∧ (ready.landed p).tagCheck p = none ∧ ((ready.landed p).noteSeq 1 4).mapped 0x20008 = true
    ∧ ((ready.landed p).noteSeq 1 4).poisoned 0x20008 8 = false ∧ 0x20008 % 8 = 0 ∧ p.opx.toNat ≤ 3 := by decide +kernel
def req0 : Req := { rid := 6, pkt := { pkt 0x01 0 0x20000 [] with dst := 1, src := 0, rid := 6 }, owner := .posted 0, firstSent := 0 }
def asking (r : Req) : State := { ready with fab := { ready.fab with reqs := [r] } }
theorem test_resp_packet : let p := { pkt 0x10 1 0 [] with rid := 6 }
    (asking req0).lands p 0x10 ∧ ((asking req0).landed p).req p.rid.toNat = some req0 ∧ req0.answer = none ∧ p.src = req0.pkt.dst ∧ p.opx ≠ rsEpochAhead := by decide +kernel
theorem test_requests : (asking req0).req (6 : W16).toNat = some req0 ∧ (asking { req0 with retry := true }).req (6 : W16).toNat = some { req0 with retry := true } := by
  decide +kernel
/-- ReplaysApplyOnce: a replay of an applied packet leaves the byte as it is (R449). -/
theorem test_replay_dropped : let p := pkt 0x02 0x20 0x20000 [7]; let s : State := { ready with fab := { ready.fab with seen := [(1, [(4, 0)])] } }
    pktReplay p = true ∧ (s.landed p).alreadySeen 1 4 = true ∧ pktHeaderOk p = true ∧ after (exec (.write p) s) (fun u => u.mem.get 0x20000) = some 0 := by decide +kernel

/-- LinkEvents and FailedPortIsEmpty: port 0 in service with all its lane groups. -/
def port0 : Port := { st := .inService, tx := 0xFFF, rx := 0xFFF }
def linked (x : Port) : State := { ready with fab := { ready.fab with ports := x :: List.replicate 7 {} } }
theorem test_link_up : (linked port0).portUp 0 = true ∧ ((linked port0).port 0).rxChanging = false ∧ ((linked port0).port 0).outq = []
    ∧ (linked port0).fab.ports.length = 8 ∧ (linked port0).axisSize (portAxis 0) ≠ 1 ∧ ((linked port0).port 0).replayPkts = []
    ∧ (linked { port0 with rxChanging := true }).portUp 0 = true := by decide +kernel
theorem test_link_groups : ((linked port0).port 0).rx.getLsbD 11 = true ∧ 2 ≤ groupCount (((linked port0).port 0).rx &&& ~~~((1 : BitVec 12) <<< 11)) := by decide +kernel
theorem test_link_age : let x := { port0 with outq := [(8, pkt 0x01 0 0x20000 [])] }
    (linked x).portUp 0 = true ∧ (∃ e ∈ ((linked x).port 0).outq, vcOf e.2 = 0 ∧ e.1 = 8) ∧ (0, 8) ∉ ((linked x).port 0).urgent := by decide +kernel
theorem test_link_probe : ((linked { port0 with probing := true }).port 0).probing = true ∧ (linked port0).power.supply ≠ .off ∧ (linked port0).pstate = 1
    ∧ ((0 : Nat), (3 : Nat)) ∉ (linked port0).fab.failedLinks ∧ (∀ q ∈ (linked port0).fab.ports, q.outq = []) := by decide +kernel

/-- FabricCommands. -/
theorem test_port_status : wroteHere (((asked 0x0701 2).begin_ (cmd 0x0701 2)).vwrite 0 0x20000 (((asked 0x0701 2).begin_ (cmd 0x0701 2)).portBytes 7)) = true := by decide +kernel
theorem test_port_retrain : let s := asked 0x0702 1 (linked port0)
    s.serves 0x0702 1 false (hdr 1) (cmd 0x0702 1) ∧ (s.port 0).txChanging = false ∧ (s.port 0).rxChanging = false ∧ 2 ≤ groupCount (((0x3 : BitVec 16).setWidth 12) &&& portGroups 0)
    ∧ s.axisSize (portAxis 0) ≠ 1 ∧ (s.port 0).st = .inService := by decide +kernel
theorem test_fab_atomic : let s := asked 0x0710 4
    (0x20008 : W64).toNat / 2 ^ 44 = s.partNo ∧ s.member s.partNo = true ∧ s.mapped 0x20008 = true ∧ s.poisoned 0x20008 8 = false := by decide +kernel
def mr0 : Mr := { id := 2, job := 0, off := 0x100000, len := 0x10000, key := 5 }
def ingest (q : Qp) : State := { ready with fab := { ready.fab with qps := [q], mrs := [mr0] } }
theorem test_mr_cmds : let s := asked 0x0741 1 (ingest qp0)
    s.serves 0x0741 1 false (hdr 1) (cmd 0x0741 1) ∧ s.fab.mrs.find? (fun m => m.id = (2 : W64).toNat) = some mr0 ∧ s.mrUsed mr0 = false
    ∧ s.hbmRange 0x200000 0x10000 = true ∧ s.fab.mrs.length < 4096 ∧ (∀ m ∈ s.fab.mrs, m.off + m.len ≤ 0x110000 ∨ 0x120000 ≤ m.off) := by decide +kernel
theorem test_qp_cmds : let s := asked 0x0743 6 (ingest qp0)
    s.serves 0x0743 6 false (hdr 6) (cmd 0x0743 6) ∧ s.qp 7 = some qp0 ∧ qpStateOf 1 = some .init ∧ qpMayMove qp0.st .init = true
    ∧ region 0x20000 = .hbm ∧ s.mapped 0x20000 = true ∧ (List.range 1024).find? (fun i => (s.qp i).isNone) = some 0 := by decide +kernel
/-- IngestEvents: at the region's end and one byte past it. -/
theorem test_ingest : (ingest { qp0 with st := .rtr }).qp 7 = some { qp0 with st := .rtr }
    ∧ (∃ m ∈ (ingest qp0).fab.mrs, m.job = 0 ∧ m.key = 5 ∧ m.off ≤ 0x10FFFF ∧ 0x10FFFF + 1 ≤ m.off + m.len)
    ∧ ¬ (∃ m ∈ (ingest qp0).fab.mrs, m.job = 0 ∧ m.key = 5 ∧ m.off ≤ 0x110000 ∧ 0x110000 + 1 ≤ m.off + m.len)
    ∧ (ingest qp0).poisoned 0x10FFFF 1 = false ∧ (ingest { qp0 with st := .rts }).qp 7 = some { qp0 with st := .rts } := by decide +kernel

/-- LayoutSwitching. -/
theorem test_layout_switch : epochNewer 1 (ready.layoutEpoch.get 0 0) = true ∧ ready.replay.runs = [] ∧ ready.lpart 0 = none ∧ ready.fab.lost = [] := by decide +kernel
theorem test_layout_part : let w : LPart := { job := 0, coord := 1, epoch := 5 }; let s : State := { ready with layouts := { parts := [w] } }
    s.lpart 0 = some w ∧ s.member 1 = true ∧ 1 ≠ s.partNo := by decide +kernel
theorem test_layout_coord : let w : LCoord := { job := 0, epoch := 5, since := 0, timeout := 1000 }; let s : State := { ready with layouts := { coords := [w] } }
    s.lcoord 0 = some w ∧ (2 ∈ s.domainParts ∧ 2 ≠ 1 ∧ 2 ∉ w.ready) ∧ 1 ∉ w.ready ∧ s.domainParts.find? (fun n => !(w.ready.contains n)) = some 0 := by decide +kernel

/-- Collectives: an all-gather (OP 2) of parts along axis 0, two BF16 elements; from its start, and with all it awaits. -/
def collBlock : List Byte := [2, 1, 0, 0, 0, 0, 0xFF, 0] ++ leBytes 4 1 ++ leBytes 4 0 ++ leBytes 8 32 ++ leBytes 8 0x100000 ++ leBytes 8 0x110000 ++ leBytes 8 0 ++ leBytes 8 0
  ++ leBytes 4 1000 ++ leBytes 4 0
def collRec : TaskRec := { rec0 with kind := 3, body := 0x20000 }
def collRun0 : CollRun := { graph := 0, task := 0, job := 0, step := 0, block := collBlock }
theorem test_coll_timeout : let r := { collRun0 with started := some 0 }; let s : State := { placing (task0 .running) collRec with colls := { runs := [r] } }
    (s.unitTask 0 0 3).isSome = true ∧ s.collRun 0 0 = some r ∧ r.started.isSome = true := by decide +kernel
theorem test_coll_stale : let m : CollMsg := { job := 0, step := 0, collId := 1, rank := 1, tags := 0, params := [], first := 0, data := [] }
    let s : State := { ready with layoutEpoch := [(0, 1)] }; epochNewer (s.layoutEpoch.get 0 0) (tagLayout m.tags) = true := by decide +kernel
theorem test_coll_packet : let p := pkt 0x08 2 0 []
    p.type = 0x08 ∧ pktHeaderOk p = true ∧ p.dst.toNat % 8192 = ready.partNo ∧ (pktReplay p && ready.alreadySeen 1 4) = false := by decide +kernel

def collState : State := { placing (task0 .running) collRec with mem := tables.write 0x20000 collBlock }
def collReady : State := (collState.collTake 0 0).collProbe 0 0
theorem test_coll_start : (collReady.unitTask 0 0 3).isSome = true ∧ ((collReady.collRun 0 0).map (·.started)) = some none
    ∧ ((collReady.task 0 0).map (·.probed)) = some true := by decide +kernel

/-! ### ROOT and SLV -/

/-- A factor of one block of 32 in hall 0 (Table 8.1). -/
def factorBytes : List Byte :=
  leBytes 2 3 ++ [0, 0, 0, 1] ++ leBytes 2 1 ++ leBytes 2 0 ++ [1, 1, 1, 0] ++ leBytes 2 0 ++ leBytes 4 0x3A800000 ++ leBytes 4 0x3F000000 ++ leBytes 4 0x3F800000
    ++ leBytes 4 0 ++ leBytes 4 0x3F800000 ++ leBytes 4 0x3A800000 ++ leBytes 4 0 ++ leBytes 4 1 ++ leBytes 8 0x100000 ++ leBytes 8 0x110000 ++ leBytes 8 0x120000
    ++ leBytes 8 0x140000 ++ List.replicate 48 0 ++ leBytes 2 32 ++ List.replicate 126 0
def factor0 : RootFactor := RootFactor.parse factorBytes
theorem test_factor_set : factorBytes.length = 256 ∧ factorBad factorBytes 0 = none ∧ ready.factor factor0.fid = none
    ∧ (match (asked 0x0B01 1 { ready with mem := tables.write 0x20000 factorBytes }).hubRead 0 0x20000 256 with | .ok b => decide (b = factorBytes) | _ => false) = true := by
  decide +kernel
/-- TOL just below its least value, and a block of 48, are refused at their offsets. -/
theorem test_factor_refused : factorBad (factorBytes.set 0x13 0x36) 0 = some 0x10 ∧ factorBad (factorBytes.set 0x80 48) 0 = some 0x80 := by decide +kernel
def rooted : State := { ready with roots := { factors := [factor0] } }
theorem test_factor_cmds : (asked 0x0B02 1 rooted).factorOf 0 3 = some factor0 ∧ (match (asked 0x0B02 1 rooted).factorBusy factor0 with | .ok b => !b | _ => false) = true ∧ (asked 0x0B05 1 rooted).rootBusy 3 = false
    ∧ wroteHere ((asked 0x0B03 2 rooted).vwrite 0 0x20000 (List.replicate 64 0)) = true
    ∧ wroteHere ((asked 0x0B04 2 rooted).vwrite 0 factor0.fPtr (List.replicate 64 0)) = true := by decide +kernel
/-- A root task of OPS 1 with one factor: its block at 0x20000 (Table 8.2), its list at 0x21000. -/
def rootBlock : List Byte := [1, 1] ++ leBytes 2 1 ++ leBytes 4 0 ++ leBytes 4 16 ++ leBytes 4 0 ++ leBytes 8 0x21000 ++ leBytes 8 0x30000 ++ List.replicate 32 0
def rootRec : TaskRec := { rec0 with kind := 4, place := 0, body := 0x20000 }
def rootTask : State :=
  { placing { task0 .running with probed := true } rootRec with mem := (tables.write 0x20000 rootBlock).write 0x21000 (leBytes 2 3), roots := { factors := [factor0] } }
theorem test_root_task : rootTask.rootRun 0 = none ∧ rootTask.hallRuns 0 = true ∧ ((rootTask.rootProbe 0 0 0).unitTask 0 0 4).isSome = true ∧ rootRec.placeHall = 0
    ∧ (match rootTask.rootRead 0 (graph0 (task0 .running)) rootRec with | .ok (some (b, fs)) => decide (b = rootBlock ∧ fs = [factor0]) | _ => false) = true := by decide +kernel
/-- A Newton iteration on a block of one element that is at its root (M = 1), and one whose M is 3/4. -/
def scale0 : RootScale := ⟨0, 0, 0, 0, 0, 0, false⟩
def factor1 : RootFactor := { factor0 with blkn := [1] }
def newton0 (m : Int) : Newton := { scale := scale0, a := [0], x := [0], m := [m], itmax := 5, warm := true }
theorem test_newton_stop : let w := newton0 (2 ^ 29)
    let res := amaxOf (newtonE 1 w.m); res = 0 ∧ (w.warm && w.k = 0 && (val32 factor1.omega).lt (val32 res)) = false ∧ (val32 factor1.tol).lt (val32 res) = false := by
  decide +kernel
theorem test_newton_goes_on : let w := { newton0 (2 ^ 29 - 2 ^ 27) with k := 1 }
    let res := amaxOf (newtonE 1 w.m); res = 0x3E800000 ∧ (w.warm && w.k = 0 && (val32 factor1.omega).lt (val32 res)) = false ∧ (val32 factor1.tol).lt (val32 res) = true
    ∧ w.breached = false ∧ w.k < 3 ∧ w.k ≠ w.itmax := by decide +kernel
def run0 (ph : RootPhase) : RootRun :=
  { graph := 0, task := 0, job := 0, tags := 0, step := 0, ops := 1, lend := 1, deadline := 0, ntok := 16, statusPtr := 0x30000, facs := [3], stats := [{}], start := 0, phase := ph }
def rooting (ph : RootPhase) : State := { placing { task0 .running with probed := true } rootRec with roots := { factors := [factor0], runs := [(0, some (run0 ph))] } }
theorem test_root_runs : (rooting (.direct [2, 0] none true)).rootRun 0 = some (run0 (.direct [2, 0] none true)) ∧ (rooting .finished).power.below42 = false
    ∧ (rooting .finished).factor ((run0 .finished).facs.getD 0 0) = some factor0
    ∧ accOk ((rooting .finished).taskWrite 0 0 0 0 0x30000 (List.replicate 64 0)) = true := by decide +kernel

/-- A schedule image of one row and one non-zero, IC(0), one partition (Table 9.1); its digest stands at 0xA8. -/
def imageHead : List Byte :=
  leBytes 4 0x4A35534C ++ leBytes 2 1 ++ [0, 1] ++ leBytes 4 1 ++ leBytes 4 0 ++ leBytes 8 1 ++ leBytes 2 1 ++ leBytes 2 0 ++ leBytes 2 1 ++ leBytes 2 0 ++ leBytes 4 0
    ++ leBytes 4 1 ++ leBytes 16 0 ++ leBytes 8 0x100 ++ leBytes 8 0x180 ++ leBytes 8 0x200 ++ leBytes 8 0x200 ++ leBytes 8 0x280
    ++ (List.range 11).flatMap (fun _ => leBytes 4 0x0100) ++ List.replicate 20 0 ++ leBytes 8 0x300
def imageRest : List Byte :=
  List.replicate 16 0 ++ List.replicate 64 0 ++ padTo 128 (leBytes 8 0 ++ leBytes 8 1) ++ padTo 128 (leBytes 4 0) ++ padTo 128 (leBytes 4 1 ++ leBytes 4 0) ++ padTo 128 (leBytes 2 0)
def imageBytes : List Byte := imageHead ++ (sha384 (imageHead ++ List.replicate 8 0 ++ imageRest)).take 8 ++ imageRest
theorem test_image_header : imageBytes.length = 0x300 ∧ imageHeaderBad (imageBytes.take 192) = none := by decide +kernel
theorem test_image_body : imageBodyBad imageBytes (SolveImage.parse 0 1 0 0x20000 imageBytes) = none := by decide +kernel
def image0 : SolveImage := SolveImage.parse 0 1 0 0x20000 imageBytes
def solved : State := { ready with solver := { images := [image0] } }
theorem test_image_cmds : (asked 0x0B11 1 solved).imageOf 0 0 = some image0 ∧ (asked 0x0B11 1 solved).tasksOfKind 5 = []
    ∧ wroteHere ((asked 0x0B12 2 solved).vwrite 0 0x20000 (padTo 64 image0.status)) = true := by decide +kernel
/-- Solves that stand at a boundary, before a gather and at their end. -/
def params0 : SolveParams := ⟨0, 0, 1, 5, 0, 0, 0, 1000, 0, 0, 0, 0x100000, 0, 0x110000⟩
def solveRun0 (st : SolveStage) (o : Nat) : SolveRun :=
  { graph := 0, task := 0, job := 0, tags := 0, step := 0, image := 0, params := params0, method := 0, start := 0, stage := st, outcome := o }
def image2 : SolveImage := { image0 with npart := 2, parts := [0, 1] }
def solving (i : SolveImage) (st : SolveStage) (o : Nat) : State :=
  { placing { task0 .running with probed := true } { rec0 with kind := 5 } with solver := { images := [i], runs := [(0, some (solveRun0 st o))] } }
theorem test_solve_runs : (solving image0 .boundary 0).solveRun 0 = some (solveRun0 .boundary 0) ∧ (solving image0 .boundary 0).image 0 = some image0
    ∧ image2.npart ≠ 1 ∧ accOk ((solving image2 .product1 0).solveRecord 0 { solveRun0 .product1 0 with outcome := 8 }) = true
    ∧ accOk ((solving image0 .finished 5).solveRecord 0 (solveRun0 .finished 5)) = true := by decide +kernel
def image3 : SolveImage := { image2 with nhalo := 1, gather := [⟨0, 1⟩], colIdx := [1] }
theorem test_solve_gather : (SolveStage.product1).gathers = true ∧ 1 ∈ image3.sources ∧ 1 ∉ (solveRun0 .product1 0).ready := by decide +kernel

/-! ### The queue and the invariants -/

/-- StepRunsTheFrontCommand, EmptyQueueTicks, StoresStayCanonical, the frames: states the hypotheses hold of. -/
theorem test_front_command : after (step { live with pending := [.bar0Doorbell 19, .vbusBelow36v] }) (fun u => (u.host.cmdTail, u.pending)) = some (19, [.vbusBelow36v]) := by
  decide +kernel
theorem test_empty_queue : State.reset.pending = [] ∧ after (step { ready with halls := [(2, { lc := 7, lcRunning := true })] }) (fun u => (u.hall 2).lc) = some 8
    ∧ after (step ready) (fun u => decide (u = { ready with refLc := 1 })) = some true := by decide +kernel
theorem test_stores_canonical : State.reset.storesWf ∧ ready.storesWf ∧ (after (step { running (scalarWord 0x11 (fImm 0)) (thr false [(1, 0x0102), (2, 786424)]) with pending := [.st t0 (fImm 0)] })
    fun u => decide u.storesWf) = some true := by decide +kernel
theorem test_decode_none : decodeTableWord 64 0 = none ∧ State.reset.withFetchWord 64 0 = State.reset := by decide +kernel

/-- SoftwareTrapAndEnd: a thread that ends with a slot, and one whose drain is pending. -/
theorem test_end_with_slot : let s : State := { running (controlWord 0x0F fNone) thr with stalls := [(0, { slots := [slotOf 0 0 0 3] })] }
    s.issues t0 (controlWord 0x0F fNone) thr ∧ (s.stall (skey t0.st)).slots.find? (fun x => x.owner = tkey t0) = some (slotOf 0 0 0 3)
    ∧ trapAfter (exec (.endI t0 fNone) s) = some Cause.slotState.code := by decide +kernel
theorem test_end_waits : let s : State := { running (controlWord 0x0F fNone) thr with stalls := [(0, { drains := [drain0] })] }
    s.issues t0 (controlWord 0x0F fNone) thr ∧ s.canEnd 0 thr = false ∧ (∀ x ∈ (s.stall 0).slots, x.owner ≠ 0) := by decide +kernel

/-- ImmediatesAndSystemValues: RDSYS with its graph resident, and the forms that trap. -/
theorem test_rdsys_graph : ∀ n : Fin 8, let f : ScalarF := ⟨1, 0, true, BitVec.ofNat 43 n.val⟩
    let s := withGraph (running (scalarWord 0x12 f) thr) (graph0 (task0 .running))
    s.issues t0 (scalarWord 0x12 f) thr ∧ s.graph thr.graph = some (graph0 (task0 .running))
    ∧ (f.low.toNat ≤ 6 ∨ trapAfter (exec (.rdsys t0 f) s) = some Cause.illegal.code) := by decide +kernel
theorem test_movhi_wide : let f : ScalarF := ⟨1, 0, true, 2 ^ 21⟩
    (running (scalarWord 0x0F f) thr).issues t0 (scalarWord 0x0F f) thr ∧ ¬ f.low.toNat < 2 ^ 21
    ∧ trapAfter (exec (.movhi t0 f) (running (scalarWord 0x0F f) thr)) = some Cause.illegal.code := by decide +kernel

/-- TrapActions: the task holds its stall, and a slot there. -/
theorem test_trap_place : let s := withGraph { running 0 thr with stalls := [(0, { slots := [slotOf 0 0 0 3] })] } (graph0 { task0 .running with place := some 0 })
    (s.task thr.graph thr.task).bind (·.place) = some (skey t0.st) ∧ ((s.trap 0 .software 9 0).stall 0).slots = [] := by decide +kernel

/-- UnusedFieldsAreIllegal: one word of each class that sets a field its OP does not use. -/
theorem test_unused_scalar : ∀ op : Fin 14, let f : ScalarF := ⟨1, 2, false, 1⟩
    (running (scalarWord (BitVec.ofNat 6 op.val) f) thr).issues t0 (scalarWord (BitVec.ofNat 6 op.val) f) thr ∧ bits f.low 0 38 ≠ 0 := by decide +kernel
theorem test_unused_control : ∀ op ∈ ([0, 1, 2, 3, 4, 5, 6, 8, 14, 15] : List Nat), let f : ControlF := { fNone with xl := 1 }
    let w := controlWord (BitVec.ofNat 6 op) f
    (running w thr).issues t0 w thr ∧ trapAfter (exec (if op = 0 then .br t0 f else if op = 8 then .jr t0 f else if op = 14 then .trap t0 f else
      if op = 15 then .endI t0 f else .beq t0 f) (running w thr)) = (if op ≤ 1 ∨ 8 ≤ op then some Cause.illegal.code else none) := by decide +kernel
theorem test_unused_move : ∀ op : Fin 7, let f : MoveRegF := ⟨2, 1, 1, 1, 1, 1⟩; let w := moveRegWord (BitVec.ofNat 6 (8 + op.val)) f
    (running w thr).issues t0 w thr ∧ f.rsv ≠ 0 := by decide +kernel
theorem test_unused_sync : ∀ op : Fin 6, let f : SyncF := ⟨1, 2, 3, 3, 0, 0, 0⟩; let w := syncWord (BitVec.ofNat 6 op.val) f
    (running w thr).issues t0 w thr ∧ f.cmp = 3 ∧ trapAfter (exec (.wait t0 f) (running (syncWord 1 f) thr)) = some Cause.illegal.code := by decide +kernel

/-- RegisterMoves: a move of the thread that writes the first line of scratch still runs; an empty register is read. -/
def thrBusy : Thread := { thr2 0 0 with moves := [{ tok := 0, word := 0, ds := 0, dd := draft 1 0, os := 0, od := 0, op := 0, perm := 0 }] }
theorem test_move_waits : ∀ p ∈ [(9, 64, false), (10, 64, true), (11, 32, false), (12, 32, true), (13, 16, false), (14, 16, true)], let f : MoveRegF := ⟨2, 0, 0, 0, 0, 0⟩
    let w := moveRegWord (BitVec.ofNat 6 p.1) f
    (running w thrBusy).issues t0 w thrBusy
    ∧ (running w thrBusy).holdFor 0 thrBusy (if p.2.2 then [] else [⟨0, 0, p.2.1⟩]) (if p.2.2 then [⟨0, 0, p.2.1⟩] else []) = some .move := by decide +kernel
theorem test_move_empty : let f : MoveRegF := ⟨0, 1, 2, 0, 0, 0⟩
    (running (moveRegWord 8 f) thr).issues t0 (moveRegWord 8 f) thr ∧ (running (moveRegWord 8 f) thr).readCheck thr f.dsrc = some (.regEmpty, 2) := by decide +kernel
theorem test_move_sealed : (running (moveRegWord 8 ⟨0, 1, 0, 0, 0, 0⟩) thrD).readCheck thrD 0 = none := by
  have h0 : Desc.parse ((thrD.dr 0).getD 0) = _ := desc_sealed 1 0
  have k0 : sealOk 0 ((thrD.dr 0).getD 0) = true := sealOk_withSeal 0 _
  have e : ∀ w, (running w thrD).startNo = 0 := fun _ => rfl
  simp only [State.readCheck, State.sealCheck, State.rowCheck, Thread.desc, e, h0, k0]
  decide +kernel

/-- TensorProducts, its other branches: D1 is an FP32 matrix, and the stall is in various conditions. -/
def thrE (moves : List Move := []) : Thread := { thr with d := [(0, some (sealed 1 0)), (1, some (sealed 0xA 8192))], moves := moves }
def onStall (w : W64) (th : Thread) (i : StallInfo) : State := { running w th with stalls := [(0, i)] }
/-- A raw close of slot 0 into D1, a product with a tap on slot 1, and the drain form of a held slot. -/
def mmaClose : TensorF := { mma0 with close := true, drain := 1, dc := 1, xic := 31 }
def mmaTap : TensorF := { mma0 with tap := true, tslot := 1 }
def mmaDrain : TensorF := { mmaClose with beginF := false, xia := 0, xib := 0, fmt := 0xA }
def fullStall (g : Nat) : StallInfo := { slots := (List.range 64).map fun j => slotOf 1 g 0 j }
def otherMode : StallInfo := { exact := some (1, 5, 5) }

/-- The checks of R639 pass for a BEGIN beside another task's mode or slots. -/
theorem test_mma_stalls (n : Fin 4) : let i := match n with | 0 => otherMode | 1 => { exactNext := some (1, 5, 5) } | 2 => fullStall 3 | 3 => fullStall 0
    mmaCheck 0 mma0 (thrE []) 0 (onStall (tensorWord 0 mma0) (thrE []) i) = none := by
  have h : Desc.parse (((thrE []).dr 0).getD 0) = _ := desc_sealed 1 0
  have k : sealOk 0 (((thrE []).dr 0).getD 0) = true := sealOk_withSeal 0 _
  have e : ∀ w i, (onStall w (thrE []) i).startNo = 0 := fun _ _ => rfl
  have st : ∀ w i, (onStall w (thrE []) i).stall (stallOf 0) = i := fun _ _ => rfl
  have m : mma0.da = 0 ∧ mma0.db = 0 ∧ mma0.close = false ∧ mma0.tap = false ∧ mma0.beginF = true := by decide
  obtain ⟨m1, m2, m3, m4, m5⟩ := m
  match n with
  | 0 | 1 | 2 | 3 =>
    simp only [mmaCheck, st, show drainTarget 0 mma0 0 otherMode = none by decide +kernel, show drainTarget 0 mma0 0 (fullStall 3) = none by decide +kernel,
      show drainTarget 0 mma0 0 (fullStall 0) = none by decide +kernel, show drainTarget 0 mma0 0 { exactNext := some (1, 5, 5) } = none by decide +kernel,
      m1, m2, m3, m4, m5, Option.isSome_none, Bool.false_eq_true, ↓reduceIte, operandBad, sliceOperandBad, slotChecks, targetKind, kindOf,
      intKind, State.sealCheck, State.rowCheck, partnerOf,
      Thread.desc, List.flatMap_cons, List.flatMap_nil, List.append_nil, List.cons_append, List.nil_append, e, h, k]
    decide +kernel
theorem test_mma_stall_premises : otherMode.exact ≠ none ∧ mma0.fmt ≠ 0xB ∧ (fullStall 3).exact = none
    ∧ (∀ g : Bool, 64 - (fullStall (if g then 0 else 3)).usedSlots < mmaNeeds mma0 thr 0 (fullStall (if g then 0 else 3)) false
      ∧ (fullStall (if g then 0 else 3)).exhausted 0 0 = g) := by decide +kernel
theorem test_mma_close_checks : mmaCheck 0 mmaClose (thrE []) 0 (onStall (tensorWord 0 mmaClose) (thrE []) {}) = none := by
  have h0 : Desc.parse (((thrE []).dr 0).getD 0) = _ := desc_sealed 1 0
  have k0 : sealOk 0 (((thrE []).dr 0).getD 0) = true := sealOk_withSeal 0 _
  have h1 : Desc.parse (((thrE []).dr 1).getD 0) = _ := desc_sealed 0xA 8192
  have k1 : sealOk 0 (((thrE []).dr 1).getD 0) = true := sealOk_withSeal 0 _
  have e : ∀ w i, (onStall w (thrE []) i).startNo = 0 := fun _ _ => rfl
  have st : ∀ w i, (onStall w (thrE []) i).stall (stallOf 0) = i := fun _ _ => rfl
  have m : mmaClose.da = 0 ∧ mmaClose.db = 0 ∧ mmaClose.dc = 1 ∧ mmaClose.close = true ∧ mmaClose.tap = false ∧ mmaClose.beginF = true ∧ mmaClose.drain = 1 := by decide
  obtain ⟨m1, m2, m3, m4, m5, m6, m7⟩ := m
  simp only [mmaCheck, st, show drainTarget 0 mmaClose 0 {} = none by decide +kernel,
      m1, m2, m3, m4, m5, m6, m7, Option.isSome_none, Bool.false_eq_true, ↓reduceIte, operandBad, sliceOperandBad, slotChecks, targetKind, kindOf, closeBad,
      intKind, State.sealCheck, State.rowCheck, partnerOf,
      Thread.desc, List.flatMap_cons, List.flatMap_nil, List.append_nil, List.cons_append, List.nil_append, e, h0, k0, h1, k1]
  decide +kernel
theorem test_mma_tap_checks : mmaCheck 0 mmaTap (thrE []) 0 (onStall (tensorWord 0 mmaTap) (thrE []) {}) = none
    ∧ partnerOf 0 mmaTap (thrE []) = some ⟨0, 0, false⟩ ∧ mmaTap.tap = true := by
  have h : Desc.parse (((thrE []).dr 0).getD 0) = _ := desc_sealed 1 0
  have k : sealOk 0 (((thrE []).dr 0).getD 0) = true := sealOk_withSeal 0 _
  have e : ∀ w i, (onStall w (thrE []) i).startNo = 0 := fun _ _ => rfl
  have st : ∀ w i, (onStall w (thrE []) i).stall (stallOf 0) = i := fun _ _ => rfl
  have m : mmaTap.da = 0 ∧ mmaTap.db = 0 ∧ mmaTap.close = false ∧ mmaTap.tap = true ∧ mmaTap.beginF = true := by decide
  obtain ⟨m1, m2, m3, m4, m5⟩ := m
  refine ⟨?_, by decide +kernel, rfl⟩
  simp only [mmaCheck, st, show drainTarget 0 mmaTap 0 {} = none by decide +kernel,
      m1, m2, m3, m4, m5, Option.isSome_none, Bool.false_eq_true, ↓reduceIte, operandBad, sliceOperandBad, slotChecks, targetKind, kindOf,
      intKind, State.sealCheck, State.rowCheck, partnerOf,
      Thread.desc, List.flatMap_cons, List.flatMap_nil, List.append_nil, List.cons_append, List.nil_append, e, h, k]
  decide +kernel
/-- The drain form of a slot that SPLITK left held. -/
def heldStall : StallInfo := { slots := [{ slotOf 0 0 0 0 with st := .heldSplit }] }
theorem test_mma_drain_form : drainTarget 0 mmaDrain 0 heldStall = some { slotOf 0 0 0 0 with st := .heldSplit }
    ∧ mmaCheck 0 mmaDrain (thrE []) 0 (onStall (tensorWord 0 mmaDrain) (thrE []) heldStall) = none := by
  have h1 : Desc.parse (((thrE []).dr 1).getD 0) = _ := desc_sealed 0xA 8192
  have k1 : sealOk 0 (((thrE []).dr 1).getD 0) = true := sealOk_withSeal 0 _
  have e : ∀ w i, (onStall w (thrE []) i).startNo = 0 := fun _ _ => rfl
  have st : ∀ w i, (onStall w (thrE []) i).stall (stallOf 0) = i := fun _ _ => rfl
  have m : mmaDrain.dc = 1 ∧ mmaDrain.close = true ∧ mmaDrain.tap = false ∧ mmaDrain.beginF = false ∧ mmaDrain.drain = 1 := by decide
  obtain ⟨m3, m4, m5, _, m7⟩ := m
  have d : drainTarget 0 mmaDrain 0 heldStall = some { slotOf 0 0 0 0 with st := .heldSplit } := by decide +kernel
  refine ⟨d, ?_⟩
  simp only [mmaCheck, st, d, m3, m4, m5, m7, Option.isSome_some, Bool.false_eq_true, ↓reduceIte, closeBad,
      State.sealCheck, State.rowCheck, Thread.desc, List.flatMap_cons, List.flatMap_nil, List.append_nil, List.nil_append, e, h1, k1]
  decide +kernel
/-- A pending move of the thread writes what the product reads; a busy token; a pending write under SYNC's FENCE and WAITTOK. -/
def moveD0 (tok : Nat) : Move := { tok := tok, word := 0, ds := draft 1 8192, dd := draft 1 0, os := 0, od := 0, op := 0, perm := 0 }
theorem test_mma_waits : (onStall 0 (thrE [moveD0 0]) {}).holdFor 0 (thrE [moveD0 0]) [⟨0, 0, 64⟩] [] = some .move
    ∧ (moveD0 0).dstRuns.head? = some ⟨0, 0, 64⟩ ∧ (mmaReads 0 mma0 (thrE [moveD0 0])).head? = some ⟨0, 0, 64⟩ := by
  have h : Desc.parse (((thrE [moveD0 0]).dr 0).getD 0) = _ := desc_sealed 1 0
  have m : mma0.da = 0 := by decide
  refine ⟨by decide +kernel, by decide +kernel, ?_⟩
  simp only [mmaReads, Thread.desc, m, h]
  decide +kernel
theorem test_token_busy : (∃ m ∈ [moveD0 2], m.tok < 4 ∧ (4 : BitVec 4).getLsbD m.tok = true) ∧ (∃ x ∈ [moveD0 2], x.tok = 2)
    ∧ (running (syncWord 3 (fSync 0 0 0 4)) (thrE [moveD0 2])).mayIssue 0 (thrE [moveD0 2]) = true
    ∧ (running 0 (thrE [moveD0 2])).writesPending 0 (thrE [moveD0 2]) ≠ none := by decide +kernel

/-- SyncInstructions: counters of another part and outside the domain, lost counters, barriers, a re-run's generation. -/
theorem test_sync_parts : ∀ op : Fin 3, ∀ x ∈ ([(0x10005, 1), (0x50005, 5)] : List (W64 × Nat)), let f : SyncF := if op = 2 then fSync 1 2 0 0 else if op = 1 then ⟨1, 2, 3, 0, 0, 0, 0⟩ else fSync 0 2 3 0
    let w := syncWord (BitVec.ofNat 6 op.val) f
    (running w (thr2 x.1 1)).issues t0 w (thr2 x.1 1) ∧ (x.1.toNat / 2 ^ 16) % 2 ^ 13 = x.2 ∧ (running w (thr2 x.1 1)).member x.2 = decide (x.2 < 4) ∧ x.2 ≠ ready.partNo := by
  decide +kernel
theorem test_sig_barrier : let f := fSync 0 2 3 0; let s : State := { running (syncWord 0 f) (thr2 0xF000 1) with bell := { barriers := [{ index := 0xF000, n := 2, domain := false }] } }
    s.isBarrier 0xF000 = true ∧ trapAfter (exec (.sig t0 f) s) = some Cause.address.code := by decide +kernel
theorem test_sig_lost : let s : State := { ready with aisles := [(0, { gone := true })], halls := [(0, { fenced := true })] }
    s.bellLost 0 = true := by decide +kernel
theorem test_barrier_none : (ready.enterBarrier 5 false).1 = .bad := by decide +kernel
theorem test_barrier_overrun : (({ ready with bell := { counters := [(0xF000, 2)], barriers := [{ index := 0xF000, n := 2, domain := false, releasing := some 0 }] } } : State).enterBarrier 0xF000 false).1
    = .overrun := by decide +kernel
theorem test_barrier_rerun : let s := withGraph (running (syncWord 2 (fSync 1 2 0 0)) (thr2 9 0)) (graph0 { task0 .running with replay := [.barrier 0 0 9 3] })
    ((s.task 0 0).bind fun ts => journalGen ts.replay 0 0 9) = some 3 := by decide +kernel

/-- PrivilegedInstructions: misaligned drafts, a participant that does not run, and the conditions of XSLICE. -/
theorem test_dcreate_range : trapAfter (exec (.dcreate t0 fPriv) (running (privWord 0 fPriv) (thr true [(2, 786400)]))) = some Cause.scratchRange.code := by decide +kernel
theorem test_splitk_fenced : let f := { fPriv with xa := 0, nm1 := 1 }; let s := { running (privWord 1 f) (thr true) with stalls := [(1, { fenced := true })] }
    s.stallRuns 1 = false ∧ xAfter 1 (exec (.splitk t0 f) s) = some 1 := by decide +kernel
theorem test_xslice_cases : let f := fun (m : BitVec 3) => ({ fPriv with xa := 0, mode := m } : PrivF)
    let on := fun (m : BitVec 3) (i : StallInfo) => { running (privWord 2 (f m)) (thr true) with stalls := [(0, i)] }
    (on 1 { exact := some (1, 5, 5) }).issues t0 (privWord 2 (f 1)) (thr true)
    ∧ xAfter 1 (exec (.xslice t0 (f 1)) (on 1 { exact := some (1, 5, 5) })) = some 1
    ∧ xAfter 1 (exec (.xslice t0 (f 2)) (on 2 { exact := some (1, 0, 0) })) = some 1
    ∧ xAfter 1 (exec (.xslice t0 (f 0)) (on 0 { exact := some (1, 0, 0), slots := [{ slotOf 0 0 0 0 with kind := .fp64 }] })) = some 2
    ∧ xAfter 1 (exec (.xslice t0 (f 0)) (on 0 { exact := some (1, 0, 0) })) = some 0
    ∧ ((on 1 { slots := [slotOf 0 0 0 0] }).stall 0).otherFormat = true ∧ ((on 1 { exactNext := some (1, 5, 5) }).stall 0).nextIs 0 0 = false
    ∧ ((on 1 {}).stall 0).nextIs 0 0 = true := by decide +kernel
theorem test_xslice_check_task : let f := { fPriv with xa := 0, mode := 1 }; let s := withGraph (running (privWord 2 f) (thr true)) { graph0 (task0 .running) with recs := [{ rec0 with kind := 7 }] }
    s.rec_ 0 0 = some { rec0 with kind := 7 } ∧ trapAfter (exec (.xslice t0 f) s) = some Cause.illegal.code := by decide +kernel
/-- PrivilegeTrap: a bad field traps with ILLEGAL in either mode. -/
theorem test_priv_bad : ∀ p : Bool, ∀ q ∈ [(0, { fPriv with nm1 := 1 }), (1, { fPriv with xa := 0, nm1 := 2 }), (2, { fPriv with xa := 0, mode := 3 }), (3, { fPriv with mode := 1 })],
    let w := privWord (BitVec.ofNat 6 q.1) q.2
    (running w (thr p)).issues t0 w (thr p) ∧ (privBad (q.1 = 0 || q.1 = 3) (q.1 = 0) (q.1 = 1) (q.1 = 1) (q.1 = 2) q.2
      || (q.1 = 1 && decide (¬ (q.2.nm1 = 1 ∨ q.2.nm1 = 3 ∨ q.2.nm1 = 7 ∨ q.2.nm1 = 15))) || (q.1 = 2 && decide (2 < q.2.mode.toNat))) = true := by decide +kernel

/-- StallEvents: a mode that another task has entered meanwhile. -/
theorem test_xslice_late : let th := { thr with status := .xslice 1 2 }; let s := holding th { exact := some (1, 5, 5) }
    (s.stall 0).otherFormat = false ∧ (s.stall 0).nextIs th.graph th.task = true ∧ xAfter 1 (exec (.xsliceModeSet t0) s) = some 1 := by decide +kernel
/-- SplitkGroupCombines: the second participant has no slot. -/
theorem test_split_unsound : let s := { splitPair with stalls := [(0, { slots := [slotOf 0 0 0 0] })] }
    let ps := [0, 1].filterMap (fun st => s.splitkOn st 0 1 0)
    ps.length = 2 ∧ (ps.filterMap (fun p => (s.stall (stallOf p.1)).find p.1 0 false)).length = 1 := by decide +kernel
/-- PassAndCopies: an empty register traps, and a busy token holds. -/
theorem test_pass_empty : passCheck pass0 thr (running (chainWord 0 pass0) thr) = some (.regEmpty, 0) ∧ copyCheck 0 copy0 thr (running (copyWord 0 copy0) thr) = some (.regEmpty, 0) := by decide +kernel

/-! ### More witnesses: the host interface, memory, graphs -/

/-- Bar0Writes: BAR0 before step 3, and a pending vector that is unmasked. -/
theorem test_bar0_down : State.reset.bar0Up = false ∧ ({ ready with host := { pba := 1 } } : State).host.pba.getLsbD 0 = true ∧ (0 : W64).getLsbD 32 = false := by
  decide +kernel
/-- CommandRing: an expiry and a long command that meet none, and a full set of long places. -/
theorem test_ring_none : ready.host.cmds.find? (fun c => c.hdr.seq = 7 && c.phase = .running) = none ∧ ready.host.findCmd 0x01FF (hdr 0) = none
    ∧ (0x0102 : W16).toNat ∈ knownOpcodes
    ∧ ¬ ((List.replicate 64 { cmd 0x0102 0 with phase := .long }).filter fun c => c.phase = .long).length < 64 := by decide +kernel
theorem test_starting_turned_away : let s : State := { asked 0x0403 1 with pstate := 0 }
    s.host.findCmd 0x0403 (hdr 1) = some (cmd 0x0403 1) ∧ s.expired (cmd 0x0403 1) = false ∧ s.coresRun = true := by decide +kernel

/-- DeviceAndSecurityCommands: the operands they refuse, and what is not there. -/
theorem test_device_refusals : ({ ready with pstate := 2, boot := { ready.boot with recoveryStep := 4 } } : State).noIdentity = true
    ∧ objFields .weightKey [] = false ∧ objFields (stagedKind 0) [] = false ∧ ready.host.staged.get none 1 = none ∧ (8 : W64).toNat > 7
    ∧ ({ ready with weights := { loads := [{ job := 0, set := 0, epoch := 1, loader := 0, copy := 0, model := 0, shards := [], got := [] }] } } : State).weights.loads ≠ [] := by
  decide +kernel
/-- An object whose signer is not trusted answers SIGNATURE: no owner is enrolled. -/
theorem test_wkey_untrusted : ready.objTrusted .weightKey wkeyObj = false := by decide +kernel

/-- Job 0 of this part maps 2 GiB to part 1's memory; nothing from 3 GiB on. -/
def farMapped : State := { ready with mem := tables ++ [(0x12010, 0x0F), (0x12015, 0x10)] }
def accKind {α : Type} : Acc α → Nat
  | .ok _ => 0
  | .err _ _ => 1
  | .fault _ _ _ _ => 2
  | .remote _ _ _ => 3
/-- CommandMemoryAccess, and every clause of a statement about a command that reads: the four outcomes of a read and of a write. -/
theorem test_access_outcomes : (∀ p ∈ [(0x20000, 0), (2 ^ 57, 1), (0xC0000000, 2), (0x80000000, 3)], accKind (farMapped.hubRead 0 p.1 8) = p.2)
    ∧ (∀ p ∈ [(0x20000, 0), (2 ^ 57, 1), (0xC0000000, 2)], accKind (farMapped.vwrite 0 p.1 [1]) = p.2)
    ∧ (match farMapped.vwrite 0 0x80000000 [1] with | .ok (_, l) => l.length | _ => 0) = 1 := by decide +kernel
/-- The same of a command that has started. -/
theorem test_command_outcomes : ∀ p ∈ [(0x20000, 0), (2 ^ 57, 1), (0xC0000000, 2), (0x80000000, 3)],
    accKind (((asked 0x0302 1 farMapped).begin_ (cmd 0x0302 1)).hubRead 0 p.1 64) = p.2 := by decide +kernel

/-- MemoryAndDescriptorCommands: refusals, and what a copy meets. -/
theorem test_alloc_refusals : ({ ready with host := { allocs := [⟨9, 1, 0, 0, 128⟩] } } : State).host.allocs.any (fun x => x.job = 0 && decide (0 < x.va + x.len) && decide (x.va < 128)) = true
    ∧ (129 : W64).toNat % 128 ≠ 0 := by decide +kernel
theorem test_mem_write_parts : (match ((asked 0x0203 2 farMapped).begin_ (cmd 0x0203 2)).copyIn 0 (pieces 3 0x2FFFF 2) [1, 2] 0 with
      | (_, [], none) => true | _ => false) = true
    ∧ (match ((asked 0x0203 2 farMapped).begin_ (cmd 0x0203 2)).copyIn 0 (pieces 3 0xC0000000 2) [1, 2] 0 with | (_, [], some 0) => true | _ => false) = true
    ∧ (match ((asked 0x0203 2 farMapped).begin_ (cmd 0x0203 2)).copyIn 0 (pieces 3 0x80000000 2) [1, 2] 0 with | (_, [_], none) => true | _ => false) = true := by decide +kernel
theorem test_mem_read_parts : ∀ p ∈ [(0x20000, 9), (2 ^ 57, 1), (0xC0000000, 2), (0x80000000, 3)],
    (match (((asked 0x0204 2 farMapped).begin_ (cmd 0x0204 2)).copyOut 0 (grains 3 p.1 8)).2 with | none => 9 | some e => accKind e) = p.2 := by decide +kernel
theorem test_seal_stops : ∀ p ∈ [(2 ^ 57, 1), (0xC0000000, 2), (0x80000000, 3)],
    (match (((asked 0x0301 3 farMapped).begin_ (cmd 0x0301 3)).sealBatch 0 p.1 0x30000 1 []).2.2 with
      | .stop (some _) => 1 | .stop none => 2 | .remote _ _ _ => 3 | _ => 0) = p.2 := by decide +kernel
theorem test_trap_log_range : stallOfId 0xFFFFFFFF = none ∧ ¬ (4097 : W64).toNat ≤ 4096 := by decide +kernel

/-- HbmCommands and TranslationCommands: records that go to this part, to another, and nowhere. -/
theorem test_health_outcomes : let s := (asked 0x0220 2 farMapped).begin_ (cmd 0x0220 2)
    (∀ p ∈ [(0x20000, 0), (2 ^ 57, 1), (0xC0000000, 2)], accKind (s.vwrite 0 p.1 (List.replicate 64 0)) = p.2)
    ∧ (match s.vwrite 0 0x80000000 (List.replicate 64 0) with | .ok (_, l) => l.length | _ => 0) = 1 ∧ ¬ (12 : W64).toNat ≤ 11 := by decide +kernel
theorem test_translation_refusals : ready.tableOk 0 0x10001 = false ∧ ready.space 0 ≠ none ∧ ready.space 1 = none ∧ ready.tableOk 0 0x10000 = true
    ∧ ready.hbmRange 0x180000000000 0x400000 = false ∧ ready.hbmRange 0x100000 0x400000 = true
    ∧ (withGraph ready (graph0 (task0 .running))).jobResident 0 = true
    ∧ ({ ready with xlt := { redirects := [(5, some 7)] } } : State).xlt.redirects.any (fun x => x.1 / 2 ^ 32 / 3 = 0) = true := by decide +kernel
def fault0 : PFault := { id := 4, kind := 1, unit := 0, job := 0, va := 0xC0000000, lo := 0xC0000000, size := 0x40000000, source := 0, xlt := 4, raised := 0 }
theorem test_faults : let s : State := { ready with xlt := { ready.xlt with faults := [fault0] } }
    s.xlt.faults.find? (fun x => x.id = 4) = some fault0 ∧ (s.space fault0.job).isSome = true ∧ ready.xlt.faults.find? (fun x => x.id = 4) = none
    ∧ s.xlt.faults.find? (fun f => f.job = 0 && f.kind = 1 && f.lo ≤ 0xC0000001 && 0xC0000001 < f.lo + f.size) = some fault0
    ∧ ready.xlt.faults.length < 2 ^ 31 := by decide +kernel

/-- GraphCommands: a part whose domain is broken, headers at hand, a claimed SYNC_IN, and graphs in each phase. -/
theorem test_submit_cases : ({ ready with fab := { ready.fab with broken := true } } : State).fab.broken = true ∧ ready.freeHandle = some 0
    ∧ hdrBad (List.replicate 128 0) 0 = true
    ∧ (ready.claim { kind := .syncIn, index := 0, job := 0, opcode := 0x0401, graph := some 0 }).host.claimed .syncIn 0 = true := by decide +kernel
theorem test_graph_phases : let g := graph0 (task0 .running); let s := asked 0x0402 2 (withGraph ready g)
    s.graph (0 : W64).toNat = some g ∧ g.phase ≠ .ended ∧ g.loading = none ∧ (g.phase = .boundary → g.boundaryWork = true) ∧ ready.graph 3 = none
    ∧ ({ g with phase := .boundary } : Graph).boundaryWork = false ∧ ({ g with loading := some 4 } : Graph).loading.isSome = true := by decide +kernel

/-! ### More witnesses: Bell, weights, the Tills -/

def named (s : State) (b : Bell) : State := { s with bell := b }
/-- BellCommands: counters of another part, outside the domain, lost; watches, pairs and barriers in the way; a watch of another part. -/
theorem test_bell_others : ready.member 1 = true ∧ ¬ (1 : W64).toNat = ready.partNo ∧ ready.member 5 = false ∧ (8192 : W64).toNat ≥ 8192
    ∧ (named ready { away := [(6, 1, 9)] }).bell.away.any (fun x => x.1 = 6) = true
    ∧ (ready.bell.watches ++ ready.bell.heldRegs = [] ∧ ready.bell.away = []) := by decide +kernel
theorem test_bell_busy : (∃ x ∈ (named ready { watches := [watch0 (.host 3)] }).bell.watches, (0xEFFF : Nat) ≤ x.index.toNat ∧ x.index.toNat < 0xEFFF + 1)
    ∧ (∃ x ∈ (named ready { pairs := [⟨4, 0, 1, 1, 0⟩] }).bell.pairs, x.p = 0) ∧ (named ready { barriers := [bar0] }).isBarrier 0xF000 = true := by decide +kernel
theorem test_bell_barrier_waits : (named ready { barriers := [bar0], counters := [(0xF000, 1)] }).barrierWaits bar0 = true
    ∧ (named ready { barriers := [bar0] }).bell.barriers.find? (fun x => x.index.toNat = 0xF001) = none := by decide +kernel
theorem test_bell_dump_outcomes : ∀ a ∈ [(2 ^ 57, 1), (0xC0000000, 2)],
    accKind (farMapped.vwrite 0 a.1 (List.replicate 64 0)) = a.2 := by decide +kernel

/-- BellEvents: replays, registrations, messages with LOST, of an asked entry, and for another waiter. -/
theorem test_bell_replay : ({ ready with fab := { ready.fab with seen := [(1, [(4, 0)])] } } : State).alreadySeen 1 4 = true ∧ ready.alreadySeen 1 4 = false
    ∧ (named ready { barriers := [bar0] }).signal 0xF000 1 = none ∧ removalTarget ≠ 0 ∧ (5 : W64) ≠ removalTarget := by decide +kernel
def message (o : BellOutcome) (part : Fin 8192 := 0) : BellMsg :=
  { index := 9, dest := .thread t0, outcome := o, part := part, value := 4, tie := false, lc := 0, watch := 1 }
theorem test_bell_messages : (∀ st ∈ [ThreadStatus.wait 1 0 9 0 0, .barrier 1 0 9 4, .barrierAsk 1 0 9 none, .barrierAsk 1 0 9 (some 5)],
      ({ thr with status := st, watch := 1 } : Thread).awaits (message .held) = true)
    ∧ ({ thr with status := .wait 1 0 9 0 0, watch := 2 } : Thread).awaits (message .held) = false
    ∧ (message .held 1).part.val ≠ ready.partNo := by decide +kernel
theorem test_bell_msg_lost : let th := { thr with status := .wait 1 0 9 0 0, watch := 1 }
    trapAfter (exec (.bellMsg (message .lost)) (named (running 0x0C00000000000000 th) { msgs := [message .lost] })) = some Cause.address.code := by decide +kernel
theorem test_watch_gone : ready.bell.watches.find? (fun w => w.id = 5) = none ∧ ready.bell.heldRegs.find? (fun w => bellHome w.index = 3) = none
    ∧ ready.bell.barriers.find? (fun x => x.index = 0xF000) = none := by decide +kernel
theorem test_window_bad : ready.member 5 = false ∧ (named ready { barriers := [bar0] }).signal (BitVec.ofNat 16 (0x78000 / 8)) 1 = none := by decide +kernel
theorem test_barrier_acks : let s := named ready { barriers := [{ bar0 with releasing := some 1, acks := 2, pendingHalls := 0 }] }
    s.bell.barriers.find? (fun x => x.index = 0xF000) = some { bar0 with releasing := some 1, acks := 2, pendingHalls := 0 }
    ∧ after (exec (.barrierReleaseAck 0xF000) s) (fun u => u.bell.barriers.map (·.acks)) = some [1]
    ∧ after (exec (.barrierReleaseAck 0xF000) (named s { barriers := [{ bar0 with releasing := some 1, acks := 1 }] })) (fun u => u.bell.barriers.map (·.openGen)) = some [2] := by
  decide +kernel
theorem test_gate_messages : let r := { rec1 with gatePart := 0, gateIndex := 9 }
    let m : BellMsg := { index := 9, dest := .gate 0 0, outcome := .held, part := 0, value := 0, tie := false, lc := 0, watch := 3 }
    let s : State := named (placing { task0 .gated with gateWatch := 3 } r) { msgs := [m] }
    msgOf m 3 = true ∧ s.bell.msgs.find? (fun m => m.dest = .gate 0 0 && m.outcome = .held) = some m
    ∧ (after (exec (.gateHeld 0 0) s) fun u => (u.task 0 0).map (·.st)) = some (some .ready)
    ∧ ({ rec1 with gatePart := 1 } : TaskRec).gatePart.toNat % 8192 ≠ s.partNo := by decide +kernel

/-- WeightCommands: what a load and a switch meet. -/
theorem test_weight_refusals : ready.wset 0 3 = none ∧ loading.loadRuns 0 = true ∧ ({ ready with fab := { ready.fab with lost := [2] } } : State).fab.lost = [2]
    ∧ manifestBad (List.replicate 128 0) 0x10000 = true ∧ ready.host.wkeys.get [] 2 = [] := by decide +kernel
theorem test_weight_reg_address : (match ready.probeAll 4 (setPinKey 0) 15 0 [{ va := 2 ^ 57, len := 65536, write := true }] [] with | .ok _ => false | _ => true) = true := by
  decide +kernel
theorem test_weight_reads : (∀ p ∈ [(2 ^ 57, 1), (0xC0000000, 2), (0x80000000, 3)], accKind (((asked 0x0603 10 farMapped).begin_ (cmd 0x0603 10)).hubRead 0 p.1 128) = p.2)
    ∧ pinRoom < ready.pinsIn 4 + (pinRoom + 1) := by decide +kernel
theorem test_weight_status_long : ([wset0, wset0].flatMap fun (x : WSet) => (List.range x.ncopy).flatMap fun _ => [(0 : W64), 0]).length + 3 > 6 := by decide +kernel
/-- WeightSwitchEvents and LoadEvents: the last READY; a shard that fails for the fourth time, and one that does not decode. -/
theorem test_weight_last_ready : let w : WCoord := { job := 0, epoch := 1, since := 0, timeout := 1000, ready := [(0, 0, 0), (2, 0, 0), (3, 0, 0)] }
    ∀ n ∈ ready.domainParts, n = 1 ∨ ∃ r ∈ w.ready, r.1 = n := by decide +kernel
theorem test_shard_failures : ({ shard0 with enc := 9 } : Shard).raw [1, 2, 3, 4] = none ∧ loading.loader 1 = none ∧ loading.load 1 = none
    ∧ ((loading.setWeights { loading.weights with loaders := loading.weights.loaders.map fun y => { y with bad := 3 } }).loader 0).map (·.bad) = some 3 := by decide +kernel
theorem test_crier_cases : wset0.record ≠ (List.replicate 32 1 : List Byte) ∧ loading.loadRuns 0 = true
    ∧ loading.keeps { shard0 with tsplit := 0 } = false := by decide +kernel

/-- TillAndMaskCommands: records that fail at each check, overlapping areas, groups and masks in use. -/
theorem test_group_refusals : groupBad (groupBytes.set 2 9) 0 ≠ none ∧ State.reset.areaOk group0 = false
    ∧ ({ ready with till := { groups := [group0] } } : State).jobGroup 1 5 = none
    ∧ (tillQueued 5).groupBusy 5 = true ∧ ready.rangeWritable 0 (2 ^ 57) 64 = false := by decide +kernel
theorem test_group_reads : ∀ p ∈ [(2 ^ 57, 1), (0xC0000000, 2), (0x80000000, 3)], accKind (((asked 0x0630 1 farMapped).begin_ (cmd 0x0630 1)).hubRead 0 p.1 128) = p.2 := by
  decide +kernel
theorem test_mask_users : ({ ready with masks := [Mask.parse maskBytes] } : State).mask 254 ≠ none
    ∧ (match ready.maskNamed 0 254 with | .ok false => true | _ => false) = true := by decide +kernel

/-! ### More witnesses: dispatch, saves, fencing, HBM, Tills, the fabric -/

/-- DispatchAndSteps: tasks that may not start, whose epoch is past or ahead, or whose descriptors lie in each kind of place. -/
theorem test_place_closed : (ready.graph 0 = none ∧ ready.task 0 0 = none ∧ ready.rec_ 0 0 = none) ∧ ({ readyTask with st := .gated } : TaskSt).st ≠ .ready
    ∧ (placing { readyTask with tags := 5 } rec1).weightOk 0 (2 ^ 8) = false ∧ tagLayout readyTask.tags = 0 ∧ epochNewer 0 1 = false ∧ (1 : W16) ≠ 0 := by decide +kernel
theorem test_place_drefs : ∀ p ∈ [(0x20000, 0), (2 ^ 57, 1), (0xC0000000, 2), (0x80000000, 3)],
    accKind (farMapped.readDrefs 0 [BitVec.ofNat 64 p.1]) = p.2 := by decide +kernel
theorem test_place_none : (placing { readyTask with queue := some (0, 1) } { rec1 with place := 7 * 512 }).stallFor (cand0 { readyTask with queue := some (0, 1) } { rec1 with place := 7 * 512 })
      = some 23
    ∧ ({ placing readyTask rec1 with halls := [(0, { fenced := true })] } : State).stallFor (cand0 readyTask rec1) = none := by decide +kernel
theorem test_deadlock_not : (∃ x ∈ (graph0 readyTask).tasks, x.st = .ready) ∧ (boundaryG 0 true).phase ≠ .running := by decide +kernel
theorem test_steps_held : (withGraph ready (boundaryG 2 true)).mayStartStep { boundaryG 2 true with boundaryWork := true } = false
    ∧ ({ boundaryG 2 true with pairLost := true } : Graph).pairLost = true ∧ ({ boundaryG 3 false with starts := [] } : Graph).starts.find? (fun p => p.1 = 1) = none := by
  decide +kernel
theorem test_sync_claimed : let s := (withGraph ready (boundaryG 2 true)).claim { kind := .syncIn, index := 0, job := 0, opcode := 0x0401, graph := some 0 }
    ((s.ownMark 2).host.claims.find? fun c => c.kind = .syncIn).bind (·.graph) = some 0 ∧ (s.ownMark 2).graph 0 = some (boundaryG 2 true)
    ∧ ({ boundaryG 2 true with edge := true } : Graph).edge = true := by decide +kernel
theorem test_slaves : (withGraph ready (boundaryG 2 false)).slaves 0 = [(0, boundaryG 2 false)] ∧ ready.slaves 0 = [] := by decide +kernel

/-- SavesAndRestores: saves that are not due or not quiet, an old epoch, no room, and the pre-empting task. -/
theorem test_saves_wait : let ts : TaskSt := { task0 .running with saving := some (.fault, 3, 0x100000, 65536), place := some 0 }
    (task0 .running).saving = none ∧ ({ placing ts rec1 with stalls := [(0, { drains := [drain0] })], threads := [(0, some thr)] } : State).saveReady 0 0 0 = false := by decide +kernel
theorem test_restores_other : let ts : TaskSt := { task0 (.saved true) with saved := some savedRec }
    (({ placing ts rec1 with layoutEpoch := [(0, 1)] } : State).restorable 0 ts = true ∧ epochNewer 1 (tagLayout ts.tags) = true)
    ∧ (placing ts rec1).canRestore 0 ts savedRec 576 = false ∧ (task0 (.saved true)).saved = none := by decide +kernel
theorem test_preempt_here : let r := { rec0 with place := 31 * 512 }; let gr := { graph0 readyTask with recs := [r], hdr := { hdr0 with midtask := true } }
    gr.hdr.midtask = true ∧ gr.phase = .running ∧ r.placeStall = 31 ∧ (∀ i, i < 16 → (withGraph ready gr).lowerContexts 0 i ≤ (withGraph ready gr).lowerContexts 0 0) := by decide +kernel

/-- FencingAndSpares: SX serves already, AX serves already, spent spares, quiet points that are due, a lent thread. -/
theorem test_fencing_cases : let sx : State := { ready with aisles := [(0, { sxFor := some 3 })] }; let ax : State := { ready with halls := [(0, { axFor := some 2 })] }
    (sx.aisle (aisleOf 5)).sxFor ≠ none ∧ (ax.hall (0 / 36)).axFor ≠ none ∧ ({ ready with halls := [(1, { fenced := true })] } : State).hallRuns 1 = false
    ∧ (let s : State := { ready with stalls := [(5, { fenced := true })] }; (s.stall 5).fenced = true ∧ (s.aisle 0).fenced = false ∧ (s.aisle 0).gone = false ∧ (s.aisle 0).sxFor = none)
    ∧ (let s : State := { ready with aisles := [(0, { fenced := true })] }; (s.aisle 0).fenced = true ∧ (s.aisle 0).gone = false ∧ (s.hall 0).axFor = none)
    ∧ ready.thread 0 = none ∧ ({ thr with status := .lent } : Thread).status = .lent := by decide +kernel

/-- HbmEvents: a stack that is down, a sound parity group, a bad mate, a second failure of a group, held and pinned units. -/
theorem test_hbm_cases : State.reset.stackUp 0 = false ∧ ({ ready with hbm := [(0, { excluded := true })] } : State).stackUp 0 = false
    ∧ ready.offsetOf 0 (2 ^ 37) = none ∧ (ready.stack 0).canRebuild (rowOf (ready.redirect 0 0)).1 = true ∧ ready.rowBack 0 (ready.redirect 0 0) = false
    ∧ ready.mateBad 0 (ready.redirect 0 0) = false
    ∧ (let s : State := { ready with hbm := [(0, { erased := [(1, false)] })] }; (s.stack 0).erased.find? (fun e => e.1 / 16 = 2 / 16) = some (1, false)
      ∧ (∀ e ∈ (s.stack 0).erased, e.1 ≠ 2) ∧ ¬ (2 ∈ (s.stack 0).lostPcs)) := by decide +kernel
theorem test_hbm_pinned : let s : State := { ready with xlt := { retiring := [(0, 7)], holding := [(0, 7)], pins := [{ xlt := 4, job := 0, page := 0, size := 2 ^ 30, pa := 0, graph := 0, task := 0 }] } }
    (0, 7) ∈ s.xlt.retiring ∧ (0, 7) ∈ s.xlt.holding ∧ s.ownerUnit 0 7 = 7 ∧ (s.offsetOf 0 (7 * 65536)).isSome = true
    ∧ (∃ p ∈ s.xlt.pins, p.pa / 2 ^ 44 = s.partNo ∧ p.pa % 2 ^ 44 < (s.offsetOf 0 (7 * 65536)).getD 0 + 65536) := by decide +kernel
theorem test_hbm_temps : ∀ x ∈ ([(439, false), (440, true), (409, false)] : List (Int × Bool)), decide (440 ≤ x.1) = x.2 := by decide +kernel

/-- TillEvents: commands refused, stale or waiting; units that reach each kind of memory; a failed pipeline; DONE. -/
theorem test_till_starts : (tillQueued 5).tillInvalid 0 (TillCmd.parse (tillBytes 5)) = false ∧ (tillQueued 6).tillInvalid 0 (TillCmd.parse (tillBytes 6)) = true
    ∧ tillStale { group0 with wepoch := 5 } (TillCmd.parse (tillBytes 5)) = true
    ∧ ({ tillQueued 5 with power := { below42 := true } } : State).power.below42 = true ∧ ready.till.queue = [] := by decide +kernel
theorem test_till_units : (∀ p ∈ (tillRun []).paused, p.1 ≠ 1) ∧ ¬ (0 ∈ (tillRun []).done) ∧ ¬ (0 ∈ (tillRun []).bad) ∧ ¬ (1 < group0.units)  := by
  decide +kernel
theorem test_till_refused : ({ tillRun [] with refused := 3 } : TillRun).refused ≠ 0 ∧ (tillRun []).done.length + (tillRun []).bad.length < group0.units := by decide +kernel

/-- FabricPackets: turned-away packets, held ones, other parts', bad headers; reads and writes of each region; atomics that fail. -/
theorem test_packet_arrivals : let p := pkt 0x01 0 0x20000 []
    p.type ≠ 0x02 ∧ ({ ready with power := { below40 := true } } : State).hbmHeld = true ∧ pktHeaderOk { p with ctrl := 0x80 } = false
    ∧ ({ p with dst := 1 } : Pkt).dst.toNat % 8192 ≠ ready.partNo ∧ ({ ready with power := { supply := .off } } : State).power.supply = .off := by decide +kernel
theorem test_packet_tags : (ready.landed (pkt 0x01 0x40 0x20000 [])).tagCheck { pkt 0x01 0x40 0x20000 [] with tags := 1 } ≠ none := by decide +kernel
theorem test_read_outcomes : ready.readStat 0x17F00000000 32 = .ok ∧ ({ ready with poison := [(0x20000 / 64, true)] } : State).readStat 0x20000 32 = .poison
    ∧ ({ ready with hbm := [(0, { excluded := true })] } : State).readStat 0x10000000000 32 = .address
    ∧ region 0xF0000000018 = .bell 3 ∧ (ready.windowRead 0xF0000000018).isSome = true ∧ region 0xF0000110000 = .till 1 := by decide +kernel
theorem test_atomic_bad : atomicOp 4 0 1 1 = none ∧ 0x20004 % 8 ≠ 0 ∧ ready.mapped 0x1F000000000 = false := by decide +kernel
theorem test_resp_other : ready.req 6 = none ∧ rsEpochAhead ≠ rsOk ∧ ({ req0 with answer := some rsAddress } : Req).answer ≠ none := by decide +kernel

/-- LinkEvents, PortEvents, FabricCommands. -/
theorem test_link_cases : State.reset.portUp 0 = false ∧ ((1 : W32) - 0).toNat < 2 ^ 31 ∧ 2 ^ 31 ≤ ((0 : W32) - 1).toNat
    ∧ groupCount (((linked { port0 with rx := 3 }).port 0).rx &&& ~~~((1 : BitVec 12) <<< 1)) < 2
    ∧ ({ linked port0 with fab := { (linked port0).fab with failedLinks := [(0, 3)] } } : State).fab.failedLinks = [(0, 3)] := by decide +kernel
theorem test_retrain_cases : (linked { port0 with txChanging := true }).portUp 0 = true ∧ groupCount (((1 : BitVec 16).setWidth 12) &&& portGroups 0) < 2
    ∧ (linked { port0 with st := .failed, tx := 0 }).axisSize (portAxis 0) ≠ 1 ∧ (linked port0).axisSize (portAxis 6) = 1 := by decide +kernel
theorem test_fab_atomic_other : (2 ^ 44 + 8 : Nat) / 2 ^ 44 = 1 ∧ ready.member 1 = true ∧ ready.member 9 = false
    ∧ ({ ready with poison := [(0x20000 / 64, true)] } : State).poisoned 0x20008 8 = true := by decide +kernel

/-! ### More witnesses: power, supply, start-up, capture, replicas, tools -/

/-- PowerAndTallyCommands, at the bounds of its operands. -/
theorem test_power_cmds : after (exec (.powerCapSet (hdr 1) 1800) (asked 0x0801 1)) (fun u => u.power.hostCap) = some 1800
    ∧ after (exec (.powerCapSet (hdr 1) 3401) (asked 0x0801 1)) (fun u => u.power.hostCap) = some 3200
    ∧ after (exec (.powerHallSet (hdr 3) 3 550 850) (asked 0x0802 3)) (fun u => (u.power.halls.get {} 3).floor) = some 550
    ∧ after (exec (.valveSet (hdr 2) 1 1024) (asked 0x0820 2)) (fun u => (u.power.manualValve, u.power.duty)) = some (true, 1024)
    ∧ after (exec (.alertConfig (hdr 4) 15 1 8191 7) (asked 0x0813 4)) (fun u => u.power.alertEntry.get none 7) = some (some (8191, 7))
    ∧ after (exec (.alertConfig (hdr 4) 6 0 0 0) (asked 0x0813 4)) (fun u => u.power.alertMasked) = some ready.power.alertMasked
    ∧ after (exec (.lcMark (hdr 2) 5 1) (asked 0x0830 2)) (fun u => u.power.marks.length) = some 1 := by decide +kernel

/-- Halls at 800 mV, hall 0 at `mv`; the millisecond's mean, and the cap of 3,200 W. -/
def powered (mv mean : Nat) : State :=
  { ready with power := { ready.power with mean := mean, vbusMv := 48000, halls := [(0, { mv := mv }), (1, { mv := 800 }), (2, { mv := 800 }), (3, { mv := 800 })] } }
/-- PowerManager: 2 % below the cap is 3,136 W; a returning hall; a parked hall; every hall at 0.55 V. -/
theorem test_power_steps : after (exec (.hallVoltageStep false) (powered 805 3201)) (fun u => (u.power.halls.get {} 0).mv) = some 800
    ∧ after (exec (.hallVoltageStep false) (powered 805 3200)) (fun u => (u.power.halls.get {} 0).mv) = some 805
    ∧ after (exec (.hallVoltageStep true) (powered 700 3135)) (fun u => (u.power.halls.get {} 0).mv) = some 705
    ∧ after (exec (.hallVoltageStep true) (powered 700 3136)) (fun u => (u.power.halls.get {} 0).mv) = some 700
    ∧ after (exec (.hallPark 0) (powered 700 0)) (fun u => (u.power.halls.get {} 0).mv) = some 550 := by decide +kernel
theorem test_power_returns : let s : State := { powered 700 0 with power := { (powered 700 3200).power with halls := (powered 700 0).power.halls.set {} 0 { mv := 700, returning := true } } }
    s.returningHall = some 0 ∧ (powered 700 0).returningHall = none ∧ (powered 700 0).hallToRaise = some 0 ∧ (powered 700 0).hallToLower = some 3
    ∧ ({ s.power with iinHist := [20201, 0] ++ List.replicate 198 0 } : Power).slewHold = false
    ∧ ({ s.power with iinHist := List.replicate 100 20001 ++ List.replicate 100 0 } : Power).slewHold = true := by decide +kernel
theorem test_overcap : let s : State := { powered 550 3201 with power := { (powered 550 3201).power with halls := [] } }
    s.power.overcap = false ∧ s.power.cap.1 < s.power.mean ∧ (∀ k, k < 4 → (s.hall k).fenced = true ∨ (s.power.halls.get {} k).mv ≤ 550)
    ∧ after (exec .powerOvercapTimeout s) (fun u => u.power.overcap) = some true := by decide +kernel
/-- A junction of 100.25 °C takes 25 mV, at most 300; 98 °C gives them back; a gate of 63 edges is less than 320 units of flow. -/
theorem test_cooling : after (exec (.junctionReduction 0 401) (powered 800 0)) (fun u => (u.power.halls.get {} 0).jred) = some 25
    ∧ after (exec (.junctionReduction 0 400) (powered 800 0)) (fun u => (u.power.halls.get {} 0).jred) = some 0
    ∧ after (exec .lowFlow (powered 800 0)) (fun u => (u.power.flowCap.isSome, u.power.duty)) = some (true, 1024)
    ∧ after (exec (.thermistorFault true) (powered 800 0)) (fun u => u.power.thermFault) = some 2
    ∧ after (exec (.flowGate 63 100 200) (powered 800 0)) (fun u => u.power.flow) = some 315
    ∧ State.reset.pstate ≠ 1 := by decide +kernel
/-- The SMBus target answers a ready part, and neither one that is off nor one before step 2. -/
theorem test_smbus : ready.smbAnswers = true ∧ ({ ready with power := { ready.power with supply := .off } } : State).smbAnswers = false
    ∧ ({ ready with pstate := 0, startStep := 1 } : State).smbAnswers = false
    ∧ after (exec (.smbCapWrite 3400) ready) (fun u => u.power.smbCap) = some 3400 ∧ after (exec (.smbCapWrite 1799) ready) (fun u => u.power.smbCap) = some ready.power.smbCap
    ∧ after (exec (.smbRegWrite 0x10 0xFFFF) ready) (fun u => u.power.smbIndex) = some 8191 := by decide +kernel
/-- CapIsTheLowestLimit: an inlet cut, and none. -/
theorem test_cap : ({ (powered 800 0).power with inletCut := 25 } : Power).cap.1 = 3175 ∧ (powered 800 0).power.inletCut = 0 ∧ (powered 800 0).power.cap = (3200, 0) := by decide +kernel

/-- SupplyEvents: each state of the supply, and the crossings in and out of it. -/
def supplied (x : Supply) : State := { ready with power := { ready.power with supply := x } }
theorem test_supply : (supplied .on).power.supply = .on ∧ (supplied .off).power.supply = .off ∧ (supplied (.stopped .vbus38)).power.supply = .stopped .vbus38
    ∧ after (exec .vbusBelow40v ready) (fun u => u.power.below40) = some true
    ∧ after (exec .vbusAbove41v { ready with power := { ready.power with below40 := true } }) (fun u => u.power.below40) = some false
    ∧ after (exec .vbusBelow38v ready) (fun u => (u.pstate, u.power.supply)) = some (3, .stopped .vbus38)
    ∧ after (exec .vbusBelow36v ready) (fun u => (u.pstate, u.power.supply)) = some (0, .off) := by decide +kernel
theorem test_rails : ∀ r ∈ [Rail.core 2, .bus, .opt 0, .base 3, .hbm 5], 1 < railPhases r → after (exec (.phaseLoss r) ready) (fun u => u.power.lost.get 0 (railIndex r)) = some 1
    ∧ after (exec (.railLoss r) ready) (fun u => u.power.lost.get 0 (railIndex r)) = some 0 := by decide +kernel
theorem test_trips : after (exec (.junctionTrip 500) ready) (fun u => u.power.supply) = some .off ∧ after (exec (.junctionTrip 459) ready) (fun u => u.pstate) = some 1
    ∧ after (exec (.junctionTrip 460) ready) (fun u => u.power.supply) = some (.stopped .junction)
    ∧ after (exec (.inletHot 180 true) ready) (fun u => u.power.supply) = some (.stopped .inlet)
    ∧ after (exec (.inletHot 161 false) ready) (fun u => u.power.inletCut) = some 25 := by decide +kernel
theorem test_power_on : after (exec .powerOn (supplied .off)) (fun u => (u.pstate, u.startStep, u.boot.cause)) = some (0, 1, 1)
    ∧ after (exec (.partReset {}) ready) (fun u => (u.pstate, u.startStep, u.boot.cause)) = some (0, 1, 2)
    ∧ after (exec .watchdogReset ready) (fun u => u.boot.cause) = some 4
    ∧ after (exec .restart { ready with boot := { ready.boot with restart := true } }) (fun u => u.boot.cause) = some 3 := by decide +kernel

/-- StartupEvents and ResetsDuringStartup: a part in its first step, one whose step 4 hangs, one in discovery. -/
def starting : State := { State.reset with power := { State.reset.power with supply := .on, pwrEn := true }, pstate := 0, startStep := 1 }
def recIn (i : Nat) (e : StepEntry) : StepRec := { startNo := 0, cause := 1, straps := {}, steps := (List.replicate 11 {}).set (i - 1) e }
def inStep (i : Nat) : State := { starting with startStep := BitVec.ofNat 8 i, boot := { starting.boot with records := [recIn i { started := true }] } }
def sel (b : Straps) : State := { starting with boot := { starting.boot with straps := b } }
theorem test_startup_goes : (starting.power.supply = .on ∧ starting.pstate = 0 ∧ starting.startStep.toNat ≤ 1 ∧ starting.boot.repair.railFail = false)
    ∧ starting.boot.header.isSome = true ∧ (sel { starting.boot.straps with bootSel := 2 }).boot.straps.bootSel = 2
    ∧ mandatorySteps.filter (fun i => failures i (List.replicate 3 (recIn 4 { started := true, ended := some 0x10 })) ≥ 3) = [4]
    ∧ mandatorySteps.filter (fun i => failures i (List.replicate 2 (recIn 4 { started := true, ended := some 0x10 })) ≥ 3) = [] := by decide +kernel
theorem test_startup_bound : (inStep 4).running = some 4 ∧ after (exec (.startupStepBound 4) (inStep 4)) (fun u => u.boot.restart) = some true
    ∧ (inStep 9).running = some 9 ∧ (inStep 10).running = some 10 := by decide +kernel
theorem test_discovery : let s : State := { inStep 10 with fab := { ready.fab with ports := port0 :: List.replicate 7 {} } }
    (s.port 0).st = .inService ∧ s.listedAs.isSome = true ∧ (s.entry 10).ended = none ∧ s.boot.bundle.members.get 0 (s.partnerOf 0) ≠ 99
    ∧ after (exec (.discoveryPartner 0 (s.boot.bundle.members.get 0 (s.partnerOf 0))) s) (fun u => u.boot.partnerOk.getLsbD 0) = some true
    ∧ after (exec (.discoveryPartner 0 99) s) (fun u => u.boot.partnerWrong.getLsbD 0) = some true := by decide +kernel
theorem test_resets_starting : starting.pstate = 0 ∧ starting.power.supply ≠ .off ∧ (inStep 5).pstate = 0 ∧ (inStep 5).power.supply ≠ .off := by decide +kernel

/-- ReplayCommands: a capture buffer of 16 records with a record of step 7 that is complete (Table 11.7), its region list at 0x20000. -/
def capture0 : ReplayCfg := { job := 0, hall := 1, mode := 2, step := 7, buf := 1, batch := 0x30000, regions := [] }
def captured : State := { ready with mem := (tables.write 0x20000 (leBytes 8 0x30000 ++ leBytes 6 0x10000 ++ [3, 0])).write (recordOff capture0 0) ([2, 0, 0, 0] ++ leBytes 4 7), replay := { cfgs := [capture0] } }
theorem test_record_found : (asked 0x0921 2 captured).findRecord 0 7 (fun b => b ≠ 0) = some (capture0, 0) ∧ captured.findRecord 0 7 (fun b => b = 2) = some (capture0, 0)
    ∧ captured.findRecord 0 8 (fun b => b ≠ 0) = none := by decide +kernel
theorem test_replay_config : (match ((asked 0x0920 7 captured).begin_ (cmd 0x0920 7)).hubRead 0 0x20000 16 with
      | .ok bs => regionsClean 3 1 bs && (parseRegions 1 bs).all (fun x => (asked 0x0920 7 captured).regionOk 0 x)
      | _ => false) = true
    ∧ (asked 0x0920 7 captured).host.claimed .hallStoreTop 1 = false ∧ (captured.hall 1).fenced = false
    ∧ ((asked 0x0920 7 captured).claim { kind := .hallStoreTop, index := 1, job := 0, opcode := 0x0920 }).host.claimed .hallStoreTop 1 = true := by decide +kernel
theorem test_replay_checks : let s := (asked 0x0923 3 captured).begin_ (cmd 0x0923 3)
    s.firstAway 0 [(0x20000, 128)] = none ∧ s.freeHandle = some 0 ∧ s.residents = []
    ∧ (match s.hubRead 0 0x1000000000000000 8 with | .err _ _ => true | _ => false) = true := by decide +kernel

/-- A comparison bound to graph 0, a pair over queue pairs 7 and 8 of ports 0 and 1, and a comparison under way. -/
def replica0 : ReplicaCfg := { job := 0, graph := 0, axes := 1, k := 1, snapVa := 0x40000, snapSize := 0x10000, regions := [], first := 0, ncnt := 4 }
def pair0 : PairCfg := { job := 0, role := 0, qp := 7, region := 2, raddr := 0, rkey := 5, hb0 := 7, hb1 := 8, timeout := 1000 }
def work0 : Boundary := { job := 0, graph := 0, step := 0, stage := .exchange, pair := true, lengths := [(0, 8)] }
def replicated (ps : List PairCfg) (ws : List Boundary) : State :=
  { withGraph ready { graph0 (task0 .running) with phase := .boundary, resumeHold := true } with
    replica := { cfgs := [replica0], pairs := ps, works := ws }, fab := { ready.fab with qps := [qp0, { qp0 with id := 8, port := 1 }], mrs := [mr0] } }
theorem test_replica_cmds : let s := asked 0x0940 9 (replicated [] [])
    s.replicaOf 0 = some replica0 ∧ s.workOf 0 = none ∧ s.rollbackHeld 0 = true ∧ (asked 0x0941 0 { replicated [] [] with graphs := [] }).rollbackHeld 0 = false
    ∧ (s.graph 0).any (fun gr => decide (gr.hdr.job = 0 ∧ gr.phase ≠ .ended)) = true ∧ ready.replicaOf 0 = none
    ∧ s.rangeWritable 0 0x40000 0x10000 = true ∧ regionsClean 0 0 [] = true ∧ s.areaTotal 0 + regionTotal [] + 8 * 4 ≤ 0x10000 := by decide +kernel
theorem test_pair_cmds : let s := asked 0x0948 8 (replicated [pair0] [work0])
    s.pairOf 0 = some pair0 ∧ (replicated [] []).pairOf 0 = none ∧ s.jobQp 0 7 = some qp0 ∧ (s.jobQp 0 8).map (·.port) = some 1
    ∧ (∃ m ∈ s.fab.mrs, m.id = 2 ∧ m.job = 0) ∧ s.workOf 0 = some work0 ∧ s.paired 0 = some pair0 ∧ (replicated [{ pair0 with state := 0 }] []).paired 0 = none := by decide +kernel
theorem test_pair_events : let s := replicated [pair0] [work0]
    s.fab.mrs.find? (fun m => m.id = pair0.region) = some mr0 ∧ ({ s with fab := { s.fab with mrs := [] } } : State).fab.mrs.find? (fun m => m.id = pair0.region) = none
    ∧ work0.stage = .exchange ∧ work0.lengths ≠ [] ∧ (replicated [{ pair0 with hb0 := 0xFFFF }] []).paired 0 = some { pair0 with hb0 := 0xFFFF } := by decide +kernel
theorem test_snapshot : let g := group0; let s : State := { replicated [] [] with till := { groups := [g], copying := [g.gid] } }
    s.replicaOf 0 = some replica0 ∧ ((s.jobGroups 0).find? fun g => s.till.copying.contains g.gid) = some g := by decide +kernel

/-- CheckTestAndTrace: an idle part and a busy one, a claimed ring, lanes with and without a window, a trace buffer. -/
theorem test_selftest : (asked 0x0960 1).residents = [] ∧ (asked 0x0960 1 (replicated [] [])).residents ≠ [] ∧ (asked 0x0910 5).jobResident 0 = false
    ∧ (asked 0x0910 5 (replicated [] [])).jobResident 0 = true ∧ ({ sagged := true } : SelfTestFacts).sagged = true := by decide +kernel
theorem test_margins : windowPoints (BitVec.allOnes 64) = 64 ∧ windowPoints 0 = 0 ∧ portLanes 7 ≤ 128 ∧ ¬ (127 < portLanes 0 ∧ 127 < portLanes 7) := by decide +kernel
def trace0 : TraceCfg := { job := 0, va := 0x40000, size := 0x40000, units := [0x40000], trig := 5, cls := 0, events := 2, post := 0 }
theorem test_trace : let s := asked 0x0968 6
    s.trace.cfg = none ∧ s.host.claimed .syncIn 0 = false ∧ (s.traceUnits 0 0x40000 4).isSome = true ∧ s.traceUnits 0 0x40000000 4 = none
    ∧ after (exec (.traceArm (hdr 1) 1) (asked 0x0969 1 { ready with trace := { cfg := some trace0 } })) (fun u => u.trace.armed) = some true
    ∧ after (exec .trigInEdge { ready with trace := { cfg := some trace0, armed := true } }) (fun u => u.power.marks.length) = some 1 := by decide +kernel
theorem test_trace_pins : let s := (asked 0x0968 6).begin_ (cmd 0x0968 6)
    (match s.probeAll 4 tracePinKey 0 0 [{ va := 0x40000, len := 0x40000, write := true }] [] with | .ok ps => decide (s.pinsIn 4 + ps.length ≤ pinRoom) | _ => false) = true
    ∧ (match s.probeAll 4 tracePinKey 0 0 [{ va := 0x40000000, len := 0x40000, write := true }] [] with | .ok _ => true | _ => false) = false := by decide +kernel

/-- IngestEvents and LayoutSwitching, in their other cases: held HBM, other queue pairs, a replay, a lost part, a switch here. -/
theorem test_ingest_cases : (ingest { qp0 with st := .rtr }).qp 9 = none ∧ ({ ingest { qp0 with st := .rtr } with power := { ready.power with below40 := true } } : State).hbmHeld = true
    ∧ (ingest { qp0 with st := .rts }).hbmHeld = false ∧ qp0.st ≠ .rts ∧ (∀ p ∈ pieces 2 0x10FFFF 1, (ingest qp0).mapped p.1 = true)
    ∧ after (exec (.ingestRdmaAccess 7 .write 5 0x100000 [1] 1) (ingest { qp0 with st := .rtr })) (fun u => u.mem.get 0x100000) = some 1 := by decide +kernel
theorem test_layout_refusals : let w : LPart := { job := 0, coord := 1, epoch := 5 }; let s := asked 0x0720 2
    ({ s with replay := { runs := [{ graph := 0, job := 0, hall := 0, noupdate := false, c := 0, record := 0 }] } } : State).replay.runs ≠ []
    ∧ ({ s with layouts := { parts := [w] } } : State).lpart 0 ≠ none ∧ ({ s with fab := { s.fab with lost := [2] } } : State).fab.lost = [2]
    ∧ epochNewer 0 (s.layoutEpoch.get 0 0) = false := by decide +kernel
theorem test_layout_last : let w : LCoord := { job := 0, epoch := 5, since := 0, timeout := 1000, ready := ready.domainParts.filter (· ≠ 1) }; let s : State := { ready with layouts := { coords := [w] } }
    s.lcoord 0 = some w ∧ s.member 1 = true ∧ (∀ n ∈ s.domainParts, n = 1 ∨ n ∈ w.ready) ∧ ready.lcoord 0 = none := by decide +kernel
/-- Collectives: an all-gather of which everything has come, and one held below 42 V. -/
theorem test_coll_holds : (supplied .off).power.supply ≠ .on ∧ collReady.power.below42 = false ∧ collReady.hbmHeld = false
    ∧ (∀ r, collReady.collRun 0 0 = some r → r.started = none) ∧ (collReady.unitTask 0 1 3).isNone = true := by decide +kernel

/-! ### More witnesses: ROOT, SLV and the frames -/

/-- RootAndSolveCommands: a warm start above OMEGA, a breached guard, the last iteration, panels with a root and without, a late task. -/
theorem test_newton_other : let w := { newton0 (2 ^ 31) with warm := true }; let m := { newton0 (2 ^ 29 - 2 ^ 27) with warm := false }
    (w.warm && w.k = 0 && (val32 factor1.omega).lt (val32 (amaxOf (newtonE 1 w.m)))) = true
    ∧ (val32 factor1.tol).lt (val32 (amaxOf (newtonE 1 m.m))) = true ∧ ({ m with sat := true } : Newton).breached = true ∧ ({ m with k := 5 } : Newton).k = m.itmax := by decide +kernel
theorem test_root_late : let r := { run0 (.direct [0] none false) with deadline := 5 }; let s : State := { rooting r.phase with roots := { factors := [factor0], runs := [(0, some r)] } }
    s.rootRun 0 = some r ∧ s.rootIsLate 0 r false = false
    ∧ ({ s with halls := [(0, { lc := 5 })] } : State).rootIsLate 0 r true = true ∧ ({ s with halls := [(0, { lc := 5 })] } : State).rootIsLate 0 r false = false
    ∧ ({ s with halls := [(0, { lc := 6 })] } : State).rootIsLate 0 r false = true := by decide +kernel
theorem test_root_others : (rooting (.direct [2] none true)).rootRun 0 = some (run0 (.direct [2] none true)) ∧ (rooting (.direct [2] (some []) false)).rootRun 0 = some (run0 (.direct [2] (some []) false))
    ∧ ready.rootRun 0 = none ∧ ready.hallRuns 0 = true ∧ ({ ready with power := { ready.power with below42 := true } } : State).power.below42 = true
    ∧ ready.unitTask 0 0 4 = none ∧ (rooting .finished).rootRun 0 = some (run0 .finished) := by decide +kernel
theorem test_root_reads : let s := rootTask
    accOk (s.taskWrite 0 0 0 0 0x1000000000000000 (List.replicate 64 0)) = false ∧ (s.rec_ 0 0).map (·.placeHall) = some 0
    ∧ (match ({ s with mem := s.mem.write 0x20000 [9] } : State).rootRead 0 (graph0 (task0 .running)) rootRec with | .ok none => true | _ => false) = true := by decide +kernel
theorem test_solve_others : (solving image0 .setup 0).solveRun 0 = some (solveRun0 .setup 0) ∧ ready.solveRun 0 = none ∧ (solving image0 .boundary 0).image 9 = none
    ∧ (solving image0 .boundary 0).solveIsLate 0 { solveRun0 .boundary 0 with params := { params0 with deadline := 1 } } true = false
    ∧ ({ solving image0 .boundary 0 with halls := [(0, { lc := 2 })] } : State).solveIsLate 0 { solveRun0 .boundary 0 with params := { params0 with deadline := 1 } } false = true
    ∧ accOk ((solving image0 .finished 0).taskWrite 0 0 0 0 0x1000000000000000 [0]) = false := by decide +kernel

/-- RegisterInstructionsFrame and StoresFrame: a transfer with LINK, and stores at the last address of scratch. -/
theorem test_frames : let b : ControlF := { fNone with link := true, xl := 5 }
    (running (controlWord 0 b) thr).issues t0 (controlWord 0 b) thr ∧ b.rsv = 0 ∧ b.xa = 0
    ∧ (let f := fImm 8; let th := thr2 786424 0; (th.xr f.xa + f.low.signExtend 64).toNat = 786432)
    ∧ (let f := fImm 0; let th := thr2 786424 0; (running (scalarWord 0x11 f) th).issues t0 (scalarWord 0x11 f) th
        ∧ (running (scalarWord 0x11 f) th).holdFor (tkey t0) th [] [⟨0, 786424, 786432⟩] = none) := by decide +kernel
theorem test_store_frames : ∀ q ∈ [((0x0A : Nat), (786368 : Nat)), (0x0C, 786400), (0x0E, 786416)], let f : MoveRegF := ⟨2, 0, 0, 0, 0, 0⟩; let w := moveRegWord (BitVec.ofNat 6 q.1) f
    let th : Thread := { thr2 (BitVec.ofNat 64 q.2) 0 with d := [(0, some 0)] }
    (running w th).issues t0 w th ∧ (th.xr f.xa).toNat = q.2 ∧ f.rsv = 0 := by decide +kernel

end Sys2Proof.Tests
end

section
/-! SUPPORT. Handles and resident graphs (R47): a handle is free unless a graph is resident under it, so eight resident
graphs leave none, and a submission that finds none answers BUSY before it reads its image (log entry 34). -/

namespace Sys2Proof.Machine

/-- The handle choice reads the graphs alone, so the start of a command leaves it. -/
@[simp] theorem State.freeHandle_begin_ (s : State) (c : Cmd) : (s.begin_ c).freeHandle = s.freeHandle := rfl

/-- One resident graph per handle in use. -/
theorem State.residents_length (s : State) :
    s.residents.length = [0, 1, 2, 3, 4, 5, 6, 7].countP fun g => (s.graph g).isSome := by
  simp only [State.residents, List.length_filterMap_eq_countP, Option.isSome_map]

/-- There are eight handles, and each holds at most one graph. -/
theorem State.residents_length_le (s : State) : s.residents.length ≤ 8 := by
  rw [State.residents_length]
  exact List.countP_le_length

/-- No handle is free exactly when eight graphs are resident. -/
theorem State.freeHandle_eq_none_iff (s : State) : s.freeHandle = none ↔ s.residents.length = 8 := by
  have hfree : s.freeHandle = none ↔ ∀ g ∈ [0, 1, 2, 3, 4, 5, 6, 7], (s.graph g).isSome := by
    simp only [State.freeHandle, List.find?_eq_none, Bool.not_eq_true, Option.isNone_eq_false_iff]
  rw [hfree, State.residents_length]
  exact List.countP_eq_length.symm

/-- A submission that is served and finds no free handle answers BUSY. -/
theorem graphSubmit_busy {s : State} {h : CmdHdr} {c : Cmd} (va : W64) (hs : s.serves 0x0401 1 true h c)
    (hfull : s.freeHandle = none) : exec (.graphSubmit h va) s = (s.begin_ c).answers (s.begun c) stBusy [] := by
  calc exec (.graphSubmit h va) s = execGraphSubmit h va s := rfl
    _ = (s.begin_ c).answers (s.begun c) stBusy [] := by
      rw [execGraphSubmit, command_runs hs, State.freeHandle_begin_, hfull]
      rfl

/-- Settles O31: eight resident graphs leave no free handle, and a submission without one answers BUSY. -/
theorem ninthGraphIsBusy : Obligations.NinthGraphIsBusy := by
  unfold Obligations.NinthGraphIsBusy
  intro s
  refine ⟨s.residents_length_le, fun h c va hs hfull => ?_⟩
  exact graphSubmit_busy va hs (s.freeHandle_eq_none_iff.mpr hfull)

end Sys2Proof.Machine
end

section
/-! SUPPORT. Scratch accesses of the scalar unit (R101, R116): LD and ST make the same checks of their form, their address and
the pending moves and drains, and differ in the bytes they read or write and in what they do once nothing stands in the way. -/

namespace Sys2Proof.Machine

/-! ### Keys, byte lists and the two stores of a stall -/

/-- A context number is below 1,024, so a thread's key gives back its stall. -/
@[simp] theorem stallOf_tkey (t : ThreadRef) : stallOf (tkey t) = skey t.st := by
  have hctx := t.ctx.isLt
  simp only [stallOf, tkey, threadKey]
  omega

@[simp] theorem length_leBytes (n x : Nat) : (leBytes n x).length = n := by
  induction n generalizing x with
  | zero => rfl
  | succ n ih => rw [leBytes, List.length_cons, ih]

/-- Space 0 of a stall is its own 786,432 bytes of scratch (Table 4.3). -/
@[simp] theorem State.sread_zero (s : State) (st a n : Nat) :
    s.sread st 0 a n = s.scratch.read (st * 786432 + a) n := rfl

@[simp] theorem State.swrite_zero (s : State) (st a : Nat) (bs : List Byte) :
    s.swrite st 0 a bs = { s with scratch := s.scratch.write (st * 786432 + a) bs } := rfl

/-- Recording a touched line writes a task, no store. -/
@[simp] theorem State.touch_scratch (s : State) (g t lo hi : Nat) : (s.touch g t lo hi).scratch = s.scratch :=
  State.modTask_scratch ..
@[simp] theorem State.touch_aisleMem (s : State) (g t lo hi : Nat) : (s.touch g t lo hi).aisleMem = s.aisleMem :=
  State.modTask_aisleMem ..
@[simp] theorem State.touch_mem (s : State) (g t lo hi : Nat) : (s.touch g t lo hi).mem = s.mem :=
  State.modTask_mem ..

/-! ### The checks -/

/-- A multiple of 8 below 786,432 leaves room for its 8 bytes, as 8 divides 786,432 (R101). -/
theorem scratchOk_eight_iff (a : W64) : scratchOk a 8 = true ↔ a.toNat % 8 = 0 ∧ a.toNat < 786432 := by
  simp only [scratchOk, Bool.and_eq_true, decide_eq_true_eq]
  omega

theorem State.unlessHeld_of_none {s : State} {k : Nat} {th : Thread} {reads writes : List Run} (f : State)
    (h : s.holdFor k th reads writes = none) : s.unlessHeld k th reads writes f = f := by
  rw [State.unlessHeld, h]

theorem State.unlessHeld_of_some {s : State} {k : Nat} {th : Thread} {reads writes : List Run} {w : HoldWhy} (f : State)
    (h : s.holdFor k th reads writes = some w) : s.unlessHeld k th reads writes f = s.hold k th w := by
  rw [State.unlessHeld, h]

/-- The scratch address of LD and ST, XA + IMM (Table 3.4). -/
def Thread.scratchAddr (th : Thread) (f : ScalarF) : W64 := th.xr f.xa + f.low.signExtend 64

/-- What LD and ST share: the checks in their order, then the effect `done`. -/
def State.accessScratch (s : State) (k : Nat) (th : Thread) (f : ScalarF) (word : W64) (reads writes : List Run)
    (done : State) : State :=
  if !f.i then s.trap k .illegal 0 word
  else if !(scratchOk (th.scratchAddr f) 8) then s.trap k .scratchRange (th.scratchAddr f) word
  else s.unlessHeld k th reads writes done

section
variable {s : State} {k : Nat} {th : Thread} {f : ScalarF} {word : W64} {reads writes : List Run} {done : State}

/-- I = 0 is illegal (Table 3.4). -/
theorem State.accessScratch_of_register_form (hi : f.i = false) :
    s.accessScratch k th f word reads writes done = s.trap k .illegal 0 word := by
  simp [State.accessScratch, hi]

/-- A bad address traps with itself as DETAIL (R101). -/
theorem State.accessScratch_of_bad_address (hi : f.i = true)
    (ha : (th.scratchAddr f).toNat % 8 ≠ 0 ∨ (th.scratchAddr f).toNat ≥ 786432) :
    s.accessScratch k th f word reads writes done = s.trap k .scratchRange (th.scratchAddr f) word := by
  have hbad : ¬ scratchOk (th.scratchAddr f) 8 = true := by
    rw [scratchOk_eight_iff]
    omega
  simp [State.accessScratch, hi, hbad]

/-- A sound access goes on to the holds of R116. -/
theorem State.accessScratch_of_sound (hi : f.i = true) (h8 : (th.scratchAddr f).toNat % 8 = 0)
    (hlt : (th.scratchAddr f).toNat < 786432) :
    s.accessScratch k th f word reads writes done = s.unlessHeld k th reads writes done := by
  have hok := (scratchOk_eight_iff _).mpr ⟨h8, hlt⟩
  simp [State.accessScratch, hi, hok]

theorem State.accessScratch_waits {w : HoldWhy} (hi : f.i = true) (h8 : (th.scratchAddr f).toNat % 8 = 0)
    (hlt : (th.scratchAddr f).toNat < 786432) (hw : s.holdFor k th reads writes = some w) :
    s.accessScratch k th f word reads writes done = s.setThread k (some { th with status := .held w }) := by
  rw [State.accessScratch_of_sound hi h8 hlt, State.unlessHeld_of_some _ hw, State.hold]

theorem State.accessScratch_runs (hi : f.i = true) (h8 : (th.scratchAddr f).toNat % 8 = 0)
    (hlt : (th.scratchAddr f).toNat < 786432) (hn : s.holdFor k th reads writes = none) :
    s.accessScratch k th f word reads writes done = done := by
  rw [State.accessScratch_of_sound hi h8 hlt, State.unlessHeld_of_none _ hn]

end

/-! ### LD and ST -/

/-- The eight bytes an access touches, as a run of scratch. -/
def Thread.scratchRun (th : Thread) (f : ScalarF) : Run := ⟨0, (th.scratchAddr f).toNat, (th.scratchAddr f).toNat + 8⟩

/-- The scratch line of an access is recorded for its task (R422). -/
def State.touchAccess (s : State) (th : Thread) (f : ScalarF) : State :=
  s.touch th.graph th.task (th.scratchAddr f).toNat ((th.scratchAddr f).toNat + 7)

/-- What a load does once its checks pass: XD holds the eight bytes of scratch at its address. -/
def State.loaded (s : State) (t : ThreadRef) (th : Thread) (f : ScalarF) : State :=
  (s.touchAccess th f).retire (tkey t)
    (th.setX f.xd (BitVec.ofNat 64 (ofLe (s.scratch.read (skey t.st * 786432 + (th.scratchAddr f).toNat) 8))))

/-- What a store does once its checks pass: the eight bytes of XD stand in scratch at its address. -/
def State.stored (s : State) (t : ThreadRef) (th : Thread) (f : ScalarF) : State :=
  ((s.touchAccess th f).swrite (skey t.st) 0 (th.scratchAddr f).toNat (leBytes 8 (th.xr f.xd).toNat)).retire (tkey t)
    th.wroteScratch

/-- LD reads its run, and loads. -/
theorem exec_ld {s : State} {t : ThreadRef} {th : Thread} {f : ScalarF} (h : s.issues t (scalarWord 0x10 f) th) :
    exec (.ld t f) s
      = .next (s.accessScratch (tkey t) th f (scalarWord 0x10 f) [th.scratchRun f] [] (s.loaded t th f)) := by
  calc exec (.ld t f) s = execLd t f s := rfl
    _ = _ := by
      rw [execLd, issue_runs h, stallOf_tkey]
      rfl

/-- ST writes its run, and stores. -/
theorem exec_st {s : State} {t : ThreadRef} {th : Thread} {f : ScalarF} (h : s.issues t (scalarWord 0x11 f) th) :
    exec (.st t f) s
      = .next (s.accessScratch (tkey t) th f (scalarWord 0x11 f) [] [th.scratchRun f] (s.stored t th f)) := by
  calc exec (.st t f) s = execSt t f s := rfl
    _ = _ := by
      rw [execSt, issue_runs h, stallOf_tkey]
      rfl

/-- A store writes one block of scratch. -/
theorem State.stored_scratch (s : State) (t : ThreadRef) (th : Thread) (f : ScalarF) :
    (s.stored t th f).scratch
      = s.scratch.write (skey t.st * 786432 + (th.scratchAddr f).toNat) (leBytes 8 (th.xr f.xd).toNat) := by
  simp [State.stored, State.touchAccess, State.retire]

@[simp] theorem State.stored_aisleMem (s : State) (t : ThreadRef) (th : Thread) (f : ScalarF) :
    (s.stored t th f).aisleMem = s.aisleMem := by
  simp [State.stored, State.touchAccess, State.retire]

@[simp] theorem State.stored_mem (s : State) (t : ThreadRef) (th : Thread) (f : ScalarF) :
    (s.stored t th f).mem = s.mem := by
  simp [State.stored, State.touchAccess, State.retire]

/-- The bytes of XD are read back where a store put them. -/
theorem State.stored_read (s : State) (t : ThreadRef) (th : Thread) (f : ScalarF) :
    (s.stored t th f).scratch.read (skey t.st * 786432 + (th.scratchAddr f).toNat) 8 = leBytes 8 (th.xr f.xd).toNat := by
  have hread := Memory.read_write_same (leBytes 8 (th.xr f.xd).toNat) s.scratch
    (skey t.st * 786432 + (th.scratchAddr f).toNat)
  rwa [length_leBytes, ← State.stored_scratch] at hread

/-- Every other byte of scratch is as before a store. -/
theorem State.stored_get_outside (s : State) (t : ThreadRef) (th : Thread) (f : ScalarF) {x : Nat}
    (hx : x < skey t.st * 786432 + (th.scratchAddr f).toNat ∨ skey t.st * 786432 + (th.scratchAddr f).toNat + 8 ≤ x) :
    (s.stored t th f).scratch.get x = s.scratch.get x := by
  rw [State.stored_scratch]
  exact Memory.get_write_outside _ _ _ _ (by rwa [length_leBytes])

/-- Settles O7: each clause is one outcome of the checks that LD and ST share. -/
theorem loadsAndStores : Obligations.LoadsAndStores := by
  unfold Obligations.LoadsAndStores
  intro t f s th a k own run waits
  refine ⟨fun hi => ⟨fun hld => ?registerLd, fun hst => ?registerSt⟩,
    fun hi h8 hlt => ⟨fun hld => ⟨fun hn => ?loads, fun w hw => ?loadWaits⟩,
      fun hst => ⟨fun hn => ?stores, fun w hw => ?storeWaits⟩⟩,
    fun hi hbad => ⟨fun hld => ?badLd, fun hst => ?badSt⟩⟩
  case registerLd => exact (exec_ld hld).trans (congrArg _ (State.accessScratch_of_register_form hi))
  case registerSt => exact (exec_st hst).trans (congrArg _ (State.accessScratch_of_register_form hi))
  case loads => exact (exec_ld hld).trans (congrArg _ (State.accessScratch_runs hi h8 hlt hn))
  case loadWaits => exact (exec_ld hld).trans (congrArg _ (State.accessScratch_waits hi h8 hlt hw))
  case stores =>
    have hexec : exec (.st t f) s = .next (s.stored t th f) :=
      (exec_st hst).trans (congrArg _ (State.accessScratch_runs hi h8 hlt hn))
    exact ⟨s.stored t th f, hexec, s.stored_read t th f, fun x hx => s.stored_get_outside t th f hx,
      s.stored_aisleMem t th f, s.stored_mem t th f⟩
  case storeWaits => exact (exec_st hst).trans (congrArg _ (State.accessScratch_waits hi h8 hlt hw))
  case badLd => exact (exec_ld hld).trans (congrArg _ (State.accessScratch_of_bad_address hi hbad))
  case badSt => exact (exec_st hst).trans (congrArg _ (State.accessScratch_of_bad_address hi hbad))

end Sys2Proof.Machine
end

section
/-! SUPPORT. Entries into a barrier (R364 to R368): an entry is refused, runs over, or counts one and joins; a counted entry
that fills the open generation starts its release. What each step leaves alone in Bell is said once, for the counters and for
the barriers. -/

namespace Sys2Proof.Machine

/-! ### What a Bell update leaves alone -/

/-- Fault and trace records do not write Bell. -/
theorem State.Records.bell_eq {s u : State} (h : s.Records u) : u.bell = s.bell := by rw [h]

theorem records_bellFault (s : State) (i : W16) (cls : FaultClass) (action : Byte) (detail : W64) :
    s.Records (s.bellFault i cls action detail) := by
  unfold State.bellFault
  dsimp only
  split
  · exact records_hallFault ..
  · exact records_partFault ..

@[simp] theorem State.bellFault_bell (s : State) (i : W16) (cls : FaultClass) (action : Byte) (detail : W64) :
    (s.bellFault i cls action detail).bell = s.bell :=
  (records_bellFault s i cls action detail).bell_eq

/-- An arbitration writes the table of watches and the messages of those that leave it, nothing else of Bell (R357, R361). -/
theorem State.testWatches_bell (s : State) (i : W16) :
    ∃ watches msgs, (s.testWatches i).bell = { s.bell with watches := watches, msgs := msgs } := by
  unfold State.testWatches
  dsimp only
  rw [(records_foldl _ _ (fun s _ => records_traceEvent ..) _).bell_eq, State.setBell_bell]
  exact ⟨_, _, rfl⟩

@[simp] theorem State.testWatches_counters (s : State) (i : W16) :
    (s.testWatches i).bell.counters = s.bell.counters := by
  obtain ⟨watches, msgs, hbell⟩ := s.testWatches_bell i
  rw [hbell]

@[simp] theorem State.testWatches_barriers (s : State) (i : W16) :
    (s.testWatches i).bell.barriers = s.bell.barriers := by
  obtain ⟨watches, msgs, hbell⟩ := s.testWatches_bell i
  rw [hbell]

/-- An addition writes no barrier, saturated or not. -/
@[simp] theorem State.addCounter_barriers (s : State) (i : W16) (inc : W64) :
    (s.addCounter i inc).bell.barriers = s.bell.barriers := by
  unfold State.addCounter
  dsimp only
  split <;> simp only [State.bellFault_bell, State.setBell_bell]

/-- An addition with room for it adds its increment (R348). -/
theorem State.addCounter_counter {s : State} {i : W16} {inc : W64} (h : (s.counter i).toNat + inc.toNat < 2 ^ 64) :
    (s.addCounter i inc).counter i = s.counter i + inc := by
  have hroom : ¬ (s.counter i).toNat + inc.toNat ≥ 2 ^ 64 := Nat.not_le.mpr h
  unfold State.addCounter
  dsimp only
  rw [if_neg hroom, if_neg hroom]
  exact SMap.get_set_same ..

/-! ### The count of an entry -/

/-- An entry adds one to its counter and is arbitrated as a signal is (R365). -/
def State.countEntry (s : State) (i : W16) : State := (s.addCounter i 1).testWatches i

@[simp] theorem State.countEntry_barriers (s : State) (i : W16) :
    (s.countEntry i).bell.barriers = s.bell.barriers := by
  rw [State.countEntry, State.testWatches_barriers, State.addCounter_barriers]

theorem State.countEntry_counter {s : State} {i : W16} (h : (s.counter i).toNat + 1 < 2 ^ 64) :
    ((s.countEntry i).counter i).toNat = (s.counter i).toNat + 1 := by
  have hsum : (s.countEntry i).counter i = s.counter i + 1 := by
    calc (s.countEntry i).counter i = (s.addCounter i 1).counter i := by
          simp only [State.counter, State.countEntry, State.testWatches_counters]
      _ = s.counter i + 1 := State.addCounter_counter h
  rw [hsum]
  exact BitVec.toNat_add_of_lt h

/-! ### The start of a release -/

@[simp] theorem State.startRelease_counters (s : State) (b : Barrier) (g : W64) :
    (s.startRelease b g).bell.counters = s.bell.counters := by
  unfold State.startRelease
  dsimp only
  split <;> rfl

/-- What the start of generation `g`'s release makes of one barrier of the list: the barrier at counter `j` awaits `acks`
acknowledgements, and has yet to reach the halls of `halls`. -/
def Barrier.startAt (j : W16) (g : W64) (acks : Nat) (halls : BitVec 4) (x : Barrier) : Barrier :=
  if x.index = j then { x with releasing := some g, acks := acks, pendingHalls := halls } else x

@[simp] theorem Barrier.startAt_index (j : W16) (g : W64) (acks : Nat) (halls : BitVec 4) (x : Barrier) :
    (x.startAt j g acks halls).index = x.index := by
  unfold Barrier.startAt
  split <;> rfl

theorem Barrier.startAt_releasing_self (b : Barrier) (g : W64) (acks : Nat) (halls : BitVec 4) :
    (b.startAt b.index g acks halls).releasing = some g := by
  rw [Barrier.startAt, if_pos rfl]

theorem State.startRelease_barriers (s : State) (b : Barrier) (g : W64) :
    ∃ acks halls, (s.startRelease b g).bell.barriers = s.bell.barriers.map (Barrier.startAt b.index g acks halls) := by
  unfold State.startRelease
  dsimp only
  split <;> exact ⟨_, _, rfl⟩

/-- A release that starts is recorded at the barrier's own entry (R366). -/
theorem State.startRelease_releasing {s : State} {i : W16} {b : Barrier} (g : W64)
    (hf : (s.bell.barriers.find? fun x => x.index = i) = some b) :
    ((s.startRelease b g).bell.barriers.find? fun x => x.index = i).bind (·.releasing) = some g := by
  obtain ⟨acks, halls, hlist⟩ := s.startRelease_barriers b g
  have hindex : (fun x : Barrier => decide (x.index = i)) ∘ Barrier.startAt b.index g acks halls
      = fun x => decide (x.index = i) := by
    funext x
    simp only [Function.comp_apply, Barrier.startAt_index]
  rw [hlist, List.find?_map, hindex, hf]
  exact b.startAt_releasing_self g acks halls

/-- A counted entry that fills the open generation closes it, unless a release is incomplete (R365). -/
def State.closeIfFull (s : State) (b : Barrier) (i : W16) : State :=
  if b.releasing.isNone && (s.counter i).toNat = b.openGen.toNat * b.n then s.startRelease b b.openGen else s

@[simp] theorem State.closeIfFull_counters (s : State) (b : Barrier) (i : W16) :
    (s.closeIfFull b i).bell.counters = s.bell.counters := by
  unfold State.closeIfFull
  split
  · exact State.startRelease_counters ..
  · rfl

theorem State.closeIfFull_of_not_full {s : State} {b : Barrier} {i : W16}
    (h : b.releasing.isSome = true ∨ (s.counter i).toNat ≠ b.openGen.toNat * b.n) : s.closeIfFull b i = s := by
  unfold State.closeIfFull
  rw [if_neg]
  intro hfull
  simp only [Bool.and_eq_true, Option.isNone_iff_eq_none, decide_eq_true_eq] at hfull
  obtain ⟨hidle, hv⟩ := hfull
  rcases h with hbusy | hv'
  · simp [hidle] at hbusy
  · exact hv' hv

theorem State.closeIfFull_of_full {s : State} {b : Barrier} {i : W16} (hidle : b.releasing = none)
    (hv : (s.counter i).toNat = b.openGen.toNat * b.n) : s.closeIfFull b i = s.startRelease b b.openGen := by
  simp [State.closeIfFull, hidle, hv]

/-! ### The outcomes of an entry -/

/-- An entry finds the counter past the generation behind the one being released (R367). -/
def Barrier.RunsOver (b : Barrier) (v : Nat) : Prop := ∃ g, b.releasing = some g ∧ (g.toNat + 1) * b.n ≤ v

/-- The model's check of an entry's scope refuses the entries of another part into a barrier of one part (R368). -/
theorem Barrier.scope_check_iff {b : Barrier} {remote : Bool} :
    (remote && !b.domain) = true ↔ ¬ (remote = true → b.domain = true) := by
  simp

section
variable {s : State} {i : W16} {remote : Bool} {b : Barrier}

theorem State.enterBarrier_of_no_barrier (hf : (s.bell.barriers.find? fun x => x.index = i) = none) :
    s.enterBarrier i remote = (.bad, s) := by
  rw [State.enterBarrier, hf]

theorem State.enterBarrier_of_other_part (hf : (s.bell.barriers.find? fun x => x.index = i) = some b)
    (hr : remote = true) (hd : b.domain = false) : s.enterBarrier i remote = (.bad, s) := by
  simp [State.enterBarrier, hf, hr, hd]

theorem State.enterBarrier_overruns (hf : (s.bell.barriers.find? fun x => x.index = i) = some b)
    (hd : remote = true → b.domain = true) (ho : b.RunsOver (s.counter i).toNat) :
    s.enterBarrier i remote = (.overrun, s.bellFault i .barrierOverrun 0 (BitVec.ofNat 64 i.toNat)) := by
  obtain ⟨g, hg, hle⟩ := ho
  have hscope : ¬ (remote && !b.domain) = true := fun h => Barrier.scope_check_iff.mp h hd
  rw [State.enterBarrier, hf]
  dsimp only
  rw [if_neg hscope, hg, if_pos (decide_eq_true hle)]

theorem State.enterBarrier_joins (hf : (s.bell.barriers.find? fun x => x.index = i) = some b)
    (hd : remote = true → b.domain = true) (ho : ¬ b.RunsOver (s.counter i).toNat) :
    s.enterBarrier i remote
      = (.joined (BitVec.ofNat 64 ((((s.countEntry i).counter i).toNat - 1) / b.n + 1)), (s.countEntry i).closeIfFull b i) := by
  have hscope : ¬ (remote && !b.domain) = true := fun h => Barrier.scope_check_iff.mp h hd
  rw [State.enterBarrier, hf]
  dsimp only
  rw [if_neg hscope, if_neg ?notPast]
  case notPast =>
    split
    · next g hg => exact fun hpast => ho ⟨g, hg, of_decide_eq_true hpast⟩
    · exact Bool.false_ne_true
  rfl

end

/-- Settles O34: an entry has one of four outcomes, and one that joins counts itself before it looks whether the open
generation is full. -/
theorem barrierGenerations : Obligations.BarrierGenerations := by
  unfold Obligations.BarrierGenerations
  intro s i remote find v p
  refine ⟨State.enterBarrier_of_no_barrier, fun b hf => ⟨State.enterBarrier_of_other_part hf, fun hd ho => ?overrun,
    fun hd ho _ hv => ?joined⟩⟩
  case overrun =>
    have hp : p = _ := State.enterBarrier_overruns hf hd ho
    simp only [hp, State.bellFault_bell, and_self]
  case joined =>
    have hp : p = _ := State.enterBarrier_joins hf hd ho
    have hcount : ((s.countEntry i).counter i).toNat = v := State.countEntry_counter hv
    rw [hp, hcount]
    refine ⟨rfl, ?counted, fun hopen => ?staysOpen, fun hidle hfull => ?closes⟩
    case counted =>
      rw [← hcount, State.counter, State.closeIfFull_counters, State.counter]
    case staysOpen =>
      rw [State.closeIfFull_of_not_full (by rwa [hcount]), State.countEntry_barriers]
    case closes =>
      rw [State.closeIfFull_of_full hidle (hcount.trans hfull)]
      exact State.startRelease_releasing b.openGen (by rwa [State.countEntry_barriers])

end Sys2Proof.Machine
end

section
/-! SUPPORT. Addresses above bit 56 (R402): no walk of such an address reaches a table, so it ends without a page and
without a translation fault, and an access of at least one byte stops at its first piece, which starts at the address. -/

namespace Sys2Proof.Machine

/-- A virtual address with a bit of [63:57] set is refused before the job's space is looked up. -/
theorem State.walk_of_high (s : State) (job : Byte) (use : Use) {va : Nat} (hva : 2 ^ 57 ≤ va) :
    s.walk job use va = .bad := by
  rw [State.walk, if_pos hva]

/-- The first piece of a range that is not empty starts where the range does. -/
theorem pieces_succ_of_pos (fuel va : Nat) {n : Nat} (hn : 0 < n) :
    pieces (fuel + 1) va n = (va, min n (65536 - va % 65536)) ::
      pieces fuel (va + min n (65536 - va % 65536)) (n - min n (65536 - va % 65536)) := by
  rw [pieces, if_neg (Nat.ne_of_gt hn)]

/-- A first piece whose walk is refused stops the translation at its address, whatever pieces follow. -/
theorem State.translate_cons_of_bad {s : State} {job : Byte} {use : Use} {va : Nat} (n : Nat) (r : List (Nat × Nat))
    (hw : s.walk job use va = .bad) : s.translate job use ((va, n) :: r) = .err va false := by
  rw [State.translate, hw]

/-- The translation of a range that starts above bit 56 is an address error at its start. -/
theorem State.translate_pieces_of_high (s : State) (job : Byte) (use : Use) (fuel : Nat) {va n : Nat}
    (hva : 2 ^ 57 ≤ va) (hn : 0 < n) : s.translate job use (pieces (fuel + 1) va n) = .err va false := by
  rw [pieces_succ_of_pos fuel va hn]
  exact State.translate_cons_of_bad _ _ (s.walk_of_high job use hva)

/-- Settles O29: reads and writes both translate first, and the translation of such a range is an address error. -/
theorem highAddressesAreErrors : Obligations.HighAddressesAreErrors := by
  unfold Obligations.HighAddressesAreErrors
  intro s job va hva
  refine ⟨fun use n have_ buf hn => ?read, fun bs who hbs => ?write⟩
  case read => rw [State.vread, s.translate_pieces_of_high job use _ hva hn]
  case write => rw [State.vwrite, s.translate_pieces_of_high job .write _ hva hbs]

end Sys2Proof.Machine
end

section
/-! SUPPORT. The host interface at rest and the commands it turns away: while the rings are stopped nothing is fetched and
nothing written, and replies and events wait (R512, R514, R529); a command that the part's mode turns away answers before
its own rules (R519). -/

namespace Sys2Proof.Machine

/-! ### Stopped rings -/

/-- ENABLE at 0 stops the rings (R514). -/
theorem HostIf.writes_of_disabled {h : HostIf} (he : h.enable = false) : h.writes = false := by
  simp [HostIf.writes, he]

/-- D3hot stops the rings (R512). -/
theorem HostIf.writes_of_d3hot {h : HostIf} (hd : h.d3hot = true) : h.writes = false := by
  simp [HostIf.writes, hd]

/-- What stops writing stops fetching: `mayFetch` asks for all that `writes` asks for. -/
theorem HostIf.mayFetch_of_stopped {h : HostIf} (hw : h.writes = false) : h.mayFetch = false := by
  have hall : h.mayFetch = (h.writes && (h.cmdTail ≠ h.cmdHead && h.credits > 0 && h.used + h.reserved < h.rplSize)) := by
    simp only [HostIf.mayFetch, HostIf.writes, Bool.and_assoc]
  rw [hall, hw, Bool.false_and]

/-- No entry of a stopped ring is free. -/
theorem HostIf.freeEntry_of_stopped {h : HostIf} (hw : h.writes = false) : h.freeEntry = false := by
  rw [HostIf.freeEntry, hw, Bool.false_and]

section
variable {s : State}

/-- Stopped rings fetch no command. -/
theorem exec_commandFetch_of_stopped (hw : s.host.writes = false) (op : W16) (h : CmdHdr) :
    exec (.commandFetch op h) s = .next s := by
  calc exec (.commandFetch op h) s = execCommandFetch op h s := rfl
    _ = .next s := by simp [execCommandFetch, HostIf.mayFetch_of_stopped hw]

/-- The reply of a command that completes while the rings are stopped waits behind the earlier ones. -/
theorem State.reply_of_stopped (hw : s.host.writes = false) {c : Cmd} (hc : c.lostReply = false) (status : Byte)
    (results : List W64) :
    s.reply c status results = s.setHost { s.host with
      cmds := s.host.cmds.filter fun d => d.hdr.seq ≠ c.hdr.seq || d.fetched ≠ c.fetched
      replies := s.host.replies ++ [c.replyBytes status results] } := by
  -- the record of the command goes first, and what stops the rings is not part of it
  have hw' : ∀ cmds, HostIf.writes { s.host with cmds := cmds } = false := fun _ => hw
  simp only [State.reply, hc, State.setHost_host, hw', Bool.false_eq_true, if_false]
  rfl

/-- An event posted while the rings are stopped is held, if the event buffer has room (R526). -/
theorem State.post_of_stopped (hw : s.host.writes = false) (hroom : s.host.events.length < 1024) (kind : Nat) (tag : W64)
    (rec : List Byte) :
    s.post kind tag rec = s.setHost { s.host with events := s.host.events ++ [(kind, eventBody tag rec)] } := by
  simp [State.post, HostIf.freeEntry_of_stopped hw, hroom]

/-! ### BAR0 writes -/

/-- While ENABLE is 1 a register write changes nothing but the MSI-X table, IRQ_MAP and the interrupt rates (R514). -/
theorem exec_bar0RegWrite_of_enabled (he : s.host.enable = true) {off : W16} (hmsix : off.toNat < 0x8000)
    (hmap : off.toNat ≠ 0x0070) (hrate : off.toNat ≠ 0x0078) (v : W64) : exec (.bar0RegWrite off v) s = .next s := by
  calc exec (.bar0RegWrite off v) s = execBar0RegWrite off v s := rfl
    _ = .next s := by simp [execBar0RegWrite, he, Nat.not_le_of_lt hmsix, hmap, hrate]

/-- A rise of ENABLE clears the four counts and the DMA stop, and writes what waited (R514, R529). -/
theorem exec_bar0EnableWrite_rise (hup : s.bar0Up = true) (he : s.host.enable = false) {v : W64} (hv : v.getLsbD 0 = true) :
    exec (.bar0EnableWrite v) s = .next (s.setHost { s.host with
      enable := true, dmaStopped := false, cmdTail := 0, cmdHead := 0, rplTail := 0, rplHead := 0 }).drainRing := by
  calc exec (.bar0EnableWrite v) s = execBar0EnableWrite v s := rfl
    _ = _ := by simp [execBar0EnableWrite, hup, he, hv]

/-- A write of 0 to ENABLE changes that register alone (R514). -/
theorem exec_bar0EnableWrite_fall (hup : s.bar0Up = true) {v : W64} (hv : v.getLsbD 0 = false) :
    exec (.bar0EnableWrite v) s = .next (s.setHost { s.host with enable := false }) := by
  calc exec (.bar0EnableWrite v) s = execBar0EnableWrite v s := rfl
    _ = _ := by simp only [execBar0EnableWrite, hup, hv, Bool.not_true, Bool.false_eq_true, if_false]

/-- A power state change sets the state; a return to D0 also writes what waited (R512). -/
theorem exec_pciePowerStateChange (hup : s.bar0Up = true) (d3hot : Bool) :
    exec (.pciePowerStateChange d3hot) s = .next (if d3hot then s.setHost { s.host with d3hot := d3hot }
      else (s.setHost { s.host with d3hot := d3hot }).drainRing) := by
  calc exec (.pciePowerStateChange d3hot) s = execPciePowerStateChange d3hot s := rfl
    _ = _ := by simp [execPciePowerStateChange, hup]

/-! ### Commands that the part turns away -/

/-- An opcode that no table lists answers UNKNOWN_OPCODE, unless its command has expired. -/
theorem exec_unknownOpcode {op : W16} {h : CmdHdr} {c : Cmd} (hfind : s.host.findCmd op h = some c)
    (hrun : s.coresRun = true) (hlate : s.expired c = false) (hop : knownOpcodes.contains op.toNat = false) :
    exec (.unknownOpcode op h) s = s.answers c 0x14 [] := by
  calc exec (.unknownOpcode op h) s = execUnknownOpcode op h s := rfl
    _ = s.answers c 0x14 [] := by
      simp only [execUnknownOpcode, hfind, hrun, hop, hlate, Bool.not_true, Bool.or_self, Bool.false_eq_true, if_false]
      rfl

/-- A command that the part's mode turns away answers what the mode says, before its header and its own rules. -/
theorem command_of_modeAnswer {op : W16} {h : CmdHdr} {c : Cmd} (hfind : s.host.findCmd op h = some c)
    (hrun : s.coresRun = true) (hlate : s.expired c = false) {status : Byte} (hmode : s.modeAnswer op = some status)
    (n : Nat) (usesJob : Bool) (run : Cmd → State → State) :
    command op n usesJob h s run = s.answers c status [] := by
  simp only [command, hfind, hrun, hlate, hmode, Bool.not_true, Bool.false_eq_true, if_false]
  rfl

/-- Recovery mode (PSTATE 2) turns away every family but 0x01 and 0x0A with RECOVERY (R519). -/
theorem State.modeAnswer_of_recovery (hmode : s.pstate = 2) {op : W16} (h01 : family op ≠ 0x01) (h0A : family op ≠ 0x0A) :
    s.modeAnswer op = some 0x16 := by
  simp [State.modeAnswer, hmode, h01, h0A]

end

/-! ### The obligations -/

/-- Settles O18: a write finds the ring registers closed; a rise leaves the counts at 0 before what waits is written; after a
fall the rings are stopped. -/
theorem ringRegistersHold : Obligations.RingRegistersHold := by
  unfold Obligations.RingRegistersHold
  intro v s
  refine ⟨fun he => ?closed, fun hup he hv => ?rise, fun hup _ hv => ?fall⟩
  case closed =>
    refine ⟨?cmdBase, ?cmdLog2, ?rplBase, ?rplLog2⟩ <;>
      exact exec_bar0RegWrite_of_enabled he (by decide) (by decide) (by decide) v
  case rise => exact ⟨_, exec_bar0EnableWrite_rise hup he hv, rfl, rfl, rfl, rfl, rfl⟩
  case fall =>
    have hstop : (s.setHost { s.host with enable := false }).host.writes = false := HostIf.writes_of_disabled rfl
    refine ⟨_, exec_bar0EnableWrite_fall hup hv, exec_commandFetch_of_stopped hstop, rfl, fun c status results hc => ?_⟩
    rw [State.reply_of_stopped hstop hc]
    exact ⟨rfl, rfl⟩

/-- Settles O20: an unlisted opcode has its own row, and recovery mode answers before a command's own rules. -/
theorem recoveryAndUnknownOpcodes : Obligations.RecoveryAndUnknownOpcodes := by
  unfold Obligations.RecoveryAndUnknownOpcodes
  intro op h c s hfind hrun hlate
  refine ⟨exec_unknownOpcode hfind hrun hlate, fun hmode h01 h0A => ?recovery⟩
  case recovery => exact command_of_modeAnswer hfind hrun hlate (State.modeAnswer_of_recovery hmode h01 h0A)

/-- Settles O22: D3hot stops the rings, so nothing is fetched, and replies and events wait. -/
theorem nothingMovesInD3hot : Obligations.NothingMovesInD3hot := by
  unfold Obligations.NothingMovesInD3hot
  intro s op h c status results hup
  refine ⟨exec_pciePowerStateChange hup true, fun hd => ?stopped, exec_pciePowerStateChange hup false⟩
  case stopped =>
    have hstop : s.host.writes = false := HostIf.writes_of_d3hot hd
    refine ⟨exec_commandFetch_of_stopped hstop op h, fun hc => ?replyWaits, State.post_of_stopped hstop⟩
    case replyWaits =>
      rw [State.reply_of_stopped hstop hc]
      exact ⟨rfl, rfl, rfl⟩

end Sys2Proof.Machine
end

section
/-! SUPPORT. Start-up as software sees it: the firmware runs from the end of step 3 and serves two families until step 11
(R543); a part reset begins a new start whatever step runs, and a host-interface reset reaches the host interface alone
(R511, R536 to R538). -/

namespace Sys2Proof.Machine

/-! ### The commands that start-up serves -/

/-- The management cores of a powered part run from step 4 on. -/
theorem State.coresRun_of_startStep {s : State} (hon : s.power.supply ≠ .off) (hstep : 4 ≤ s.startStep.toNat) :
    s.coresRun = true := by
  have hlate : s.startStep.toNat > 3 := hstep
  simp [State.coresRun, hon, hlate]

/-- Start-up (PSTATE 0) turns away every family but 0x01 and 0x0A with BUSY (R543). -/
theorem State.modeAnswer_of_startup {s : State} (hmode : s.pstate = 0) {op : W16} (h01 : family op ≠ 0x01)
    (h0A : family op ≠ 0x0A) : s.modeAnswer op = some stBusy := by
  simp [State.modeAnswer, hmode, h01, h0A]

/-- Start-up serves families 0x01 and 0x0A (R543). -/
theorem State.modeAnswer_of_startup_family {s : State} (hmode : s.pstate = 0) {op : W16}
    (hfam : family op = 0x01 ∨ family op = 0x0A) : s.modeAnswer op = none := by
  simp [State.modeAnswer, hmode, hfam]

/-! ### The resets -/

/-- The ports depart one by one, and each departure changes what was sent and the fabric alone. -/
theorem State.departPorts_frame (s : State) :
    s.departPorts = { s with sent := s.departPorts.sent, fab := s.departPorts.fab } := by
  unfold State.departPorts
  refine List.foldlRecOn (motive := fun u : State => u = { s with sent := u.sent, fab := u.fab }) _ _ rfl ?_
  intro u hu n _
  split
  case isTrue =>
    rw [hu]
    rfl
  case isFalse => exact hu

@[simp] theorem State.departPorts_startNo (s : State) : s.departPorts.startNo = s.startNo := by
  rw [s.departPorts_frame]

/-- The count of starts outlives the loss of the part's state (R138). -/
@[simp] theorem State.wiped_startNo (s : State) : s.wiped.startNo = s.startNo := rfl

@[simp] theorem State.startOver_pstate (s : State) (cause : Byte) : (s.startOver cause).pstate = 0 := rfl
@[simp] theorem State.startOver_startStep (s : State) (cause : Byte) : (s.startOver cause).startStep = 1 := rfl
@[simp] theorem State.startOver_cause (s : State) (cause : Byte) : (s.startOver cause).boot.cause = cause := rfl

/-- Every start has the next number (R138). -/
@[simp] theorem State.startOver_startNo (s : State) (cause : Byte) : (s.startOver cause).startNo = s.startNo + 1 := by
  simp only [State.startOver, State.wiped_startNo, State.departPorts_startNo]

/-- The release of a part reset starts the part over with cause 2 and samples the straps, in any state but off (R536, R539). -/
theorem exec_partReset_of_powered {s : State} (hon : s.power.supply ≠ .off) (straps : Straps) :
    exec (.partReset straps) s = .next { s.startOver 2 with boot := { (s.startOver 2).boot with straps := straps } } := by
  calc exec (.partReset straps) s = execPartReset straps s := rfl
    _ = _ := by rw [execPartReset, if_neg hon]

/-- A host-interface reset writes the host interface alone; before step 2 there is none, and nothing changes (R511). -/
theorem exec_hostInterfaceReset_frame (kind : HostReset) (s : State) :
    ∃ v : HostIf, exec (.hostInterfaceReset kind) s = .next (s.setHost v) := by
  have hexec : exec (.hostInterfaceReset kind) s = execHostInterfaceReset kind s := rfl
  rw [hexec, execHostInterfaceReset]
  split
  case isTrue => exact ⟨s.host, rfl⟩
  case isFalse => exact ⟨_, rfl⟩

/-! ### The obligations -/

/-- Settles O21: the cores run, so a command answers by the part's mode, which turns it away or leaves it to its own rules. -/
theorem commandsDuringStartup : Obligations.CommandsDuringStartup := by
  unfold Obligations.CommandsDuringStartup
  intro op h c s nparams usesJob run hfind hlate hmode hon hstep
  have hrun : s.coresRun = true := State.coresRun_of_startStep (by simp [hon]) hstep
  refine ⟨fun h01 h0A => ?busy, fun hfam hhdr hhbm => ?served⟩
  case busy => exact command_of_modeAnswer hfind hrun hlate (State.modeAnswer_of_startup hmode h01 h0A) nparams usesJob run
  case served => exact command_runs ⟨hfind, hrun, hlate, State.modeAnswer_of_startup_family hmode hfam, hhdr, hhbm⟩ run

/-- Settles O52: a part reset is a start over, which the straps do not touch; a host-interface reset writes the host
interface alone. -/
theorem resetsDuringStartup : Obligations.ResetsDuringStartup := by
  unfold Obligations.ResetsDuringStartup
  intro s straps kind hmode hon
  refine ⟨?partReset, ?hostReset⟩
  case partReset =>
    exact ⟨_, exec_partReset_of_powered hon straps, s.startOver_pstate 2, s.startOver_startStep 2, s.startOver_cause 2,
      s.startOver_startNo 2⟩
  case hostReset =>
    obtain ⟨v, hexec⟩ := exec_hostInterfaceReset_frame kind s
    exact ⟨s.setHost v, hexec, hmode, s.setHost_startStep v, s.setHost_boot v, s.setHost_startNo v⟩

end Sys2Proof.Machine
end

section
/-! SUPPORT. Tally as a thread reads it: a privileged-class instruction with sound fields runs in a privileged thread (R113),
and TALLYRD then turns on whether its index names one of the 8,192 entries (R595, R597). -/

namespace Sys2Proof.Machine

section
variable {s : State} {t : ThreadRef} {th : Thread} {f : PrivF}

/-- Neither check of the privileged class stops a privileged thread whose instruction is sound (R113). -/
theorem issuePriv_runs {op : BitVec 6} {bad : Bool} (h : s.issues t (privWord op f) th) (hprv : th.prv = true)
    (hbad : bad = false) (run : Nat → Thread → State → State) :
    issuePriv op bad t f s run = .next (run (tkey t) th s) := by
  simp [issuePriv, issue_runs h, hprv, hbad]

/-- The address of entry `i` in the part's Tally window (Table 1.12, R595). -/
def State.tallyAddr (s : State) (i : W64) : W64 := BitVec.ofNat 64 (s.partNo * 2 ^ 44 + 0xF0000200000) + 8 * i

/-- A TALLYRD that runs traps past the last entry, and reads its entry otherwise (R597). -/
theorem exec_tallyrd (h : s.issues t (privWord 3 f) th) (hprv : th.prv = true)
    (hbad : privBad true false false false false f = false) :
    exec (.tallyrd t f) s
      = .next (if 8191 < (th.xr f.xa).toNat then s.trap (tkey t) .address (s.tallyAddr (th.xr f.xa)) (privWord 3 f)
        else s.retire (tkey t) (th.setX f.xd (s.tallyAt (th.xr f.xa).toNat))) := by
  calc exec (.tallyrd t f) s = execTallyrd t f s := rfl
    _ = _ := by
      rw [execTallyrd, issuePriv_runs h hprv hbad]
      rfl

end

/-- Settles O15: the two clauses are the two sides of TALLYRD's range check. -/
theorem tallyReadInstruction : Obligations.TallyReadInstruction := by
  unfold Obligations.TallyReadInstruction
  intro t f s th hprv hissues hsound
  refine ⟨fun hin => ?reads, fun hout => ?traps⟩
  case reads => rw [exec_tallyrd hissues hprv hsound, if_neg (Nat.not_lt.mpr hin)]
  case traps =>
    rw [exec_tallyrd hissues hprv hsound, if_pos hout]
    rfl

end Sys2Proof.Machine
end

section
/-! SUPPORT. Every operation keeps the byte stores canonical: what writes no store keeps them as they are, and each of the few
writers keeps the form. One lemma per operation, in the order of the model, so that a chain of operations is the chain of its lemmas. -/

namespace Sys2Proof.Machine

section
variable {s u : State}

/-! ### How updates combine -/

/-- An update that leaves the three stores alone keeps the form. -/
theorem State.storesWf.of_eq (h : s.storesWf) (hm : u.mem = s.mem) (hs : u.scratch = s.scratch) (ha : u.aisleMem = s.aisleMem) :
    u.storesWf := State.storesWf_of_eq h hm hs ha

theorem State.storesWf.ite {c : Prop} [Decidable c] (h : s.storesWf) (h1 : u.storesWf) : (if c then s else u).storesWf := by
  split
  · exact h
  · exact h1

theorem State.storesWf.foldl {α : Type} {f : State → α → State} {l : List α} (h : s.storesWf)
    (hf : ∀ (u : State) (a : α), u.storesWf → (f u a).storesWf) : (l.foldl f s).storesWf := storesWf_foldl l f hf s h

theorem State.storesWf.poke (h : s.storesWf) : (s.poke off bs).storesWf := storesWf_poke s off bs h
theorem State.storesWf.swrite (h : s.storesWf) : (s.swrite st sp a bs).storesWf := storesWf_swrite s st sp a bs h

theorem accBind_eq_ok {α β : Type} {a : Acc α} {f : α → Acc β} {b : β} :
    accBind a f = .ok b ↔ ∃ x, a = .ok x ∧ f x = .ok b := by
  cases a <;> simp [accBind]

theorem accMap_eq_ok {α β : Type} {a : Acc α} {f : α → β} {b : β} :
    accMap f a = .ok b ↔ ∃ x, a = .ok x ∧ f x = b := by
  cases a <;> simp [accMap]

/-! ### How commands combine -/

/-- The command goes on, and it goes from a canonical state to a canonical one. -/
def State.keepsWf (s : State) (o : Host.Outcome State Fault Refusal) : Prop := ∃ u, o = .next u ∧ (s.storesWf → u.storesWf)

theorem State.keepsWf.next (h : s.storesWf → u.storesWf) : s.keepsWf (.next u) := ⟨u, rfl, h⟩

theorem State.keepsWf.ite {o p : Host.Outcome State Fault Refusal} {c : Prop} [Decidable c] (h : s.keepsWf o) (h1 : s.keepsWf p) :
    s.keepsWf (if c then o else p) := by
  split
  · exact h
  · exact h1

/-! ### Of Machine/Ops -/

theorem State.storesWf.setHall (h : s.storesWf) : (s.setHall h1 v).storesWf := h
theorem State.storesWf.setAisle (h : s.storesWf) : (s.setAisle a v).storesWf := h
theorem State.storesWf.setStall (h : s.storesWf) : (s.setStall k v).storesWf := h
theorem State.storesWf.setThread (h : s.storesWf) : (s.setThread t v).storesWf := h
theorem State.storesWf.setGraph (h : s.storesWf) : (s.setGraph g v).storesWf := h
theorem State.storesWf.setStack (h : s.storesWf) : (s.setStack k v).storesWf := h
theorem State.storesWf.setBell (h : s.storesWf) : (s.setBell v).storesWf := h
theorem State.storesWf.setXlt (h : s.storesWf) : (s.setXlt v).storesWf := h
theorem State.storesWf.setHost (h : s.storesWf) : (s.setHost v).storesWf := h
theorem State.storesWf.setFab (h : s.storesWf) : (s.setFab v).storesWf := h
theorem State.storesWf.send (h : s.storesWf) : (s.send o).storesWf := h
theorem State.storesWf.tick (h : s.storesWf) : s.tick.storesWf := h
theorem State.storesWf.msix (h : s.storesWf) : (s.msix vec).storesWf := .ite h.setHost h.send
theorem State.storesWf.setErr (h : s.storesWf) : (s.setErr i).storesWf := .ite h.setHost h.setHost.msix
theorem State.storesWf.irqEntry (h : s.storesWf) : (s.irqEntry kind).storesWf := .ite h.setHost.msix h.setHost
theorem State.storesWf.writeEntry (h : s.storesWf) : (s.writeEntry kind body).storesWf := h.send.setHost.irqEntry

theorem State.storesWf.drainEvents (h : s.storesWf) : (Machine.drainEvents x s).storesWf := by
  induction x generalizing s with
  | zero =>
    rw [Machine.drainEvents]
    exact h
  | succ x ih =>
    rw [Machine.drainEvents]
    split
    · exact h
    · split
      · exact ih h.setHost.writeEntry
      · split
        · exact h
        · exact ih h.setHost.writeEntry

theorem State.storesWf.loseEntry (h : s.storesWf) : s.loseEntry.storesWf := h.setHost.setErr
theorem State.storesWf.post (h : s.storesWf) : (s.post kind tag rec1).storesWf :=
  .ite h.writeEntry (.ite h.setHost h.loseEntry.drainEvents)
theorem State.storesWf.raiseAlert (h : s.storesWf) : (s.raiseAlert n).storesWf := .ite (.post (.ite (.send h) h)) h

theorem State.storesWf.counterAlert (h : s.storesWf) : (s.counterAlert n).storesWf := by
  unfold State.counterAlert
  split
  · exact .ite h.raiseAlert h
  · exact h

theorem State.storesWf.count (h : s.storesWf) : (s.count n unit k).storesWf := .ite h (.foldl h fun _ _ h => h.counterAlert)

theorem State.storesWf.gauge (h : s.storesWf) : (s.gauge n unit v).storesWf := h
theorem State.storesWf.setTraceHall (h : s.storesWf) : (s.setTraceHall h1 v).storesWf := h
theorem State.storesWf.tracePut (h : s.storesWf) : (s.tracePut c k trig b).storesWf := storesWf_tracePut s c k trig b h
theorem State.storesWf.traceRecord (h : s.storesWf) : (s.traceRecord c h1 trig b).storesWf :=
  .ite h (.ite h.setTraceHall.count (.ite h.setTraceHall h.setTraceHall.tracePut))

theorem State.storesWf.traceEvent (h : s.storesWf) : (s.traceEvent h1 ev unit data).storesWf := by
  unfold State.traceEvent
  split
  · exact h
  · exact .ite h.traceRecord h

theorem State.storesWf.traceStall (h : s.storesWf) : (s.traceStall k ev data).storesWf := h.traceEvent

theorem State.storesWf.traceTrigger (h : s.storesWf) : s.traceTrigger.storesWf := by
  unfold State.traceTrigger
  split
  · exact h
  · exact .ite h (.foldl h fun _ _ h => h.traceRecord)

theorem State.storesWf.traceFlush (h : s.storesWf) : s.traceFlush.storesWf := by
  unfold State.traceFlush
  split
  · exact h
  · exact h.foldl fun _ _ h => h.setTraceHall.foldl fun _ _ h => h.tracePut

theorem State.storesWf.fault (h : s.storesWf) : (s.fault r).storesWf :=
  .post (.setHost (.ite h.traceEvent.traceTrigger h.traceEvent))
theorem State.storesWf.partFault (h : s.storesWf) : (s.partFault cls utype action lunit tags detail).storesWf := h.fault
theorem State.storesWf.hallFault (h : s.storesWf) : (s.hallFault h1 cls utype action lunit tags detail).storesWf := h.fault
theorem State.storesWf.stallFault (h : s.storesWf) : (s.stallFault st cls action tags detail).storesWf := h.fault
theorem State.storesWf.aisleFault (h : s.storesWf) : (s.aisleFault a cls action tags detail).storesWf := h.fault
theorem State.storesWf.reply (h : s.storesWf) : (s.reply c status results).storesWf :=
  .ite h.setHost.loseEntry (.ite h.setHost.writeEntry h.setHost.setHost)
theorem State.storesWf.replyWaiting (h : s.storesWf) : (s.replyWaiting w status results).storesWf := h.foldl fun _ _ h => h.reply

/-! ### Of Machine/Link -/

theorem State.storesWf.modPort (h : s.storesWf) : (s.modPort n f).storesWf := h.setFab

theorem State.storesWf.sendFrom (h : s.storesWf) : (s.sendFrom n i).storesWf := by
  unfold State.sendFrom
  extract_lets
  split
  · exact h
  · exact h.modPort.send

theorem State.storesWf.pumpPort (h : s.storesWf) : (Machine.pumpPort n x s).storesWf := by
  induction x generalizing n s with
  | zero =>
    rw [Machine.pumpPort]
    exact h
  | succ x ih =>
    rw [Machine.pumpPort]
    split
    · exact h
    · split
      · exact ih h.sendFrom
      · exact h

theorem State.storesWf.enqueue (h : s.storesWf) : (s.enqueue input p n other).storesWf := h.modPort.pumpPort

theorem State.storesWf.of_nextSeq (h : s.storesWf) (e : s.nextSeq dst = (r1, u)) : u.storesWf := by
  unfold State.nextSeq at e
  dsimp only at e
  cases e
  exact h.setFab

theorem State.storesWf.of_response (h : s.storesWf) (e : s.response dst rid status tags data = (r1, u)) : u.storesWf := by
  unfold State.response at e
  split at e
  · cases e
    exact h.of_nextSeq ‹_›

theorem State.storesWf.turnAway (h : s.storesWf) : (s.turnAway p st).storesWf := by
  unfold State.turnAway
  extract_lets
  split
  · exact h.setFab
  · split
    · split
      · split
        · exact (h.of_response ‹_›).enqueue
      · exact h
    · exact h

theorem State.storesWf.transmit (h : s.storesWf) : (s.transmit input p).storesWf := by
  unfold State.transmit
  extract_lets
  split
  · exact h.turnAway
  · split
    · exact h.partFault.turnAway
    · exact h.enqueue

theorem State.storesWf.request (h : s.storesWf) : (s.request p owner).storesWf := by
  unfold State.request
  split
  · exact h.setFab
  · split
    · exact ((h.of_nextSeq ‹_›).setFab).transmit

theorem State.storesWf.sendReg (h : s.storesWf) : (s.sendReg part index target cmp1 timeout waiter).storesWf := by
  unfold State.sendReg
  split
  · exact (h.of_nextSeq ‹_›).transmit

theorem State.storesWf.unregister (h : s.storesWf) : (s.unregister part index waiter id1).storesWf := .ite h h.sendReg

/-! ### Of Machine/Access -/

theorem State.storesWf.tillPost (h : s.storesWf) : (s.tillPost p).storesWf := .ite h h

theorem State.storesWf.put (h : s.storesWf) : (s.put off bs who).storesWf := .ite h.tillPost h.poke

theorem State.storesWf.of_writePieces (h : s.storesWf) (e : s.writePieces who x x1 = .ok (u, r1)) : u.storesWf := by
  induction x generalizing s who x1 u r1 with
  | nil =>
    rw [State.writePieces] at e
    cases e
    exact h
  | cons a x ih =>
    rw [State.writePieces] at e
    split at e
    · split at e
      · cases e
        exact ih h ‹_›
      · exact ih h ‹_›
    · split at e
      · cases e
      · exact ih h.put ‹_›

theorem State.storesWf.of_vwrite (h : s.storesWf) (e : s.vwrite job va bs who = .ok (u, r1)) : u.storesWf := by
  unfold State.vwrite at e
  split at e
  · exact h.of_writePieces ‹_›
  · cases e
  · cases e
  · cases e

theorem State.storesWf.of_raise (h : s.storesWf) (e : s.raise xlt1 unit job kind va lo size source = (r1, u)) : u.storesWf := by
  unfold State.raise at e
  split at e
  · cases e
    exact h
  · dsimp only at e
    cases e
    exact h.setXlt.post

theorem State.storesWf.accessFault (h : s.storesWf) : (s.accessFault h1 poison1 addr tags).storesWf :=
  .ite h.hallFault h.partFault
theorem State.storesWf.remoteWrite (h : s.storesWf) : (s.remoteWrite owner tags tagchk w).storesWf := h.request

theorem State.storesWf.remoteWrites (h : s.storesWf) : (s.remoteWrites owner tags tagchk x).storesWf := by
  induction x generalizing s owner tags tagchk with
  | nil =>
    rw [State.remoteWrites]
    exact h
  | cons a x ih =>
    rw [State.remoteWrites]
    exact ih (h.foldl fun _ _ h => h.remoteWrite)

theorem State.storesWf.remoteRead (h : s.storesWf) : (s.remoteRead owner tags tagchk pa len).storesWf := h.request

/-! ### Of Machine/LayoutSwitch -/

theorem State.storesWf.setLayouts (h : s.storesWf) : (s.setLayouts v).storesWf := h
theorem State.storesWf.leaveLayout (h : s.storesWf) : (s.leaveLayout job).storesWf := h.setLayouts

theorem State.storesWf.commitLayout (h : s.storesWf) : (s.commitLayout job e).storesWf := by
  unfold State.commitLayout
  extract_lets _ s1 s2
  have h1 : s1.storesWf := h.leaveLayout.setLayouts
  clear_value s1
  have h2 : s2.storesWf := h1
  clear_value s2
  refine State.storesWf.foldl ?_ fun s _ h => ?_
  · exact h2
  · split
    · exact .ite h.setGraph h
    · exact h

theorem State.storesWf.abortLayout (h : s.storesWf) : (s.abortLayout job status results).storesWf :=
  h.leaveLayout.send.setLayouts.replyWaiting

theorem State.storesWf.layoutReadyFrom (h : s.storesWf) : (s.layoutReadyFrom job part).storesWf := by
  unfold State.layoutReadyFrom
  split
  · exact h
  · exact .ite h.setLayouts.send.commitLayout.replyWaiting h.setLayouts

theorem State.storesWf.checkLayouts (h : s.storesWf) : s.checkLayouts.storesWf :=
  h.foldl fun _ _ h => .ite h.setLayouts.layoutReadyFrom h.setLayouts.send
theorem State.storesWf.prepareLayout (h : s.storesWf) : (s.prepareLayout coord job e).storesWf := h.setLayouts.checkLayouts
theorem State.storesWf.loseLayouts (h : s.storesWf) : (s.loseLayouts part).storesWf :=
  .setLayouts (h.foldl fun _ _ h => h.abortLayout)

/-! ### Of Machine/WeightState -/

theorem State.storesWf.setWeights (h : s.storesWf) : (s.setWeights v).storesWf := h
theorem State.storesWf.freeCopies (h : s.storesWf) : (s.freeCopies job).storesWf := h.setWeights
theorem State.storesWf.setEpoch (h : s.storesWf) : (s.setEpoch job e).storesWf := .freeCopies (.setWeights h)

theorem State.storesWf.graphGone (h : s.storesWf) : (s.graphGone job).storesWf := by
  unfold State.graphGone
  split
  · exact .ite h.freeCopies h.setEpoch
  · exact h.freeCopies

/-! ### Of Machine/Tasks -/

theorem State.storesWf.modGraph (h : s.storesWf) : (s.modGraph g f).storesWf := by
  unfold State.modGraph
  split
  · exact h.setGraph
  · exact h

theorem State.storesWf.modTask (h : s.storesWf) : (s.modTask g t f).storesWf := h.modGraph

theorem State.storesWf.modThread (h : s.storesWf) : (s.modThread t f).storesWf := by
  unfold State.modThread
  split
  · exact h.setThread
  · exact h

theorem State.storesWf.modStall (h : s.storesWf) : (s.modStall k f).storesWf := h.setStall

theorem State.storesWf.graphEvent (h : s.storesWf) : (s.graphEvent g event status arg).storesWf := by
  unfold State.graphEvent
  split
  · exact h
  · exact h.post

theorem State.storesWf.dropWatches (h : s.storesWf) : (s.dropWatches p).storesWf := h.setBell

theorem State.storesWf.dropGate (h : s.storesWf) : (s.dropGate g t).storesWf := by
  unfold State.dropGate
  split
  · exact .ite h.dropWatches.unregister h.dropWatches
  · exact h

theorem State.storesWf.dropGates (h : s.storesWf) : (s.dropGates g ts).storesWf := h.foldl fun _ _ h => h.dropGate
theorem State.storesWf.finishInvalidates (h : s.storesWf) : s.finishInvalidates.storesWf := h.foldl fun _ _ h => h.reply
theorem State.storesWf.unpin (h : s.storesWf) : (s.unpin p).storesWf := h.setXlt.finishInvalidates

theorem State.storesWf.abortCapture (h : s.storesWf) : (s.abortCapture g).storesWf := by
  unfold State.abortCapture
  refine State.storesWf.foldl ?_ fun s _ h => ?_
  · exact h
  · split
    · exact .ite (.of_eq h.poke rfl rfl rfl) h
    · exact h

theorem State.storesWf.endReplay (h : s.storesWf) : (s.endReplay g c).storesWf := by
  unfold State.endReplay
  split
  · exact h
  · exact .replyWaiting h

theorem State.storesWf.finishAllocFrees (h : s.storesWf) : s.finishAllocFrees.storesWf := h.foldl fun _ _ h => h.reply

theorem State.storesWf.endGraph (h : s.storesWf) : (s.endGraph g c).storesWf := by
  unfold State.endGraph
  split
  · exact h
  · exact .replyWaiting (.checkLayouts (.graphGone (.graphEvent (.endReplay (.abortCapture (.unpin (.of_eq h.setGraph.dropGates.finishAllocFrees rfl rfl rfl)))))))

theorem State.storesWf.settle (h : s.storesWf) : (s.settle g).storesWf := by
  unfold State.settle
  split
  · exact .ite h.endGraph h
  · exact h

theorem State.storesWf.failGraph (h : s.storesWf) : (s.failGraph g status param).storesWf := by
  unfold State.failGraph
  split
  · exact .ite h h.setGraph.settle
  · exact h

theorem State.storesWf.orphan (h : s.storesWf) : (s.orphan keys).storesWf := by
  unfold State.orphan
  extract_lets _ s1
  have h1 : s1.storesWf := h.setFab
  clear_value s1
  exact h1

theorem State.storesWf.dropWait (h : s.storesWf) : (s.dropWait k th).storesWf := by
  unfold State.dropWait
  extract_lets s1
  have h1 : s1.storesWf := h.dropWatches
  clear_value s1
  split
  · exact h1.unregister
  · exact h1.unregister
  · exact h1

theorem State.storesWf.freeContextsOf (h : s.storesWf) : (s.freeContextsOf l).storesWf :=
  .orphan (.of_eq (h.foldl fun _ _ h => h.dropWait) rfl rfl rfl)
theorem State.storesWf.freeThreads (h : s.storesWf) : (s.freeThreads g t).storesWf := h.freeContextsOf
theorem State.storesWf.stopThreads (h : s.storesWf) : (s.stopThreads g t).storesWf :=
  h.freeContextsOf.foldl fun _ _ h => h.dropWait.setThread

theorem State.storesWf.reap (h : s.storesWf) : (s.reap k).storesWf := by
  unfold State.reap
  split
  · exact .ite h.freeContextsOf.finishAllocFrees.settle h
  · exact h

theorem State.storesWf.releaseHeld (h : s.storesWf) : (s.releaseHeld st p).storesWf := h

theorem State.storesWf.freeSlots (h : s.storesWf) : (s.freeSlots g t).storesWf := by
  unfold State.freeSlots
  split
  · exact h
  · exact .ite h.modStall h.modStall.releaseHeld

theorem State.storesWf.freeTask (h : s.storesWf) : (s.freeTask g t).storesWf := h.freeThreads.finishAllocFrees.freeSlots
theorem State.storesWf.trapThread (h : s.storesWf) : (s.trapThread k th cause detail insn).storesWf :=
  h.modStall.stallFault.traceStall.count.stopThreads.finishAllocFrees.freeSlots.modTask.failGraph

theorem State.storesWf.trap (h : s.storesWf) : (s.trap k cause detail insn).storesWf := by
  unfold State.trap
  split
  · exact h
  · exact h.trapThread

/-! ### Of Machine/SaveArea -/

theorem State.storesWf.of_beginSave (h : s.storesWf) (e : s.beginSave g t cause fid = some u) : u.storesWf := by
  unfold State.beginSave at e
  split at e
  · cases e
  · obtain ⟨off, -, rfl⟩ := Option.map_eq_some_iff.mp e
    exact h.modTask

theorem State.storesWf.getD {o : Option State} (h : s.storesWf) (ho : ∀ u, o = some u → u.storesWf) : (o.getD s).storesWf := by
  cases o with
  | none => exact h
  | some t => exact ho t rfl

theorem State.storesWf.threadFault (h : s.storesWf) : (s.threadFault k th kind va lo size).storesWf := by
  unfold State.threadFault
  split
  have h1 := (h.of_raise ‹_›).setThread (t := k) (v := some { th with status := .fault ‹Nat› })
  dsimp only
  split
  · exact h1
  · exact h1.getD fun _ e => h1.of_beginSave e

/-! ### Of Machine/Issue -/

theorem State.storesWf.fetchAway (h : s.storesWf) : (s.fetchAway k th pa).storesWf := h.setThread.remoteRead

theorem State.keepsWf.issue {f : Nat → Thread → State → State} (hf : ∀ k th, s.storesWf → (f k th s).storesWf) :
    s.keepsWf (issue t word s f) := by
  unfold Machine.issue
  split
  · refine .ite ?_ (.next id)
    split
    · exact .ite (.next (hf _ _)) (.ite (.next id) (.next fun h => h.trap))
    · exact .next fun h => h.fetchAway
    · exact .next fun h => h.threadFault
    · exact .next fun h => h.accessFault.trap
  · exact .next id

theorem State.storesWf.retire (h : s.storesWf) : (s.retire k th).storesWf := h.setThread.tick
theorem State.storesWf.retireTo (h : s.storesWf) : (s.retireTo k th pc).storesWf := h.setThread.tick
theorem State.storesWf.touch (h : s.storesWf) : (s.touch g t lo hi).storesWf := h.modTask
theorem State.storesWf.hold (h : s.storesWf) : (s.hold k th w).storesWf := h.setThread

theorem State.storesWf.unlessHeld (h : s.storesWf) (h1 : u.storesWf) : (s.unlessHeld k th reads writes u).storesWf := by
  unfold State.unlessHeld
  split
  · exact h.hold
  · exact h1

/-! ### Of Machine/Elem -/

theorem State.storesWf.swriteBits (h : s.storesWf) : (s.swriteBits st space1 bit1 w v).storesWf := h.swrite
theorem State.storesWf.setFlag (h : s.storesWf) : (s.setFlag st d blk v).storesWf := h.swriteBits
theorem State.storesWf.writeRaw (h : s.storesWf) : (s.writeRaw st d idx raw).storesWf := .ite h h.swriteBits
theorem State.storesWf.writeConv (h : s.storesWf) : (s.writeConv st d idx c).storesWf :=
  .ite h (.ite (.count (.ite (.swrite (.ite h.swriteBits.setFlag h.swriteBits)) (.ite h.swriteBits.setFlag h.swriteBits))) (.ite (.swrite (.ite h.swriteBits.setFlag h.swriteBits)) (.ite h.swriteBits.setFlag h.swriteBits)))
theorem State.storesWf.writeVal (h : s.storesWf) : (s.writeVal st d idx v).storesWf := h.writeConv

/-! ### Of Machine/Chain -/

theorem State.storesWf.writeSliceWord (h : s.storesWf) : (s.writeSliceWord st d i w).storesWf := h.foldl fun _ _ h => h.writeRaw

theorem State.storesWf.writeLane {w : State → State} (h : s.storesWf) (hw : ∀ u : State, u.storesWf → (w u).storesWf) :
    (s.writeLane st d e i w).storesWf := by
  unfold State.writeLane
  split
  · exact .ite h (.ite h.writeSliceWord h.writeRaw)
  · exact hw s h

theorem State.storesWf.directOut (h : s.storesWf) : (s.directOut st d i srcSlice ex v).storesWf := by
  unfold State.directOut
  split
  · split
    · exact .ite h.writeSliceWord.count h.writeSliceWord
  · exact h.writeVal

theorem State.storesWf.group (h : s.storesWf) : (PassOps.group p x ra rb src s idx base g).storesWf := by
  unfold PassOps.group
  split
  · exact h.foldl fun _ _ h => h.writeLane fun _ h => h.directOut
  · exact h.foldl fun _ _ h => h.count.writeLane fun _ h => .ite h.writeRaw h.writeVal

theorem State.storesWf.writeResult (h : s.storesWf) : (Machine.PassOps.writeResult p ex row i v s).storesWf :=
  .ite h.directOut h.writeVal

theorem State.storesWf.row (h : s.storesWf) : (PassOps.row p x n s idx).storesWf := by
  unfold PassOps.row
  extract_lets base g groups
  split
  split
  · extract_lets s1
    have h1 : s1.storesWf := h.count.writeResult
    exact .ite h1.writeResult h1
  · exact .ite (h.foldl fun _ _ h => h.group) (h.foldl fun _ _ h => h.group)

theorem State.storesWf.run (h : s.storesWf) : (Machine.PassOps.run p e n s).storesWf := h.foldl fun _ _ h => h.row

/-! ### Of Machine/Use -/

theorem State.storesWf.touchRuns (h : s.storesWf) : (s.touchRuns g t rs).storesWf := h.foldl fun _ _ h => .ite h.touch h

theorem State.keepsWf.execPass : s.keepsWf (Machine.execPass t f s) := by
  unfold Machine.execPass
  refine .issue fun k th h => ?_
  split
  · exact h.trap
  · exact h.unlessHeld h.run.touchRuns.retire

theorem State.storesWf.closeSlot (h : s.storesWf) : (Machine.closeSlot s k th f x).storesWf := by
  unfold Machine.closeSlot
  extract_lets
  split
  · exact h.modStall.touchRuns.retire

theorem State.storesWf.mmaEffect (h : s.storesWf) : (Machine.mmaEffect op f k th s).storesWf := by
  unfold Machine.mmaEffect
  extract_lets
  split
  · split
    · exact .ite h.setStall.touchRuns.closeSlot h.setStall.touchRuns.retire

theorem State.storesWf.trapExhausted (h : s.storesWf) : (s.trapExhausted st).storesWf := by
  unfold State.trapExhausted
  refine State.storesWf.foldl ?_ fun s _ h => ?_
  · exact h
  · split
    · exact h
    · split
      · split
        · exact .ite h.trap h
        · exact h
      · exact h

theorem State.storesWf.runMma (h : s.storesWf) : (Machine.runMma op f k th s).storesWf := by
  unfold Machine.runMma
  extract_lets
  split
  · exact h.trap
  · split
    · exact h.hold
    · split
      · exact h.unlessHeld h.closeSlot
      · exact .ite (.ite h.trap h.setThread) (h.unlessHeld h.mmaEffect.trapExhausted)

theorem State.keepsWf.execMma : s.keepsWf (Machine.execMma t f s) := .issue (fun _ _ h => h.runMma)
theorem State.keepsWf.execMmaTa : s.keepsWf (Machine.execMmaTa t f s) := .issue (fun _ _ h => h.runMma)
theorem State.keepsWf.execMmaTb : s.keepsWf (Machine.execMmaTb t f s) := .issue (fun _ _ h => h.runMma)

theorem State.keepsWf.execSlotBeginGrant : s.keepsWf (Machine.execSlotBeginGrant t s) := by
  unfold Machine.execSlotBeginGrant
  split
  · split
    · exact .ite (.next fun h => h.runMma) (.next id)
    · exact .next id
  · exact .next id

/-! ### Of Machine/Epochs -/

theorem State.storesWf.reachEpoch (h : s.storesWf) : (s.reachEpoch job step1 m).storesWf := by
  unfold State.reachEpoch
  split
  · exact .ite h h.setEpoch
  · exact h

theorem State.storesWf.sendAdmit (h : s.storesWf) : (s.sendAdmit g m).storesWf := by
  unfold State.sendAdmit
  split
  · exact h
  · exact .ite h.setGraph.send h

theorem State.storesWf.stampMb (h : s.storesWf) : (s.stampMb g m).storesWf := by
  unfold State.stampMb
  extract_lets s1
  have h1 : s1.storesWf := h.sendAdmit
  clear_value s1
  split
  · exact h1
  · exact h1.setGraph.reachEpoch

theorem State.storesWf.admitEmpty (h : s.storesWf) : (Machine.admitEmpty g x s).storesWf := by
  induction x generalizing g s with
  | zero =>
    rw [Machine.admitEmpty]
    exact h
  | succ x ih =>
    rw [Machine.admitEmpty]
    split
    · exact h
    · split
      · exact h
      · exact .ite h (ih h.stampMb)

theorem State.storesWf.stampReady (h : s.storesWf) : (s.stampReady g t).storesWf := by
  unfold State.stampReady
  split
  · exact .ite (.ite h.modTask h) (.ite h.stampMb.admitEmpty h)
  · exact h

/-! ### Of Machine/Ready -/

theorem State.storesWf.setLendable (h : s.storesWf) : (s.setLendable h1 v).storesWf := by
  unfold State.setLendable
  split
  · extract_lets _ s1
    have h1 : s1.storesWf := h.setBell
    clear_value s1
    exact .ite h1 h1
  · exact h

theorem State.storesWf.updateLend (h : s.storesWf) : (s.updateLend h1).storesWf := h.setLendable
theorem State.storesWf.tickLc (h : s.storesWf) : s.tickLc.storesWf := .of_eq (h.foldl fun _ _ h => .ite h.setHall h) rfl rfl rfl
theorem State.storesWf.idle (h : s.storesWf) : s.idle.storesWf := h.tickLc.foldl fun _ _ h => .ite h.updateLend h

theorem State.storesWf.makeReady (h : s.storesWf) : (s.makeReady g t ahead).storesWf := by
  unfold State.makeReady
  split
  · exact h
  · split
    · exact h.modTask.failGraph
    · dsimp only
      split
      · exact .ite h.modTask.tick.updateLend h.modTask.tick
      · exact h.modTask.tick

theorem State.storesWf.pastGate (h : s.storesWf) : (s.pastGate g t).storesWf := by
  unfold State.pastGate
  split
  · exact .ite h.modTask (.ite h.modTask h.stampReady.makeReady)
  · exact h

theorem State.storesWf.acceptReg (h : s.storesWf) : (s.acceptReg w free).storesWf :=
  .ite h.setBell (.ite h.setBell.traceEvent (.ite h.setBell h.setBell.count))
theorem State.storesWf.register (h : s.storesWf) : (s.register w).storesWf := .ite h.setBell.count h.acceptReg

theorem State.storesWf.of_newWatch (h : s.storesWf) (e : s.newWatch = (r1, u)) : u.storesWf := by
  unfold State.newWatch at e
  cases e
  exact h.setBell

theorem State.storesWf.registerAt (h : s.storesWf) : (s.registerAt part index target cmp1 timeout waiter).storesWf := by
  unfold State.registerAt
  split
  · exact .ite ((h.of_newWatch ‹_›).register) ((h.of_newWatch ‹_›).sendReg)

theorem State.storesWf.predsDone (h : s.storesWf) : (s.predsDone g t).storesWf := by
  unfold State.predsDone
  split
  · exact h
  · exact .ite (.ite h.modTask.registerAt h.accessFault.modTask.failGraph) h.pastGate

/-! ### Of Machine/DrainOps -/

theorem State.storesWf.tryEnd (h : s.storesWf) : (s.tryEnd k).storesWf := by
  unfold State.tryEnd
  split
  · exact .ite (.ite h.setThread.modTask h.setThread) h
  · exact h

theorem State.storesWf.wakeFence (h : s.storesWf) : (s.wakeFence k).storesWf := by
  unfold State.wakeFence
  split
  · exact h
  · split
    · split
      · exact h.setThread
      · exact h.setThread
      · exact h
    · exact h

theorem State.storesWf.wake (h : s.storesWf) : (s.wake k).storesWf := h.wakeFence.tryEnd.reap

theorem State.keepsWf.execEndI : s.keepsWf (Machine.execEndI t f s) := by
  unfold Machine.execEndI
  refine .issue fun k th h => ?_
  split
  · exact h.trap
  · split
    · exact h.trap
    · exact h.setThread.tick.tryEnd

theorem State.storesWf.drainRaw (h : s.storesWf) : (Machine.drainRaw s st d).storesWf := h.foldl fun _ _ h => h.writeRaw

theorem State.storesWf.drainChain (h : s.storesWf) : (Machine.drainChain s st d).storesWf := by
  unfold Machine.drainChain
  extract_lets
  refine State.storesWf.foldl ?_ fun s _ h => ?_
  · exact h
  · split
    · exact h.foldl fun _ _ h => .ite h.directOut h.writeVal
    · extract_lets
      split
      · exact h.foldl fun _ _ h => .ite h.count.writeRaw h.count.writeVal

theorem State.storesWf.xchkCount (h : s.storesWf) : (s.xchkCount job f).storesWf := h

theorem State.storesWf.writeCheckEntry (h : s.storesWf) : (Machine.writeCheckEntry s st d j i).storesWf := by
  unfold Machine.writeCheckEntry
  extract_lets _ x va r bytes ts s1
  have h1 : s1.storesWf := h.xchkCount
  clear_value s1
  split
  · extract_lets s2 _ s3
    have h2 : s2.storesWf := (h.of_vwrite ‹_›).remoteWrites
    clear_value s2
    have h3 : s3.storesWf := h2
    clear_value s3
    split
    · exact h3
    · exact h3.setGraph.makeReady
  · exact h1.count.accessFault

theorem State.storesWf.finishDrain (h : s.storesWf) : (Machine.finishDrain s st d).storesWf := h.modStall.releaseHeld.wake

/-- What a saturated drain counts. -/
theorem State.storesWf.countSat {d : Drain} (h : s.storesWf) :
    (if d.slot.kind = .i32 then s.count .int32Saturated k d.slot.sat.length
      else if d.slot.kind.isInt then s.count .exactSaturated k d.slot.sat.length else s).storesWf :=
  .ite h.count (.ite h.count h)

theorem State.keepsWf.execDrainComplete : s.keepsWf (Machine.execDrainComplete st s) := by
  unfold Machine.execDrainComplete
  extract_lets k
  split
  · exact .next id
  next d _ _ =>
    refine .ite (.next id) ?_
    dsimp only
    split
    · exact .next id
    · refine .next fun h => .finishDrain ?_
      have h1 := State.storesWf.countSat (s := if d.mode = 1 then Machine.drainRaw s k d else Machine.drainChain s k d)
        (k := hallOf k) (d := d) (.ite h.drainRaw h.drainChain)
      split
      · exact h1
      · exact .ite h1.count.xchkCount.writeCheckEntry h1.count.xchkCount.count.xchkCount

theorem State.storesWf.splitkResult (h : s.storesWf) : (s.splitkResult k v).storesWf := h.modThread

theorem State.keepsWf.execSplitkGroupForm : s.keepsWf (Machine.execSplitkGroupForm k aisle1 slot nm1 job s) := by
  unfold Machine.execSplitkGroupForm
  extract_lets base sts ps slots ok s1 s2
  refine .ite (.next id) ?_
  have h1 (h : s.storesWf) : s1.storesWf := h.foldl fun _ _ h => h.modStall
  clear_value s1
  refine .ite (.next fun h => h.foldl fun _ _ h => h.splitkResult) (.next fun h => .foldl ?_ fun _ _ h => h.splitkResult)
  unfold s2
  split
  · exact (h1 h).modStall
  · exact h1 h

theorem State.keepsWf.execSplitkTimeout : s.keepsWf (Machine.execSplitkTimeout t s) := by
  unfold Machine.execSplitkTimeout
  split
  · split
    · exact .next fun h => h.splitkResult
    · exact .next id
  · exact .next id

theorem State.storesWf.setExact (h : s.storesWf) : (s.setExact k xd mode).storesWf := by
  unfold State.setExact
  split
  · exact h
  · exact h.modStall.setThread

theorem State.keepsWf.execXsliceModeSet : s.keepsWf (Machine.execXsliceModeSet t s) := by
  unfold Machine.execXsliceModeSet
  split
  · split
    · extract_lets
      split
      · exact .next id
      · split
        · exact .ite (.next fun h => h.setExact) (.next fun h => h.setThread)
        · exact .next fun h => h.setExact
    · exact .next id
  · exact .next id

/-! ### Of Machine/BellOps -/

theorem State.storesWf.bellFault (h : s.storesWf) : (s.bellFault i cls action detail).storesWf := .ite h.hallFault h.partFault
theorem State.storesWf.addCounter (h : s.storesWf) : (s.addCounter i inc).storesWf := .ite h.setBell.bellFault h.setBell
theorem State.storesWf.testWatches (h : s.storesWf) : (s.testWatches i).storesWf := h.setBell.foldl fun _ _ h => h.traceEvent
theorem State.storesWf.checkPair (h : s.storesWf) : (s.checkPair p i).storesWf := .ite h h.setBell.count.bellFault

theorem State.storesWf.checkPairs (h : s.storesWf) : (s.checkPairs changed).storesWf := by
  unfold State.checkPairs
  refine State.storesWf.foldl ?_ fun s _ h => ?_
  · exact h
  · split
    · exact h.checkPair
    · exact h

theorem State.storesWf.of_signal (h : s.storesWf) (e : s.signal i inc = some u) : u.storesWf := by
  unfold State.signal at e
  split at e
  · cases e
  · split at e
    · cases e
      exact h
    · dsimp only at e
      cases e
      exact .ite h.addCounter.testWatches h.addCounter.testWatches.checkPairs

theorem State.storesWf.signalLost (h : s.storesWf) : (s.signalLost part i).storesWf := h.accessFault
theorem State.storesWf.signalAt (h : s.storesWf) : (s.signalAt part i inc).storesWf :=
  .ite h.signalLost (.ite (h.signalLost.getD (fun _ _ => h.of_signal ‹_›)) h.request)

theorem State.storesWf.of_journalSignal (h : s.storesWf) (e : s.journalSignal g t part i inc = (r1, u)) : u.storesWf := by
  unfold State.journalSignal at e
  split at e
  · cases e
    exact h
  · dsimp only at e
    cases e
    exact h.modTask

theorem State.storesWf.startRelease (h : s.storesWf) : (s.startRelease b g).storesWf := .setBell (.ite h.send h)

theorem State.storesWf.of_enterBarrier (h : s.storesWf) (e : s.enterBarrier i remote = (r1, u)) : u.storesWf := by
  unfold State.enterBarrier at e
  split at e
  · cases e
    exact h
  · split at e
    · cases e
      exact h
    · dsimp only at e
      split at e
      · split at e
        · cases e
          exact h.bellFault
        · cases e
          exact .ite h.addCounter.testWatches.startRelease h.addCounter.testWatches
      · split at e
        · cases e
          exact h.bellFault
        · cases e
          exact .ite h.addCounter.testWatches.startRelease h.addCounter.testWatches

theorem State.storesWf.updateLends (h : s.storesWf) : s.updateLends.storesWf := h.foldl fun _ _ h => h.updateLend
theorem State.keepsWf.execBarrierRelease : s.keepsWf (Machine.execBarrierRelease part index gen s) :=
  .ite (.next id) (.ite (.next fun h => .setBell (.updateLends h)) (.next fun h => .send (.updateLends h)))

theorem State.keepsWf.execBarrierReleaseAck : s.keepsWf (Machine.execBarrierReleaseAck index s) := by
  unfold Machine.execBarrierReleaseAck
  split
  · exact .next id
  · split
    · exact .next id
    · exact .ite (.next id) (.ite (.next fun h => h.setBell) (.ite (.next fun h => h.setBell.startRelease) (.next fun h => h.setBell)))

theorem State.keepsWf.execSig : s.keepsWf (Machine.execSig t f s) := by
  unfold Machine.execSig
  refine .issue fun k th h => ?_
  split
  · extract_lets
    split
    · exact h.trap
    · split
      · exact h.hold
      · split
        · exact h.accessFault.trap
        · split
          · split
            · split
              · exact (h.of_journalSignal ‹_›).trap
              · exact ((h.of_journalSignal ‹_›).of_signal ‹_›).retire
            · exact (((h.of_journalSignal ‹_›).setThread).tick).request

theorem State.keepsWf.execWait : s.keepsWf (Machine.execWait t f s) := by
  unfold Machine.execWait
  refine .issue fun k th h => ?_
  split
  · exact .ite h.trap (.ite h.accessFault.trap h.setThread.tick.registerAt.updateLend)

theorem State.storesWf.journalBarrier (h : s.storesWf) : (s.journalBarrier th part i g).storesWf := h.modTask

theorem State.storesWf.awaitGen (h : s.storesWf) : (s.awaitGen k th xd part i gen insn).storesWf := by
  unfold State.awaitGen
  extract_lets s1
  have h1 : s1.storesWf := h.setThread
  clear_value s1
  split
  · split
    · exact h.trap
    · exact h1.registerAt
  · exact h1.registerAt

theorem State.keepsWf.execBarrier : s.keepsWf (Machine.execBarrier t f s) := by
  unfold Machine.execBarrier
  refine .issue fun k th h => ?_
  split
  · extract_lets
    split
    · exact h.trap
    · split
      · exact h.accessFault.trap
      · split
        · exact h.modTask.journalBarrier.tick.awaitGen.updateLend
        · split
          · split
            · exact (h.of_enterBarrier ‹_›).trap
            · exact (h.of_enterBarrier ‹_›).trap
            · exact ((((h.of_enterBarrier ‹_›).journalBarrier).setThread).tick).updateLend
          · exact h.setThread.tick.registerAt

theorem State.keepsWf.execWaittok : s.keepsWf (Machine.execWaittok t f s) :=
  .issue (fun _ _ h => .ite h.trap (.ite h.setThread.tick h.retire))

theorem State.keepsWf.execFence : s.keepsWf (Machine.execFence t f s) := by
  unfold Machine.execFence
  refine .issue fun k th h => ?_
  split
  · exact h.trap
  · split
    · exact h.retire
    · exact h.setThread.tick

theorem State.keepsWf.execYield : s.keepsWf (Machine.execYield t f s) := .issue (fun _ _ h => .ite h.trap h.setThread.tick)

/-! ### Of Machine/Land -/

theorem State.storesWf.noteSeq (h : s.storesWf) : (s.noteSeq src seq).storesWf := h.setFab
theorem State.storesWf.countDrop (h : s.storesWf) : s.countDrop.storesWf := h.count

theorem State.storesWf.respond (h : s.storesWf) : (s.respond dst rid status tags data).storesWf := by
  unfold State.respond
  split
  · exact (h.of_response ‹_›).transmit

theorem State.storesWf.dropPacket (h : s.storesWf) : (s.dropPacket p).storesWf :=
  .ite h.countDrop.partFault.respond h.countDrop.partFault

/-! ### Of Machine/BellEvents -/

theorem State.keepsWf.execBellSig : s.keepsWf (Machine.execBellSig src index inc seq rid again s) := by
  unfold Machine.execBellSig
  refine .ite (.next fun h => h.countDrop) (.next fun h => ?_)
  have h1 : (if src.val = s.partNo then s else s.noteSeq src.val seq).storesWf := .ite h h.noteSeq
  split
  · exact .ite (h1.of_signal ‹_›) (h1.of_signal ‹_›).respond
  · exact .ite h1 h1.respond

theorem State.storesWf.answerEntry (h : s.storesWf) : (s.answerEntry src index waiter e).storesWf := by
  unfold State.answerEntry
  split
  · exact h.setBell

theorem State.storesWf.withdraw (h : s.storesWf) : (s.withdraw src index waiter).storesWf := h.setBell

theorem State.storesWf.awaitRemote (h : s.storesWf) : (s.awaitRemote src index gen waiter).storesWf := by
  unfold State.awaitRemote
  split
  · exact h.answerEntry
  · split
    · exact (h.of_newWatch ‹_›).register

theorem State.keepsWf.execBellReg : s.keepsWf (Machine.execBellReg src index target cmp1 timeout waiter s) := by
  unfold Machine.execBellReg
  split
  · split
    · exact .next fun h => h.withdraw
    · split
      · exact .next fun h => h.awaitRemote
      · split
        · exact .next fun h => (h.of_enterBarrier ‹_›).answerEntry
  · split
    · exact .next fun h => (h.of_newWatch ‹_›).register

theorem State.storesWf.completeWatch (h : s.storesWf) : (s.completeWatch exp w).storesWf :=
  .ite (.ite h.setBell.setBell.traceEvent.count h.setBell.setBell.traceEvent) h.setBell.setBell
theorem State.storesWf.endArbitration (h : s.storesWf) : (s.endArbitration changed exp).storesWf :=
  .checkPairs (h.foldl fun _ _ h => h.completeWatch)

theorem State.storesWf.applySignals (h : s.storesWf) : (Machine.applySignals x s).storesWf := by
  induction x generalizing s with
  | nil =>
    rw [Machine.applySignals]
    exact h
  | cons a x ih =>
    rw [Machine.applySignals]
    exact ih (.ite h h.addCounter)

theorem State.keepsWf.execWatchTimeout : s.keepsWf (Machine.execWatchTimeout watch also s) := by
  unfold Machine.execWatchTimeout
  split
  · exact .next id
  · exact .ite (.next id) (.next fun h => h.applySignals.endArbitration)

theorem State.keepsWf.execWatchTableFree : s.keepsWf (Machine.execWatchTableFree home s) := by
  unfold Machine.execWatchTableFree
  split
  · exact .next id
  · exact .ite (.next fun h => h.setBell.acceptReg) (.next id)

theorem State.keepsWf.execBellWindowWrite : s.keepsWf (Machine.execBellWindowWrite src off size v s) := by
  unfold Machine.execBellWindowWrite
  extract_lets
  split
  · exact .next fun h => h.accessFault
  · split
    · exact .next fun h => h.of_signal ‹_›
    · exact .next fun h => h.accessFault

theorem State.storesWf.noteWait (h : s.storesWf) : (s.noteWait h1 part i d).storesWf := h.setBell

theorem State.storesWf.wakeThread (h : s.storesWf) : (s.wakeThread k m).storesWf := by
  unfold State.wakeThread
  split
  · exact h
  · split
    · exact h
    · extract_lets _ adr lost s1
      have h1 : s1.storesWf := h.setLendable
      clear_value s1
      split
      · split
        · exact h1.accessFault.trap
        · exact h1.noteWait.setThread
      · split
        · exact h1.accessFault.trap
        · exact h1.setThread
      · split
        · exact .ite h.journalBarrier.setThread h.journalBarrier.setThread.updateLend
        · exact h.trap
        · exact h.accessFault.trap
      · exact h

theorem State.storesWf.gateDone (h : s.storesWf) : (s.gateDone g t o own).storesWf := by
  unfold State.gateDone
  split
  · exact h
  · exact .ite (.ite h.modTask.failGraph h.pastGate) h

theorem State.storesWf.deliver (h : s.storesWf) : (s.deliver m).storesWf := by
  unfold State.deliver
  split
  · exact h.wakeThread
  · exact h.gateDone
  · exact .ite h.post (.ite h.setBell.post h)
  · split
    · exact (h.of_nextSeq ‹_›).transmit

theorem State.keepsWf.execBellMsg : s.keepsWf (Machine.execBellMsg m s) := by
  unfold Machine.execBellMsg
  split
  · exact .ite (.next fun h => h.setBell.deliver) (.next id)
  · split
    · exact .next id
    · exact .next fun h => h.deliver

theorem State.keepsWf.execGateHeld : s.keepsWf (Machine.execGateHeld graph1 task1 s) := by
  unfold Machine.execGateHeld
  split
  · exact .next id
  · split
    · split
      · exact .next fun h => h.setBell.deliver
      · exact .next id
    · exact .next fun h => h.gateDone

/-! ### Of Machine/Scalar -/

theorem State.keepsWf.scalarOp : s.keepsWf (scalarOp code op t f s) :=
  .issue fun _ _ h => .ite h.trap h.retire
theorem State.keepsWf.execAdd : s.keepsWf (Machine.execAdd t f s) := .scalarOp
theorem State.keepsWf.execSub : s.keepsWf (Machine.execSub t f s) := .scalarOp
theorem State.keepsWf.execMul : s.keepsWf (Machine.execMul t f s) := .scalarOp
theorem State.keepsWf.execMulhu : s.keepsWf (Machine.execMulhu t f s) := .scalarOp
theorem State.keepsWf.execAnd : s.keepsWf (Machine.execAnd t f s) := .scalarOp
theorem State.keepsWf.execOr : s.keepsWf (Machine.execOr t f s) := .scalarOp
theorem State.keepsWf.execXor : s.keepsWf (Machine.execXor t f s) := .scalarOp
theorem State.keepsWf.execShl : s.keepsWf (Machine.execShl t f s) := .scalarOp
theorem State.keepsWf.execShr : s.keepsWf (Machine.execShr t f s) := .scalarOp
theorem State.keepsWf.execSar : s.keepsWf (Machine.execSar t f s) := .scalarOp
theorem State.keepsWf.execMin : s.keepsWf (Machine.execMin t f s) := .scalarOp
theorem State.keepsWf.execMax : s.keepsWf (Machine.execMax t f s) := .scalarOp
theorem State.keepsWf.execSlt : s.keepsWf (Machine.execSlt t f s) := .scalarOp
theorem State.keepsWf.execSltu : s.keepsWf (Machine.execSltu t f s) := .scalarOp
theorem State.keepsWf.execMovi : s.keepsWf (Machine.execMovi t f s) := .issue (fun _ _ h => .ite h.trap h.retire)
theorem State.keepsWf.execMovhi : s.keepsWf (Machine.execMovhi t f s) := .issue (fun _ _ h => .ite h.trap h.retire)
theorem State.keepsWf.execLd : s.keepsWf (Machine.execLd t f s) :=
  .issue (fun _ _ h => .ite h.trap (.ite h.trap (h.unlessHeld h.touch.retire)))
theorem State.keepsWf.execSt : s.keepsWf (Machine.execSt t f s) :=
  .issue (fun _ _ h => .ite h.trap (.ite h.trap (h.unlessHeld h.touch.swrite.retire)))

theorem State.keepsWf.execRdsys : s.keepsWf (Machine.execRdsys t f s) := by
  unfold Machine.execRdsys
  refine .issue fun k th h => ?_
  split
  · exact h.trap
  · exact h.retire

theorem State.keepsWf.condBranch : s.keepsWf (condBranch code c t f s) :=
  .issue fun _ _ h => .ite h.trap (.ite h.retireTo h.retire)
theorem State.keepsWf.execBr : s.keepsWf (Machine.execBr t f s) := .issue (fun _ _ h => .ite h.trap h.retireTo)
theorem State.keepsWf.execBeq : s.keepsWf (Machine.execBeq t f s) := .condBranch
theorem State.keepsWf.execBne : s.keepsWf (Machine.execBne t f s) := .condBranch
theorem State.keepsWf.execBlt : s.keepsWf (Machine.execBlt t f s) := .condBranch
theorem State.keepsWf.execBge : s.keepsWf (Machine.execBge t f s) := .condBranch
theorem State.keepsWf.execBltu : s.keepsWf (Machine.execBltu t f s) := .condBranch
theorem State.keepsWf.execBgeu : s.keepsWf (Machine.execBgeu t f s) := .condBranch
theorem State.keepsWf.execJr : s.keepsWf (Machine.execJr t f s) := .issue (fun _ _ h => .ite h.trap (.ite h.trap h.retireTo))
theorem State.keepsWf.execTrap : s.keepsWf (Machine.execTrap t f s) := .issue (fun _ _ h => .ite h.trap h.trap)

/-! ### Of Machine/MoveReg -/

theorem State.keepsWf.moveLoad {put : Thread → Nat → Thread} : s.keepsWf (moveLoad op bad n t f s put) :=
  .issue fun _ _ h => .ite h.trap (.ite h.trap (.unlessHeld h h.touch.retire))

theorem State.keepsWf.moveStore {pre : Thread → State → Bad} {val : Thread → Nat} :
    s.keepsWf (moveStore op bad n t f s pre val) := by
  refine .issue fun k th h => .ite h.trap ?_
  split
  · exact h.trap
  · exact .ite h.trap (.unlessHeld h h.touch.swrite.retire)

theorem State.keepsWf.execDmov : s.keepsWf (Machine.execDmov t f s) := by
  unfold Machine.execDmov
  refine .issue fun k th h => ?_
  split
  · exact h.trap
  · split
    · exact h.trap
    · exact h.retire

theorem State.keepsWf.execDld : s.keepsWf (Machine.execDld t f s) := .moveLoad
theorem State.keepsWf.execDst : s.keepsWf (Machine.execDst t f s) := .moveStore
theorem State.keepsWf.execCld : s.keepsWf (Machine.execCld t f s) := .moveLoad
theorem State.keepsWf.execCst : s.keepsWf (Machine.execCst t f s) := .moveStore
theorem State.keepsWf.execMld : s.keepsWf (Machine.execMld t f s) := .moveLoad
theorem State.keepsWf.execMst : s.keepsWf (Machine.execMst t f s) := .moveStore

/-! ### Of Machine/Priv -/

theorem State.keepsWf.issuePriv {run : Nat → Thread → State → State} (hf : ∀ k th, s.storesWf → (run k th s).storesWf) :
    s.keepsWf (issuePriv op bad t f s run) :=
  .issue fun k th h => .ite h.trap (.ite h.trap (hf k th h))

theorem State.keepsWf.execDcreate : s.keepsWf (Machine.execDcreate t f s) :=
  .issuePriv (fun _ _ h => .ite h.trap (h.unlessHeld h.touch.retire))
theorem State.keepsWf.execSplitk : s.keepsWf (Machine.execSplitk t f s) := .issuePriv (fun _ _ h => .ite h.retire h.setThread.tick)
theorem State.keepsWf.execXslice : s.keepsWf (Machine.execXslice t f s) :=
  .issuePriv (fun _ _ h => .ite h.trap (.ite h.retire (.ite (.ite h.retire h.modStall.releaseHeld.retire) (.ite h.retire (.ite h.setThread.tick.modStall h.setThread.tick.setExact)))))
theorem State.keepsWf.execTallyrd : s.keepsWf (Machine.execTallyrd t f s) := .issuePriv (fun _ _ h => .ite h.trap h.retire)

theorem State.keepsWf.execSlotPressureTimeout : s.keepsWf (Machine.execSlotPressureTimeout t s) := by
  unfold Machine.execSlotPressureTimeout
  split
  · exact .next id
  · split
    · split
      · exact .next fun h => h.getD (fun _ _ => h.of_beginSave ‹_›)
      · exact .next id
    · exact .next id

/-! ### Of Machine/Command -/

theorem State.storesWf.modCmd (h : s.storesWf) : (s.modCmd c f).storesWf := h.setHost

theorem State.keepsWf.command {run : Cmd → State → State} (hf : ∀ c u, u.storesWf → (run c u).storesWf) :
    s.keepsWf (command op nparams usesJob hdr s run) := by
  unfold Machine.command
  split
  · exact .next id
  · refine .ite (.next id) (.ite (.next fun h => h.reply) ?_)
    split
    · exact .next fun h => h.reply
    · exact .ite (.next fun h => h.reply) (.ite (.next id) (.next fun h => hf _ _ h.modCmd))

theorem State.storesWf.waitCmd (h : s.storesWf) : (s.waitCmd c w).storesWf := h.modCmd
theorem State.storesWf.parkCmd (h : s.storesWf) : (s.parkCmd c fault1).storesWf := h.waitCmd
theorem State.storesWf.bulkOut (h : s.storesWf) : (s.bulkOut c bytes).storesWf := .ite h (.ite h.send h.send)
theorem State.storesWf.replyBulk (h : s.storesWf) : (s.replyBulk c bytes results).storesWf := .ite h.reply h.bulkOut.reply
theorem State.storesWf.hubFetch (h : s.storesWf) : (s.hubFetch job va pa len).storesWf := .ite h h.remoteRead
theorem State.storesWf.dropHub (h : s.storesWf) : (s.dropHub job).storesWf := h.setFab

theorem State.storesWf.cmdPeek {k : List Byte → State → State} (h : s.storesWf)
    (hk : ∀ (bs : List Byte) (u : State), u.storesWf → (k bs u).storesWf) : (s.cmdPeek c job va n k).storesWf := by
  unfold State.cmdPeek
  split
  · exact hk _ s h
  · exact h.dropHub.reply
  · exact h.dropHub.accessFault.reply
  · exact h.parkCmd.hubFetch

theorem State.storesWf.cmdRead {k : List Byte → State → State} (h : s.storesWf)
    (hk : ∀ (bs : List Byte) (u : State), u.storesWf → (k bs u).storesWf) : (s.cmdRead c job va n k).storesWf :=
  h.cmdPeek fun bs _ h1 => hk bs _ h1.dropHub

theorem State.storesWf.cmdWrite (h : s.storesWf) : (s.cmdWrite c job va bytes results).storesWf := by
  unfold State.cmdWrite
  split
  · exact .ite ((h.of_vwrite ‹_›).reply) (((h.of_vwrite ‹_›).remoteWrites).waitCmd)
  · exact h.reply
  · exact h.accessFault.reply
  · exact h.reply

theorem State.storesWf.claim (h : s.storesWf) : (s.claim c).storesWf := h.setHost
theorem State.storesWf.unclaim (h : s.storesWf) : (s.unclaim p).storesWf := h.setHost

/-! ### Of Machine/BellCmds -/

theorem State.keepsWf.execBellRead : s.keepsWf (Machine.execBellRead h1 part index s) :=
  .command (fun _ _ h => .ite h.reply (.ite h.reply (.ite (.ite h.reply h.reply) h.remoteRead.waitCmd)))

theorem State.keepsWf.execBellSignal : s.keepsWf (Machine.execBellSignal h1 part index inc s) := by
  unfold Machine.execBellSignal
  refine .command fun c s h => ?_
  split
  · exact h.reply
  · split
    · exact h.reply
    · extract_lets
      split
      · split
        · exact (h.of_signal ‹_›).reply
        · exact h.reply
      · exact h.request.waitCmd

theorem State.keepsWf.execBellWatch : s.keepsWf (Machine.execBellWatch h1 part index target cmp1 timeout cookie s) :=
  .command (fun _ _ h => .ite h.reply (.ite h.reply (.registerAt (.ite h.reply h.reply.setBell))))
theorem State.storesWf.withdrawAway (h : s.storesWf) : (s.withdrawAway l).storesWf := h.foldl fun _ _ h => h.unregister
theorem State.keepsWf.execBellCancel : s.keepsWf (Machine.execBellCancel h1 watch s) :=
  .command (fun _ _ h => .ite h.setBell.withdrawAway.reply h.reply)
theorem State.storesWf.resetCounters (h : s.storesWf) : (s.resetCounters lo hi).storesWf := h.setBell
theorem State.keepsWf.execBellReset : s.keepsWf (Machine.execBellReset h1 first count1 s) :=
  .command (fun _ _ h => .ite h.reply (.ite h.reply (.ite h.reply h.resetCounters.reply)))
theorem State.keepsWf.execBellBarrierSet : s.keepsWf (Machine.execBellBarrierSet h1 index n scope s) :=
  .command (fun _ _ h => .ite h.reply (.ite h.reply h.setBell.testWatches.reply))

theorem State.keepsWf.execBellBarrierClear : s.keepsWf (Machine.execBellBarrierClear h1 index s) := by
  unfold Machine.execBellBarrierClear
  refine .command fun c s h => ?_
  split
  · exact h.reply
  · exact .ite h.reply h.setBell.reply

theorem State.keepsWf.execBellPairSet : s.keepsWf (Machine.execBellPairSet h1 p c b s) :=
  .command (fun _ _ h => .ite h.reply (.ite h.reply h.setBell.reply))
theorem State.keepsWf.execBellPairClear : s.keepsWf (Machine.execBellPairClear h1 pair s) :=
  .command (fun _ _ h => .ite h.setBell.reply h.reply)
theorem State.keepsWf.execBellLendSet : s.keepsWf (Machine.execBellLendSet h1 enable theta s) :=
  .command (fun _ _ h => .ite h.reply (.reply (h.setBell.foldl fun _ _ h => h.updateLend)))

theorem State.keepsWf.execBellDump : s.keepsWf (Machine.execBellDump hdr va flags s) := by
  refine .command fun c u h => ?_
  extract_lets d
  clear_value d
  exact .ite h.reply h.cmdWrite

/-! ### Of Machine/MaskOps -/

theorem State.keepsWf.execGmaskSet : s.keepsWf (Machine.execGmaskSet h1 va s) := by
  unfold Machine.execGmaskSet
  refine .command fun c s h => ?_
  refine h.cmdRead fun bs s h => ?_
  split
  · exact h.reply
  · exact .ite h.reply (.reply h)

theorem State.storesWf.setReplay (h : s.storesWf) : (s.setReplay v).storesWf := h

theorem State.storesWf.readErrors (h : s.storesWf) : (s.readErrors job l).storesWf := by
  unfold State.readErrors
  refine State.storesWf.foldl ?_ fun s _ h => ?_
  · exact h
  · split
    · exact h.accessFault
    · exact h

theorem State.storesWf.openRecord (h : s.storesWf) : (s.openRecord c g gr step1).storesWf := h.poke.setReplay

theorem State.storesWf.captureStart (h : s.storesWf) : (s.captureStart g step1).storesWf := by
  unfold State.captureStart
  split
  · exact h
  · exact .ite h (.dropHub (h.readErrors.foldl fun _ _ h => h.openRecord))

theorem State.storesWf.captureEnd (h : s.storesWf) : (s.captureEnd g).storesWf := by
  unfold State.captureEnd
  split
  · exact h
  · refine State.storesWf.foldl ?_ fun s _ h => ?_
    · exact h
    · split
      · exact .ite h (.setReplay (.poke (.poke (h.poke.poke.foldl fun _ _ h => h.poke))))
      · exact h

/-! ### Of Machine/Copy -/

theorem State.storesWf.applyWrites (h : s.storesWf) : (Machine.applyWrites w space1 owner s x).storesWf := by
  induction x generalizing w space1 owner s with
  | nil =>
    rw [Machine.applyWrites]
    exact h
  | cons a x ih =>
    rw [Machine.applyWrites]
    split
    · exact ih h.swrite
    · split
      · exact ih ((h.of_vwrite ‹_›).remoteWrites)
      · exact ih h

theorem State.storesWf.of_moveUnit (h : s.storesWf) (e : Machine.moveUnit s w owner m unit = .ok (u, r1)) : u.storesWf := by
  unfold Machine.moveUnit at e
  dsimp only at e
  split at e
  · split at e
    · split at e
      · cases e
        exact h.applyWrites
      · cases e
      · cases e
      · cases e
    · cases e
    · cases e
    · cases e
  · cases e
  · cases e
  · cases e

theorem State.storesWf.of_moveLoop (h : s.storesWf) (e : Machine.moveLoop w owner x x1 s = (u, r1)) : u.storesWf := by
  induction x generalizing w owner x1 s u r1 with
  | nil =>
    rw [Machine.moveLoop] at e
    cases e
    exact h
  | cons a x ih =>
    rw [Machine.moveLoop] at e
    split at e
    · exact ih (h.of_moveUnit ‹_›) ‹_›
    · cases e
      exact h
    · cases e
      exact h
    · cases e
      exact h

theorem State.storesWf.of_runMove (h : s.storesWf) (e : Machine.runMove w owner m s = (u, r1)) : u.storesWf := by
  unfold Machine.runMove at e
  dsimp only at e
  split at e
  · split at e
    · exact h.of_moveLoop ‹_›
    · cases e
      exact h
    · cases e
      exact h
    · cases e
      exact h
  · exact h.of_moveLoop ‹_›

theorem State.storesWf.noteFlags (h : s.storesWf) : (s.noteFlags raw job graph1 tags).storesWf := by
  unfold State.noteFlags
  extract_lets
  split
  · exact h
  · split
    · exact .ite h (.ite (.modGraph (.ite (.hallFault h) h)) h)
    · exact h

theorem State.storesWf.settleMove {r : State × Move × MoveStop} (h : r.1.storesWf) : (s.settleMove k r).storesWf := by
  obtain ⟨t, m, stop⟩ := r
  change t.storesWf at h
  unfold State.settleMove
  split
  rename_i heq
  cases heq
  split
  · exact h
  · extract_lets w s1 s2 dropped s3
    have h2 : s2.storesWf := .ite h.noteFlags h
    clear_value s2
    have hdropped : ∀ u : State, u.storesWf → (dropped u).storesWf := fun u hu => hu.setThread.reap
    clear_value dropped
    split
    · exact h2.setThread.reap
    · split
      · exact hdropped _ h2
      · split
        rename_i id t ht
        have h3 : ∀ v, (t.setThread k v).storesWf := fun v => (h2.of_raise ht).setThread
        extract_lets s4
        split
        · exact h3 _
        · exact (h3 _).getD fun _ e => (h3 _).of_beginSave e
    · exact .ite (hdropped _ h2.accessFault) h2.accessFault.setThread.trap
    · exact .ite h2.setThread h2.setThread.remoteRead

theorem State.storesWf.pumpMove (h : s.storesWf) : (s.pumpMove k m).storesWf := by
  unfold State.pumpMove
  split
  · exact h
  · exact .ite h.setThread ((h.of_runMove rfl).settleMove)

theorem State.storesWf.runCopy (h : s.storesWf) : (Machine.runCopy op code f k th s).storesWf := by
  unfold Machine.runCopy
  split
  · exact h.trap
  · exact .ite h.hold (h.unlessHeld h.touchRuns.retire.pumpMove)

theorem State.keepsWf.execCopy : s.keepsWf (Machine.execCopy t f s) := .issue (fun _ _ h => h.runCopy)
theorem State.keepsWf.execTcopy : s.keepsWf (Machine.execTcopy t f s) := .issue (fun _ _ h => h.runCopy)
theorem State.keepsWf.execPcopy : s.keepsWf (Machine.execPcopy t f s) := .issue (fun _ _ h => h.runCopy)

theorem State.storesWf.moveFreed (h : s.storesWf) : (s.moveFreed k).storesWf := by
  unfold State.moveFreed
  split
  · exact h
  · exact h.setThread.wake

theorem State.keepsWf.execMoveComplete : s.keepsWf (Machine.execMoveComplete t tok s) := by
  unfold Machine.execMoveComplete
  split
  · exact .ite (.next fun h => h.setThread.moveFreed.finishAllocFrees) (.next id)
  · exact .next id

/-! ### Of Machine/PowerOps -/

theorem State.storesWf.modPower (h : s.storesWf) : (s.modPower f).storesWf := h
theorem State.storesWf.modHallPower (h : s.storesWf) : (s.modHallPower h1 f).storesWf := h.modPower
theorem State.storesWf.clampHalls (h : s.storesWf) : s.clampHalls.storesWf := h.foldl fun _ _ h => h.modHallPower

theorem State.keepsWf.execHallVoltageStep : s.keepsWf (Machine.execHallVoltageStep raise1 s) := by
  unfold Machine.execHallVoltageStep
  split
  · exact .next id
  · split
    · split
      · exact .next id
      · split
        · exact .next fun h => h.modHallPower
        · split
          · split
            · exact .next fun h => h.modHallPower
            · exact .next id
          · exact .next id
    · split
      · split
        · exact .next fun h => h.modHallPower
        · exact .next id
      · exact .next id

theorem State.keepsWf.execHallPark : s.keepsWf (Machine.execHallPark hall1 s) :=
  .ite (.next id) (.ite (.next fun h => h.modHallPower) (.ite (.next fun h => h.modHallPower) (.next id)))
theorem State.storesWf.unpark (h : s.storesWf) : (s.unpark h1).storesWf := .ite h.modHallPower h
theorem State.keepsWf.execPowerSample : s.keepsWf (Machine.execPowerSample p s) :=
  .ite (.next id) (.next fun h => h.modPower.modPower)
theorem State.storesWf.supplyFault (h : s.storesWf) : (s.supplyFault cls utype action lunit detail).storesWf := h.partFault
theorem State.keepsWf.execPowerOvercapTimeout : s.keepsWf (Machine.execPowerOvercapTimeout s) :=
  .ite (.next fun h => h.modPower.supplyFault) (.next id)
theorem State.storesWf.coolingAlert (h : s.storesWf) : s.coolingAlert.storesWf := h.raiseAlert
theorem State.storesWf.forceValve (h : s.storesWf) : s.forceValve.storesWf := h.modPower
theorem State.keepsWf.execJunctionReduction : s.keepsWf (Machine.execJunctionReduction hall1 temp s) :=
  .ite (.next id) (.ite (.next fun h => .raiseAlert (.ite h.modHallPower.clampHalls.coolingAlert h.modHallPower.clampHalls)) (.ite (.next fun h => h.modHallPower) (.next id)))
theorem State.keepsWf.execFlowGate : s.keepsWf (Machine.execFlowGate edges inlet outlet s) :=
  .ite (.next id) (.ite (.next fun h => h.modPower.modPower) (.ite (.next fun h => h.modPower) (.next fun h => h.modPower.modPower)))
theorem State.keepsWf.execLowFlow : s.keepsWf (Machine.execLowFlow s) :=
  .ite (.next id) (.next fun h => .ite h.modPower.forceValve.supplyFault.coolingAlert h.modPower.forceValve.supplyFault)
theorem State.keepsWf.execThermistorFault : s.keepsWf (Machine.execThermistorFault b s) :=
  .ite (.next id) (.next fun h => .ite h.modPower.forceValve.supplyFault.coolingAlert h.modPower.forceValve.supplyFault)
theorem State.keepsWf.execCapLift : s.keepsWf (Machine.execCapLift inlet s) := .next fun h => h.modPower
theorem State.keepsWf.execPowerCapSet : s.keepsWf (Machine.execPowerCapSet h1 cap s) :=
  .command (fun _ _ h => .ite h.modPower.reply h.reply)
theorem State.keepsWf.execPowerHallSet : s.keepsWf (Machine.execPowerHallSet h1 hall1 floor ceil s) :=
  .command (fun _ _ h => .ite h.modHallPower.clampHalls.reply h.reply)
theorem State.keepsWf.execPowerStatus : s.keepsWf (Machine.execPowerStatus h1 s) := .command (fun _ _ h => h.replyBulk)
theorem State.keepsWf.execTallyRead : s.keepsWf (Machine.execTallyRead h1 first count1 s) :=
  .command (fun _ _ h => .ite h.replyBulk h.reply)
theorem State.keepsWf.execTallyClear : s.keepsWf (Machine.execTallyClear h1 first count1 s) :=
  .command (fun _ _ h => .ite (.reply h) h.reply)
theorem State.keepsWf.execTallyMap : s.keepsWf (Machine.execTallyMap h1 s) := .command (fun _ _ h => h.replyBulk)
theorem State.keepsWf.execAlertConfig : s.keepsWf (Machine.execAlertConfig h1 alert enable entry1 threshold s) :=
  .command (fun _ _ h => .ite h.reply (.reply (.ite h.modPower.modPower.counterAlert h.modPower)))
theorem State.storesWf.clearAlerts (h : s.storesWf) : (s.clearAlerts mask1).storesWf := .ite h.modPower.send h.modPower
theorem State.keepsWf.execAlertAck : s.keepsWf (Machine.execAlertAck h1 mask1 s) :=
  .command (fun _ _ h => .ite h.clearAlerts.reply h.reply)
theorem State.keepsWf.execValveSet : s.keepsWf (Machine.execValveSet h1 mode value s) :=
  .command (fun _ _ h => .ite h.modPower.reply (.ite h.modPower.reply h.reply))
theorem State.storesWf.mark (h : s.storesWf) : (s.mark kind hops origin id1).storesWf :=
  h.modPower.foldl fun _ _ h => h.traceEvent
theorem State.storesWf.ownMark (h : s.storesWf) : (s.ownMark kind).storesWf := h.mark.modPower
theorem State.keepsWf.execLcMark : s.keepsWf (Machine.execLcMark h1 id1 scope s) :=
  .command (fun _ _ h => .ite h.reply (.reply (.ite h.mark.send h.mark)))
theorem State.keepsWf.execLcMarkPacket : s.keepsWf (Machine.execLcMarkPacket origin id1 hops s) :=
  .ite (.next id) (.next fun h => h.mark)
theorem State.keepsWf.execLcMarkRead : s.keepsWf (Machine.execLcMarkRead h1 count1 s) :=
  .command (fun _ _ h => .ite h.replyBulk h.reply)
theorem State.keepsWf.execLcRecalibrate : s.keepsWf (Machine.execLcRecalibrate hall1 s) :=
  .ite (.next fun h => h.ownMark) (.next id)
theorem State.keepsWf.execSmbAlertsWrite : s.keepsWf (Machine.execSmbAlertsWrite v s) :=
  .ite (.next fun h => h.clearAlerts) (.next id)
theorem State.keepsWf.execSmbCapWrite : s.keepsWf (Machine.execSmbCapWrite v s) := .ite (.next fun h => h.modPower) (.next id)
theorem State.keepsWf.execSmbTallyValueRead : s.keepsWf (Machine.execSmbTallyValueRead s) :=
  .ite (.next fun h => h.send.modPower) (.next id)
theorem State.keepsWf.execSmbAlertResponse : s.keepsWf (Machine.execSmbAlertResponse s) := .ite (.next fun h => h.send) (.next id)
theorem State.keepsWf.execSmbRegWrite : s.keepsWf (Machine.execSmbRegWrite code v s) :=
  .ite (.next id) (.ite (.next fun h => h.clearAlerts) (.ite (.ite (.next fun h => h.modPower) (.next id)) (.ite (.next fun h => h.modPower) (.next id))))

/-! ### Of Machine/Porter -/

theorem State.storesWf.failTask (h : s.storesWf) : (s.failTask g t status).storesWf := h.modTask.failGraph
theorem State.storesWf.takeMove (h : s.storesWf) : (s.takeMove g t cls job d0 d1).storesWf := .ite h.setXlt.tick h.failTask
theorem State.storesWf.putTransfer (h : s.storesWf) : (s.putTransfer x).storesWf := h.setXlt
theorem State.storesWf.dropTransfer (h : s.storesWf) : (s.dropTransfer g t).storesWf := h.setXlt

theorem State.storesWf.pumpTransfer (h : s.storesWf) : (s.pumpTransfer x).storesWf := by
  unfold State.pumpTransfer
  extract_lets
  split
  · extract_lets s1 s2
    have h1 : s1.storesWf := .ite ((h.of_runMove ‹_›).noteFlags) (h.of_runMove ‹_›)
    clear_value s1
    have h2 : s2.storesWf := h1.putTransfer
    clear_value s2
    split
    · exact h1.putTransfer
    · split
      · exact (h1.of_raise ‹_›).putTransfer
    · exact h1.accessFault.dropTransfer.failTask
    · exact .ite h2 h2.remoteRead

theorem State.storesWf.releaseUnit (h : s.storesWf) : s.releaseUnit.storesWf := by
  unfold State.releaseUnit
  extract_lets s1
  have h1 : s1.storesWf := by
    unfold s1
    refine State.storesWf.foldl ?_ fun s _ h => ?_
    · exact h
    · split
      · exact .ite h.pumpTransfer h
      · exact h
  clear_value s1
  refine State.storesWf.foldl ?_ fun s _ h => ?_
  · exact h1
  · split
    · exact h.foldl fun _ _ h => .ite h.pumpMove h
    · exact h

theorem State.keepsWf.execMoveTransferStart : s.keepsWf (Machine.execMoveTransferStart graph1 task1 s) := by
  unfold Machine.execMoveTransferStart
  split
  · exact .ite (.next id) (.next fun h => h.pumpTransfer)
  · exact .next id

theorem State.keepsWf.execMoveTransferDone : s.keepsWf (Machine.execMoveTransferDone graph1 task1 s) := by
  unfold Machine.execMoveTransferDone
  split
  · exact .ite (.next fun h => h.dropTransfer.modTask.finishAllocFrees) (.next id)
  · exact .next id

/-! ### Of Machine/Saves -/

theorem State.keepsWf.execTaskSave : s.keepsWf (Machine.execTaskSave graph1 task1 s) := by
  unfold Machine.execTaskSave
  extract_lets
  split
  · exact .next id
  · split
    · exact .ite (.next id) (.next fun h => h.poke.freeTask.traceStall.modTask.updateLend.checkLayouts)
    · exact .next id

theorem State.storesWf.redispatch (h : s.storesWf) : (s.redispatch g t).storesWf := by
  unfold State.redispatch
  split
  · exact .ite h.freeTask.modTask.failTask (.ite h.freeTask.modTask.modTask.settle h.freeTask.modTask.modTask.makeReady)
  · exact h

theorem State.storesWf.loadThreads (h : s.storesWf) : (s.loadThreads l cs).storesWf := by
  induction l generalizing s cs with
  | nil => rwa [State.loadThreads]; simp
  | cons p l ih =>
    cases cs with
    | nil => rwa [State.loadThreads]; simp
    | cons c cs => exact ih h.setThread

theorem State.storesWf.rewait (h : s.storesWf) : (s.rewait k).storesWf := by
  unfold State.rewait
  split
  · split
    · exact h.awaitGen
    · exact h
  · exact h

theorem State.storesWf.resumeMoves (h : s.storesWf) : (s.resumeMoves k).storesWf := by
  unfold State.resumeMoves
  split
  · exact h
  · exact h.foldl fun _ _ h => .ite h h.pumpMove

theorem State.storesWf.reload (h : s.storesWf) : (s.reload g t k r cs).storesWf := by
  unfold State.reload
  refine .modTask ?_
  obtain ⟨hm, hs, ha⟩ := (h.loadThreads (l := r.threads) (cs := cs))
  exact ⟨hm, Memory.wf_write _ _ _ hs, ha⟩

theorem State.storesWf.dropStale (h : s.storesWf) : (s.dropStale g t tags).storesWf := h.modTask.count.partFault.failGraph

theorem State.keepsWf.execTaskRestore : s.keepsWf (Machine.execTaskRestore graph1 task1 st s) := by
  unfold Machine.execTaskRestore
  extract_lets
  split
  · exact .next id
  · split
    · exact .next id
    · exact .ite (.next fun h => h.dropStale.finishAllocFrees) (.ite (.next id) (.ite (.next fun h => h.redispatch) (.next fun h => .updateLend (h.reload.tick.unpark.traceStall.foldl fun _ _ h => h.rewait.resumeMoves))))

theorem State.storesWf.preemptUntil (h : s.storesWf) : (s.preemptUntil need x x1).storesWf := by
  induction x generalizing s need x1 with
  | nil =>
    rw [State.preemptUntil]
    exact h
  | cons a x ih =>
    rw [State.preemptUntil]
    split
    · exact h
    · split
      · exact ih (h.of_beginSave ‹_›)
      · exact ih h

theorem State.keepsWf.execMidtaskPreemptTimeout : s.keepsWf (Machine.execMidtaskPreemptTimeout graph1 task1 st s) := by
  unfold Machine.execMidtaskPreemptTimeout
  extract_lets
  split
  · exact .ite (.next fun h => h.preemptUntil) (.next id)
  · exact .next id

/-! ### Of Machine/Graphs -/

theorem State.storesWf.decPred (h : s.storesWf) : (s.decPred g t).storesWf := by
  unfold State.decPred
  split
  · exact h
  · exact .ite h.failGraph (.ite h.modTask.predsDone h.modTask)

theorem State.storesWf.releaseSuccs (h : s.storesWf) : (s.releaseSuccs g t).storesWf := h.foldl fun _ _ h => h.decPred

theorem State.storesWf.checkUpdate (h : s.storesWf) : (s.checkUpdate g).storesWf := by
  unfold State.checkUpdate
  split
  · exact h
  · exact .ite h.pastGate h

theorem State.storesWf.admitLoop (h : s.storesWf) : (Machine.admitLoop g x s).storesWf := by
  induction x generalizing g s with
  | zero =>
    rw [Machine.admitLoop]
    exact h
  | succ x ih =>
    rw [Machine.admitLoop]
    split
    · exact h
    · exact .ite h (ih (h.stampMb.foldl fun _ _ h => h.pastGate))

theorem State.storesWf.tryAdmit (h : s.storesWf) : (s.tryAdmit g).storesWf := by
  unfold State.tryAdmit
  split
  · exact .ite h.admitLoop h.admitEmpty
  · exact h

theorem State.storesWf.readmit (h : s.storesWf) : (s.readmit g).storesWf := by
  unfold State.readmit
  split
  · exact h
  · exact h.tryAdmit.foldl fun _ _ h => h.pastGate

theorem State.storesWf.skipTasks (h : s.storesWf) : (s.skipTasks g p).storesWf := by
  unfold State.skipTasks
  split
  · exact h
  · exact .checkUpdate (.foldl (h.foldl fun _ _ h => h.dropGate.modTask) fun _ _ h => h.releaseSuccs)

theorem State.storesWf.closeStep (h : s.storesWf) : (s.closeStep g c).storesWf := h.modGraph.skipTasks

/-! ### Of Machine/Place -/

theorem State.storesWf.startThreads (h : s.storesWf) : (s.startThreads g t r ds x).storesWf := by
  induction x generalizing s g t r ds with
  | nil =>
    rw [State.startThreads]
    exact h
  | cons a x ih =>
    rw [State.startThreads]
    exact ih h.setThread

theorem State.storesWf.startOnStall (h : s.storesWf) : (s.startOnStall c k ds).storesWf := by
  unfold State.startOnStall
  extract_lets cs s1 s2 s3
  have h1 : s1.storesWf := h.startThreads
  clear_value s1
  have h2 : s2.storesWf := h1.modTask
  clear_value s2
  have h3 : s3.storesWf := h2.tick.unpark.updateLend.traceStall
  clear_value s3
  split
  · exact h3.trap
  · exact h3

theorem State.storesWf.startOnUnit (h : s.storesWf) : (s.startOnUnit c ds).storesWf :=
  .ite (.takeMove (.ite h.modTask.tick.traceEvent h.modTask.tick)) (.ite (.modTask (.graphEvent (.ite h.modTask.tick.traceEvent h.modTask.tick))) (.ite h.modTask.tick.traceEvent h.modTask.tick))

theorem State.storesWf.place (h : s.storesWf) : (s.place c k).storesWf := by
  unfold State.place
  extract_lets job xlt wanted s1
  have h1 : s1.storesWf := .ite h h.dropHub
  clear_value s1
  split
  · split
    · exact h1.startOnStall
    · exact h1.startOnUnit
  · split
    · exact (h.of_raise ‹_›).modTask
  · exact h.dropHub.accessFault.modTask.failGraph
  · exact h.hubFetch

theorem State.keepsWf.execTaskPlace : s.keepsWf (Machine.execTaskPlace graph1 task1 s) := by
  unfold Machine.execTaskPlace
  split
  · extract_lets
    split
    · exact .next id
    · split
      · exact .next fun h => h.dropStale
      · split
        · exact .next fun h => h.modTask
        · split
          · exact .next fun h => h.dropStale
          · split
            · split
              · exact .ite (.next id) (.next fun h => h.place)
              · exact .next id
            · exact .ite (.next id) (.next fun h => h.place)
  · exact .next id

/-! ### Of Machine/Windows -/

theorem State.storesWf.setTill (h : s.storesWf) : (s.setTill v).storesWf := h
theorem State.storesWf.modRun (h : s.storesWf) : (s.modRun f).storesWf := h.setTill
theorem State.storesWf.modTillOf (h : s.storesWf) : (s.modTillOf k f).storesWf := h.setTill
theorem State.storesWf.modGroup (h : s.storesWf) : (s.modGroup gid f).storesWf := h.setTill

theorem State.storesWf.of_windowSignal (h : s.storesWf) (e : s.windowSignal job va bs = some u) : u.storesWf := by
  obtain ⟨pa, -, e⟩ := Option.bind_eq_some_iff.mp e
  split at e
  · split at e
    · exact h.of_signal e
    · cases e
  · cases e

/-! ### Of Machine/TillOps -/

theorem State.storesWf.admitPost (h : s.storesWf) : s.admitPost.storesWf := by
  unfold State.admitPost
  split
  · exact h
  · split
    · extract_lets _ s1
      have h1 : s1.storesWf := h.setTill
      clear_value s1
      split
      · exact h1.respond
      · exact h1.wake
      · exact h1
    · exact h

theorem State.keepsWf.execTillCommandWrite : s.keepsWf (Machine.execTillCommandWrite src stack1 bytes s) :=
  .ite (.next fun h => h.tillPost) (.next id)

theorem State.keepsWf.execTillCommandStart : s.keepsWf (Machine.execTillCommandStart s) := by
  unfold Machine.execTillCommandStart
  split
  · extract_lets c _ s1 reg
    refine .ite (.next id) ?_
    have h1 (h : s.storesWf) : s1.storesWf := h.setTill.admitPost.finishInvalidates
    clear_value s1
    refine .ite (.next fun h => (h1 h).setTill.partFault) ?_
    unfold reg
    split
    · exact .next h1
    · exact .ite (.next fun h => (h1 h).setTill.modGroup.count.partFault) (.next fun h => (h1 h).setTill)
  · exact .next id

theorem State.storesWf.tallyTill (h : s.storesWf) : (s.tallyTill k x).storesWf := h.foldl fun _ _ h => .ite h h.count
theorem State.storesWf.unitBad (h : s.storesWf) : (s.unitBad stack1 g u1 addr poison1).storesWf :=
  .partFault (.ite h.dropHub.modRun.modGroup h.dropHub.modRun)

theorem State.storesWf.of_finishUnit (h : s.storesWf) (e : s.finishUnit k g c unit = (u, r1)) : u.storesWf := by
  unfold State.finishUnit at e
  split at e
  · cases e
    exact h
  · cases e
    exact h
  · cases e
    exact h.unitBad
  · split at e
    · dsimp only at e
      cases e
      exact ((((h.of_vwrite ‹_›).dropHub).modRun).modTillOf).tallyTill
    · cases e
      exact h.unitBad

theorem State.keepsWf.execTillUnitDone : s.keepsWf (Machine.execTillUnitDone stack1 unit s) := by
  unfold Machine.execTillUnitDone
  split
  · exact .next id
  · split
    · exact .next id
    · extract_lets
      split
      · exact .next id
      · split
        · split
          · exact .next fun h => ((h.of_finishUnit ‹_›).of_raise ‹_›).modRun
        · exact .next fun h => (h.of_finishUnit ‹_›).hubFetch
        · exact .next fun h => h.of_finishUnit ‹_›

theorem State.storesWf.writeDigests (h : s.storesWf) : (s.writeDigests g step1).storesWf := by
  unfold State.writeDigests
  split
  · split
    · exact ((h.of_vwrite ‹_›).modGroup).remoteWrites
    · exact h.accessFault
    · exact h
  · exact h.accessFault
  · exact h

theorem State.storesWf.finishRun (h : s.storesWf) : (s.finishRun r outcome).storesWf := by
  unfold State.finishRun
  extract_lets c _ s1
  have h1 : s1.storesWf := h.setTill
  clear_value s1
  split
  · exact h1
  · exact h1.modGroup

theorem State.storesWf.tillCommandDone (h : s.storesWf) : s.tillCommandDone.storesWf := by
  unfold State.tillCommandDone
  split
  · exact h
  · extract_lets
    split
    · exact .ite h.finishRun.signalAt h.finishRun
    · split
      · exact .ite h.finishRun.signalAt h.finishRun
      · exact .ite h (.ite (.ite h h.writeDigests.modRun) (.ite (.signalAt (.finishRun (.ite h h.writeDigests.modRun))) (.finishRun (.ite h h.writeDigests.modRun))))

theorem State.keepsWf.execTillPipeFail : s.keepsWf (Machine.execTillPipeFail stack1 s) :=
  .ite (.next id) (.next fun h => .ite h.modTillOf.partFault.partFault.raiseAlert h.modTillOf.partFault)

theorem State.storesWf.stopTills (h : s.storesWf) : s.stopTills.storesWf := by
  unfold State.stopTills
  split
  · exact h
  · split
    · split
      · exact h.tillCommandDone
      · extract_lets c s1
        have h1 : s1.storesWf := h.foldl fun _ _ h => h.foldl fun _ _ h => h.of_finishUnit rfl
        clear_value s1
        split
        · exact h1.tillCommandDone
        · exact .ite h1.tillCommandDone h1.dropHub.writeDigests.finishRun
    · exact h.tillCommandDone

theorem State.storesWf.of_mapUnits (h : s.storesWf) (e : s.mapUnits g f x = .ok u) : u.storesWf := by
  induction x generalizing s g f u with
  | nil =>
    rw [State.mapUnits] at e
    cases e
    exact h
  | cons a x ih =>
    rw [State.mapUnits] at e
    obtain ⟨x, hx, e⟩ := accBind_eq_ok.mp e
    obtain ⟨x, hx, e⟩ := accBind_eq_ok.mp e
    exact ih (h.of_vwrite ‹_›) ‹_›

theorem State.keepsWf.execTillGroupSet : s.keepsWf (Machine.execTillGroupSet hdr va s) := by
  refine .command fun c u h => h.cmdRead fun bs v h => ?_
  extract_lets g map1 first overlap
  clear_value overlap first
  split
  · exact h.reply
  · refine .ite h.reply ?_
    split
    next h1 =>
      dsimp only
      split
      · exact (h.of_mapUnits h1).setTill.claim.cmdWrite
      · exact (h.of_mapUnits h1).setTill.claim.accessFault.reply
      · exact (h.of_mapUnits h1).setTill.claim.reply
    · exact h.accessFault.reply
    · exact h.reply

theorem State.keepsWf.execTillGroupClear : s.keepsWf (Machine.execTillGroupClear h1 gid s) := by
  unfold Machine.execTillGroupClear
  refine .command fun c s h => ?_
  split
  · exact h.reply
  · exact .ite h.reply h.setTill.unclaim.reply

theorem State.keepsWf.execTillGroupStatus : s.keepsWf (Machine.execTillGroupStatus h1 gid va s) := by
  unfold Machine.execTillGroupStatus
  refine .command fun c s h => ?_
  split
  · exact h.reply
  · exact h.cmdWrite

theorem State.keepsWf.execTillGroupEpoch : s.keepsWf (Machine.execTillGroupEpoch h1 gid wepoch lepoch s) := by
  unfold Machine.execTillGroupEpoch
  refine .command fun c s h => ?_
  split
  · exact h.reply
  · exact .ite h.reply (.ite h.reply h.modGroup.reply)

theorem State.keepsWf.execTillDigestVerify : s.keepsWf (Machine.execTillDigestVerify h1 gid flags s) := by
  unfold Machine.execTillDigestVerify
  refine .command fun c s h => ?_
  split
  · exact h.reply
  · split
    · exact h.reply
    · split
      · exact h.reply
      · split
        · extract_lets
          split
          · exact h.reply
          · split
            · split
              · exact (h.of_mapUnits ‹_›).cmdWrite
              · exact ((h.of_mapUnits ‹_›).accessFault).reply
              · exact (h.of_mapUnits ‹_›).reply
            · exact h.accessFault.reply
            · exact h.reply
        · exact h.accessFault.reply
        · exact h.reply

/-! ### Of Machine/Coll -/

theorem State.storesWf.setColls (h : s.storesWf) : (s.setColls v).storesWf := h

theorem State.storesWf.of_taskWrite (h : s.storesWf) (e : s.taskWrite g t job tags va bs = .ok u) : u.storesWf := by
  unfold State.taskWrite at e
  obtain ⟨x, hx, e⟩ := accBind_eq_ok.mp e
  obtain ⟨x, hx, e⟩ := accBind_eq_ok.mp e
  cases e
  exact (h.of_writePieces ‹_›).remoteWrites

theorem State.storesWf.of_taskWrites (h : s.storesWf) (e : s.taskWrites g t job tags x = .ok u) : u.storesWf := by
  induction x generalizing s g t job tags u with
  | nil =>
    rw [State.taskWrites] at e
    cases e
    exact h
  | cons a x ih =>
    rw [State.taskWrites] at e
    split at e
    · exact ih (h.of_taskWrite ‹_›) ‹_›
    · exact h.of_taskWrite ‹_›

theorem State.storesWf.unitAddress (h : s.storesWf) : (s.unitAddress x g t tags a poison1).storesWf :=
  h.accessFault.dropHub.failTask

theorem State.storesWf.pinTask (h : s.storesWf) : (s.pinTask x unit g t tags rs).storesWf := by
  unfold State.pinTask
  extract_lets
  split
  · exact .ite h h.setXlt.modTask
  · split
    · exact (h.of_raise ‹_›).modTask
  · exact h.unitAddress
  · exact h

theorem State.storesWf.putColl (h : s.storesWf) : (s.putColl r).storesWf := h.setColls
theorem State.storesWf.dropColl (h : s.storesWf) : (s.dropColl g t).storesWf := h.setColls
theorem State.storesWf.countColl (h : s.storesWf) : (s.countColl job f).storesWf := h.setColls

theorem State.storesWf.collTake (h : s.storesWf) : (s.collTake g t).storesWf := by
  unfold State.collTake
  split
  · extract_lets job s1
    have h1 : s1.storesWf := h.dropHub
    clear_value s1
    split
    · exact .ite h1.failTask h1.setColls
    · split
      · exact (h.of_raise ‹_›).modTask
    · exact h.unitAddress
    · exact h.hubFetch
  · exact h

theorem State.storesWf.collProbe (h : s.storesWf) : (s.collProbe g t).storesWf := by
  unfold State.collProbe
  split
  · exact .ite h h.pinTask
  · exact h

theorem State.storesWf.sendColl (h : s.storesWf) : (s.sendColl dst m).storesWf := by
  unfold State.sendColl
  split
  · exact ((h.of_nextSeq ‹_›).countColl).transmit

theorem State.storesWf.sendSpans (h : s.storesWf) : (s.sendSpans dst m sig data x).storesWf := by
  induction x generalizing s dst m sig data with
  | nil =>
    rw [State.sendSpans]
    exact h
  | cons a x ih =>
    rw [State.sendSpans]
    exact ih h.sendColl

theorem State.storesWf.collMismatch (h : s.storesWf) : (s.collMismatch g t job tags id1).storesWf :=
  h.dropColl.countColl.partFault.failTask
theorem State.storesWf.collCut (h : s.storesWf) : (s.collCut g t dsts).storesWf := .ite h.dropColl.failTask h

theorem State.storesWf.collReduce (h : s.storesWf) : (s.collReduce r p l masked tags).storesWf := by
  unfold State.collReduce
  extract_lets
  split
  · exact h.putColl
  · split
    · exact .ite (.putColl (.ite h h.count)) (.collCut (.foldl (.putColl (.ite h h.count)) fun _ _ h => h.sendSpans))

theorem State.storesWf.collMatch (h : s.storesWf) : (s.collMatch r m).storesWf := by
  unfold State.collMatch
  extract_lets
  split
  · exact h
  · exact .ite h.collMismatch (.ite h h.collReduce)

set_option maxRecDepth 20000 in
theorem State.storesWf.collBegin (h : s.storesWf) : (s.collBegin g t r tags).storesWf := by
  unfold State.collBegin
  dsimp only
  split
  · exact h.hubFetch
  · exact h.dropColl.unitAddress
  · exact h.dropColl.unitAddress
  · have h1 : ∀ (c : Prop) [Decidable c] n x y, (((if c then s.dropHub r.job else (s.dropHub r.job).count .gradSilent 0 n).putColl x).setColls y).storesWf :=
      fun c _ n x y => .setColls (.putColl (.ite h.dropHub h.dropHub.count))
    refine .ite (.collMismatch (h1 ..)) (.foldl (.collCut (.collReduce (.foldl (h1 ..) ?_))) ?_)
    · intro u x hu
      exact .ite hu hu.sendSpans
    · intro u m hu
      split
      · exact hu.collMatch
      · exact hu

theorem State.keepsWf.execCollStart : s.keepsWf (Machine.execCollStart graph1 task1 s) := by
  unfold Machine.execCollStart
  extract_lets
  split
  · exact .next id
  · split
    · exact .ite (.next fun h => h.collTake.collProbe.collBegin) (.next fun h => h.collTake.collProbe)
    · exact .next fun h => h.collTake.collProbe

theorem State.storesWf.collArrive (h : s.storesWf) : (s.collArrive src seq m).storesWf := by
  unfold State.collArrive
  extract_lets s1 s2
  have h1 : s1.storesWf := h.noteSeq.countColl
  clear_value s1
  have h2 : s2.storesWf := h1.count
  clear_value s2
  split
  · exact h2
  · split
    · exact h1.collMatch
    · exact .ite h1.setColls h

theorem State.keepsWf.execCollDone : s.keepsWf (Machine.execCollDone graph1 task1 s) := by
  unfold Machine.execCollDone
  extract_lets
  split
  · extract_lets
    split
    · exact .next id
    · split
      · exact .next fun h => (((h.of_taskWrites ‹_›).dropColl).countColl).modTask
      · exact .next fun h => h.dropColl.unitAddress
      · exact .next fun h => h.dropColl.unitAddress
      · exact .next id
  · exact .next id

theorem State.keepsWf.execCollTimeout : s.keepsWf (Machine.execCollTimeout graph1 task1 s) := by
  unfold Machine.execCollTimeout
  split
  · exact .ite (.next id) (.next fun h => h.dropColl.countColl.failTask)
  · exact .next id

theorem State.storesWf.loseColls (h : s.storesWf) : (s.loseColls part).storesWf := h.foldl fun _ _ h => .ite h.dropColl.failTask h
theorem State.keepsWf.execCollStatus : s.keepsWf (Machine.execCollStatus h1 clear s) :=
  .command (fun _ _ h => .ite h.reply (.reply (.ite h.countColl h)))

theorem State.storesWf.unlessBusy {k : State → State} (h : s.storesWf) (hk : ∀ u : State, u.storesWf → (k u).storesWf) :
    (s.unlessBusy c job busy k).storesWf := by
  unfold State.unlessBusy
  split
  · exact h.dropHub.reply
  · exact hk _ h.dropHub
  · exact h.parkCmd.hubFetch
  · exact h.dropHub.accessFault.reply
  · exact h.dropHub.reply

theorem State.keepsWf.execGmaskClear : s.keepsWf (Machine.execGmaskClear h1 mid s) :=
  .command (fun _ _ h => .ite h.reply (.ite h.reply (h.unlessBusy (fun _ h => .reply (.setTill h)))))

theorem State.keepsWf.execGmaskBind : s.keepsWf (Machine.execGmaskBind h1 gid mid s) := by
  unfold Machine.execGmaskBind
  refine .command fun c s h => ?_
  split
  · exact h.reply
  · exact .ite h.reply (.ite h.reply (h.unlessBusy (fun _ h => h.modGroup.reply)))

/-! ### Of Machine/Boundary -/

theorem State.storesWf.setReplica (h : s.storesWf) : (s.setReplica v).storesWf := h

theorem State.storesWf.replayDone (h : s.storesWf) : (s.replayDone g).storesWf := by
  unfold State.replayDone
  split
  · exact h
  · extract_lets _ s1
    have h1 : s1.storesWf := h.setReplay
    clear_value s1
    split
    · exact h1.replyWaiting

theorem State.storesWf.closeBoundary (h : s.storesWf) : (s.closeBoundary g rolled).storesWf := by
  unfold State.closeBoundary
  split
  · exact h
  · extract_lets s1 s2 s3 s4
    have h1 : s1.storesWf := .ite h h.readErrors
    clear_value s1
    have h2 : s2.storesWf := h1.captureEnd.replayDone.dropHub
    clear_value s2
    have h3 : s3.storesWf := .ite h2.send h2
    clear_value s3
    have h4 : s4.storesWf := h3.modGraph
    clear_value s4
    split
    · exact h2
    · split
      · exact h4.failGraph
      · exact .ite h4.failGraph h4

theorem State.storesWf.finishBoundary (h : s.storesWf) : (s.finishBoundary g rolled).storesWf := by
  unfold State.finishBoundary
  split
  · exact h
  · split
    · exact h.modGraph.hubFetch
    · exact h.modGraph.closeBoundary

/-! ### Of Machine/Replica -/

theorem State.storesWf.modReplica (h : s.storesWf) : (s.modReplica job f).storesWf := h.setReplica
theorem State.storesWf.modPair (h : s.storesWf) : (s.modPair job f).storesWf := h.setReplica
theorem State.storesWf.putWork (h : s.storesWf) : (s.putWork w).storesWf := h.setReplica
theorem State.storesWf.dropWork (h : s.storesWf) : (s.dropWork job).storesWf := h.setReplica
theorem State.storesWf.sendOwn (h : s.storesWf) : (s.sendOwn w parts id1 bytes).storesWf :=
  h.foldl fun _ _ h => h.foldl fun _ _ h => h.sendColl

theorem State.storesWf.of_takeOwn (h : s.storesWf) (e : s.takeOwn w id1 = (r1, u)) : u.storesWf := by
  unfold State.takeOwn at e
  dsimp only at e
  cases e
  exact h.setColls

theorem State.storesWf.of_applyRepair (h : s.storesWf) (e : s.applyRepair g r chunks = .ok u) : u.storesWf := by
  obtain ⟨t, ht, e⟩ := accBind_eq_ok.mp e
  cases e
  refine .writeDigests (.modGroup ?_)
  refine List.foldlRecOn (motive := fun a : Acc State => ∀ t, a = .ok t → t.storesWf) _ _ (fun t e => by cases e; exact h) ?_ t ht
  intro a ha unit _ t ht
  obtain ⟨t', ht', ht⟩ := accBind_eq_ok.mp ht
  obtain ⟨p, hp, e⟩ := accBind_eq_ok.mp ht
  cases e
  exact (ha t' ht').of_vwrite hp

theorem State.storesWf.copySpace (h : s.storesWf) : (s.copySpace job src dst n).storesWf := by
  induction n generalizing s src dst with
  | zero => exact h
  | succ n ih =>
    refine ih ?_
    split
    · split
      · exact (h.of_vwrite ‹_›).remoteWrites
      · exact h.accessFault
      · exact h.accessFault
    · exact h.accessFault
    · exact h.accessFault

theorem State.storesWf.copyRegions (h : s.storesWf) : (s.copyRegions job save l a).storesWf := by
  induction l generalizing s a with
  | nil => exact h
  | cons r l ih => exact ih (.ite h.copySpace h.copySpace)

theorem State.storesWf.snapWrite (h : s.storesWf) : (s.snapWrite job va bs).storesWf := by
  unfold State.snapWrite
  split
  · exact (h.of_vwrite ‹_›).remoteWrites
  · exact h.accessFault
  · exact h.accessFault

theorem State.storesWf.takeSnapshot_ (h : s.storesWf) : (s.takeSnapshot_ c step1).storesWf :=
  h.copyRegions.snapWrite.setTill.modReplica

theorem State.storesWf.restoreCounter (h : s.storesWf) : (s.restoreCounter i v).storesWf := by
  unfold State.restoreCounter
  split
  · exact h.setBell
  · exact h.signalAt

theorem State.storesWf.restore (h : s.storesWf) : (s.restore c step1).storesWf := by
  unfold State.restore
  extract_lets s1 a s2
  have h1 : s1.storesWf := h.foldl fun _ _ h => .ite h h.copySpace.writeDigests
  clear_value s1
  have h2 : s2.storesWf := h1.copyRegions
  clear_value s2
  split
  · exact h2.resetCounters.foldl fun _ _ h => h.restoreCounter
  · exact h2.accessFault

theorem State.storesWf.replicaFault (h : s.storesWf) : (s.replicaFault job cls action detail).storesWf := h.partFault

theorem State.storesWf.takeOutcome (h : s.storesWf) : (s.takeOutcome w c o).storesWf := by
  unfold State.takeOutcome
  extract_lets s1
  have h1 : s1.storesWf := h.dropWork
  clear_value s1
  split
  · exact h1.takeSnapshot_.finishBoundary
  · split
    · split
      · exact h1.modReplica.replicaFault.failGraph
      · exact .ite h1.modReplica.replicaFault.failGraph h1.restore.modReplica.replicaFault.finishBoundary.modGraph
    · exact h1.modReplica.replicaFault.failGraph

theorem State.storesWf.rederive (h : s.storesWf) : (s.rederive gid).storesWf := by
  unfold State.rederive
  split
  · exact .ite h.tillPost.modReplica h
  · exact h

theorem State.storesWf.splitsNext (h : s.storesWf) : (s.splitsNext w).storesWf :=
  .ite h.putWork (.putWork (h.foldl fun _ _ h => h.rederive))

theorem State.storesWf.judge (h : s.storesWf) : (s.judge w c).storesWf := by
  unfold State.judge
  exact .ite h.putWork (.ite h.putWork (.putWork (.ite h h.replicaFault)))

theorem State.storesWf.judgePair (h : s.storesWf) : (s.judgePair w ts ws).storesWf :=
  .ite h.modPair.splitsNext (.putWork (.ite h.modPair h.modPair.replicaFault))
theorem State.storesWf.sendTables (h : s.storesWf) : (s.sendTables p ts).storesWf := h.send

theorem State.storesWf.tableStop (h : s.storesWf) : (s.tableStop w a).storesWf := by
  unfold State.tableStop
  split
  · exact h.hubFetch
  · exact h.accessFault.putWork
  · exact h.accessFault.putWork
  · exact h

theorem State.storesWf.workStep (h : s.storesWf) : (s.workStep w c).storesWf := by
  unfold State.workStep
  split
  · refine .ite ?_ ?_
    · split
      · exact h.dropHub.sendOwn.putWork
      · exact h.tableStop
    · split
      have h1 := h.of_takeOwn ‹_›
      exact .ite h1.putWork.judge h1.putWork
  · split
    · exact h.splitsNext
    · split
      · exact h.putWork
      · refine .ite h.putWork ?_
        split
        · refine .putWork (.replicaFault (.modReplica (.dropHub ?_)))
          split
          · exact h.of_applyRepair ‹_›
          · exact h.accessFault
          · exact h
        · exact h.foldl fun _ _ h => h.hubFetch
  · split
    · exact h
    · split
      · split
        · exact h.dropHub.sendTables.putWork
        · exact h.putWork
        · exact h.tableStop
      · exact h.putWork
  · split
    · exact h.putWork
    · split
      · exact h.dropHub.sendTables.putWork
      · split
        · exact h.modPair.judgePair
        · exact h
    · exact h.tableStop
  · refine .ite h.sendOwn.putWork ?_
    split
    have h1 := h.of_takeOwn ‹_›
    exact .ite h1.putWork.takeOutcome h1.putWork

theorem State.storesWf.pumpWork (h : s.storesWf) : (Machine.pumpWork job x s).storesWf := by
  induction x generalizing job s with
  | zero =>
    rw [Machine.pumpWork]
    exact h
  | succ x ih =>
    rw [Machine.pumpWork]
    split
    · exact .ite h.dropWork (.ite h.workStep (ih h.workStep))
    · exact h.dropWork
    · exact h

theorem State.storesWf.pumpBoundary (h : s.storesWf) : (s.pumpBoundary job).storesWf := by
  unfold State.pumpBoundary
  split
  · exact h.pumpWork
  · exact h

theorem State.storesWf.pumpBoundaries (h : s.storesWf) : s.pumpBoundaries.storesWf := h.foldl fun _ _ h => h.pumpBoundary

theorem State.storesWf.startBoundary (h : s.storesWf) : (s.startBoundary g).storesWf := by
  unfold State.startBoundary
  split
  · exact h
  · extract_lets
    split
    · exact .ite h.dropWork.setReplica.pumpBoundary h.finishBoundary
    · exact h.finishBoundary

/-! ### Of Machine/ReplicaCmds -/

theorem State.keepsWf.execReplicaSet : s.keepsWf (Machine.execReplicaSet h1 graph1 axes k snap size list count1 first ncnt s) :=
  .command (fun _ _ h => .ite h.reply (h.cmdRead (fun _ _ h => .ite h.reply (.ite h.reply h.setReplica.reply))))
theorem State.keepsWf.execReplicaClear : s.keepsWf (Machine.execReplicaClear h1 s) :=
  .command (fun _ _ h => .ite h.reply (.ite h.reply h.setTill.setReplica.reply))

theorem State.keepsWf.execReplicaStatus : s.keepsWf (Machine.execReplicaStatus h1 s) := by
  unfold Machine.execReplicaStatus
  refine .command fun c s h => ?_
  extract_lets
  split
  · exact h.reply
  · exact h.reply

theorem State.keepsWf.execReplicaResume : s.keepsWf (Machine.execReplicaResume h1 s) :=
  .command (fun _ _ h => .ite h.reply (.reply (h.foldl fun _ _ h => .ite h.modGraph h)))

theorem State.keepsWf.execSnapshotCopyDone : s.keepsWf (Machine.execSnapshotCopyDone job gid s) := by
  unfold Machine.execSnapshotCopyDone
  split
  · exact .ite (.next id) (.next fun h => h.copySpace.setTill.pumpBoundary)
  · exact .next id

theorem State.keepsWf.execPairSet : s.keepsWf (Machine.execPairSet h1 role qp1 region1 raddr rkey hb0 hb1 timeout s) :=
  .command (fun _ _ h => .ite h.reply (.ite h.reply (.reply (h.setReplica.modReplica.foldl fun _ _ h => .ite h.modGraph h))))
theorem State.keepsWf.execPairClear : s.keepsWf (Machine.execPairClear h1 s) :=
  .command (fun _ _ h => .ite h.reply (.ite h.reply h.setReplica.reply))

theorem State.keepsWf.execPairStatus : s.keepsWf (Machine.execPairStatus h1 s) := by
  unfold Machine.execPairStatus
  refine .command fun c s h => ?_
  split
  · exact h.reply
  · exact h.reply

theorem State.storesWf.losePair (h : s.storesWf) : (s.losePair job).storesWf :=
  .pumpBoundary (h.modPair.foldl fun _ _ h => .ite h.modGraph h)
theorem State.storesWf.declareLost (h : s.storesWf) : (s.declareLost job).storesWf := h.partFault.send.losePair
theorem State.storesWf.withdrawPairs (h : s.storesWf) : s.withdrawPairs.storesWf :=
  h.foldl fun _ _ h => h.send.modPair.pumpBoundary

theorem State.keepsWf.execExchangeTable : s.keepsWf (Machine.execExchangeTable job step1 table s) := by
  unfold Machine.execExchangeTable
  split
  · exact .next id
  · extract_lets
    split
    · exact .next id
    · exact .ite (.next id) (.ite (.next fun h => h.poke.modPair.pumpBoundary) (.next fun h => h.poke))

theorem State.keepsWf.execExchTimeout : s.keepsWf (Machine.execExchTimeout job s) := by
  unfold Machine.execExchTimeout
  split
  · exact .ite (.next fun h => h.modPair.send.declareLost) (.next id)
  · exact .next id

theorem State.keepsWf.execHeartbeatSend : s.keepsWf (Machine.execHeartbeatSend job s) := by
  unfold Machine.execHeartbeatSend
  split
  · exact .ite (.next id) (.next fun h => h.send.send)
  · exact .next id

theorem State.keepsWf.execHeartbeatLoss : s.keepsWf (Machine.execHeartbeatLoss job s) := by
  unfold Machine.execHeartbeatLoss
  split
  · exact .ite (.next id) (.next fun h => h.declareLost)
  · exact .next id

theorem State.keepsWf.execWithdraw : s.keepsWf (Machine.execWithdraw job s) := by
  unfold Machine.execWithdraw
  split
  · exact .next fun h => h.declareLost
  · exact .next id

theorem State.keepsWf.execPairLossBroadcast : s.keepsWf (Machine.execPairLossBroadcast job s) := by
  unfold Machine.execPairLossBroadcast
  split
  · exact .next fun h => h.losePair
  · exact .next id

theorem State.keepsWf.execColl : s.keepsWf (Machine.execColl p rank params first data collId step1 s) :=
  .ite (.next id) (.ite (.next fun h => h.dropPacket) (.ite (.next fun h => h.transmit) (.ite (.next fun h => h.countDrop) (.next fun h => h.collArrive.pumpBoundary))))
theorem State.keepsWf.execTillCommandDone : s.keepsWf (Machine.execTillCommandDone s) :=
  .next fun h => h.tillCommandDone.pumpBoundaries

/-! ### Of Machine/Sweep -/

theorem State.storesWf.of_sweepBlocks (h : s.storesWf) (e : Machine.sweepBlocks h1 w m d key x x1 s = (u, r1)) : u.storesWf := by
  induction x generalizing h1 w m d key x1 s u r1 with
  | nil =>
    rw [Machine.sweepBlocks] at e
    cases e
    exact h
  | cons a x ih =>
    rw [Machine.sweepBlocks] at e
    split at e
    · split at e
      · dsimp only at e
        split at e
        · split at e
          · cases e
            exact h.applyWrites.count
          · exact ih h.applyWrites.count ‹_›
        · split at e
          · cases e
            exact h.applyWrites.count.hallFault
          · exact ih h.applyWrites.count.hallFault ‹_›
        · split at e
          · cases e
            exact h.applyWrites
          · exact ih h.applyWrites ‹_›
      · cases e
        exact h
      · cases e
        exact h
      · cases e
        exact h
    · cases e
      exact h
    · cases e
      exact h
    · cases e
      exact h

theorem State.storesWf.sweepFailed (h : s.storesWf) : (s.sweepFailed h1 a).storesWf := h.count.hallFault

theorem State.storesWf.sweepTensors (h : s.storesWf) : (Machine.sweepTensors x l w s).storesWf := by
  induction l generalizing w s with
  | nil => exact h
  | cons e l ih =>
    rw [Machine.sweepTensors]
    split
    · exact ih (h.of_sweepBlocks ‹_›)
    · exact ih (h.of_sweepBlocks ‹_›).sweepFailed
    · exact (h.of_sweepBlocks ‹_› :)
    · exact .remoteRead (h.of_sweepBlocks ‹_› :)

theorem State.storesWf.pumpSweep (h : s.storesWf) : (s.pumpSweep h1).storesWf := by
  unfold State.pumpSweep
  split
  · exact .ite h h.sweepTensors
  · exact h

theorem State.storesWf.sweepWriteFailed (h : s.storesWf) : (s.sweepWriteFailed h1 a).storesWf := by
  unfold State.sweepWriteFailed
  split
  · exact h
  · exact .pumpSweep (.of_eq h.setFab.sweepFailed rfl rfl rfl)

theorem State.storesWf.startSweep (h : s.storesWf) : (s.startSweep g h1).storesWf := by
  unfold State.startSweep
  extract_lets i l s1
  have h1 : s1.storesWf := h
  clear_value s1
  split
  · exact h1
  · exact .pumpSweep h1

theorem State.storesWf.xchkAlert (h : s.storesWf) : (s.xchkAlert g code accw1).storesWf := by
  unfold State.xchkAlert
  extract_lets x n s1 s2 s3
  have h3 : s3.storesWf := .count (.xchkCount (.of_eq h rfl rfl rfl))
  clear_value s3
  split
  · exact .raiseAlert (.graphEvent (.xchkCount (.of_eq h3 rfl rfl rfl)))
  · exact .ite (.of_eq h3 rfl rfl rfl) h3

theorem State.storesWf.freeCheck (h : s.storesWf) : (s.freeCheck h1 i).storesWf := h

theorem State.storesWf.checkVerdict (h : s.storesWf) : (s.checkVerdict g x i).storesWf := by
  unfold State.checkVerdict
  extract_lets xc va
  split
  · exact .hubFetch (.of_eq h rfl rfl rfl)
  · extract_lets tags code put
    have hput : ∀ (u : State) a b, u.storesWf → (put u a b).storesWf := by
      intro u a b hu
      dsimp only [put]
      split
      · exact (hu.of_vwrite ‹_›).remoteWrites
      · exact hu.accessFault
    clear_value put
    have h2 : ∀ a b c d, (put (put (s.dropHub xc.job) a b) c d).storesWf := fun _ _ _ _ => hput _ _ _ (hput _ _ _ h.dropHub)
    split
    exact .ite (.xchkAlert (.ite (h2 ..) (h2 ..).freeCheck)) (.ite (h2 ..) (h2 ..).freeCheck)
  · exact h.dropHub.freeCheck.accessFault.xchkCount

theorem State.storesWf.pumpVerdicts (h : s.storesWf) : s.pumpVerdicts.storesWf := .foldl h fun _ _ h => h.checkVerdict

theorem State.storesWf.applyWidened (h : s.storesWf) : s.applyWidened.storesWf := by
  unfold State.applyWidened
  extract_lets ins new s1
  have h1 : s1.storesWf := h.foldl fun _ _ h => .ite h (.ite h h.partFault)
  clear_value s1
  exact h1

theorem State.storesWf.rollXchk (h : s.storesWf) : (s.rollXchk job).storesWf := h
theorem State.keepsWf.execXchkConfig : s.keepsWf (Machine.execXchkConfig h1 base entries entry1 threads1 alerts s) :=
  .command (fun _ _ h => .ite h.reply (.ite h.reply (.reply (.claim h))))
theorem State.keepsWf.execXchkStatus : s.keepsWf (Machine.execXchkStatus h1 clear va s) :=
  .command (fun _ _ h => .ite h.reply (.cmdWrite (.ite h h)))

/-! ### Of Machine/StepOver -/

theorem State.storesWf.boundaryNext (h : s.storesWf) : (s.boundaryNext g gr).storesWf :=
  .ite (.failGraph (.rollXchk (.ite h.applyWidened h))) (.startBoundary (.rollXchk (.ite h.applyWidened h)))

theorem State.storesWf.afterSweep (h : s.storesWf) : s.afterSweep.storesWf := by
  unfold State.afterSweep
  split
  · exact h
  · refine State.storesWf.foldl ?_ fun s _ h => ?_
    · exact h
    · split
      · exact .ite h.boundaryNext h
      · exact h

theorem State.storesWf.checkStepEnd (h : s.storesWf) : (s.checkStepEnd g).storesWf := by
  unfold State.checkStepEnd
  split
  · exact h
  · exact .ite (.checkLayouts (.afterSweep (.foldl (.ite h.setGraph.send h.setGraph) fun _ _ h => h.startSweep))) h

/-! ### Of Machine/Submit -/

theorem State.storesWf.replaySkips (h : s.storesWf) : (s.replaySkips g).storesWf := by
  unfold State.replaySkips
  split
  · exact .ite h.closeStep.skipTasks h.closeStep
  · exact h

theorem State.storesWf.openStep (h : s.storesWf) : (s.openStep g step1 expired1).storesWf := by
  unfold State.openStep
  extract_lets s1
  have h1 : s1.storesWf := h.captureStart
  clear_value s1
  split
  · exact h1
  · extract_lets recs s2 s3 s4 s5
    have h2 : s2.storesWf := h1.setGraph
    clear_value s2
    have h3 : s3.storesWf := by
      unfold s3
      split
      · exact h2.closeStep
      · exact h2
    clear_value s3
    have h4 : s4.storesWf := h3.replaySkips
    clear_value s4
    have h5 : s5.storesWf := h4.foldl fun _ _ h => .ite h.predsDone h
    clear_value s5
    exact h5.tryAdmit.checkStepEnd

theorem State.storesWf.beginStep (h : s.storesWf) : (s.beginStep g step1 expired1).storesWf := by
  unfold State.beginStep
  split
  · exact h
  · split
    · exact h.modGraph.hubFetch
    · exact h.modGraph.openStep

theorem State.storesWf.resumeStart (h : s.storesWf) : (s.resumeStart g gr).storesWf := by
  unfold State.resumeStart
  split
  · exact h.beginStep
  · exact h

theorem State.storesWf.edgeCloses (h : s.storesWf) : (s.edgeCloses g gr).storesWf :=
  .ite (.checkStepEnd (.readmit (.closeStep (.send (.ite h.sendAdmit h))))) h

theorem State.storesWf.latchEdge (h : s.storesWf) : (s.latchEdge g).storesWf := by
  unfold State.latchEdge
  extract_lets s1
  have h1 : s1.storesWf := h.modGraph
  clear_value s1
  split
  · exact .ite h1.edgeCloses h1
  · exact h1

theorem State.storesWf.holdRead (h : s.storesWf) : (s.holdRead g job h1).storesWf := by
  unfold State.holdRead
  split
  · exact (h.of_raise ‹_›).modTask

theorem State.storesWf.loadGraph (h : s.storesWf) : (s.loadGraph g).storesWf := by
  unfold State.loadGraph
  split
  · exact h
  · split
    · split
      · exact h.setGraph.hubFetch
      · exact .ite (.latchEdge (h.setGraph.beginStep.dropHub.foldl fun _ _ h => h.holdRead)) (h.setGraph.beginStep.dropHub.foldl fun _ _ h => h.holdRead)
    · exact h.setGraph.failGraph
    · split
      · exact (h.of_raise ‹_›).setGraph
    · exact h.setGraph.hubFetch
    · exact h.setGraph.accessFault.failGraph
    · exact h

theorem State.storesWf.lateSkip (h : s.storesWf) : (s.lateSkip g t).storesWf := by
  unfold State.lateSkip
  split
  · exact h
  · extract_lets s1
    have h1 : s1.storesWf := by
      unfold s1
      split
      · exact h.skipTasks
      · exact h
    clear_value s1
    exact .ite h1.skipTasks h1

theorem State.storesWf.installRec (h : s.storesWf) : (s.installRec g t r).storesWf := by
  unfold State.installRec
  split
  · exact .ite h.setGraph.modTask.failGraph (.checkStepEnd (.checkUpdate (.ite h.setGraph.modTask.lateSkip.predsDone h.setGraph.modTask.lateSkip)))
  · exact h

theorem State.storesWf.readTask (h : s.storesWf) : (s.readTask g t).storesWf := by
  unfold State.readTask
  split
  · exact h
  · split
    · exact h.dropHub.installRec
    · exact h.failGraph
    · exact h.holdRead
    · exact h.hubFetch
    · exact h.accessFault.failGraph
    · exact h

theorem State.storesWf.rereadGraph (h : s.storesWf) : (s.rereadGraph g).storesWf := by
  unfold State.rereadGraph
  split
  · exact h
  · exact h.foldl fun _ _ h => h.readTask

theorem State.keepsWf.execGraphSubmit : s.keepsWf (Machine.execGraphSubmit h1 va s) := by
  unfold Machine.execGraphSubmit
  refine .command fun c s h => ?_
  split
  · exact h.reply
  · split
    · exact h.reply
    · split
      · exact h.reply
      · split
        · split
          · exact (h.of_raise ‹_›).parkCmd
        · exact h.dropHub.accessFault.reply
        · exact h.parkCmd.hubFetch
        · exact .ite h.dropHub.reply (.ite h.dropHub.reply (.loadGraph (.reply (.setGraph (.ite h.dropHub.claim h.dropHub)))))

theorem State.keepsWf.execGraphStop : s.keepsWf (Machine.execGraphStop h1 handle mode s) := by
  unfold Machine.execGraphStop
  refine .command fun c s h => ?_
  split
  · exact h.reply
  · split
    · exact h.reply
    · exact .ite h.reply (.ite h.waitCmd.failGraph (.ite h.waitCmd.failGraph h.waitCmd.modGraph))

theorem State.keepsWf.execGraphStatus : s.keepsWf (Machine.execGraphStatus h1 handle s) := by
  unfold Machine.execGraphStatus
  refine .command fun c s h => ?_
  split
  · exact h.reply
  · split
    · exact h.reply
    · exact h.reply

theorem State.keepsWf.execGraphRelease : s.keepsWf (Machine.execGraphRelease h1 handle s) := by
  unfold Machine.execGraphRelease
  refine .command fun c s h => ?_
  split
  · exact h.reply
  · split
    · exact h.reply
    · split
      · exact h.reply
      · extract_lets s1 _ s2 last _ s3
        have h1 : s1.storesWf := h.setGraph.unclaim
        clear_value s1
        have h2 : s2.storesWf := h1
        clear_value s2
        have h3 : s3.storesWf := .ite h2 h2
        clear_value s3
        exact .reply (.ite h3.unclaim h3)

/-! ### Of Machine/ReplayCmds -/

theorem State.storesWf.emptyRecords (h : s.storesWf) : (s.emptyRecords c).storesWf := h.foldl fun _ _ h => h.poke
theorem State.keepsWf.execReplayConfig : s.keepsWf (Machine.execReplayConfig h1 hall1 mode step1 buf batch list count1 s) :=
  .command (fun _ _ h => .ite h.reply (.ite h.setReplay.unclaim.reply (.ite h.reply (h.cmdRead (fun _ _ h => .ite h.reply (.ite h.reply h.setReplay.emptyRecords.claim.reply))))))

theorem State.keepsWf.execReplayRead : s.keepsWf (Machine.execReplayRead h1 step1 va s) := by
  unfold Machine.execReplayRead
  refine .command fun c s h => ?_
  split
  · exact h.cmdWrite
  · exact h.reply

theorem State.storesWf.checkReplay {k : Nat × Nat → State → State} (h : s.storesWf)
    (hk : ∀ (i : Nat × Nat) (u : State), u.storesWf → (k i u).storesWf) : (s.checkReplay c n off k).storesWf := by
  unfold State.checkReplay
  dsimp only
  split
  · exact h.parkCmd.hubFetch
  · exact .ite h.readErrors.dropHub.reply (hk _ s h)

theorem State.keepsWf.execReplayCheck : s.keepsWf (Machine.execReplayCheck h1 step1 header s) :=
  .command (fun _ _ h => h.checkReplay (fun _ _ h => h.dropHub.reply))

theorem State.keepsWf.execReplayRun : s.keepsWf (Machine.execReplayRun h1 step1 header flags s) := by
  unfold Machine.execReplayRun
  refine .command fun c s h => ?_
  split
  · exact h.reply
  · split
    · exact h.reply
    · split
      · exact h.reply
      · exact h.reply
      · exact h.checkReplay (fun _ _ h => .ite h.dropHub.reply (.ite h.dropHub.reply (h.cmdRead (fun _ _ h => .ite h.reply h.setReplay.setGraph.waitCmd.loadGraph))))

/-! ### Of Machine/StepEnd -/

theorem State.storesWf.countPhase (h : s.storesWf) : (s.countPhase g t ts r).storesWf := by
  unfold State.countPhase
  split
  · exact h
  · exact .ite h (.ite (.ite h.modGraph.failGraph h.modGraph) (.ite h.modGraph.failGraph h.modGraph))

theorem State.storesWf.completeTask (h : s.storesWf) : (s.completeTask g t ts r).storesWf := by
  unfold State.completeTask
  extract_lets s1 s2 s3 s4 s5 s6 s7 s8 s9 s10
  have h1 : s1.storesWf := by
    unfold s1
    split
    · exact h.traceStall
    · exact .ite h.traceEvent h
  clear_value s1
  have h2 : s2.storesWf := h1.freeTask
  clear_value s2
  have h3 : s3.storesWf := h2.modTask
  clear_value s3
  have h4 : s4.storesWf := h3.modGraph
  clear_value s4
  have h5 : s5.storesWf := h4.unpin
  clear_value s5
  have h6 : s6.storesWf := .ite h5.signalAt h5
  clear_value s6
  have h7 : s7.storesWf := by
    unfold s7
    split
    · exact h6.checkVerdict
    · exact h6
  clear_value s7
  have h8 : s8.storesWf := .ite h7.countPhase.releaseSuccs.checkUpdate.tryAdmit.checkStepEnd h7.settle
  clear_value s8
  have h9 : s9.storesWf := h8.freeCopies
  clear_value s9
  have h10 : s10.storesWf := by
    unfold s10
    split
    · exact h9.updateLend
    · exact h9
  clear_value s10
  exact h10.checkLayouts

theorem State.keepsWf.execTaskComplete : s.keepsWf (Machine.execTaskComplete graph1 task1 s) := by
  unfold Machine.execTaskComplete
  split
  · exact .ite (.next fun h => h.completeTask) (.next id)
  · exact .next id

theorem State.keepsWf.execDeadlockTimeout : s.keepsWf (Machine.execDeadlockTimeout graph1 s) := by
  unfold Machine.execDeadlockTimeout
  split
  · exact .next id
  · exact .ite (.next fun h => h.failGraph) (.next id)

theorem State.storesWf.masterStart (h : s.storesWf) : (s.masterStart g gr expired1).storesWf :=
  .beginStep (.ite h.send h.send.send)

theorem State.keepsWf.execStepStart : s.keepsWf (Machine.execStepStart graph1 s) := by
  unfold Machine.execStepStart
  extract_lets
  split
  · exact .next id
  · split
    · exact .next id
    · split
      · exact .next fun h => h.beginStep
      · split
        · exact .ite (.next fun h => h.masterStart) (.next id)
        · split
          · exact .next fun h => h.beginStep
          · exact .next id

theorem State.keepsWf.execHoldExpire : s.keepsWf (Machine.execHoldExpire graph1 s) := by
  unfold Machine.execHoldExpire
  extract_lets
  split
  · exact .next id
  · exact .ite (.next fun h => h.graphEvent.masterStart) (.next id)

theorem State.keepsWf.execSyncInEdge : s.keepsWf (Machine.execSyncInEdge s) := by
  unfold Machine.execSyncInEdge
  split
  · exact .next id
  · extract_lets
    split
    · exact .next fun h => h.ownMark
    · split
      · exact .next fun h => h.ownMark
      · exact .ite (.next fun h => h.ownMark) (.ite (.next fun h => h.ownMark.count) (.next fun h => h.ownMark.latchEdge))

theorem State.keepsWf.execAdmitMb : s.keepsWf (Machine.execAdmitMb job step1 mb s) :=
  .next fun h => h.foldl fun _ _ h => .ite h.modGraph.readmit h.modGraph
theorem State.keepsWf.execClose : s.keepsWf (Machine.execClose job step1 c s) :=
  .next fun h => h.foldl fun _ _ h => .ite h.closeStep.readmit.checkStepEnd h.modGraph
theorem State.keepsWf.execStart : s.keepsWf (Machine.execStart job step1 expired1 s) :=
  .next fun h => h.foldl fun _ _ h => h.modGraph

/-! ### Of Machine/XltCmds -/

theorem State.storesWf.retryThread (h : s.storesWf) : (s.retryThread id1 k).storesWf := by
  unfold State.retryThread
  split
  · exact h
  · exact .foldl (.ite h.setThread h) fun _ _ h => h.pumpMove

theorem State.storesWf.retryFault (h : s.storesWf) : (s.retryFault f).storesWf := by
  unfold State.retryFault
  extract_lets _ s1 s2 s3 s4 _ s5
  have h1 : s1.storesWf := h.setXlt
  clear_value s1
  have h2 : s2.storesWf := h1.modRun
  clear_value s2
  have h3 : s3.storesWf := h2
  clear_value s3
  have h4 : s4.storesWf := h3.foldl fun _ _ h => h.retryThread
  clear_value s4
  have h5 : s5.storesWf := h4.setHost
  clear_value s5
  exact h5.foldl fun _ _ h => .ite h.modGraph.loadGraph h.rereadGraph

theorem State.storesWf.failThread (h : s.storesWf) : (s.failThread f k).storesWf := by
  unfold State.failThread
  split
  · exact h
  · split
    · exact h.trap
    · split
      · exact h.setThread.trap
      · exact h

theorem State.storesWf.failSaved (h : s.storesWf) : (s.failSaved f r).storesWf := by
  unfold State.failSaved
  split
  · exact h
  · split
    · exact h.trapThread
    · exact h.trapThread

theorem State.storesWf.failWaiter (h : s.storesWf) : (s.failWaiter f g t).storesWf := by
  unfold State.failWaiter
  split
  · exact h
  · split
    · exact .ite h.failSaved h
    · exact .ite h.failTask h
    · exact h

theorem State.storesWf.failFault (h : s.storesWf) : (s.failFault f).storesWf := by
  unfold State.failFault
  extract_lets _ s1 s2 tasks s3 loading s4 moves s5 s6 s7
  have h1 : s1.storesWf := h.setXlt
  clear_value s1
  have h2 : s2.storesWf := h1.foldl fun _ _ h => h.failThread
  clear_value s2
  have h3 : s3.storesWf := h2.foldl fun _ _ h => h.failWaiter
  clear_value s3
  have h4 : s4.storesWf := h3.foldl fun _ _ h => h.modGraph.failGraph
  clear_value s4
  have h5 : s5.storesWf := h4.foldl fun _ _ h => h.accessFault.dropTransfer.failTask
  clear_value s5
  have h6 : s6.storesWf := h5.replyWaiting
  clear_value s6
  have h7 : s7.storesWf := h6.modRun
  clear_value s7
  split
  · exact h6
  · split
    · exact h7.foldl fun _ _ h => h.unitBad
    · exact h7

theorem State.keepsWf.execXltFaultResolve : s.keepsWf (Machine.execXltFaultResolve h1 fault1 action s) := by
  unfold Machine.execXltFaultResolve
  refine .command fun c s h => ?_
  split
  · exact h.reply
  · split
    · exact h.reply
    · exact .reply (.ite h.retryFault h.failFault)

theorem State.keepsWf.execFaultLimitExpire : s.keepsWf (Machine.execFaultLimitExpire fault1 s) := by
  unfold Machine.execFaultLimitExpire
  split
  · exact .ite (.next fun h => h.failFault) (.next id)
  · exact .next id

theorem State.keepsWf.execXltSpaceSet : s.keepsWf (Machine.execXltSpaceSet h1 root limit s) :=
  .command (fun _ _ h => .ite h.reply (.ite h.reply h.setXlt.reply))
theorem State.keepsWf.execXltSpaceClear : s.keepsWf (Machine.execXltSpaceClear h1 s) :=
  .command (fun _ _ h => .ite h.reply h.setXlt.reply)
theorem State.keepsWf.execXltInvalidate : s.keepsWf (Machine.execXltInvalidate h1 va len s) :=
  .command (fun _ _ h => .ite h.reply h.waitCmd.finishInvalidates)
theorem State.keepsWf.execXltSaveAreaSet : s.keepsWf (Machine.execXltSaveAreaSet h1 hall1 off size s) :=
  .command (fun _ _ h => .ite h.reply (.ite h.reply h.setXlt.reply))
theorem State.keepsWf.execXltReserveSet : s.keepsWf (Machine.execXltReserveSet h1 hall1 off units s) :=
  .command (fun _ _ h => .ite h.reply (.ite h.reply h.setXlt.reply))

/-! ### Of Machine/Fabric -/

theorem State.storesWf.returnCredits (h : s.storesWf) : (s.returnCredits n).storesWf :=
  .modPort (h.foldl fun _ _ h => .ite h h.send)
theorem State.storesWf.landed (h : s.storesWf) : (s.landed p).storesWf := .ite h (.ite h.modPort.returnCredits h.modPort)
theorem State.storesWf.portDrop (h : s.storesWf) : (s.portDrop p).storesWf := .ite h.modPort h

theorem State.keepsWf.landing {k : State → State} (hf : ∀ u, u.storesWf → (k u).storesWf) : s.keepsWf (landing p type s k) := by
  unfold Machine.landing
  refine .ite (.next id) (.ite (.next fun h => h.setFab) ?_)
  exact .ite (.next fun h => h.landed.portDrop.dropPacket) (.ite (.next fun h => h.landed.transmit)
    (.ite (.next fun h => h.landed.portDrop.countDrop) (.next fun h => hf _ h.landed)))

theorem State.storesWf.landRequest {k : State → State} (h : s.storesWf) (hk : ∀ u : State, u.storesWf → (k u).storesWf) :
    (s.landRequest p k).storesWf := by
  unfold State.landRequest
  dsimp only
  split
  · exact .respond (.ite h.portDrop.countDrop.count h)
  · exact hk _ h.noteSeq

theorem State.keepsWf.execRead : s.keepsWf (Machine.execRead p s) := by
  unfold Machine.execRead
  refine .landing fun s h => ?_
  apply State.storesWf.landRequest
  · exact h
  · intro s h
    extract_lets
    split
    · exact h.accessFault.respond
    · split
      · split
        · exact h.respond
        · exact h.accessFault.respond
        · exact h.accessFault.respond
      · split
        · exact h.respond
        · exact h.accessFault.respond
        · exact h.accessFault.respond
      · split
        · exact h.respond
        · exact h.accessFault.respond

theorem State.keepsWf.execWrite : s.keepsWf (Machine.execWrite p s) := by
  unfold Machine.execWrite
  refine .landing fun s h => ?_
  apply State.storesWf.landRequest
  · exact h
  · intro s h
    extract_lets
    split
    · exact h.accessFault.respond
    · split
      · split
        · split
          · exact (h.of_signal ‹_›).respond
          · exact h.accessFault.respond
        · exact h.accessFault.respond
      · exact .ite h.accessFault.respond (.ite h.tillPost.respond h.tillPost)
      · exact .ite h.poke.respond h.accessFault.respond

theorem State.storesWf.of_atomic (h : s.storesWf) (e : s.atomic off opx a b = (r1, (r2, u))) : u.storesWf := by
  unfold State.atomic at e
  dsimp only at e
  split at e
  · cases e
    exact h
  · split at e
    · cases e
      exact h
    · split at e
      · cases e
        exact h
      · cases e
        exact h.poke

theorem State.keepsWf.execAtomic : s.keepsWf (Machine.execAtomic p s) := by
  unfold Machine.execAtomic
  refine .landing fun s h => ?_
  apply State.storesWf.landRequest
  · exact h
  · intro s h
    extract_lets
    split
    · exact .ite ((h.of_atomic ‹_›).respond) (((h.of_atomic ‹_›).accessFault).respond)

theorem State.storesWf.dropReq (h : s.storesWf) : (s.dropReq rid).storesWf := by
  unfold State.dropReq
  extract_lets _ s1
  have h1 : s1.storesWf := h.setFab
  clear_value s1
  split
  · exact h1
  · exact h1.setFab.request

theorem State.storesWf.remoteTrap (h : s.storesWf) : (s.remoteTrap k st a tags pc insn).storesWf := by
  unfold State.remoteTrap
  split
  · exact h
  · exact .ite h.setThread.trap h.setThread.accessFault.trap

theorem State.storesWf.unitWriteFailed (h : s.storesWf) : (s.unitWriteFailed g t st a).storesWf := by
  unfold State.unitWriteFailed
  split
  · exact h.accessFault.dropTransfer.failTask
  · exact h.unitAddress

theorem State.storesWf.answerOwner (h : s.storesWf) : (s.answerOwner r st data).storesWf := by
  unfold State.answerOwner
  extract_lets ok
  split
  · -- `.moveRead`
    split
    · exact h
    · split
      · exact h
      · exact .ite h.pumpMove (.ite (.reap (.setThread h.accessFault)) h.remoteTrap)
  · -- `.moveWrite`
    refine .ite (.ite h h.wake) ?_
    split
    · exact .ite (.reap h.accessFault) h.remoteTrap
    · exact h
  · -- `.fetch`
    split
    · exact .ite h (.ite h.setThread h.remoteTrap)
    · exact h
  · -- `.signal`
    exact .ite h h.accessFault
  · -- `.portRead`
    split
    · exact h
    · exact .ite h.pumpTransfer h.unitWriteFailed
  · -- `.portWrite`
    exact .ite h h.unitWriteFailed
  · -- `.bell`
    split
    · split
      · exact .ite h.setThread h.remoteTrap
      · exact h
    · exact h
  · -- `.till`
    exact .ite h h.accessFault
  · -- `.sweep`
    split
    · exact h
    · exact .ite (.afterSweep (.pumpSweep (.of_eq h rfl rfl rfl))) h.sweepWriteFailed.afterSweep
  · -- `.sweepWrite`
    exact .ite h.pumpSweep.afterSweep h.sweepWriteFailed.afterSweep
  · -- `.verdict`
    exact .ite (.ite h h.accessFault) (.freeCheck (.ite h h.accessFault))
  · -- `.hub`
    extract_lets b b1 s1 s2
    have h1 : s1.storesWf := h.setFab
    clear_value s1
    have h2 : s2.storesWf := h1.foldl fun _ _ h =>
      .ite h (.ite h.finishBoundary (.ite h.resumeStart (.ite h.modGraph.loadGraph h.rereadGraph)))
    clear_value s2
    exact .pumpBoundary (h2.pumpVerdicts.foldl fun _ _ h => h.checkStepEnd)
  · -- `.cmd`
    generalize List.find? _ _ = o
    cases o with
    | none => exact h
    | some c =>
      dsimp only
      cases c.wait with
      | acks res => exact .ite h.reply (.ite h h.reply)
      | sealing d => exact .ite h.reply (.ite h h.modCmd)
      | atomic => exact h.reply
      | _ => exact h
  · -- `.posted`
    exact h

theorem State.storesWf.completeReq (h : s.storesWf) : (s.completeReq r st data).storesWf :=
  h.dropReq.answerOwner.finishInvalidates

theorem State.keepsWf.execResp : s.keepsWf (Machine.execResp p s) := by
  unfold Machine.execResp
  refine .landing fun s h => ?_
  split
  · exact h.portDrop.countDrop
  · exact .ite h.portDrop.countDrop (.ite h.noteSeq.setFab h.noteSeq.completeReq)

theorem State.keepsWf.execRemoteTimeout : s.keepsWf (Machine.execRemoteTimeout rid s) := by
  unfold Machine.execRemoteTimeout
  split
  · exact .next fun h => h.completeReq
  · exact .next id

theorem State.keepsWf.execEpochAheadRetry : s.keepsWf (Machine.execEpochAheadRetry rid s) := by
  unfold Machine.execEpochAheadRetry
  split
  · split
    · exact .next id
    · split
      · exact .next fun h => ((h.of_nextSeq ‹_›).setFab).transmit
  · exact .next id

theorem State.keepsWf.execFabAtomic : s.keepsWf (Machine.execFabAtomic h1 addr opx a b s) := by
  unfold Machine.execFabAtomic
  refine .command fun c s h => ?_
  extract_lets
  split
  · exact h.reply
  · split
    · exact h.accessFault.reply
    · split
      · split
        · exact .ite ((h.of_atomic ‹_›).reply) (((h.of_atomic ‹_›).accessFault).reply)
      · exact h.waitCmd.request

/-! ### Of Machine/WeightOps -/

theorem State.storesWf.modSet (h : s.storesWf) : (s.modSet job id1 f).storesWf := h.setWeights

theorem State.keepsWf.execWeightSetReg : s.keepsWf (Machine.execWeightSetReg h1 set1 ncopy base size stride s) := by
  unfold Machine.execWeightSetReg
  refine .command fun c s h => ?_
  extract_lets
  split
  · exact h.reply
  · split
    · exact h.reply
    · split
      · split
        · exact h.parkCmd
        · extract_lets s1 w s2 s3
          have h1 : s1.storesWf := h.setXlt
          clear_value s1
          have h2 : s2.storesWf := h1.setWeights
          clear_value s2
          have h3 : s3.storesWf := .ite h2 h2
          clear_value s3
          exact h3.reply
      · exact h.reply

theorem State.keepsWf.execWeightSetClear : s.keepsWf (Machine.execWeightSetClear h1 set1 s) := by
  unfold Machine.execWeightSetClear
  refine .command fun c s h => ?_
  split
  · exact h.reply
  · exact .ite h.reply h.setWeights.unpin.reply

theorem State.storesWf.abortWeights (h : s.storesWf) : (s.abortWeights job status results).storesWf :=
  .replyWaiting (h.setWeights.send.foldl fun _ _ h => .ite h.readmit h)
theorem State.storesWf.commitWeights (h : s.storesWf) : (s.commitWeights job b).storesWf :=
  .ite (h.setWeights.foldl fun _ _ h => .ite h.readmit h) h.setWeights.graphGone

theorem State.storesWf.weightReadyFrom (h : s.storesWf) : (s.weightReadyFrom job part pair).storesWf := by
  unfold State.weightReadyFrom
  split
  · exact h
  · exact .ite h.setWeights.send.commitWeights.replyWaiting h.setWeights

theorem State.storesWf.prepareWeights (h : s.storesWf) : (s.prepareWeights coord job e).storesWf :=
  .ite h.setWeights.weightReadyFrom h.setWeights.send

theorem State.storesWf.startSwitch (h : s.storesWf) : (s.startSwitch c timeout before).storesWf := by
  unfold State.startSwitch
  extract_lets job e s1 _ s2
  have h1 : s1.storesWf := h.waitCmd
  clear_value s1
  have h2 : s2.storesWf := h1.setWeights
  clear_value s2
  split
  · exact h.reply
  · split
    · exact h.reply
    · split
      · exact h.reply
      · exact h2.send.prepareWeights

theorem State.keepsWf.execWeightSwitch : s.keepsWf (Machine.execWeightSwitch h1 timeout s) :=
  .command (fun _ _ h => .ite h.startSwitch h.reply)
theorem State.keepsWf.execWeightPrepare : s.keepsWf (Machine.execWeightPrepare coord job epoch s) :=
  .ite (.next id) (.next fun h => h.prepareWeights)
theorem State.keepsWf.execWeightReady : s.keepsWf (Machine.execWeightReady part job step1 mb s) :=
  .ite (.next fun h => h.weightReadyFrom) (.next id)

theorem State.keepsWf.execWeightCommit : s.keepsWf (Machine.execWeightCommit coord job epoch step1 mb s) := by
  unfold Machine.execWeightCommit
  split
  · exact .ite (.next fun h => h.commitWeights) (.next id)
  · exact .next id

theorem State.keepsWf.execWeightAbort : s.keepsWf (Machine.execWeightAbort coord job s) := by
  unfold Machine.execWeightAbort
  split
  · exact .ite (.next fun h => h.setWeights.foldl fun _ _ h => .ite h.readmit h) (.next id)
  · exact .next id

theorem State.keepsWf.execWeightSwitchTimeout : s.keepsWf (Machine.execWeightSwitchTimeout job s) := by
  unfold Machine.execWeightSwitchTimeout
  split
  · exact .next fun h => h.abortWeights
  · exact .next id

theorem State.storesWf.modLoader (h : s.storesWf) : (s.modLoader job f).storesWf := h.setWeights
theorem State.storesWf.modLoad (h : s.storesWf) : (s.modLoad job f).storesWf := h.setWeights
theorem State.storesWf.dropLoad (h : s.storesWf) : (s.dropLoad job).storesWf := h.setWeights
theorem State.storesWf.endLoad (h : s.storesWf) : (s.endLoad job status results).storesWf := h.dropLoad.replyWaiting
theorem State.storesWf.sendCrier (h : s.storesWf) : (s.sendCrier src job set1 epoch shard bytes).storesWf :=
  h.foldl fun _ _ h => h.send

theorem State.storesWf.landShard (h : s.storesWf) : (s.landShard l x raw).storesWf := by
  unfold State.landShard
  split
  · exact h
  · split
    · extract_lets va tags ws s1
      have h1 : s1.storesWf := .ite h h.count
      clear_value s1
      split
      · exact h1.of_taskWrites ‹_›
      · exact h1

theorem State.storesWf.loadedFrom (h : s.storesWf) : (s.loadedFrom job part).storesWf := by
  unfold State.loadedFrom
  split
  · exact .ite (.ite (h.modLoader.modSet.dropLoad.foldl fun _ _ h => h.startSwitch) h.modLoader.modSet.dropLoad.replyWaiting) h.modLoader
  · exact h

theorem State.storesWf.reportLoaded (h : s.storesWf) : (s.reportLoaded job).storesWf := by
  unfold State.reportLoaded
  split
  · exact h
  · exact .ite h (.ite h.loadedFrom h.modSet.dropLoad.send)

theorem State.storesWf.fetchShard (h : s.storesWf) : (s.fetchShard job).storesWf := by
  unfold State.fetchShard
  split
  · split
    · exact h.modLoader.send
    · exact h
  · exact h

theorem State.storesWf.beginLoad (h : s.storesWf) : (s.beginLoad c x e m st srcs timeout sw).storesWf := by
  unfold State.beginLoad
  extract_lets job shards l w s1 s2
  have h1 : s1.storesWf := h.setWeights.waitCmd
  clear_value s1
  have h2 : s2.storesWf := h1.sendCrier
  clear_value s2
  split
  · exact h.reply
  · exact .ite h.reply h2.fetchShard.reportLoaded

theorem State.keepsWf.execWeightLoad : s.keepsWf (Machine.execWeightLoad h1 set1 manifest stOff stSize nsrc srcs timeout flags s) := by
  unfold Machine.execWeightLoad
  refine .command fun c s h => ?_
  extract_lets
  split
  · exact h.reply
  · split
    · exact h.reply
    · extract_lets
      split
      · exact h.reply
      · split
        · exact h.reply
        · exact h.cmdPeek (fun _ _ h => .ite h.dropHub.reply (h.cmdRead (fun _ _ h => .ite h.reply h.beginLoad)))

theorem State.keepsWf.execShardFetchDone : s.keepsWf (Machine.execShardFetchDone job bytes s) := by
  unfold Machine.execShardFetchDone
  split
  · split
    · exact .next id
    · extract_lets
      split
      · exact .next fun h => h.endLoad
      · split
        · exact .next id
        · split
          · exact .ite (.next fun h => h.count.setWeights.endLoad) (.next fun h => h.count.setWeights.modLoader.fetchShard)
          · split
            · exact .next fun h => h.endLoad
            · exact .next fun h => .reportLoaded (.fetchShard (.modLoader (.modLoad (.ite h.poke.sendCrier.landShard h.poke.sendCrier))))
  · exact .next id

theorem State.keepsWf.execShardTimeout : s.keepsWf (Machine.execShardTimeout job s) := by
  unfold Machine.execShardTimeout
  split
  · exact .ite (.next id) (.next fun h => h.endLoad)
  · exact .next id

theorem State.storesWf.dropCrier (h : s.storesWf) : (s.dropCrier job).storesWf := h.count.setWeights

theorem State.keepsWf.execCrier : s.keepsWf (Machine.execCrier src job set1 epoch shard bytes s) := by
  unfold Machine.execCrier
  split
  · exact .next id
  · extract_lets
    split
    · split
      · exact .next fun h => h.sendCrier.send
      · exact .ite (.next fun h => h.sendCrier.send) (.ite (.next fun h => h.sendCrier.send) (.next fun h => h.sendCrier.modSet.setWeights.reportLoaded))
    · split
      · exact .next fun h => h.sendCrier.dropCrier
      · split
        · exact .next fun h => h.sendCrier.dropCrier
        · split
          · exact .next fun h => h.sendCrier.dropCrier
          · split
            · exact .next fun h => h.sendCrier.dropCrier
            · exact .next fun h => .reportLoaded (.modLoad (.ite h.sendCrier.landShard h.sendCrier))

theorem State.keepsWf.execLoaded : s.keepsWf (Machine.execLoaded part job s) := .ite (.next fun h => h.loadedFrom) (.next id)
theorem State.keepsWf.execLoadMismatch : s.keepsWf (Machine.execLoadMismatch part job s) :=
  .ite (.next fun h => h.endLoad) (.next id)
theorem State.storesWf.loseWeights (h : s.storesWf) : (s.loseWeights part).storesWf :=
  .foldl (.setWeights (.foldl (h.foldl fun _ _ h => h.endLoad) fun _ _ h => h.abortWeights)) fun _ _ h => h.foldl fun _ _ h => .ite h.readmit h
theorem State.keepsWf.execWeightStatus : s.keepsWf (Machine.execWeightStatus h1 s) :=
  .command (fun _ _ h => .ite h.reply h.replyBulk)

/-! ### Of Machine/FabricPorts -/

theorem State.keepsWf.execLinkFrame : s.keepsWf (Machine.execLinkFrame port1 seq flits crcOk s) :=
  .ite (.next id) (.ite (.next fun h => h.send) (.ite (.next fun h => h.modPort.send) (.ite (.next fun h => h.send) (.next fun h => h.send))))

theorem State.storesWf.replayLink (h : s.storesWf) : (s.replayLink n).storesWf := by
  unfold State.replayLink
  split
  · exact h
  · exact h.modPort.count.send

theorem State.keepsWf.execLinkNak : s.keepsWf (Machine.execLinkNak port1 firstUnacked s) :=
  .ite (.next id) (.next fun h => h.modPort.replayLink)
theorem State.keepsWf.execLinkAckTimeout : s.keepsWf (Machine.execLinkAckTimeout port1 s) :=
  .ite (.next fun h => h.replayLink) (.next id)
theorem State.keepsWf.execCreditUpdate : s.keepsWf (Machine.execCreditUpdate port1 pool vc cls count1 s) :=
  .ite (.next id) (.next fun h => h.modPort.pumpPort)
theorem State.keepsWf.execCreditUpdateTimer : s.keepsWf (Machine.execCreditUpdateTimer port1 s) :=
  .ite (.next fun h => h.returnCredits) (.next id)
theorem State.keepsWf.execHeadAgeTimeout : s.keepsWf (Machine.execHeadAgeTimeout port1 vc input s) :=
  .ite (.next fun h => h.modPort.pumpPort) (.next id)
theorem State.storesWf.portState (h : s.storesWf) : (s.portState n st).storesWf := h.modPort
theorem State.storesWf.recordPort (h : s.storesWf) : (s.recordPort n).storesWf := .ite h h.modPort.partFault
theorem State.storesWf.probePartner (h : s.storesWf) : (s.probePartner n).storesWf := h.modPort.send
theorem State.storesWf.declareFailed (h : s.storesWf) : (s.declareFailed n).storesWf :=
  h.modPort.portState.recordPort.probePartner
theorem State.storesWf.turnBack (h : s.storesWf) : (s.turnBack n).storesWf :=
  .ite (.foldl (.foldl (.foldl (.modPort (.ite h.setFab h)) fun _ _ h => h.transmit) fun _ _ h => h.transmit) fun _ _ h => h.send) (.foldl (.foldl (.modPort (.ite h.setFab h)) fun _ _ h => h.transmit) fun _ _ h => h.transmit)
theorem State.keepsWf.execPortSilenceTimeout : s.keepsWf (Machine.execPortSilenceTimeout port1 s) :=
  .ite (.next fun h => h.declareFailed) (.next id)
theorem State.keepsWf.execPortFail : s.keepsWf (Machine.execPortFail port1 s) :=
  .ite (.next fun h => h.declareFailed.turnBack) (.ite (.next fun h => h.turnBack) (.next id))
theorem State.keepsWf.execDepart : s.keepsWf (Machine.execDepart port1 s) :=
  .ite (.next fun h => h.portState.probePartner) (.next id)
theorem State.keepsWf.execPartnerProbe : s.keepsWf (Machine.execPartnerProbe port1 answer src s) :=
  .ite (.ite (.next id) (.next fun h => h.send)) (.ite (.next fun h => h.modPort.recordPort.turnBack) (.next id))
theorem State.storesWf.losePart (h : s.storesWf) : (s.losePart part).storesWf :=
  .ite h (.withdrawPairs (.loseWeights (.loseLayouts (.loseColls (.foldl (.partFault (h.setFab.setFab.foldl fun _ _ h => h.turnAway)) fun _ _ h => h.failGraph)))))
theorem State.keepsWf.execPartnerProbeTimeout : s.keepsWf (Machine.execPartnerProbeTimeout port1 s) :=
  .ite (.next fun h => h.modPort.portState.send.losePart) (.next id)
theorem State.keepsWf.execLostPart : s.keepsWf (Machine.execLostPart part s) := .ite (.next id) (.next fun h => h.losePart)
theorem State.keepsWf.execRingState : s.keepsWf (Machine.execRingState axis a restored s) :=
  .ite (.next id) (.ite (.next fun h => h.setFab) (.ite (.next id) (.next fun h => h.setFab.setFab.foldl fun _ _ h => h.transmit)))
theorem State.keepsWf.execLaneGroupLoss : s.keepsWf (Machine.execLaneGroupLoss port1 rx group s) :=
  .ite (.next id) (.ite (.next fun h => h.modPort.partFault.declareFailed) (.next fun h => h.modPort.partFault))
theorem State.keepsWf.execWidthChangeDone : s.keepsWf (Machine.execWidthChangeDone port1 rx s) :=
  .ite (.next id) (.ite (.ite (.next fun h => h.modPort) (.next id)) (.ite (.next fun h => h.modPort.replayLink.pumpPort) (.next id)))
theorem State.keepsWf.execFabPortStatus : s.keepsWf (Machine.execFabPortStatus h1 port1 va s) :=
  .command (fun _ _ h => .ite h.cmdWrite h.reply)
theorem State.storesWf.openPort (h : s.storesWf) : (s.openPort n groups).storesWf := h.modPort
theorem State.keepsWf.execFabPortRetrain : s.keepsWf (Machine.execFabPortRetrain h1 port1 groups s) :=
  .command (fun _ _ h => .ite h.reply (.ite h.reply (.ite h.reply (.ite h.modPort.replayLink.reply (.reply (.pumpPort (.ite (h.openPort.setFab.foldl fun _ _ h => h.send) h.openPort.setFab)))))))

/-! ### Of Machine/Lend -/

theorem State.storesWf.unlend (h : s.storesWf) : (s.unlend h1 g t).storesWf :=
  h.foldl fun _ _ h => h.setThread.modStall.releaseHeld.updateLend
theorem State.storesWf.lendOne (h : s.storesWf) : (s.lendOne g t mode k).storesWf := h.setThread.modStall

theorem State.storesWf.lendTo (h : s.storesWf) : (s.lendTo x g t mode n).storesWf := by
  have lends : ∀ (p : State × Nat) (l : List Nat), p.1.storesWf → (l.foldl (fun (p : State × Nat) (i : Nat) =>
      if p.2 < n && p.1.canLend (x * 576 + i) then (p.1.lendOne g t mode (x * 576 + i), p.2 + 1) else p) p).1.storesWf := by
    intro p l hp
    refine List.foldlRecOn (motive := fun q : State × Nat => q.1.storesWf) l _ hp ?_
    intro q hq i _
    split
    · exact hq.lendOne
    · exact hq
  unfold State.lendTo
  extract_lets keys s1 p
  have h1 : s1.storesWf := .ite h.unlend h
  exact .ite h1 (.ite h1 (lends (s1, (s1.lentKeys x g t).length) _ h1).unpark.updateLend)

/-! ### Of Machine/Root -/

theorem State.storesWf.setRoots (h : s.storesWf) : (s.setRoots v).storesWf := h
theorem State.storesWf.putFactor (h : s.storesWf) : (s.putFactor f).storesWf := h.setRoots

theorem State.storesWf.lendRoot (h : s.storesWf) : (s.lendRoot h1).storesWf := by
  unfold State.lendRoot
  split
  · exact h
  · split
    · exact h.lendTo
    · exact h.lendTo
    · exact h.unlend

theorem State.storesWf.setRootRun (h : s.storesWf) : (s.setRootRun h1 r).storesWf := by
  unfold State.setRootRun
  extract_lets _ s1
  have h1 : s1.storesWf := h.setRoots
  clear_value s1
  split
  · exact h1.unlend
  · exact h1.lendRoot

theorem State.storesWf.unitStop (h : s.storesWf) : (s.unitStop x g t job tags x1).storesWf := by
  unfold State.unitStop
  split
  · exact h
  · split
    · exact (h.of_raise ‹_›).modTask
  · exact h.unitAddress
  · exact h.hubFetch

theorem State.storesWf.rootProbe (h : s.storesWf) : (s.rootProbe h1 g t).storesWf := by
  unfold State.rootProbe
  split
  · split
    · exact h
    · split
      · exact h.failTask
      · split
        · exact h.dropHub.failTask
        · exact h.dropHub.pinTask
        · exact h.unitStop
  · exact h

theorem State.storesWf.of_accFactor (h : s.storesWf) (e : s.accFactor g t ntok tags f x x1 = .ok (u, r1)) : u.storesWf := by
  induction x generalizing s g t ntok tags f x1 u r1 with
  | nil =>
    rw [State.accFactor] at e
    cases e
    exact h.putFactor
  | cons a x ih =>
    rw [State.accFactor] at e
    split at e
    · exact ih h.count ‹_›
    · split at e
      · dsimp only at e
        exact ih (.ite (h.of_taskWrite ‹_›) ((h.of_taskWrite ‹_›).putFactor)) ‹_›
      · cases e
      · cases e
      · cases e
    · cases e
    · cases e
    · cases e

theorem State.storesWf.of_rootNext (h : s.storesWf) (e : s.rootNext h1 r = .ok u) : u.storesWf := by
  unfold State.rootNext at e
  obtain ⟨x, hx, rfl⟩ := accMap_eq_ok.mp e
  exact h.setRootRun

theorem State.storesWf.rootLate (h : s.storesWf) : (s.rootLate h1 r).storesWf := h.setRootRun

theorem State.storesWf.of_rootInstall (h : s.storesWf) (e : s.rootInstall k r f code root = .ok u) : u.storesWf := by
  obtain ⟨t, ht, e⟩ := accBind_eq_ok.mp e
  exact (h.of_taskWrite ht).putFactor.count.of_rootNext e

theorem State.storesWf.rootDo (h : s.storesWf) (ha : ∀ u, a = .ok u → u.storesWf) : (s.rootDo k r a).storesWf := by
  unfold State.rootDo
  split
  · exact (ha _ rfl).dropHub
  · exact h.setRootRun.unitAddress
  · exact h.setRootRun.unitAddress
  · exact h.hubFetch

theorem State.storesWf.of_rootAcc (h : s.storesWf) (e : s.rootAcc r x x1 = .ok (u, r1)) : u.storesWf := by
  induction x generalizing s r x1 u r1 with
  | nil =>
    rw [State.rootAcc] at e
    cases e
    exact h
  | cons a x ih =>
    rw [State.rootAcc] at e
    split at e
    · exact ih h ‹_›
    · split at e
      · exact ih (h.of_accFactor ‹_›) ‹_›
      · cases e
      · cases e
      · cases e

theorem State.storesWf.of_rootBegin (h : s.storesWf) (e : (s.rootBegin k g t gr ts b fs).2 = .ok u) : u.storesWf := by
  obtain ⟨p, hp, e⟩ := accBind_eq_ok.mp e
  obtain ⟨v, hv, e⟩ := accBind_eq_ok.mp e
  obtain ⟨r, -, rfl⟩ := accMap_eq_ok.mp e
  have h1 : p.1.storesWf := by
    split at hp
    · exact h.of_rootAcc hp
    · cases hp
      exact h
  exact (h1.of_taskWrites hv).setRootRun

theorem State.keepsWf.execRootTaskRun : s.keepsWf (Machine.execRootTaskRun k g i s) := by
  unfold Machine.execRootTaskRun
  refine .ite (.next id) ?_
  extract_lets s1
  have h1 (h : s.storesWf) : s1.storesWf := h.rootProbe
  clear_value s1
  split
  · refine .ite (.next h1) ?_
    split
    · exact .next fun h => (h1 h).rootDo fun _ e => (h1 h).of_rootBegin e
    · exact .next fun h => (h1 h).dropHub.failTask
    · exact .next fun h => (h1 h).unitStop
  · exact .next h1

theorem State.storesWf.of_rootFallback (h : s.storesWf) (e : s.rootFallback h1 r f sc late = .ok u) : u.storesWf := by
  unfold State.rootFallback at e
  split at e
  · cases e
    exact h.rootLate
  · obtain ⟨x, hx, rfl⟩ := accMap_eq_ok.mp e
    exact h.setRootRun

theorem State.storesWf.of_rootBoundary (h : s.storesWf) (e : (s.rootBoundary k r f w late).2 = .ok u) : u.storesWf := by
  unfold State.rootBoundary at e
  extract_lets n e1 res r1 stall at e
  clear_value stall
  dsimp only at e
  split at e
  · cases e
    exact .ite h.rootLate h.setRootRun
  · split at e
    · exact h.of_rootInstall e
    · split at e
      · exact h.of_rootFallback e
      · split at e
        · exact h.of_rootFallback e
        · split at e
          · cases e
            exact h.rootLate
          · cases e
            exact h.setRootRun

theorem State.keepsWf.execRootIterationBoundary : s.keepsWf (Machine.execRootIterationBoundary hall1 late s) := by
  unfold Machine.execRootIterationBoundary
  extract_lets k
  split
  · exact .next id
  · split
    · exact .next fun h => h.rootDo fun _ e => h.of_rootBoundary e
    · exact .next id

theorem State.keepsWf.execRootPanelBoundary : s.keepsWf (Machine.execRootPanelBoundary hall1 deadlinePassed s) := by
  unfold Machine.execRootPanelBoundary
  extract_lets
  split
  · exact .next id
  · split
    · extract_lets
      split
      · exact .next fun h => .rootDo (.ite h h.count) (fun _ _ => .of_rootNext (.ite h h.count) ‹_›)
      · split
        · exact .next fun h => .rootLate (.ite h h.count)
        · split
          · exact .next fun h => .rootDo (.ite h h.count) (fun _ _ => .of_rootNext (.ite h h.count) ‹_›)
          · exact .next fun h => .rootDo (.ite h h.count) (fun _ _ => .of_rootInstall (.ite h h.count) ‹_›)
          · exact .next fun h => .setRootRun (.ite h h.count)
    · exact .next id

theorem State.keepsWf.execRootTaskDone : s.keepsWf (Machine.execRootTaskDone hall1 s) := by
  unfold Machine.execRootTaskDone
  extract_lets k
  split
  · exact .next id
  · refine .ite (.next id) (.next fun h => h.rootDo fun v e => ?_)
    obtain ⟨w, hw, rfl⟩ := accMap_eq_ok.mp e
    refine .modTask (.setRootRun ((h.of_taskWrite hw).foldl fun _ _ h => ?_))
    split
    · exact h.putFactor
    · exact h

theorem State.storesWf.stopRoot (h : s.storesWf) : (s.stopRoot h1).storesWf := by
  unfold State.stopRoot
  split
  · exact h.setRootRun.failTask
  · exact h

/-! ### Of Machine/RootCmds -/

theorem State.keepsWf.execRootFactorSet : s.keepsWf (Machine.execRootFactorSet h1 va s) := by
  unfold Machine.execRootFactorSet
  refine .command fun c s h => ?_
  refine h.cmdRead fun bs s h => ?_
  split
  · exact h.reply
  · exact .ite h.reply h.setRoots.reply

theorem State.keepsWf.execRootFactorClear : s.keepsWf (Machine.execRootFactorClear h1 fid s) := by
  unfold Machine.execRootFactorClear
  refine .command fun c s h => ?_
  split
  · exact h.reply
  · exact h.unlessBusy (fun _ h => h.setRoots.reply)

theorem State.keepsWf.execRootStatus : s.keepsWf (Machine.execRootStatus h1 fid va s) := by
  unfold Machine.execRootStatus
  refine .command fun c s h => ?_
  split
  · exact h.reply
  · exact h.cmdWrite

theorem State.keepsWf.execRootReset : s.keepsWf (Machine.execRootReset h1 fid flags s) := by
  unfold Machine.execRootReset
  refine .command fun c s h => ?_
  split
  · exact h.reply
  · exact .ite h.reply (h.unlessBusy (fun _ h => .ite h.putFactor.cmdWrite h.putFactor.reply))

theorem State.storesWf.failRoot (h : s.storesWf) : (s.failRoot h1).storesWf := h.setRoots.hallFault

/-! ### Of Machine/Solve -/

theorem State.storesWf.setSolver (h : s.storesWf) : (s.setSolver v).storesWf := h

theorem State.storesWf.lendSolve (h : s.storesWf) : (s.lendSolve r).storesWf := by
  unfold State.lendSolve
  refine State.storesWf.foldl ?_ fun s _ h => ?_
  · exact h
  · split
    · split
      · exact h.unlend
      · exact h.lendTo
      · exact h.lendTo
    · exact h

theorem State.storesWf.setSolveRun (h : s.storesWf) : (s.setSolveRun h1 r).storesWf := by
  unfold State.setSolveRun
  extract_lets _ s1
  have h1 : s1.storesWf := h.setSolver
  clear_value s1
  split
  · exact h1.lendSolve
  · exact h1.lendSolve
  · exact h1

theorem State.storesWf.relend (h : s.storesWf) : s.relend.storesWf := by
  unfold State.relend
  refine State.storesWf.foldl ?_ fun s _ h => ?_
  · exact h
  · extract_lets s1
    have h1 : s1.storesWf := h.lendRoot
    clear_value s1
    split
    · exact h1.lendSolve
    · exact h1

theorem State.keepsWf.execSolveImageSet : s.keepsWf (Machine.execSolveImageSet h1 va s) := by
  unfold Machine.execSolveImageSet
  refine .command fun c s h => ?_
  split
  · exact h.reply
  · apply State.storesWf.cmdPeek
    · exact h
    · intro bs s h
      split
      · exact h.dropHub.reply
      · apply State.storesWf.cmdRead
        · exact h
        · intro bs s h
          split
          · exact h.reply
          · extract_lets
            split
            · exact h.reply
            · exact h.setSolver.reply

theorem State.keepsWf.execSolveImageClear : s.keepsWf (Machine.execSolveImageClear h1 image1 s) := by
  unfold Machine.execSolveImageClear
  refine .command fun c s h => ?_
  split
  · exact h.reply
  · exact .ite h.reply h.setSolver.reply

theorem State.keepsWf.execSolveStatus : s.keepsWf (Machine.execSolveStatus h1 image1 va s) := by
  unfold Machine.execSolveStatus
  refine .command fun c s h => ?_
  split
  · exact h.reply
  · exact h.cmdWrite

theorem State.storesWf.solveProbe (h : s.storesWf) : (s.solveProbe h1 g t).storesWf := by
  unfold State.solveProbe
  split
  · split
    · exact h
    · split
      · exact h.dropHub.failTask
      · exact h.dropHub.pinTask
      · exact h.unitStop
  · exact h

theorem State.storesWf.sendReady (h : s.storesWf) : (s.sendReady i r).storesWf := .ite (h.foldl fun _ _ h => h.send) h
theorem State.storesWf.sendSolve (h : s.storesWf) : (s.sendSolve v).storesWf := .ite h (h.foldl fun _ _ h => h.send)
theorem State.storesWf.solveGo (h : s.storesWf) : (s.solveGo h1 v).storesWf := h.count.count.setSolveRun.sendSolve.sendReady

theorem State.storesWf.solveDo (h : s.storesWf) (ha : ∀ u, a = .ok u → u.storesWf) : (s.solveDo k g t job tags a).storesWf := by
  unfold State.solveDo
  split
  · exact (ha _ rfl).dropHub
  · exact h.setSolveRun.unitAddress
  · exact h.setSolveRun.unitAddress
  · exact h.hubFetch

theorem State.storesWf.keepSetup (h : s.storesWf) : (s.keepSetup i r).storesWf := .ite h.setSolver h
theorem State.storesWf.solveEngage (h : s.storesWf) : (s.solveEngage h1 g task1 gr ts i p).storesWf := h.setSolveRun

theorem State.storesWf.of_solveBegin (h : s.storesWf) (e : s.solveBegin k i q peer = .ok u) : u.storesWf := by
  obtain ⟨b, -, e⟩ := accBind_eq_ok.mp e
  obtain ⟨x, -, e⟩ := accBind_eq_ok.mp e
  obtain ⟨vals, -, e⟩ := accBind_eq_ok.mp e
  obtain ⟨t, ht, rfl⟩ := accMap_eq_ok.mp e
  exact (h.of_taskWrite ht).keepSetup.setSolveRun.solveGo

theorem State.keepsWf.execSolveTaskRun : s.keepsWf (Machine.execSolveTaskRun hall1 graph1 task1 peer s) := by
  unfold Machine.execSolveTaskRun
  extract_lets
  split
  · exact .next id
  · split
    · split
      · split
        · exact .ite (.next fun h => h.solveDo (fun _ _ => h.of_solveBegin ‹_›)) (.next id)
        · exact .next id
      · exact .next id
    · split
      · split
        · exact .next fun h => h.solveProbe
        · split
          · exact .ite (.next fun h => h.solveProbe.dropHub.failTask) (.next fun h => h.solveProbe.solveEngage.dropHub)
          · exact .next fun h => h.solveProbe.dropHub.failTask
          · exact .next fun h => h.solveProbe.unitStop
      · exact .next fun h => h.solveProbe

theorem State.keepsWf.execSolveIterationBoundary : s.keepsWf (Machine.execSolveIterationBoundary hall1 deadlinePassed peer s) := by
  unfold Machine.execSolveIterationBoundary
  split
  · exact .next id
  · split
    · exact .next id
    · exact .ite (.next id) (.next fun h => h.solveGo)

theorem State.keepsWf.execSolveReadiness : s.keepsWf (Machine.execSolveReadiness hall1 partition words peer s) := by
  unfold Machine.execSolveReadiness
  split
  · exact .next id
  · split
    · exact .next id
    · exact .ite (.next id) (.next fun h => h.solveGo)

theorem State.storesWf.of_solveRecord (h : s.storesWf) (e : s.solveRecord k r = .ok u) : u.storesWf := by
  obtain ⟨t, ht, rfl⟩ := accMap_eq_ok.mp e
  exact (h.of_taskWrite ht).setSolver

theorem State.keepsWf.execSolvePeerTimeout : s.keepsWf (Machine.execSolvePeerTimeout hall1 s) := by
  unfold Machine.execSolvePeerTimeout
  extract_lets k
  split
  · exact .next id
  · refine .ite (.next id) (.next fun h => h.solveDo fun v e => ?_)
    obtain ⟨w, hw, rfl⟩ := accMap_eq_ok.mp e
    exact (h.of_solveRecord hw).setSolveRun.failTask

theorem State.keepsWf.execSolveDone : s.keepsWf (Machine.execSolveDone hall1 s) := by
  unfold Machine.execSolveDone
  extract_lets k
  split
  · exact .next id
  · refine .ite (.next id) ?_
    extract_lets x w
    refine .next fun h => h.solveDo fun v e => ?_
    obtain ⟨u, hu, e⟩ := accBind_eq_ok.mp e
    have h1 : u.storesWf := by
      unfold w at hu
      split at hu
      · exact h.of_taskWrite hu
      · cases hu
        exact h
    obtain ⟨w, hw, rfl⟩ := accMap_eq_ok.mp e
    exact (h1.of_solveRecord hw).setSolveRun.modTask

theorem State.storesWf.stopSolves (h : s.storesWf) : (s.stopSolves k).storesWf := by
  unfold State.stopSolves
  refine State.storesWf.foldl ?_ fun s _ h => ?_
  · exact h
  · split
    · exact .ite h.setSolveRun.failTask h
    · exact h

theorem State.keepsWf.execRootSelftest : s.keepsWf (Machine.execRootSelftest h1 hall1 pass1 s) :=
  .command (fun _ _ h => .ite h.reply (.ite h.reply (.ite h.reply h.failRoot.stopSolves.reply)))

theorem State.keepsWf.execPinProbe : s.keepsWf (Machine.execPinProbe graph1 task1 s) := by
  unfold Machine.execPinProbe
  extract_lets
  split
  · exact .ite (.next fun h => h.collTake.collProbe) (.ite (.next fun h => h.rootProbe) (.ite (.next fun h => h.solveProbe) (.next id)))
  · exact .next id

/-! ### Of Machine/Faults -/

theorem State.storesWf.failSplitk (h : s.storesWf) : (s.failSplitk k).storesWf := by
  unfold State.failSplitk
  refine State.storesWf.foldl ?_ fun s _ h => ?_
  · exact h
  · split
    · split
      · exact .ite h.splitkResult h
      · exact h
    · exact h

theorem State.storesWf.dropStopped (h : s.storesWf) : (s.dropStopped k).storesWf :=
  h.freeContextsOf.finishAllocFrees.foldl fun _ _ h => h.settle
theorem State.storesWf.emptyStall (h : s.storesWf) : (s.emptyStall k).storesWf :=
  .failSplitk (.dropStopped (h.modStall.foldl fun _ _ h => h.redispatch))
theorem State.storesWf.requeue (h : s.storesWf) : (s.requeue lost).storesWf :=
  h.foldl fun _ _ h => .ite (.ite h.modTask.failGraph h.modTask) h
theorem State.storesWf.degradedFault (h : s.storesWf) : (s.degradedFault a cls).storesWf := h.aisleFault
theorem State.storesWf.fenceAisle (h : s.storesWf) : (s.fenceAisle a cls).storesWf :=
  .ite h (.updateLend (.count (.raiseAlert (.ite (.degradedFault (.relend (.requeue (h.setAisle.foldl fun _ _ h => h.emptyStall)))) (.aisleFault (.relend (.requeue (h.setAisle.foldl fun _ _ h => h.emptyStall))))))))
theorem State.storesWf.fenceStall (h : s.storesWf) : (s.fenceStall k cls).storesWf :=
  .ite h (.ite h.emptyStall.stallFault.raiseAlert.count.fenceAisle h.emptyStall.stallFault.raiseAlert.count.relend.updateLend)
theorem State.keepsWf.execStallUe : s.keepsWf (Machine.execStallUe st s) := .next fun h => h.fenceStall
theorem State.keepsWf.execStallTimeout : s.keepsWf (Machine.execStallTimeout st s) := .next fun h => h.fenceStall
theorem State.keepsWf.execAisleUe : s.keepsWf (Machine.execAisleUe hall1 aisle1 s) := .next fun h => .ite h.fenceAisle h
theorem State.keepsWf.execAisleTimeout : s.keepsWf (Machine.execAisleTimeout hall1 aisle1 s) := .next fun h => .ite h.fenceAisle h

theorem State.keepsWf.execCtxParity : s.keepsWf (Machine.execCtxParity t s) := by
  unfold Machine.execCtxParity
  split
  · exact .next id
  · exact .next fun h => .ite h.stallFault.setThread.modStall.releaseHeld.relend h.stallFault.redispatch

theorem State.storesWf.logRepair (h : s.storesWf) : (s.logRepair f).storesWf := .ite h h

theorem State.storesWf.useSx (h : s.storesWf) : (s.useSx k).storesWf := by
  unfold State.useSx
  refine .stallFault (.logRepair ?_)
  obtain ⟨hm, hs, ha⟩ := h
  exact ⟨hm, Memory.wf_filter _ _ hs, ha⟩

theorem State.storesWf.useAx (h : s.storesWf) : (s.useAx a).storesWf := by
  unfold State.useAx
  refine .aisleFault (.logRepair ?_)
  have h1 := h.setHall (h1 := a / 36) (v := { s.hall (a / 36) with axFor := some (a % 36) })
  obtain ⟨hm, hs, ha⟩ := State.storesWf.foldl (l := List.range 16) (h1.setAisle (a := a) (v := { onSpare := true }))
    fun (u : State) i h => h.setStall (k := a * 16 + i) (v := {})
  exact ⟨hm, Memory.wf_filter _ _ hs, Memory.wf_filter _ _ ha⟩

theorem State.storesWf.retireShort (h : s.storesWf) : (s.retireShort a).storesWf := .ite h.fenceAisle h

theorem State.keepsWf.execStallQuietPoint : s.keepsWf (Machine.execStallQuietPoint hall1 aisle1 stall1 sparePass s) := by
  unfold Machine.execStallQuietPoint
  extract_lets
  split
  · exact .next id
  · split
    · exact .ite (.next id) (.ite (.next fun h => h.useSx.retireShort) (.next fun h => h.setAisle.fenceAisle))
    · exact .ite (.next id) (.ite (.next fun h => h.useAx) (.next fun h => h.setHall.setAisle.requeue.degradedFault))

theorem State.storesWf.loseCounters (h : s.storesWf) : (s.loseCounters h1).storesWf := h.setBell
theorem State.storesWf.loseCapture (h : s.storesWf) : (s.loseCapture h1).storesWf := h.foldl fun _ _ h => .hallFault (.unclaim h)
theorem State.storesWf.stopHallTask (h : s.storesWf) : (s.stopHallTask h1 g t ts r).storesWf :=
  .ite h.failTask (.ite h.redispatch h)

/-- What a hall's store and its sweeps held is gone (R18). -/
def State.dropHallStore (s : State) (h : Nat) : State :=
  { s with rescale := s.rescale.filter (fun p => p.1 / 8 ≠ h), sweeps := s.sweeps.set none h none,
           mem := s.mem.filter fun c => !(0xE0000000000 + h * 0x4000000 ≤ c.1 && c.1 < 0xE0000000000 + (h + 1) * 0x4000000) }

theorem State.storesWf.dropHallStore (h : s.storesWf) : (s.dropHallStore k).storesWf :=
  ⟨Memory.wf_filter _ _ h.1, h.2⟩

/-- A fenced hall's threads, tasks, queue and counters, before its store goes. -/
def State.leaveHall (s : State) (h : Nat) (mesh : Bool) (cls : FaultClass) : State :=
    let s := (((s.hallFault h cls 2 3 (BitVec.ofNat 16 h) 0 0).raiseAlert 7).count .fences h 1).setLendable h false
    let s := s.setHall h { s.hall h with fenced := true, meshUp := (s.hall h).meshUp && !mesh }
    let s := (s.stopRoot h).stopSolves h
    let s := (List.range 576).foldl (fun (s : State) i => s.emptyStall (h * 576 + i)) s
    let s := s.allTasks.foldl (fun (s : State) e => s.stopHallTask h e.1 e.2.1 e.2.2.1 e.2.2.2) s
    let s := s.requeue fun q => q.1 = h
    (s.loseCounters h).loseCapture h

theorem State.fenceHall_eq : s.fenceHall k mesh cls =
    if (s.hall k).fenced then s else ((s.leaveHall k mesh cls).dropHallStore k).afterSweep := rfl

theorem State.storesWf.leaveHall (h : s.storesWf) : (s.leaveHall k mesh cls).storesWf := by
  unfold State.leaveHall
  refine .loseCapture (.loseCounters (.requeue (.foldl (.foldl ?_ fun _ _ h => h.emptyStall)
      fun _ _ h => h.stopHallTask)))
  exact h.hallFault.raiseAlert.count.setLendable.setHall.stopRoot.stopSolves

/-- A fenced hall keeps the form: what the hall held leaves by a filter (R18). -/
theorem State.storesWf.fenceHall (h : s.storesWf) : (s.fenceHall k mesh cls).storesWf := by
  rw [State.fenceHall_eq]
  exact .ite h h.leaveHall.dropHallStore.afterSweep

theorem State.keepsWf.execHallUe : s.keepsWf (Machine.execHallUe hall1 mesh s) := .next fun h => h.fenceHall
theorem State.keepsWf.execHallTimeout : s.keepsWf (Machine.execHallTimeout hall1 s) := .next fun h => h.fenceHall

/-! ### Of Machine/Ingest -/

theorem State.storesWf.modQp (h : s.storesWf) : (s.modQp id1 f).storesWf := h.setFab
theorem State.keepsWf.execIngestMrReg : s.keepsWf (Machine.execIngestMrReg h1 off len key s) :=
  .command (fun _ _ h => .ite h.reply (.ite h.reply (.ite h.reply h.setFab.claim.reply)))

theorem State.keepsWf.execIngestMrClear : s.keepsWf (Machine.execIngestMrClear h1 region1 s) := by
  unfold Machine.execIngestMrClear
  refine .command fun c s h => ?_
  split
  · exact h.reply
  · exact .ite h.reply h.setFab.unclaim.reply

theorem State.keepsWf.execIngestQpCreate : s.keepsWf (Machine.execIngestQpCreate h1 port1 ring depth counter1 s) := by
  unfold Machine.execIngestQpCreate
  refine .command fun c s h => ?_
  split
  · exact h.reply
  · split
    · exact h.reply
    · exact h.setFab.reply

theorem State.keepsWf.execIngestQpModify : s.keepsWf (Machine.execIngestQpModify h1 qp1 state raddr rqp mtu cut s) := by
  unfold Machine.execIngestQpModify
  refine .command fun c s h => ?_
  split
  · exact h.reply
  · exact h.reply
  · exact .ite h.reply h.modQp.reply

theorem State.keepsWf.execIngestQpClear : s.keepsWf (Machine.execIngestQpClear h1 qp1 s) := by
  unfold Machine.execIngestQpClear
  refine .command fun c s h => ?_
  split
  · exact h.reply
  · exact h.setFab.reply

theorem State.storesWf.qpError (h : s.storesWf) : (s.qpError q).storesWf := h.modQp.partFault

theorem State.storesWf.rdmaAccess (h : s.storesWf) : (s.rdmaAccess q write off data len).storesWf := by
  unfold State.rdmaAccess
  extract_lets ps fails
  have hfails : ∀ poison a, (fails poison a).storesWf := by
    intro poison a
    dsimp only [fails]
    split
    · exact h.send.accessFault.qpError
    · exact h.send.accessFault
  clear_value fails
  split
  · exact hfails ..
  · exact .ite h.poke.send (.ite (hfails ..) h.send)

theorem State.keepsWf.execIngestRdmaAccess : s.keepsWf (Machine.execIngestRdmaAccess qp1 op key off data len s) := by
  unfold Machine.execIngestRdmaAccess
  split
  · exact .next id
  · exact .ite (.next id) (.ite (.next fun h => h.send.qpError) (.ite (.next fun h => h.setFab) (.next fun h => h.rdmaAccess)))

theorem State.keepsWf.execWorkRequestDone : s.keepsWf (Machine.execWorkRequestDone qp1 ok s) := by
  unfold Machine.execWorkRequestDone
  split
  · exact .next id
  · exact .ite (.next id) (.ite (.next fun h => h.modQp.signalAt) (.next fun h => h.qpError))

theorem State.keepsWf.execCnp : s.keepsWf (Machine.execCnp qp1 s) := by
  unfold Machine.execCnp
  split
  · exact .next id
  · exact .next fun h => h.modQp.count

theorem State.keepsWf.execRateRecoveryTick : s.keepsWf (Machine.execRateRecoveryTick qp1 s) := .next fun h => h.modQp

/-! ### Of Machine/Supply -/

theorem State.storesWf.wiped : s.wiped.storesWf := ⟨rfl, rfl, rfl⟩
theorem State.storesWf.turnOff (_ : s.storesWf) : s.turnOff.storesWf := .modPower .wiped
theorem State.storesWf.departPorts (h : s.storesWf) : s.departPorts.storesWf := h.foldl fun _ _ h => .ite h.send.portState h

theorem State.storesWf.startOver (_ : s.storesWf) : (s.startOver cause).storesWf := by
  unfold State.startOver
  extract_lets s1
  have h1 : s1.storesWf := .wiped
  clear_value s1
  exact h1

theorem State.storesWf.reWidth (h : s.storesWf) : (s.reWidth f).storesWf := h.foldl fun _ _ h => .ite h.modPort h
theorem State.storesWf.take44 (h : s.storesWf) : s.take44.storesWf := .ite h h.modPower.clampHalls.reWidth
theorem State.storesWf.take42 (h : s.storesWf) : s.take42.storesWf := .ite h (h.modPower.foldl fun _ _ h => h.abortCapture)
theorem State.storesWf.setRefresh (h : s.storesWf) : (s.setRefresh v).storesWf := h.foldl fun _ _ h => h.setStack
theorem State.storesWf.take40 (h : s.storesWf) : s.take40.storesWf := .ite h h.stopTills.modPower.setRefresh
theorem State.storesWf.crossing (h : s.storesWf) : s.crossing.storesWf := h.supplyFault.raiseAlert.count

theorem State.storesWf.outState (h : s.storesWf) (ho : s.keepsWf o) : (outState s o).storesWf := by
  obtain ⟨u, rfl, hu⟩ := ho
  exact hu h

theorem State.storesWf.serveHeld (h : s.storesWf) : (s.serveHeld r).storesWf := by
  unfold State.serveHeld
  split
  · exact h.outState (.ite .execRead (.ite .execWrite (.ite .execAtomic .execResp)))
  · exact h.rdmaAccess

theorem State.keepsWf.execVbusBelow44v : s.keepsWf (Machine.execVbusBelow44v s) := .ite (.next fun h => h.take44) (.next id)
theorem State.keepsWf.execVbusAbove45v : s.keepsWf (Machine.execVbusAbove45v s) :=
  .ite (.next fun h => h.modPower.reWidth) (.next id)

theorem State.keepsWf.execVbusBelow42v : s.keepsWf (Machine.execVbusBelow42v s) := by
  unfold Machine.execVbusBelow42v
  split
  · exact .next id
  · exact .ite (.next id) (.next fun h => h.take42.crossing)
  · exact .next fun h => h.crossing

theorem State.keepsWf.execVbusAbove43v : s.keepsWf (Machine.execVbusAbove43v s) := by
  unfold Machine.execVbusAbove43v
  split
  · exact .next id
  · exact .ite (.next fun h => h.modPower.crossing) (.next id)
  · exact .next fun h => h.crossing

theorem State.keepsWf.execVbusBelow40v : s.keepsWf (Machine.execVbusBelow40v s) := by
  unfold Machine.execVbusBelow40v
  split
  · exact .next id
  · exact .ite (.next id) (.next fun h => h.take40.crossing)
  · exact .next fun h => h.crossing

theorem State.keepsWf.execVbusAbove41v : s.keepsWf (Machine.execVbusAbove41v s) := by
  unfold Machine.execVbusAbove41v
  split
  · exact .next id
  · exact .next fun h => h.crossing
  · exact .ite (.next id) (.next fun h => h.modPower.setRefresh.setFab.traceFlush.crossing.foldl fun _ _ h => h.serveHeld)

theorem State.storesWf.orderlyStop (h : s.storesWf) : (s.orderlyStop c).storesWf := by
  unfold State.orderlyStop
  split
  · exact h
  · extract_lets s1 s2 s3 s4
    have h1 : s1.storesWf := h.take44.take42.take40.departPorts.withdrawPairs
    have h2 : s2.storesWf := h1.foldl fun _ _ h => h.modHallPower
    have h4 : s4.storesWf := .supplyFault h2.forceValve.modPower
    clear_value s4
    exact .raiseAlert (.of_eq h4 rfl rfl rfl)

theorem State.keepsWf.execVbusBelow38v : s.keepsWf (Machine.execVbusBelow38v s) := by
  unfold Machine.execVbusBelow38v
  split
  · exact .next fun h => h.crossing.orderlyStop
  · exact .next fun h => h.crossing
  · exact .next id

theorem State.keepsWf.execVbusBelow36v : s.keepsWf (Machine.execVbusBelow36v s) := .next fun h => h.turnOff
theorem State.keepsWf.execVbusOvervoltage : s.keepsWf (Machine.execVbusOvervoltage s) := .next fun h => h.orderlyStop
theorem State.keepsWf.execVbusDisconnect : s.keepsWf (Machine.execVbusDisconnect s) := .next fun h => h.turnOff
theorem State.keepsWf.execVbusLockout : s.keepsWf (Machine.execVbusLockout s) := .next fun h => h.turnOff
theorem State.storesWf.powerOn (h : s.storesWf) : s.powerOn.storesWf := .ite h.modPower.startOver h
theorem State.keepsWf.execPowerOn : s.keepsWf (Machine.execPowerOn s) := .next fun h => h.powerOn
theorem State.keepsWf.execPwrEnRise : s.keepsWf (Machine.execPwrEnRise inWindow1 s) :=
  .next fun h => .ite h.modPower.powerOn h.modPower
theorem State.keepsWf.execPwrEnFall : s.keepsWf (Machine.execPwrEnFall s) :=
  .ite (.next fun h => h.modPower) (.next fun h => h.modPower.orderlyStop.turnOff)

theorem State.keepsWf.execPartReset : s.keepsWf (Machine.execPartReset straps s) := by
  unfold Machine.execPartReset
  refine .ite (.next id) (.next fun h => ?_)
  have h1 : (s.startOver 2).storesWf := h.startOver
  generalize s.startOver 2 = u at h1
  exact h1.of_eq rfl rfl rfl

theorem State.storesWf.modRecord (h : s.storesWf) : (s.modRecord f).storesWf := by
  unfold State.modRecord
  split
  · exact h
  · exact h

theorem State.storesWf.writeStep (h : s.storesWf) : (s.writeStep i f).storesWf := h.modRecord

theorem State.keepsWf.execWatchdogReset : s.keepsWf (Machine.execWatchdogReset s) := by
  unfold Machine.execWatchdogReset
  refine .ite (.next id) (.next fun h => .startOver (.partFault ?_))
  split
  · exact h.writeStep
  · exact h

theorem State.keepsWf.execRestart : s.keepsWf (Machine.execRestart s) := .ite (.next fun h => h.startOver) (.next id)
theorem State.storesWf.losePhase (h : s.storesWf) : (s.losePhase r cls action).storesWf := h.modPower.supplyFault
theorem State.keepsWf.execPhaseLoss : s.keepsWf (Machine.execPhaseLoss rail s) := .ite (.next fun h => h.losePhase) (.next id)

theorem State.storesWf.railAction (h : s.storesWf) : (s.railAction x).storesWf := by
  unfold State.railAction
  split
  · exact .ite h.fenceHall h
  · exact h
  · exact .ite h.declareFailed.turnBack h
  · exact .ite h h.modTillOf.partFault.raiseAlert
  · exact h.logRepair.orderlyStop
  · exact h.logRepair.orderlyStop
  · exact h.logRepair.orderlyStop

theorem State.keepsWf.execRailLoss : s.keepsWf (Machine.execRailLoss rail s) :=
  .ite (.next fun h => h.losePhase.railAction) (.next id)
theorem State.keepsWf.execFlowLoss : s.keepsWf (Machine.execFlowLoss s) :=
  .ite (.next fun h => h.coolingAlert.orderlyStop) (.next id)
theorem State.keepsWf.execInletHot : s.keepsWf (Machine.execInletHot inlet held5s s) :=
  .ite (.next id) (.next fun h => .ite (.orderlyStop (.ite h.modPower.forceValve.supplyFault.coolingAlert h.modPower.forceValve.supplyFault)) (.ite h.modPower.forceValve.supplyFault.coolingAlert h.modPower.forceValve.supplyFault))
theorem State.keepsWf.execOutletHot : s.keepsWf (Machine.execOutletHot s) :=
  .ite (.next fun h => h.coolingAlert.orderlyStop) (.next id)
theorem State.keepsWf.execJunctionTrip : s.keepsWf (Machine.execJunctionTrip temp s) :=
  .ite (.next fun h => h.turnOff) (.ite (.next fun h => h.coolingAlert.orderlyStop) (.next id))

/-! ### Of Machine/Hbm -/

theorem State.storesWf.stackFault (h : s.storesWf) : (s.stackFault k cls action detail).storesWf := h.hallFault
theorem State.storesWf.modStack (h : s.storesWf) : (s.modStack k f).storesWf := h.setStack

theorem State.storesWf.poisonPlace (h : s.storesWf) : (s.poisonPlace k l).storesWf := by
  unfold State.poisonPlace
  split
  · exact h
  · exact h

theorem State.keepsWf.execGranuleRecon : s.keepsWf (Machine.execGranuleRecon stack1 addr s) := by
  unfold Machine.execGranuleRecon
  extract_lets
  split
  · exact .next id
  · exact .ite (.next id) (.ite (.next fun h => h.modStack.count.stackFault) (.next fun h => .foldl h fun _ _ h => h.poisonPlace))

theorem State.keepsWf.execPoisonRead : s.keepsWf (Machine.execPoisonRead stack1 addr s) := by
  unfold Machine.execPoisonRead
  extract_lets
  split
  · exact .next id
  · exact .ite (.next fun h => h.count.stackFault) (.next id)

theorem State.storesWf.poisonMates (h : s.storesWf) : (s.poisonMates k pc).storesWf := by
  unfold State.poisonMates
  refine State.storesWf.foldl ?_ fun s _ h => ?_
  · exact h
  · split
    · exact .ite (h.foldl fun _ _ h => h.poisonPlace) h
    · exact h

theorem State.keepsWf.execPcFailed : s.keepsWf (Machine.execPcFailed stack1 pc s) := by
  unfold Machine.execPcFailed
  extract_lets
  split
  · exact .next id
  · split
    · exact .next fun h => h.poisonMates.modStack.stackFault
    · exact .next fun h => h.modStack.stackFault

theorem State.keepsWf.execPcRebuildDone : s.keepsWf (Machine.execPcRebuildDone stack1 s) := by
  unfold Machine.execPcRebuildDone
  extract_lets
  split
  · exact .next id
  · exact .ite (.next id) (.next fun h => h.modStack.stackFault)

theorem State.keepsWf.execRowRemap : s.keepsWf (Machine.execRowRemap stack1 pc bank row s) :=
  .ite (.next id) (.ite (.next fun h => h.modStack.count.stackFault) (.ite (.next id) (.next fun h => h.setXlt)))

theorem State.storesWf.moveUnitTo (h : s.storesWf) : (s.moveUnitTo k a off r).storesWf := by
  unfold State.moveUnitTo
  extract_lets gs lost s1 s2
  exact .of_eq h rfl rfl rfl

theorem State.keepsWf.execUnitRetire : s.keepsWf (Machine.execUnitRetire stack1 unit s) := by
  unfold Machine.execUnitRetire
  extract_lets k v
  split
  · exact .next id
  · extract_lets pinned s1 _ s2 n s3 s4
    refine .ite (.next id) (.ite (.next fun h => .ite h h.setXlt) (.next fun h => ?_))
    have h1 : s1.storesWf := by
      unfold s1
      split
      · exact h.moveUnitTo
      · exact h.setXlt
    clear_value s1
    have h2 : s2.storesWf := h1.setXlt
    clear_value s2
    have h4 : s4.storesWf := h2.modStack.count.stackFault
    clear_value s4
    exact (State.storesWf.ite h4.raiseAlert h4).releaseUnit

theorem State.keepsWf.execRowActivationLimit : s.keepsWf (Machine.execRowActivationLimit stack1 pc bank row s) :=
  .ite (.next fun h => h.modStack) (.next id)
theorem State.storesWf.readEcs (h : s.storesWf) : (s.readEcs k).storesWf := h.modStack.count.count
theorem State.keepsWf.execScrubPass : s.keepsWf (Machine.execScrubPass stack1 corrected s) :=
  .ite (.next id) (.next fun h => .readEcs (.ite h.modStack h.modStack.count))
theorem State.keepsWf.execHbmTempRead : s.keepsWf (Machine.execHbmTempRead stack1 temp s) :=
  .ite (.next id) (.next fun h => .ite (.orderlyStop (.ite h.modStack.modHallPower.clampHalls.stackFault.coolingAlert h.modStack.modHallPower.clampHalls)) (.ite h.modStack.modHallPower.clampHalls.stackFault.coolingAlert h.modStack.modHallPower.clampHalls))
theorem State.keepsWf.execPerBankRefresh : s.keepsWf (Machine.execPerBankRefresh stack1 pc bank s) :=
  .ite (.next id) (.next fun h => h.modStack)
theorem State.keepsWf.execMemHealth : s.keepsWf (Machine.execMemHealth h1 stack1 va s) :=
  .command (fun _ _ h => .ite h.readEcs.cmdWrite h.reply)
theorem State.keepsWf.execMemRetired : s.keepsWf (Machine.execMemRetired h1 stack1 va cap s) :=
  .command (fun _ _ h => .ite h.reply h.cmdWrite)
theorem State.keepsWf.execMemScrubSet : s.keepsWf (Machine.execMemScrubSet h1 stack1 period s) :=
  .command (fun _ _ h => .ite h.reply (.ite (.reply (h.foldl fun _ _ h => h.modStack)) (.ite h.modStack.reply h.reply)))

/-! ### Of Machine/Startup -/

theorem State.storesWf.openEntry (h : s.storesWf) : (s.openEntry i).storesWf := .writeStep h
theorem State.storesWf.endStep (h : s.storesWf) : (s.endStep i code action detail).storesWf := h.writeStep
theorem State.storesWf.failStep (h : s.storesWf) : (s.failStep i action detail note).storesWf :=
  .of_eq h.endStep.writeStep rfl rfl rfl
theorem State.storesWf.doneStep (h : s.storesWf) : (s.doneStep i action detail).storesWf := h.endStep

theorem State.storesWf.of_applyClear (h : s.storesWf) (e : s.applyClear = (u, r1)) : u.storesWf := by
  unfold State.applyClear at e
  dsimp only at e
  split at e
  · cases e
    exact h
  · cases e
    exact h

theorem State.storesWf.recover (h : s.storesWf) : (s.recover step1 readable).storesWf := h
theorem State.storesWf.spareStall (h : s.storesWf) : (s.spareStall k).storesWf :=
  .ite h (.ite h.fenceStall (.ite (.ite h.fenceStall.useAx h.fenceStall) (.ite h.fenceStall.useSx h.fenceStall)))

theorem State.storesWf.applyMap (h : s.storesWf) : s.applyMap.storesWf := by
  unfold State.applyMap
  extract_lets r s1
  have h1 : s1.storesWf := by
    unfold s1
    refine State.storesWf.foldl ?_ fun s _ h => ?_
    · exact h
    · split
      · exact h.setHall.setAisle
      · exact h
  clear_value s1
  refine State.storesWf.foldl ?_ fun s _ h => ?_
  · exact h1
  · split
    · exact h.setAisle.modStall
    · exact h

theorem State.storesWf.of_step5 (h : s.storesWf) (e : s.step5 f cleared = (r1, u)) : u.storesWf := by
  unfold State.step5 at e
  dsimp only at e
  split at e
  · split at e
    · cases e
      exact h.failStep
    · cases e
      exact .endStep (.foldl (.foldl (.applyMap (h.foldl fun _ _ h => .ite h.setHall h.modHallPower)) fun _ _ h => .ite h h.spareStall) fun _ _ h => .ite h.failRoot h)
  · split at e
    · cases e
      exact h.logRepair.failStep
    · cases e
      exact .endStep (.foldl (.foldl (.applyMap (h.logRepair.foldl fun _ _ h => .ite h.setHall h.modHallPower)) fun _ _ h => .ite h h.spareStall) fun _ _ h => .ite h.failRoot h)

theorem State.storesWf.of_step6 (h : s.storesWf) (e : s.step6 f cleared = (r1, u)) : u.storesWf := by
  unfold State.step6 at e
  dsimp only at e
  split at e
  · split at e
    · cases e
      exact h.failStep
    · cases e
      exact .doneStep (h.foldl fun _ _ h => h.modStack)
  · split at e
    · cases e
      exact h.logRepair.failStep
    · cases e
      exact .doneStep (h.logRepair.foldl fun _ _ h => h.modStack)

theorem State.storesWf.of_step7 (h : s.storesWf) (e : s.step7 f cleared = (r1, u)) : u.storesWf := by
  unfold State.step7 at e
  dsimp only at e
  split at e
  · cases e
    exact h.failStep
  · cases e
    exact .doneStep (h.logRepair.foldl fun _ _ h => h.modTillOf)

theorem State.storesWf.restartHubLc (h : s.storesWf) : s.restartHubLc.storesWf := by
  unfold State.restartHubLc
  split
  · exact h
  · extract_lets d _ s1
    have h1 : s1.storesWf := h.setHost
    clear_value s1
    exact h1

theorem State.storesWf.of_step8 (h : s.storesWf) (e : s.step8 f cleared = (r1, u)) : u.storesWf := by
  unfold State.step8 at e
  dsimp only at e
  split at e
  · cases e
    exact h.failStep
  · cases e
    exact .doneStep (.restartHubLc (.foldl (h.logRepair.foldl fun _ _ h => h.setHall.modHallPower) fun _ _ h => .ite h h.setHall))

theorem State.storesWf.of_step9 (h : s.storesWf) (e : s.step9 f cleared = (r1, u)) : u.storesWf := by
  unfold State.step9 at e
  dsimp only at e
  split at e
  · split at e
    · split at e
      · cases e
        exact .failStep h
      · cases e
        exact .doneStep (.logRepair h)
    · split at e
      · cases e
        exact .failStep h
      · cases e
        exact .doneStep (.logRepair h)
  · split at e
    · split at e
      · cases e
        exact .failStep (.logRepair h)
      · cases e
        exact .doneStep (.logRepair (.logRepair h))
    · split at e
      · cases e
        exact .failStep (.logRepair h)
      · cases e
        exact .doneStep (.logRepair (.logRepair h))

theorem State.storesWf.ready (h : s.storesWf) : s.ready.storesWf := .of_eq h.openEntry.endStep rfl rfl rfl
theorem State.storesWf.discover (h : s.storesWf) : s.discover.storesWf := .ite (.ready (.ite h h.endStep)) h
theorem State.storesWf.step10 (h : s.storesWf) : s.step10.storesWf :=
  .ite (.ready (.endStep (.of_eq h.openEntry rfl rfl rfl))) (.discover (.foldl (.of_eq h.openEntry rfl rfl rfl) fun _ _ h => .ite h (.ite h.portState.setFab h.openPort.send)))

/-- A choice between two outcomes of a step keeps what both keep. -/
theorem State.storesWf.of_ite {c : Prop} [Decidable c] {α : Type} {x y : α × State} (hx : x.2.storesWf) (hy : y.2.storesWf) :
    (if c then x else y).2.storesWf := by
  split
  · exact hx
  · exact hy

theorem State.storesWf.runSteps (h : s.storesWf) : (s.runSteps f cleared l).storesWf := by
  induction l generalizing s with
  | nil => exact h.step10
  | cons i l ih =>
    have h1 : (s.openEntry i).storesWf := h.openEntry
    rw [State.runSteps]
    refine .ite h1 ?_
    split
    rename_i on t ht
    have h2 : t.storesWf := by
      have e : _ = t := congrArg Prod.snd ht
      rw [← e]
      exact .of_ite (.of_ite h1.failStep h1.doneStep) (.of_ite (h1.of_step5 rfl) (.of_ite (h1.of_step6 rfl)
        (.of_ite (h1.of_step7 rfl) (.of_ite (h1.of_step8 rfl) (h1.of_step9 rfl)))))
    exact .ite (ih h2) h2

theorem State.storesWf.startUp (h : s.storesWf) : (s.startUp f).storesWf := by
  unfold State.startUp
  extract_lets
  split
  · exact h.recover
  · split
    · exact h.recover
    · split
      · exact h.recover
      · extract_lets areas r s1 s2 s3 alt cfg _ s4 fw _ s5 s6
        have h1 : s1.storesWf := h
        clear_value s1
        have h2 : s2.storesWf := h1.openEntry.doneStep.openEntry
        clear_value s2
        have h3 : s3.storesWf := h2.doneStep.openEntry
        clear_value s3
        have h4 : s4.storesWf := .ite h3 h3
        clear_value s4
        have h5 : s5.storesWf := .ite h4 h4
        clear_value s5
        have h6 : s6.storesWf := h5.endStep
        clear_value s6
        split
        · exact h2
        · split
          · exact h2.failStep
          · split
            · exact h3
            · split
              · exact h3.failStep
              · split
                · exact (h6.of_applyClear ‹_›).runSteps

theorem State.keepsWf.execSupplyCheckDone : s.keepsWf (Machine.execSupplyCheckDone f s) :=
  .ite (.next fun h => h.startUp) (.next id)
theorem State.keepsWf.execStartupStepBound : s.keepsWf (Machine.execStartupStepBound step1 s) :=
  .ite (.next fun h => .of_eq h.endStep rfl rfl rfl) (.next id)
theorem State.keepsWf.execDiscoveryPartner : s.keepsWf (Machine.execDiscoveryPartner port1 serial s) :=
  .ite (.next id) (.next fun h => .discover h)
theorem State.keepsWf.execDiscTimeout : s.keepsWf (Machine.execDiscTimeout s) := .ite (.next fun h => h.endStep) (.next id)

/-! ### Of Machine/Tools -/

theorem State.storesWf.spareAisle (h : s.storesWf) : (s.spareAisle a).storesWf := .ite h (.ite h.fenceAisle.useAx h.fenceAisle)
theorem State.storesWf.loseTillPipe (h : s.storesWf) : (s.loseTillPipe k).storesWf := h.outState .execTillPipeFail

theorem State.storesWf.destroyStores (h : s.storesWf) : (s.destroyStores m).storesWf := by
  obtain ⟨hm, hs, ha⟩ := h
  unfold State.destroyStores
  extract_lets all s1
  have h1 : s1.storesWf := .ite ⟨hm, rfl, ha⟩ ⟨hm, hs, ha⟩
  clear_value s1
  obtain ⟨hm, hs, ha⟩ := h1
  exact .ite ⟨Memory.wf_filter _ _ hm, hs, rfl⟩ ⟨hm, hs, ha⟩

theorem State.storesWf.takeFailures (h : s.storesWf) : (s.takeFailures f).storesWf :=
  .foldl (.foldl (.foldl (.foldl (h.foldl fun _ _ h => .ite h h.spareStall) fun _ _ h => h.spareAisle) fun _ _ h => .ite h.fenceHall h) fun _ _ h => .ite h.loseTillPipe h) fun _ _ h => .ite h.failRoot h
theorem State.keepsWf.execSelftest : s.keepsWf (Machine.execSelftest h1 mask1 facts s) :=
  .command (fun _ _ h => .ite h.reply (.ite h.reply (.ite h.destroyStores.reply h.destroyStores.takeFailures.reply)))
theorem State.keepsWf.execMarginHbm : s.keepsWf (Machine.execMarginHbm h1 stack1 mask1 param pass1 s) :=
  .command (fun _ _ h => .ite h.reply (.ite h.reply h.replyBulk))
theorem State.keepsWf.execMarginLink : s.keepsWf (Machine.execMarginLink h1 port1 maskLo maskHi param pass1 s) :=
  .command (fun _ _ h => .ite h.reply (.ite h.reply h.replyBulk))

theorem State.keepsWf.execTraceConfig : s.keepsWf (Machine.execTraceConfig h1 va size trig cls events post1 s) := by
  unfold Machine.execTraceConfig
  refine .command fun c s h => ?_
  split
  · exact h.reply
  · split
    · exact h.reply
    · split
      · split
        · exact h.parkCmd
        · extract_lets cfg _ s1 s2 s3
          have h1 : s1.storesWf := h.setXlt
          clear_value s1
          have h2 : s2.storesWf := h1
          clear_value s2
          have h3 : s3.storesWf := .ite h2.claim h2
          clear_value s3
          exact h3.reply
      · exact h.reply

theorem State.keepsWf.execTraceArm : s.keepsWf (Machine.execTraceArm h1 flags s) := by
  unfold Machine.execTraceArm
  refine .command fun c s h => ?_
  split
  · exact h.reply
  · exact .ite h.reply (.reply (.ite (.traceTrigger (.ite h h)) (.ite h h)))

theorem State.keepsWf.execTraceRelease : s.keepsWf (Machine.execTraceRelease h1 s) :=
  .command (fun _ _ h => .reply (.unclaim (.unpin h)))
theorem State.keepsWf.execTraceStatus : s.keepsWf (Machine.execTraceStatus h1 s) := .command (fun _ _ h => h.replyBulk)
theorem State.keepsWf.execTrigInEdge : s.keepsWf (Machine.execTrigInEdge s) :=
  .ite (.next id) (.next fun h => .ite h.ownMark.traceTrigger h.ownMark)

/-! ### Of Machine/HostLink -/

theorem State.storesWf.drainReplies (h : s.storesWf) : (Machine.drainReplies x s).storesWf := by
  induction x generalizing s with
  | zero =>
    rw [Machine.drainReplies]
    exact h
  | succ x ih =>
    rw [Machine.drainReplies]
    split
    · exact h
    · exact .ite (ih h.setHost.writeEntry) h

theorem State.storesWf.drainRing (h : s.storesWf) : s.drainRing.storesWf := h.drainReplies.drainEvents
theorem State.keepsWf.execBar0Doorbell : s.keepsWf (Machine.execBar0Doorbell v s) :=
  .ite (.next id) (.ite (.next fun h => h.setHost) (.next fun h => h.setErr))
theorem State.keepsWf.execBar0EnableWrite : s.keepsWf (Machine.execBar0EnableWrite v s) :=
  .ite (.next id) (.ite (.ite (.next id) (.next fun h => h.setHost.drainRing)) (.next fun h => h.setHost))
theorem State.keepsWf.execBar0RplHeadWrite : s.keepsWf (Machine.execBar0RplHeadWrite v s) :=
  .ite (.next id) (.next fun h => h.setHost.drainRing)
theorem State.keepsWf.execBar0ErrClear : s.keepsWf (Machine.execBar0ErrClear v s) := .ite (.next id) (.next fun h => h.setHost)
theorem State.storesWf.msixWrite (h : s.storesWf) : (s.msixWrite off v).storesWf :=
  .ite h.setHost (.ite h.setHost.setHost.msix h.setHost)
theorem State.keepsWf.execBar0RegWrite : s.keepsWf (Machine.execBar0RegWrite offset v s) :=
  .ite (.next id) (.ite (.next fun h => h.msixWrite) (.ite (.next fun h => h.setHost) (.ite (.next fun h => h.setHost) (.ite (.next id) (.ite (.next fun h => h.setHost) (.ite (.next fun h => .ite h.setHost h) (.ite (.next fun h => h.setHost) (.ite (.next fun h => .ite h.setHost h) (.next id)))))))))
theorem State.keepsWf.execCommandFetch : s.keepsWf (Machine.execCommandFetch opcode hdr s) :=
  .ite (.next id) (.ite (.next fun h => h.setHost.setErr.reply) (.next fun h => h.setHost.setHost))

theorem State.keepsWf.execCommandExpire : s.keepsWf (Machine.execCommandExpire seq s) := by
  unfold Machine.execCommandExpire
  split
  · exact .ite (.next fun h => h.reply) (.next id)
  · exact .next id

theorem State.keepsWf.execLongCommand : s.keepsWf (Machine.execLongCommand seq s) := by
  unfold Machine.execLongCommand
  split
  · exact .ite (.next fun h => h.modCmd) (.next id)
  · exact .next id

theorem State.keepsWf.execUnknownOpcode : s.keepsWf (Machine.execUnknownOpcode opcode hdr s) := by
  unfold Machine.execUnknownOpcode
  split
  · exact .next id
  · exact .ite (.next id) (.next fun h => h.reply)

theorem State.keepsWf.execEventBufferDrain : s.keepsWf (Machine.execEventBufferDrain s) := .next fun h => h.drainRing
theorem State.keepsWf.execInterruptHoldoff : s.keepsWf (Machine.execInterruptHoldoff kind s) :=
  .ite (.next id) (.next fun h => h.setHost.msix)
theorem State.keepsWf.execHostDmaError : s.keepsWf (Machine.execHostDmaError s) := .ite (.next fun h => h.setErr.setHost) (.next id)
theorem State.keepsWf.execHostInterfaceReset : s.keepsWf (Machine.execHostInterfaceReset kind s) :=
  .ite (.next id) (.next fun h => h.setHost)
theorem State.keepsWf.execPciePowerStateChange : s.keepsWf (Machine.execPciePowerStateChange d3hot s) :=
  .ite (.next id) (.next fun h => .ite h.setHost h.setHost.drainRing)

/-! ### Of Machine/HostMem -/

theorem State.keepsWf.execAllocReg : s.keepsWf (Machine.execAllocReg h1 va len s) := by
  unfold Machine.execAllocReg
  refine .command fun c s h => ?_
  extract_lets
  split
  · exact h.reply
  · split
    · exact h.reply
    · split
      · exact h.reply
      · exact h.setHost.claim.reply

theorem State.keepsWf.execAllocFree : s.keepsWf (Machine.execAllocFree h1 handle s) :=
  .command (fun _ _ h => .ite h.reply (.ite h.reply h.setHost.unclaim.waitCmd.finishAllocFrees))

theorem State.storesWf.of_copyIn (h : s.storesWf) (e : s.copyIn job x x1 x2 = (u, r1)) : u.storesWf := by
  induction x generalizing s job x1 x2 u r1 with
  | nil =>
    rw [State.copyIn] at e
    cases e
    exact h
  | cons a x ih =>
    rw [State.copyIn] at e
    split at e
    · split at e
      · cases e
        exact ih (h.of_vwrite ‹_›) ‹_›
    · split at e
      · split at e
        · cases e
          exact ih (h.of_windowSignal ‹_›) ‹_›
      · cases e
        exact h.accessFault
    · cases e
      exact h
    · cases e
      exact h

theorem State.keepsWf.execMemWrite : s.keepsWf (Machine.execMemWrite h1 va len bulk s) := by
  unfold Machine.execMemWrite
  refine .command fun c s h => ?_
  extract_lets
  split
  · exact h.reply
  · split
    · split
      · exact ((h.of_copyIn ‹_›).remoteWrites).reply
      · exact .ite ((h.of_copyIn ‹_›).reply) (((h.of_copyIn ‹_›).remoteWrites).waitCmd)

theorem State.keepsWf.execMemRead : s.keepsWf (Machine.execMemRead h1 va len s) := by
  unfold Machine.execMemRead
  refine .command fun c s h => ?_
  extract_lets
  split
  · exact h.reply
  · split
    · split
      · exact h.parkCmd.hubFetch
      · exact h.dropHub.accessFault.bulkOut.reply
      · exact h.dropHub.bulkOut.reply
      · exact h.dropHub.bulkOut.reply

theorem State.storesWf.of_sealBatch (h : s.storesWf) (e : s.sealBatch job drafts out x x1 = (u, r1)) : u.storesWf := by
  induction x generalizing s job drafts out x1 u r1 with
  | zero =>
    rw [State.sealBatch] at e
    cases e
    exact h
  | succ x ih =>
    rw [State.sealBatch] at e
    split at e
    · cases e
      exact h
    · cases e
      exact h
    · cases e
      exact h
    · dsimp only at e
      split at e
      · split at e
        · cases e
          exact h
        · split at e
          · split at e
            · exact ih (h.of_vwrite ‹_›) ‹_›
            · cases e
              exact h.of_vwrite ‹_›
          · cases e
            exact h
          · cases e
            exact h
          · cases e
            exact h
      · split at e
        · cases e
          exact h
        · split at e
          · split at e
            · exact ih (h.of_vwrite ‹_›) ‹_›
            · cases e
              exact h.of_vwrite ‹_›
          · cases e
            exact h
          · cases e
            exact h
          · cases e
            exact h

theorem State.keepsWf.execDescCreate : s.keepsWf (Machine.execDescCreate h1 drafts count1 out s) := by
  unfold Machine.execDescCreate
  refine .command fun c s h => ?_
  split
  · exact h.reply
  · split
    · extract_lets
      split
      · exact (((h.of_sealBatch ‹_›).modCmd).parkCmd).hubFetch
      · exact ((((h.of_sealBatch ‹_›).modCmd).dropHub).remoteWrites).waitCmd
      · extract_lets s1
        have h1 : s1.storesWf := by
          unfold s1
          split
          · exact (h.of_sealBatch ‹_›).accessFault
          · exact h.of_sealBatch ‹_›
        clear_value s1
        exact h1.dropHub.reply
      · exact ((h.of_sealBatch ‹_›).dropHub).reply

theorem State.keepsWf.execDescCheck : s.keepsWf (Machine.execDescCheck h1 va s) :=
  .command (fun _ _ h => h.cmdRead (fun _ _ h => h.reply))

theorem State.keepsWf.execTrapLogRead : s.keepsWf (Machine.execTrapLogRead h1 stall1 s) := by
  unfold Machine.execTrapLogRead
  refine .command fun c s h => ?_
  split
  · exact h.reply
  · exact h.replyBulk

theorem State.keepsWf.execClaimStatus : s.keepsWf (Machine.execClaimStatus h1 s) := .command (fun _ _ h => h.replyBulk)
theorem State.keepsWf.execFaultLogRead : s.keepsWf (Machine.execFaultLogRead h1 count1 s) :=
  .command (fun _ _ h => .ite h.replyBulk h.reply)
theorem State.keepsWf.execPostmortem : s.keepsWf (Machine.execPostmortem h1 flags s) :=
  .command (fun _ _ h => .ite h.reply h.replyBulk)

/-! ### Of Machine/LayoutCmds -/

theorem State.keepsWf.execLayoutSwitch : s.keepsWf (Machine.execLayoutSwitch h1 epoch timeout s) := by
  unfold Machine.execLayoutSwitch
  refine .command fun c s h => ?_
  extract_lets e s1 _ s2
  have h1 : s1.storesWf := h.waitCmd
  clear_value s1
  have h2 : s2.storesWf := h1.setLayouts
  clear_value s2
  split
  · exact h.reply
  · split
    · exact h.reply
    · split
      · exact h.reply
      · split
        · exact h.reply
        · exact h2.send.prepareLayout

theorem State.keepsWf.execLayoutStatus : s.keepsWf (Machine.execLayoutStatus h1 s) := .command (fun _ _ h => h.reply)
theorem State.keepsWf.execLayoutPrepare : s.keepsWf (Machine.execLayoutPrepare coord job epoch s) :=
  .ite (.next id) (.ite (.next fun h => h.send) (.next fun h => h.prepareLayout))
theorem State.keepsWf.execLayoutReady : s.keepsWf (Machine.execLayoutReady part job s) :=
  .ite (.next fun h => h.layoutReadyFrom) (.next id)

theorem State.keepsWf.execLayoutCommit : s.keepsWf (Machine.execLayoutCommit coord job epoch s) := by
  unfold Machine.execLayoutCommit
  split
  · exact .ite (.next fun h => h.commitLayout) (.next id)
  · exact .next id

theorem State.keepsWf.execLayoutAbort : s.keepsWf (Machine.execLayoutAbort coord job s) := by
  unfold Machine.execLayoutAbort
  split
  · exact .ite (.next fun h => h.leaveLayout) (.next id)
  · exact .next id

theorem State.keepsWf.execLayoutRefuse : s.keepsWf (Machine.execLayoutRefuse part job s) :=
  .ite (.next fun h => h.abortLayout) (.next id)

theorem State.keepsWf.execLayoutSwitchTimeout : s.keepsWf (Machine.execLayoutSwitchTimeout job s) := by
  unfold Machine.execLayoutSwitchTimeout
  split
  · exact .next fun h => h.abortLayout
  · exact .next id

/-! ### Of Machine/Secure -/

theorem State.keepsWf.execDeviceInfo : s.keepsWf (Machine.execDeviceInfo h1 s) := by
  unfold Machine.execDeviceInfo
  refine .command fun c s h => ?_
  split
  · exact h.reply

theorem State.keepsWf.execPing : s.keepsWf (Machine.execPing h1 s) := .command (fun _ _ h => h.reply)
theorem State.keepsWf.execIdCertRead : s.keepsWf (Machine.execIdCertRead h1 s) := .command (fun _ _ h => .ite h.reply h.replyBulk)
theorem State.keepsWf.execAttest : s.keepsWf (Machine.execAttest h1 n0 n1 n2 n3 n4 n5 s) :=
  .command (fun _ _ h => .ite h.reply h.replyBulk)

theorem State.storesWf.withObject {k : List Byte → State → State} (h : s.storesWf)
    (hk : ∀ (o : List Byte) (u : State), u.storesWf → (k o u).storesWf) : (s.withObject c kind bulk k).storesWf := by
  unfold State.withObject
  exact .ite h.reply (.ite (hk _ s h) h.reply)

theorem State.keepsWf.execJobSeedSet : s.keepsWf (Machine.execJobSeedSet h1 seed s) :=
  .command (fun _ _ h => .ite h.reply h.setHost.reply)
theorem State.keepsWf.execWkeyInstall : s.keepsWf (Machine.execWkeyInstall h1 slot bulk s) :=
  .command (fun _ _ h => .ite h.reply (h.withObject (fun _ _ h => .ite h.reply h.setHost.reply)))
theorem State.keepsWf.execWkeyClear : s.keepsWf (Machine.execWkeyClear h1 slot s) :=
  .command (fun _ _ h => .ite h.reply (.ite h.reply h.setHost.reply))
theorem State.keepsWf.execFwStage : s.keepsWf (Machine.execFwStage h1 target bulk s) :=
  .command (fun _ _ h => .ite h.reply (h.withObject (fun _ _ h => .reply (.setHost h))))

theorem State.keepsWf.execFwCommit : s.keepsWf (Machine.execFwCommit h1 target s) := by
  unfold Machine.execFwCommit
  refine .command fun c s h => ?_
  split
  · exact h.reply
  · split
    · exact h.reply
    · exact .reply (.setHost (.modRecord h))

/-! ### Of Machine/Step -/

theorem State.storesWf.withFetchWord (h : s.storesWf) : (s.withFetchWord nbits w).storesWf := by
  unfold State.withFetchWord
  split
  · exact h
  · exact h

/-! ### Every command, and every step -/

set_option maxRecDepth 4000 in
/-- Every command goes on, from a canonical state to a canonical one. -/
theorem State.keepsWf.exec (i : Instr) (s : State) : s.keepsWf (exec i s) :=
  match i with
  | .add .. => .execAdd | .sub .. => .execSub | .mul .. => .execMul | .mulhu .. => .execMulhu | .and .. => .execAnd
  | .or .. => .execOr | .xor .. => .execXor | .shl .. => .execShl | .shr .. => .execShr | .sar .. => .execSar
  | .min .. => .execMin | .max .. => .execMax | .slt .. => .execSlt | .sltu .. => .execSltu | .movi .. => .execMovi
  | .movhi .. => .execMovhi | .ld .. => .execLd | .st .. => .execSt | .rdsys .. => .execRdsys | .br .. => .execBr
  | .beq .. => .execBeq | .bne .. => .execBne | .blt .. => .execBlt | .bge .. => .execBge | .bltu .. => .execBltu
  | .bgeu .. => .execBgeu | .jr .. => .execJr | .trap .. => .execTrap | .endI .. => .execEndI | .mma .. => .execMma
  | .mmaTa .. => .execMmaTa | .mmaTb .. => .execMmaTb | .pass .. => .execPass | .copy .. => .execCopy | .tcopy .. => .execTcopy
  | .pcopy .. => .execPcopy | .dmov .. => .execDmov | .dld .. => .execDld | .dst .. => .execDst | .cld .. => .execCld
  | .cst .. => .execCst | .mld .. => .execMld | .mst .. => .execMst | .sig .. => .execSig | .wait .. => .execWait
  | .barrier .. => .execBarrier | .waittok .. => .execWaittok | .fence .. => .execFence | .yield .. => .execYield
  | .dcreate .. => .execDcreate | .splitk .. => .execSplitk | .xslice .. => .execXslice | .tallyrd .. => .execTallyrd
  | .moveComplete .. => .execMoveComplete | .drainComplete .. => .execDrainComplete | .slotBeginGrant .. => .execSlotBeginGrant
  | .slotPressureTimeout .. => .execSlotPressureTimeout | .splitkGroupForm .. => .execSplitkGroupForm
  | .splitkTimeout .. => .execSplitkTimeout | .xsliceModeSet .. => .execXsliceModeSet | .bar0Doorbell .. => .execBar0Doorbell
  | .bar0EnableWrite .. => .execBar0EnableWrite | .bar0RplHeadWrite .. => .execBar0RplHeadWrite
  | .bar0ErrClear .. => .execBar0ErrClear | .bar0RegWrite .. => .execBar0RegWrite | .commandFetch .. => .execCommandFetch
  | .commandExpire .. => .execCommandExpire | .longCommand .. => .execLongCommand | .unknownOpcode .. => .execUnknownOpcode
  | .eventBufferDrain .. => .execEventBufferDrain | .interruptHoldoff .. => .execInterruptHoldoff
  | .hostDmaError .. => .execHostDmaError | .hostInterfaceReset kind => .execHostInterfaceReset (kind := kind)
  | .pciePowerStateChange .. => .execPciePowerStateChange | .deviceInfo .. => .execDeviceInfo | .ping .. => .execPing
  | .idCertRead .. => .execIdCertRead | .attest .. => .execAttest | .allocReg .. => .execAllocReg
  | .allocFree .. => .execAllocFree | .memWrite .. => .execMemWrite | .memRead .. => .execMemRead
  | .memHealth .. => .execMemHealth | .memRetired .. => .execMemRetired | .memScrubSet .. => .execMemScrubSet
  | .xltSpaceSet .. => .execXltSpaceSet | .xltSpaceClear .. => .execXltSpaceClear | .xltInvalidate .. => .execXltInvalidate
  | .xltFaultResolve .. => .execXltFaultResolve | .xltSaveAreaSet .. => .execXltSaveAreaSet
  | .xltReserveSet .. => .execXltReserveSet | .descCreate .. => .execDescCreate | .descCheck .. => .execDescCheck
  | .graphSubmit .. => .execGraphSubmit | .graphStop .. => .execGraphStop | .graphStatus .. => .execGraphStatus
  | .graphRelease .. => .execGraphRelease | .bellRead .. => .execBellRead | .bellSignal .. => .execBellSignal
  | .bellWatch .. => .execBellWatch | .bellCancel .. => .execBellCancel | .bellReset .. => .execBellReset
  | .bellBarrierSet .. => .execBellBarrierSet | .bellBarrierClear .. => .execBellBarrierClear
  | .bellPairSet .. => .execBellPairSet | .bellPairClear .. => .execBellPairClear | .bellLendSet .. => .execBellLendSet
  | .bellDump .. => .execBellDump | .weightSetReg .. => .execWeightSetReg | .weightSetClear .. => .execWeightSetClear
  | .weightLoad .. => .execWeightLoad | .weightSwitch .. => .execWeightSwitch | .weightStatus .. => .execWeightStatus
  | .tillGroupSet .. => .execTillGroupSet | .tillGroupClear .. => .execTillGroupClear
  | .tillGroupStatus .. => .execTillGroupStatus | .tillGroupEpoch .. => .execTillGroupEpoch
  | .tillDigestVerify .. => .execTillDigestVerify | .gmaskSet .. => .execGmaskSet | .gmaskClear .. => .execGmaskClear
  | .gmaskBind .. => .execGmaskBind | .fabPortStatus .. => .execFabPortStatus | .fabPortRetrain .. => .execFabPortRetrain
  | .fabAtomic .. => .execFabAtomic | .layoutSwitch .. => .execLayoutSwitch | .layoutStatus .. => .execLayoutStatus
  | .collStatus .. => .execCollStatus | .ingestMrReg .. => .execIngestMrReg | .ingestMrClear .. => .execIngestMrClear
  | .ingestQpCreate .. => .execIngestQpCreate | .ingestQpModify .. => .execIngestQpModify
  | .ingestQpClear .. => .execIngestQpClear | .powerCapSet .. => .execPowerCapSet | .powerHallSet .. => .execPowerHallSet
  | .powerStatus .. => .execPowerStatus | .tallyRead .. => .execTallyRead | .tallyClear .. => .execTallyClear
  | .tallyMap .. => .execTallyMap | .alertConfig .. => .execAlertConfig | .alertAck .. => .execAlertAck
  | .valveSet .. => .execValveSet | .lcMark .. => .execLcMark | .lcMarkRead .. => .execLcMarkRead
  | .trapLogRead .. => .execTrapLogRead | .claimStatus .. => .execClaimStatus | .xchkConfig .. => .execXchkConfig
  | .xchkStatus .. => .execXchkStatus | .replayConfig .. => .execReplayConfig | .replayRead .. => .execReplayRead
  | .replayCheck .. => .execReplayCheck | .replayRun .. => .execReplayRun | .replicaSet .. => .execReplicaSet
  | .replicaClear .. => .execReplicaClear | .replicaStatus .. => .execReplicaStatus | .replicaResume .. => .execReplicaResume
  | .pairSet .. => .execPairSet | .pairClear .. => .execPairClear | .pairStatus .. => .execPairStatus
  | .faultLogRead .. => .execFaultLogRead | .postmortem .. => .execPostmortem | .selftest .. => .execSelftest
  | .marginHbm .. => .execMarginHbm | .marginLink .. => .execMarginLink | .traceConfig .. => .execTraceConfig
  | .traceArm .. => .execTraceArm | .traceRelease .. => .execTraceRelease | .traceStatus .. => .execTraceStatus
  | .jobSeedSet .. => .execJobSeedSet | .wkeyInstall .. => .execWkeyInstall | .wkeyClear .. => .execWkeyClear
  | .fwStage .. => .execFwStage | .fwCommit .. => .execFwCommit | .rootFactorSet .. => .execRootFactorSet
  | .rootFactorClear .. => .execRootFactorClear | .rootStatus .. => .execRootStatus | .rootReset .. => .execRootReset
  | .rootSelftest .. => .execRootSelftest | .solveImageSet .. => .execSolveImageSet | .solveImageClear .. => .execSolveImageClear
  | .solveStatus .. => .execSolveStatus | .taskPlace .. => .execTaskPlace | .taskComplete .. => .execTaskComplete
  | .stepStart .. => .execStepStart | .deadlockTimeout .. => .execDeadlockTimeout | .gateHeld .. => .execGateHeld
  | .syncInEdge .. => .execSyncInEdge | .holdExpire .. => .execHoldExpire | .admitMb .. => .execAdmitMb | .close .. => .execClose
  | .start .. => .execStart | .midtaskPreemptTimeout .. => .execMidtaskPreemptTimeout | .taskSave .. => .execTaskSave
  | .taskRestore .. => .execTaskRestore | .stallQuietPoint .. => .execStallQuietPoint | .bellSig .. => .execBellSig
  | .bellReg .. => .execBellReg | .bellMsg .. => .execBellMsg | .watchTimeout .. => .execWatchTimeout
  | .watchTableFree .. => .execWatchTableFree | .barrierRelease .. => .execBarrierRelease
  | .barrierReleaseAck .. => .execBarrierReleaseAck | .bellWindowWrite .. => .execBellWindowWrite
  | .tillCommandWrite .. => .execTillCommandWrite | .tillCommandStart .. => .execTillCommandStart
  | .tillUnitDone .. => .execTillUnitDone | .tillCommandDone .. => .execTillCommandDone | .tillPipeFail .. => .execTillPipeFail
  | .faultLimitExpire .. => .execFaultLimitExpire | .pinProbe .. => .execPinProbe
  | .moveTransferStart .. => .execMoveTransferStart | .moveTransferDone .. => .execMoveTransferDone
  | .unitRetire .. => .execUnitRetire | .read .. => .execRead | .write .. => .execWrite | .atomic .. => .execAtomic
  | .resp .. => .execResp | .remoteTimeout .. => .execRemoteTimeout | .epochAheadRetry .. => .execEpochAheadRetry
  | .linkFrame .. => .execLinkFrame | .linkNak .. => .execLinkNak | .linkAckTimeout .. => .execLinkAckTimeout
  | .creditUpdate .. => .execCreditUpdate | .headAgeTimeout .. => .execHeadAgeTimeout | .laneGroupLoss .. => .execLaneGroupLoss
  | .widthChangeDone .. => .execWidthChangeDone | .portSilenceTimeout .. => .execPortSilenceTimeout
  | .portFail .. => .execPortFail | .depart .. => .execDepart | .partnerProbeTimeout .. => .execPartnerProbeTimeout
  | .ringState .. => .execRingState | .lostPart .. => .execLostPart | .coll .. => .execColl | .collStart .. => .execCollStart
  | .collDone .. => .execCollDone | .collTimeout .. => .execCollTimeout | .layoutPrepare .. => .execLayoutPrepare
  | .layoutReady .. => .execLayoutReady | .layoutCommit .. => .execLayoutCommit | .layoutAbort .. => .execLayoutAbort
  | .layoutRefuse .. => .execLayoutRefuse | .layoutSwitchTimeout .. => .execLayoutSwitchTimeout
  | .weightPrepare .. => .execWeightPrepare | .weightReady .. => .execWeightReady | .weightCommit .. => .execWeightCommit
  | .weightAbort .. => .execWeightAbort | .weightSwitchTimeout .. => .execWeightSwitchTimeout
  | .shardFetchDone .. => .execShardFetchDone | .shardTimeout .. => .execShardTimeout | .crier .. => .execCrier
  | .loaded .. => .execLoaded | .loadMismatch .. => .execLoadMismatch | .ingestRdmaAccess .. => .execIngestRdmaAccess
  | .workRequestDone .. => .execWorkRequestDone | .cnp .. => .execCnp | .rateRecoveryTick .. => .execRateRecoveryTick
  | .rootTaskRun .. => .execRootTaskRun | .rootIterationBoundary .. => .execRootIterationBoundary
  | .rootPanelBoundary .. => .execRootPanelBoundary | .rootTaskDone .. => .execRootTaskDone
  | .solveTaskRun .. => .execSolveTaskRun | .solveIterationBoundary .. => .execSolveIterationBoundary
  | .solveReadiness .. => .execSolveReadiness | .solvePeerTimeout .. => .execSolvePeerTimeout | .solveDone .. => .execSolveDone
  | .granuleRecon .. => .execGranuleRecon | .poisonRead .. => .execPoisonRead | .pcFailed .. => .execPcFailed
  | .pcRebuildDone .. => .execPcRebuildDone | .rowRemap .. => .execRowRemap | .rowActivationLimit _ pc bank row => .execRowActivationLimit (pc := pc) (bank := bank) (row := row)
  | .scrubPass .. => .execScrubPass | .hbmTempRead .. => .execHbmTempRead | .phaseLoss .. => .execPhaseLoss
  | .railLoss .. => .execRailLoss | .vbusBelow44v .. => .execVbusBelow44v | .vbusAbove45v .. => .execVbusAbove45v
  | .vbusBelow42v .. => .execVbusBelow42v | .vbusAbove43v .. => .execVbusAbove43v | .vbusBelow40v .. => .execVbusBelow40v
  | .vbusAbove41v .. => .execVbusAbove41v | .vbusBelow38v .. => .execVbusBelow38v | .vbusBelow36v .. => .execVbusBelow36v
  | .vbusOvervoltage .. => .execVbusOvervoltage | .vbusDisconnect .. => .execVbusDisconnect | .vbusLockout .. => .execVbusLockout
  | .pwrEnRise .. => .execPwrEnRise | .pwrEnFall .. => .execPwrEnFall | .partReset .. => .execPartReset
  | .watchdogReset .. => .execWatchdogReset | .restart .. => .execRestart | .supplyCheckDone .. => .execSupplyCheckDone
  | .startupStepBound .. => .execStartupStepBound | .discoveryPartner .. => .execDiscoveryPartner
  | .discTimeout .. => .execDiscTimeout | .powerSample .. => .execPowerSample | .hallVoltageStep .. => .execHallVoltageStep
  | .hallPark .. => .execHallPark | .powerOvercapTimeout .. => .execPowerOvercapTimeout
  | .junctionReduction .. => .execJunctionReduction | .flowGate .. => .execFlowGate | .lowFlow .. => .execLowFlow
  | .flowLoss .. => .execFlowLoss | .inletHot .. => .execInletHot | .outletHot .. => .execOutletHot
  | .thermistorFault .. => .execThermistorFault | .junctionTrip .. => .execJunctionTrip | .capLift .. => .execCapLift
  | .lcRecalibrate .. => .execLcRecalibrate | .lcMarkPacket .. => .execLcMarkPacket | .smbAlertsWrite .. => .execSmbAlertsWrite
  | .smbCapWrite .. => .execSmbCapWrite | .smbTallyValueRead .. => .execSmbTallyValueRead
  | .smbAlertResponse .. => .execSmbAlertResponse | .smbRegWrite .. => .execSmbRegWrite | .stallUe .. => .execStallUe
  | .stallTimeout .. => .execStallTimeout | .aisleUe .. => .execAisleUe | .aisleTimeout .. => .execAisleTimeout
  | .hallUe .. => .execHallUe | .hallTimeout .. => .execHallTimeout | .ctxParity .. => .execCtxParity
  | .exchangeTable .. => .execExchangeTable | .exchTimeout .. => .execExchTimeout | .heartbeatSend .. => .execHeartbeatSend
  | .heartbeatLoss .. => .execHeartbeatLoss | .withdraw .. => .execWithdraw | .pairLossBroadcast .. => .execPairLossBroadcast
  | .trigInEdge .. => .execTrigInEdge | .powerOn .. => .execPowerOn | .partnerProbe .. => .execPartnerProbe
  | .snapshotCopyDone .. => .execSnapshotCopyDone | .perBankRefresh _ pc bank => .execPerBankRefresh (pc := pc) (bank := bank)
  | .creditUpdateTimer .. => .execCreditUpdateTimer

theorem State.keepsWf.step (s : State) : s.keepsWf (step s) := by
  unfold Machine.step
  split
  · exact .next fun h => h.idle
  · obtain ⟨u, hu, hw⟩ := State.keepsWf.exec _ _
    exact ⟨u, hu, hw⟩
end

/-- Settles O60: each store write is a byte write, a filter or a clear, and each of these keeps the canonical form. -/
theorem storesStayCanonical : Obligations.StoresStayCanonical := by
  intro s u h hs
  obtain ⟨v, hv, hw⟩ := State.keepsWf.step s
  cases hv.symm.trans hs
  exact hw h

/-- Settles O59: every branch of every command ends in a next state. -/
theorem everyStepGoesOn : Obligations.EveryStepGoesOn := fun s =>
  let ⟨u, hu, _⟩ := State.keepsWf.step s
  ⟨u, hu⟩

end Sys2Proof.Machine
end

section
/-! SUPPORT. A fact about conditionals that core Lean states for equal conditions only. The package builds on core Lean alone. -/

namespace Sys2Proof.Machine

/-- Two conditionals with equivalent conditions and equal branches. -/
theorem if_congr {α : Sort _} {b c : Prop} [Decidable b] [Decidable c] {x y u v : α} (hc : b ↔ c) (ht : x = u) (he : y = v) :
    (if b then x else y) = if c then u else v :=
  ite_congr (propext hc) (fun _ => ht) fun _ => he
end Sys2Proof.Machine
end

section
/-! SUPPORT. The queue and reset (R4, R376, R537, R638): on an empty queue each running hall counts one lc, the hub follows the
lowest running hall, and the reports of lendable halls are looked at again. -/

namespace Sys2Proof.Machine

/-- Settles O1: a step runs the first command on the rest of the queue. -/
theorem stepRunsTheFrontCommand : Obligations.StepRunsTheFrontCommand := by
  intro c rest s h
  rw [step, h]

/-- Settles O4: the stores are empty at reset. -/
theorem resetStoresCanonical : Obligations.ResetStoresCanonical := ⟨rfl, rfl, rfl⟩

/-! ### One lc -/

/-- One hall's share of a tick. -/
def State.tickHall (s : State) (h : Nat) : State :=
  if (s.hall h).lcRunning then s.setHall h { s.hall h with lc := (s.hall h).lc + 1 } else s

/-- A hall's record once a tick passed. -/
def HallInfo.ticked (i : HallInfo) : HallInfo := if i.lcRunning then { i with lc := i.lc + 1 } else i

section
variable (s : State)

theorem State.tickHall_frame (h : Nat) : s.tickHall h = { s with halls := (s.tickHall h).halls } := by
  unfold State.tickHall
  split <;> rfl

theorem State.tickHall_hall (h j : Nat) : (s.tickHall h).hall j = if j = h then (s.hall j).ticked else s.hall j := by
  unfold State.tickHall HallInfo.ticked
  by_cases hj : j = h
  · subst hj
    rw [if_pos rfl]
    split
    · exact State.setHall_hall s j _
    · rfl
  · rw [if_neg hj]
    split
    · exact State.setHall_hall_of_ne s _ hj
    · rfl

/-- The halls' part of a tick. -/
def State.tickHalls : State := (((s.tickHall 0).tickHall 1).tickHall 2).tickHall 3

theorem State.tickLc_eq : s.tickLc
    = { s.tickHalls with refLc := if s.tickHalls.clockHall.isSome then s.tickHalls.hubLc else s.tickHalls.refLc + 1 } := rfl

theorem State.tickHalls_frame : s.tickHalls = { s with halls := s.tickHalls.halls } := by
  have h1 := (s.tickHall 0).tickHall_frame 1
  have h2 := ((s.tickHall 0).tickHall 1).tickHall_frame 2
  have h3 := (((s.tickHall 0).tickHall 1).tickHall 2).tickHall_frame 3
  rw [s.tickHall_frame 0] at h1
  unfold State.tickHalls
  rw [h3, h2, s.tickHall_frame 0, h1]

theorem State.tickHalls_hall {h : Nat} (hh : h < 4) : s.tickHalls.hall h = (s.hall h).ticked := by
  unfold State.tickHalls
  rcases (by omega : h = 0 ∨ h = 1 ∨ h = 2 ∨ h = 3) with rfl | rfl | rfl | rfl <;> simp [State.tickHall_hall]

theorem HallInfo.ticked_fenced (i : HallInfo) : i.ticked.fenced = i.fenced := by
  unfold HallInfo.ticked
  split <;> rfl
theorem HallInfo.ticked_lcRunning (i : HallInfo) : i.ticked.lcRunning = i.lcRunning := by
  unfold HallInfo.ticked
  split <;> rfl

/-- A tick stops and fences no hall, so the hub follows the same one. -/
theorem State.tickHalls_clockHall : s.tickHalls.clockHall = s.clockHall := by
  simp only [State.clockHall, List.find?_cons, List.find?_nil, State.tickHalls_hall s (h := 0) (by decide),
    State.tickHalls_hall s (h := 1) (by decide), State.tickHalls_hall s (h := 2) (by decide),
    State.tickHalls_hall s (h := 3) (by decide), HallInfo.ticked_fenced, HallInfo.ticked_lcRunning]

/-- The clock hall is one of the four, and its counter runs. -/
theorem State.clockHall_runs {c : Nat} (h : s.clockHall = some c) : c < 4 ∧ (s.hall c).lcRunning = true := by
  have hmem := List.mem_of_find?_eq_some h
  have hrun := List.find?_some h
  simp only [List.mem_cons, List.not_mem_nil, or_false] at hmem
  simp only [Bool.and_eq_true] at hrun
  exact ⟨by omega, hrun.2⟩

theorem State.tickLc_refLc : s.tickLc.refLc = (s.clockHall.map fun c => s.hallLc c + 1).getD (s.refLc + 1) := by
  rw [State.tickLc_eq]
  dsimp only
  rw [State.hubLc, State.tickHalls_clockHall]
  cases hc : s.clockHall with
  | none =>
    rw [State.tickHalls_frame]
    rfl
  | some c =>
    obtain ⟨hlt, hrun⟩ := s.clockHall_runs hc
    simp [State.hallLc, State.tickHalls_hall s hlt, HallInfo.ticked, hrun]

/-! ### The reports of lendable halls -/

/-- One hall's report, looked at again. -/
def State.lendHall (h : Nat) : State := if s.bell.lendable.getLsbD h then s.updateLend h else s

/-- A hall's power record once its report is withdrawn or stands. -/
def HallPower.withdrawnIf (p : HallPower) (b : Bool) : HallPower :=
  if b && p.lent then { p with parked := false, lent := false, returning := true } else p

theorem State.setLendable_frame (h : Nat) (v : Bool) : s.setLendable h v
    = { s with bell := { s.bell with lendable := (s.setLendable h v).bell.lendable },
               power := { s.power with halls := (s.setLendable h v).power.halls } } := by
  unfold State.setLendable
  dsimp only
  split
  · split <;> rfl
  · rfl

theorem State.setLendable_lendable {h : Nat} (hh : h < 4) (v : Bool) (j : Nat) :
    (s.setLendable h v).bell.lendable.getLsbD j = if j = h then v else s.bell.lendable.getLsbD j := by
  have hflip : (s.setLendable h v).bell.lendable = if s.bell.lendable.getLsbD h != v then s.bell.lendable ^^^ ((1 : BitVec 4) <<< h)
      else s.bell.lendable := by
    unfold State.setLendable
    dsimp only
    by_cases hv : (s.bell.lendable.getLsbD h != v) = true
    · simp only [hh, hv, decide_true, Bool.and_self, if_true]
      split <;> rfl
    · simp [hv]
  rw [hflip]
  by_cases hv : s.bell.lendable.getLsbD h = v
  · rw [if_neg (by simp [hv])]
    grind
  · rw [if_pos (by simp [hv])]
    have hbit : ((1 : BitVec 4) <<< h).getLsbD j = decide (j = h) := by
      rw [BitVec.getLsbD_shiftLeft, BitVec.ofNat_eq_ofNat, BitVec.getLsbD_one]
      grind
    rw [BitVec.getLsbD_xor, hbit]
    grind

theorem State.setLendable_halls {h : Nat} (hh : h < 4) (v : Bool) (j : Nat) :
    (s.setLendable h v).power.halls.get {} j = if j = h then (s.power.halls.get {} j).withdrawnIf (s.bell.lendable.getLsbD h && !v)
      else s.power.halls.get {} j := by
  have hset : (s.setLendable h v).power.halls = if (s.bell.lendable.getLsbD h != v) && (!v && (s.power.halls.get {} h).lent) then
      s.power.halls.set {} h { s.power.halls.get {} h with parked := false, lent := false, returning := true } else s.power.halls := by
    unfold State.setLendable
    dsimp only
    by_cases hv : (s.bell.lendable.getLsbD h != v) = true
    · rw [if_pos (by rw [hv, decide_eq_true hh, Bool.and_self]), hv, Bool.true_and, apply_ite State.power, apply_ite Power.halls]
      rfl
    · rw [Bool.not_eq_true] at hv
      rw [hv, Bool.and_false, Bool.false_and, if_neg Bool.false_ne_true, if_neg Bool.false_ne_true]
  rw [hset]
  unfold HallPower.withdrawnIf
  by_cases hj : j = h
  · subst hj
    rw [if_pos rfl]
    cases v <;> cases hl : s.bell.lendable.getLsbD j <;> cases hp : (s.power.halls.get {} j).lent <;> simp
  · rw [if_neg hj]
    split
    · exact SMap.get_set_other _ _ _ hj
    · rfl

/-- What a hall reports does not depend on the reports. -/
theorem State.isLendable_setLendable (h j : Nat) (v : Bool) : (s.setLendable h v).isLendable j = s.isLendable j := by
  rw [State.setLendable_frame]
  rfl

theorem State.lendHall_frame (h : Nat) : s.lendHall h
    = { s with bell := { s.bell with lendable := (s.lendHall h).bell.lendable },
               power := { s.power with halls := (s.lendHall h).power.halls } } := by
  unfold State.lendHall
  split
  · exact s.setLendable_frame h _
  · rfl

theorem State.isLendable_lendHall (h j : Nat) : (s.lendHall h).isLendable j = s.isLendable j := by
  unfold State.lendHall
  split
  · exact s.isLendable_setLendable h j _
  · rfl

theorem State.lendHall_lendable {h : Nat} (hh : h < 4) (j : Nat) : (s.lendHall h).bell.lendable.getLsbD j
    = if j = h then s.bell.lendable.getLsbD j && s.isLendable j else s.bell.lendable.getLsbD j := by
  unfold State.lendHall
  by_cases hl : s.bell.lendable.getLsbD h = true
  · rw [if_pos hl, State.updateLend, State.setLendable_lendable s hh]
    grind
  · rw [if_neg hl]
    grind

theorem State.lendHall_halls {h : Nat} (hh : h < 4) (j : Nat) : (s.lendHall h).power.halls.get {} j
    = if j = h then (s.power.halls.get {} j).withdrawnIf (s.bell.lendable.getLsbD j && !(s.isLendable j))
      else s.power.halls.get {} j := by
  unfold State.lendHall
  by_cases hl : s.bell.lendable.getLsbD h = true
  · rw [if_pos hl, State.updateLend, State.setLendable_halls s hh]
    grind
  · rw [if_neg hl]
    by_cases hj : j = h
    · subst hj
      simp [hl, HallPower.withdrawnIf]
    · rw [if_neg hj]

/-- The four reports, looked at again. -/
def State.lendHalls : State := (((s.lendHall 0).lendHall 1).lendHall 2).lendHall 3

theorem State.idle_eq : s.idle = s.tickLc.lendHalls := rfl

theorem State.isLendable_lendHalls (j : Nat) : s.lendHalls.isLendable j = s.isLendable j := by
  simp only [State.lendHalls, State.isLendable_lendHall]

theorem State.lendHalls_frame : s.lendHalls
    = { s with bell := { s.bell with lendable := s.lendHalls.bell.lendable },
               power := { s.power with halls := s.lendHalls.power.halls } } := by
  have h1 := (s.lendHall 0).lendHall_frame 1
  have h2 := ((s.lendHall 0).lendHall 1).lendHall_frame 2
  have h3 := (((s.lendHall 0).lendHall 1).lendHall 2).lendHall_frame 3
  rw [s.lendHall_frame 0] at h1
  unfold State.lendHalls
  rw [h3, h2, s.lendHall_frame 0, h1]

theorem State.lendHalls_lendable {j : Nat} (hj : j < 4) :
    s.lendHalls.bell.lendable.getLsbD j = (s.bell.lendable.getLsbD j && s.isLendable j) := by
  unfold State.lendHalls
  rcases (by omega : j = 0 ∨ j = 1 ∨ j = 2 ∨ j = 3) with rfl | rfl | rfl | rfl <;> simp [-BitVec.getLsbD_eq_getElem, State.lendHall_lendable, State.isLendable_lendHall]

theorem State.lendHalls_halls {j : Nat} (hj : j < 4) : s.lendHalls.power.halls.get {} j
    = (s.power.halls.get {} j).withdrawnIf (s.bell.lendable.getLsbD j && !(s.isLendable j)) := by
  unfold State.lendHalls
  rcases (by omega : j = 0 ∨ j = 1 ∨ j = 2 ∨ j = 3) with rfl | rfl | rfl | rfl <;> simp [-BitVec.getLsbD_eq_getElem, State.lendHall_halls, State.lendHall_lendable, State.isLendable_lendHall]

theorem State.tickLc_frame : s.tickLc = { s with halls := s.tickLc.halls, refLc := s.tickLc.refLc } := by
  rw [State.tickLc_eq, State.tickHalls_frame]

theorem State.idle_frame : s.idle
    = { s with halls := s.idle.halls, refLc := s.idle.refLc, bell := { s.bell with lendable := s.idle.bell.lendable },
               power := { s.power with halls := s.idle.power.halls } } := by
  rw [State.idle_eq, State.lendHalls_frame, State.tickLc_frame]

theorem State.idle_tick : s.idle.refLc = s.tickLc.refLc ∧ s.idle.halls = s.tickLc.halls := by
  rw [State.idle_eq, State.lendHalls_frame]
  exact ⟨rfl, rfl⟩

theorem State.tickLc_hall {h : Nat} (hh : h < 4) : s.tickLc.hall h = (s.hall h).ticked := s.tickHalls_hall hh

theorem State.tickLc_reports : s.tickLc.bell = s.bell ∧ s.tickLc.power = s.power := by
  rw [State.tickLc_frame]
  exact ⟨rfl, rfl⟩
end

/-- Settles O2: a tick writes the halls' counts, and each report is a function of the state after it. -/
theorem emptyQueueTicks : Obligations.EmptyQueueTicks := by
  intro s h
  obtain ⟨href, hhalls⟩ := s.idle_tick
  obtain ⟨hbell, hpower⟩ := s.tickLc_reports
  refine ⟨s.idle, by rw [step, h], s.idle_frame, fun hc => ?_, fun c hc => ?_, fun j => ⟨?_, ?_, ?_⟩⟩
  · rw [href, State.tickLc_refLc, hc]
    rfl
  · rw [href, State.tickLc_refLc, hc]
    rfl
  · have hhall : s.idle.hall j.val = s.tickLc.hall j.val := by rw [State.hall, hhalls, ← State.hall]
    rw [hhall, s.tickLc_hall j.isLt]
    rfl
  · rw [State.idle_eq, State.lendHalls_lendable _ j.isLt, hbell, State.isLendable_lendHalls]
  · dsimp only
    rw [State.idle_eq, State.lendHalls_halls _ j.isLt, hbell, hpower, State.isLendable_lendHalls]
    rfl

/-- The offsets of Table 18.2 outside the MSI-X table. -/
def bar0Offsets : List Nat :=
  [0x0000, 0x0008, 0x0010, 0x0018, 0x0020, 0x0028, 0x0030, 0x0038, 0x0040, 0x0048, 0x0050, 0x0058, 0x0060, 0x0068, 0x0070, 0x0078,
    0x9000]

/-- The reset values of Table 18.2. -/
def bar0ResetValue (o : Nat) : W64 :=
  if o = 0x0000 then 0x01B10A35 else if o = 0x0020 then 4 else if o = 0x0040 then 6
    else if o = 0x0058 then 0x400100 else if o = 0x0078 then 0x10000 else 0

theorem bar0Read_reset_of_mem : ∀ o ∈ bar0Offsets, State.reset.bar0Read o = bar0ResetValue o := by decide

/-- An offset outside the tables reads 0. -/
theorem bar0Read_of_not_mem (s : State) {o : Nat} (hm : ¬(0x8000 ≤ o ∧ o < 0x8400)) (ho : o ∉ bar0Offsets) : s.bar0Read o = 0 := by
  simp only [bar0Offsets, List.mem_cons, List.not_mem_nil, or_false, not_or] at ho
  simp only [State.bar0Read, ho, hm, if_false]

theorem bar0ResetValue_of_not_mem {o : Nat} (ho : o ∉ bar0Offsets) : bar0ResetValue o = 0 := by
  simp only [bar0Offsets, List.mem_cons, List.not_mem_nil, or_false, not_or] at ho
  simp only [bar0ResetValue, ho, if_false]

/-- Settles O3: the reset state is the empty one, and each register reads its field. -/
theorem resetLeavesNoJobState : Obligations.ResetLeavesNoJobState := by
  refine ⟨fun i => rfl, fun n => ?_, fun g => rfl, fun k => rfl, rfl, rfl, rfl, rfl, fun o ho => ?_⟩
  · unfold State.tallyAt
    split
    · rfl
    · split <;> rfl
  · by_cases hmem : o ∈ bar0Offsets
    · exact bar0Read_reset_of_mem o hmem
    · rw [bar0Read_of_not_mem _ ho hmem]
      exact (bar0ResetValue_of_not_mem hmem).symm

end Sys2Proof.Machine
end

section
/-! SUPPORT. The scalar class (Table 3.4, R99, R115): each two-operand operation makes one check of its form and sets one
register; MOVI, MOVHI and RDSYS make theirs. -/

namespace Sys2Proof.Machine

section
variable {s : State} {t : ThreadRef} {f : ScalarF} {th : Thread}

/-! ### The two-operand operations -/

/-- Unused bits must be 0 in the register form (Table 3.3). -/
theorem scalarBad_eq_false_iff : scalarBad f = false ↔ (f.i = false → bits f.low 0 38 = 0) := by
  simp only [scalarBad]
  cases f.i <;> simp

theorem scalarOp_of_sound {code : BitVec 6} {op : W64 → W64 → W64} (h : s.issues t (scalarWord code f) th)
    (hf : f.i = false → bits f.low 0 38 = 0) :
    scalarOp code op t f s = .next (s.retire (tkey t) (th.setX f.xd (op (th.xr f.xa)
      (if f.i then f.low.signExtend 64 else th.xr (bits f.low 38 5))))) := by
  simp [scalarOp, issue_runs h, scalarBad_eq_false_iff.mpr hf, scalarB]

theorem scalarOp_of_bad {code : BitVec 6} {op : W64 → W64 → W64} (h : s.issues t (scalarWord code f) th)
    (hi : f.i = false) (hf : bits f.low 0 38 ≠ 0) :
    scalarOp code op t f s = .next (s.trap (tkey t) .illegal 0 (scalarWord code f)) := by
  have hbad : scalarBad f = true := by simpa [scalarBad, hi] using hf
  simp [scalarOp, issue_runs h, hbad]

/-- A shift's amount is B[5:0]. -/
theorem toNat_shift_amount (b : W64) : (bits b 0 6).toNat = b.toNat % 64 := by
  simp [bits]

/-! ### Results, as the table writes them -/

theorem add_eq_ofNat (a b : W64) : a + b = BitVec.ofNat 64 (a.toNat + b.toNat) := by
  apply BitVec.eq_of_toNat_eq
  simp

theorem sub_eq_ofInt (a b : W64) : a - b = BitVec.ofInt 64 (a.toInt - b.toInt) := by
  apply BitVec.eq_of_toInt_eq
  rw [BitVec.toInt_sub, BitVec.toInt_ofInt]

theorem mul_eq_ofNat (a b : W64) : a * b = BitVec.ofNat 64 (a.toNat * b.toNat) := by
  apply BitVec.eq_of_toNat_eq
  simp

theorem shl_eq_ofNat (a b : W64) : a <<< (bits b 0 6).toNat = BitVec.ofNat 64 (a.toNat * 2 ^ (b.toNat % 64)) := by
  apply BitVec.eq_of_toNat_eq
  rw [toNat_shift_amount, BitVec.toNat_shiftLeft, Nat.shiftLeft_eq, BitVec.toNat_ofNat]

theorem shr_eq_ofNat (a b : W64) : a >>> (bits b 0 6).toNat = BitVec.ofNat 64 (a.toNat / 2 ^ (b.toNat % 64)) := by
  apply BitVec.eq_of_toNat_eq
  rw [toNat_shift_amount, BitVec.toNat_ushiftRight, Nat.shiftRight_eq_div_pow, BitVec.toNat_ofNat]
  exact (Nat.mod_eq_of_lt (Nat.lt_of_le_of_lt (Nat.div_le_self _ _) a.isLt)).symm

theorem sar_eq_ofInt (a b : W64) :
    a.sshiftRight (bits b 0 6).toNat = BitVec.ofInt 64 (a.toInt / (2 ^ (b.toNat % 64) : Nat)) := by
  apply BitVec.eq_of_toInt_eq
  rw [toNat_shift_amount, BitVec.toInt_sshiftRight, BitVec.toInt_ofInt, Int.shiftRight_eq_div_pow]
  have hlo := BitVec.le_toInt a
  have hhi := BitVec.toInt_lt (x := a)
  have hpos : (0 : Int) < ((2 ^ (b.toNat % 64) : Nat) : Int) := Int.natCast_pos.mpr (Nat.two_pow_pos _)
  generalize ((2 ^ (b.toNat % 64) : Nat) : Int) = p at hpos ⊢
  refine (Int.bmod_eq_of_le ?_ ?_).symm
  · rw [Int.le_ediv_iff_mul_le hpos]
    omega
  · rw [Int.ediv_lt_iff_lt_mul hpos]
    omega

theorem min_eq_of_slt (a b : W64) : (if a.slt b then a else b) = if a.toInt ≤ b.toInt then a else b := by
  simp only [BitVec.slt, decide_eq_true_eq]
  by_cases h1 : a.toInt < b.toInt
  · rw [if_pos h1, if_pos (by omega)]
  · rw [if_neg h1]
    by_cases h2 : a.toInt ≤ b.toInt
    · rw [if_pos h2]
      exact (BitVec.eq_of_toInt_eq (by omega)).symm
    · rw [if_neg h2]

theorem max_eq_of_slt (a b : W64) : (if a.slt b then b else a) = if a.toInt ≤ b.toInt then b else a := by
  simp only [BitVec.slt, decide_eq_true_eq]
  by_cases h1 : a.toInt < b.toInt
  · rw [if_pos h1, if_pos (by omega)]
  · rw [if_neg h1]
    by_cases h2 : a.toInt ≤ b.toInt
    · rw [if_pos h2]
      exact BitVec.eq_of_toInt_eq (by omega)
    · rw [if_neg h2]
end

/-- Settles O5: each operation sets XD, and its result is the one of Table 3.4. -/
theorem scalarResults : Obligations.ScalarResults := by
  unfold Obligations.ScalarResults
  intro t f s th hf
  dsimp only
  refine ⟨fun h => ?_, fun h => ?_, fun h => ?_, fun h => ?_, fun h => ?_, fun h => ?_, fun h => ?_, fun h => ?_, fun h => ?_,
    fun h => ?_, fun h => ?_, fun h => ?_, fun h => ?_, fun h => ?_⟩
  · change execAdd t f s = _
    rw [execAdd, scalarOp_of_sound h hf, add_eq_ofNat]
  · change execSub t f s = _
    rw [execSub, scalarOp_of_sound h hf, sub_eq_ofInt]
  · change execMul t f s = _
    rw [execMul, scalarOp_of_sound h hf, mul_eq_ofNat]
  · change execMulhu t f s = _
    rw [execMulhu, scalarOp_of_sound h hf, mulHi]
  · change execAnd t f s = _
    rw [execAnd, scalarOp_of_sound h hf]
  · change execOr t f s = _
    rw [execOr, scalarOp_of_sound h hf]
  · change execXor t f s = _
    rw [execXor, scalarOp_of_sound h hf]
  · change execShl t f s = _
    rw [execShl, scalarOp_of_sound h hf, shl_eq_ofNat]
  · change execShr t f s = _
    rw [execShr, scalarOp_of_sound h hf, shr_eq_ofNat]
  · change execSar t f s = _
    rw [execSar, scalarOp_of_sound h hf, sar_eq_ofInt]
  · change execMin t f s = _
    rw [execMin, scalarOp_of_sound h hf, min_eq_of_slt]
  · change execMax t f s = _
    rw [execMax, scalarOp_of_sound h hf, max_eq_of_slt]
  · change execSlt t f s = _
    rw [execSlt, scalarOp_of_sound h hf]
    simp only [BitVec.slt, decide_eq_true_eq]
  · change execSltu t f s = _
    rw [execSltu, scalarOp_of_sound h hf]
    simp only [BitVec.ult, decide_eq_true_eq]

/-! ### MOVI, MOVHI and RDSYS -/

section
variable {s : State} {t : ThreadRef} {f : ScalarF} {th : Thread}

theorem exec_movi (h : s.issues t (scalarWord 0x0E f) th) :
    exec (.movi t f) s = .next (if f.i = true ∧ f.xa = 0 then s.retire (tkey t) (th.setX f.xd (f.low.signExtend 64))
      else s.trap (tkey t) .illegal 0 (scalarWord 0x0E f)) := by
  change execMovi t f s = _
  rw [execMovi, issue_runs h]
  congr 1
  by_cases hs : f.i = true ∧ f.xa = 0
  · rw [if_pos hs, if_neg (by grind), scalarImm]
  · rw [if_neg hs, if_pos (by grind)]

theorem bits_eq_zero_iff {n : Nat} (x : BitVec n) (lo w : Nat) : bits x lo w = 0 ↔ x.toNat / 2 ^ lo % 2 ^ w = 0 := by
  simp [bits, ← BitVec.toNat_inj, Nat.shiftRight_eq_div_pow]

/-- IMM[42:21] is 0 exactly when IMM is below 2^21. -/
theorem movhi_rest_eq_zero_iff (x : BitVec 43) : bits x 21 22 = 0 ↔ x.toNat < 2 ^ 21 := by
  have hx := x.isLt
  rw [bits_eq_zero_iff]
  omega

theorem exec_movhi (h : s.issues t (scalarWord 0x0F f) th) :
    exec (.movhi t f) s = .next (if (f.i = true ∧ f.xa = 0) ∧ f.low.toNat < 2 ^ 21 then
        s.retire (tkey t) (th.setX f.xd (bits f.low 0 21 ++ bits (th.xr f.xd) 0 43))
      else s.trap (tkey t) .illegal 0 (scalarWord 0x0F f)) := by
  change execMovhi t f s = _
  rw [execMovhi, issue_runs h]
  simp only [← movhi_rest_eq_zero_iff]
  congr 1
  by_cases hs : (f.i = true ∧ f.xa = 0) ∧ bits f.low 21 22 = 0
  · rw [if_pos hs, if_neg (by grind)]
  · rw [if_neg hs, if_pos (by grind)]

/-- MOVHI's value as a number: IMM[20:0] above XD[42:0]. -/
theorem movhi_value (x : BitVec 43) (y : W64) (hx : x.toNat < 2 ^ 21) :
    bits x 0 21 ++ bits y 0 43 = BitVec.ofNat 64 (x.toNat * 2 ^ 43 + y.toNat % 2 ^ 43) := by
  apply BitVec.eq_of_toNat_eq
  have hy : y.toNat % 2 ^ 43 < 2 ^ 43 := Nat.mod_lt _ (by decide)
  rw [BitVec.toNat_append, BitVec.toNat_ofNat]
  have hlow : (bits x 0 21).toNat = x.toNat := by simpa [bits] using hx
  have hkeep : (bits y 0 43).toNat = y.toNat % 2 ^ 43 := by simp [bits]
  rw [hlow, hkeep, ← Nat.shiftLeft_add_eq_or_of_lt hy, Nat.shiftLeft_eq]
  omega

/-- R102 reads C after a close. -/
theorem admittedNow_eq (g : Graph) : g.admittedNow = g.closeC.getD g.admitted := by
  cases h : g.closeC <;> simp [Graph.admittedNow, h]

theorem exec_rdsys (h : s.issues t (scalarWord 0x12 f) th) :
    exec (.rdsys t f) s = .next (match (if f.i = true ∧ f.xa = 0 then s.rdsys (tkey t) th (f.low.signExtend 64) else none) with
      | none => s.trap (tkey t) .illegal 0 (scalarWord 0x12 f)
      | some v => s.retire (tkey t) (th.setX f.xd v)) := by
  change execRdsys t f s = _
  rw [execRdsys, issue_runs h]
  congr 1
  by_cases hs : f.i = true ∧ f.xa = 0
  · rw [if_pos hs, if_neg (by grind), scalarImm] <;> rfl
  · rw [if_neg hs, if_pos (by grind)]

/-- A selector that is above 6 names no system value (R102). -/
theorem rdsys_eq_none {k : Nat} {x : BitVec 43} (hx : ¬ x.toNat ≤ 6) : s.rdsys k th (x.signExtend 64) = none := by
  have hbig : 6 < (x.signExtend 64).toNat := by
    have h1 := x.isLt
    rw [BitVec.toNat_signExtend]
    simp only [BitVec.toNat_setWidth]
    split <;> omega
  unfold State.rdsys
  dsimp only
  split <;> first | omega | rfl
end

/-- Settles O6: the three instructions check their form, then set XD. -/
theorem immediatesAndSystemValues : Obligations.ImmediatesAndSystemValues := by
  unfold Obligations.ImmediatesAndSystemValues
  intro t f s th gr
  dsimp only
  refine ⟨fun h => ⟨fun hs => ?_, fun hs => ?_⟩, fun h => ⟨fun hs hl => ?_, fun hs => ?_⟩, fun h hg => ⟨fun hs => ?_, fun hs => ?_⟩⟩
  · rw [exec_movi h, if_pos hs, BitVec.signExtend]
  · rw [exec_movi h, if_neg hs]
  · rw [exec_movhi h, if_pos ⟨hs, hl⟩, movhi_value _ _ hl]
  · rw [exec_movhi h, if_neg hs]
  · rw [exec_rdsys h, if_pos hs]
    refine ⟨fun hn => ?_, fun hn => ?_, fun hn => ?_, fun hn => ?_, fun hn => ?_, fun hn => ?_, fun hn => ?_⟩ <;>
      simp [hn, State.rdsys, hg, admittedNow_eq]
  · by_cases hsound : f.i = true ∧ f.xa = 0
    · rw [exec_rdsys h, if_pos hsound, rdsys_eq_none fun hle => hs ⟨hsound, hle⟩]
    · rw [exec_rdsys h, if_neg hsound]

end Sys2Proof.Machine
end

section
/-! SUPPORT. The control class (Tables 3.5 and 3.6, R103, R125): branches check their form and transfer or go on; END ends a
thread that holds no slot. -/

namespace Sys2Proof.Machine

section
variable {s : State} {t : ThreadRef} {f : ControlF} {th : Thread}

theorem condBranch_of_sound {code : BitVec 6} {c : W64 → W64 → Bool} (h : s.issues t (controlWord code f) th)
    (hl : f.link = false) (hx : f.xl = 0) (hr : f.rsv = 0) :
    condBranch code c t f s = .next (if c (th.xr f.xa) (th.xr f.xb) then s.retireTo (tkey t) th (branchTarget f th)
      else s.retire (tkey t) th) := by
  rw [condBranch, issue_runs h, if_neg (by grind)]

theorem condBranch_of_bad {code : BitVec 6} {c : W64 → W64 → Bool} (h : s.issues t (controlWord code f) th)
    (hbad : f.link = true ∨ f.xl ≠ 0 ∨ f.rsv ≠ 0) :
    condBranch code c t f s = .next (s.trap (tkey t) .illegal 0 (controlWord code f)) := by
  rw [condBranch, issue_runs h, if_pos (by grind)]

/-- PC + 8 × OFFS, as a number (Table 3.5). -/
theorem branchTarget_eq (f : ControlF) (th : Thread) : branchTarget f th = BitVec.ofInt 64 (th.pc.toNat + 8 * f.offs.toInt) := by
  have h8 : (8 : W64) = BitVec.ofInt 64 8 := rfl
  rw [branchTarget, BitVec.ofInt_add, BitVec.ofInt_mul, BitVec.ofInt_natCast, BitVec.ofNat_toNat, BitVec.setWidth_eq, h8,
    BitVec.signExtend]

/-- LINK writes PC + 8. -/
theorem linkTo_eq (f : ControlF) (th : Thread) :
    linkTo f th = if f.link then th.setX f.xl (BitVec.ofNat 64 (th.pc.toNat + 8)) else th := by
  have hpc : th.pc + 8 = BitVec.ofNat 64 (th.pc.toNat + 8) := add_eq_ofNat th.pc 8
  rw [linkTo, hpc]

theorem exec_br (h : s.issues t (controlWord 0x00 f) th) (ha : f.xa = 0) (hb : f.xb = 0) (hl : f.link = false → f.xl = 0)
    (hr : f.rsv = 0) : exec (.br t f) s = .next (s.retireTo (tkey t) (linkTo f th) (branchTarget f th)) := by
  change execBr t f s = _
  rw [execBr, issue_runs h, if_neg (by grind)]

/-- A sound JR goes to XA, which must be a multiple of 8 (R103). -/
theorem exec_jr (h : s.issues t (controlWord 0x08 f) th) (hb : f.xb = 0) (ho : f.offs = 0) (hl : f.link = false → f.xl = 0)
    (hr : f.rsv = 0) : exec (.jr t f) s = .next (if (th.xr f.xa).toNat % 8 ≠ 0 then
      s.trap (tkey t) .illegalTarget (th.xr f.xa) (controlWord 0x08 f) else s.retireTo (tkey t) (linkTo f th) (th.xr f.xa)) := by
  change execJr t f s = _
  rw [execJr, issue_runs h, if_neg (by grind)]

/-- OFFS[31:16] is 0 exactly when OFFS is below 65,536. -/
theorem trap_code_iff (x : BitVec 32) : bits x 16 16 = 0 ↔ x.toNat < 65536 := by
  have hx := x.isLt
  rw [bits_eq_zero_iff]
  omega

theorem trap_detail (x : BitVec 32) (hx : x.toNat < 65536) : x.setWidth 64 &&& 0xFFFF = BitVec.ofNat 64 x.toNat := by
  apply BitVec.eq_of_toNat_eq
  have hmask : (x.setWidth 64 &&& (0xFFFF : W64)).toNat = x.toNat % 2 ^ 16 := by
    rw [BitVec.toNat_and]
    have hf : (0xFFFF : W64).toNat = 2 ^ 16 - 1 := rfl
    rw [hf, Nat.and_two_pow_sub_one_eq_mod, BitVec.toNat_setWidth]
    omega
  rw [hmask, BitVec.toNat_ofNat]
  omega

theorem exec_trap (h : s.issues t (controlWord 0x0E f) th) (ha : f.xa = 0) (hb : f.xb = 0) (hx : f.xl = 0)
    (hl : f.link = false) (hr : f.rsv = 0) (ho : f.offs.toNat < 65536) :
    exec (.trap t f) s = .next (s.trap (tkey t) .software (BitVec.ofNat 64 f.offs.toNat) (controlWord 0x0E f)) := by
  have hcode := (trap_code_iff f.offs).mpr ho
  change execTrap t f s = _
  rw [execTrap, issue_runs h, if_neg (by grind), trap_detail _ ho]

/-- The thread of an END, which waits for what it still has under way. -/
def State.beginEnd (s : State) (k : Nat) (th : Thread) : State :=
  (s.setThread k (some { th with status := .ending, issued := s.clock })).tick

theorem exec_end (h : s.issues t (controlWord 0x0F f) th) (ha : f.xa = 0) (hb : f.xb = 0) (hx : f.xl = 0)
    (hl : f.link = false) (hr : f.rsv = 0) (ho : f.offs = 0) :
    exec (.endI t f) s = .next (match (s.stall (skey t.st)).slots.find? fun x => x.owner = tkey t with
      | some x => s.trap (tkey t) .slotState (BitVec.ofNat 64 x.idx) (controlWord 0x0F f)
      | none => (s.beginEnd (tkey t) th).tryEnd (tkey t)) := by
  change execEndI t f s = _
  rw [execEndI, issue_runs h, if_neg (by grind), stallOf_tkey] <;> rfl

/-- An ending thread leaves at once when nothing of it is under way, and waits otherwise (R125). -/
theorem thread_tryEnd {k : Nat} (he : s.thread k = some th) (hst : th.status = .ending) :
    (s.tryEnd k).thread k = if s.canEnd k th then none else some th := by
  rw [State.tryEnd, he]
  by_cases hc : s.canEnd k th = true
  · simp only [hst, hc, decide_true, Bool.and_self, if_true]
    split
    · rw [State.thread, State.modTask_threads]
      exact State.setThread_thread s k none
    · exact State.setThread_thread s k none
  · simp [hst, hc, he]

theorem thread_beginEnd (k : Nat) :
    (s.beginEnd k th).thread k = some { th with status := .ending, issued := s.clock } := by
  rw [State.beginEnd, State.thread, State.tick_threads]
  exact State.setThread_thread s k _

theorem thread_beginEnd_tryEnd (k : Nat) : ((s.beginEnd k th).tryEnd k).thread k
    = if s.canEnd k th then none else some { th with status := .ending, issued := s.clock } :=
  thread_tryEnd (thread_beginEnd k) rfl
end

/-- Settles O8: the branches, JR and TRAP follow their form; END frees the context when nothing of the thread is pending. -/
theorem controlTransfers : Obligations.ControlTransfers := by
  unfold Obligations.ControlTransfers
  refine ⟨fun t f s th hr => ?_, fun t f s th h hr hb ho hl h8 => ?_, fun t f s th ha hb hx hl hr => ⟨fun h ho => ?_, fun h ho hno => ?_, fun x h ho hx' => ?_⟩⟩
  · dsimp only
    rw [← linkTo_eq, ← branchTarget_eq]
    refine ⟨fun h ha hb hl => exec_br h ha hb hl hr, fun hl hx => ⟨fun h => ?_, fun h => ?_, fun h => ?_, fun h => ?_, fun h => ?_, fun h => ?_⟩,
      fun h hb ho hl h8 => ?_⟩
    · change execBeq t f s = _
      rw [execBeq, condBranch_of_sound h hl hx hr]
    · change execBne t f s = _
      rw [execBne, condBranch_of_sound h hl hx hr]
    · change execBlt t f s = _
      rw [execBlt, condBranch_of_sound h hl hx hr, BitVec.slt]
    · change execBge t f s = _
      rw [execBge, condBranch_of_sound h hl hx hr]
      simp [BitVec.slt]
    · change execBltu t f s = _
      rw [execBltu, condBranch_of_sound h hl hx hr, BitVec.ult]
    · change execBgeu t f s = _
      rw [execBgeu, condBranch_of_sound h hl hx hr]
      simp [BitVec.ult]
    · rw [exec_jr h hb ho hl hr, if_neg (by omega)]
  · rw [exec_jr h hb ho hl hr, if_pos h8]
  · exact exec_trap h ha hb hx hl hr ho
  · have hnone : ((s.stall (skey t.st)).slots.find? fun x => x.owner = tkey t) = none := by
      simpa [List.find?_eq_none] using hno
    refine ⟨_, exec_end h ha hb hx hl hr ho, ?_⟩
    rw [hnone]
    dsimp only
    rw [thread_beginEnd_tryEnd]
    split
    · rfl
    · rfl
  · rw [exec_end h ha hb hx hl hr ho, hx']

end Sys2Proof.Machine
end

section
/-! SUPPORT. The frame of the register-only instructions (R95 to R98, R115): each ends in a retirement or a transfer, and those
write one thread and the issue stamp. -/

namespace Sys2Proof.Machine

/-! ### The forms of a class -/

/-- The two-operand operations with their codes (Table 3.4). -/
def scalarForms (t : ThreadRef) (f : ScalarF) : List (BitVec 6 × Instr) :=
  [(0, .add t f), (1, .sub t f), (2, .mul t f), (3, .mulhu t f), (4, .and t f), (5, .or t f), (6, .xor t f), (7, .shl t f),
    (8, .shr t f), (9, .sar t f), (10, .min t f), (11, .max t f), (12, .slt t f), (13, .sltu t f)]

theorem exec_scalarForms (t : ThreadRef) (f : ScalarF) (s : State) :
    ∀ p ∈ scalarForms t f, ∃ op, exec p.2 s = scalarOp p.1 op t f s := by
  simp only [scalarForms, List.forall_mem_cons, List.not_mem_nil, false_implies, implies_true, and_true]
  exact ⟨⟨_, show execAdd t f s = _ from rfl⟩, ⟨_, show execSub t f s = _ from rfl⟩, ⟨_, show execMul t f s = _ from rfl⟩,
    ⟨_, show execMulhu t f s = _ from rfl⟩, ⟨_, show execAnd t f s = _ from rfl⟩, ⟨_, show execOr t f s = _ from rfl⟩,
    ⟨_, show execXor t f s = _ from rfl⟩, ⟨_, show execShl t f s = _ from rfl⟩, ⟨_, show execShr t f s = _ from rfl⟩,
    ⟨_, show execSar t f s = _ from rfl⟩, ⟨_, show execMin t f s = _ from rfl⟩, ⟨_, show execMax t f s = _ from rfl⟩,
    ⟨_, show execSlt t f s = _ from rfl⟩, ⟨_, show execSltu t f s = _ from rfl⟩⟩

/-- The conditional branches with their codes (Table 3.6). -/
def branchForms (t : ThreadRef) (f : ControlF) : List (BitVec 6 × Instr) :=
  [(1, .beq t f), (2, .bne t f), (3, .blt t f), (4, .bge t f), (5, .bltu t f), (6, .bgeu t f)]

theorem exec_branchForms (t : ThreadRef) (f : ControlF) (s : State) :
    ∀ p ∈ branchForms t f, ∃ c, exec p.2 s = condBranch p.1 c t f s := by
  simp only [branchForms, List.forall_mem_cons, List.not_mem_nil, false_implies, implies_true, and_true]
  exact ⟨⟨_, show execBeq t f s = _ from rfl⟩, ⟨_, show execBne t f s = _ from rfl⟩, ⟨_, show execBlt t f s = _ from rfl⟩,
    ⟨_, show execBge t f s = _ from rfl⟩, ⟨_, show execBltu t f s = _ from rfl⟩, ⟨_, show execBgeu t f s = _ from rfl⟩⟩

/-! ### The frame -/

/-- From `s` to `u` only thread `t` and the issue stamp change, and of the thread no register but `written`. -/
def RegisterFrame (s u : State) (t : ThreadRef) (th : Thread) (written : Option (BitVec 5)) : Prop :=
  u = { s with threads := u.threads, clock := u.clock } ∧ (∀ k, k ≠ tkey t → u.thread k = s.thread k)
    ∧ ∃ x, u.thread (tkey t) = some x ∧ x = { th with x := x.x, pc := x.pc, issued := x.issued, fetched := x.fetched }
      ∧ ∀ r, some r ≠ written → x.xr r = th.xr r

section
variable {s : State} {t : ThreadRef} {th y : Thread} {written : Option (BitVec 5)}

theorem xr_setX_of_ne {d r : BitVec 5} {v : W64} (h : some r ≠ some d) : (th.setX d v).xr r = th.xr r := by
  have hne : r.toNat ≠ d.toNat := fun he => h (congrArg some (BitVec.eq_of_toNat_eq he))
  exact SMap.get_set_other _ _ _ hne

theorem retireTo_thread (s : State) (k : Nat) (y : Thread) (pc : W64) :
    (s.retireTo k y pc).thread k = some { y with pc := pc, issued := s.clock, fetched := none } := by
  unfold State.retireTo State.thread
  simp only [State.tick_threads, State.setThread_threads]
  exact SMap.get_set_same none s.threads k _

theorem retireTo_thread_of_ne (s : State) (y : Thread) (pc : W64) {k j : Nat} (h : j ≠ k) :
    (s.retireTo k y pc).thread j = s.thread j := by
  unfold State.retireTo State.thread
  simp only [State.tick_threads, State.setThread_threads]
  exact SMap.get_set_other none s.threads _ h

/-- A transfer of a thread whose registers alone were written keeps the frame. -/
theorem registerFrame_retireTo {pc : W64} (hy : y = { th with x := y.x }) (hr : ∀ r, some r ≠ written → y.xr r = th.xr r) :
    RegisterFrame s (s.retireTo (tkey t) y pc) t th written := by
  refine ⟨rfl, fun k hk => retireTo_thread_of_ne s y pc hk, _, retireTo_thread s (tkey t) y pc, ?_, hr⟩
  rw [hy]

/-- So does a retirement, which goes to the next instruction. -/
theorem registerFrame_retire (hy : y = { th with x := y.x }) (hr : ∀ r, some r ≠ written → y.xr r = th.xr r) :
    RegisterFrame s (s.retire (tkey t) y) t th written :=
  registerFrame_retireTo (pc := y.pc + 8) hy hr

theorem registerFrame_setX {d : BitVec 5} {v : W64} : RegisterFrame s (s.retire (tkey t) (th.setX d v)) t th (some d) :=
  registerFrame_retire rfl fun _ h => xr_setX_of_ne h

theorem registerFrame_linkTo {f : ControlF} {pc : W64} :
    RegisterFrame s (s.retireTo (tkey t) (linkTo f th) pc) t th (if f.link then some f.xl else none) := by
  rw [linkTo]
  split
  · exact registerFrame_retireTo rfl fun _ h => xr_setX_of_ne h
  · exact registerFrame_retireTo rfl fun _ _ => rfl

/-- A selector up to 6 names a system value (R102). -/
theorem rdsys_isSome {k : Nat} {x : BitVec 43} (hx : x.toNat ≤ 6) : (s.rdsys k th (x.signExtend 64)).isSome = true := by
  have hval : (x.signExtend 64).toNat ≤ 6 := by
    have hmsb : x.msb = false := by
      rw [BitVec.msb_eq_decide]
      simp
      omega
    rw [BitVec.signExtend_eq_setWidth_of_msb_false hmsb, BitVec.toNat_setWidth]
    omega
  have hcases : ∀ n ≤ 6, n = 0 ∨ n = 1 ∨ n = 2 ∨ n = 3 ∨ n = 4 ∨ n = 5 ∨ n = 6 := by omega
  rcases hcases _ hval with hn | hn | hn | hn | hn | hn | hn <;> simp [State.rdsys, hn]
end

/-- Settles O57: every one of these instructions ends in a retirement or a transfer of its own thread. -/
theorem registerInstructionsFrame : Obligations.RegisterInstructionsFrame := by
  unfold Obligations.RegisterInstructionsFrame
  intro t f b s th
  refine ⟨fun hf p hp h => ?_, fun hi ha => ⟨fun h => ?_, fun h hl => ?_, fun h _ hl => ?_⟩, fun hr hl hx p hp h => ?_,
    fun hr hb hl => ⟨fun ha h => ?_, fun ho h8 h => ?_⟩⟩
  · obtain ⟨op, he⟩ := exec_scalarForms t f s p hp
    exact ⟨_, he.trans (scalarOp_of_sound h hf), registerFrame_setX⟩
  · exact ⟨_, (exec_movi h).trans (congrArg _ (if_pos ⟨hi, ha⟩)), registerFrame_setX⟩
  · exact ⟨_, (exec_movhi h).trans (congrArg _ (if_pos ⟨⟨hi, ha⟩, hl⟩)), registerFrame_setX⟩
  · obtain ⟨v, hv⟩ := Option.isSome_iff_exists.mp (rdsys_isSome (s := s) (th := th) (k := tkey t) hl)
    refine ⟨_, ?_, registerFrame_setX (v := v)⟩
    rw [exec_rdsys h, if_pos ⟨hi, ha⟩, hv]
  · obtain ⟨c, he⟩ := exec_branchForms t b s p hp
    refine ⟨_, he.trans (condBranch_of_sound h hl hx hr), ?_⟩
    split
    · exact registerFrame_retireTo rfl fun _ _ => rfl
    · exact registerFrame_retire rfl fun _ _ => rfl
  · exact ⟨_, exec_br h ha hb hl hr, registerFrame_linkTo⟩
  · exact ⟨_, (exec_jr h hb ho hl hr).trans (congrArg _ (if_neg (by omega))), registerFrame_linkTo⟩

end Sys2Proof.Machine
end

section
/-! SUPPORT. The frame of the packets fails while a trace is captured (R440, R452, R634): a READ with PLEN 0 is answered ADDRESS
with a fault record, and a trace of fault records (Table 23.3) writes that record to its buffer in memory. -/

namespace Sys2Proof.Machine

/-- A part that traces every event to its first unit of memory, and is reset otherwise. -/
def tracingPart : State :=
  { trace := { cfg := some { job := 0, va := 0, size := 262144, units := [], trig := 0, cls := 0, events := 0x3FF, post := 0 },
               armed := true } }

/-- A sound READ of no bytes, from part 0 to part 0. -/
def emptyRead : Pkt := { type := 0x01, ctrl := 0, dst := 0, src := 0, plen := 0 }

/-- The packet lands and passes its checks. -/
theorem tracingPart_takes : tracingPart.takes emptyRead 0x01 ((tracingPart.landed emptyRead).noteSeq 0 0) :=
  ⟨⟨rfl, by decide, rfl, by decide, rfl, by decide⟩, by decide, rfl⟩

/-- Its fault record reaches memory: four bytes of it are not 0. -/
theorem mem_read_tracingPart : (match exec (.read emptyRead) tracingPart with
    | .next v => v.mem.length
    | _ => 0) = 4 := by decide

/-- Refutes O58: a READ does store where the trace of its fault record goes. -/
theorem not_storesFrame : ¬ Obligations.StoresFrame := by
  unfold Obligations.StoresFrame
  intro h
  obtain ⟨-, -, hread⟩ := h.2 tracingPart ((tracingPart.landed emptyRead).noteSeq 0 0) emptyRead
  obtain ⟨v, hv, -, hmem⟩ := hread tracingPart_takes (by decide)
  have hlen := mem_read_tracingPart
  rw [hv] at hlen
  dsimp only at hlen
  rw [hmem] at hlen
  exact absurd hlen (by decide)

end Sys2Proof.Machine
end

section
/-! SUPPORT. The reply ring entry (R520, R525, R527). -/

namespace Sys2Proof.Machine

/-- A message counts, and is sent or stays pending while its vector is masked; nothing else changes (R528). -/
theorem irqEntry_eq (s : State) (kind : Nat) : ∃ l n q,
    s.irqEntry kind = { s with sent := l ++ s.sent, host := { s.host with irqCount := n, pba := q } } := by
  unfold State.irqEntry State.msix
  dsimp only
  split
  · split
    · exact ⟨[], _, _, rfl⟩
    · exact ⟨[.msix (s.host.vector kind)], _, _, rfl⟩
  · exact ⟨[], _, _, rfl⟩

/-- The entry a record of this kind takes in the ring, with its PHASE (R525). -/
def HostIf.ringEntry (h : HostIf) (kind : Nat) (body : List Byte) : Sent :=
  .replyEntry (h.rplTail.toNat % h.rplSize) (BitVec.ofNat 8 (kind + 128 * (1 - (h.rplTail.toNat / h.rplSize) % 2)) :: body)

/-- A written entry is sent and moves the tail; its message may follow. -/
theorem writeEntry_eq (s : State) (kind : Nat) (body : List Byte) : ∃ l n q,
    s.writeEntry kind body = { s with sent := l ++ s.host.ringEntry kind body :: s.sent,
                                       host := { s.host with rplTail := s.host.rplTail + 1, irqCount := n, pba := q } } := by
  obtain ⟨l, n, q, h⟩ := irqEntry_eq ((s.send (s.host.ringEntry kind body)).setHost { s.host with rplTail := s.host.rplTail + 1 }) kind
  exact ⟨l, n, q, h⟩

/-- A command leaves the records of those in hand. -/
def HostIf.without (h : HostIf) (c : Cmd) : HostIf :=
  { h with cmds := h.cmds.filter fun d => d.hdr.seq ≠ c.hdr.seq || d.fetched ≠ c.fetched }

/-- While the ring takes entries a reply is one, and its command leaves the records. -/
theorem reply_of_writes {s : State} {c : Cmd} (hl : c.lostReply = false) (hw : s.host.writes = true) (status : Byte)
    (results : List W64) : s.reply c status results = (s.setHost (s.host.without c)).writeEntry 1 (c.replyBytes status results) := by
  have hw' : (s.setHost (s.host.without c)).host.writes = true := hw
  unfold State.reply
  dsimp only
  rw [if_neg (by simp [hl])]
  exact if_pos hw'

/-- Settles O23: a reply is one ring entry, and the host interface changes by it alone. -/
theorem replyEntry : Obligations.ReplyEntry := by
  unfold Obligations.ReplyEntry
  intro s c status results hl hw
  dsimp only
  obtain ⟨l, n, q, hu⟩ := writeEntry_eq (s.setHost (s.host.without c)) 1 (c.replyBytes status results)
  rw [reply_of_writes hl hw, hu]
  refine ⟨⟨_, List.mem_append_right _ List.mem_cons_self, ?_⟩, rfl, fun d hd => ?_, rfl, rfl, rfl, rfl, rfl⟩
  · simp [HostIf.ringEntry, Cmd.replyBytes, HostIf.rplSize, HostIf.without]
  · simpa [HostIf.without] using (List.mem_filter.mp hd).2

end Sys2Proof.Machine
end

section
/-! SUPPORT. Fault ids of a start (R410): more candidates than pending faults, so one is free. -/

namespace Sys2Proof.Machine

/-- The ids XLT tries, from the next one on. -/
def Xlt.candidates (x : Xlt) : List Nat := (List.range (x.faults.length + 2)).map fun i => (x.nextFault + i) % 2 ^ 32

theorem Xlt.candidates_nodup (x : Xlt) (h : x.faults.length < 2 ^ 31) : x.candidates.Nodup := by
  refine List.pairwise_map.mpr (List.nodup_range.imp_of_mem fun {i j} hi hj hij => ?_)
  have hi' := List.mem_range.mp hi
  have hj' := List.mem_range.mp hj
  omega

/-- Each candidate that is taken is 0 or the id of a pending fault; there are two candidates more than faults. -/
theorem Xlt.exists_free (x : Xlt) (h : x.faults.length < 2 ^ 31) :
    ∃ i ∈ x.candidates, i ≠ 0 ∧ ∀ f ∈ x.faults, f.id ≠ i := by
  apply Classical.byContradiction
  intro hno
  have hsub : x.candidates ⊆ 0 :: x.faults.map (·.id) := by
    intro i hi
    apply Classical.byContradiction
    intro hout
    refine hno ⟨i, hi, fun h0 => hout (by simp [h0]), fun f hf hid => hout ?_⟩
    exact List.mem_cons_of_mem _ (List.mem_map.mpr ⟨f, hf, hid⟩)
  have hle := (x.candidates_nodup h).length_le_of_subset hsub
  simp [Xlt.candidates] at hle

theorem Xlt.freshFault_free (x : Xlt) (h : x.faults.length < 2 ^ 31) : x.freshFault ≠ 0 ∧ ∀ f ∈ x.faults, f.id ≠ x.freshFault := by
  obtain ⟨i, hi, h0, hfree⟩ := x.exists_free h
  unfold Xlt.freshFault
  dsimp only
  split
  next j hj =>
    have hgood := List.find?_some hj
    simpa using hgood
  next hnone =>
    have hbad := List.find?_eq_none.mp hnone i hi
    exact absurd (by simpa [h0] using hfree) hbad

/-- The record of a fault that no pending one governs. -/
def State.newFault (s : State) (xlt unit : Nat) (job : Byte) (kind va lo size : Nat) (source : W64) : PFault :=
  { id := s.xlt.freshFault, kind, unit, job, va, lo, size, source, xlt, raised := s.xltLc xlt }

/-- Settles O28: a governed fault joins; any other takes a free id. -/
theorem translationFaultIds : Obligations.TranslationFaultIds := by
  unfold Obligations.TranslationFaultIds
  intro s xlt unit job kind va lo size source hlen
  dsimp only
  refine ⟨fun f hf => ?_, fun hnone => ?_⟩
  · rw [State.raise, hf]
  · obtain ⟨h0, hfree⟩ := s.xlt.freshFault_free hlen
    rw [State.raise, hnone]
    dsimp only
    refine ⟨h0, hfree, ?_, s.newFault xlt unit job kind va lo size source, ?_, rfl, rfl, rfl, rfl, rfl, rfl⟩
    · rw [(sends_post ..).counts.frame.1]
      rfl
    · rw [(sends_post ..)]
      rfl

end Sys2Proof.Machine
end

section
/-! SUPPORT. The effective cap (R584) and replayed packets (R449). -/

namespace Sys2Proof.Machine

/-- The lower of two limits; the first where they are equal. -/
def lowerLimit (a b : Nat × Nat) : Nat × Nat := if b.1 < a.1 then b else a

theorem foldl_lowerLimit_le (l : List (Nat × Nat)) (a : Nat × Nat) :
    (l.foldl lowerLimit a).1 ≤ a.1 ∧ ∀ x ∈ l, (l.foldl lowerLimit a).1 ≤ x.1 := by
  induction l generalizing a with
  | nil => exact ⟨Nat.le_refl _, by simp⟩
  | cons b l ih =>
    obtain ⟨h1, h2⟩ := ih (lowerLimit a b)
    have hab : (lowerLimit a b).1 ≤ a.1 ∧ (lowerLimit a b).1 ≤ b.1 := by
      unfold lowerLimit
      split <;> omega
    refine ⟨Nat.le_trans h1 hab.1, fun x hx => ?_⟩
    rcases List.mem_cons.mp hx with rfl | hx
    · exact Nat.le_trans h1 hab.2
    · exact h2 x hx

theorem foldl_lowerLimit_mem (l : List (Nat × Nat)) (a : Nat × Nat) : l.foldl lowerLimit a = a ∨ l.foldl lowerLimit a ∈ l := by
  induction l generalizing a with
  | nil => exact .inl rfl
  | cons b l ih =>
    have hab : lowerLimit a b = a ∨ lowerLimit a b = b := by
      unfold lowerLimit
      split <;> simp
    rcases ih (lowerLimit a b) with h | h
    · rcases hab with ha | hb
      · exact .inl (h.trans ha)
      · exact .inr (List.mem_cons.mpr (.inl (h.trans hb)))
    · exact .inr (List.mem_cons_of_mem _ h)

theorem Power.cap_eq (p : Power) : p.cap = if p.inletCut > 0 then ((p.limits.foldl lowerLimit (p.hostCap, 0)).1 - p.inletCut, 3)
    else p.limits.foldl lowerLimit (p.hostCap, 0) := rfl

/-- Settles O50: the fold takes the lowest limit, and the inlet's cut only lowers it. -/
theorem capIsTheLowestLimit : Obligations.CapIsTheLowestLimit := by
  intro p
  obtain ⟨hhost, hall⟩ := foldl_lowerLimit_le p.limits (p.hostCap, 0)
  have hcap : p.cap.1 ≤ (p.limits.foldl lowerLimit (p.hostCap, 0)).1 := by
    rw [Power.cap_eq]
    split
    · exact Nat.sub_le _ _
    · exact Nat.le_refl _
  have hhostMem : (p.hostCap, 0) ∈ p.limits := by simp [Power.limits]
  have hsmbMem : (p.smbCap, 1) ∈ p.limits := by simp [Power.limits]
  refine ⟨fun l hl => Nat.le_trans hcap (hall l hl), fun hcut => ?_, Nat.le_trans hcap hhost, Nat.le_trans hcap (hall _ hsmbMem)⟩
  rw [Power.cap_eq, if_neg (by omega)]
  rcases foldl_lowerLimit_mem p.limits (p.hostCap, 0) with h | h
  · rw [h]
    exact hhostMem
  · exact h

/-! ### Replays -/

/-- From `s` to `u` only the links and what was sent change. -/
def State.Links (s u : State) : Prop := u = { s with fab := u.fab, sent := u.sent }

theorem State.Links.trans {s u v : State} (h : s.Links u) (k : u.Links v) : s.Links v := by
  unfold State.Links at *
  rw [k, h]

theorem links_setFab (s : State) (v : Fab) : s.Links (s.setFab v) := rfl
theorem links_send (s : State) (o : Sent) : s.Links (s.send o) := rfl

theorem links_foldl {α : Type} (l : List α) (f : State → α → State) (h : ∀ (s : State) (a : α), s.Links (f s a)) (s : State) :
    s.Links (l.foldl f s) := by
  induction l generalizing s with
  | nil => rfl
  | cons a l ih => exact (h s a).trans (ih _)

theorem links_returnCredits (s : State) (n : Nat) : s.Links (s.returnCredits n) := by
  unfold State.returnCredits
  refine (links_foldl _ _ (fun u k => ?_) s).trans (links_setFab ..)
  split
  · rfl
  · exact links_send ..

/-- Buffer space is all that a packet's arrival changes (R442). -/
theorem links_landed (s : State) (p : Pkt) : s.Links (s.landed p) := by
  unfold State.landed
  dsimp only
  split
  · rfl
  · split
    · exact (links_setFab ..).trans (links_returnCredits ..)
    · exact links_setFab ..

theorem links_portDrop (s : State) (p : Pkt) : s.Links (s.portDrop p) := by
  unfold State.portDrop
  dsimp only
  split
  · exact links_setFab ..
  · rfl

theorem State.landed_partNo (s : State) (p : Pkt) : (s.landed p).partNo = s.partNo := by rw [links_landed s p]

/-- From `s` to `u` memory, the Tills and Bell stay. -/
def State.KeepsApplied (s u : State) : Prop := u.mem = s.mem ∧ u.till = s.till ∧ u.bell = s.bell

theorem State.KeepsApplied.trans {s u v : State} (h : s.KeepsApplied u) (k : u.KeepsApplied v) : s.KeepsApplied v :=
  ⟨k.1.trans h.1, k.2.1.trans h.2.1, k.2.2.trans h.2.2⟩

theorem State.Links.keepsApplied {s u : State} (h : s.Links u) : s.KeepsApplied u := by
  rw [h]
  exact ⟨rfl, rfl, rfl⟩

theorem State.Counts.keepsApplied {s u : State} (h : s.Counts u) : s.KeepsApplied u := by
  rw [h]
  exact ⟨rfl, rfl, rfl⟩

/-- A sound replay of what was applied is counted and dropped, whatever its packet type would do (R449). -/
theorem landing_of_seen {s u : State} {p : Pkt} {ty : Byte} {k : State → State} (hr : pktReplay p = true)
    (hseen : (s.landed p).alreadySeen (p.src.toNat % 8192) p.seq = true) (hd : p.dst.toNat % 8192 = s.partNo)
    (hok : pktHeaderOk p = true) (hu : landing p ty s k = .next u) : s.KeepsApplied u := by
  unfold landing at hu
  split at hu
  · cases hu
    exact ⟨rfl, rfl, rfl⟩
  · split at hu
    · cases hu
      exact (links_setFab ..).keepsApplied
    · dsimp only at hu
      rw [if_neg (by simp [hok]), if_neg (by rw [s.landed_partNo p, hd]; simp), if_pos (by simp [hr, hseen])] at hu
      cases hu
      exact ((links_landed s p).trans (links_portDrop ..)).keepsApplied.trans (counts_count ..).keepsApplied

/-- Settles O41: a replay that was applied goes no further than the count of drops. -/
theorem replaysApplyOnce : Obligations.ReplaysApplyOnce := by
  unfold Obligations.ReplaysApplyOnce
  intro s u p hr hseen hd hok
  refine ⟨fun _ hu => ?_, fun _ hu => ?_⟩
  · change execWrite p s = _ at hu
    exact landing_of_seen hr hseen hd hok hu
  · change execAtomic p s = _ at hu
    obtain ⟨hmem, -, -⟩ := landing_of_seen hr hseen hd hok hu
    exact hmem

end Sys2Proof.Machine
end

section
/-! SUPPORT. The register moves (Table 3.11, R101, R109, R116): loads and stores of a register make the same checks for every
width, and differ in the register alone. -/

namespace Sys2Proof.Machine

theorem scratchOk_iff (a : W64) (n : Nat) : scratchOk a n = true ↔ a.toNat % n = 0 ∧ a.toNat + n ≤ 786432 := by
  simp only [scratchOk, Bool.and_eq_true, decide_eq_true_eq]

/-- A form whose unused fields are 0 is sound (R99). -/
theorem moveRegBad_eq_false {f : MoveRegF} {xa d src c m : Bool} (hr : f.rsv = 0) (hxa : xa = true ∨ f.xa = 0)
    (hd : d = true ∨ f.dreg = 0) (hsrc : src = true ∨ f.dsrc = 0) (hc : c = true ∨ f.creg = 0) (hm : m = true ∨ f.mreg = 0) :
    moveRegBad xa d src c m f = false := by
  grind [moveRegBad]

section
variable {s : State} {t : ThreadRef} {f : MoveRegF} {th : Thread} {op : BitVec 6} {bad : Bool} {n : Nat}

/-- The run of scratch that a move of `n` bytes touches. -/
def moveRun (f : MoveRegF) (th : Thread) (n : Nat) : Run := ⟨0, (th.xr f.xa).toNat, (th.xr f.xa).toNat + n⟩

/-- The move's lines are recorded for its task (R422). -/
def State.touchMove (s : State) (th : Thread) (f : MoveRegF) (n : Nat) : State :=
  s.touch th.graph th.task (th.xr f.xa).toNat ((th.xr f.xa).toNat + n - 1)

/-! ### Loads -/

section
variable {put : Thread → Nat → Thread} (h : s.issues t (moveRegWord op f) th)
include h

theorem moveLoad_of_bad : moveLoad op true n t f s put = .next (s.trap (tkey t) .illegal 0 (moveRegWord op f)) := by
  rw [moveLoad, issue_runs h]
  rfl

theorem moveLoad_traps (hb : bad = false) (hno : ¬ ((th.xr f.xa).toNat % n = 0 ∧ (th.xr f.xa).toNat + n ≤ 786432)) :
    moveLoad op bad n t f s put = .next (s.trap (tkey t) .scratchRange (th.xr f.xa) (moveRegWord op f)) := by
  rw [← scratchOk_iff, Bool.not_eq_true] at hno
  rw [moveLoad, issue_runs h, hb]
  simp only [hno, Bool.not_false, if_true, Bool.false_eq_true, if_false]

theorem moveLoad_goes (hb : bad = false) (hok : (th.xr f.xa).toNat % n = 0 ∧ (th.xr f.xa).toNat + n ≤ 786432) :
    moveLoad op bad n t f s put = .next (s.unlessHeld (tkey t) th [moveRun f th n] []
      ((s.touchMove th f n).retire (tkey t) (put th (ofLe (s.sread (skey t.st) 0 (th.xr f.xa).toNat n))))) := by
  rw [← scratchOk_iff] at hok
  rw [moveLoad, issue_runs h, hb]
  simp only [hok, Bool.not_true, Bool.false_eq_true, if_false, stallOf_tkey]
  rfl

theorem moveLoad_runs (hb : bad = false) (hok : (th.xr f.xa).toNat % n = 0 ∧ (th.xr f.xa).toNat + n ≤ 786432)
    (hfree : s.holdFor (tkey t) th [moveRun f th n] [] = none) : moveLoad op bad n t f s put
      = .next ((s.touchMove th f n).retire (tkey t) (put th (ofLe (s.sread (skey t.st) 0 (th.xr f.xa).toNat n)))) := by
  rw [moveLoad_goes h hb hok, State.unlessHeld_of_none _ hfree]

theorem moveLoad_waits (hb : bad = false) (hok : (th.xr f.xa).toNat % n = 0 ∧ (th.xr f.xa).toNat + n ≤ 786432) {why : HoldWhy}
    (hheld : s.holdFor (tkey t) th [moveRun f th n] [] = some why) : moveLoad op bad n t f s put = .next (s.hold (tkey t) th why) := by
  rw [moveLoad_goes h hb hok, State.unlessHeld_of_some _ hheld]
end

/-! ### Stores -/

/-- A stored register stands in scratch, and the thread has written there. -/
def State.storedMove (s : State) (t : ThreadRef) (th : Thread) (f : MoveRegF) (n v : Nat) : State :=
  ((s.touchMove th f n).swrite (skey t.st) 0 (th.xr f.xa).toNat (leBytes n v)).retire (tkey t) th.wroteScratch

section
variable {pre : Thread → State → Bad} {val : Thread → Nat} (h : s.issues t (moveRegWord op f) th)
include h

theorem moveStore_of_bad : moveStore op true n t f s pre val = .next (s.trap (tkey t) .illegal 0 (moveRegWord op f)) := by
  rw [moveStore, issue_runs h]
  rfl

/-- What a store reads is checked before its address (R639). -/
theorem moveStore_of_pre (hb : bad = false) {c : Cause} {d : W64} (hpre : pre th s = some (c, d)) :
    moveStore op bad n t f s pre val = .next (s.trap (tkey t) c d (moveRegWord op f)) := by
  rw [moveStore, issue_runs h, hb]
  simp only [hpre, Bool.false_eq_true, if_false]

theorem moveStore_traps (hb : bad = false) (hpre : pre th s = none)
    (hno : ¬ ((th.xr f.xa).toNat % n = 0 ∧ (th.xr f.xa).toNat + n ≤ 786432)) :
    moveStore op bad n t f s pre val = .next (s.trap (tkey t) .scratchRange (th.xr f.xa) (moveRegWord op f)) := by
  rw [← scratchOk_iff, Bool.not_eq_true] at hno
  rw [moveStore, issue_runs h, hb]
  simp only [hpre, hno, Bool.not_false, if_true, Bool.false_eq_true, if_false]

theorem moveStore_goes (hb : bad = false) (hpre : pre th s = none)
    (hok : (th.xr f.xa).toNat % n = 0 ∧ (th.xr f.xa).toNat + n ≤ 786432) : moveStore op bad n t f s pre val
      = .next (s.unlessHeld (tkey t) th [] [moveRun f th n] (s.storedMove t th f n (val th))) := by
  rw [← scratchOk_iff] at hok
  rw [moveStore, issue_runs h, hb]
  simp only [hpre, hok, Bool.not_true, Bool.false_eq_true, if_false, stallOf_tkey]
  rfl

theorem moveStore_runs (hb : bad = false) (hpre : pre th s = none)
    (hok : (th.xr f.xa).toNat % n = 0 ∧ (th.xr f.xa).toNat + n ≤ 786432)
    (hfree : s.holdFor (tkey t) th [] [moveRun f th n] = none) :
    moveStore op bad n t f s pre val = .next (s.storedMove t th f n (val th)) := by
  rw [moveStore_goes h hb hpre hok, State.unlessHeld_of_none _ hfree]

theorem moveStore_waits (hb : bad = false) (hpre : pre th s = none)
    (hok : (th.xr f.xa).toNat % n = 0 ∧ (th.xr f.xa).toNat + n ≤ 786432) {why : HoldWhy}
    (hheld : s.holdFor (tkey t) th [] [moveRun f th n] = some why) :
    moveStore op bad n t f s pre val = .next (s.hold (tkey t) th why) := by
  rw [moveStore_goes h hb hpre hok, State.unlessHeld_of_some _ hheld]
end

/-! ### DMOV -/

theorem exec_dmov (h : s.issues t (moveRegWord 0x08 f) th) (hb : moveRegBad false true true false false f = false) :
    exec (.dmov t f) s = .next (match s.readCheck th f.dsrc with
      | some (c, d) => s.trap (tkey t) c d (moveRegWord 0x08 f)
      | none => s.retire (tkey t) (th.setD f.dreg (th.dr f.dsrc))) := by
  change execDmov t f s = _
  rw [execDmov, issue_runs h]
  simp only [hb, Bool.false_eq_true, if_false] <;> rfl
end

/-! ### The six transfers -/

theorem exec_dld (t : ThreadRef) (f : MoveRegF) (s : State) : exec (.dld t f) s
    = moveLoad 0x09 (moveRegBad true true false false false f) 64 t f s fun th v => th.setD f.dreg (some (BitVec.ofNat 512 v)) := rfl
theorem exec_dst (t : ThreadRef) (f : MoveRegF) (s : State) : exec (.dst t f) s
    = moveStore 0x0A (moveRegBad true true false false false f) 64 t f s (fun th s => s.readCheck th f.dreg)
      fun th => ((th.dr f.dreg).getD 0).toNat := rfl
theorem exec_cld (t : ThreadRef) (f : MoveRegF) (s : State) : exec (.cld t f) s
    = moveLoad 0x0B (moveRegBad true false false true false f) 32 t f s fun th v =>
      { th with c := th.c.set 0 f.creg.toNat (BitVec.ofNat 256 v) } := rfl
theorem exec_cst (t : ThreadRef) (f : MoveRegF) (s : State) : exec (.cst t f) s
    = moveStore 0x0C (moveRegBad true false false true false f) 32 t f s (fun _ _ => none)
      fun th => (th.c.get 0 f.creg.toNat).toNat := rfl
theorem exec_mld (t : ThreadRef) (f : MoveRegF) (s : State) : exec (.mld t f) s
    = moveLoad 0x0D (moveRegBad true false false false true f) 16 t f s fun th v =>
      { th with m := th.m.set 0 f.mreg.toNat (BitVec.ofNat 128 v) } := rfl
theorem exec_mst (t : ThreadRef) (f : MoveRegF) (s : State) : exec (.mst t f) s
    = moveStore 0x0E (moveRegBad true false false false true f) 16 t f s (fun _ _ => none)
      fun th => (th.m.get 0 f.mreg.toNat).toNat := rfl

/-- Settles O12: each move makes the checks of its width, then loads or stores its register. -/
theorem registerMoves : Obligations.RegisterMoves := by
  unfold Obligations.RegisterMoves
  intro t f s th hr
  simp only [exec_dld, exec_dst, exec_cld, exec_cst, exec_mld, exec_mst]
  refine ⟨fun hxa hc hm h => ⟨fun w hw hpre => ?_, fun c d hpre => ?_⟩, fun hsrc hc hm h => ?_, fun hsrc hc hm h => ?_,
    fun hd hsrc hm h => ?_, fun hd hsrc hm h => ?_, fun hd hsrc hc h => ?_, fun hd hsrc hc h => ?_⟩
  · rw [exec_dmov h (moveRegBad_eq_false hr (.inr hxa) (.inl rfl) (.inl rfl) (.inr hc) (.inr hm)), hpre, hw]
  · rw [exec_dmov h (moveRegBad_eq_false hr (.inr hxa) (.inl rfl) (.inl rfl) (.inr hc) (.inr hm)), hpre]
  · have hb : moveRegBad true true false false false f = false := moveRegBad_eq_false hr (.inl rfl) (.inl rfl) (.inr hsrc) (.inr hc) (.inr hm)
    exact ⟨fun hf => moveLoad_runs h hb hf.1 hf.2, fun why hok hheld => moveLoad_waits h hb hok hheld, moveLoad_traps h hb⟩
  · have hb : moveRegBad true true false false false f = false := moveRegBad_eq_false hr (.inl rfl) (.inl rfl) (.inr hsrc) (.inr hc) (.inr hm)
    refine ⟨fun w hw hpre => ⟨fun hf => ?_, fun why hok hheld => moveStore_waits h hb hpre hok hheld, moveStore_traps h hb hpre⟩,
      fun c d hpre => moveStore_of_pre h hb hpre⟩
    refine (moveStore_runs h hb hpre hf.1 hf.2).trans ?_
    rw [hw]
    rfl
  · have hb : moveRegBad true false false true false f = false := moveRegBad_eq_false hr (.inl rfl) (.inr hd) (.inr hsrc) (.inl rfl) (.inr hm)
    exact ⟨fun hf => moveLoad_runs h hb hf.1 hf.2, fun why hok hheld => moveLoad_waits h hb hok hheld, moveLoad_traps h hb⟩
  · have hb : moveRegBad true false false true false f = false := moveRegBad_eq_false hr (.inl rfl) (.inr hd) (.inr hsrc) (.inl rfl) (.inr hm)
    exact ⟨fun hf => moveStore_runs h hb rfl hf.1 hf.2, fun why hok hheld => moveStore_waits h hb rfl hok hheld, moveStore_traps h hb rfl⟩
  · have hb : moveRegBad true false false false true f = false := moveRegBad_eq_false hr (.inl rfl) (.inr hd) (.inr hsrc) (.inr hc) (.inl rfl)
    exact ⟨fun hf => moveLoad_runs h hb hf.1 hf.2, fun why hok hheld => moveLoad_waits h hb hok hheld, moveLoad_traps h hb⟩
  · have hb : moveRegBad true false false false true f = false := moveRegBad_eq_false hr (.inl rfl) (.inr hd) (.inr hsrc) (.inr hc) (.inl rfl)
    exact ⟨fun hf => moveStore_runs h hb rfl hf.1 hf.2, fun why hok hheld => moveStore_waits h hb rfl hok hheld, moveStore_traps h hb rfl⟩

end Sys2Proof.Machine
end

section
/-! SUPPORT. Words and fields that are not listed (R99): a word outside Tables 3.4 to 3.14, and a field that its OP does not use,
trap with ILLEGAL. -/

namespace Sys2Proof.Machine

/-! ### Listed words -/

/-- What stands above the low `m` bits of a word. -/
theorem toNat_append_div {n m : Nat} (x : BitVec n) (y : BitVec m) : (x ++ y).toNat / 2 ^ m = x.toNat := by
  rw [BitVec.toNat_append, ← Nat.shiftRight_eq_div_pow, Nat.shiftRight_or_distrib, Nat.shiftLeft_shiftRight,
    Nat.shiftRight_eq_div_pow, Nat.div_eq_of_lt y.isLt, Nat.or_zero]

/-- CLASS and OP of a word, from its bits above the low 54. -/
theorem bits_class {w : W64} {c : Nat} (h : w.toNat / 2 ^ 54 = c) : (bits w 60 4).toNat = c / 2 ^ 6 := by
  have hw := w.isLt
  simp only [bits, BitVec.extractLsb'_toNat, Nat.shiftRight_eq_div_pow]
  omega

theorem bits_op {w : W64} {c : Nat} (h : w.toNat / 2 ^ 54 = c) : (bits w 54 6).toNat = c % 2 ^ 6 := by
  simp only [bits, BitVec.extractLsb'_toNat, Nat.shiftRight_eq_div_pow, h]

theorem scalarWord_zero_high (f : ScalarF) : (scalarWord 0 f).toNat / 2 ^ 54 = 0 := by
  have h1 : (scalarWord 0 f).toNat / 2 ^ 43 = _ := toNat_append_div _ f.low
  have h2 := toNat_append_div ((0 : BitVec 4) ++ (0 : BitVec 6) ++ f.xd ++ f.xa) (BitVec.ofBool f.i)
  have h3 := toNat_append_div ((0 : BitVec 4) ++ (0 : BitVec 6) ++ f.xd) f.xa
  have h4 := toNat_append_div ((0 : BitVec 4) ++ (0 : BitVec 6)) f.xd
  have h5 : ((0 : BitVec 4) ++ (0 : BitVec 6)).toNat = 0 := rfl
  omega

theorem syncWord_five_high (f : SyncF) : (syncWord 5 f).toNat / 2 ^ 54 = 5 * 2 ^ 6 + 5 := by
  have h1 : (syncWord 5 f).toNat / 2 ^ _ = _ := toNat_append_div _ f.rsv
  have h2 := toNat_append_div ((5 : BitVec 4) ++ (5 : BitVec 6) ++ f.xd ++ f.xa ++ f.xb ++ f.cmp ++ f.timeout) f.tokmask
  have h3 := toNat_append_div ((5 : BitVec 4) ++ (5 : BitVec 6) ++ f.xd ++ f.xa ++ f.xb ++ f.cmp) f.timeout
  have h4 := toNat_append_div ((5 : BitVec 4) ++ (5 : BitVec 6) ++ f.xd ++ f.xa ++ f.xb) f.cmp
  have h5 := toNat_append_div ((5 : BitVec 4) ++ (5 : BitVec 6) ++ f.xd ++ f.xa) f.xb
  have h6 := toNat_append_div ((5 : BitVec 4) ++ (5 : BitVec 6) ++ f.xd) f.xa
  have h7 := toNat_append_div ((5 : BitVec 4) ++ (5 : BitVec 6)) f.xd
  have h8 : ((5 : BitVec 4) ++ (5 : BitVec 6)).toNat = 5 * 2 ^ 6 + 5 := rfl
  omega

theorem wordListed_scalarWord_zero (f : ScalarF) : wordListed (scalarWord 0 f) = true := by
  simp only [wordListed, bits_class (scalarWord_zero_high f), bits_op (scalarWord_zero_high f)]
  rfl

theorem wordListed_syncWord_five (f : SyncF) : wordListed (syncWord 5 f) = true := by
  simp only [wordListed, bits_class (syncWord_five_high f), bits_op (syncWord_five_high f)]
  rfl

/-- A thread at an unlisted word traps when it issues, whichever instruction stands for the issue. -/
theorem issue_of_unlisted {s : State} {t : ThreadRef} {th : Thread} {w word : W64} {f : Nat → Thread → State → State}
    (hth : s.thread (tkey t) = some th) (hmay : s.mayIssue (tkey t) th = true) (hfetch : s.fetch th = .word w)
    (hw : wordListed w = false) (hword : wordListed word = true) : issue t word s f = .next (s.trap (tkey t) .illegal 0 w) := by
  have hne : w ≠ word := by
    rintro rfl
    exact absurd (hw.symm.trans hword) (by decide)
  rw [issue, hth]
  simp [hmay, hfetch, hne, hw]

/-! ### Fields that an OP does not use -/

section
variable {s : State} {t : ThreadRef} {th : Thread} {c : ControlF} {v : MoveRegF} {y : SyncF}

theorem exec_br_of_bad (hbad : c.xa ≠ 0 ∨ c.xb ≠ 0 ∨ c.link = false ∧ c.xl ≠ 0 ∨ c.rsv ≠ 0) (h : s.issues t (controlWord 0x00 c) th) :
    exec (.br t c) s = .next (s.trap (tkey t) .illegal 0 (controlWord 0x00 c)) := by
  change execBr t c s = _
  rw [execBr, issue_runs h, if_pos (by grind)]

theorem exec_jr_of_bad (hbad : c.xb ≠ 0 ∨ c.offs ≠ 0 ∨ c.link = false ∧ c.xl ≠ 0 ∨ c.rsv ≠ 0) (h : s.issues t (controlWord 0x08 c) th) :
    exec (.jr t c) s = .next (s.trap (tkey t) .illegal 0 (controlWord 0x08 c)) := by
  change execJr t c s = _
  rw [execJr, issue_runs h, if_pos (by grind)]

theorem exec_trap_of_bad (hbad : (c.xa ≠ 0 ∨ c.xb ≠ 0 ∨ c.xl ≠ 0 ∨ c.link = true ∨ c.rsv ≠ 0) ∨ 65536 ≤ c.offs.toNat)
    (h : s.issues t (controlWord 0x0E c) th) : exec (.trap t c) s = .next (s.trap (tkey t) .illegal 0 (controlWord 0x0E c)) := by
  have hcode := trap_code_iff c.offs
  change execTrap t c s = _
  rw [execTrap, issue_runs h, if_pos (by grind)]

theorem exec_end_of_bad (hbad : (c.xa ≠ 0 ∨ c.xb ≠ 0 ∨ c.xl ≠ 0 ∨ c.link = true ∨ c.rsv ≠ 0) ∨ c.offs ≠ 0)
    (h : s.issues t (controlWord 0x0F c) th) : exec (.endI t c) s = .next (s.trap (tkey t) .illegal 0 (controlWord 0x0F c)) := by
  change execEndI t c s = _
  rw [execEndI, issue_runs h, if_pos (by grind)]

theorem exec_dmov_of_bad (hbad : v.xa ≠ 0 ∨ v.creg ≠ 0 ∨ v.mreg ≠ 0 ∨ v.rsv ≠ 0) (h : s.issues t (moveRegWord 0x08 v) th) :
    exec (.dmov t v) s = .next (s.trap (tkey t) .illegal 0 (moveRegWord 0x08 v)) := by
  change execDmov t v s = _
  rw [execDmov, issue_runs h, if_pos (by grind [moveRegBad])]

/-- The fields of a sync OP that must be 0, as the claim counts them (Table 3.13). -/
theorem syncBad_eq_true {d a b k m : Bool} (hbad : (d = false ∧ y.xd ≠ 0) ∨ (a = false ∧ y.xa ≠ 0) ∨ (b = false ∧ y.xb ≠ 0)
    ∨ (k = false ∧ (y.cmp ≠ 0 ∨ y.timeout ≠ 0)) ∨ y.cmp = 3 ∨ (m = false ∧ y.tokmask ≠ 0) ∨ y.rsv ≠ 0) :
    syncBad d a b k k m y = true := by
  grind [syncBad]

theorem exec_sig_of_bad (hbad : syncBad false true true false false false y = true) (h : s.issues t (syncWord 0 y) th) :
    exec (.sig t y) s = .next (s.trap (tkey t) .illegal 0 (syncWord 0 y)) := by
  change execSig t y s = _
  simp only [execSig, issue_runs h, hbad, if_true]

theorem exec_wait_of_bad (hbad : syncBad true true true true true false y = true) (h : s.issues t (syncWord 1 y) th) :
    exec (.wait t y) s = .next (s.trap (tkey t) .illegal 0 (syncWord 1 y)) := by
  change execWait t y s = _
  simp only [execWait, issue_runs h, hbad, if_true]

theorem exec_barrier_of_bad (hbad : syncBad true true false false false false y = true) (h : s.issues t (syncWord 2 y) th) :
    exec (.barrier t y) s = .next (s.trap (tkey t) .illegal 0 (syncWord 2 y)) := by
  change execBarrier t y s = _
  simp only [execBarrier, issue_runs h, hbad, if_true]

theorem exec_waittok_of_bad (hbad : syncBad false false false false false true y = true ∨ y.tokmask = 0)
    (h : s.issues t (syncWord 3 y) th) : exec (.waittok t y) s = .next (s.trap (tkey t) .illegal 0 (syncWord 3 y)) := by
  change execWaittok t y s = _
  rw [execWaittok, issue_runs h, if_pos (by grind)]

theorem exec_fence_of_bad (hbad : syncBad false false false false false false y = true) (h : s.issues t (syncWord 4 y) th) :
    exec (.fence t y) s = .next (s.trap (tkey t) .illegal 0 (syncWord 4 y)) := by
  change execFence t y s = _
  rw [execFence, issue_runs h, if_pos hbad]

theorem exec_yield_of_bad (hbad : syncBad false false false false false false y = true) (h : s.issues t (syncWord 5 y) th) :
    exec (.yield t y) s = .next (s.trap (tkey t) .illegal 0 (syncWord 5 y)) := by
  change execYield t y s = _
  rw [execYield, issue_runs h, if_pos hbad]
end
end Sys2Proof.Machine
end

section
/-! SUPPORT. What a trap leaves (R123, R124). The operations that a trap reaches are of three kinds: most leave stalls, threads and
graphs alone; the layout epochs make waiting tasks ready; and the trap itself stops its task and ends its graph. -/

namespace Sys2Proof.Machine

/-! ### What leaves stalls, threads and graphs alone -/

/-- From `s` to `u` no stall, no thread and no graph changes. -/
def State.LeavesTasks (s u : State) : Prop := u.stalls = s.stalls ∧ u.threads = s.threads ∧ u.graphs = s.graphs

namespace State.LeavesTasks
variable {s u v : State}

theorem refl (s : State) : s.LeavesTasks s := ⟨rfl, rfl, rfl⟩

theorem trans (h : s.LeavesTasks u) (k : u.LeavesTasks v) : s.LeavesTasks v :=
  ⟨k.1.trans h.1, k.2.1.trans h.2.1, k.2.2.trans h.2.2⟩

theorem of_records (h : s.Records u) : s.LeavesTasks u := by
  rw [h]
  exact ⟨rfl, rfl, rfl⟩

theorem of_links (h : s.Links u) : s.LeavesTasks u := by
  rw [h]
  exact ⟨rfl, rfl, rfl⟩

theorem ite {c : Prop} [Decidable c] (h : s.LeavesTasks u) (k : s.LeavesTasks v) : s.LeavesTasks (if c then u else v) := by
  split
  · exact h
  · exact k

theorem foldl {α : Type} {f : State → α → State} (l : List α) (h : ∀ (s : State) (a : α), s.LeavesTasks (f s a)) (s : State) :
    s.LeavesTasks (l.foldl f s) := by
  induction l generalizing s with
  | nil => exact refl s
  | cons a l ih => exact (h s a).trans (ih _)
end State.LeavesTasks

section
variable (s : State)

theorem leavesTasks_setFab (v : Fab) : s.LeavesTasks (s.setFab v) := ⟨rfl, rfl, rfl⟩
theorem leavesTasks_setBell (v : Bell) : s.LeavesTasks (s.setBell v) := ⟨rfl, rfl, rfl⟩
theorem leavesTasks_setXlt (v : Xlt) : s.LeavesTasks (s.setXlt v) := ⟨rfl, rfl, rfl⟩
theorem leavesTasks_setLayouts (v : Layouts) : s.LeavesTasks (s.setLayouts v) := ⟨rfl, rfl, rfl⟩
theorem leavesTasks_send (o : Sent) : s.LeavesTasks (s.send o) := ⟨rfl, rfl, rfl⟩
theorem leavesTasks_poke (off : Nat) (bs : List Byte) : s.LeavesTasks (s.poke off bs) := ⟨rfl, rfl, rfl⟩

theorem links_sendFrom (n i : Nat) : s.Links (s.sendFrom n i) := by
  unfold State.sendFrom
  dsimp only
  split
  · rfl
  · exact (links_setFab ..).trans (links_send ..)

theorem links_pumpPort (n fuel : Nat) : s.Links (pumpPort n fuel s) := by
  induction fuel generalizing s with
  | zero => rfl
  | succ fuel ih =>
    rw [pumpPort]
    split
    · rfl
    · split
      · exact (links_sendFrom s ..).trans (ih _)
      · rfl

theorem links_enqueue (input : Nat) (p : Pkt) (n : Nat) (other : Bool) : s.Links (s.enqueue input p n other) :=
  (links_setFab ..).trans (links_pumpPort ..)

theorem links_turnAway (p : Pkt) (st : Byte) : s.Links (s.turnAway p st) := by
  unfold State.turnAway
  dsimp only
  split
  · exact links_setFab ..
  · split
    · split
      · exact (links_setFab ..).trans (links_enqueue ..)
      · rfl
    · rfl

/-- A packet that is sent, queued or turned away reaches the links, and with no route the fault log (R448). -/
theorem leavesTasks_transmit (input : Nat) (p : Pkt) : s.LeavesTasks (s.transmit input p) := by
  unfold State.transmit
  dsimp only
  split
  · exact .of_links (links_turnAway ..)
  · split
    · exact (State.LeavesTasks.of_records (records_partFault ..)).trans (.of_links (links_turnAway ..))
    · exact .of_links (links_enqueue ..)

theorem leavesTasks_unregister (part : Nat) (i : W16) (w : Waiter) (id : Nat) : s.LeavesTasks (s.unregister part i w id) :=
  .ite (.refl s) ((leavesTasks_setFab ..).trans (leavesTasks_transmit ..))

theorem leavesTasks_dropWatches (p : Waiter → Bool) : s.LeavesTasks (s.dropWatches p) := leavesTasks_setBell ..

theorem leavesTasks_dropWait (k : Nat) (th : Thread) : s.LeavesTasks (s.dropWait k th) := by
  unfold State.dropWait
  dsimp only
  split
  · exact (leavesTasks_dropWatches ..).trans (leavesTasks_unregister ..)
  · exact (leavesTasks_dropWatches ..).trans (leavesTasks_unregister ..)
  · exact leavesTasks_dropWatches ..

theorem leavesTasks_dropGate (g t : Nat) : s.LeavesTasks (s.dropGate g t) := by
  unfold State.dropGate
  split
  · exact (leavesTasks_dropWatches ..).trans (.ite (leavesTasks_unregister ..) (.refl _))
  · exact .refl s

theorem leavesTasks_orphan (keys : List Nat) : s.LeavesTasks (s.orphan keys) := ⟨rfl, rfl, rfl⟩

theorem leavesTasks_replies (l : List Cmd) (st : Byte) (rs : List W64) :
    s.LeavesTasks (l.foldl (fun s c => s.reply c st rs) s) :=
  .of_records (sends_foldl _ _ (fun s c => sends_reply s c st rs) s).records

theorem leavesTasks_finishAllocFrees : s.LeavesTasks s.finishAllocFrees := leavesTasks_replies ..
theorem leavesTasks_finishInvalidates : s.LeavesTasks s.finishInvalidates := leavesTasks_replies ..
theorem leavesTasks_replyWaiting (w : CmdWait) (st : Byte) (rs : List W64) : s.LeavesTasks (s.replyWaiting w st rs) :=
  leavesTasks_replies ..

theorem leavesTasks_unpin (p : Pin → Bool) : s.LeavesTasks (s.unpin p) :=
  (leavesTasks_setXlt ..).trans (leavesTasks_finishInvalidates _)

theorem leavesTasks_abortCapture (g : Nat) : s.LeavesTasks (s.abortCapture g) := by
  refine .foldl _ (fun s c => ?_) s
  split
  · exact .ite ⟨rfl, rfl, rfl⟩ (.refl s)
  · exact .refl s

theorem leavesTasks_endReplay (g : Nat) (c : EndCause) : s.LeavesTasks (s.endReplay g c) := by
  unfold State.endReplay
  split
  · exact .refl s
  · refine State.LeavesTasks.trans ?_ (leavesTasks_replyWaiting ..)
    exact ⟨rfl, rfl, rfl⟩

theorem leavesTasks_graphEvent (g e : Nat) (st : Byte) (a : W64) : s.LeavesTasks (s.graphEvent g e st a) := by
  unfold State.graphEvent
  split
  · exact .refl s
  · exact .of_records (sends_post ..).records

theorem leavesTasks_graphGone (job : Byte) : s.LeavesTasks (s.graphGone job) := by
  unfold State.graphGone
  split
  · exact .ite ⟨rfl, rfl, rfl⟩ ⟨rfl, rfl, rfl⟩
  · exact ⟨rfl, rfl, rfl⟩
end

/-! ### What keeps a stopped task stopped -/

/-- From `s` to `u` no stall and no thread changes, no graph loses its cause, and an aborted task stays aborted. -/
def State.KeepsStopped (s u : State) : Prop := u.stalls = s.stalls ∧ u.threads = s.threads
  ∧ (∀ g, (u.graph g).map (·.cause) = (s.graph g).map (·.cause))
  ∧ ∀ g t, (s.task g t).map (·.st) = some .aborted → (u.task g t).map (·.st) = some .aborted

namespace State.KeepsStopped
variable {s u v : State}

theorem of_leaves (h : s.LeavesTasks u) : s.KeepsStopped u := by
  obtain ⟨hst, hth, hg⟩ := h
  refine ⟨hst, hth, fun g => ?_, fun g t ht => ?_⟩
  · rw [State.graph, hg, ← State.graph]
  · rwa [State.task, State.graph, hg]

theorem trans (h : s.KeepsStopped u) (k : u.KeepsStopped v) : s.KeepsStopped v :=
  ⟨k.1.trans h.1, k.2.1.trans h.2.1, fun g => (k.2.2.1 g).trans (h.2.2.1 g), fun g t ht => k.2.2.2 g t (h.2.2.2 g t ht)⟩

theorem ite {c : Prop} [Decidable c] (h : s.KeepsStopped u) (k : s.KeepsStopped v) : s.KeepsStopped (if c then u else v) := by
  split
  · exact h
  · exact k

theorem foldl {α : Type} {f : State → α → State} (l : List α) (h : ∀ (s : State) (a : α), s.KeepsStopped (f s a)) (s : State) :
    s.KeepsStopped (l.foldl f s) := by
  induction l generalizing s with
  | nil => exact of_leaves (.refl s)
  | cons a l ih => exact (h s a).trans (ih _)

/-- A graph whose tasks are mapped by what keeps an aborted one, and whose cause stays. -/
theorem setGraph {g : Nat} {gr gr' : Graph} {f : TaskSt → TaskSt} (hg : s.graph g = some gr) (hc : gr'.cause = gr.cause)
    (ht : gr'.tasks = gr.tasks.map f) (hf : ∀ t, t.st = .aborted → (f t).st = .aborted) : s.KeepsStopped (s.setGraph g (some gr')) := by
  refine ⟨rfl, rfl, fun g' => ?_, fun g' t hab => ?_⟩
  · by_cases hgg : g' = g
    · subst hgg
      rw [State.setGraph_graph, hg]
      simp [hc]
    · rw [State.setGraph_graph_of_ne _ _ hgg]
  · by_cases hgg : g' = g
    · subst hgg
      rw [State.task, State.setGraph_graph]
      rw [State.task, hg] at hab
      simp only [Option.bind_some, ht, List.getElem?_map, Option.map_map, Option.map_eq_some_iff] at hab ⊢
      obtain ⟨a, ha, hst⟩ := hab
      exact ⟨a, ha, hf a hst⟩
    · rw [State.task, State.setGraph_graph_of_ne _ _ hgg, ← State.task]
      exact hab
end State.KeepsStopped

section
variable (s : State)

/-- A committed layout epoch makes tasks that waited for it ready, no other (R483). -/
theorem keepsStopped_commitLayout (job : Byte) (e : W16) : s.KeepsStopped (s.commitLayout job e) := by
  refine State.KeepsStopped.trans (.of_leaves ⟨rfl, rfl, rfl⟩) (.foldl _ (fun s g => ?_) _)
  split
  next gr hg =>
    split
    · refine .setGraph hg rfl rfl fun t ht => ?_
      rw [if_neg (by simp [ht])]
      exact ht
    · exact .of_leaves (.refl s)
  · exact .of_leaves (.refl s)

theorem keepsStopped_layoutReadyFrom (job : Byte) (part : Nat) : s.KeepsStopped (s.layoutReadyFrom job part) := by
  unfold State.layoutReadyFrom
  split
  · exact .of_leaves (.refl s)
  · extract_lets c'
    refine .ite ?_ ?_
    · refine .trans ?_ (.of_leaves (leavesTasks_replyWaiting ..))
      refine .trans (.of_leaves ?_) (keepsStopped_commitLayout ..)
      exact (leavesTasks_setLayouts s _).trans (leavesTasks_send ..)
    · exact .of_leaves (leavesTasks_setLayouts s _)

theorem keepsStopped_checkLayouts : s.KeepsStopped s.checkLayouts := by
  refine .foldl _ (fun s p => ?_) s
  dsimp only
  split
  · exact (State.KeepsStopped.of_leaves (leavesTasks_setLayouts ..)).trans (keepsStopped_layoutReadyFrom ..)
  · exact .of_leaves ((leavesTasks_setLayouts ..).trans (leavesTasks_send ..))
end

/-! ### Ending a graph that has its cause -/

section
variable {s : State} {g : Nat} {gr : Graph} {c : EndCause}

theorem keepsStopped_endGraph (hg : s.graph g = some gr) (hc : gr.cause = some c) : s.KeepsStopped (s.endGraph g c) := by
  unfold State.endGraph
  rw [hg]
  dsimp only
  refine .trans ?_ (.of_leaves (leavesTasks_replyWaiting ..))
  refine .trans ?_ (keepsStopped_checkLayouts _)
  refine .trans ?_ (.of_leaves ((leavesTasks_graphEvent ..).trans (leavesTasks_graphGone ..)))
  refine .trans ?_ (.of_leaves ((leavesTasks_abortCapture ..).trans (leavesTasks_endReplay ..)))
  refine .trans ?_ (.of_leaves (leavesTasks_unpin ..))
  refine State.KeepsStopped.trans ?_ (.of_leaves ⟨rfl, rfl, rfl⟩)
  refine .trans ?_ (.of_leaves ((State.LeavesTasks.foldl _ (fun s t => leavesTasks_dropGate s g t) _).trans
    (leavesTasks_finishAllocFrees _)))
  exact .setGraph hg hc.symm rfl fun _ h => h

theorem keepsStopped_settle (hg : s.graph g = some gr) (hc : gr.cause = some c) : s.KeepsStopped (s.settle g) := by
  unfold State.settle
  rw [hg]
  dsimp only
  rw [hc]
  exact .ite (keepsStopped_endGraph hg hc) (.of_leaves (.refl s))
end

/-! ### The task stops -/

/-- A thread as a trap leaves it: stopped, with accepted moves still under way and no other (R123). -/
def Thread.Stopped (x : Thread) : Prop := x.status = .stopped ∧ ∀ m ∈ x.moves, m.finished = false ∧ m.fault = none

theorem SMap.mem_of_get_some {α : Type} {m : SMap (Option α)} {k : Nat} {x : α} (h : SMap.get none m k = some x) : (k, some x) ∈ m := by
  induction m with
  | nil => cases h
  | cons p m ih =>
    obtain ⟨a, v⟩ := p
    rw [SMap.get] at h
    split at h
    next hk =>
      subst hk
      rw [h]
      exact List.mem_cons_self
    · exact List.mem_cons_of_mem _ (ih h)

theorem mem_taskThreads {s : State} {g t k : Nat} {x : Thread} (hk : s.thread k = some x) (hg : x.graph = g) (ht : x.task = t) :
    (k, x) ∈ s.taskThreads g t := by
  refine List.mem_filterMap.mpr ⟨(k, some x), SMap.mem_of_get_some hk, ?_⟩
  simp [hg, ht]

section
variable (s : State)

theorem SMap.get_filter_some {α : Type} {m : SMap (Option α)} {keys : List Nat} {k : Nat} {x : α}
    (h : SMap.get none (m.filter fun p => !(keys.contains p.1)) k = some x) : SMap.get none m k = some x ∧ k ∉ keys := by
  induction m with
  | nil => cases h
  | cons p m ih =>
    obtain ⟨a, v⟩ := p
    rw [SMap.get]
    by_cases hkey : a ∈ keys
    · rw [List.filter_cons_of_neg (by simpa using hkey)] at h
      obtain ⟨h1, h2⟩ := ih h
      rw [if_neg (by rintro rfl; exact h2 hkey)]
      exact ⟨h1, h2⟩
    · rw [List.filter_cons_of_pos (by simpa using hkey), SMap.get] at h
      by_cases hk : a = k
      · rw [if_pos hk] at h ⊢
        subst hk
        exact ⟨h, hkey⟩
      · rw [if_neg hk] at h ⊢
        exact ih h

theorem freeContextsOf_thread {l : List (Nat × Thread)} {k : Nat} {x : Thread} (h : (s.freeContextsOf l).thread k = some x) :
    s.thread k = some x ∧ k ∉ l.map (·.1) := by
  obtain ⟨h1, h2⟩ := SMap.get_filter_some h
  have hdrop := State.LeavesTasks.foldl l (fun (s : State) (p : Nat × Thread) => leavesTasks_dropWait s p.1 p.2) s
  rw [hdrop.2.1] at h1
  exact ⟨h1, h2⟩

/-- The owners of requests and of what waits for a Till are as before; a request's answer may be given. -/
def State.KeepsOwners (s u : State) : Prop :=
  u.fab.reqs.map (·.owner) = s.fab.reqs.map (·.owner) ∧ u.fab.waiting = s.fab.waiting ∧ u.till = s.till

namespace State.KeepsOwners
variable {s u v : State}

theorem refl (s : State) : s.KeepsOwners s := ⟨rfl, rfl, rfl⟩

theorem trans (h : s.KeepsOwners u) (k : u.KeepsOwners v) : s.KeepsOwners v :=
  ⟨k.1.trans h.1, k.2.1.trans h.2.1, k.2.2.trans h.2.2⟩

theorem ite {c : Prop} [Decidable c] (h : s.KeepsOwners u) (k : s.KeepsOwners v) : s.KeepsOwners (if c then u else v) := by
  split
  · exact h
  · exact k

theorem of_records (h : s.Records u) : s.KeepsOwners u := by
  rw [h]
  exact refl s

theorem writesOut (h : s.KeepsOwners u) (k : Nat) : u.writesOut k = s.writesOut k := by
  have hreqs (x : State) : (x.fab.reqs.any fun r => r.owner.writeOf k) = (x.fab.reqs.map (·.owner)).any (·.writeOf k) := by
    rw [List.any_map]
    rfl
  rw [State.writesOut, State.writesOut, hreqs, hreqs, h.1, h.2.1, h.2.2]
end State.KeepsOwners

theorem keepsOwners_sendFrom (n i : Nat) : s.KeepsOwners (s.sendFrom n i) := by
  unfold State.sendFrom
  dsimp only
  split
  · exact .refl s
  · exact ⟨rfl, rfl, rfl⟩

theorem keepsOwners_pumpPort (n fuel : Nat) : s.KeepsOwners (pumpPort n fuel s) := by
  induction fuel generalizing s with
  | zero => exact .refl s
  | succ fuel ih =>
    rw [pumpPort]
    split
    · exact .refl s
    · split
      · exact (keepsOwners_sendFrom s ..).trans (ih _)
      · exact .refl s

theorem keepsOwners_enqueue (input : Nat) (p : Pkt) (n : Nat) (other : Bool) : s.KeepsOwners (s.enqueue input p n other) :=
  State.KeepsOwners.trans (u := s.modPort n _) ⟨rfl, rfl, rfl⟩ (keepsOwners_pumpPort ..)

theorem keepsOwners_turnAway (p : Pkt) (st : Byte) : s.KeepsOwners (s.turnAway p st) := by
  unfold State.turnAway
  dsimp only
  split
  · refine ⟨?_, rfl, rfl⟩
    simp only [State.setFab_fab, List.map_map]
    refine List.map_congr_left fun r _ => ?_
    dsimp only [Function.comp]
    split <;> rfl
  · split
    · split
      · exact State.KeepsOwners.trans (u := (s.nextSeq _).2) ⟨rfl, rfl, rfl⟩ (keepsOwners_enqueue ..)
      · exact .refl s
    · exact .refl s

theorem keepsOwners_transmit (input : Nat) (p : Pkt) : s.KeepsOwners (s.transmit input p) := by
  unfold State.transmit
  dsimp only
  split
  · exact keepsOwners_turnAway ..
  · split
    · exact (State.KeepsOwners.of_records (records_partFault ..)).trans (keepsOwners_turnAway ..)
    · exact keepsOwners_enqueue ..

theorem keepsOwners_unregister (part : Nat) (i : W16) (w : Waiter) (id : Nat) : s.KeepsOwners (s.unregister part i w id) :=
  .ite (.refl s) (State.KeepsOwners.trans (u := (s.nextSeq part).2) ⟨rfl, rfl, rfl⟩ (keepsOwners_transmit ..))

theorem keepsOwners_dropWait (k : Nat) (th : Thread) : s.KeepsOwners (s.dropWait k th) := by
  have hdrop (p : Waiter → Bool) : s.KeepsOwners (s.dropWatches p) := ⟨rfl, rfl, rfl⟩
  unfold State.dropWait
  dsimp only
  split
  · exact (hdrop _).trans (keepsOwners_unregister ..)
  · exact (hdrop _).trans (keepsOwners_unregister ..)
  · exact hdrop _

theorem keepsOwners_dropWaits (l : List (Nat × Thread)) :
    s.KeepsOwners (l.foldl (fun (s : State) (p : Nat × Thread) => s.dropWait p.1 p.2) s) := by
  induction l generalizing s with
  | nil => exact .refl s
  | cons p l ih => exact (keepsOwners_dropWait s p.1 p.2).trans (ih _)

/-- A remote write of a context that stays keeps its owner. -/
theorem writesOut_orphan {keys : List Nat} {k : Nat} (hk : k ∉ keys) (h : s.writesOut k = true) : (s.orphan keys).writesOut k = true := by
  have howner {o : ReqOwner} (ho : o.writeOf k = true) : o.ofThread keys = false := by
    cases o <;> simp_all [ReqOwner.writeOf, ReqOwner.ofThread]
  simp only [State.writesOut, Bool.or_eq_true, List.any_eq_true] at h ⊢
  rcases h with (⟨r, hr, hw⟩ | ⟨r, hr, hw⟩) | ⟨w, hmem, hw⟩
  · refine .inl (.inl ⟨_, List.mem_map.mpr ⟨r, hr, rfl⟩, ?_⟩)
    rwa [if_neg (by simp [howner hw])]
  · refine .inl (.inr ⟨_, List.mem_map.mpr ⟨r, hr, rfl⟩, ?_⟩)
    rwa [if_neg (by simp [howner hw])]
  · refine .inr ⟨_, List.mem_map.mpr ⟨w, hmem, rfl⟩, ?_⟩
    split
    next o ho =>
      rw [ho] at hw
      rw [if_neg (by simp [howner hw]), ho]
      exact hw
    · exact hw

theorem writesOut_freeContextsOf {l : List (Nat × Thread)} {k : Nat} (hk : k ∉ l.map (·.1)) (h : s.writesOut k = true) :
    (s.freeContextsOf l).writesOut k = true := by
  refine writesOut_orphan _ hk ?_
  rw [← (keepsOwners_dropWaits s l).writesOut k] at h
  exact h

/-- What stops a context: it takes the thread's place, stopped. -/
def State.stopOne (s : State) (p : Nat × Thread) : State :=
  (s.dropWait p.1 p.2).setThread p.1 (some { p.2 with status := .stopped, watch := 0,
                                                      moves := p.2.moves.filter fun m => !m.finished && m.fault.isNone })

theorem stopOne_thread (p : Nat × Thread) {k : Nat} {x : Thread} (h : (s.stopOne p).thread k = some x) :
    x.Stopped ∨ k ≠ p.1 ∧ s.thread k = some x := by
  by_cases hk : k = p.1
  · subst hk
    rw [State.stopOne, State.setThread_thread, Option.some.injEq] at h
    subst h
    refine .inl ⟨rfl, fun m hm => ?_⟩
    simpa using (List.mem_filter.mp hm).2
  · rw [State.stopOne, State.setThread_thread_of_ne _ _ hk, State.thread, (leavesTasks_dropWait s p.1 p.2).2.1] at h
    exact .inr ⟨hk, h⟩

theorem foldl_stopOne_thread (l : List (Nat × Thread)) {k : Nat} {x : Thread} (h : (l.foldl State.stopOne s).thread k = some x) :
    x.Stopped ∨ k ∉ l.map (·.1) ∧ s.thread k = some x := by
  induction l generalizing s with
  | nil => exact .inr ⟨by simp, h⟩
  | cons p l ih =>
    rcases ih _ h with hx | ⟨hk, hx⟩
    · exact .inl hx
    · rcases stopOne_thread s p hx with hx | ⟨hne, hx⟩
      · exact .inl hx
      · exact .inr ⟨by simp [hne, hk], hx⟩

/-- The contexts left to a stopped task are those of moves under way. -/
theorem stopThreads_thread {g t k : Nat} {x : Thread} (h : (s.stopThreads g t).thread k = some x) (hg : x.graph = g) (ht : x.task = t) :
    x.Stopped := by
  rcases foldl_stopOne_thread _ _ h with hx | ⟨hmov, hx⟩
  · exact hx
  · obtain ⟨hx, hfree⟩ := freeContextsOf_thread s hx
    have hmem := mem_taskThreads hx hg ht
    by_cases hon : s.movesOn k x = true
    · refine absurd (List.mem_map.mpr ⟨(k, x), ?_, rfl⟩) hmov
      refine List.mem_filter.mpr ⟨hmem, ?_⟩
      simp only [State.movesOn, Bool.or_eq_true] at hon ⊢
      exact hon.imp_right fun hw => writesOut_freeContextsOf s hfree hw
    · exact absurd (List.mem_map.mpr ⟨(k, x), List.mem_filter.mpr ⟨hmem, by simp [hon]⟩, rfl⟩) hfree
end

section
variable (s : State)

theorem stopThreads_stalls_graphs (g t : Nat) : (s.stopThreads g t).stalls = s.stalls ∧ (s.stopThreads g t).graphs = s.graphs := by
  have hfree (l : List (Nat × Thread)) : (s.freeContextsOf l).stalls = s.stalls ∧ (s.freeContextsOf l).graphs = s.graphs := by
    have hdrop := State.LeavesTasks.foldl l (fun (s : State) (p : Nat × Thread) => leavesTasks_dropWait s p.1 p.2) s
    exact ⟨hdrop.1, hdrop.2.2⟩
  have hstop (l : List (Nat × Thread)) (u : State) : (l.foldl State.stopOne u).stalls = u.stalls
      ∧ (l.foldl State.stopOne u).graphs = u.graphs := by
    induction l generalizing u with
    | nil => exact ⟨rfl, rfl⟩
    | cons p l ih =>
      have hone := leavesTasks_dropWait u p.1 p.2
      exact ⟨(ih _).1.trans hone.1, (ih _).2.trans hone.2.2⟩
  exact ⟨(hstop _ _).1.trans (hfree _).1, (hstop _ _).2.trans (hfree _).2⟩

/-! ### Its slots are free -/

/-- What a map of entries that keeps their keys gives at a key. -/
theorem SMap.get_map_some {α : Type} {m : SMap (Option α)} {f : Nat × Option α → Nat × Option α} (hf : ∀ p, (f p).1 = p.1)
    {k : Nat} {x : α} (h : SMap.get none (m.map f) k = some x) : ∃ v, SMap.get none m k = v ∧ (f (k, v)).2 = some x := by
  induction m with
  | nil => cases h
  | cons q m ih =>
    obtain ⟨a, v⟩ := q
    rw [List.map_cons, ← Prod.eta (f (a, v)), hf, SMap.get] at h
    rw [SMap.get]
    by_cases hk : a = k
    · subst hk
      rw [if_pos rfl] at h ⊢
      exact ⟨v, rfl, h⟩
    · rw [if_neg hk] at h ⊢
      exact ih h

/-- One context, released if it is held as `p` says. -/
def releaseEntry (st : Nat) (p : HoldWhy → Nat → Bool) (x : Nat × Option Thread) : Nat × Option Thread :=
  match x.2 with
  | some th => (match th.status with
    | .held w => if stallOf x.1 = st && p w x.1 then (x.1, some { th with status := .ready }) else x
    | _ => x)
  | none => x

theorem releaseEntry_fst (st : Nat) (p : HoldWhy → Nat → Bool) (x : Nat × Option Thread) : (releaseEntry st p x).1 = x.1 := by
  unfold releaseEntry
  split
  · split
    · split <;> rfl
    · rfl
  · rfl

theorem releaseEntry_snd {st k : Nat} {p : HoldWhy → Nat → Bool} {v : Option Thread} {x : Thread}
    (h : (releaseEntry st p (k, v)).2 = some x) :
    ∃ y, v = some y ∧ (x = y ∨ x = { y with status := .ready } ∧ ∃ w, y.status = .held w) := by
  unfold releaseEntry at h
  cases v with
  | none => cases h
  | some y =>
    refine ⟨y, rfl, ?_⟩
    dsimp only at h
    split at h
    next w hw =>
      split at h
      · exact .inr ⟨(Option.some.inj h).symm, w, hw⟩
      · exact .inl (Option.some.inj h).symm
    · exact .inl (Option.some.inj h).symm

/-- A held thread may go on; nothing else of a context changes. -/
theorem releaseHeld_thread {st k : Nat} {p : HoldWhy → Nat → Bool} {x : Thread} (h : (s.releaseHeld st p).thread k = some x) :
    ∃ y, s.thread k = some y ∧ (x = y ∨ x = { y with status := .ready } ∧ ∃ w, y.status = .held w) := by
  have hmap : SMap.get none (s.threads.map (releaseEntry st p)) k = some x := h
  obtain ⟨v, hv, hx⟩ := SMap.get_map_some (releaseEntry_fst st p) hmap
  obtain ⟨y, rfl, hy⟩ := releaseEntry_snd hx
  exact ⟨y, hv, hy⟩

theorem freeSlots_graphs (g t : Nat) : (s.freeSlots g t).graphs = s.graphs := by
  unfold State.freeSlots
  split
  · rfl
  · dsimp only
    split
    · rfl
    · rfl

theorem freeSlots_thread {g t k : Nat} {x : Thread} (h : (s.freeSlots g t).thread k = some x) :
    ∃ y, s.thread k = some y ∧ (x = y ∨ x = { y with status := .ready } ∧ ∃ w, y.status = .held w) := by
  unfold State.freeSlots at h
  split at h
  · exact ⟨x, h, .inl rfl⟩
  · dsimp only at h
    split at h
    · exact ⟨x, h, .inl rfl⟩
    · exact releaseHeld_thread (s.modStall _ fun i => i.freeTask g t) h

/-- On the task's own stall its slots go; its trap log, as that of every stall, stays. -/
theorem freeSlots_stall (g t k : Nat) : (s.freeSlots g t).stall k
    = if (s.task g t).bind (·.place) = some k then (s.stall k).freeTask g t else s.stall k := by
  have hset (j : Nat) : (s.modStall j fun i => i.freeTask g t).stall k
      = if some j = some k then (s.stall k).freeTask g t else s.stall k := by
    by_cases hj : j = k
    · subst hj
      rw [if_pos rfl]
      exact State.setStall_stall ..
    · rw [if_neg (by simpa using hj)]
      exact State.setStall_stall_of_ne _ _ (Ne.symm hj)
  unfold State.freeSlots
  cases hp : (s.task g t).bind (·.place) with
  | none => rfl
  | some j =>
    dsimp only
    split
    · exact hset j
    · exact hset j

theorem freeTask_trapLog (i : StallInfo) (g t : Nat) : (i.freeTask g t).trapLog = i.trapLog := rfl

/-! ### The graph ends -/

/-- A graph that fails keeps its first cause, and its tasks that were aborted (R123; log entry 5). -/
theorem failGraph_eq {g : Nat} {gr : Graph} (hg : s.graph g = some gr) (hph : gr.phase ≠ .ended) (st : Byte) (p : W64) :
    ∃ gr', gr'.cause = some (gr.cause.getD ⟨st, p⟩) ∧ (∃ f, gr'.tasks = gr.tasks.map f ∧ ∀ t, t.st = .aborted → (f t).st = .aborted)
      ∧ s.failGraph g st p = (s.setGraph g (some gr')).settle g := by
  have hsaved (t : TaskSt) (ht : t.st = .aborted) : (dropSaved t).st = .aborted := by rw [dropSaved, ht]; exact ht
  refine ⟨{ gr with phase := .ending, tasks := if gr.phase = .ending then gr.tasks else gr.tasks.map dropSaved,
                    cause := some (gr.cause.getD ⟨st, p⟩) }, rfl, ?_, ?_⟩
  · by_cases he : gr.phase = .ending
    · exact ⟨id, by simp [he], fun _ h => h⟩
    · exact ⟨dropSaved, by simp [he], hsaved⟩
  · rw [State.failGraph, hg]
    exact if_neg hph

/-- A state in which the task is aborted and its graph may still run, once the graph fails. -/
theorem failGraph_stopped {g : Nat} {gr : Graph} (hg : s.graph g = some gr) (hph : gr.phase ≠ .ended) (st : Byte) (p : W64) :
    let u := s.failGraph g st p
    u.stalls = s.stalls ∧ u.threads = s.threads ∧ (u.graph g).map (·.cause) = some (some (gr.cause.getD ⟨st, p⟩))
      ∧ ∀ t, (s.task g t).map (·.st) = some .aborted → (u.task g t).map (·.st) = some .aborted := by
  obtain ⟨gr', hc, ⟨f, hf, hab⟩, hu⟩ := failGraph_eq s hg hph st p
  obtain ⟨hst, hth, hcause, htask⟩ := keepsStopped_settle (s := s.setGraph g (some gr')) (State.setGraph_graph ..) hc
  dsimp only
  rw [hu]
  refine ⟨hst, hth, ?_, fun t ht => htask g t ?_⟩
  · rw [hcause, State.setGraph_graph, Option.map_some, hc]
  · rw [State.task, State.setGraph_graph]
    rw [State.task, hg] at ht
    simp only [Option.bind_some, hf, List.getElem?_map, Option.map_map, Option.map_eq_some_iff] at ht ⊢
    obtain ⟨a, ha, hst⟩ := ht
    exact ⟨a, ha, hab a hst⟩
end

/-! ### A trap -/

section
variable (s : State) (k : Nat) (th : Thread) (cause : Cause) (detail insn : W64)

/-- The record of a trap (Table 3.16). -/
def trapRecord : TrapRec :=
  { cause := cause.code, graph := th.graph, thread := th.idx, context := k % 1024, stall := logicalStall (stallOf k), pc := th.pc,
    insn := insn, tags := s.threadTags th, task := th.task, detail := detail, lc := s.hallLc (hallOf (stallOf k)) }

/-- The trap is logged, recorded and counted (R124). -/
def State.trapLogged : State :=
  let s1 := s.modStall (stallOf k) fun i => { i with trapLog := (trapRecord s k th cause detail insn :: i.trapLog).take 16 }
  ((s1.stallFault (stallOf k) .trap 7 (trapRecord s k th cause detail insn).tags
    (BitVec.ofNat 64 (cause.code.toNat + (k % 1024) * 256 + th.task * 2 ^ 24))).traceStall (stallOf k) 3 th.task).count .traps
    (hallOf (stallOf k)) 1

/-- The task stops and its slots are free (R123). -/
def State.taskStopped (g t : Nat) : State := ((s.stopThreads g t).finishAllocFrees).freeSlots g t

theorem trapThread_eq : s.trapThread k th cause detail insn
    = (((s.trapLogged k th cause detail insn).taskStopped th.graph th.task).modTask th.graph th.task fun ts =>
        { ts with st := .aborted, place := none, saved := none, saving := none }).failGraph th.graph 0x26
        (BitVec.ofNat 64 (th.task + cause.code.toNat * 2 ^ 24)) := rfl

theorem trapLogged_leaves : (s.trapLogged k th cause detail insn).stalls
      = (s.modStall (stallOf k) fun i => { i with trapLog := (trapRecord s k th cause detail insn :: i.trapLog).take 16 }).stalls
    ∧ (s.trapLogged k th cause detail insn).threads = s.threads ∧ (s.trapLogged k th cause detail insn).graphs = s.graphs := by
  have h := State.LeavesTasks.of_records (((records_stallFault
    (s.modStall (stallOf k) fun i => { i with trapLog := (trapRecord s k th cause detail insn :: i.trapLog).take 16 }) (stallOf k) .trap 7
    (trapRecord s k th cause detail insn).tags (BitVec.ofNat 64 (cause.code.toNat + (k % 1024) * 256 + th.task * 2 ^ 24))).trans
    (records_traceStall _ (stallOf k) 3 th.task)).trans (counts_count _ .traps (hallOf (stallOf k)) 1).records)
  exact ⟨h.1, h.2.1, h.2.2⟩

/-- The graph and the task's record once the task has stopped: only its stall's slots and its contexts changed. -/
theorem taskStopped_graphs (g t : Nat) : (s.taskStopped g t).graphs = s.graphs := by
  unfold State.taskStopped
  rw [freeSlots_graphs, (leavesTasks_finishAllocFrees _).2.2, (stopThreads_stalls_graphs s g t).2]

theorem taskStopped_stall (g t j : Nat) : (s.taskStopped g t).stall j
    = if (s.task g t).bind (·.place) = some j then (s.stall j).freeTask g t else s.stall j := by
  have hleft := leavesTasks_finishAllocFrees (s.stopThreads g t)
  have hst := stopThreads_stalls_graphs s g t
  have htask : (s.stopThreads g t).finishAllocFrees.task g t = s.task g t := by
    rw [State.task, State.task, State.graph, hleft.2.2, hst.2, ← State.graph]
  have hstall : (s.stopThreads g t).finishAllocFrees.stall j = s.stall j := by
    rw [State.stall, hleft.1, hst.1, ← State.stall]
  rw [State.taskStopped, freeSlots_stall, htask, hstall]

theorem taskStopped_thread {g t j : Nat} {x : Thread} (h : (s.taskStopped g t).thread j = some x) (hg : x.graph = g) (ht : x.task = t) :
    x.Stopped := by
  obtain ⟨y, hy, hxy⟩ := freeSlots_thread _ h
  rw [State.thread, (leavesTasks_finishAllocFrees _).2.1] at hy
  rcases hxy with rfl | ⟨rfl, w, hw⟩
  · exact stopThreads_thread s hy hg ht
  · obtain ⟨hstop, -⟩ := stopThreads_thread s hy hg ht
    exact absurd (hw.symm.trans hstop) (by simp)
end
end Sys2Proof.Machine
end

section
/-! SUPPORT. What a trap leaves, clause by clause (R123, R124), and the reserved fields of each class (R99). -/

namespace Sys2Proof.Machine

section
variable (s : State) (k : Nat) (th : Thread) (cause : Cause) (detail insn : W64)

/-- A trapped thread's task is aborted and its slots are gone, before its graph ends (R123). -/
def State.taskAborted : State :=
  ((s.trapLogged k th cause detail insn).taskStopped th.graph th.task).modTask th.graph th.task fun ts =>
    { ts with st := .aborted, place := none, saved := none, saving := none }

theorem trap_eq_failGraph (hth : s.thread k = some th) : s.trap k cause detail insn
    = (s.taskAborted k th cause detail insn).failGraph th.graph 0x26 (BitVec.ofNat 64 (th.task + cause.code.toNat * 2 ^ 24)) := by
  rw [State.trap, hth]
  exact trapThread_eq ..

theorem trapLogged_task : (s.trapLogged k th cause detail insn).task th.graph th.task = s.task th.graph th.task := by
  rw [State.task, State.graph, (trapLogged_leaves s k th cause detail insn).2.2]
  rfl

theorem trapLogged_stall : (s.trapLogged k th cause detail insn).stall (stallOf k)
    = { s.stall (stallOf k) with trapLog := (trapRecord s k th cause detail insn :: (s.stall (stallOf k)).trapLog).take 16 } := by
  rw [State.stall, (trapLogged_leaves s k th cause detail insn).1]
  exact State.setStall_stall ..

/-- The stall of the trap: its log has the new record, and its slots are those of other tasks where the task ran there. -/
theorem taskAborted_stall : (s.taskAborted k th cause detail insn).stall (stallOf k)
    = let i := { s.stall (stallOf k) with trapLog := (trapRecord s k th cause detail insn :: (s.stall (stallOf k)).trapLog).take 16 }
      if (s.task th.graph th.task).bind (·.place) = some (stallOf k) then i.freeTask th.graph th.task else i := by
  have h : (s.taskAborted k th cause detail insn).stall (stallOf k)
      = ((s.trapLogged k th cause detail insn).taskStopped th.graph th.task).stall (stallOf k) := by
    rw [State.taskAborted, State.stall, State.modTask_stalls, ← State.stall]
  rw [h, taskStopped_stall, trapLogged_task, trapLogged_stall]

/-- The graph of the task, with the task aborted. -/
theorem taskAborted_graph {gr : Graph} (hg : s.graph th.graph = some gr) : (s.taskAborted k th cause detail insn).graph th.graph
    = some { gr with tasks := gr.tasks.modify th.task fun ts => { ts with st := .aborted, place := none, saved := none, saving := none } } := by
  have hgr : ((s.trapLogged k th cause detail insn).taskStopped th.graph th.task).graph th.graph = some gr := by
    rw [State.graph, taskStopped_graphs, (trapLogged_leaves s k th cause detail insn).2.2]
    exact hg
  rw [State.taskAborted, State.modTask, State.modGraph, hgr]
  exact State.setGraph_graph ..

theorem taskAborted_task (hsome : (s.task th.graph th.task).isSome = true) :
    ((s.taskAborted k th cause detail insn).task th.graph th.task).map (·.st) = some .aborted := by
  obtain ⟨ts, hts⟩ := Option.isSome_iff_exists.mp hsome
  obtain ⟨gr, hg, hget⟩ := Option.bind_eq_some_iff.mp hts
  rw [State.task, taskAborted_graph s k th cause detail insn hg]
  simp [hget]

theorem taskAborted_thread {j : Nat} {x : Thread} (h : (s.taskAborted k th cause detail insn).thread j = some x)
    (hg : x.graph = th.graph) (ht : x.task = th.task) : x.Stopped := by
  refine taskStopped_thread (s.trapLogged k th cause detail insn) (j := j) ?_ hg ht
  rwa [State.taskAborted, State.thread, State.modTask_threads, ← State.thread] at h
end

/-- No slot of a freed task is left. -/
theorem freeTask_slots {i : StallInfo} {g t : Nat} {x : Slot} (hx : x ∈ (i.freeTask g t).slots) : ¬ (x.graph = g ∧ x.task = t) := by
  simp only [StallInfo.freeTask, List.mem_filter] at hx
  grind

/-- What a trap leaves of its stall, its task and its graph (R123, R124). -/
theorem trap_actions {s : State} {t : ThreadRef} {th : Thread} {cause : Cause} {detail insn : W64} {gr : Graph}
    (hth : s.thread (tkey t) = some th) (hg : s.graph th.graph = some gr) (hph : gr.phase ≠ .ended)
    (hsome : (s.task th.graph th.task).isSome = true) :
    let u := s.trap (tkey t) cause detail insn
    (∃ r, (u.stall (skey t.st)).trapLog = (r :: (s.stall (skey t.st)).trapLog).take 16 ∧ r.cause = cause.code ∧ r.pc = th.pc
        ∧ r.insn = insn ∧ r.detail = detail ∧ r.graph = th.graph ∧ r.task = th.task ∧ r.thread = th.idx)
    ∧ (∀ k x, u.thread k = some x → x.graph = th.graph → x.task = th.task → x.Stopped)
    ∧ ((s.task th.graph th.task).bind (·.place) = some (skey t.st) →
        ∀ x ∈ (u.stall (skey t.st)).slots, ¬ (x.graph = th.graph ∧ x.task = th.task))
    ∧ (u.task th.graph th.task).map (·.st) = some .aborted
    ∧ (u.graph th.graph).map (·.cause)
      = some (some (gr.cause.getD ⟨0x26, BitVec.ofNat 64 (th.task + cause.code.toNat * 2 ^ 24)⟩)) := by
  have hstall := taskAborted_stall s (tkey t) th cause detail insn
  rw [stallOf_tkey] at hstall
  obtain ⟨hst, hthr, hcause, htask⟩ := failGraph_stopped (s.taskAborted (tkey t) th cause detail insn)
    (taskAborted_graph s (tkey t) th cause detail insn hg) hph 0x26 (BitVec.ofNat 64 (th.task + cause.code.toNat * 2 ^ 24))
  dsimp only
  rw [trap_eq_failGraph s (tkey t) th cause detail insn hth, State.stall, hst, ← State.stall, hstall]
  refine ⟨⟨trapRecord s (tkey t) th cause detail insn, ?_, rfl, rfl, rfl, rfl, rfl, rfl, rfl⟩, fun k x hx hxg hxt => ?_,
    fun hplace x hx => ?_, htask _ (taskAborted_task s (tkey t) th cause detail insn hsome), hcause⟩
  · dsimp only
    split
    · rfl
    · rfl
  · rw [State.thread, hthr] at hx
    exact taskAborted_thread s (tkey t) th cause detail insn hx hxg hxt
  · dsimp only at hx
    rw [if_pos hplace] at hx
    exact freeTask_slots hx

/-- A word with a reserved CLASS or an unlisted OP traps, whether `add` or `yield` stands for its issue (R99; log entry 6). -/
theorem exec_add_yield_of_unlisted {s : State} {t : ThreadRef} {th : Thread} {w : W64} (x : ScalarF) (y : SyncF)
    (hth : s.thread (tkey t) = some th) (hmay : s.mayIssue (tkey t) th = true) (hfetch : s.fetch th = .word w)
    (hw : wordListed w = false) :
    exec (.add t x) s = .next (s.trap (tkey t) .illegal 0 w) ∧ exec (.yield t y) s = .next (s.trap (tkey t) .illegal 0 w) := by
  constructor
  · change execAdd t x s = _
    rw [execAdd, scalarOp]
    exact issue_of_unlisted hth hmay hfetch hw (wordListed_scalarWord_zero x)
  · change execYield t y s = _
    rw [execYield]
    exact issue_of_unlisted hth hmay hfetch hw (wordListed_syncWord_five y)

section
variable {s : State} {t : ThreadRef} {th : Thread} {v : MoveRegF}

/-- A load or store whose unused fields are not 0 (R99, Table 3.11). -/
theorem exec_dld_dst_of_bad (hbad : v.dsrc ≠ 0 ∨ v.creg ≠ 0 ∨ v.mreg ≠ 0 ∨ v.rsv ≠ 0) :
    (s.issues t (moveRegWord 0x09 v) th → exec (.dld t v) s = .next (s.trap (tkey t) .illegal 0 (moveRegWord 0x09 v)))
    ∧ (s.issues t (moveRegWord 0x0A v) th → exec (.dst t v) s = .next (s.trap (tkey t) .illegal 0 (moveRegWord 0x0A v))) := by
  have h : moveRegBad true true false false false v = true := by grind [moveRegBad]
  rw [exec_dld, exec_dst, h]
  exact ⟨moveLoad_of_bad, moveStore_of_bad⟩

theorem exec_cld_cst_of_bad (hbad : v.dsrc ≠ 0 ∨ v.dreg ≠ 0 ∨ v.mreg ≠ 0 ∨ v.rsv ≠ 0) :
    (s.issues t (moveRegWord 0x0B v) th → exec (.cld t v) s = .next (s.trap (tkey t) .illegal 0 (moveRegWord 0x0B v)))
    ∧ (s.issues t (moveRegWord 0x0C v) th → exec (.cst t v) s = .next (s.trap (tkey t) .illegal 0 (moveRegWord 0x0C v))) := by
  have h : moveRegBad true false false true false v = true := by grind [moveRegBad]
  rw [exec_cld, exec_cst, h]
  exact ⟨moveLoad_of_bad, moveStore_of_bad⟩

theorem exec_mld_mst_of_bad (hbad : v.dsrc ≠ 0 ∨ v.dreg ≠ 0 ∨ v.creg ≠ 0 ∨ v.rsv ≠ 0) :
    (s.issues t (moveRegWord 0x0D v) th → exec (.mld t v) s = .next (s.trap (tkey t) .illegal 0 (moveRegWord 0x0D v)))
    ∧ (s.issues t (moveRegWord 0x0E v) th → exec (.mst t v) s = .next (s.trap (tkey t) .illegal 0 (moveRegWord 0x0E v))) := by
  have h : moveRegBad true false false false true v = true := by grind [moveRegBad]
  rw [exec_mld, exec_mst, h]
  exact ⟨moveLoad_of_bad, moveStore_of_bad⟩
end

/-- Settles O9: a trap logs its record, stops its task and fails its graph; reserved fields trap in each class. -/
theorem trapActions : Obligations.TrapActions := by
  unfold Obligations.TrapActions
  refine ⟨⟨fun s t th cause detail insn gr hth hg hph hsome => trap_actions hth hg hph hsome,
    fun s t th w x y hth hmay hfetch hw => exec_add_yield_of_unlisted x y hth hmay hfetch hw⟩, ?_⟩
  intro t x c v y s th
  dsimp only
  refine ⟨fun hi hlow p hp h => ?_, fun hbad p hp h => ?_, exec_br_of_bad, exec_jr_of_bad, exec_trap_of_bad, exec_end_of_bad,
    exec_dmov_of_bad, fun hbad => exec_dld_dst_of_bad hbad, fun hbad => exec_cld_cst_of_bad hbad, fun hbad => exec_mld_mst_of_bad hbad,
    fun hbad => exec_sig_of_bad (syncBad_eq_true hbad), fun hbad => exec_wait_of_bad (syncBad_eq_true hbad),
    fun hbad => exec_barrier_of_bad (syncBad_eq_true hbad), fun hbad => exec_waittok_of_bad (hbad.imp_left syncBad_eq_true),
    fun hbad => ⟨exec_fence_of_bad (syncBad_eq_true hbad), exec_yield_of_bad (syncBad_eq_true hbad)⟩⟩
  · obtain ⟨op, he⟩ := exec_scalarForms t x s p hp
    exact he.trans (scalarOp_of_bad h hi hlow)
  · obtain ⟨cond, he⟩ := exec_branchForms t c s p hp
    exact he.trans (condBranch_of_bad h hbad)
end Sys2Proof.Machine
end

section
/-! SUPPORT. The translation commands (R401, R409, R411, R420, R429, Table 14.11): what each answers, branch by branch. -/

namespace Sys2Proof.Machine

theorem inRange_iff {v : W64} {lo hi : Nat} : inRange v lo hi = true ↔ lo ≤ v.toNat ∧ v.toNat ≤ hi := by
  simp [inRange]

section
variable {s : State} {h : CmdHdr} {c : Cmd}

theorem exec_xltSpaceSet (hs : s.serves 0x0230 2 true h c) (root limit : W64) :
    let r := s.begin_ c
    exec (.xltSpaceSet h root limit) s = .next (if !(s.tableOk 0 root.toNat) || !(inRange limit 1 10000000)
      then r.reply (s.begun c) stInvalid []
      else if (s.space h.job).isSome then r.reply (s.begun c) stConflict []
      else (r.setXlt { r.xlt with spaces := s.xlt.spaces ++ [{ job := h.job, root := root.toNat, limit := limit }] }).reply
        (s.begun c) stOk []) := by
  change execXltSpaceSet h root limit s = _
  rw [execXltSpaceSet, command_runs hs]
  rfl

theorem exec_xltSpaceClear (hs : s.serves 0x0231 0 true h c) :
    let r := s.begin_ c
    exec (.xltSpaceClear h) s = .next (if s.jobResident h.job then r.reply (s.begun c) stBusy []
      else (r.setXlt { r.xlt with spaces := s.xlt.spaces.filter fun x => x.job ≠ h.job }).reply (s.begun c) stOk []) := by
  change execXltSpaceClear h s = _
  rw [execXltSpaceClear, command_runs hs]
  rfl

theorem exec_xltInvalidate (hs : s.serves 0x0232 2 true h c) (va len : W64) :
    let r := s.begin_ c
    exec (.xltInvalidate h va len) s = .next (if va.toNat % 65536 ≠ 0 || len.toNat % 65536 ≠ 0 || (len = 0 && va ≠ 0)
      then r.reply (s.begun c) stInvalid []
      else (r.waitCmd (s.begun c) (.invalidate h.job va.toNat len.toNat)).finishInvalidates) := by
  change execXltInvalidate h va len s = _
  rw [execXltInvalidate, command_runs hs]

/-- The end that the host chooses for a pending fault: RETRY or FAIL (R411). -/
def State.resolveFault (s : State) (f : PFault) (action : W64) : State :=
  if action = 0 then s.retryFault f else s.failFault f

theorem State.resolveFault_retry (s : State) (f : PFault) : s.resolveFault f 0 = s.retryFault f := if_pos rfl

theorem State.resolveFault_fail (s : State) (f : PFault) : s.resolveFault f 1 = s.failFault f := if_neg (by decide)

theorem exec_xltFaultResolve_of_bad (hs : s.serves 0x0233 2 false h c) {action : W64} (hbad : 1 < action.toNat) (fault : W64) :
    exec (.xltFaultResolve h fault action) s = (s.begin_ c).answers (s.begun c) stInvalid [] := by
  change execXltFaultResolve h fault action s = _
  rw [execXltFaultResolve, command_runs hs, if_pos (by grind [inRange_iff])]
  rfl

theorem exec_xltFaultResolve_of_none (hs : s.serves 0x0233 2 false h c) {fault action : W64} (hok : action.toNat ≤ 1)
    (hnone : s.xlt.faults.find? (fun x => x.id = fault.toNat) = none) :
    exec (.xltFaultResolve h fault action) s = (s.begin_ c).answers (s.begun c) stNotFound [] := by
  have hnone' : (s.begin_ c).xlt.faults.find? (fun x => x.id = fault.toNat) = none := hnone
  change execXltFaultResolve h fault action s = _
  simp only [execXltFaultResolve, command_runs hs, hnone']
  rw [if_neg (by grind [inRange_iff])]
  rfl

theorem exec_xltFaultResolve_of_some (hs : s.serves 0x0233 2 false h c) {fault action : W64} (hok : action.toNat ≤ 1) {f : PFault}
    (hsome : s.xlt.faults.find? (fun x => x.id = fault.toNat) = some f) :
    exec (.xltFaultResolve h fault action) s = ((s.begin_ c).resolveFault f action).answers (s.begun c) stOk [] := by
  have hsome' : (s.begin_ c).xlt.faults.find? (fun x => x.id = fault.toNat) = some f := hsome
  change execXltFaultResolve h fault action s = _
  simp only [execXltFaultResolve, command_runs hs, hsome']
  rw [if_neg (by grind [inRange_iff])]
  rfl

theorem exec_xltSaveAreaSet (hs : s.serves 0x0234 3 false h c) (hall off size : W64) :
    let r := s.begin_ c
    exec (.xltSaveAreaSet h hall off size) s = .next (if !(inRange hall 0 3) || size.toNat % 65536 ≠ 0
        || !(inRange size (4 * 2 ^ 20) (64 * 2 ^ 30)) || !(s.hbmRange off.toNat size.toNat) then r.reply (s.begun c) stInvalid []
      else if !(s.records hall.toNat).isEmpty then r.reply (s.begun c) stBusy []
      else (r.setXlt { r.xlt with saveAreas := s.xlt.saveAreas.set none hall.toNat (some { off := off.toNat, size := size.toNat }) }).reply
        (s.begun c) stOk []) := by
  change execXltSaveAreaSet h hall off size s = _
  rw [execXltSaveAreaSet, command_runs hs]
  rfl

theorem exec_xltReserveSet (hs : s.serves 0x0235 3 false h c) (hall off units : W64) :
    let r := s.begin_ c
    exec (.xltReserveSet h hall off units) s = .next (if !(inRange hall 0 3) || !(inRange units 0 3072)
        || !(s.hbmRange off.toNat (units.toNat * 65536)) then r.reply (s.begun c) stInvalid []
      else if s.xlt.redirects.any fun x => x.1 / 2 ^ 32 / 3 = hall.toNat then r.reply (s.begun c) stBusy []
      else let area : Option Area := if units = 0 then none else some { off := off.toNat, size := units.toNat * 65536 }
        (r.setXlt { r.xlt with reserves := s.xlt.reserves.set none hall.toNat area }).reply (s.begun c) stOk []) := by
  change execXltReserveSet h hall off units s = _
  rw [execXltReserveSet, command_runs hs]
  rfl
end

theorem exec_faultLimitExpire_of_some {s : State} {id : W32} {f : PFault}
    (hsome : s.xlt.faults.find? (fun x => x.id = id.toNat) = some f) (hspace : (s.space f.job).isSome = true) :
    exec (.faultLimitExpire id) s = .next (s.failFault f) := by
  change execFaultLimitExpire id s = _
  rw [execFaultLimitExpire, hsome]
  exact if_pos hspace

theorem exec_faultLimitExpire_of_none {s : State} {id : W32} (hnone : s.xlt.faults.find? (fun x => x.id = id.toNat) = none) :
    exec (.faultLimitExpire id) s = .next s := by
  change execFaultLimitExpire id s = _
  rw [execFaultLimitExpire, hnone]

/-- Settles O27: each command is its chain of refusals, and past the last one its effect. -/
theorem translationCommands : Obligations.TranslationCommands := by
  unfold Obligations.TranslationCommands
  intro h c s v size off
  dsimp only
  refine ⟨fun hs => ⟨fun hbad => ?_, fun hok hsome => ?_, fun hok hnone => ?_⟩, fun hs => ?_, fun hs => ?_,
    fun hs => ⟨fun hbad => ?_, fun hok hnone => ?_, fun f hf => ⟨?_, ?_⟩⟩,
    fun id => ⟨fun f hf hspace => exec_faultLimitExpire_of_some hf hspace, exec_faultLimitExpire_of_none⟩,
    fun hs => ⟨fun hbad => ?_, fun hok hrec => ?_, fun hok hrec => ?_⟩,
    fun hs => ⟨fun hbad => ?_, fun hok hused => ?_, fun hok hused => ?_⟩⟩
  · rw [exec_xltSpaceSet hs, if_pos (by grind [inRange_iff])]
    rfl
  · rw [exec_xltSpaceSet hs, if_neg (by grind [inRange_iff]), if_pos (Option.isSome_iff_ne_none.mpr hsome)]
    rfl
  · rw [exec_xltSpaceSet hs, if_neg (by grind [inRange_iff]), if_neg (by simp [hnone])]
    rfl
  · rw [exec_xltSpaceClear hs]
    exact apply_ite Host.Outcome.next _ _ _
  · rw [exec_xltInvalidate hs]
    by_cases hok : v.toNat % 65536 = 0 ∧ size.toNat % 65536 = 0 ∧ (size = 0 → v = 0)
    · rw [if_pos hok, if_neg (by grind)]
    · rw [if_neg hok, if_pos (by grind)]
      rfl
  · exact exec_xltFaultResolve_of_bad hs hbad v
  · exact exec_xltFaultResolve_of_none hs hok hnone
  · rw [exec_xltFaultResolve_of_some hs (by decide) hf, State.resolveFault_retry]
  · rw [exec_xltFaultResolve_of_some hs (by decide) hf, State.resolveFault_fail]
  · rw [exec_xltSaveAreaSet hs, if_pos (by grind [inRange_iff])]
    rfl
  · rw [exec_xltSaveAreaSet hs, if_neg (by grind [inRange_iff]), if_pos (by simpa using hrec)]
    rfl
  · rw [exec_xltSaveAreaSet hs, if_neg (by grind [inRange_iff]), if_neg (by simp [hrec])]
    rfl
  · rw [exec_xltReserveSet hs, if_pos (by grind [inRange_iff])]
    rfl
  · rw [exec_xltReserveSet hs, if_neg (by grind [inRange_iff]), if_pos (by simpa using hused)]
    rfl
  · rw [exec_xltReserveSet hs, if_neg (by grind [inRange_iff]), if_neg (by simpa using hused)]
    rfl
end Sys2Proof.Machine
end

section
/-! SUPPORT. LC_MARK sends more than the claim says while HBM is held (R599, R600, R604, R635): each hall traces the mark, a hall whose
1,024 records wait drops its own and counts it, and a counter alert on any entry drives ALERT_N low. -/

namespace Sys2Proof.Machine

/-- The header of a command of two parameters. -/
def markHdr : CmdHdr := { plen := 16 }

/-- A part below 40 V in D3hot with LC_MARK waiting, that traces the sync marks of its halls, with 1,024 records of hall 0 waiting
and alert 8 at threshold 0. -/
def crowdedTrace : State :=
  { pstate := 1
    host := { cmds := [{ op := 0x0830, hdr := markHdr, fetched := 0 }], d3hot := true }
    power := { below40 := true, alertMasked := 0, alertEntry := [(0, some (0, 0))] }
    trace := { cfg := some { job := 0, va := 0, size := 262144, units := [], trig := 0, cls := 0, events := 0x3FF, post := 0 },
               armed := true, halls := [(0, { queue := List.replicate 1024 (false, []) })] } }

theorem crowdedTrace_serves : crowdedTrace.serves 0x0830 2 false markHdr { op := 0x0830, hdr := markHdr, fetched := 0 } :=
  ⟨by decide, by decide, by decide, by decide, by decide, by decide⟩

/-- The command drives ALERT_N low, and the part stays in D3hot. -/
theorem exec_lcMark_crowdedTrace : (match exec (.lcMark markHdr 0 0) crowdedTrace with
    | .next v => v.host.d3hot && decide (v.sent ≠ crowdedTrace.sent)
    | _ => false) = true := by decide +kernel

/-- A reply that is not lost leaves the link's power state. -/
theorem d3hot_reply {s : State} {c : Cmd} (hl : c.lostReply = false) (status : Byte) (results : List W64) :
    (s.reply c status results).host.d3hot = s.host.d3hot := by
  cases hw : s.host.writes with
  | false => rw [State.reply_of_stopped hw hl]; rfl
  | true =>
    obtain ⟨l, n, q, he⟩ := writeEntry_eq (s.setHost (s.host.without c)) 1 (c.replyBytes status results)
    rw [reply_of_writes hl hw, he]
    rfl

/-- Refutes O48: in D3hot the reply itself waits, so what LC_MARK sent beyond the claim is the alert of the record it dropped. -/
theorem not_powerAndTallyCommands : ¬ Obligations.PowerAndTallyCommands := by
  unfold Obligations.PowerAndTallyCommands
  intro h
  obtain ⟨-, -, -, -, -, -, -, -, -, hmark, -⟩ := h markHdr _ crowdedTrace 0 0 0 0
  obtain ⟨-, hsent⟩ := hmark crowdedTrace_serves
  obtain ⟨u, hu, -, husent⟩ := hsent (by decide)
  have hrun := exec_lcMark_crowdedTrace
  rw [hu] at hrun
  simp only [State.answers, Bool.and_eq_true, decide_eq_true_eq] at hrun
  obtain ⟨hd3, hne⟩ := hrun
  -- replies neither change the power state of the link nor, in D3hot, send anything
  have hstop : u.host.writes = false := HostIf.writes_of_d3hot ((d3hot_reply rfl _ _).symm.trans hd3)
  rw [State.reply_of_stopped hstop rfl] at hne
  exact hne (husent.trans (if_neg (by decide)))
end Sys2Proof.Machine
end

section
/-! SUPPORT. The switch of a layout epoch (R481 to R486, Table 16.5): the command's refusals in order, and each message of a switch. -/

namespace Sys2Proof.Machine

section
variable {s : State} {h : CmdHdr} {c : Cmd}

/-- What LAYOUT_SWITCH asks of its epoch and its timeout. -/
def State.layoutAsked (s : State) (job : Byte) (epoch timeout : W64) : Prop :=
  epoch.toNat < 65536 ∧ 1000 ≤ timeout.toNat ∧ timeout.toNat ≤ 10000000
    ∧ epochNewer (epoch.setWidth 16) (s.layoutEpoch.get 0 job.toNat) = true

theorem exec_layoutSwitch_of_bad (hs : s.serves 0x0720 2 true h c) {epoch timeout : W64} (hbad : ¬ s.layoutAsked h.job epoch timeout) :
    exec (.layoutSwitch h epoch timeout) s = (s.begin_ c).answers (s.begun c) stInvalid [] := by
  change execLayoutSwitch h epoch timeout s = _
  rw [execLayoutSwitch, command_runs hs]
  refine congrArg _ (if_pos ?_)
  change (_ || !(epochNewer _ (s.layoutEpoch.get 0 h.job.toNat))) = true
  grind [State.layoutAsked, inRange_iff]

/-- Past its operands the command meets a replay, a switch of the part's own, or a lost part, or it starts. -/
theorem exec_layoutSwitch_of_asked (hs : s.serves 0x0720 2 true h c) {epoch timeout : W64} (hok : s.layoutAsked h.job epoch timeout) :
    let r := s.begin_ c
    exec (.layoutSwitch h epoch timeout) s = .next (if s.replay.runs.any fun x => x.job = h.job then r.reply (s.begun c) stBusy []
      else if (s.lpart h.job).isSome then r.reply (s.begun c) stConflict []
      else s.fab.lost.head?.elim
        (let u := r.waitCmd (s.begun c) (.layoutSwitch h.job)
         let x : LCoord := { job := h.job, epoch := epoch.setWidth 16, since := s.hubLc, timeout := timeout }
         ((u.setLayouts { s.layouts with coords := s.layouts.coords ++ [x] }).send
           (.mgmt none (.layoutPrepare h.job (epoch.setWidth 16)))).prepareLayout s.partNo h.job (epoch.setWidth 16))
        fun p => r.reply (s.begun c) stPartLost [BitVec.ofNat 64 p]) := by
  obtain ⟨h1, h2, h3, h4⟩ := hok
  change execLayoutSwitch h epoch timeout s = _
  rw [execLayoutSwitch, command_runs hs]
  have hsound : ((decide (epoch.toNat ≥ 2 ^ 16) || !(inRange timeout 1000 10000000)
      || !(epochNewer (epoch.setWidth 16) ((s.begin_ c).layoutEpoch.get 0 h.job.toNat))) = true) = False := by
    have h4' : epochNewer (epoch.setWidth 16) ((s.begin_ c).layoutEpoch.get 0 h.job.toNat) = true := h4
    have hr : inRange timeout 1000 10000000 = true := inRange_iff.mpr ⟨h2, h3⟩
    rw [decide_eq_false (by omega), hr, h4']
    exact eq_false (by decide)
  simp only [hsound, if_false]
  refine congrArg Host.Outcome.next (congrArg _ (congrArg _ ?_))
  change (match s.fab.lost with | p :: _ => _ | [] => _) = _
  cases s.fab.lost with
  | nil => rfl
  | cons p l => rfl

/-- COMMIT changes the epoch, the drop count, the switches and the graphs. -/
theorem commitLayout_frame (s : State) (job : Byte) (e : W16) : ∃ gs, s.commitLayout job e
    = { s with layoutEpoch := s.layoutEpoch.set 0 job.toNat e, graphs := gs
               layouts := { (s.leaveLayout job).layouts with drops := s.layouts.drops.set 0 job.toNat 0 } } := by
  unfold State.commitLayout
  dsimp only
  refine List.foldlRecOn (motive := fun u : State => ∃ gs, u
    = { s with layoutEpoch := s.layoutEpoch.set 0 job.toNat e, graphs := gs
               layouts := { (s.leaveLayout job).layouts with drops := s.layouts.drops.set 0 job.toNat 0 } }) _ _ ⟨s.graphs, rfl⟩ ?_
  rintro u ⟨gs, hu⟩ g -
  split
  · split
    · exact ⟨_, by rw [hu]; rfl⟩
    · exact ⟨gs, hu⟩
  · exact ⟨gs, hu⟩

/-- A part that leaves a job's switch takes part in none of the job. -/
theorem lpart_leaveLayout (s : State) (job : Byte) : (s.leaveLayout job).lpart job = none := by
  simp [State.lpart, State.leaveLayout, State.setLayouts, List.find?_filter]

theorem exec_layoutCommit_of_part {p : Fin 8192} {job : Byte} {e : W16} {w : LPart} (hw : s.lpart job = some w) :
    exec (.layoutCommit p job e) s
      = .next (if w.coord = p.val ∧ w.epoch = e ∧ p.val ≠ s.partNo then s.commitLayout job e else s) := by
  change execLayoutCommit p job e s = _
  rw [execLayoutCommit, hw]
  by_cases h : w.coord = p.val ∧ w.epoch = e ∧ p.val ≠ s.partNo
  · rw [if_pos h]
    exact if_pos (by grind)
  · rw [if_neg h]
    exact if_neg (by grind)

theorem exec_layoutAbort_of_part {p : Fin 8192} {job : Byte} {w : LPart} (hw : s.lpart job = some w) :
    exec (.layoutAbort p job) s = .next (if w.coord = p.val ∧ p.val ≠ s.partNo then s.leaveLayout job else s) := by
  change execLayoutAbort p job s = _
  rw [execLayoutAbort, hw]
  by_cases h : w.coord = p.val ∧ p.val ≠ s.partNo
  · rw [if_pos h]
    exact if_pos (by grind)
  · rw [if_neg h]
    exact if_neg (by grind)

theorem exec_layoutCommit_of_none {p : Fin 8192} {job : Byte} {e : W16} (hw : s.lpart job = none) :
    exec (.layoutCommit p job e) s = .next s := by
  change execLayoutCommit p job e s = _
  rw [execLayoutCommit, hw]

theorem exec_layoutAbort_of_none {p : Fin 8192} {job : Byte} (hw : s.lpart job = none) : exec (.layoutAbort p job) s = .next s := by
  change execLayoutAbort p job s = _
  rw [execLayoutAbort, hw]

theorem lcoord_job {job : Byte} {w : LCoord} (hw : s.lcoord job = some w) : w.job = job := by
  simpa using List.find?_some (p := fun x : LCoord => decide (x.job = job)) hw

/-- The switch a job coordinates once one of its records changes, its job kept. -/
theorem lcoord_of_map {job : Byte} {w w' : LCoord} (hw : s.lcoord job = some w) (hw' : w'.job = job) :
    (s.setLayouts { s.layouts with coords := s.layouts.coords.map fun x => if x.job = job then w' else x }).lcoord job = some w' := by
  have hfind : (s.layouts.coords.map fun x => if x.job = job then w' else x).find? (fun x => x.job = job)
      = (s.layouts.coords.find? fun x => x.job = job).map fun x => if x.job = job then w' else x := by
    rw [List.find?_map]
    congr 2
    funext x
    by_cases hx : x.job = job <;> simp [hx, hw']
  refine hfind.trans ?_
  rw [show s.layouts.coords.find? (fun x => x.job = job) = some w from hw, Option.map_some, if_pos (lcoord_job hw)]

theorem exec_layoutReady {p : Fin 8192} {job : Byte} (hm : s.member p.val = true) :
    exec (.layoutReady p job) s = .next (s.layoutReadyFrom job p.val) := by
  change execLayoutReady p job s = _
  rw [execLayoutReady, if_pos hm]

section
variable {job : Byte} {part : Nat} {w : LCoord} (hw : s.lcoord job = some w) (hnew : part ∉ w.ready)
include hw hnew

/-- READY of a part, while another one is awaited. -/
theorem layoutReadyFrom_of_waits (hmore : ∃ n ∈ s.domainParts, n ≠ part ∧ n ∉ w.ready) : s.layoutReadyFrom job part
    = s.setLayouts { s.layouts with
        coords := s.layouts.coords.map fun x => if x.job = job then { w with ready := w.ready ++ [part] } else x } := by
  obtain ⟨n, hn, hne, hnr⟩ := hmore
  have hc : w.ready.contains part = false := by simpa using hnew
  simp only [State.layoutReadyFrom, hw, hc, Bool.false_eq_true, if_false]
  rw [if_neg]
  intro hall
  have hone := List.all_eq_true.mp hall n hn
  simp [hne, hnr] at hone

/-- READY of the last part: COMMIT goes out, acts here, and the command is answered. -/
theorem layoutReadyFrom_of_last (hall : ∀ n ∈ s.domainParts, n = part ∨ n ∈ w.ready) : s.layoutReadyFrom job part
    = (((s.setLayouts { s.layouts with coords := s.layouts.coords.filter fun x => x.job ≠ job }).send
        (.mgmt none (.layoutCommit job w.epoch))).commitLayout job w.epoch).replyWaiting (.layoutSwitch job) stOk [] := by
  have hc : w.ready.contains part = false := by simpa using hnew
  simp only [State.layoutReadyFrom, hw, hc, Bool.false_eq_true, if_false]
  rw [if_pos]
  simp only [List.all_eq_true]
  intro n hn
  have := hall n hn
  simp [this.symm]
end
end

/-- Settles O46: the refusals of the command in their order, then each message by whether this part takes part in its switch. -/
theorem layoutSwitching : Obligations.LayoutSwitching := by
  unfold Obligations.LayoutSwitching
  intro h c s e job p
  dsimp only
  refine ⟨fun epoch timeout hs => ⟨fun hbad => exec_layoutSwitch_of_bad hs hbad, fun hok hruns => ?_, fun hok hruns hpart => ?_,
      fun n l hok hruns hpart hlost => ?_, fun hok hruns hpart hlost => ?_⟩, fun hs => ?_, fun hno => ?_,
    fun hp hm => ⟨fun hno => ?_, fun hsome => ?_⟩, fun hno => ?_, fun w hm hw hnew => ⟨fun hmore => ?_, fun hall => ?_⟩,
    fun w hw => ⟨fun h1 h2 h3 => ?_, fun hno => ?_, fun h1 h3 => ?_, fun hno => ?_⟩,
    fun hno => ⟨exec_layoutCommit_of_none hno, exec_layoutAbort_of_none hno⟩, ?_, fun w n hw hn => ?_, fun hno => ?_⟩
  · rw [exec_layoutSwitch_of_asked hs hok, if_pos (by simpa using hruns)]
    rfl
  · rw [exec_layoutSwitch_of_asked hs hok, if_neg (by simpa using hruns), if_pos (Option.isSome_iff_ne_none.mpr hpart)]
    rfl
  · rw [exec_layoutSwitch_of_asked hs hok, if_neg (by simpa using hruns), if_neg (by simp [hpart]), hlost]
    rfl
  · rw [exec_layoutSwitch_of_asked hs hok, if_neg (by simpa using hruns), if_neg (by simp [hpart]), hlost]
    exact ⟨_, rfl, rfl, rfl, rfl⟩
  · change execLayoutStatus h s = _
    rw [execLayoutStatus, command_runs hs]
    change Host.Outcome.next (State.reply _ _ _ [_, BitVec.ofNat 64 (match s.lpart h.job with | none => 0 | some p => if p.ready then 2 else 1), _]) = _
    cases s.lpart h.job with
    | none => rfl
    | some x => cases hx : x.ready <;> simp [hx, State.answers] <;> rfl
  · change execLayoutPrepare p job e s = _
    rw [execLayoutPrepare, if_pos (by simpa using hno)]
  · change execLayoutPrepare p job e s = _
    rw [execLayoutPrepare, if_neg (by simp [hp, hm]), hno]
    rfl
  · change execLayoutPrepare p job e s = _
    rw [execLayoutPrepare, if_neg (by simp [hp, hm]), if_pos hsome]
  · change execLayoutReady p job s = _
    rw [execLayoutReady]
    split
    · rw [State.layoutReadyFrom, hno.resolve_left (by simp [*])]
    · rfl
  · rw [exec_layoutReady hm, layoutReadyFrom_of_waits hw hnew hmore]
    refine ⟨_, rfl, rfl, rfl, ?_⟩
    exact congrArg (Option.map (·.ready)) (lcoord_of_map (w' := { w with ready := w.ready ++ [p.val] }) hw (show w.job = job from lcoord_job hw))
  · rw [exec_layoutReady hm, layoutReadyFrom_of_last hw hnew hall]
  · rw [exec_layoutCommit_of_part hw, if_pos ⟨h1, h2, h3⟩]
    obtain ⟨gs, hu⟩ := commitLayout_frame s job e
    rw [hu]
    exact ⟨_, rfl, SMap.get_set_same .., SMap.get_set_same 0 s.layouts.drops job.toNat 0, lpart_leaveLayout s job⟩
  · rw [exec_layoutCommit_of_part hw, if_neg hno]
  · rw [exec_layoutAbort_of_part hw, if_pos ⟨h1, h3⟩]
    exact ⟨_, rfl, lpart_leaveLayout s job, rfl⟩
  · rw [exec_layoutAbort_of_part hw, if_neg hno]
  · change execLayoutRefuse p job s = _
    rw [execLayoutRefuse, ← apply_ite Host.Outcome.next]
    simp only [Bool.and_eq_true]
    rfl
  · change execLayoutSwitchTimeout job s = _
    rw [execLayoutSwitchTimeout, hw]
    dsimp only
    rw [hn]
    rfl
  · change execLayoutSwitchTimeout job s = _
    rw [execLayoutSwitchTimeout, hno]
end Sys2Proof.Machine
end

section
/-! SUPPORT. The ingest's events (R399, R461 to R463, Table 15.10): what an access of a queue pair meets in turn, and what an event of
another state leaves. -/

namespace Sys2Proof.Machine

theorem records_accessFault (s : State) (h : Nat) (poison : Bool) (addr : Nat) (tags : W64) :
    s.Records (s.accessFault h poison addr tags) := by
  unfold State.accessFault
  dsimp only
  split
  · exact records_hallFault ..
  · exact records_partFault ..

section
variable {s : State} {qp : Nat} {q : Qp} {key : W32} {off : W64} {data : List Byte} {len : Nat}

/-- A queue pair receives in three of its states, while the part has power (R463). -/
def State.receives (s : State) (q : Qp) : Prop := (q.st = .rtr ∨ q.st = .rts ∨ q.st = .sqd) ∧ s.power.supply ≠ .off

/-- A region of the queue pair's job with the key holds the range (R462). -/
def State.insideRegion (s : State) (q : Qp) (key : W32) (off n : Nat) : Prop :=
  ∃ m ∈ s.fab.mrs, m.job = q.job ∧ m.key = key ∧ m.off ≤ off ∧ off + n ≤ m.off + m.len

/-- The bytes an access covers: those it brings, or those it asks for. -/
def rdmaLen (op : RdmaOp) (data : List Byte) (len : Nat) : Nat :=
  match op with
  | .write => data.length
  | .read => len

theorem exec_ingestRdmaAccess_of_none (hq : s.qp qp = none) (op : RdmaOp) :
    exec (.ingestRdmaAccess qp op key off data len) s = .next s := by
  change execIngestRdmaAccess qp op key off data len s = _
  rw [execIngestRdmaAccess.eq_def, hq]

theorem exec_ingestRdmaAccess_of_idle (hq : s.qp qp = some q) (hno : ¬ s.receives q) (op : RdmaOp) :
    exec (.ingestRdmaAccess qp op key off data len) s = .next s := by
  change execIngestRdmaAccess qp op key off data len s = _
  rw [execIngestRdmaAccess.eq_def, hq]
  exact if_pos (by grind [State.receives])

theorem exec_ingestRdmaAccess_of_receives (hq : s.qp qp = some q) (hr : s.receives q) (op : RdmaOp) :
    exec (.ingestRdmaAccess qp op key off data len) s
      = .next (if !(s.fab.mrs.any fun m => m.job = q.job && m.key = key && m.off ≤ off.toNat
            && off.toNat + rdmaLen op data len ≤ m.off + m.len) then (s.send (.rdmaError qp)).qpError q
        else if s.hbmHeld then s.setFab { s.fab with heldPkts := s.fab.heldPkts ++ [.rdma qp (op = .write) off.toNat data (rdmaLen op data len)] }
        else s.rdmaAccess qp (op = .write) off.toNat data (rdmaLen op data len)) := by
  change execIngestRdmaAccess qp op key off data len s = _
  rw [execIngestRdmaAccess.eq_def, hq]
  refine (if_neg (by grind [State.receives])).trans ?_
  simp only [apply_ite Host.Outcome.next]
  rfl

theorem exec_ingestRdmaAccess_outside (hq : s.qp qp = some q) (hr : s.receives q) {op : RdmaOp}
    (hout : ¬ s.insideRegion q key off.toNat (rdmaLen op data len)) :
    exec (.ingestRdmaAccess qp op key off data len) s = .next ((s.send (.rdmaError qp)).qpError q) := by
  rw [exec_ingestRdmaAccess_of_receives hq hr, if_pos]
  simpa [State.insideRegion, and_assoc] using hout

theorem exec_ingestRdmaAccess_inside (hq : s.qp qp = some q) (hr : s.receives q) {op : RdmaOp}
    (hin : s.insideRegion q key off.toNat (rdmaLen op data len)) :
    exec (.ingestRdmaAccess qp op key off data len) s = .next (if s.hbmHeld
      then s.setFab { s.fab with heldPkts := s.fab.heldPkts ++ [.rdma qp (op = .write) off.toNat data (rdmaLen op data len)] }
      else s.rdmaAccess qp (op = .write) off.toNat data (rdmaLen op data len)) := by
  rw [exec_ingestRdmaAccess_of_receives hq hr, if_neg]
  simpa [State.insideRegion, and_assoc] using hin

section
variable {o : Nat} (hall : ∀ p ∈ pieces (len / 65536 + 2) o len, s.mapped p.1 = true)
include hall

/-- No piece of a mapped range stops the access. -/
theorem pieces_find_unmapped : (pieces (len / 65536 + 2) o len).find? (fun p => !(s.mapped p.1)) = none := by
  rw [List.find?_eq_none]
  intro p hp
  simp [hall p hp]

theorem rdmaAccess_write : s.rdmaAccess qp true o data len = (s.poke o data).send (.rdmaAnswer qp none) := by
  rw [State.rdmaAccess]
  simp only [pieces_find_unmapped hall, if_true]

theorem rdmaAccess_read (hclean : s.poisoned o len = false) :
    s.rdmaAccess qp false o data len = s.send (.rdmaAnswer qp (some (s.mem.read o len))) := by
  rw [State.rdmaAccess]
  simp only [pieces_find_unmapped hall, hclean, Bool.false_eq_true, if_false]

theorem rdmaAccess_poison (hq : s.qp qp = some q) (hpoison : s.poisoned o len = true) : s.rdmaAccess qp false o data len
    = ((s.send (.rdmaError qp)).accessFault 4 true (s.partNo * 2 ^ 44 + s.poisonAt o len) 0).qpError q := by
  have hq' (a : Nat) : ((s.send (.rdmaError qp)).accessFault 4 true a 0).qp qp = some q := by
    rw [State.qp, (records_accessFault _ 4 true a 0).frame.2.2.2.2.2.2.2.2.2.1]
    exact hq
  rw [State.rdmaAccess]
  simp only [pieces_find_unmapped hall, hpoison, Bool.false_eq_true, if_false, if_true, hq']
end

/-- A queue pair after a change that keeps its id. -/
theorem qp_modQp (hq : s.qp qp = some q) {f : Qp → Qp} (hf : ∀ x, (f x).id = x.id) : (s.modQp qp f).qp qp = some (f q) := by
  have hid : q.id = qp := by simpa using List.find?_some (p := fun x : Qp => decide (x.id = qp)) hq
  have hfind : (s.fab.qps.map fun x => if x.id = qp then f x else x).find? (fun x => x.id = qp)
      = (s.fab.qps.find? fun x => x.id = qp).map fun x => if x.id = qp then f x else x := by
    rw [List.find?_map]
    congr 2
    funext x
    by_cases hx : x.id = qp <;> simp [hx, hf]
  refine hfind.trans ?_
  rw [show s.fab.qps.find? (fun x => x.id = qp) = some q from hq, Option.map_some, if_pos hid]

theorem exec_workRequestDone_of_none (hq : s.qp qp = none) (ok : Bool) : exec (.workRequestDone qp ok) s = .next s := by
  change execWorkRequestDone qp ok s = _
  rw [execWorkRequestDone, hq]

/-- A work request counts in the states that send, and only there (R463). -/
theorem exec_workRequestDone (hq : s.qp qp = some q) (ok : Bool) : exec (.workRequestDone qp ok) s = .next
    (if q.st = .rts ∨ q.st = .sqd then
      if ok then (s.modQp qp fun x => { x with completed := x.completed + 1 }).signalAt s.partNo q.counter 1 else s.qpError q
    else s) := by
  change execWorkRequestDone qp ok s = _
  rw [execWorkRequestDone, hq]
  by_cases h : q.st = .rts ∨ q.st = .sqd
  · rw [if_pos h, apply_ite Host.Outcome.next]
    exact if_neg (by grind)
  · rw [if_neg h]
    exact if_pos (by grind)
end

/-- Settles O45: an access passes the checks of its state, its region, the supply and memory in turn. -/
theorem ingestEvents : Obligations.IngestEvents := by
  unfold Obligations.IngestEvents
  intro s qp key off data len
  dsimp only
  refine ⟨fun hq => ⟨exec_ingestRdmaAccess_of_none hq, exec_workRequestDone_of_none hq, ?_⟩, fun q hq =>
    ⟨exec_ingestRdmaAccess_of_idle hq, fun hr => ⟨fun hout => exec_ingestRdmaAccess_outside hq hr hout,
      fun hout => exec_ingestRdmaAccess_outside hq hr hout, fun hin hheld => ?_, fun hin hheld => ?_, fun hin hheld hall => ?_,
      fun hin hheld hall hclean => ?_, fun hin hheld hall hpoison => ?_⟩, fun hst => ⟨?_, ?_⟩, fun hst ok => ?_, ?_, ?_⟩⟩
  · change execCnp qp s = _
    rw [execCnp, hq]
  · have hin : s.insideRegion q key off.toNat (rdmaLen .write data len) := hin
    rw [exec_ingestRdmaAccess_inside hq hr hin, if_pos hheld]
    rfl
  · have hin : s.insideRegion q key off.toNat (rdmaLen .read data len) := hin
    rw [exec_ingestRdmaAccess_inside hq hr hin, if_pos hheld]
    rfl
  · have hin : s.insideRegion q key off.toNat (rdmaLen .write data len) := hin
    rw [exec_ingestRdmaAccess_inside hq hr hin, if_neg (by simp [hheld])]
    exact congrArg _ (rdmaAccess_write hall)
  · have hin : s.insideRegion q key off.toNat (rdmaLen .read data len) := hin
    rw [exec_ingestRdmaAccess_inside hq hr hin, if_neg (by simp [hheld])]
    exact congrArg _ (rdmaAccess_read hall hclean)
  · have hin : s.insideRegion q key off.toNat (rdmaLen .read data len) := hin
    rw [exec_ingestRdmaAccess_inside hq hr hin, if_neg (by simp [hheld])]
    exact congrArg _ (rdmaAccess_poison hall hq hpoison)
  · rw [exec_workRequestDone hq, if_pos hst, if_pos rfl]
  · rw [exec_workRequestDone hq, if_pos hst, if_neg (by decide)]
  · rw [exec_workRequestDone hq, if_neg hst]
  · change ∃ u, execCnp qp s = .next u ∧ _
    rw [execCnp, hq]
    refine ⟨_, rfl, ?_, ?_⟩
    · rw [State.qp, (counts_count ..).records.frame.2.2.2.2.2.2.2.2.2.1]
      exact congrArg (Option.map (·.rate)) (qp_modQp (f := fun x => { x with rate := x.rate - x.rate * q.cut / 256 }) hq fun _ => rfl)
    · rw [(counts_count ..).records.frame.2.2.2.2.2.2.2.2.2.1]
      rfl
  · refine ⟨_, show execRateRecoveryTick qp s = _ from rfl, ?_, rfl⟩
    exact congrArg (Option.map (·.rate)) (qp_modQp (f := fun x => { x with rate := min 65536 (x.rate + 4096) }) hq fun _ => rfl)
end Sys2Proof.Machine
end

section
/-! SUPPORT. What a packet meets when it lands (R399, R440, R444, R449, R455): the steps every packet takes, the tag check of a request,
and then the bytes of each type. -/

namespace Sys2Proof.Machine

/-! ### Landing -/

section
variable {s : State} {p : Pkt} {ty : Byte} {k : State → State}

theorem landing_of_other (h : p.type ≠ ty ∨ s.power.supply = .off) : landing p ty s k = .next s := by
  unfold landing
  exact if_pos (by simpa using h)

section
variable (hty : p.type = ty) (hon : s.power.supply ≠ .off)
include hty hon

theorem landing_of_held (hheld : s.hbmHeld = true) :
    landing p ty s k = .next (s.setFab { s.fab with heldPkts := s.fab.heldPkts ++ [.packet p] }) := by
  unfold landing
  rw [if_neg (by simp [hty, hon]), if_pos hheld]

theorem landing_of_badHeader (hheld : s.hbmHeld = false) (hok : pktHeaderOk p = false) :
    landing p ty s k = .next (((s.landed p).portDrop p).dropPacket p) := by
  unfold landing
  rw [if_neg (by simp [hty, hon]), if_neg (by simp [hheld])]
  exact if_pos (by simp [hok])

theorem landing_of_away (hheld : s.hbmHeld = false) (hok : pktHeaderOk p = true) (hdst : p.dst.toNat % 8192 ≠ s.partNo) :
    landing p ty s k = .next ((s.landed p).transmit ((s.landed p).inputOf p) p) := by
  unfold landing
  rw [if_neg (by simp [hty, hon]), if_neg (by simp [hheld])]
  refine (if_neg (by simp [hok])).trans (if_pos ?_)
  rwa [s.landed_partNo p]

theorem landing_of_again (hheld : s.hbmHeld = false) (hok : pktHeaderOk p = true) (hdst : p.dst.toNat % 8192 = s.partNo)
    (hseen : (pktReplay p && (s.landed p).alreadySeen (p.src.toNat % 8192) p.seq) = true) :
    landing p ty s k = .next ((s.landed p).portDrop p).countDrop := by
  unfold landing
  rw [if_neg (by simp [hty, hon]), if_neg (by simp [hheld])]
  refine (if_neg (by simp [hok])).trans ((if_neg ?_).trans (if_pos hseen))
  rw [s.landed_partNo p]
  exact Classical.not_not.mpr hdst
end

theorem landing_runs (h : s.lands p ty) : landing p ty s k = .next (k (s.landed p)) := by
  obtain ⟨hty, hon, hheld, hok, hdst, hseen⟩ := h
  unfold landing
  rw [if_neg (by simp [hty, hon]), if_neg (by simp [hheld])]
  refine (if_neg (by simp [hok])).trans ((if_neg ?_).trans (if_neg (by simp [hseen])))
  rw [s.landed_partNo p]
  exact Classical.not_not.mpr hdst

/-- A request that fails the tag check is answered with the check's status (R455). -/
theorem landing_of_tagCheck {st : Byte} (h : s.lands p ty) (htag : (s.landed p).tagCheck p = some st) :
    landing p ty s (fun s => s.landRequest p k) = .next ((if st = rsStale
      then (((s.landed p).portDrop p).countDrop).count .staleTag 0 1 else s.landed p).respond (p.src.toNat % 8192) p.rid st p.tags []) := by
  rw [landing_runs h, State.landRequest, htag]

theorem landing_takes {u : State} (h : s.takes p ty u) : landing p ty s (fun s => s.landRequest p k) = .next (k u) := by
  obtain ⟨hl, htag, rfl⟩ := h
  rw [landing_runs hl, State.landRequest, htag]

theorem takes_partNo {u : State} (h : s.takes p ty u) : u.partNo = s.partNo := by
  obtain ⟨-, -, rfl⟩ := h
  exact s.landed_partNo p
end

/-- The packets that memory answers or that answer a request, with their types (Table 15.5). -/
def packetForms (p : Pkt) : List (Instr × Byte) := [(.read p, 0x01), (.write p, 0x02), (.atomic p, 0x03), (.resp p, 0x10)]

theorem exec_packetForms (p : Pkt) (s : State) : ∀ q ∈ packetForms p, ∃ k, exec q.1 s = landing p q.2 s k := by
  simp only [packetForms, List.forall_mem_cons, List.not_mem_nil, false_implies, implies_true, and_true]
  exact ⟨⟨_, show execRead p s = _ from rfl⟩, ⟨_, show execWrite p s = _ from rfl⟩, ⟨_, show execAtomic p s = _ from rfl⟩,
    ⟨_, show execResp p s = _ from rfl⟩⟩

/-- The three requests. -/
def requestForms (p : Pkt) : List (Instr × Byte) := [(.read p, 0x01), (.write p, 0x02), (.atomic p, 0x03)]

theorem exec_requestForms (p : Pkt) (s : State) :
    ∀ q ∈ requestForms p, ∃ k, exec q.1 s = landing p q.2 s fun s => s.landRequest p k := by
  simp only [requestForms, List.forall_mem_cons, List.not_mem_nil, false_implies, implies_true, and_true]
  exact ⟨⟨_, show execRead p s = _ from rfl⟩, ⟨_, show execWrite p s = _ from rfl⟩, ⟨_, show execAtomic p s = _ from rfl⟩⟩

/-! ### The requests -/

/-- The answer to a request that the address stops (R452). -/
def State.refuse (u : State) (p : Pkt) : State :=
  (u.accessFault 4 false (u.partNo * 2 ^ 44 + p.addr.toNat % 2 ^ 44) p.tags).respond (p.src.toNat % 8192) p.rid rsAddress p.tags []

/-- The answer to a READ of memory, by the state of its bytes (R452, R454). -/
def State.answerRead (u : State) (p : Pkt) : State :=
  match u.readStat (p.addr.toNat % 2 ^ 44) (32 * (p.plen.toNat % 128)) with
  | .ok => u.respond (p.src.toNat % 8192) p.rid rsOk p.tags (u.mem.read (p.addr.toNat % 2 ^ 44) (32 * (p.plen.toNat % 128)))
  | .address => u.refuse p
  | .poison => (u.accessFault 4 true (u.partNo * 2 ^ 44 + u.poisonAt (p.addr.toNat % 2 ^ 44) (32 * (p.plen.toNat % 128))) p.tags).respond
      (p.src.toNat % 8192) p.rid rsPoison p.tags []

theorem region_of_hbm {off : Nat} (h : off < 0x18000000000) : region off = .hbm := if_pos h

/-! What an atomic gives: its status, the old value, and the state (R454). -/

section
variable {u : State} {off opx : Nat} {a b : W64}

theorem atomic_of_bad (hbad : atomicOp opx (BitVec.ofNat 64 (ofLe (u.mem.read off 8))) a b = none ∨ off % 8 ≠ 0 ∨ u.mapped off = false) :
    u.atomic off opx a b = (rsAddress, 0, u) := by
  unfold State.atomic
  dsimp only
  split
  · rfl
  · exact if_pos (by grind)

section
variable {v : W64} (hnew : atomicOp opx (BitVec.ofNat 64 (ofLe (u.mem.read off 8))) a b = some v) (hal : off % 8 = 0)
  (hmap : u.mapped off = true)
include hnew hal hmap

theorem atomic_of_poison (hpo : u.poisoned off 8 = true) : u.atomic off opx a b = (rsPoison, 0, u) := by
  simp only [State.atomic, hnew]
  rw [if_neg (by grind), if_pos hpo]

theorem atomic_of_clean (hpo : u.poisoned off 8 = false) : u.atomic off opx a b
    = (rsOk, BitVec.ofNat 64 (ofLe (u.mem.read off 8)), u.poke off (leBytes 8 v.toNat)) := by
  simp only [State.atomic, hnew]
  rw [if_neg (by grind), if_neg (by simp [hpo])]
end
end

section
variable {s u : State} {p : Pkt}

section
variable (h : s.takes p 0x01 u)
include h

theorem exec_read_of_bad (hbad : ¬ (0 < 32 * (p.plen.toNat % 128) ∧ 32 * (p.plen.toNat % 128) ≤ 2048
      ∧ p.addr.toNat % 2 ^ 44 % 2048 + 32 * (p.plen.toNat % 128) ≤ 2048)) : exec (.read p) s = .next (u.refuse p) := by
  change execRead p s = _
  rw [execRead, landing_takes h]
  exact congrArg _ (if_pos (by grind [inBlock]))

section
variable (h0 : 0 < 32 * (p.plen.toNat % 128)) (h1 : 32 * (p.plen.toNat % 128) ≤ 2048)
  (h2 : p.addr.toNat % 2 ^ 44 % 2048 + 32 * (p.plen.toNat % 128) ≤ 2048)
include h0 h1 h2

/-- A sound READ of memory answers by the state of its bytes. -/
theorem exec_read_of_memory (hoff : p.addr.toNat % 2 ^ 44 < 0x18000000000) : exec (.read p) s = .next (u.answerRead p) := by
  change execRead p s = _
  rw [execRead, landing_takes h]
  refine congrArg _ ((if_neg (by grind [inBlock])).trans ?_)
  rw [region_of_hbm hoff]
  rfl

/-- A sound READ of a counter's window. -/
theorem exec_read_of_bell {i : Nat} (hi : region (p.addr.toNat % 2 ^ 44) = .bell i) : exec (.read p) s = .next
    ((if 32 * (p.plen.toNat % 128) = 32 then u.windowRead (p.addr.toNat % 2 ^ 44) else none).elim (u.refuse p)
      (u.respond (p.src.toNat % 8192) p.rid rsOk p.tags)) := by
  change execRead p s = _
  rw [execRead, landing_takes h]
  refine congrArg _ ((if_neg (by grind [inBlock])).trans ?_)
  rw [hi]
  cases (if 32 * (p.plen.toNat % 128) = 32 then u.windowRead (p.addr.toNat % 2 ^ 44) else none) with
  | none => rfl
  | some b => rfl
end
end

section
variable (h : s.takes p 0x02 u)
include h

theorem exec_write_of_bad (hbad : ¬ (0 < p.payload.length ∧ p.payload.length ≤ 32 * (p.plen.toNat % 128) ∧ p.payload.length ≤ 2048
      ∧ p.addr.toNat % 2 ^ 44 % 2048 + p.payload.length ≤ 2048)) : exec (.write p) s = .next (u.refuse p) := by
  change execWrite p s = _
  rw [execWrite, landing_takes h]
  exact congrArg _ (if_pos (by grind [inBlock]))

section
variable (h0 : 0 < p.payload.length) (h1 : p.payload.length ≤ 32 * (p.plen.toNat % 128)) (h2 : p.payload.length ≤ 2048)
  (h3 : p.addr.toNat % 2 ^ 44 % 2048 + p.payload.length ≤ 2048)
include h0 h1 h2 h3

theorem exec_write_of_memory (hoff : p.addr.toNat % 2 ^ 44 < 0x18000000000) : exec (.write p) s = .next
    (if u.writable (p.addr.toNat % 2 ^ 44) p.payload.length = true
      then (u.poke (p.addr.toNat % 2 ^ 44) p.payload).respond (p.src.toNat % 8192) p.rid rsOk p.tags [] else u.refuse p) := by
  change execWrite p s = _
  rw [execWrite, landing_takes h]
  refine congrArg _ ((if_neg (by grind [inBlock])).trans ?_)
  rw [region_of_hbm hoff]
  rfl

/-- A sound WRITE of a counter's window is a signal (R351). -/
theorem exec_write_of_bell {i : Nat} (hi : region (p.addr.toNat % 2 ^ 44) = .bell i) : exec (.write p) s = .next
    (if p.addr.toNat % 2 ^ 44 % 8 = 0 ∧ p.payload.length = 8
      then (u.signal (BitVec.ofNat 16 i) (BitVec.ofNat 64 (ofLe p.payload))).elim (u.refuse p)
        fun x => x.respond (p.src.toNat % 8192) p.rid rsOk p.tags []
      else u.refuse p) := by
  change execWrite p s = _
  rw [execWrite, landing_takes h]
  refine congrArg _ ((if_neg (by grind [inBlock])).trans ?_)
  rw [hi]
  simp only [Bool.and_eq_true, decide_eq_true_eq]
  cases u.signal (BitVec.ofNat 16 i) (BitVec.ofNat 64 (ofLe p.payload)) with
  | none => rfl
  | some x => rfl

/-- A sound WRITE of a Till's window is a command write (R304). -/
theorem exec_write_of_till {k : Nat} (hk : region (p.addr.toNat % 2 ^ 44) = .till k) : exec (.write p) s = .next
    (if tillPostAt (p.addr.toNat % 2 ^ 44) p.payload.length = false then u.refuse p
      else if u.till.queue.length < 64 then (u.tillPost { src := p.src.toNat % 8192, bytes := p.payload }).respond (p.src.toNat % 8192) p.rid rsOk p.tags []
      else u.tillPost { src := p.src.toNat % 8192, bytes := p.payload, who := .packet (p.src.toNat % 8192) p.rid p.tags }) := by
  change execWrite p s = _
  rw [execWrite, landing_takes h]
  refine congrArg _ ((if_neg (by grind [inBlock])).trans ?_)
  rw [hk]
  simp only [Bool.not_eq_true']
  rfl
end
end

section
variable (h : s.takes p 0x03 u)
include h

/-- An ATOMIC answers with the status of the operation (R454). -/
theorem exec_atomic {st : Byte} {old : W64} {v : State} (ha : u.atomic (p.addr.toNat % 2 ^ 44) p.opx.toNat
      (BitVec.ofNat 64 (leAt p.payload 0 8)) (BitVec.ofNat 64 (leAt p.payload 8 8)) = (st, old, v)) :
    exec (.atomic p) s = .next (if st = rsOk then v.respond (p.src.toNat % 8192) p.rid rsOk p.tags (leBytes 8 old.toNat)
      else (v.accessFault 4 (st = rsPoison) (v.partNo * 2 ^ 44 + p.addr.toNat % 2 ^ 44) p.tags).respond (p.src.toNat % 8192) p.rid st p.tags []) := by
  change execAtomic p s = _
  rw [execAtomic, landing_takes h]
  dsimp only
  rw [ha]

theorem exec_atomic_of_bad (hbad : atomicOp p.opx.toNat (BitVec.ofNat 64 (ofLe (u.mem.read (p.addr.toNat % 2 ^ 44) 8)))
      (BitVec.ofNat 64 (leAt p.payload 0 8)) (BitVec.ofNat 64 (leAt p.payload 8 8)) = none
      ∨ p.addr.toNat % 2 ^ 44 % 8 ≠ 0 ∨ u.mapped (p.addr.toNat % 2 ^ 44) = false) : exec (.atomic p) s = .next (u.refuse p) :=
  exec_atomic h (atomic_of_bad hbad)

theorem exec_atomic_of_sound {v : W64} (hnew : atomicOp p.opx.toNat (BitVec.ofNat 64 (ofLe (u.mem.read (p.addr.toNat % 2 ^ 44) 8)))
      (BitVec.ofNat 64 (leAt p.payload 0 8)) (BitVec.ofNat 64 (leAt p.payload 8 8)) = some v)
    (hal : p.addr.toNat % 2 ^ 44 % 8 = 0) (hmap : u.mapped (p.addr.toNat % 2 ^ 44) = true) : exec (.atomic p) s = .next
      (if u.poisoned (p.addr.toNat % 2 ^ 44) 8 = true
        then (u.accessFault 4 true (u.partNo * 2 ^ 44 + p.addr.toNat % 2 ^ 44) p.tags).respond (p.src.toNat % 8192) p.rid rsPoison p.tags []
        else (u.poke (p.addr.toNat % 2 ^ 44) (leBytes 8 v.toNat)).respond (p.src.toNat % 8192) p.rid rsOk p.tags
          (leBytes 8 (BitVec.ofNat 64 (ofLe (u.mem.read (p.addr.toNat % 2 ^ 44) 8)) : W64).toNat)) := by
  cases hpo : u.poisoned (p.addr.toNat % 2 ^ 44) 8 with
  | true => exact exec_atomic h (atomic_of_poison hnew hal hmap hpo)
  | false => exact exec_atomic h (atomic_of_clean hnew hal hmap hpo)
end

/-! ### Responses -/

theorem exec_resp_of_none (h : s.lands p 0x10) (hr : (s.landed p).req p.rid.toNat = none) :
    exec (.resp p) s = .next ((s.landed p).portDrop p).countDrop := by
  change execResp p s = _
  rw [execResp, landing_runs h, hr]

/-- A response from the part that was asked, or one whose status is already known, completes its request or has it sent again. -/
theorem exec_resp_of_some (h : s.lands p 0x10) {r : Req} (hr : (s.landed p).req p.rid.toNat = some r) :
    let q := (s.landed p).noteSeq (p.src.toNat % 8192) p.seq
    exec (.resp p) s = .next (if r.answer = none ∧ p.src ≠ r.pkt.dst then ((s.landed p).portDrop p).countDrop
      else if r.answer.getD p.opx = rsEpochAhead
        then q.setFab { q.fab with reqs := q.fab.reqs.map fun x => if x.rid = r.rid then { x with retry := true } else x }
      else q.completeReq r (r.answer.getD p.opx) p.payload) := by
  change execResp p s = _
  rw [execResp, landing_runs h, hr]
  refine congrArg _ (if_congr ?_ rfl rfl)
  simp

theorem exec_remoteTimeout_of_some {rid : W16} {r : Req} (hr : s.req rid.toNat = some r) :
    exec (.remoteTimeout rid) s = .next (s.completeReq r (r.answer.getD rsAddress) []) := by
  change execRemoteTimeout rid s = _
  rw [execRemoteTimeout, hr]

theorem exec_remoteTimeout_of_none {rid : W16} (hr : s.req rid.toNat = none) : exec (.remoteTimeout rid) s = .next s := by
  change execRemoteTimeout rid s = _
  rw [execRemoteTimeout, hr]

theorem exec_epochAheadRetry_of_none {rid : W16} (hr : s.req rid.toNat = none) : exec (.epochAheadRetry rid) s = .next s := by
  change execEpochAheadRetry rid s = _
  rw [execEpochAheadRetry, hr]

/-- EPOCH_AHEAD had the request marked; only a marked one is sent again, with a new SEQ (R456). -/
theorem exec_epochAheadRetry_of_some {rid : W16} {r : Req} (hr : s.req rid.toNat = some r) :
    let n := s.nextSeq (r.pkt.dst.toNat % 8192)
    let q := { r.pkt with seq := n.1 }
    exec (.epochAheadRetry rid) s = .next (if r.retry = false then s
      else (n.2.setFab { n.2.fab with reqs := s.fab.reqs.map fun x => if x.rid = r.rid then { x with retry := false, pkt := q } else x }).transmit 8 q) := by
  change execEpochAheadRetry rid s = _
  rw [execEpochAheadRetry, hr]
  cases hretry : r.retry with
  | false => exact if_pos (by simp [hretry])
  | true => exact if_neg (by simp [hretry])
end

/-! ### The atomics -/

theorem atomicOp_of_unlisted {n : Nat} (hn : 4 ≤ n) (old a b : W64) : atomicOp n old a b = none := by
  match n, hn with
  | n + 4, _ => rfl

/-! ### The obligation -/

section
variable (s u : State) (p : Pkt)

theorem landings_of_packetForms : ∀ q ∈ packetForms p,
    ((p.type ≠ q.2 ∨ s.power.supply = .off) → exec q.1 s = .next s)
    ∧ (p.type = q.2 → s.power.supply ≠ .off →
      (s.hbmHeld = true → exec q.1 s = .next (s.setFab { s.fab with heldPkts := s.fab.heldPkts ++ [.packet p] }))
      ∧ (s.hbmHeld = false → pktHeaderOk p = false → exec q.1 s = .next (((s.landed p).portDrop p).dropPacket p))
      ∧ (s.hbmHeld = false → pktHeaderOk p = true → p.dst.toNat % 8192 ≠ s.partNo →
        exec q.1 s = .next ((s.landed p).transmit ((s.landed p).inputOf p) p))
      ∧ (s.hbmHeld = false → pktHeaderOk p = true → p.dst.toNat % 8192 = s.partNo →
        (pktReplay p && (s.landed p).alreadySeen (p.src.toNat % 8192) p.seq) = true →
        exec q.1 s = .next ((s.landed p).portDrop p).countDrop)) := by
  intro q hq
  obtain ⟨k, hk⟩ := exec_packetForms p s q hq
  rw [hk]
  exact ⟨landing_of_other, fun hty hon => ⟨landing_of_held hty hon, landing_of_badHeader hty hon, landing_of_away hty hon,
    landing_of_again hty hon⟩⟩
end

/-- Settles O40: the steps of every landing, then each request and the response by what it names, then the four operations. -/
theorem fabricPackets : Obligations.FabricPackets := by
  unfold Obligations.FabricPackets
  refine ⟨fun s u p => ?_, fun old a b => ⟨?_, rfl, rfl, ?_, fun n hn => atomicOp_of_unlisted hn old a b⟩⟩
  · dsimp only
    refine ⟨fun i t hit => landings_of_packetForms s p (i, t) hit, fun i t st hit hl htag => ?_, fun h => ?_, fun h => ?_, fun h => ?_,
      fun hl => ⟨exec_resp_of_none hl, fun r hr => ⟨fun h1 h2 => ?_, fun h1 h2 => ?_, fun h1 h2 => ?_⟩⟩,
      fun rid => ⟨fun r hr => exec_remoteTimeout_of_some hr,
        fun hr => ⟨exec_remoteTimeout_of_none hr, exec_epochAheadRetry_of_none hr⟩, fun r hr hre => ?_, fun r hr hre => ⟨_, ?_, rfl⟩⟩⟩
    · obtain ⟨k, hk⟩ := exec_requestForms p s (i, t) hit
      exact hk.trans (landing_of_tagCheck hl htag)
    · rw [← takes_partNo h]
      refine ⟨exec_read_of_bad h, fun h0 h1 h2 => ⟨fun hoff hst => ?_, fun hoff hst => ?_, fun hoff hst => ?_,
        fun ⟨i, hi⟩ => ⟨fun b hn hb => ?_, fun hno => ?_⟩⟩⟩
      · rw [exec_read_of_memory h h0 h1 h2 hoff, State.answerRead, hst]
      · rw [exec_read_of_memory h h0 h1 h2 hoff, State.answerRead, hst]
        rfl
      · rw [exec_read_of_memory h h0 h1 h2 hoff, State.answerRead, hst]
      · rw [exec_read_of_bell h h0 h1 h2 hi, if_pos hn, hb]
        rfl
      · rw [exec_read_of_bell h h0 h1 h2 hi]
        by_cases hn : 32 * (p.plen.toNat % 128) = 32
        · rw [if_pos hn, hno.resolve_left (Classical.not_not.mpr hn)]
          rfl
        · rw [if_neg hn]
          rfl
    · rw [← takes_partNo h]
      refine ⟨exec_write_of_bad h, fun h0 h1 h2 h3 => ⟨exec_write_of_memory h h0 h1 h2 h3,
        fun i hi => ⟨fun hno => ?_, fun hal hlen => ⟨fun hnone => ?_, fun x hx => ?_⟩⟩, fun k hk => exec_write_of_till h h0 h1 h2 h3 hk⟩⟩
      · rw [exec_write_of_bell h h0 h1 h2 h3 hi, if_neg (by omega)]
        rfl
      · rw [exec_write_of_bell h h0 h1 h2 h3 hi, if_pos ⟨hal, hlen⟩, hnone]
        rfl
      · rw [exec_write_of_bell h h0 h1 h2 h3 hi, if_pos ⟨hal, hlen⟩, hx]
        rfl
    · rw [← takes_partNo h]
      exact ⟨exec_atomic_of_bad h, fun v hnew hal hmap => exec_atomic_of_sound h hnew hal hmap⟩
    · rw [exec_resp_of_some hl hr, if_pos ⟨h1, h2⟩]
    · rw [exec_resp_of_some hl hr, if_neg (fun ⟨ha, hd⟩ => h1.elim (fun h => h ha) hd), if_neg h2]
    · rw [exec_resp_of_some hl hr, if_neg (fun ⟨ha, hd⟩ => h1.elim (fun h => h ha) hd), if_pos h2]
    · rw [exec_epochAheadRetry_of_some hr, if_pos hre]
    · rw [exec_epochAheadRetry_of_some hr, if_neg (by simp [hre])]
  · exact congrArg some (BitVec.eq_of_toNat_eq (by simp))
  · simp only [atomicOp, BitVec.ult, decide_eq_true_eq]
end Sys2Proof.Machine
end

section
/-! SUPPORT. A failing host access does more than the claim says (R516, R528, R529): DMA_ERR turns on, and its message goes out, or is
kept pending where vector 0 is masked. -/

namespace Sys2Proof.Machine

/-- A part in step 2 whose rings run and whose vector 0 is not masked. -/
def runningRings : State := { startStep := 2, host := { enable := true, msix := [(0, { masked := false })] } }

/-- The host access that fails sends the message of vector 0. -/
theorem exec_hostDmaError_runningRings : (match exec .hostDmaError runningRings with
    | .next v => v.sent
    | _ => []) = [.msix 0] := by decide

/-- Refutes O17: by the claim a failing host access would change the host interface alone. -/
theorem not_bar0Writes : ¬ Obligations.Bar0Writes := by
  unfold Obligations.Bar0Writes
  rintro ⟨-, h⟩
  obtain ⟨-, -, hup, -⟩ := h runningRings
  obtain ⟨hfail, -⟩ := hup (by decide)
  obtain ⟨u, hu, hu', -⟩ := hfail rfl
  have hsent := exec_hostDmaError_runningRings
  rw [hu] at hsent
  have hkept : u.sent = [] := congrArg State.sent hu'
  exact absurd (hsent.symm.trans hkept) (by decide)
end Sys2Proof.Machine
end

section
/-! SUPPORT. The command ring (R517 to R522): when a slot is fetched, and what the rows about commands in hand answer. -/

namespace Sys2Proof.Machine

section
variable {s : State}

/-- What keeps a slot from being fetched (R516, R520). -/
theorem HostIf.mayFetch_eq_false_iff (h : HostIf) : h.mayFetch = false ↔ h.enable = false ∨ h.d3hot = true ∨ h.dmaStopped = true
    ∨ h.cmdTail = h.cmdHead ∨ h.credits = 0 ∨ h.rplSize ≤ h.used + h.reserved := by
  grind [HostIf.mayFetch]

section
variable (hrun : s.coresRun = true)
include hrun

theorem exec_commandFetch (op : W16) (hd : CmdHdr) :
    let c : Cmd := { op := op, hdr := hd, fetched := s.hubLc }
    exec (.commandFetch op hd) s = if s.host.mayFetch = false then .next s
      else if hd.seq = s.host.cmdHead then .next (s.setHost { s.host with cmdHead := s.host.cmdHead + 1, cmds := s.host.cmds ++ [c] })
      else ((s.setHost { s.host with cmdHead := s.host.cmdHead + 1 }).setErr 1).answers c 0x13 [] := by
  change execCommandFetch op hd s = _
  rw [execCommandFetch]
  by_cases hf : s.host.mayFetch = false
  · rw [if_pos hf, if_pos (by simp [hf])]
  · rw [if_neg hf, if_neg (by simpa [hrun] using hf)]
    by_cases hq : hd.seq = s.host.cmdHead
    · rw [if_pos hq]
      exact if_neg (Classical.not_not.mpr hq)
    · rw [if_neg hq]
      exact if_pos hq

/-- The command that EXPIRE ends: admitted, not started, with an EXPIRE (R519). -/
theorem exec_commandExpire_of_some {seq : W32} {d : Cmd}
    (hd : s.host.cmds.find? (fun c => c.hdr.seq = seq && c.phase = .admitted && c.hdr.expire ≠ 0) = some d) :
    exec (.commandExpire seq) s = s.answers d 0x15 [] := by
  change execCommandExpire seq s = _
  rw [execCommandExpire, hd]
  exact if_pos hrun

theorem exec_unknownOpcode_of_found {op : W16} {hd : CmdHdr} {d : Cmd} (hf : s.host.findCmd op hd = some d)
    (hop : ¬ op.toNat ∈ knownOpcodes) : exec (.unknownOpcode op hd) s = s.answers d (if s.expired d = true then 0x15 else 0x14) [] := by
  change execUnknownOpcode op hd s = _
  rw [execUnknownOpcode, hf]
  exact if_neg (by simp [hrun, hop])
end

theorem exec_commandExpire_of_none {seq : W32}
    (hd : s.host.cmds.find? (fun c => c.hdr.seq = seq && c.phase = .admitted && c.hdr.expire ≠ 0) = none) :
    exec (.commandExpire seq) s = .next s := by
  change execCommandExpire seq s = _
  rw [execCommandExpire, hd]

/-- A command that still runs takes a long place if one of the 64 is free (R522). -/
theorem exec_longCommand_of_some {seq : W32} {d : Cmd}
    (hd : s.host.cmds.find? (fun c => c.hdr.seq = seq && c.phase = .running) = some d) :
    exec (.longCommand seq) s = .next (if (s.host.cmds.filter fun c => c.phase = .long).length < 64
      then s.modCmd d fun c => { c with phase := .long } else s) := by
  have hfree : s.host.longFree > 0 ↔ (s.host.cmds.filter fun c => c.phase = .long).length < 64 := by
    rw [HostIf.longFree]
    omega
  change execLongCommand seq s = _
  rw [execLongCommand, hd, apply_ite Host.Outcome.next]
  exact if_congr hfree rfl rfl

theorem exec_longCommand_of_none {seq : W32} (hd : s.host.cmds.find? (fun c => c.hdr.seq = seq && c.phase = .running) = none) :
    exec (.longCommand seq) s = .next s := by
  change execLongCommand seq s = _
  rw [execLongCommand, hd]

theorem exec_unknownOpcode_of_other {op : W16} {hd : CmdHdr} (h : s.host.findCmd op hd = none ∨ op.toNat ∈ knownOpcodes) :
    exec (.unknownOpcode op hd) s = .next s := by
  change execUnknownOpcode op hd s = _
  rw [execUnknownOpcode]
  split
  · rfl
  next c hc => exact if_pos (by simp [h.resolve_left (by simp [hc])])

/-! ### The refusals before a command's own rules -/

section
variable {op : W16} {h : CmdHdr} {c : Cmd} (hfind : s.host.findCmd op h = some c) (hrun : s.coresRun = true)
include hfind hrun

theorem command_of_expired (hlate : s.expired c = true) (n : Nat) (j : Bool) (run : Cmd → State → State) :
    command op n j h s run = s.answers c 0x15 [] := by
  simp only [command, hfind, hrun, hlate, Bool.not_true, Bool.false_eq_true, if_false, if_true]
  rfl

theorem command_of_badHeader (hlate : s.expired c = false) (hmode : s.modeAnswer op = none) {n : Nat} {j : Bool}
    (hbad : headerBad h n j = true) (run : Cmd → State → State) : command op n j h s run = s.answers c stInvalid [] := by
  simp only [command, hfind, hrun, hlate, hmode, hbad, Bool.not_true, Bool.false_eq_true, if_false, if_true]
  rfl
end
end

/-- Settles O19: the ring's own rows, then the refusals in the order of log entry 86. -/
theorem commandRing : Obligations.CommandRing := by
  unfold Obligations.CommandRing
  refine ⟨fun op hd seq s hrun => ⟨?_, fun d hd => exec_commandExpire_of_some hrun hd, exec_commandExpire_of_none,
      fun d hd => exec_longCommand_of_some hd, exec_longCommand_of_none, fun d hf hop => exec_unknownOpcode_of_found hrun hf hop,
      exec_unknownOpcode_of_other⟩,
    fun h c s hfind hrun => ⟨fun hlate => ?_, fun hlate hlen hmode => ?_,
      fun handle d hd hlate hp => ?_, fun handle d hd hlate hp => ?_⟩⟩
  · rw [exec_commandFetch hrun]
    simp only [HostIf.mayFetch_eq_false_iff]
  · change execPing h s = _
    rw [execPing]
    exact command_of_expired hfind hrun hlate ..
  · change execPing h s = _
    rw [execPing]
    exact command_of_badHeader hfind hrun hlate hmode (by simp [headerBad, hlen]) _
  · change execGraphStatus h handle s = _
    rw [execGraphStatus]
    exact command_of_modeAnswer hd hrun hlate (by simp [State.modeAnswer, hp, family]) ..
  · change execGraphStatus h handle s = _
    rw [execGraphStatus]
    exact command_of_modeAnswer hd hrun hlate (by simp [State.modeAnswer, hp, family, stBusy]) ..
end Sys2Proof.Machine
end

section
/-! SUPPORT. The events of a link and of a port (R436, R437, R442, R443, R447, R448, R451, R457 to R459), each by whether its port is in
service. -/

namespace Sys2Proof.Machine

section
variable {s : State} {port : Fin 8}

/-! ### Ports -/

/-- A port after a change of it, where a change keeps what a missing port has. -/
theorem port_modPort_outq (s : State) (n : Nat) {f : Port → Port} (hf : ∀ x, (f x).outq = x.outq) :
    ((s.modPort n f).port n).outq = (s.port n).outq := by
  change ((s.fab.ports.modify n f).getD n {}).outq = (s.fab.ports.getD n {}).outq
  simp only [List.getD_eq_getElem?_getD, List.getElem?_modify]
  cases s.fab.ports[n]? with
  | none => rfl
  | some x => exact hf x

section
variable (hdown : s.portUp port.val = false)
include hdown

theorem exec_linkFrame_of_down (seq : W32) (flits : Fin 17) (ok : Bool) : exec (.linkFrame port seq flits ok) s = .next s := by
  change execLinkFrame port seq flits ok s = _
  rw [execLinkFrame]
  exact if_pos (by simp [hdown])

theorem exec_linkNak_of_down (seq : W32) : exec (.linkNak port seq) s = .next s := by
  change execLinkNak port seq s = _
  rw [execLinkNak]
  exact if_pos (by simp [hdown])

theorem exec_linkAckTimeout_of_down : exec (.linkAckTimeout port) s = .next s := by
  change execLinkAckTimeout port s = _
  rw [execLinkAckTimeout, if_neg (by simp [hdown])]

theorem exec_creditUpdate_of_down (pool : Bool) (vc : Fin 6) (cls : Fin 3) (count : Nat) :
    exec (.creditUpdate port pool vc cls count) s = .next s := by
  change execCreditUpdate port pool vc cls count s = _
  rw [execCreditUpdate]
  exact if_pos (by simp [hdown])

theorem exec_creditUpdateTimer_of_down : exec (.creditUpdateTimer port) s = .next s := by
  change execCreditUpdateTimer port s = _
  rw [execCreditUpdateTimer, if_neg (by simp [hdown])]

theorem exec_headAgeTimeout_of_down (vc : Fin 6) (input : Nat) : exec (.headAgeTimeout port vc input) s = .next s := by
  change execHeadAgeTimeout port vc input s = _
  rw [execHeadAgeTimeout]
  exact if_neg (by simp [hdown])

theorem exec_laneGroupLoss_of_down (rx : Bool) (g : Fin 12) : exec (.laneGroupLoss port rx g) s = .next s := by
  change execLaneGroupLoss port rx g s = _
  rw [execLaneGroupLoss]
  exact if_pos (by simp [hdown])

theorem exec_widthChangeDone_of_down (rx : Bool) : exec (.widthChangeDone port rx) s = .next s := by
  change execWidthChangeDone port rx s = _
  rw [execWidthChangeDone]
  exact if_pos (by simp [hdown])

theorem exec_portSilenceTimeout_of_down : exec (.portSilenceTimeout port) s = .next s := by
  change execPortSilenceTimeout port s = _
  rw [execPortSilenceTimeout, if_neg (by simp [hdown])]

theorem exec_depart_of_down : exec (.depart port) s = .next s := by
  change execDepart port s = _
  rw [execDepart]
  exact if_neg (by simp [hdown])

theorem exec_portFail_of_down :
    exec (.portFail port) s = .next (if (s.port port.val).st = .failed then s.turnBack port.val else s) := by
  change execPortFail port s = _
  rw [execPortFail, apply_ite Host.Outcome.next]
  exact if_neg (by simp [hdown])
end

/-! ### Links -/

theorem exec_linkFrame_of_changing (hc : (s.port port.val).rxChanging = true) (seq : W32) (flits : Fin 17) (ok : Bool) :
    exec (.linkFrame port seq flits ok) s = .next s := by
  change execLinkFrame port seq flits ok s = _
  rw [execLinkFrame]
  exact if_pos (by simp [hc])

section
variable (hup : s.portUp port.val = true)
include hup

/-- A frame of a direction that does not change width: bad, next in order, taken already, or past a missing one (R436). -/
theorem exec_linkFrame_of_up (hc : (s.port port.val).rxChanging = false) (seq : W32) (flits : Fin 17) (ok : Bool) :
    let x := s.port port.val
    exec (.linkFrame port seq flits ok) s = .next (if ok = false then s.send (.linkNak port.val x.rxSeq)
      else if seq = x.rxSeq then (s.modPort port.val fun x =>
        { x with rxSeq := x.rxSeq + 1, flitsRx := x.flitsRx + BitVec.ofNat 64 flits.val }).send (.linkAck port.val seq)
      else if (x.rxSeq - seq).toNat < 2 ^ 31 then s.send (.linkAck port.val seq)
      else s.send (.linkNak port.val x.rxSeq)) := by
  change execLinkFrame port seq flits ok s = _
  rw [execLinkFrame]
  refine (if_neg (by simp [hup, hc])).trans ?_
  simp only [apply_ite Host.Outcome.next, Bool.not_eq_true']

theorem exec_linkNak_of_up (seq : W32) : let gone := fun (q : W32) => q ≠ seq && (seq - q).toNat < 2 ^ 31
    exec (.linkNak port seq) s = .next ((s.modPort port.val fun x =>
      { x with replay := x.replay.filter (fun e => !(gone e.1)), replayPkts := x.replayPkts.filter (fun e => !(gone e.1)) }).replayLink port.val) := by
  change execLinkNak port seq s = _
  rw [execLinkNak]
  exact if_neg (by simp [hup])

theorem exec_linkAckTimeout_of_up : exec (.linkAckTimeout port) s = .next (s.replayLink port.val) := by
  change execLinkAckTimeout port s = _
  rw [execLinkAckTimeout, if_pos hup]

theorem exec_creditUpdateTimer_of_up : exec (.creditUpdateTimer port) s = .next (s.returnCredits port.val) := by
  change execCreditUpdateTimer port s = _
  rw [execCreditUpdateTimer, if_pos hup]

/-- Credits return to their reserve and then the pool, and what waits goes on (R442). -/
theorem exec_creditUpdate_of_up (pool : Bool) (vc : Fin 6) (cls : Fin 3) (count : Nat) : let k := vc.val * 3 + cls.val
    exec (.creditUpdate port pool vc cls count) s = .next (pumpPort port.val (s.port port.val).outq.length (s.modPort port.val fun y =>
      let own := if pool = true then 0 else min count (reservedFlits - y.credits.get reservedFlits k)
      { y with credits := y.credits.set reservedFlits k (y.credits.get reservedFlits k + own)
               pool := min (poolFlits port.val) (y.pool + (count - own)) })) := by
  change execCreditUpdate port pool vc cls count s = _
  rw [execCreditUpdate]
  refine (if_neg (by simp [hup])).trans ?_
  dsimp only
  rw [port_modPort_outq]
  exact fun _ => rfl

/-- The head that has waited 10 lc is served next (R443). -/
theorem exec_headAgeTimeout_of_up (vc : Fin 6) (input : Nat) : let x := s.port port.val
    exec (.headAgeTimeout port vc input) s = .next
      (if (∃ e ∈ x.outq, vcOf e.2 = vc.val ∧ e.1 = input) ∧ (vc.val, input) ∉ x.urgent
        then pumpPort port.val x.outq.length (s.modPort port.val fun x => { x with urgent := x.urgent ++ [(vc.val, input)] }) else s) := by
  change execHeadAgeTimeout port vc input s = _
  rw [execHeadAgeTimeout, apply_ite Host.Outcome.next]
  refine if_congr ?_ ?_ rfl
  · simp [hup]
  · dsimp only
    rw [port_modPort_outq]
    exact fun _ => rfl

/-! ### Lane groups and ports -/

theorem exec_laneGroupLoss_of_up (rx : Bool) (g : Fin 12) :
    let n := port.val
    let old := if rx = true then (s.port n).rx else (s.port n).tx
    let m := old &&& ~~~((1 : BitVec 12) <<< g.val)
    let t := (s.modPort n fun x => if rx = true then { x with rx := m, rxChanging := true } else { x with tx := m, txChanging := true }).partFault
      .laneGroup 6 6 (BitVec.ofNat 16 n) 0 (BitVec.ofNat 64 g.val)
    exec (.laneGroupLoss port rx g) s = .next (if old.getLsbD g.val = false then s else if groupCount m < 2 then t.declareFailed n else t) := by
  change execLaneGroupLoss port rx g s = _
  simp only [execLaneGroupLoss, hup, Bool.not_true, Bool.false_or, Bool.not_eq_true', apply_ite Host.Outcome.next]

theorem exec_widthChangeDone_rx : exec (.widthChangeDone port true) s
    = .next (if (s.port port.val).rxChanging = true then s.modPort port.val fun x => { x with rxChanging := false } else s) := by
  change execWidthChangeDone port true s = _
  rw [execWidthChangeDone, apply_ite Host.Outcome.next]
  exact (if_neg (by simp [hup])).trans (if_pos rfl)

theorem exec_widthChangeDone_tx : let t := (s.modPort port.val fun x => { x with txChanging := false }).replayLink port.val
    exec (.widthChangeDone port false) s
      = .next (if (s.port port.val).txChanging = true then pumpPort port.val (t.port port.val).outq.length t else s) := by
  change execWidthChangeDone port false s = _
  rw [execWidthChangeDone, apply_ite Host.Outcome.next]
  exact (if_neg (by simp [hup])).trans (if_neg (by decide))

theorem exec_portSilenceTimeout_of_up : exec (.portSilenceTimeout port) s = .next (s.declareFailed port.val) := by
  change execPortSilenceTimeout port s = _
  rw [execPortSilenceTimeout, if_pos hup]

theorem exec_portFail_of_up : exec (.portFail port) s = .next ((s.declareFailed port.val).turnBack port.val) := by
  change execPortFail port s = _
  rw [execPortFail]
  exact if_pos hup

theorem exec_depart_of_up : exec (.depart port) s = .next ((s.portState port.val .failed).probePartner port.val) := by
  change execDepart port s = _
  rw [execDepart]
  exact if_pos hup
end

/-! ### Partners, lost parts and the ring -/

theorem exec_partnerProbeTimeout : let n := port.val
    exec (.partnerProbeTimeout port) s = .next (if (s.port n).probing = true
      then (((s.modPort n fun x => { x with probing := false }).portState n .partnerLost).send (.mgmt none (.lostPart (s.partnerOf n)))).losePart
        (s.partnerOf n)
      else s) := by
  change execPartnerProbeTimeout port s = _
  rw [execPartnerProbeTimeout, apply_ite Host.Outcome.next]

theorem exec_partnerProbe_asked (src : Fin 8192) : exec (.partnerProbe port false src) s
    = .next (if s.power.supply ≠ .off ∧ s.pstate = 1 then s.send (.mgmt (some src.val) (.probeAnswer port.val)) else s) := by
  change execPartnerProbe port false src s = _
  rw [execPartnerProbe]
  refine (if_pos rfl).trans ?_
  by_cases h : s.power.supply ≠ .off ∧ s.pstate = 1
  · rw [if_pos h, if_neg (by grind)]
  · rw [if_neg h, if_pos (by grind)]

theorem exec_partnerProbe_answered (src : Fin 8192) : exec (.partnerProbe port true src) s
    = .next (if (s.port port.val).probing = true
      then ((s.modPort port.val fun x => { x with probing := false }).recordPort port.val).turnBack port.val else s) := by
  change execPartnerProbe port true src s = _
  rw [execPartnerProbe, apply_ite Host.Outcome.next]
  exact if_neg (by decide)

theorem exec_lostPart (part : Fin 8192) :
    exec (.lostPart part) s = .next (if s.power.supply ≠ .off ∧ s.pstate = 1 then s.losePart part.val else s) := by
  change execLostPart part s = _
  rw [execLostPart]
  by_cases h : s.power.supply ≠ .off ∧ s.pstate = 1
  · rw [if_pos h, if_neg (by grind)]
  · rw [if_neg h, if_pos (by grind)]

section
variable {axis : Fin 4} {a : Fin 8192}

theorem exec_ringState_of_off (hoff : s.power.supply = .off) (restored : Bool) : exec (.ringState axis a restored) s = .next s := by
  change execRingState axis a restored s = _
  rw [execRingState]
  exact if_pos hoff

section
variable (hon : s.power.supply ≠ .off)
include hon

theorem exec_ringState_restored : exec (.ringState axis a true) s
    = .next (s.setFab { s.fab with failedLinks := s.fab.failedLinks.filter fun l => l ≠ (axis.val, a.val) }) := by
  change execRingState axis a true s = _
  rw [execRingState]
  exact (if_neg hon).trans (if_pos rfl)

theorem exec_ringState_known (hin : (axis.val, a.val) ∈ s.fab.failedLinks) : exec (.ringState axis a false) s = .next s := by
  change execRingState axis a false s = _
  rw [execRingState]
  exact (if_neg hon).trans ((if_neg (by decide)).trans (if_pos (by simpa using hin)))

/-- A link that fails anew: what waits to cross it turns back (R448, R451). -/
theorem exec_ringState_new (hin : (axis.val, a.val) ∉ s.fab.failedLinks) :
    let crosses := fun (e : Nat × Pkt) =>
      axis.val = ([0, 1, 2, 3].find? fun ax => coordAt (e.2.dst.toNat % 8192) ax ≠ coordAt s.partNo ax).getD 4
    let moved := (s.fab.ports.flatMap (·.outq)).filter crosses
    exec (.ringState axis a false) s = .next (moved.foldl (fun u e => u.transmit e.1 e.2) (s.setFab { s.fab with
      failedLinks := s.fab.failedLinks ++ [(axis.val, a.val)]
      ports := s.fab.ports.map fun x => { x with outq := x.outq.filter fun e => !(moved.contains e) } })) := by
  change execRingState axis a false s = _
  rw [execRingState]
  exact (if_neg hon).trans ((if_neg (by decide)).trans (if_neg (by simpa using hin)))
end
end
end

/-- Settles O42: every row by whether its port is in service, or its part on. -/
theorem linkEvents : Obligations.LinkEvents := by
  unfold Obligations.LinkEvents
  refine ⟨fun s port seq flits => ⟨fun hd => ⟨exec_linkFrame_of_down hd seq flits, exec_linkNak_of_down hd seq,
      exec_linkAckTimeout_of_down hd, exec_creditUpdate_of_down hd, exec_creditUpdateTimer_of_down hd, exec_headAgeTimeout_of_down hd⟩,
      fun hu => ⟨fun hc => exec_linkFrame_of_changing hc seq flits, fun hc => ⟨?_, fun h1 => ?_, fun h1 h2 => ?_, fun h1 h2 => ?_⟩,
        exec_linkNak_of_up hu seq, exec_linkAckTimeout_of_up hu, exec_creditUpdate_of_up hu, exec_creditUpdateTimer_of_up hu,
        fun vc input => ⟨fun h => ?_, fun h => ?_⟩⟩⟩,
    fun s port => ⟨fun hd => ⟨exec_laneGroupLoss_of_down hd, exec_widthChangeDone_of_down hd, exec_portSilenceTimeout_of_down hd,
        exec_depart_of_down hd, exec_portFail_of_down hd⟩,
      fun hu => ⟨exec_laneGroupLoss_of_up hu, exec_widthChangeDone_rx hu, exec_widthChangeDone_tx hu, exec_portSilenceTimeout_of_up hu,
        exec_portFail_of_up hu, exec_depart_of_up hu⟩,
      exec_partnerProbeTimeout, exec_partnerProbe_asked, exec_partnerProbe_answered, exec_lostPart,
      fun axis a => ⟨exec_ringState_of_off, fun hon => ⟨exec_ringState_restored hon, exec_ringState_known hon, exec_ringState_new hon⟩⟩⟩⟩
  · rw [exec_linkFrame_of_up hu hc, if_pos rfl]
  · rw [exec_linkFrame_of_up hu hc, if_neg (by decide), if_pos h1]
  · rw [exec_linkFrame_of_up hu hc, if_neg (by decide), if_neg h1, if_pos h2]
  · rw [exec_linkFrame_of_up hu hc, if_neg (by decide), if_neg h1, if_neg (by omega)]
  · rw [exec_headAgeTimeout_of_up hu, if_pos h]
  · rw [exec_headAgeTimeout_of_up hu, if_neg h]
end Sys2Proof.Machine
end

section
/-! SUPPORT. What the commands share: the header of a command in hand, bulk answers, and a job's memory as a command reads and writes
it (R452, R510, R521, R532). -/

namespace Sys2Proof.Machine

section
variable {s : State} {op : W16} {n : Nat} {j : Bool} {h : CmdHdr} {c : Cmd}

theorem findCmd_hdr (hf : s.host.findCmd op h = some c) : c.hdr = h := by
  have := List.find?_some hf
  grind

@[simp] theorem Cmd.begun_hdr (c : Cmd) (now : W64) : (c.begun now).hdr = c.hdr := by
  unfold Cmd.begun
  split
  · rfl
  · rfl

/-- A started command keeps its header. -/
theorem begun_hdr (hs : s.serves op n j h c) : (s.begun c).hdr = h := by
  rw [State.begun, Cmd.begun_hdr, findCmd_hdr hs.1]

/-- What a command returns in bulk, where bulk is long enough (R532). -/
theorem replyBulk_of_serves (hs : s.serves op n j h c) (u : State) (bytes : List Byte) (results : List W64) :
    Host.Outcome.next (u.replyBulk (s.begun c) bytes results) = if bytes.length ≤ h.bulkLen.toNat
      then (u.bulkOut (s.begun c) bytes).answers (s.begun c) stOk results else u.answers (s.begun c) stInvalid [] := by
  rw [State.replyBulk, begun_hdr hs]
  by_cases hb : bytes.length ≤ h.bulkLen.toNat
  · rw [if_pos hb, if_neg (by omega)]
    rfl
  · rw [if_neg hb, if_pos (by omega)]
    rfl
end

/-! ### Bytes in a job's space -/

section
variable {s u : State} {c : Cmd} {job : Byte} {va : Nat} {bytes : List Byte} {rs : List W64}

theorem cmdWrite_local (hv : s.vwrite job va bytes = .ok (u, [])) : s.cmdWrite c job va bytes rs = u.reply c stOk rs := by
  rw [State.cmdWrite, hv]
  rfl

theorem cmdWrite_away {x : Nat × List Byte} {xs : List (Nat × List Byte)} (hv : s.vwrite job va bytes = .ok (u, x :: xs)) :
    s.cmdWrite c job va bytes rs = (u.remoteWrites (.cmd c.hdr.seq) 0 false (x :: xs)).waitCmd c (.acks rs) := by
  rw [State.cmdWrite, hv]
  rfl

theorem cmdWrite_err {a : Nat} {f : Bool} (hv : s.vwrite job va bytes = .err a f) :
    s.cmdWrite c job va bytes rs = (s.accessFault 4 f a 0).reply c stAddress [] := by
  rw [State.cmdWrite, hv]

theorem cmdWrite_fault {k v lo sz : Nat} (hv : s.vwrite job va bytes = .fault k v lo sz) :
    s.cmdWrite c job va bytes rs = s.reply c stAddress [] := by
  rw [State.cmdWrite, hv]

variable {n : Nat} {k : List Byte → State → State}

theorem cmdRead_ok {bs : List Byte} (hv : s.hubRead job va n = .ok bs) : s.cmdRead c job va n k = k bs (s.dropHub job) := by
  rw [State.cmdRead, State.cmdPeek, hv]

theorem cmdRead_err {a : Nat} {f : Bool} (hv : s.hubRead job va n = .err a f) :
    s.cmdRead c job va n k = ((s.dropHub job).accessFault 4 f a 0).reply c stAddress [] := by
  rw [State.cmdRead, State.cmdPeek, hv]

theorem cmdRead_fault {i v lo sz : Nat} (hv : s.hubRead job va n = .fault i v lo sz) :
    s.cmdRead c job va n k = (s.dropHub job).reply c stAddress [] := by
  rw [State.cmdRead, State.cmdPeek, hv]

theorem cmdRead_remote {v pa len : Nat} (hv : s.hubRead job va n = .remote v pa len) :
    s.cmdRead c job va n k = (s.parkCmd c).hubFetch job v pa len := by
  rw [State.cmdRead, State.cmdPeek, hv]
end

/-! ### Little-endian fields -/

theorem ofLe_leBytes (n : Nat) : ∀ x, x < 2 ^ (8 * n) → ofLe (leBytes n x) = x := by
  induction n with
  | zero =>
    intro x hx
    simp only [Nat.mul_zero, Nat.pow_zero, Nat.lt_one_iff] at hx
    rw [hx]
    rfl
  | succ n ih =>
    intro x hx
    have hdiv : x / 256 < 2 ^ (8 * n) := by
      rw [Nat.div_lt_iff_lt_mul (by decide)]
      rwa [Nat.mul_succ, Nat.pow_add] at hx
    rw [leBytes, ofLe, ih _ hdiv, BitVec.toNat_ofNat]
    omega

/-- A field of eight bytes behind `pre` reads back. -/
theorem leAt_word (pre post : List Byte) (x : W64) : leAt (pre ++ leBytes 8 x.toNat ++ post) pre.length 8 = x.toNat := by
  rw [leAt, List.append_assoc, List.drop_left, List.take_left' (length_leBytes 8 _), ofLe_leBytes 8 _ x.isLt]
end Sys2Proof.Machine
end

section
/-! SUPPORT. The fabric and ingest commands (R437, R451, R454, R462, R463, Table 15.11): the answers of each in the order of its checks. -/

namespace Sys2Proof.Machine

section
variable {s : State} {h : CmdHdr} {c : Cmd}

/-! ### Ports -/

theorem exec_fabPortStatus (hs : s.serves 0x0701 2 true h c) (port va : W64) : exec (.fabPortStatus h port va) s
    = .next (if port.toNat ≤ 7 then (s.begin_ c).cmdWrite (s.begun c) h.job va.toNat ((s.begin_ c).portBytes port.toNat) []
      else (s.begin_ c).reply (s.begun c) stInvalid []) := by
  change execFabPortStatus h port va s = _
  rw [execFabPortStatus, command_runs hs]
  simp only [inRange_iff, Nat.zero_le, true_and]

/-- A port in service takes its groups and replays; another one opens, and the ring hears of a link that had failed (R437, R451). -/
def State.retrain (r : State) (n : Nat) (m : BitVec 12) : State :=
  if (r.port n).st = .inService then (r.modPort n fun x => { x with tx := m, rx := m }).replayLink n
  else
    let t := (r.openPort n m).setFab { (r.openPort n m).fab with failedLinks := r.fab.failedLinks.filter fun l => l ≠ r.linkOf n }
    let t := if r.linkOf n ∈ r.fab.failedLinks
      then (t.ringOf (r.linkOf n).1).foldl (fun u p => u.send (.mgmt (some p) (.ringState (Fin.ofNat 4 (r.linkOf n).1) (r.linkOf n).2 true))) t else t
    pumpPort n (t.port n).outq.length t

theorem exec_fabPortRetrain (hs : s.serves 0x0702 1 false h c) (port : W64) (groups : BitVec 16) :
    let r := s.begin_ c
    let n := port.toNat
    let m : BitVec 12 := groups.setWidth 12 &&& portGroups n
    exec (.fabPortRetrain h port groups) s = .next (if 7 < n then r.reply (s.begun c) stInvalid []
      else if (s.port n).txChanging = true ∨ (s.port n).rxChanging = true then r.reply (s.begun c) stBusy []
      else if groupCount m < 2 ∨ s.axisSize (portAxis n) = 1 then r.reply (s.begun c) 0x0F []
      else (r.retrain n m).reply (s.begun c) stOk [BitVec.ofNat 64 (groupCount m)]) := by
  change execFabPortRetrain h port groups s = _
  rw [execFabPortRetrain, command_runs hs]
  refine congrArg _ (if_congr (by grind [inRange_iff]) rfl (if_congr (by simp; rfl) rfl (if_congr (by simp; rfl) rfl ?_)))
  simp only [State.retrain, List.contains_iff_mem]
  exact (apply_ite (fun u : State => u.reply (s.begun c) stOk _) _ _ _).symm

/-! ### FAB_ATOMIC -/

/-- The answer to an atomic on this part, by the status of the operation. -/
def State.answerAtomic (b : Cmd) (addr : W64) (x : Byte × W64 × State) : State :=
  if x.1 = rsOk then x.2.2.reply b stOk [x.2.1] else (x.2.2.accessFault 4 (x.1 = rsPoison) addr.toNat 0).reply b (replyStatus x.1) []

/-- The packet that FAB_ATOMIC sends to the part of its word (R454). -/
def atomicPacket (addr opx a b : W64) : Pkt :=
  { type := 0x03, ctrl := 0, dst := BitVec.ofNat 16 (addr.toNat / 2 ^ 44), src := 0, plen := 1, addr := BitVec.ofNat 64 (addr.toNat % 2 ^ 44)
    opx := bits opx 0 8, payload := leBytes 8 a.toNat ++ leBytes 8 b.toNat ++ List.replicate 16 0 }

theorem atomicPacket_operands (addr opx a b : W64) :
    leAt (atomicPacket addr opx a b).payload 0 8 = a.toNat ∧ leAt (atomicPacket addr opx a b).payload 8 8 = b.toNat := by
  have ha := leAt_word [] (leBytes 8 b.toNat ++ List.replicate 16 0) a
  have hb := leAt_word (leBytes 8 a.toNat) (List.replicate 16 0) b
  rw [length_leBytes] at hb
  rw [List.nil_append, ← List.append_assoc] at ha
  exact ⟨ha, hb⟩

theorem exec_fabAtomic (hs : s.serves 0x0710 4 false h c) (addr opx a w : W64) :
    let r := s.begin_ c
    let part := addr.toNat / 2 ^ 44
    exec (.fabAtomic h addr opx a w) s = .next (if 255 < opx.toNat then r.reply (s.begun c) stInvalid []
      else if s.member part = false then (r.accessFault 4 false addr.toNat 0).reply (s.begun c) stAddress []
      else if part = s.partNo then State.answerAtomic (s.begun c) addr (r.atomic (addr.toNat % 2 ^ 44) opx.toNat a w)
      else (r.waitCmd (s.begun c) .atomic).request (atomicPacket addr opx a w) (.cmd h.seq)) := by
  change execFabAtomic h addr opx a w s = _
  rw [execFabAtomic, command_runs hs]
  exact congrArg _ (if_congr (by grind [inRange_iff]) rfl (if_congr (by rw [Bool.not_eq_true']; rfl) rfl (if_congr Iff.rfl rfl rfl)))

theorem member_lt {n : Nat} (hm : s.member n = true) : n < 8192 := by
  simp only [State.member] at hm
  grind

theorem atomicOp_isSome {n : Nat} (hn : n ≤ 3) (old a b : W64) : ∃ x, atomicOp n old a b = some x := by
  obtain rfl | rfl | rfl | rfl : n = 0 ∨ n = 1 ∨ n = 2 ∨ n = 3 := by omega
  · exact ⟨_, rfl⟩
  · exact ⟨_, rfl⟩
  · exact ⟨_, rfl⟩
  · exact ⟨_, rfl⟩

section
variable (hs : s.serves 0x0710 4 false h c) {addr opx a w : W64} (hopx : opx.toNat ≤ 255)
  (hm : s.member (addr.toNat / 2 ^ 44) = true)
include hs hopx hm

theorem exec_fabAtomic_away (haway : addr.toNat / 2 ^ 44 ≠ s.partNo) : exec (.fabAtomic h addr opx a w) s
    = .next (((s.begin_ c).waitCmd (s.begun c) .atomic).request (atomicPacket addr opx a w) (.cmd h.seq)) := by
  rw [exec_fabAtomic hs, if_neg (by omega), if_neg (by rw [hm]; decide), if_neg haway]

/-- On this part the outcome of the operation is the answer. -/
theorem exec_fabAtomic_here (hhere : addr.toNat / 2 ^ 44 = s.partNo) {x : Byte × W64 × State}
    (hx : (s.begin_ c).atomic (addr.toNat % 2 ^ 44) opx.toNat a w = x) :
    exec (.fabAtomic h addr opx a w) s = .next (State.answerAtomic (s.begun c) addr x) := by
  rw [exec_fabAtomic hs, if_neg (by omega), if_neg (by rw [hm]; decide), if_pos hhere, hx]
end

/-! ### Regions -/

theorem exec_ingestMrReg (hs : s.serves 0x0740 3 true h c) (off len key : W64) :
    let r := s.begin_ c
    let o := off.toNat
    let n := len.toNat
    let t := r.setFab { r.fab with
      mrs := s.fab.mrs ++ [{ id := s.fab.nextMr, job := h.job, off := o, len := n, key := bits key 0 32 }], nextMr := s.fab.nextMr + 1 }
    exec (.ingestMrReg h off len key) s
      = .next (if ¬ (0 < n ∧ n % 65536 = 0 ∧ s.hbmRange o n = true ∧ key.toNat ≤ 0xFFFFFFFF) then r.reply (s.begun c) stInvalid []
      else if 4096 ≤ s.fab.mrs.length then r.reply (s.begun c) stBusy []
      else if ∃ m ∈ s.fab.mrs, m.off < o + n ∧ o < m.off + m.len then r.reply (s.begun c) stConflict []
      else (t.claim { kind := .mrRange, index := s.fab.nextMr, job := h.job, opcode := 0x0740 }).reply (s.begun c) stOk
        [BitVec.ofNat 64 s.fab.nextMr]) := by
  have hrange : (s.begin_ c).hbmRange off.toNat len.toNat = s.hbmRange off.toNat len.toNat := rfl
  change execIngestMrReg h off len key s = _
  rw [execIngestMrReg, command_runs hs]
  exact congrArg _ (if_congr (by grind [inRange_iff]) rfl (if_congr Iff.rfl rfl (if_congr (by simp; rfl) rfl rfl)))

theorem exec_ingestMrClear_of_none (hs : s.serves 0x0741 1 false h c) {region : W64}
    (hm : s.fab.mrs.find? (fun m => m.id = region.toNat) = none) :
    exec (.ingestMrClear h region) s = (s.begin_ c).answers (s.begun c) stNotFound [] := by
  have hm' : (s.begin_ c).fab.mrs.find? (fun m => m.id = region.toNat) = none := hm
  change execIngestMrClear h region s = _
  simp only [execIngestMrClear, command_runs hs, hm']
  rfl

theorem exec_ingestMrClear_of_some (hs : s.serves 0x0741 1 false h c) {region : W64} {m : Mr}
    (hm : s.fab.mrs.find? (fun m => m.id = region.toNat) = some m) :
    let r := s.begin_ c
    exec (.ingestMrClear h region) s = .next (if s.mrUsed m = true then r.reply (s.begun c) stBusy []
      else ((r.setFab { r.fab with mrs := s.fab.mrs.filter fun x => x.id ≠ m.id }).unclaim fun x =>
        x.kind = .mrRange && x.index = m.id).reply (s.begun c) stOk []) := by
  have hm' : (s.begin_ c).fab.mrs.find? (fun m => m.id = region.toNat) = some m := hm
  change execIngestMrClear h region s = _
  simp only [execIngestMrClear, command_runs hs, hm']
  rfl

/-! ### Queue pairs -/

/-- The operands of INGEST_QP_CREATE that are in range. -/
def State.qpAsked (s : State) (port ring depth counter : W64) : Prop :=
  port.toNat ≤ 1 ∧ region ring.toNat = .hbm ∧ s.mapped ring.toNat = true ∧ 16 ≤ depth.toNat ∧ depth.toNat ≤ 65536 ∧ counter.toNat ≤ 65535

section
variable (hs : s.serves 0x0742 4 true h c) {port ring depth counter : W64}
include hs

theorem exec_ingestQpCreate_of_bad (hbad : ¬ s.qpAsked port ring depth counter) :
    exec (.ingestQpCreate h port ring depth counter) s = (s.begin_ c).answers (s.begun c) stInvalid [] := by
  have hmap : (s.begin_ c).mapped ring.toNat = s.mapped ring.toNat := rfl
  change execIngestQpCreate h port ring depth counter s = _
  rw [execIngestQpCreate, command_runs hs, if_pos (by grind [inRange_iff, State.qpAsked])]
  rfl

section
variable (hok : s.qpAsked port ring depth counter)
include hok

theorem exec_ingestQpCreate_of_full (hfull : (List.range 1024).find? (fun i => (s.qp i).isNone) = none) :
    exec (.ingestQpCreate h port ring depth counter) s = (s.begin_ c).answers (s.begun c) stBusy [] := by
  have hmap : (s.begin_ c).mapped ring.toNat = s.mapped ring.toNat := rfl
  have hfull' : (List.range 1024).find? (fun i => ((s.begin_ c).qp i).isNone) = none := hfull
  change execIngestQpCreate h port ring depth counter s = _
  simp only [execIngestQpCreate, command_runs hs, hfull']
  rw [if_neg (by grind [inRange_iff, State.qpAsked])]
  rfl

theorem exec_ingestQpCreate_of_free {id : Nat} (hfree : (List.range 1024).find? (fun i => (s.qp i).isNone) = some id) :
    let r := s.begin_ c
    exec (.ingestQpCreate h port ring depth counter) s = (r.setFab { r.fab with qps := r.fab.qps ++
      [{ id := id, job := h.job, port := port.toNat, ring := ring, depth := depth.toNat, counter := bits counter 0 16 }] }).answers
        (s.begun c) stOk [BitVec.ofNat 64 id] := by
  have hmap : (s.begin_ c).mapped ring.toNat = s.mapped ring.toNat := rfl
  have hfree' : (List.range 1024).find? (fun i => ((s.begin_ c).qp i).isNone) = some id := hfree
  change execIngestQpCreate h port ring depth counter s = _
  simp only [execIngestQpCreate, command_runs hs, hfree']
  rw [if_neg (by grind [inRange_iff, State.qpAsked])]
  rfl
end
end

section
variable (hs : s.serves 0x0743 6 false h c) {qp state raddr rqp mtu cut : W64}
include hs

theorem exec_ingestQpModify_of_none (hq : s.qp qp.toNat = none) :
    exec (.ingestQpModify h qp state raddr rqp mtu cut) s = (s.begin_ c).answers (s.begun c) stNotFound [] := by
  have hq' : (s.begin_ c).qp qp.toNat = none := hq
  change execIngestQpModify h qp state raddr rqp mtu cut s = _
  simp only [execIngestQpModify, command_runs hs, hq']
  rfl

section
variable {q : Qp} (hq : s.qp qp.toNat = some q)
include hq

theorem exec_ingestQpModify_of_unknown (hst : qpStateOf state = none) :
    exec (.ingestQpModify h qp state raddr rqp mtu cut) s = (s.begin_ c).answers (s.begun c) stInvalid [] := by
  have hq' : (s.begin_ c).qp qp.toNat = some q := hq
  change execIngestQpModify h qp state raddr rqp mtu cut s = _
  simp only [execIngestQpModify, command_runs hs, hq', hst]
  rfl

/-- A queue pair moves by the transitions of RoCE v2 (R463). -/
theorem exec_ingestQpModify_of_known {st : QpState} (hst : qpStateOf state = some st) :
    let r := s.begin_ c
    exec (.ingestQpModify h qp state raddr rqp mtu cut) s = .next
      (if qpMayMove q.st st = true ∧ rqp.toNat ≤ 0xFFFFFF ∧ (mtu = 1024 ∨ mtu = 2048 ∨ mtu = 4096) ∧ 1 ≤ cut.toNat ∧ cut.toNat ≤ 128
        then (r.modQp q.id fun x => { x with
          st := st, raddr := raddr, rqp := rqp, mtu := mtu.toNat, cut := cut.toNat, rate := if st = .reset then 65536 else x.rate
          completed := if st = .reset then 0 else x.completed }).reply (s.begun c) stOk []
        else r.reply (s.begun c) stInvalid []) := by
  have hq' : (s.begin_ c).qp qp.toNat = some q := hq
  change execIngestQpModify h qp state raddr rqp mtu cut s = _
  simp only [execIngestQpModify, command_runs hs, hq', hst]
  split
  next hbad => rw [if_neg (by grind [inRange_iff])]
  next hok => rw [if_pos (by grind [inRange_iff])]
end
end

theorem qp_id {qp : Nat} {q : Qp} (hq : s.qp qp = some q) : q.id = qp := by
  simpa using List.find?_some (p := fun x : Qp => decide (x.id = qp)) hq

section
variable (hs : s.serves 0x0744 1 false h c) {qp : W64}
include hs

theorem exec_ingestQpClear_of_none (hq : s.qp qp.toNat = none) :
    exec (.ingestQpClear h qp) s = (s.begin_ c).answers (s.begun c) stNotFound [] := by
  have hq' : (s.begin_ c).qp qp.toNat = none := hq
  change execIngestQpClear h qp s = _
  simp only [execIngestQpClear, command_runs hs, hq']
  rfl

theorem exec_ingestQpClear_of_some {q : Qp} (hq : s.qp qp.toNat = some q) : exec (.ingestQpClear h qp) s
    = ((s.begin_ c).setFab { (s.begin_ c).fab with qps := s.fab.qps.filter fun x => x.id ≠ q.id }).answers (s.begun c) stOk [] := by
  have hq' : (s.begin_ c).qp qp.toNat = some q := hq
  change execIngestQpClear h qp s = _
  simp only [execIngestQpClear, command_runs hs, hq']
  rfl
end
end

/-- Settles O44: each command by its checks in order, and past them its effect. -/
theorem fabricCommands : Obligations.FabricCommands := by
  unfold Obligations.FabricCommands
  refine ⟨fun h c s v w => ?_, fun h c s v w x y => ?_⟩
  · dsimp only
    refine ⟨fun hs => ⟨fun hbad => ?_, fun hok => ⟨?_, fun u hu => ?_, fun u x xs hu => ?_, fun a f ha => ?_⟩⟩,
      fun groups hs => ⟨fun h1 => ?_, fun h1 h2 => ?_, fun h1 h2 h3 => ?_, fun h1 h2 h3 h4 => ?_, fun h1 h2 h3 h4 => ?_⟩,
      fun opx a hs => ⟨fun hbad => ?_, fun h1 h2 => ?_, fun h1 h2 h3 => ?_, fun h1 h2 h3 => ⟨fun hbad => ?_, fun h4 h5 h6 h7 => ?_,
        fun h4 h5 h6 h7 => ?_⟩⟩⟩
    · rw [exec_fabPortStatus hs, if_neg (by omega)]
      rfl
    · rw [exec_fabPortStatus hs]
      exact ⟨_, rfl⟩
    · rw [exec_fabPortStatus hs, if_pos hok, cmdWrite_local hu]
      rfl
    · rw [exec_fabPortStatus hs, if_pos hok, cmdWrite_away hu, begun_hdr hs]
    · rw [exec_fabPortStatus hs, if_pos hok, cmdWrite_err ha]
      rfl
    · rw [exec_fabPortRetrain hs, if_pos h1]
      rfl
    · rw [exec_fabPortRetrain hs, if_neg (by omega), if_pos h2]
      rfl
    · rw [exec_fabPortRetrain hs, if_neg (by omega), if_neg h2, if_pos h3]
      rfl
    · rw [exec_fabPortRetrain hs, if_neg (by omega), if_neg h2, if_neg h3, State.retrain]
      exact congrArg (fun u : State => Host.Outcome.next (u.reply (s.begun c) stOk _)) (if_pos h4)
    · rw [exec_fabPortRetrain hs, if_neg (by omega), if_neg h2, if_neg h3, State.retrain]
      exact congrArg (fun u : State => Host.Outcome.next (u.reply (s.begun c) stOk _)) (if_neg h4)
    · rw [exec_fabAtomic hs, if_pos hbad]
      rfl
    · rw [exec_fabAtomic hs, if_neg (by omega), if_pos h2]
      rfl
    · refine ⟨_, exec_fabAtomic_away hs h1 h2 h3, rfl, ?_, ?_, rfl, atomicPacket_operands v opx a w⟩
      · have := member_lt h2
        simp only [atomicPacket, BitVec.toNat_ofNat]
        omega
      · simp only [atomicPacket, BitVec.toNat_ofNat]
        omega
    · have hbad' : atomicOp opx.toNat (BitVec.ofNat 64 (ofLe ((s.begin_ c).mem.read (v.toNat % 2 ^ 44) 8))) a w = none
          ∨ v.toNat % 2 ^ 44 % 8 ≠ 0 ∨ (s.begin_ c).mapped (v.toNat % 2 ^ 44) = false :=
        hbad.imp_left fun h => atomicOp_of_unlisted (by omega) _ _ _
      rw [exec_fabAtomic_here hs h1 h2 h3 (atomic_of_bad hbad')]
      rfl
    · obtain ⟨z, hz⟩ := atomicOp_isSome h4 (BitVec.ofNat 64 (ofLe ((s.begin_ c).mem.read (v.toNat % 2 ^ 44) 8))) a w
      rw [exec_fabAtomic_here hs h1 h2 h3 (atomic_of_poison hz h5 h6 h7)]
      rfl
    · obtain ⟨z, hz⟩ := atomicOp_isSome h4 (BitVec.ofNat 64 (ofLe ((s.begin_ c).mem.read (v.toNat % 2 ^ 44) 8))) a w
      refine ⟨z, hz, ?_⟩
      rw [exec_fabAtomic_here hs h1 h2 h3 (atomic_of_clean hz h5 h6 h7)]
      rfl
  · dsimp only
    refine ⟨fun hs => ⟨fun hbad => ?_, fun hok h1 => ?_, fun hok h1 h2 => ?_, fun hok h1 h2 => ?_⟩,
      fun hs => ⟨exec_ingestMrClear_of_none hs, fun m hm => ⟨fun hu => ?_, fun hu => ?_⟩⟩,
      fun hs => ⟨exec_ingestQpCreate_of_bad hs, exec_ingestQpCreate_of_full hs, fun id hok hfree => exec_ingestQpCreate_of_free hs hok hfree⟩,
      fun state mtu cut hs => ⟨exec_ingestQpModify_of_none hs, fun q hq => ⟨exec_ingestQpModify_of_unknown hs hq, fun st hst =>
        ⟨fun hno => ?_, fun hmay hfits => ?_⟩⟩⟩,
      fun hs => ⟨exec_ingestQpClear_of_none hs, fun q hq => ⟨_, exec_ingestQpClear_of_some hs hq, ?_⟩⟩⟩
    · rw [exec_ingestMrReg hs, if_pos hbad]
      rfl
    · rw [exec_ingestMrReg hs, if_neg (Classical.not_not.mpr hok), if_pos h1]
      rfl
    · rw [exec_ingestMrReg hs, if_neg (Classical.not_not.mpr hok), if_neg (by omega), if_pos h2]
      rfl
    · rw [exec_ingestMrReg hs, if_neg (Classical.not_not.mpr hok), if_neg (by omega), if_neg h2]
      exact ⟨_, rfl, rfl, rfl⟩
    · rw [exec_ingestMrClear_of_some hs hm, if_pos hu]
      rfl
    · rw [exec_ingestMrClear_of_some hs hm, if_neg (by simp [hu])]
      exact ⟨_, rfl, rfl⟩
    · rw [exec_ingestQpModify_of_known hs hq hst, if_neg hno]
      rfl
    · rw [exec_ingestQpModify_of_known hs hq hst, if_pos ⟨hmay, hfits⟩, qp_id hq]
      refine ⟨_, rfl, ?_⟩
      rw [qp_modQp (s := s.begin_ c) hq]
      · rfl
      · exact fun _ => rfl
    · change (s.fab.qps.filter fun x => x.id ≠ q.id).find? _ = none
      rw [qp_id hq]
      simp [List.find?_filter]
end Sys2Proof.Machine
end

section
/-! SUPPORT. The graph commands (R44, R47, R77, R87, R88): a submission by what its header's address and bytes give, the others by the
state of their graph. -/

namespace Sys2Proof.Machine

section
variable {s : State} {h : CmdHdr} {c : Cmd}

/-! ### GRAPH_SUBMIT -/

/-- The graph that a sound header starts (R44). -/
def submittedGraph (va : W64) (bs : List Byte) : Graph :=
  { hdr := GraphHdr.parse bs, headerVa := va, recs := [], tasks := [], roots := [], step := (GraphHdr.parse bs).stepFirst }

/-- A header that has been read: it is refused, meets another sync master, or starts the graph. -/
def State.submitHeader (q : State) (b : Cmd) (job : Byte) (va : W64) (g : Nat) (bs : List Byte) : State :=
  if hdrBad bs job then q.reply b stInvalid []
  else
    let wants := (GraphHdr.parse bs).syncMode ≠ 0 && (GraphHdr.parse bs).syncMaster
    if wants && q.host.claimed .syncIn 0 then q.reply b stConflict []
    else
      let t := if wants then q.claim { kind := .syncIn, index := 0, job := job, opcode := 0x0401, graph := some g } else q
      ((t.setGraph g (some (submittedGraph va bs))).reply b stOk [BitVec.ofNat 64 g]).loadGraph g

/-- A submission once the read of its header has ended, one way or another. -/
def State.submitGraph (r : State) (b : Cmd) (job : Byte) (va : W64) (g : Nat) : Acc (List Byte) → State
  | .ok bs => (r.dropHub job).submitHeader b job va g bs
  | .fault k v lo size => (r.raise 4 2 job k v lo size 0).2.parkCmd b (r.raise 4 2 job k v lo size 0).1
  | .err a p => ((r.dropHub job).accessFault 4 p a 0).reply b stAddress []
  | .remote v pa len => (r.parkCmd b).hubFetch job v pa len

section
variable (hs : s.serves 0x0401 1 true h c) {g : Nat} (hg : s.freeHandle = some g) {va : W64}
include hs hg

theorem exec_graphSubmit_of_broken (hb : s.fab.broken = true) :
    exec (.graphSubmit h va) s = (s.begin_ c).answers (s.begun c) 0x0E [] := by
  have hg' : (s.begin_ c).freeHandle = some g := hg
  change execGraphSubmit h va s = _
  simp only [execGraphSubmit, command_runs hs, hg']
  exact congrArg _ (if_pos hb)

section
variable (hb : s.fab.broken = false)
include hb

theorem exec_graphSubmit_of_misaligned (hal : va.toNat % 128 ≠ 0) :
    exec (.graphSubmit h va) s = (s.begin_ c).answers (s.begun c) stInvalid [] := by
  have hg' : (s.begin_ c).freeHandle = some g := hg
  have hb' : ¬ (s.begin_ c).fab.broken = true := by rw [show (s.begin_ c).fab.broken = false from hb]; decide
  change execGraphSubmit h va s = _
  simp only [execGraphSubmit, command_runs hs, hg']
  exact congrArg _ ((if_neg hb').trans (if_pos hal))

theorem exec_graphSubmit_of_aligned (hal : va.toNat % 128 = 0) : exec (.graphSubmit h va) s
    = .next ((s.begin_ c).submitGraph (s.begun c) h.job va g ((s.begin_ c).hubRead h.job va.toNat 128)) := by
  have hg' : (s.begin_ c).freeHandle = some g := hg
  have hb' : ¬ (s.begin_ c).fab.broken = true := by rw [show (s.begin_ c).fab.broken = false from hb]; decide
  change execGraphSubmit h va s = _
  simp only [execGraphSubmit, command_runs hs, hg']
  refine congrArg _ ((if_neg hb').trans ((if_neg (Classical.not_not.mpr hal)).trans ?_))
  cases (s.begin_ c).hubRead h.job va.toNat 128 with
  | ok bs => rfl
  | fault k v lo size => rfl
  | err ad p => rfl
  | remote v pa len => rfl
end
end

section
variable (q : State) (b : Cmd) {job : Byte} (va : W64) (g : Nat) {bs : List Byte}

theorem submitHeader_of_bad (hbad : hdrBad bs job = true) : q.submitHeader b job va g bs = q.reply b stInvalid [] := if_pos hbad

section
variable (hok : hdrBad bs job = false)
include hok

theorem submitHeader_of_conflict (hw : (GraphHdr.parse bs).syncMode ≠ 0 ∧ (GraphHdr.parse bs).syncMaster = true)
    (hcl : q.host.claimed .syncIn 0 = true) : q.submitHeader b job va g bs = q.reply b stConflict [] := by
  rw [State.submitHeader, if_neg (by simp [hok])]
  exact if_pos (by simpa [hcl] using hw)

theorem submitHeader_of_master (hw : (GraphHdr.parse bs).syncMode ≠ 0 ∧ (GraphHdr.parse bs).syncMaster = true)
    (hcl : q.host.claimed .syncIn 0 = false) : q.submitHeader b job va g bs
      = (((q.claim { kind := .syncIn, index := 0, job := job, opcode := 0x0401, graph := some g }).setGraph g
        (some (submittedGraph va bs))).reply b stOk [BitVec.ofNat 64 g]).loadGraph g := by
  rw [State.submitHeader, if_neg (by simp [hok])]
  refine (if_neg (by simp [hcl])).trans ?_
  dsimp only
  rw [if_pos (by simpa using hw)]

theorem submitHeader_of_other (hw : ¬ ((GraphHdr.parse bs).syncMode ≠ 0 ∧ (GraphHdr.parse bs).syncMaster = true)) :
    q.submitHeader b job va g bs = ((q.setGraph g (some (submittedGraph va bs))).reply b stOk [BitVec.ofNat 64 g]).loadGraph g := by
  have hw' : ((GraphHdr.parse bs).syncMode ≠ 0 && (GraphHdr.parse bs).syncMaster) = false := by simpa using hw
  rw [State.submitHeader, if_neg (by simp [hok])]
  dsimp only
  rw [hw']
  rfl
end
end

/-! ### The commands on a handle -/

theorem handleOf_of_some {v : W64} {gr : Graph} (hv : v.toNat < 8) (hg : s.graph v.toNat = some gr) :
    s.handleOf v = some (v.toNat, gr) := by
  rw [State.handleOf, if_pos hv, hg]
  rfl

theorem handleOf_of_none {v : W64} (hg : s.graph v.toNat = none) : s.handleOf v = none := by
  rw [State.handleOf, hg]
  exact ite_self _

theorem exec_graphStatus_of_none (hs : s.serves 0x0403 1 false h c) {v : W64} : (7 < v.toNat →
      exec (.graphStatus h v) s = (s.begin_ c).answers (s.begun c) stInvalid [])
    ∧ (v.toNat ≤ 7 → s.graph v.toNat = none → exec (.graphStatus h v) s = (s.begin_ c).answers (s.begun c) stNotFound []) := by
  change (_ → execGraphStatus h v s = _) ∧ (_ → _ → execGraphStatus h v s = _)
  rw [execGraphStatus, command_runs hs]
  refine ⟨fun hv => congrArg _ (if_pos hv), fun hv hg => congrArg _ ((if_neg (by omega)).trans ?_)⟩
  rw [handleOf_of_none (s := s.begin_ c) hg]

theorem exec_graphStop_of_none (hs : s.serves 0x0402 2 false h c) {v mode : W64} (hm : mode.toNat ≤ 1) : (7 < v.toNat →
      exec (.graphStop h v mode) s = (s.begin_ c).answers (s.begun c) stInvalid [])
    ∧ (v.toNat ≤ 7 → s.graph v.toNat = none → exec (.graphStop h v mode) s = (s.begin_ c).answers (s.begun c) stNotFound []) := by
  change (_ → execGraphStop h v mode s = _) ∧ (_ → _ → execGraphStop h v mode s = _)
  rw [execGraphStop, command_runs hs]
  refine ⟨fun hv => congrArg _ (if_pos (by simp [hv])), fun hv hg => congrArg _ ((if_neg ?_).trans ?_)⟩
  · simp only [Bool.or_eq_true, decide_eq_true_eq]
    omega
  · rw [handleOf_of_none (s := s.begin_ c) hg]

theorem exec_graphRelease_of_none (hs : s.serves 0x0404 1 false h c) {v : W64} : (7 < v.toNat →
      exec (.graphRelease h v) s = (s.begin_ c).answers (s.begun c) stInvalid [])
    ∧ (v.toNat ≤ 7 → s.graph v.toNat = none → exec (.graphRelease h v) s = (s.begin_ c).answers (s.begun c) stNotFound []) := by
  change (_ → execGraphRelease h v s = _) ∧ (_ → _ → execGraphRelease h v s = _)
  rw [execGraphRelease, command_runs hs]
  refine ⟨fun hv => congrArg _ (if_pos hv), fun hv hg => congrArg _ ((if_neg (by omega)).trans ?_)⟩
  rw [handleOf_of_none (s := s.begin_ c) hg]

theorem exec_graphStop_of_badMode (hs : s.serves 0x0402 2 false h c) (v : W64) {mode : W64} (hm : 1 < mode.toNat) :
    exec (.graphStop h v mode) s = (s.begin_ c).answers (s.begun c) stInvalid [] := by
  change execGraphStop h v mode s = _
  rw [execGraphStop, command_runs hs]
  exact congrArg _ (if_pos (by simp [hm]))

section
variable {v : W64} {gr : Graph} (hv : v.toNat < 8) (hg : s.graph v.toNat = some gr)
include hv hg

theorem exec_graphStatus_of_some (hs : s.serves 0x0403 1 false h c) : exec (.graphStatus h v) s
    = (s.begin_ c).answers (s.begun c) stOk [BitVec.ofNat 64 gr.phase.code, gr.step.setWidth 64, BitVec.ofNat 64 gr.completed,
      BitVec.ofNat 64 gr.admitted, BitVec.ofNat 64 gr.expiredCount, if gr.phase = .ended then gr.endStatus.setWidth 64 else 0] := by
  have hg' : (s.begin_ c).handleOf v = some (v.toNat, gr) := handleOf_of_some hv hg
  change execGraphStatus h v s = _
  simp only [execGraphStatus, command_runs hs, hg']
  exact congrArg _ (if_neg (by omega))

/-- GRAPH_STOP ends a graph at the task boundary in mode 1, and where no step runs; else the step is its last (R87). -/
theorem exec_graphStop_of_some (hs : s.serves 0x0402 2 false h c) {mode : W64} (hm : mode.toNat ≤ 1) :
    let w := (s.begin_ c).waitCmd (s.begun c) (.graphStop v.toNat)
    exec (.graphStop h v mode) s = .next (if gr.phase = .ended then
        (s.begin_ c).reply (s.begun c) stOk [gr.step.setWidth 64, gr.endStatus.setWidth 64]
      else if mode = 1 ∨ gr.loading.isSome = true ∨ (gr.phase = .boundary ∧ gr.boundaryWork = false) then w.failGraph v.toNat 0x21 0
      else w.modGraph v.toNat fun x => { x with atStepEnd := some (x.atStepEnd.getD ⟨0x21, 0⟩) }) := by
  have hg' : (s.begin_ c).handleOf v = some (v.toNat, gr) := handleOf_of_some hv hg
  change execGraphStop h v mode s = _
  simp only [execGraphStop, command_runs hs, hg']
  refine congrArg _ ((if_neg (by simp only [Bool.or_eq_true, decide_eq_true_eq]; omega)).trans (if_congr Iff.rfl rfl ?_))
  by_cases h1 : (decide (mode = 1) || gr.loading.isSome) = true
  · rw [if_pos h1, if_pos (by grind)]
  · by_cases h2 : (decide (gr.phase = .boundary) && !gr.boundaryWork) = true
    · rw [if_neg h1, if_pos h2, if_pos (by grind)]
    · rw [if_neg h1, if_neg h2, if_neg (by grind)]

theorem exec_graphRelease_of_running (hs : s.serves 0x0404 1 false h c) (hp : gr.phase ≠ .ended) :
    exec (.graphRelease h v) s = (s.begin_ c).answers (s.begun c) stBusy [] := by
  have hg' : (s.begin_ c).handleOf v = some (v.toNat, gr) := handleOf_of_some hv hg
  change execGraphRelease h v s = _
  simp only [execGraphRelease, command_runs hs, hg']
  exact congrArg _ ((if_neg (by omega)).trans (if_pos hp))

/-- GRAPH_RELEASE frees the handle and the graph's claims, and with the job's last graph its check (R88, R237). -/
theorem exec_graphRelease_of_ended (hs : s.serves 0x0404 1 false h c) (hp : gr.phase = .ended) :
    ∃ u : State, exec (.graphRelease h v) s = u.answers (s.begun c) stOk [] ∧ u.graphs = ((s.begin_ c).setGraph v.toNat none).graphs
      ∧ u.mem = s.mem ∧ ∀ x ∈ u.host.claims, ¬ (x.kind = .syncIn ∧ x.graph = some v.toNat) := by
  have hg' : (s.begin_ c).handleOf v = some (v.toNat, gr) := handleOf_of_some hv hg
  have hclaims : ∀ x ∈ (((s.begin_ c).setGraph v.toNat none).unclaim fun x => x.kind = .syncIn && x.graph = some v.toNat).host.claims,
      ¬ (x.kind = .syncIn ∧ x.graph = some v.toNat) := by
    simp only [State.unclaim, State.setHost_host, List.mem_filter]
    grind
  change ∃ u : State, execGraphRelease h v s = _ ∧ _
  simp only [execGraphRelease, command_runs hs, hg']
  refine ⟨_, congrArg _ ((if_neg (by omega)).trans (if_neg (Classical.not_not.mpr hp))), ?_⟩
  split
  · exact ⟨rfl, rfl, fun x hx => hclaims x (List.mem_filter.mp hx).1⟩
  · exact ⟨rfl, rfl, hclaims⟩
end
end

/-- Settles O30: a submission by the read of its header, the others by the graph under their handle. -/
theorem graphCommands : Obligations.GraphCommands := by
  unfold Obligations.GraphCommands
  refine ⟨fun h c s v mode g gr => ?_, fun h c s v gr hs hv hg hp => exec_graphRelease_of_running hv hg hs hp⟩
  dsimp only
  refine ⟨fun hs hg => ⟨exec_graphSubmit_of_broken hs hg, fun hb => ⟨exec_graphSubmit_of_misaligned hs hg hb, fun hal => ?_⟩⟩,
    fun o ho => ?_, fun hs hm => exec_graphStop_of_badMode hs v hm, fun hg hv => ⟨exec_graphStatus_of_some hv hg, fun hs hm hp => ?_,
      fun hs hp => ?_, fun hs hp hnow => ?_, fun hs hp hl hb => ?_, fun hs hp => exec_graphRelease_of_running hv hg hs hp, fun hs hp => ?_⟩⟩
  · rw [exec_graphSubmit_of_aligned hs hg hb hal]
    refine ⟨fun a p ha => ?_, fun x pa l ha => ?_, fun k x lo size ha => ?_, fun bs ha => ?_⟩
    · rw [ha]
      rfl
    · rw [ha]
      rfl
    · rw [ha]
      rfl
    · rw [ha]
      refine ⟨fun hbad => ?_, fun hok hw hcl => ?_, fun hok hw hcl => ?_, fun hok hw => ?_⟩
      · exact congrArg _ (submitHeader_of_bad _ _ v g hbad)
      · exact congrArg _ (submitHeader_of_conflict _ _ v g hok hw hcl)
      · exact congrArg _ (submitHeader_of_master _ _ v g hok hw hcl)
      · exact congrArg _ (submitHeader_of_other _ _ v g hok hw)
  · rcases ho with ⟨rfl, hs⟩ | ⟨rfl, hs⟩ | ⟨rfl, hs, hm⟩
    · exact exec_graphStatus_of_none hs
    · exact exec_graphRelease_of_none hs
    · exact exec_graphStop_of_none hs hm
  · rw [exec_graphStop_of_some hv hg hs hm, if_pos hp]
    rfl
  · rw [exec_graphStop_of_some hv hg hs (by decide), if_neg hp, if_pos (.inl rfl)]
  · rw [exec_graphStop_of_some hv hg hs (by decide), if_neg hp, if_pos (.inr hnow)]
  · rw [exec_graphStop_of_some hv hg hs (by decide), if_neg hp, if_neg (by simpa [hl] using hb)]
  · obtain ⟨u, hu, hgs, hmem, hcl⟩ := exec_graphRelease_of_ended hv hg hs hp
    refine ⟨u, hu, ?_, fun x hx hk hgx => hcl x hx ⟨hk, hgx⟩, fun k hk => ?_, hmem⟩
    · rw [State.graph, hgs]
      exact State.setGraph_graph ..
    · rw [State.graph, hgs]
      exact State.setGraph_graph_of_ne (s.begin_ c) none hk
end Sys2Proof.Machine
end

section
/-! SUPPORT. What traffic on the links can change: the fabric's own state and what was sent, and with no route what a fault record
changes. -/

namespace Sys2Proof.Machine

/-- From `s` to `u` only the links and what a fault record reaches change. -/
def State.Traffic (s u : State) : Prop :=
  u = { s with fab := u.fab, host := u.host, sent := u.sent, tally := u.tally
               power := { s.power with alertPending := u.power.alertPending }, trace := u.trace, mem := u.mem }

namespace State.Traffic
variable {s u v : State}

theorem refl (s : State) : s.Traffic s := rfl

theorem trans (h : s.Traffic u) (k : u.Traffic v) : s.Traffic v := by
  unfold State.Traffic at *
  rw [k, h]

theorem of_records (h : s.Records u) : s.Traffic u := by
  unfold State.Records at h
  unfold State.Traffic
  rw [h]

theorem of_links (h : s.Links u) : s.Traffic u := by
  unfold State.Links at h
  unfold State.Traffic
  rw [h]

theorem foldl {α : Type} {f : State → α → State} (l : List α) (h : ∀ (s : State) (a : α), s.Traffic (f s a)) (s : State) :
    s.Traffic (l.foldl f s) := by
  induction l generalizing s with
  | nil => exact refl s
  | cons a l ih => exact (h s a).trans (ih _)

theorem bell_eq (h : s.Traffic u) : u.bell = s.bell := by
  rw [h]
end State.Traffic

section
variable (s : State)

/-- A packet that is sent, queued or turned away reaches the links, and with no route the fault log (R448). -/
theorem traffic_transmit (input : Nat) (p : Pkt) : s.Traffic (s.transmit input p) := by
  unfold State.transmit
  dsimp only
  split
  · exact .of_links (links_turnAway ..)
  · split
    · exact (State.Traffic.of_records (records_partFault ..)).trans (.of_links (links_turnAway ..))
    · exact .of_links (links_enqueue ..)

theorem traffic_sendReg (part : Nat) (i : W16) (target : W64) (cmp : BitVec 2) (timeout : W32) (w : W64) :
    s.Traffic (s.sendReg part i target cmp timeout w) :=
  (State.Traffic.of_links (links_setFab ..)).trans (traffic_transmit ..)

theorem traffic_unregister (part : Nat) (i : W16) (w : Waiter) (id : Nat) : s.Traffic (s.unregister part i w id) := by
  unfold State.unregister
  split
  · exact .refl s
  · exact traffic_sendReg ..

theorem traffic_withdrawAway (l : List (Nat × Nat × W16)) : s.Traffic (s.withdrawAway l) :=
  .foldl l (fun s x => traffic_unregister s x.2.1 x.2.2 (.host 0) x.1) s
end
end Sys2Proof.Machine
end

section
/-! SUPPORT. The Bell commands (R41, R350 to R352, R355, R362 to R364, R368, R376, R378, Table 12.4): each by its checks in order. -/

namespace Sys2Proof.Machine

theorem counterArgs_iff {part index : W64} : counterArgs part index = true ↔ part.toNat < 8192 ∧ index.toNat < 65536 := by
  simp [counterArgs]

section
variable {s : State} {h : CmdHdr} {c : Cmd}

/-! ### Counters -/

theorem exec_bellRead (hs : s.serves 0x0501 2 false h c) (part index : W64) :
    let r := s.begin_ c
    exec (.bellRead h part index) s = .next (if ¬ (part.toNat < 8192 ∧ index.toNat < 65536) then r.reply (s.begun c) stInvalid []
      else if s.member part.toNat = false then r.reply (s.begun c) stAddress []
      else if part.toNat = s.partNo then
        if s.bellLost (index.setWidth 16) = true then r.reply (s.begun c) stAddress []
        else r.reply (s.begun c) stOk [s.counter (index.setWidth 16)]
      else (r.remoteRead (.cmd h.seq) 0 false (counterAddr part.toNat (index.setWidth 16)) 8).waitCmd (s.begun c) .atomic) := by
  change execBellRead h part index s = _
  rw [execBellRead, command_runs hs]
  exact congrArg _ (if_congr (by grind [counterArgs_iff]) rfl (if_congr (by rw [Bool.not_eq_true']; rfl) rfl rfl))

section
variable (hs : s.serves 0x0502 3 false h c) {part index inc : W64}
include hs

theorem exec_bellSignal_of_bad (hbad : ¬ (part.toNat < 8192 ∧ index.toNat < 65536)) :
    exec (.bellSignal h part index inc) s = (s.begin_ c).answers (s.begun c) stInvalid [] := by
  change execBellSignal h part index inc s = _
  rw [execBellSignal, command_runs hs]
  exact congrArg _ (if_pos (by grind [counterArgs_iff]))

section
variable (hok : part.toNat < 8192 ∧ index.toNat < 65536)
include hok

theorem exec_bellSignal_of_outside (hm : s.member part.toNat = false) :
    exec (.bellSignal h part index inc) s = (s.begin_ c).answers (s.begun c) stAddress [] := by
  change execBellSignal h part index inc s = _
  rw [execBellSignal, command_runs hs]
  exact congrArg _ ((if_neg (by grind [counterArgs_iff])).trans (if_pos (by rw [show (s.begin_ c).member part.toNat = false from hm]; rfl)))

section
variable (hm : s.member part.toNat = true)
include hm

theorem exec_bellSignal_away (haway : part.toNat ≠ s.partNo) : exec (.bellSignal h part index inc) s = .next
    (((s.begin_ c).request (bellPacket 0x04 part.toNat (index.setWidth 16) [inc]) (.cmd h.seq)).waitCmd (s.begun c) (.acks [])) := by
  have hm' : ¬ (!(s.begin_ c).member part.toNat) = true := by rw [show (s.begin_ c).member part.toNat = true from hm]; decide
  change execBellSignal h part index inc s = _
  rw [execBellSignal, command_runs hs]
  exact congrArg _ ((if_neg (by grind [counterArgs_iff])).trans ((if_neg hm').trans (if_neg haway)))

/-- A signal of this part's own counter answers by its arbitration. -/
theorem exec_bellSignal_here (hhere : part.toNat = s.partNo) : exec (.bellSignal h part index inc) s
    = .next (((s.begin_ c).signal (index.setWidth 16) inc).elim ((s.begin_ c).reply (s.begun c) stAddress [])
      fun u => u.reply (s.begun c) stOk []) := by
  have hm' : ¬ (!(s.begin_ c).member part.toNat) = true := by rw [show (s.begin_ c).member part.toNat = true from hm]; decide
  change execBellSignal h part index inc s = _
  rw [execBellSignal, command_runs hs]
  refine congrArg _ ((if_neg (by grind [counterArgs_iff])).trans ((if_neg hm').trans ((if_pos hhere).trans ?_)))
  cases (s.begin_ c).signal (index.setWidth 16) inc with
  | none => rfl
  | some u => rfl
end
end
end

theorem signal_of_lost {i : W16} (inc : W64) (hno : s.bellLost i = true ∨ s.isBarrier i = true) : s.signal i inc = none := by
  rw [State.signal]
  exact if_pos (by simpa using hno)

/-! ### Watches -/

theorem exec_bellWatch (hs : s.serves 0x0503 6 false h c) (part index target cmp timeout cookie : W64) :
    let id := s.bell.nextWatch
    let q := (s.begin_ c).reply (s.begun c) stOk [BitVec.ofNat 64 id]
    let t := if part.toNat = s.partNo then q else q.setBell { q.bell with away := q.bell.away ++ [(id, part.toNat, index.setWidth 16)] }
    exec (.bellWatch h part index target cmp timeout cookie) s
      = .next (if ¬ ((part.toNat < 8192 ∧ index.toNat < 65536) ∧ cmp.toNat ≤ 2 ∧ timeout.toNat < 2 ^ 32)
        then (s.begin_ c).reply (s.begun c) stInvalid []
        else if s.member part.toNat = false then (s.begin_ c).reply (s.begun c) stAddress []
        else t.registerAt part.toNat (index.setWidth 16) target (cmp.setWidth 2) (timeout.setWidth 32) (.host cookie)) := by
  have hpart : ((s.begin_ c).reply (s.begun c) stOk [BitVec.ofNat 64 s.bell.nextWatch]).partNo = s.partNo := by
    rw [sends_reply (s.begin_ c) (s.begun c) stOk [BitVec.ofNat 64 s.bell.nextWatch]]
    rfl
  change execBellWatch h part index target cmp timeout cookie s = _
  rw [execBellWatch, command_runs hs]
  refine congrArg _ (if_congr ?_ rfl (if_congr (by rw [Bool.not_eq_true']; rfl) rfl ?_))
  · grind [counterArgs_iff]
  · dsimp only
    rw [← hpart]
    rfl

/-- A host watch of this part's own table, one that waits for it, or one stored elsewhere. -/
def Bell.hasHostWatch (b : Bell) (id : Nat) : Prop :=
  (∃ x ∈ b.watches ++ b.heldRegs, x.hostIs id = true) ∨ ∃ x ∈ b.away, x.1 = id

section
variable (hs : s.serves 0x0504 1 false h c) {watch : W64}
include hs

theorem exec_bellCancel_of_none (hno : ¬ s.bell.hasHostWatch watch.toNat) :
    exec (.bellCancel h watch) s = (s.begin_ c).answers (s.begun c) stNotFound [] := by
  change execBellCancel h watch s = _
  rw [execBellCancel, command_runs hs]
  refine congrArg _ (if_neg ?_)
  change ¬ (s.bell.watches.any _ || s.bell.heldRegs.any _ || s.bell.away.any _) = true
  grind [Bell.hasHostWatch]

/-- A cancelled watch leaves every list, and a part that stores it is told (R362). -/
theorem exec_bellCancel_of_some (hhas : s.bell.hasHostWatch watch.toNat) :
    ∃ u : State, exec (.bellCancel h watch) s = u.answers (s.begun c) stOk [] ∧ u.bell = { s.bell with
      watches := s.bell.watches.filter (fun w => !(w.hostIs watch.toNat))
      heldRegs := s.bell.heldRegs.filter (fun w => !(w.hostIs watch.toNat))
      away := s.bell.away.filter fun x => x.1 ≠ watch.toNat } := by
  change ∃ u : State, execBellCancel h watch s = _ ∧ _
  rw [execBellCancel, command_runs hs]
  refine ⟨_, congrArg _ (if_pos ?_), (traffic_withdrawAway ..).bell_eq⟩
  change (s.bell.watches.any _ || s.bell.heldRegs.any _ || s.bell.away.any _) = true
  grind [Bell.hasHostWatch]
end

/-! ### Resets of counters -/

/-- Counters 0 to 15359 are of hall 0, and so on; the last 4,096 are central. -/
theorem bellHome_eq_iff {i : W16} {k : Nat} (hk : k < 4) : bellHome i = k ↔ k * 15360 ≤ i.toNat ∧ i.toNat < (k + 1) * 15360 := by
  rw [bellHome]
  omega

/-- A range meets a hall's counters where one counter of the range is of the hall. -/
theorem rangeLost_iff {lo hi : Nat} (hlt : lo < hi) (hhi : hi ≤ 65536) :
    ([0, 1, 2, 3].any fun k => (s.hall k).fenced && lo < (k + 1) * 15360 && k * 15360 < hi) = true
      ↔ ∃ j : W16, (lo ≤ j.toNat ∧ j.toNat < hi) ∧ s.bellLost j = true := by
  simp only [List.any_eq_true, Bool.and_eq_true, decide_eq_true_eq, State.bellLost]
  constructor
  · rintro ⟨k, hk, ⟨hf, h1⟩, h2⟩
    have hk4 : k < 4 := by simp at hk; omega
    have hj : (BitVec.ofNat 16 (max lo (k * 15360))).toNat = max lo (k * 15360) := by
      rw [BitVec.toNat_ofNat]
      omega
    have hhome : bellHome (BitVec.ofNat 16 (max lo (k * 15360))) = k := (bellHome_eq_iff hk4).mpr (by omega)
    exact ⟨BitVec.ofNat 16 (max lo (k * 15360)), by omega, by omega, by rw [hhome]; exact hf⟩
  · rintro ⟨j, ⟨h1, h2⟩, hk4, hf⟩
    obtain ⟨h3, h4⟩ := (bellHome_eq_iff hk4).mp rfl
    exact ⟨bellHome j, by simp; omega, ⟨hf, by omega⟩, by omega⟩

/-- Something of Bell uses a counter of the range (R378). -/
def State.rangeBusy (s : State) (lo hi : Nat) : Bool :=
  s.bell.watches.any (fun w => lo ≤ w.index.toNat && w.index.toNat < hi)
    || s.bell.heldRegs.any (fun w => lo ≤ w.index.toNat && w.index.toNat < hi)
    || s.bell.pairs.any (fun p => (lo ≤ p.p.toNat && p.p.toNat < hi) || (lo ≤ p.c.toNat && p.c.toNat < hi))
    || s.bell.barriers.any (fun x => (lo ≤ x.index.toNat && x.index.toNat < hi) && s.barrierWaits x)

theorem rangeBusy_iff {lo hi : Nat} : s.rangeBusy lo hi = true ↔ let inR := fun (j : W16) => lo ≤ j.toNat ∧ j.toNat < hi
    (∃ x ∈ s.bell.watches ++ s.bell.heldRegs, inR x.index) ∨ (∃ x ∈ s.bell.pairs, inR x.p ∨ inR x.c)
      ∨ ∃ x ∈ s.bell.barriers, inR x.index ∧ s.barrierWaits x = true := by
  simp only [State.rangeBusy, Bool.or_eq_true, List.any_eq_true, Bool.and_eq_true, decide_eq_true_eq, List.mem_append]
  grind

theorem exec_bellReset (hs : s.serves 0x0505 2 false h c) (first count : W64) :
    let r := s.begin_ c
    let lo := first.toNat
    let hi := first.toNat + count.toNat
    exec (.bellReset h first count) s = .next (if ¬ (lo ≤ 65535 ∧ 1 ≤ count.toNat ∧ hi ≤ 65536) then r.reply (s.begun c) stInvalid []
      else if ([0, 1, 2, 3].any fun k => (s.hall k).fenced && lo < (k + 1) * 15360 && k * 15360 < hi) = true
        then r.reply (s.begun c) stAddress []
      else if s.rangeBusy lo hi = true then r.reply (s.begun c) stBusy []
      else (r.resetCounters lo hi).reply (s.begun c) stOk []) := by
  change execBellReset h first count s = _
  rw [execBellReset, command_runs hs]
  exact congrArg _ (if_congr (by grind [inRange_iff]) rfl (if_congr Iff.rfl rfl rfl))

/-! ### Barriers, pairs and lending -/

theorem exec_bellBarrierSet (hs : s.serves 0x0506 3 false h c) (index n scope : W64) :
    let r := s.begin_ c
    let i : W16 := index.setWidth 16
    exec (.bellBarrierSet h index n scope) s
      = .next (if ¬ (0xF000 ≤ index.toNat ∧ index.toNat ≤ 0xFFFF ∧ 1 ≤ n.toNat ∧ n.toNat ≤ 16777216 ∧ scope.toNat ≤ 1)
        then r.reply (s.begun c) stInvalid []
        else if s.isBarrier i = true then r.reply (s.begun c) stConflict []
        else ((r.setBell { r.bell with counters := s.bell.counters.set 0 i.toNat 0
                                       barriers := s.bell.barriers ++ [{ index := i, n := n.toNat, domain := scope = 1 }] }).testWatches i).reply
          (s.begun c) stOk []) := by
  change execBellBarrierSet h index n scope s = _
  rw [execBellBarrierSet, command_runs hs]
  exact congrArg _ (if_congr (by grind [inRange_iff]) rfl rfl)

section
variable (hs : s.serves 0x0507 1 false h c) {index : W64}
include hs

theorem exec_bellBarrierClear_of_none (hx : s.bell.barriers.find? (fun x => x.index.toNat = index.toNat) = none) :
    exec (.bellBarrierClear h index) s = (s.begin_ c).answers (s.begun c) stInvalid [] := by
  have hx' : (s.begin_ c).bell.barriers.find? (fun x => x.index.toNat = index.toNat) = none := hx
  change execBellBarrierClear h index s = _
  simp only [execBellBarrierClear, command_runs hs, hx']
  rfl

theorem exec_bellBarrierClear_of_some {x : Barrier} (hx : s.bell.barriers.find? (fun x => x.index.toNat = index.toNat) = some x) :
    let r := s.begin_ c
    exec (.bellBarrierClear h index) s = .next (if s.barrierWaits x = true then r.reply (s.begun c) stBusy []
      else (r.setBell { r.bell with barriers := s.bell.barriers.filter fun y => y.index ≠ x.index }).reply (s.begun c) stOk []) := by
  have hx' : (s.begin_ c).bell.barriers.find? (fun x => x.index.toNat = index.toNat) = some x := hx
  change execBellBarrierClear h index s = _
  simp only [execBellBarrierClear, command_runs hs, hx']
  rfl
end

theorem exec_bellPairSet (hs : s.serves 0x0508 3 false h c) (p ci b : W64) :
    let r := s.begin_ c
    let i : W16 := p.setWidth 16
    let j : W16 := ci.setWidth 16
    exec (.bellPairSet h p ci b) s
      = .next (if ¬ (p.toNat ≤ 65535 ∧ ci.toNat ≤ 65535 ∧ 1 ≤ b.toNat ∧ b.toNat ≤ 65535 ∧ p ≠ ci ∧ bellHome i = bellHome j)
        then r.reply (s.begun c) stInvalid []
        else if ∃ x ∈ s.bell.pairs, x.p = i ∨ x.c = i ∨ x.p = j ∨ x.c = j then r.reply (s.begun c) stConflict []
        else (r.setBell { r.bell with pairs := s.bell.pairs ++ [{ id := s.bell.nextPair, p := i, c := j, b := b.setWidth 16 }]
                                      nextPair := s.bell.nextPair + 1 }).reply (s.begun c) stOk [BitVec.ofNat 64 s.bell.nextPair]) := by
  have hne : p.toNat ≤ 65535 → ci.toNat ≤ 65535 → (p.setWidth 16 = ci.setWidth 16 ↔ p = ci) := by
    intro h1 h2
    constructor
    · intro heq
      have := congrArg BitVec.toNat heq
      simp only [BitVec.toNat_setWidth] at this
      exact BitVec.eq_of_toNat_eq (by omega)
    · rintro rfl
      rfl
  change execBellPairSet h p ci b s = _
  rw [execBellPairSet, command_runs hs]
  refine congrArg _ (if_congr ?_ rfl (if_congr ?_ rfl rfl))
  · simp only [Bool.or_eq_true, decide_eq_true_eq, Bool.not_eq_true', ← Bool.not_eq_true, inRange_iff]
    by_cases h1 : p.toNat ≤ 65535
    · by_cases h2 : ci.toNat ≤ 65535
      · rw [hne h1 h2]
        grind
      · simp only [h2, false_and, and_false, not_false_eq_true, iff_true]
        omega
    · simp only [h1, false_and, not_false_eq_true, iff_true]
      omega
  · change (s.bell.pairs.any _) = true ↔ _
    grind

theorem exec_bellPairClear (hs : s.serves 0x0509 1 false h c) (pair : W64) :
    let r := s.begin_ c
    exec (.bellPairClear h pair) s = .next (if ∃ x ∈ s.bell.pairs, x.id = pair.toNat
      then (r.setBell { r.bell with pairs := s.bell.pairs.filter fun x => x.id ≠ pair.toNat }).reply (s.begun c) stOk []
      else r.reply (s.begun c) stNotFound []) := by
  change execBellPairClear h pair s = _
  rw [execBellPairClear, command_runs hs]
  refine congrArg _ (if_congr ?_ rfl rfl)
  change (s.bell.pairs.any _) = true ↔ _
  grind

/-- A report of a lendable hall changes that report, not what BELL_LEND_SET keeps (R376). -/
theorem updateLend_config (s : State) (h : Nat) :
    (s.updateLend h).bell.lendEnable = s.bell.lendEnable ∧ (s.updateLend h).bell.lendTheta = s.bell.lendTheta := by
  unfold State.updateLend State.setLendable
  split
  · dsimp only
    split
    · exact ⟨rfl, rfl⟩
    · exact ⟨rfl, rfl⟩
  · exact ⟨rfl, rfl⟩

theorem updateLends_config (l : List Nat) (s : State) : (l.foldl State.updateLend s).bell.lendEnable = s.bell.lendEnable
    ∧ (l.foldl State.updateLend s).bell.lendTheta = s.bell.lendTheta := by
  induction l generalizing s with
  | nil => exact ⟨rfl, rfl⟩
  | cons a l ih =>
    obtain ⟨h1, h2⟩ := ih (s.updateLend a)
    obtain ⟨h3, h4⟩ := updateLend_config s a
    exact ⟨h1.trans h3, h2.trans h4⟩

theorem exec_bellLendSet (hs : s.serves 0x050A 2 false h c) (enable theta : W64) :
    let r := s.begin_ c
    exec (.bellLendSet h enable theta) s = .next (if ¬ (enable.toNat ≤ 1 ∧ 1 ≤ theta.toNat ∧ theta.toNat ≤ 1000000)
      then r.reply (s.begun c) stInvalid []
      else ([0, 1, 2, 3].foldl State.updateLend (r.setBell { r.bell with lendEnable := enable = 1, lendTheta := theta })).reply
        (s.begun c) stOk []) := by
  change execBellLendSet h enable theta s = _
  rw [execBellLendSet, command_runs hs]
  exact congrArg _ (if_congr (by grind [inRange_iff]) rfl rfl)

theorem exec_bellDump (hs : s.serves 0x0930 2 true h c) (va flags : W64) :
    let r := s.begin_ c
    let d := r.bellDump (flags = 1)
    exec (.bellDump h va flags) s = .next (if 1 < flags.toNat then r.reply (s.begun c) stInvalid []
      else r.cmdWrite (s.begun c) h.job va.toNat d [BitVec.ofNat 64 d.length]) := by
  change execBellDump h va flags s = _
  rw [execBellDump, command_runs hs]
end

/-- Settles O33: each command by its checks in order, and past them its effect. -/
theorem bellCommands : Obligations.BellCommands := by
  unfold Obligations.BellCommands
  refine ⟨fun h c s part index v w => ?_, fun h c s index v hi hp hm => ?_⟩
  · dsimp only
    refine ⟨fun hs => ?_, fun hs => ⟨exec_bellSignal_of_bad hs, exec_bellSignal_of_outside hs, exec_bellSignal_away hs,
        fun hok hm hown hn => ?_, fun u hok hm hown hu => ?_⟩, fun cmp tm ck hs => ?_,
      fun hs => ⟨exec_bellCancel_of_none hs, fun hhas => ?_⟩,
      fun hs => ⟨fun hbad => ?_, fun hok hlost => ?_, fun hok hlost hbusy => ?_, fun hok hlost hbusy => ?_⟩,
      fun hs => ⟨fun hbad => ?_, fun hok hbar => ?_, fun hok hbar => ?_⟩,
      fun hs => ⟨exec_bellBarrierClear_of_none hs, fun x hx => ⟨fun hw => ?_, fun hw => ?_⟩⟩,
      fun ci hs => ⟨fun hbad => ?_, fun hok hused => ?_, fun hok hused => ?_⟩, fun hs => ⟨fun hno => ?_, fun hhas => ?_⟩,
      fun hs => ⟨fun hbad => ?_, fun hok => ?_⟩,
      fun hs => ⟨fun hbad => ?_, fun hok => ?_, fun u hok hu => ?_, fun u x xs hok hu => ?_, fun a f hok ha => ?_,
        fun kind x lo size hok ha => ?_⟩⟩
    · rw [exec_bellRead hs]
      simp only [apply_ite Host.Outcome.next, State.answers]
      refine if_congr Iff.rfl rfl (if_congr Iff.rfl rfl ?_)
      by_cases hown : part.toNat = s.partNo
      · rw [if_pos hown, if_neg (Classical.not_not.mpr hown)]
      · rw [if_neg hown, if_pos hown]
    · rw [exec_bellSignal_here hs hok hm hown, hn]
      rfl
    · rw [exec_bellSignal_here hs hok hm hown, hu]
      rfl
    · rw [exec_bellWatch hs]
      simp only [apply_ite Host.Outcome.next, State.answers]
    · obtain ⟨u, hu, hbell⟩ := exec_bellCancel_of_some hs hhas
      refine ⟨u, hu, ?_, ?_, ?_⟩
      · rw [hbell]
        simp only [List.mem_append, List.mem_filter]
        grind
      · rw [hbell]
        simp only [List.mem_filter]
        grind
      · rw [hbell]
    · rw [exec_bellReset hs, if_pos hbad]
      rfl
    · rw [exec_bellReset hs, if_neg (Classical.not_not.mpr hok), if_pos ((rangeLost_iff (by omega) (by omega)).mpr hlost)]
      rfl
    · rw [exec_bellReset hs, if_neg (Classical.not_not.mpr hok), if_neg (mt (rangeLost_iff (by omega) (by omega)).mp hlost), if_pos (rangeBusy_iff.mpr hbusy)]
      rfl
    · rw [exec_bellReset hs, if_neg (Classical.not_not.mpr hok), if_neg (mt (rangeLost_iff (by omega) (by omega)).mp hlost), if_neg (mt rangeBusy_iff.mp hbusy)]
      rfl
    · rw [exec_bellBarrierSet hs, if_pos hbad]
      rfl
    · rw [exec_bellBarrierSet hs, if_neg (Classical.not_not.mpr hok), if_pos hbar]
      rfl
    · rw [exec_bellBarrierSet hs, if_neg (Classical.not_not.mpr hok), if_neg (by rw [hbar]; decide)]
      refine ⟨_, rfl, ?_, State.testWatches_barriers ..⟩
      rw [State.counter, State.testWatches_counters]
      exact SMap.get_set_same (0 : W64) s.bell.counters (BitVec.setWidth 16 index : W16).toNat 0
    · rw [exec_bellBarrierClear_of_some hs hx, if_pos hw]
      rfl
    · rw [exec_bellBarrierClear_of_some hs hx, if_neg (by rw [hw]; decide)]
      refine ⟨_, rfl, ?_, rfl⟩
      change (List.filter (fun y : Barrier => y.index ≠ x.index) s.bell.barriers).any (fun y => y.index = x.index) = false
      simp
    · rw [exec_bellPairSet hs, if_pos hbad]
      rfl
    · rw [exec_bellPairSet hs, if_neg (Classical.not_not.mpr hok), if_pos hused]
      rfl
    · rw [exec_bellPairSet hs, if_neg (Classical.not_not.mpr hok), if_neg hused]
      exact ⟨_, rfl, rfl⟩
    · rw [exec_bellPairClear hs, if_neg hno]
      rfl
    · rw [exec_bellPairClear hs, if_pos hhas]
      exact ⟨_, rfl, rfl⟩
    · rw [exec_bellLendSet hs, if_pos hbad]
      rfl
    · rw [exec_bellLendSet hs, if_neg (Classical.not_not.mpr hok)]
      exact ⟨_, rfl, updateLends_config _ _⟩
    · rw [exec_bellDump hs, if_pos hbad]
      rfl
    · rw [exec_bellDump hs]
      exact ⟨_, rfl⟩
    · rw [exec_bellDump hs, if_neg (by omega), cmdWrite_local hu]
      rfl
    · rw [exec_bellDump hs, if_neg (by omega), cmdWrite_away hu, begun_hdr hs]
    · rw [exec_bellDump hs, if_neg (by omega), cmdWrite_err ha]
      rfl
    · rw [exec_bellDump hs, if_neg (by omega), cmdWrite_fault ha]
      rfl
  · have hown : (BitVec.ofNat 64 s.partNo).toNat = s.partNo := by
      rw [BitVec.toNat_ofNat]
      omega
    have hok : (BitVec.ofNat 64 s.partNo).toNat < 8192 ∧ index.toNat < 65536 := by omega
    refine ⟨fun hs hlost => ?_, fun hs hno => ?_⟩
    · rw [exec_bellRead hs, if_neg (Classical.not_not.mpr hok), if_neg (by rw [hown, hm]; decide), if_pos hown, if_pos hlost]
      rfl
    · rw [exec_bellSignal_here hs hok (by rwa [hown]) hown, signal_of_lost (s := s.begin_ c) v hno]
      rfl
end Sys2Proof.Machine
end

section
/-! SUPPORT. The instruction word of a trap by a lost counter (R124, R350, R634): the claim reads it after the fault record, the model
before. A trace of fault records that is kept where the thread's code lies tells the two apart. -/

namespace Sys2Proof.Machine

/-- The message that the counter of a wait is lost. -/
def lostMsg : BellMsg :=
  { dest := .thread ⟨⟨0, 0, 0⟩, 0⟩, index := 0, part := 0, outcome := .lost, tie := false, value := 0, lc := 0, watch := 1 }

/-- A thread that waits for the message at 0x40008. -/
def lostWaiter : Thread := { graph := 0, task := 0, idx := 0, pc := 0x40008, prv := false, status := .wait 0 0 0 0 0, watch := 1 }

/-- A part whose trace goes to the unit of the thread's code, with the message at hand. -/
def tracedCode : State :=
  { pstate := 1, startStep := 11
    mem := [(0x10000, 0x01), (0x10001, 0x10), (0x10002, 0x01), (0x11000, 0x01), (0x11001, 0x20), (0x11002, 0x01), (0x12000, 0x0F)]
    xlt := { spaces := [{ job := 0, root := 0x10000, limit := 1000 }] }
    threads := [(0, some lostWaiter)]
    bell := { msgs := [lostMsg] }
    trace := { cfg := some { job := 0, va := 0, size := 262144, units := [0x40000], trig := 0, cls := 0, events := 0x3FF, post := 0 },
               armed := true } }

/-- The words that the trap logs of stall 0 keep. -/
def loggedWords (o : Host.Outcome State Fault Refusal) : List W64 :=
  match o with
  | .next u => (u.stall 0).trapLog.map (·.insn)
  | _ => []

/-- Refutes O35: the part logs the word at the PC, 0; the claim has it log what the trace left there. -/
theorem not_bellEvents : ¬ Obligations.BellEvents := by
  unfold Obligations.BellEvents
  rintro ⟨h, -⟩
  obtain ⟨-, -, hmsg, -⟩ := h tracedCode
  obtain ⟨-, hin⟩ := hmsg lostMsg rfl
  obtain ⟨-, -, hthread⟩ := hin (by decide)
  obtain ⟨-, -, hlost, -⟩ := hthread ⟨⟨0, 0, 0⟩, 0⟩ lostWaiter rfl (by decide) (by decide)
  have hword := congrArg loggedWords (hlost (.inl ⟨0, 0, 0, rfl⟩) rfl)
  exact absurd hword (by decide +kernel)
end Sys2Proof.Machine
end

section
/-! SUPPORT. The sync class (R41, R111, R112, R350, R352, R365, R368, R373, Table 3.13): each instruction with sound fields. -/

namespace Sys2Proof.Machine

/-- The part and the index of a counter's name (Table 3.13). -/
theorem counterOf_eq (x : W64) : counterOf x = (x.toNat / 2 ^ 16 % 2 ^ 13, BitVec.ofNat 16 x.toNat) := by
  simp only [counterOf, bits, Prod.mk.injEq]
  constructor
  · rw [BitVec.extractLsb'_toNat, Nat.shiftRight_eq_div_pow]
  · apply BitVec.eq_of_toNat_eq
    rw [BitVec.extractLsb'_toNat, Nat.shiftRight_zero, BitVec.toNat_ofNat]

theorem bits_low_word (v : W64) : bits v 0 32 = v.setWidth 32 := BitVec.eq_of_toNat_eq (by simp [bits])

section
variable {s : State} {t : ThreadRef} {f : SyncF} {th : Thread} {part : Nat} {i : W16} (hc : counterOf (th.xr f.xa) = (part, i))

/-! ### SIG -/

/-- A journalled signal changes a task's journal alone. -/
theorem journalSignal_bell (g u : Nat) (inc : W64) :
    (s.journalSignal g u part i inc).2.bell = s.bell ∧ (s.journalSignal g u part i inc).2.halls = s.halls := by
  unfold State.journalSignal
  split
  · exact ⟨rfl, rfl⟩
  · exact ⟨State.modTask_bell .., State.modTask_halls ..⟩

/-- A signal is taken exactly where the counter is neither lost nor a barrier (R350, R368). -/
theorem signal_eq_none_iff (s : State) (i : W16) (inc : W64) :
    s.signal i inc = none ↔ s.bellLost i = true ∨ s.isBarrier i = true := by
  unfold State.signal
  split
  · simp_all
  · split
    · simp_all
    · simp_all

theorem signal_journal_eq_none_iff (g u : Nat) (inc v : W64) :
    (s.journalSignal g u part i inc).2.signal i v = none ↔ s.bellLost i = true ∨ s.isBarrier i = true := by
  obtain ⟨hbell, hhalls⟩ := journalSignal_bell (s := s) (part := part) (i := i) g u inc
  rw [signal_eq_none_iff, State.bellLost, State.isBarrier, hbell, State.hall, hhalls]
  rfl

/-- What an instruction that names a counter outside the domain meets (R41). -/
def State.outsideTrap (s : State) (t : ThreadRef) (th : Thread) (part : Nat) (i : W16) (w : W64) : State :=
  (s.accessFault (hallOf (skey t.st)) false (counterAddr part i) (s.threadTags th)).trap (tkey t) .address (BitVec.ofNat 64 (counterAddr part i)) w

section
variable (h : s.issues t (syncWord 0 f) th) (hok : syncBad false true true false false false f = false)
  (hq : s.writesPending (tkey t) th = none)
include hc h hok hq

theorem exec_sig_outside (hm : s.member part = false) : exec (.sig t f) s = .next (s.outsideTrap t th part i (syncWord 0 f)) := by
  change execSig t f s = _
  simp only [execSig, issue_runs h, hc, hok, hq, hm, Bool.false_eq_true, if_false, Bool.not_false, if_true, stallOf_tkey]
  rfl

/-- A SIG of this part's own counter is arbitrated here. -/
theorem exec_sig_here (hm : s.member part = true) (hhere : part = s.partNo) :
    let j := s.journalSignal th.graph th.task part i (th.xr f.xb)
    exec (.sig t f) s = .next ((j.2.signal i j.1).elim
      (j.2.trap (tkey t) .address (BitVec.ofNat 64 (counterAddr part i)) (syncWord 0 f)) fun u => u.retire (tkey t) th) := by
  have hpart : part = (s.journalSignal th.graph th.task part i (th.xr f.xb)).2.partNo := by
    rw [State.journalSignal]
    split
    · exact hhere
    · exact hhere.trans (State.modTask_partNo ..).symm
  change execSig t f s = _
  simp only [execSig, issue_runs h, hc, hok, hq, hm, Bool.false_eq_true, if_false, Bool.not_true]
  refine congrArg _ ((if_pos hpart).trans ?_)
  cases (s.journalSignal th.graph th.task part i (th.xr f.xb)).2.signal i (s.journalSignal th.graph th.task part i (th.xr f.xb)).1 with
  | none => rfl
  | some u => rfl

/-- A SIG of another part's counter goes as a request that the thread waits for (the model's choice, log entry 45). -/
theorem exec_sig_away (hm : s.member part = true) (haway : part ≠ s.partNo) :
    let j := s.journalSignal th.graph th.task part i (th.xr f.xb)
    exec (.sig t f) s = .next (((j.2.setThread (tkey t) (some { th with status := .remote (syncWord 0 f), issued := s.clock })).tick).request
      (bellPacket 0x04 part i [j.1]) (.bell (tkey t))) := by
  have hkeep : (s.journalSignal th.graph th.task part i (th.xr f.xb)).2.partNo = s.partNo
      ∧ (s.journalSignal th.graph th.task part i (th.xr f.xb)).2.clock = s.clock := by
    rw [State.journalSignal]
    split
    · exact ⟨rfl, rfl⟩
    · exact ⟨State.modTask_partNo .., State.modTask_clock ..⟩
  change execSig t f s = _
  simp only [execSig, issue_runs h, hc, hok, hq, hm, Bool.false_eq_true, if_false, Bool.not_true]
  refine congrArg _ ((if_neg (by rwa [hkeep.1])).trans ?_)
  rw [hkeep.2]
end

/-! ### WAIT -/

section
variable (h : s.issues t (syncWord 1 f) th) (hok : syncBad true true true true true false f = false)
include hc h hok

theorem exec_wait_outside (hm : s.member part = false) : exec (.wait t f) s = .next (s.outsideTrap t th part i (syncWord 1 f)) := by
  change execWait t f s = _
  simp only [execWait, issue_runs h, hc, hok, hm, Bool.false_eq_true, if_false, Bool.not_false, if_true, stallOf_tkey]
  rfl

/-- WAIT registers its watch and suspends the thread, with what a saved thread had left of its limit (R112, R362). -/
theorem exec_wait_inside (hm : s.member part = true) :
    let lim : W32 := th.timeoutLeft.elim (f.timeout.setWidth 32) (·.setWidth 32)
    let th' := { th with status := .wait f.xd part i (s.hallLc (hallOf (skey t.st))) lim, timeoutLeft := none, issued := s.clock
                         watch := s.bell.nextWatch }
    exec (.wait t f) s = .next ((((s.setThread (tkey t) (some th')).tick).registerAt part i (th.xr f.xb) f.cmp lim (.thread (tkey t))).updateLend
      (hallOf (skey t.st))) := by
  change execWait t f s = _
  simp only [execWait, issue_runs h, hc, hok, hm, Bool.false_eq_true, if_false, Bool.not_true, stallOf_tkey]
  cases th.timeoutLeft with
  | none => rfl
  | some v =>
    dsimp only [Option.elim_some]
    rw [bits_low_word]
end

/-! ### BARRIER -/

section
variable (h : s.issues t (syncWord 2 f) th) (hok : syncBad true true false false false false f = false)
include hc h hok

theorem exec_barrier_outside (hm : s.member part = false) :
    exec (.barrier t f) s = .next (s.outsideTrap t th part i (syncWord 2 f)) := by
  change execBarrier t f s = _
  simp only [execBarrier, issue_runs h, hc, hok, hm, Bool.false_eq_true, if_false, Bool.not_false, if_true, stallOf_tkey]
  rfl

section
variable (hm : s.member part = true)
include hm

/-- A re-run's BARRIER waits for its journalled generation (R373). -/
theorem exec_barrier_rerun {g : W64} (hr : ((s.task th.graph th.task).bind fun ts => journalGen ts.replay th.idx part i) = some g) :
    let u := (s.modTask th.graph th.task fun ts => { ts with replay := ts.replay.filter fun e => e ≠ .barrier th.idx part i g }).journalBarrier
      th part i g
    exec (.barrier t f) s = .next ((u.tick.awaitGen (tkey t) { th with issued := u.clock } f.xd part i g (syncWord 2 f)).updateLend
      (hallOf (skey t.st))) := by
  change execBarrier t f s = _
  simp only [execBarrier, issue_runs h, hc, hok, hm, hr, Bool.false_eq_true, if_false, Bool.not_true, stallOf_tkey]

section
variable (hr : ((s.task th.graph th.task).bind fun ts => journalGen ts.replay th.idx part i) = none)
include hr

theorem exec_barrier_here (hhere : part = s.partNo) :
    (∀ g u, s.enterBarrier i false = (.joined g, u) → exec (.barrier t f) s = .next ((((u.journalBarrier th part i g).setThread (tkey t)
        (some (Thread.inBarrier { th with issued := u.clock } f.xd part i g (u.hallLc (hallOf (skey t.st))) 0))).tick).updateLend
          (hallOf (skey t.st))))
    ∧ (∀ u, s.enterBarrier i false = (.overrun, u) →
        exec (.barrier t f) s = .next (u.trap (tkey t) .barrierOverrun (counterWord part i) (syncWord 2 f)))
    ∧ (∀ u, s.enterBarrier i false = (.bad, u) →
        exec (.barrier t f) s = .next (u.trap (tkey t) .address (BitVec.ofNat 64 (counterAddr part i)) (syncWord 2 f))) := by
  have hexec : exec (.barrier t f) s = execBarrier t f s := rfl
  refine ⟨fun g u hu => hexec.trans ?_, fun u hu => hexec.trans ?_, fun u hu => hexec.trans ?_⟩
  · simp only [execBarrier, issue_runs h, hc, hok, hm, hr, hu, if_pos hhere, Bool.false_eq_true, if_false, Bool.not_true, stallOf_tkey]
  · simp only [execBarrier, issue_runs h, hc, hok, hm, hr, hu, if_pos hhere, Bool.false_eq_true, if_false, Bool.not_true, stallOf_tkey]
  · simp only [execBarrier, issue_runs h, hc, hok, hm, hr, hu, if_pos hhere, Bool.false_eq_true, if_false, Bool.not_true, stallOf_tkey]

theorem exec_barrier_away (haway : part ≠ s.partNo) : exec (.barrier t f) s = .next
    (((s.setThread (tkey t) (some { th with status := .barrierAsk f.xd part i, issued := s.clock, watch := s.bell.nextWatch
                                            waitFrom := s.hallLc (hallOf (skey t.st)) })).tick).registerAt part i 0 3 0 (.thread (tkey t))) := by
  change execBarrier t f s = _
  simp only [execBarrier, issue_runs h, hc, hok, hm, hr, if_neg haway, Bool.false_eq_true, if_false, Bool.not_true, stallOf_tkey]
  rfl
end
end
end

/-! ### WAITTOK, FENCE and YIELD -/

theorem exec_waittok_sound (h : s.issues t (syncWord 3 f) th) (hok : syncBad false false false false false true f = false)
    (hmask : f.tokmask ≠ 0) : exec (.waittok t f) s = .next (if ∃ m ∈ th.moves, m.tok < 4 ∧ f.tokmask.getLsbD m.tok = true
      then (s.setThread (tkey t) (some { th with status := .waitTok f.tokmask, issued := s.clock })).tick else s.retire (tkey t) th) := by
  change execWaittok t f s = _
  rw [execWaittok, issue_runs h, if_neg (by simpa [hok] using hmask)]
  exact congrArg _ (if_congr (by simp) rfl rfl)

theorem exec_fence_sound (h : s.issues t (syncWord 4 f) th) (hok : syncBad false false false false false false f = false) :
    exec (.fence t f) s = .next (if s.writesPending (tkey t) th = none then s.retire (tkey t) th
      else (s.setThread (tkey t) (some { th with status := .fence, issued := s.clock })).tick) := by
  change execFence t f s = _
  rw [execFence, issue_runs h, if_neg (by simp [hok])]
  cases hq : s.writesPending (tkey t) th with
  | none => rw [if_pos rfl]
  | some w => rw [if_neg (by simp)]

theorem exec_yield_sound (h : s.issues t (syncWord 5 f) th) (hok : syncBad false false false false false false f = false) :
    exec (.yield t f) s = .next ((s.setThread (tkey t) (some { th.past with issued := 0 })).tick) := by
  change execYield t f s = _
  rw [execYield, issue_runs h, if_neg (by simp [hok])]
end

/-- Settles O13: each instruction by where its counter lies and what it finds there. -/
theorem syncInstructions : Obligations.SyncInstructions := by
  unfold Obligations.SyncInstructions
  intro t f s th
  have hc := counterOf_eq (th.xr f.xa)
  refine ⟨fun h hok hq => ⟨exec_sig_outside hc h hok hq, fun hm hhere => ⟨fun hfree => ?_, fun hno => ?_⟩, exec_sig_away hc h hok hq⟩,
    fun h hok => ⟨exec_wait_outside hc h hok, exec_wait_inside hc h hok⟩,
    fun h hok => ⟨exec_barrier_outside hc h hok, fun hm hr hhere => exec_barrier_here hc h hok hm hr hhere,
      fun hm hr haway => exec_barrier_away hc h hok hm hr haway, fun g hm hr => exec_barrier_rerun hc h hok hm hr⟩,
    fun h hok hmask => ⟨fun hno => ?_, fun hbusy => ?_⟩, exec_fence_sound, exec_yield_sound⟩
  · obtain ⟨u, hu⟩ := Option.ne_none_iff_exists'.mp (mt (signal_journal_eq_none_iff (s := s)
      (i := BitVec.ofNat 16 (th.xr f.xa).toNat) th.graph th.task (th.xr f.xb) (s.journalSignal th.graph th.task _ _ (th.xr f.xb)).1).mp (not_or.mpr ⟨by rw [hfree.1]; decide, by rw [hfree.2]; decide⟩))
    refine ⟨u, hu, ?_⟩
    rw [exec_sig_here hc h hok hq hm hhere, hu]
    rfl
  · rw [exec_sig_here hc h hok hq hm hhere, (signal_journal_eq_none_iff ..).mpr hno]
    rfl
  · rw [exec_waittok_sound h hok hmask, if_neg hno]
  · rw [exec_waittok_sound h hok hmask, if_pos hbusy]
end Sys2Proof.Machine
end

section
/-! SUPPORT. The privileged class (R113, R114, R174, R176 to R178, R597): what a privileged thread's instruction does, and what stops any
other. -/

namespace Sys2Proof.Machine

section
variable {s : State} {t : ThreadRef} {f : PrivF} {th : Thread}

/-- A field that is not 0, or a thread without privilege, stops the instruction (R99, R113; log entry 128). -/
theorem issuePriv_of_stopped {op : BitVec 6} (h : s.issues t (privWord op f) th) {bad : Bool} (hno : th.prv = false ∨ bad = true)
    (run : Nat → Thread → State → State) :
    issuePriv op bad t f s run = .next (s.trap (tkey t) (if bad then .illegal else .privilege) 0 (privWord op f)) := by
  rw [issuePriv, issue_runs h]
  cases bad with
  | true => rfl
  | false =>
    have hprv : th.prv = false := hno.resolve_right (by decide)
    simp [hprv]

/-! ### DCREATE and SPLITK -/

section
variable (h : s.issues t (privWord 0 f) th) (hprv : th.prv = true) (hok : privBad true true false false false f = false)
include h hprv hok

theorem exec_dcreate_outside (hno : ¬ ((th.xr f.xa).toNat % 64 = 0 ∧ (th.xr f.xa).toNat + 64 ≤ 786432)) :
    exec (.dcreate t f) s = .next (s.trap (tkey t) .scratchRange (th.xr f.xa) (privWord 0 f)) := by
  change execDcreate t f s = _
  rw [execDcreate, issuePriv_runs h hprv hok]
  refine congrArg _ (if_pos ?_)
  rw [Bool.not_eq_true', Bool.eq_false_iff, ne_eq, scratchOk_iff]
  exact hno

/-- A draft in scratch is sealed into DREG, or DREG is emptied and XD holds the error code (R114). -/
theorem exec_dcreate_inside (hin : (th.xr f.xa).toNat % 64 = 0 ∧ (th.xr f.xa).toNat + 64 ≤ 786432)
    (hfree : s.holdFor (tkey t) th [⟨0, (th.xr f.xa).toNat, (th.xr f.xa).toNat + 64⟩] [] = none) :
    let a := (th.xr f.xa).toNat
    let draft : W512 := BitVec.ofNat 512 (ofLe (s.sread (skey t.st) 0 a 64))
    let src := pairSource s.startNo th draft
    let code := createCheck s.host.allocs (tagJob (s.threadTags th)) true src draft
    exec (.dcreate t f) s = .next ((s.touch th.graph th.task a (a + 63)).retire (tkey t) ((th.setX f.xd (BitVec.ofNat 64 code)).setD f.dreg
      (if code = 0 then some (createDesc s.startNo src draft) else none))) := by
  change execDcreate t f s = _
  rw [execDcreate, issuePriv_runs h hprv hok]
  refine congrArg _ ((if_neg ?_).trans ?_)
  · rw [Bool.not_eq_true', (scratchOk_iff ..).mpr hin]
    decide
  · rw [State.unlessHeld_of_none _ hfree, stallOf_tkey]
end

/-- SPLITK waits for the other participants while each of their stalls runs (R174, R176). -/
theorem exec_splitk_sound (h : s.issues t (privWord 1 f) th) (hprv : th.prv = true)
    (hok : (privBad false false true true false f || !decide (f.nm1 = 1 ∨ f.nm1 = 3 ∨ f.nm1 = 7 ∨ f.nm1 = 15)) = false) :
    exec (.splitk t f) s = .next (if ∀ j ≤ f.nm1.toNat, s.stallRuns (aisleOf (skey t.st) * 16 + j) = true
      then (s.setThread (tkey t) (some { th with status := .splitk f.xd f.slot f.nm1, issued := s.clock })).tick
      else s.retire (tkey t) (th.setX f.xd 1)) := by
  have hall : (∀ j ≤ f.nm1.toNat, s.stallRuns (aisleOf (skey t.st) * 16 + j) = true)
      ↔ ((List.range (f.nm1.toNat + 1)).any fun j => !(s.stallRuns (aisleOf (stallOf (tkey t)) * 16 + j))) = false := by
    simp only [stallOf_tkey, List.any_eq_false, List.mem_range, Nat.lt_succ_iff, Bool.not_eq_true', Bool.not_eq_false]
  change execSplitk t f s = _
  rw [execSplitk, issuePriv_runs h hprv (by grind)]
  refine congrArg _ ?_
  by_cases hrun : ∀ j ≤ f.nm1.toNat, s.stallRuns (aisleOf (skey t.st) * 16 + j) = true
  · rw [if_pos hrun]
    exact if_neg (by rw [hall.mp hrun]; decide)
  · rw [if_neg hrun]
    exact if_pos (by simpa using mt hall.mpr hrun)

/-! ### XSLICE -/

/-- The stall's mode, if it has one, is of the task (R177). -/
def StallInfo.exactOf (i : StallInfo) (g t : Nat) : Bool := i.exact.all fun e => e.2.1 = g && e.2.2 = t

theorem exec_xslice_sound (h : s.issues t (privWord 2 f) th) (hprv : th.prv = true) (hok : privBad false false false false true f = false)
    (hmode : f.mode.toNat ≤ 2) :
    let k := tkey t
    let st := skey t.st
    let i := s.stall st
    exec (.xslice t f) s = .next (if (s.rec_ th.graph th.task).any (fun r => r.kind = 7) then s.trap k .illegal 0 (privWord 2 f)
      else if i.exactOf th.graph th.task = false then s.retire k (th.setX f.xd 1)
      else if f.mode = 0 then
        if i.holdsExact th.graph th.task then s.retire k (th.setX f.xd 2)
        else ((s.modStall st fun i => { i with exact := none }).releaseHeld st fun w _ => w = .xmode).retire k (th.setX f.xd 0)
      else if i.exact.all (fun e => e.1 = f.mode) = false then s.retire k (th.setX f.xd 1)
      else if i.otherFormat || !(i.nextIs th.graph th.task) then
        ((s.setThread k (some { th with status := .xslice f.xd f.mode, issued := s.clock })).tick).modStall st fun i =>
          { i with exactNext := some (i.exactNext.getD (f.mode, th.graph, th.task)) }
      else ((s.setThread k (some { th with issued := s.clock })).tick).setExact k f.xd f.mode) := by
  change execXslice t f s = _
  rw [execXslice, issuePriv_runs h hprv (by simp [hok]; omega)]
  rw [stallOf_tkey]
  refine congrArg _ (if_congr Iff.rfl rfl (if_congr ?_ rfl (if_congr Iff.rfl rfl (if_congr ?_ rfl rfl))))
  · unfold StallInfo.exactOf
    cases (s.stall (skey t.st)).exact <;> grind
  · cases (s.stall (skey t.st)).exact <;> grind

section
variable (h : s.issues t (privWord 2 f) th) (hprv : th.prv = true) (hok : privBad false false false false true f = false)
  (hmode : f.mode.toNat ≤ 2)
include h hprv hok hmode

theorem exec_xslice_check (hk : (s.rec_ th.graph th.task).any (fun r => r.kind = 7) = true) :
    exec (.xslice t f) s = .next (s.trap (tkey t) .illegal 0 (privWord 2 f)) := by
  rw [exec_xslice_sound h hprv hok hmode, if_pos hk]

section
variable (hk : (s.rec_ th.graph th.task).any (fun r => r.kind = 7) = false)
include hk

theorem exec_xslice_other (hno : (s.stall (skey t.st)).exactOf th.graph th.task = false) :
    exec (.xslice t f) s = .next (s.retire (tkey t) (th.setX f.xd 1)) := by
  rw [exec_xslice_sound h hprv hok hmode, if_neg (by rw [hk]; decide), if_pos hno]

section
variable (hown : (s.stall (skey t.st)).exactOf th.graph th.task = true)
include hown

theorem exec_xslice_leave (hm : f.mode = 0) : exec (.xslice t f) s
    = .next (if (s.stall (skey t.st)).holdsExact th.graph th.task = true then s.retire (tkey t) (th.setX f.xd 2)
      else ((s.modStall (skey t.st) fun i => { i with exact := none }).releaseHeld (skey t.st) fun w _ => w = .xmode).retire (tkey t)
        (th.setX f.xd 0)) := by
  rw [exec_xslice_sound h hprv hok hmode, if_neg (by rw [hk]; decide), if_neg (by rw [hown]; decide), if_pos hm]

section
variable (hm : f.mode ≠ 0)
include hm

theorem exec_xslice_beside (hno : (s.stall (skey t.st)).exact.all (fun e => e.1 = f.mode) = false) :
    exec (.xslice t f) s = .next (s.retire (tkey t) (th.setX f.xd 1)) := by
  rw [exec_xslice_sound h hprv hok hmode, if_neg (by rw [hk]; decide), if_neg (by rw [hown]; decide), if_neg hm, if_pos hno]

section
variable (hsame : (s.stall (skey t.st)).exact.all (fun e => e.1 = f.mode) = true)
include hsame

/-- XSLICE waits for slots of another format, or behind another task, and is the next in the mode (R177). -/
theorem exec_xslice_waits (hwait : (s.stall (skey t.st)).otherFormat = true ∨ (s.stall (skey t.st)).nextIs th.graph th.task = false) :
    exec (.xslice t f) s = .next (((s.setThread (tkey t) (some { th with status := .xslice f.xd f.mode, issued := s.clock })).tick).modStall
      (skey t.st) fun i => { i with exactNext := some (i.exactNext.getD (f.mode, th.graph, th.task)) }) := by
  rw [exec_xslice_sound h hprv hok hmode, if_neg (by rw [hk]; decide), if_neg (by rw [hown]; decide), if_neg hm,
    if_neg (by rw [hsame]; decide), if_pos (by grind)]

theorem exec_xslice_enters (hfmt : (s.stall (skey t.st)).otherFormat = false) (hnext : (s.stall (skey t.st)).nextIs th.graph th.task = true) :
    exec (.xslice t f) s = .next (((s.setThread (tkey t) (some { th with issued := s.clock })).tick).setExact (tkey t) f.xd f.mode) := by
  rw [exec_xslice_sound h hprv hok hmode, if_neg (by rw [hk]; decide), if_neg (by rw [hown]; decide), if_neg hm,
    if_neg (by rw [hsame]; decide), if_neg (by grind)]
end
end
end
end
end

/-- A stall that enters the mode, and the thread that had it enter (R177). -/
theorem setExact_eq {s : State} {k : Nat} {th : Thread} (hth : s.thread k = some th) (xd : BitVec 5) (mode : BitVec 3) :
    s.setExact k xd mode = (s.modStall (stallOf k) fun i => { i with exact := some (mode, th.graph, th.task), exactNext := none }).setThread k
      (some (th.setX xd 0).past) := by
  rw [State.setExact, hth]

theorem xr_setX_same (th : Thread) (d : BitVec 5) (v : W64) : (th.setX d v).xr d = v := SMap.get_set_same ..

theorem setThread_setExact_thread (s : State) (k : Nat) (th : Thread) (xd : BitVec 5) (mode : BitVec 3) :
    (((s.setThread k (some th)).tick).setExact k xd mode).thread k = some (th.setX xd 0).past := by
  rw [setExact_eq (s := (s.setThread k (some th)).tick) (k := k) (th := th) (State.setThread_thread s k (some th))]
  exact State.setThread_thread ..

theorem setThread_setExact_stall (s : State) (k : Nat) (th : Thread) (xd : BitVec 5) (mode : BitVec 3) :
    (((s.setThread k (some th)).tick).setExact k xd mode).stall (stallOf k)
      = { s.stall (stallOf k) with exact := some (mode, th.graph, th.task), exactNext := none } := by
  rw [setExact_eq (s := (s.setThread k (some th)).tick) (k := k) (th := th) (State.setThread_thread s k (some th))]
  exact State.setStall_stall ..

/-! ### The mode of a stall, as the claim names it -/

theorem exactOf_of_own {i : StallInfo} {m : BitVec 3} {g u : Nat} (h : i.exact = none ∨ i.exact = some (m, g, u)) : i.exactOf g u = true := by
  rcases h with h | h <;> simp [StallInfo.exactOf, h]

theorem exactOf_of_other {i : StallInfo} {e : BitVec 3 × Nat × Nat} {g u : Nat} (h : i.exact = some e) (hno : i.exact ≠ some (e.1, g, u)) :
    i.exactOf g u = false := by
  obtain ⟨m, g', u'⟩ := e
  simp only [h, ne_eq, Option.some.injEq, Prod.mk.injEq, true_and, not_and] at hno
  simp only [StallInfo.exactOf, h, Option.all_some, Bool.and_eq_false_imp, decide_eq_true_eq, decide_eq_false_iff_not]
  exact hno
end

/-- Settles O14: a privileged thread by its instruction's checks, and any other instruction by the first that stops it. -/
theorem privilegedInstructions : Obligations.PrivilegedInstructions := by
  unfold Obligations.PrivilegedInstructions
  refine ⟨fun t f s th hprv => ?_, fun t f s th => ?_⟩
  · dsimp only
    refine ⟨fun h hok => ⟨fun h1 h2 hfree => exec_dcreate_inside h hprv hok ⟨h1, h2⟩ hfree,
        fun hno => exec_dcreate_outside h hprv hok (by omega)⟩,
      fun h hok hn => exec_splitk_sound h hprv (by rw [hok, decide_eq_true hn]; rfl), fun h hok hmode => ⟨fun hk => ?_, fun hk => ?_⟩,
      fun h hok hin => ?_⟩
    · obtain ⟨r, hr, h7⟩ := hk
      exact exec_xslice_check h hprv hok hmode (by simp [hr, h7])
    · have hk : (s.rec_ th.graph th.task).any (fun r => r.kind = 7) = false := by
        cases hr : s.rec_ th.graph th.task with
        | none => rfl
        | some r => simpa [hr] using hk
      refine ⟨fun e he hno => exec_xslice_other h hprv hok hmode hk (exactOf_of_other he hno),
        fun m hown hm hne => exec_xslice_beside h hprv hok hmode hk (exactOf_of_own (.inr hown)) hm ?_,
        fun hown hm => ?_, fun hown hm => ?_⟩
      · simp [hown, Ne.symm hne]
      · refine exec_xslice_leave h hprv hok hmode hk ?_ hm
        rcases hown with hn | ⟨m, hm'⟩
        · exact exactOf_of_own (m := 0) (.inl hn)
        · exact exactOf_of_own (.inr hm')
      · have hsame : (s.stall (skey t.st)).exact.all (fun e => e.1 = f.mode) = true := by
          rcases hown with hn | hn <;> simp [hn]
        refine ⟨fun hfmt hnext => ⟨_, exec_xslice_enters h hprv hok hmode hk (exactOf_of_own hown) hm hsame hfmt hnext, ?_⟩,
          fun hwait => ⟨_, exec_xslice_waits h hprv hok hmode hk (exactOf_of_own hown) hm hsame hwait, ?_⟩⟩
        · have hst := setThread_setExact_stall s (tkey t) { th with issued := s.clock } f.xd f.mode
          rw [stallOf_tkey] at hst
          rw [hst, setThread_setExact_thread]
          exact ⟨rfl, rfl, congrArg (fun v => some (v, th.pc + 8)) (xr_setX_same { th with issued := s.clock } f.xd 0)⟩
        · rw [State.modStall, State.setStall_stall]
          refine ⟨rfl, rfl, ?_⟩
          exact congrArg (Option.map fun x => (x.status, x.pc))
            (State.setThread_thread s (tkey t) (some { th with status := .xslice f.xd f.mode, issued := s.clock }))
    · rw [exec_tallyrd h hprv hok, if_neg (by omega)]
  · refine fun bad hno => ⟨fun h hb => ?_, fun h hb => ?_, fun h hb => ?_, fun h hb => ?_⟩
    · change execDcreate t f s = _
      rw [execDcreate, hb]
      exact issuePriv_of_stopped h hno _
    · have hb' : (privBad false false true true false f || !(f.nm1 = 1 || f.nm1 = 3 || f.nm1 = 7 || f.nm1 = 15)) = bad := by
        rw [← hb]
        grind
      change execSplitk t f s = _
      rw [execSplitk, hb']
      exact issuePriv_of_stopped h hno _
    · change execXslice t f s = _
      rw [execXslice, show (privBad false false false false true f || decide (f.mode.toNat > 2)) = bad from hb]
      exact issuePriv_of_stopped h hno _
    · change execTallyrd t f s = _
      rw [execTallyrd, hb]
      exact issuePriv_of_stopped h hno _
end Sys2Proof.Machine
end

section
/-! SUPPORT. Device, identity, seed, key and firmware commands (Table 18.9, R211, R535, R541, R553, R559, R561, R563). -/

namespace Sys2Proof.Machine

/-- A command that takes a signed object in bulk: its fields, then its digest and signature, then what follows (R559). -/
theorem withObject_of_serves {s : State} {op : W16} {n : Nat} {j : Bool} {h : CmdHdr} {c : Cmd} (hs : s.serves op n j h c) (u : State)
    (kind : SignedKind) (bulk : List Byte) (k : List Byte → State → State) :
    u.withObject (s.begun c) kind bulk k = if objFields kind (bulk.take h.bulkLen.toNat) = true then
        if u.objTrusted kind ((bulk.take h.bulkLen.toNat).take (objSize (bulk.take h.bulkLen.toNat))) = true
          then k ((bulk.take h.bulkLen.toNat).take (objSize (bulk.take h.bulkLen.toNat))) u
        else u.reply (s.begun c) 0x0A []
      else u.reply (s.begun c) stInvalid [] := by
  rw [State.withObject, begun_hdr hs]
  cases objFields kind (bulk.take h.bulkLen.toNat) with
  | true => rfl
  | false => rfl

section
variable {s : State} {h : CmdHdr} {c : Cmd} {v : W64} {bulk : List Byte}

theorem exec_deviceInfo (hs : s.serves 0x0101 0 false h c) :
    ∃ l, exec (.deviceInfo h) s = (s.begin_ c).answers (s.begun c) stOk l ∧ l.take 2 = [0x01B10A35, s.boot.serial.setWidth 64]
      ∧ l.length = 6 := by
  change ∃ l, execDeviceInfo h s = _ ∧ _
  rw [execDeviceInfo, command_runs hs]
  exact ⟨_, rfl, rfl, rfl⟩

theorem exec_ping (hs : s.serves 0x0102 0 false h c) : exec (.ping h) s = (s.begin_ c).answers (s.begun c) stOk [] := by
  change execPing h s = _
  rw [execPing, command_runs hs]
  rfl

theorem exec_idCertRead (hs : s.serves 0x0110 0 false h c) : exec (.idCertRead h) s = if s.noIdentity = true
    then (s.begin_ c).answers (s.begun c) 0x16 []
    else .next ((s.begin_ c).replyBulk (s.begun c) s.boot.certificate [BitVec.ofNat 64 s.boot.certificate.length]) := by
  change execIdCertRead h s = _
  rw [execIdCertRead, command_runs hs]
  exact apply_ite Host.Outcome.next ..

theorem exec_attest (n0 n1 n2 n3 n4 n5 : W64) (hs : s.serves 0x0111 6 false h c) :
    let body := (s.begin_ c).report ([n0, n1, n2, n3, n4, n5].flatMap fun w => leBytes 8 w.toNat)
    exec (.attest h n0 n1 n2 n3 n4 n5) s = if s.noIdentity = true then (s.begin_ c).answers (s.begun c) 0x16 []
      else .next ((s.begin_ c).replyBulk (s.begun c) (body ++ fixTo 96 (Config.identitySign body)) [480]) := by
  change execAttest h n0 n1 n2 n3 n4 n5 s = _
  rw [execAttest, command_runs hs]
  exact apply_ite Host.Outcome.next ..

theorem exec_jobSeedSet (hs : s.serves 0x0A01 1 true h c) : exec (.jobSeedSet h v) s = if s.jobResident h.job = true
    then (s.begin_ c).answers (s.begun c) stBusy []
    else ((s.begin_ c).setHost { (s.begin_ c).host with seeds := s.host.seeds.set 0 h.job.toNat v }).answers (s.begun c) stOk [] := by
  change execJobSeedSet h v s = _
  rw [execJobSeedSet, command_runs hs]
  exact apply_ite Host.Outcome.next ..

/-! ### Weight keys -/

theorem exec_wkeyInstall (hs : s.serves 0x0A02 1 false h c) :
    let given := bulk.take h.bulkLen.toNat
    let body := objBody (given.take (objSize given))
    exec (.wkeyInstall h v bulk) s = .next (if ¬ v.toNat ≤ 7 then (s.begin_ c).reply (s.begun c) stInvalid []
      else if objFields .weightKey given = true then
        if s.objTrusted .weightKey (given.take (objSize given)) = true then
          if leAt body 0 1 = v.toNat ∧ leAt body 1 7 = 0 then
            ((s.begin_ c).setHost { (s.begin_ c).host with wkeys := s.host.wkeys.set [] v.toNat ((body.drop 8).take 96) }).reply (s.begun c)
              stOk []
          else (s.begin_ c).reply (s.begun c) stInvalid []
        else (s.begin_ c).reply (s.begun c) 0x0A []
      else (s.begin_ c).reply (s.begun c) stInvalid []) := by
  change execWkeyInstall h v bulk s = _
  rw [execWkeyInstall, command_runs hs, ]
  refine congrArg _ (if_congr (by grind [inRange_iff]) rfl ((withObject_of_serves hs ..).trans
    (if_congr Iff.rfl (if_congr Iff.rfl ?_ rfl) rfl)))
  rw [← ite_not]
  exact if_congr (by grind) rfl rfl

theorem exec_wkeyClear (hs : s.serves 0x0A03 1 false h c) : exec (.wkeyClear h v) s = .next (if 7 < v.toNat
    then (s.begin_ c).reply (s.begun c) stInvalid []
    else if s.weights.loads ≠ [] then (s.begin_ c).reply (s.begun c) stBusy []
    else ((s.begin_ c).setHost { (s.begin_ c).host with wkeys := s.host.wkeys.set [] v.toNat [] }).reply (s.begun c) stOk []) := by
  change execWkeyClear h v s = _
  rw [execWkeyClear, command_runs hs]
  refine congrArg _ (if_congr (by grind [inRange_iff]) rfl (if_congr ?_ rfl rfl))
  rw [show (s.begin_ c).weights = s.weights from rfl]
  grind [List.isEmpty_iff]

/-! ### Firmware -/

/-- An image in the area that is not in use (R541). -/
def State.stage (s : State) (target : W64) (b : List Byte) : State :=
  let hd := s.boot.header.getD {}
  let boot := if target = 0 then { s.boot with fwAreas := s.boot.fwAreas.set [] (if hd.fwArea then 0 else 1) b }
    else { s.boot with cfgAreas := s.boot.cfgAreas.set [] (if hd.cfgArea then 0 else 1) b }
  ({ s with boot := boot } : State).setHost { s.host with staged := s.host.staged.set none target.toNat (some b) }

theorem stage_staged (s : State) (target : W64) (b : List Byte) : (s.stage target b).host.staged.get none target.toNat = some b := by
  exact SMap.get_set_same none s.host.staged target.toNat (some b)

theorem stage_headers (s : State) (target : W64) (b : List Byte) : (s.stage target b).boot.headers = s.boot.headers := by
  unfold State.stage
  by_cases ht : target = 0
  · simp only [if_pos ht]
    rfl
  · simp only [if_neg ht]
    rfl

theorem exec_fwStage (hs : s.serves 0x0A10 1 false h c) :
    let given := bulk.take h.bulkLen.toNat
    exec (.fwStage h v bulk) s = .next (if ¬ v.toNat ≤ 1 then (s.begin_ c).reply (s.begun c) stInvalid []
      else if objFields (stagedKind v) given = true then
        if s.objTrusted (stagedKind v) (given.take (objSize given)) = true
          then ((s.begin_ c).stage v (given.take (objSize given))).reply (s.begun c) stOk []
        else (s.begin_ c).reply (s.begun c) 0x0A []
      else (s.begin_ c).reply (s.begun c) stInvalid []) := by
  change execFwStage h v bulk s = _
  rw [execFwStage, command_runs hs]
  exact congrArg _ (if_congr (by grind [inRange_iff]) rfl (withObject_of_serves hs ..))

/-- A staged image goes into use at the next start, and its configuration may enrol the owner (R553, R563). -/
def State.commitStaged (s : State) (target : W64) (b : List Byte) : State :=
  let boot := s.boot.commitHeader fun x => if target = 0 then { x with fwArea := !x.fwArea } else { x with cfgArea := !x.cfgArea }
  let owner := if target = 1 && objEnrol b && boot.owner.isNone then some (sha384 (objKey b)) else boot.owner
  let u := State.modRecord { s with boot := { boot with owner := owner } } fun r => { r with commit := true }
  u.setHost { u.host with staged := u.host.staged.set none target.toNat none }

theorem modRecord_boot (s : State) (f : StepRec → StepRec) :
    (s.modRecord f).boot.headers = s.boot.headers ∧ (s.modRecord f).boot.owner = s.boot.owner := by
  unfold State.modRecord
  cases s.boot.records with
  | nil => exact ⟨rfl, rfl⟩
  | cons r rest => exact ⟨rfl, rfl⟩

theorem commitStaged_staged (s : State) (target : W64) (b : List Byte) : (s.commitStaged target b).host.staged.get none target.toNat = none := by
  dsimp only [State.commitStaged, State.setHost]
  exact SMap.get_set_same none _ target.toNat none

theorem commitStaged_headers (s : State) (target : W64) (b : List Byte) : (s.commitStaged target b).boot.headers
    = (s.boot.commitHeader fun x => if target = 0 then { x with fwArea := !x.fwArea } else { x with cfgArea := !x.cfgArea }).headers :=
  (modRecord_boot ..).1

theorem commitStaged_owner (s : State) (target : W64) (b : List Byte) : (s.commitStaged target b).boot.owner
    = if target = 1 ∧ objEnrol b = true ∧ s.boot.owner = none then some (sha384 (objKey b)) else s.boot.owner :=
  (modRecord_boot ..).2.trans (if_congr (by grind [Option.isNone_iff_eq_none, Boot.commitHeader]) rfl rfl)

theorem exec_fwCommit (hs : s.serves 0x0A11 1 false h c) :
    exec (.fwCommit h v) s = .next (if 1 < v.toNat then (s.begin_ c).reply (s.begun c) stInvalid []
      else (s.host.staged.get none v.toNat).elim ((s.begin_ c).reply (s.begun c) stNotReady [])
        fun b => ((s.begin_ c).commitStaged v b).reply (s.begun c) stOk []) := by
  change execFwCommit h v s = _
  rw [execFwCommit, command_runs hs]
  refine congrArg _ (if_congr (by grind [inRange_iff]) rfl ?_)
  change (match s.host.staged.get none v.toNat with | none => _ | some b => _) = _
  cases s.host.staged.get none v.toNat with
  | none => rfl
  | some b => rfl
end

/-- Settles O24: each command by what its operands, the identity and the signature say. -/
theorem deviceAndSecurityCommands : Obligations.DeviceAndSecurityCommands := by
  unfold Obligations.DeviceAndSecurityCommands
  intro h c s v bulk
  refine ⟨exec_deviceInfo, exec_ping, fun hs => ?_, fun n0 n1 n2 n3 n4 n5 hs => ?_, exec_jobSeedSet, fun hs => ?_, fun hs => ?_,
    fun hs => ?_, fun hs => ?_⟩
  · rw [exec_idCertRead hs, replyBulk_of_serves hs]
  · dsimp only
    rw [exec_attest n0 n1 n2 n3 n4 n5 hs, replyBulk_of_serves hs]
  · have he := exec_wkeyInstall (v := v) (bulk := bulk) hs
    refine ⟨fun hno => ?_, fun hso hsi => ?_, fun hso hsi hf => ?_, fun hso hsi hf hf' => ?_⟩
    · rw [he]
      exact congrArg _ (by grind)
    · rw [he, if_neg (Classical.not_not.mpr hso.1), if_pos hso.2, if_neg hsi]
      rfl
    · rw [he, if_neg (Classical.not_not.mpr hso.1), if_pos hso.2, if_pos hsi, if_neg hf]
      rfl
    · rw [he, if_neg (Classical.not_not.mpr hso.1), if_pos hso.2, if_pos hsi, if_pos ⟨hf, hf'⟩]
      rfl
  · rw [exec_wkeyClear hs, apply_ite Host.Outcome.next, apply_ite Host.Outcome.next]
    rfl
  · have he := exec_fwStage (v := v) (bulk := bulk) hs
    refine ⟨fun hno => ?_, fun hso hsi => ?_, fun hso hsi => ⟨_, ?_, stage_staged (s.begin_ c) .., stage_headers (s.begin_ c) ..⟩⟩
    · rw [he]
      exact congrArg _ (by grind)
    · rw [he, if_neg (Classical.not_not.mpr hso.1), if_pos hso.2, if_neg hsi]
      rfl
    · rw [he, if_neg (Classical.not_not.mpr hso.1), if_pos hso.2, if_pos hsi]
      rfl
  · refine ⟨fun hno => ?_, fun hv hn => ?_, fun img hv hi => ⟨_, ?_, commitStaged_staged .., commitStaged_headers (s.begin_ c) v img,
      commitStaged_owner (s.begin_ c) v img⟩⟩
    · rw [exec_fwCommit hs, if_pos hno]
      rfl
    · rw [exec_fwCommit hs, if_neg (by omega), hn]
      rfl
    · rw [exec_fwCommit hs, if_neg (by omega), hi]
      rfl
end Sys2Proof.Machine
end

section
/-! SUPPORT. HBM (R385 to R397, R400, R417, R429 to R431): the memory health commands, and the events of a stack. -/

namespace Sys2Proof.Machine

/-! ### What the records of an event leave alone -/

/-- The stacks, the translation state and the graphs are as before. -/
structure State.KeepsHbm (s u : State) : Prop where
  hbm : u.hbm = s.hbm
  xlt : u.xlt = s.xlt
  graphs : u.graphs = s.graphs

namespace State.KeepsHbm
variable {s u v : State}

theorem trans (h : s.KeepsHbm u) (k : u.KeepsHbm v) : s.KeepsHbm v :=
  ⟨k.hbm.trans h.hbm, k.xlt.trans h.xlt, k.graphs.trans h.graphs⟩

theorem of_records (h : s.Records u) : s.KeepsHbm u := by
  obtain ⟨-, -, -, -, -, -, hgraphs, -, hxlt, -, -, -, -, hhbm, -⟩ := h.frame
  exact ⟨hhbm, hxlt, hgraphs⟩

theorem stack (h : s.KeepsHbm u) (k : Nat) : u.stack k = s.stack k := by
  rw [State.stack, h.hbm, State.stack]
end State.KeepsHbm

theorem keepsHbm_stackFault (s : State) (k : Nat) (cls : FaultClass) (action : Byte) (detail : Nat) :
    s.KeepsHbm (s.stackFault k cls action detail) := .of_records (records_hallFault ..)

theorem keepsHbm_raiseAlert (s : State) (n : Nat) : s.KeepsHbm (s.raiseAlert n) := .of_records (counts_raiseAlert ..).records

theorem keepsHbm_count (s : State) (n : TallyName) (unit k : Nat) : s.KeepsHbm (s.count n unit k) := .of_records (counts_count ..).records

theorem keepsHbm_modHallPower (s : State) (h : Nat) (f : HallPower → HallPower) : s.KeepsHbm (s.modHallPower h f) := ⟨rfl, rfl, rfl⟩

theorem keepsHbm_clampHalls (s : State) : s.KeepsHbm s.clampHalls := by
  unfold State.clampHalls
  simp only [List.foldl_cons, List.foldl_nil]
  exact (((keepsHbm_modHallPower ..).trans (keepsHbm_modHallPower ..)).trans (keepsHbm_modHallPower ..)).trans (keepsHbm_modHallPower ..)

@[simp] theorem modStack_stack (s : State) (k : Nat) (f : Stack → Stack) : (s.modStack k f).stack k = f (s.stack k) := State.setStack_stack ..

/-! ### The commands -/

section
variable {s : State} {h : CmdHdr} {c : Cmd} {stack va v : W64}

/-- A command's record is written to its job's space, or meets what stops it there (R400). -/
theorem cmdWrite_cases {op : W16} {n : Nat} {j : Bool} (hs : s.serves op n j h c) (p : State) (a : Nat) (bs : List Byte) (l : List W64)
    {o : Host.Outcome State Fault Refusal} (ho : o = .next (p.cmdWrite (s.begun c) h.job a bs l)) :
    (∀ u, p.vwrite h.job a bs = .ok (u, []) → o = u.answers (s.begun c) stOk l)
    ∧ (∀ u w ws, p.vwrite h.job a bs = .ok (u, w :: ws) →
      o = .next ((u.remoteWrites (.cmd h.seq) 0 false (w :: ws)).waitCmd (s.begun c) (.acks l)))
    ∧ (∀ x f, p.vwrite h.job a bs = .err x f → o = (p.accessFault 4 f x 0).answers (s.begun c) stAddress [])
    ∧ (∀ kind x lo size, p.vwrite h.job a bs = .fault kind x lo size → o = p.answers (s.begun c) stAddress []) := by
  rw [ho]
  refine ⟨fun u hv => congrArg _ (cmdWrite_local hv), fun u w ws hv => congrArg _ ?_, fun x f hv => congrArg _ (cmdWrite_err hv),
    fun kind x lo size hv => congrArg _ (cmdWrite_fault hv)⟩
  rw [cmdWrite_away hv, begun_hdr hs]

theorem exec_memHealth (hs : s.serves 0x0220 2 true h c) : exec (.memHealth h stack va) s = .next (if 11 < stack.toNat
    then (s.begin_ c).reply (s.begun c) stInvalid []
    else ((s.begin_ c).readEcs stack.toNat).cmdWrite (s.begun c) h.job va.toNat
      (((s.begin_ c).readEcs stack.toNat).healthBytes stack.toNat) []) := by
  change execMemHealth h stack va s = _
  rw [execMemHealth, command_runs hs, ← ite_not]
  exact congrArg _ (if_congr (by grind [inRange_iff]) rfl rfl)

theorem exec_memRetired (hs : s.serves 0x0221 3 true h c) : exec (.memRetired h stack va v) s = .next (if 11 < stack.toNat
    then (s.begin_ c).reply (s.begun c) stInvalid []
    else (s.begin_ c).cmdWrite (s.begun c) h.job va.toNat (((s.stack stack.toNat).retired.take v.toNat).flatMap fun x => leBytes 8 (x % 2 ^ 21))
      [BitVec.ofNat 64 (s.stack stack.toNat).retired.length]) := by
  change execMemRetired h stack va v s = _
  rw [execMemRetired, command_runs hs]
  exact congrArg _ (if_congr (by grind [inRange_iff]) rfl rfl)

/-- Every stack of a list takes a scrub period (R390). -/
def State.scrubEvery (s : State) (hours : Nat) (l : List Nat) : State := l.foldl (fun s k => s.modStack k fun x => { x with scrubHours := hours }) s

theorem scrubEvery_of_not_mem (hours : Nat) (l : List Nat) (s : State) (k : Nat) (hk : k ∉ l) : (s.scrubEvery hours l).stack k = s.stack k := by
  induction l generalizing s with
  | nil => rfl
  | cons j l ih =>
    simp only [List.mem_cons, not_or] at hk
    exact (ih _ hk.2).trans (State.setStack_stack_of_ne _ _ hk.1)

theorem scrubEvery_of_mem (hours : Nat) (l : List Nat) (s : State) (k : Nat) (hk : k ∈ l) : ((s.scrubEvery hours l).stack k).scrubHours = hours := by
  induction l generalizing s with
  | nil => cases hk
  | cons j l ih =>
    by_cases hl : k ∈ l
    · exact ih _ hl
    · obtain rfl : k = j := (List.mem_cons.mp hk).resolve_right hl
      refine (congrArg Stack.scrubHours (scrubEvery_of_not_mem hours l _ k hl)).trans ?_
      rw [modStack_stack]

theorem exec_memScrubSet (hs : s.serves 0x0222 2 false h c) : exec (.memScrubSet h stack v) s = .next (
    if ¬ (1 ≤ v.toNat ∧ v.toNat ≤ 168) then (s.begin_ c).reply (s.begun c) stInvalid []
    else if stack = 0xFF then ((s.begin_ c).scrubEvery v.toNat (List.range 12)).reply (s.begun c) stOk []
    else if stack.toNat ≤ 11 then ((s.begin_ c).modStack stack.toNat fun x => { x with scrubHours := v.toNat }).reply (s.begun c) stOk []
    else (s.begin_ c).reply (s.begun c) stInvalid []) := by
  change execMemScrubSet h stack v s = _
  rw [execMemScrubSet, command_runs hs]
  exact congrArg _ (if_congr (by grind [inRange_iff]) rfl (if_congr Iff.rfl rfl (if_congr (by grind [inRange_iff]) rfl rfl)))

theorem memScrubSet_cases (hs : s.serves 0x0222 2 false h c) :
    (v.toNat < 1 ∨ 168 < v.toNat ∨ 11 < stack.toNat ∧ stack ≠ 0xFF →
      exec (.memScrubSet h stack v) s = (s.begin_ c).answers (s.begun c) stInvalid [])
    ∧ (stack.toNat ≤ 11 → 1 ≤ v.toNat → v.toNat ≤ 168 → exec (.memScrubSet h stack v) s
      = ((s.begin_ c).modStack stack.toNat fun x => { x with scrubHours := v.toNat }).answers (s.begun c) stOk [])
    ∧ (1 ≤ v.toNat → v.toNat ≤ 168 → ∃ u : State, exec (.memScrubSet h 0xFF v) s = u.answers (s.begun c) stOk []
      ∧ ∀ j : Fin 12, (u.stack j.val).scrubHours = v.toNat) := by
  refine ⟨fun hno => ?_, fun hk h1 h2 => ?_, fun h1 h2 => ⟨_, ?_, fun j => scrubEvery_of_mem v.toNat (List.range 12) (s.begin_ c) j.val
    (List.mem_range.mpr j.isLt)⟩⟩
  · rw [exec_memScrubSet hs]
    by_cases hp : 1 ≤ v.toNat ∧ v.toNat ≤ 168
    · obtain ⟨hk, hne⟩ : 11 < stack.toNat ∧ stack ≠ 0xFF := (hno.resolve_left (by omega)).resolve_left (by omega)
      rw [if_neg (Classical.not_not.mpr hp), if_neg hne, if_neg (by omega)]
      rfl
    · rw [if_pos hp]
      rfl
  · have hne : stack ≠ 0xFF := by
      rintro rfl
      exact absurd hk (by decide)
    rw [exec_memScrubSet hs, if_neg (Classical.not_not.mpr ⟨h1, h2⟩), if_neg hne, if_pos hk]
    rfl
  · rw [exec_memScrubSet hs, if_neg (Classical.not_not.mpr ⟨h1, h2⟩), if_pos rfl]
    rfl
end

/-! ### Granules and poison -/

/-- What only parity could give is poisoned, place by place (R385). -/
def State.poisonPlaces (s : State) (k : Nat) (l : List Nat) : State := l.foldl (fun s x => s.poisonPlace k x) s

theorem poisonPlace_poison (s : State) (k x : Nat) :
    (s.poisonPlace k x).poison = (s.offsetAt k x).elim s.poison fun o => s.poison.set false (o / 64) true := by
  unfold State.poisonPlace
  cases s.offsetAt k x with
  | none => rfl
  | some o => rfl

theorem poisonPlace_eq (s : State) (k x : Nat) : s.poisonPlace k x = { s with poison := (s.poisonPlace k x).poison } := by
  unfold State.poisonPlace
  cases s.offsetAt k x with
  | none => rfl
  | some o => rfl

/-- The granules that a list of places poisons, and nothing else, are poisoned. -/
theorem poisonPlaces_spec (k : Nat) (l : List Nat) (s : State) :
    s.poisonPlaces k l = { s with poison := (s.poisonPlaces k l).poison }
    ∧ (∀ n, s.poison.get false n = true → (s.poisonPlaces k l).poison.get false n = true)
    ∧ (∀ x ∈ l, ∀ o, s.offsetAt k x = some o → (s.poisonPlaces k l).poison.get false (o / 64) = true)
    ∧ (∀ n, (∀ x ∈ l, (s.offsetAt k x).map (· / 64) ≠ some n) → (s.poisonPlaces k l).poison.get false n = s.poison.get false n) := by
  induction l generalizing s with
  | nil => exact ⟨rfl, fun n hn => hn, nofun, fun n _ => rfl⟩
  | cons x l ih =>
    have hx := poisonPlace_eq s k x
    have hpo := poisonPlace_poison s k x
    have hat : ∀ y, (s.poisonPlace k x).offsetAt k y = s.offsetAt k y := fun y => by rw [hx]; rfl
    have hkeep : ∀ n, s.poison.get false n = true → (s.poisonPlace k x).poison.get false n = true := by
      intro n hn
      rw [hpo]
      cases s.offsetAt k x with
      | none => exact hn
      | some o => simp [hn]
    obtain ⟨h1, h2, h3, h4⟩ := ih (s.poisonPlace k x)
    rw [show s.poisonPlaces k (x :: l) = (s.poisonPlace k x).poisonPlaces k l from rfl]
    refine ⟨h1.trans ?_, fun n hn => h2 n (hkeep n hn), fun y hy o ho => ?_, fun n hn => ?_⟩
    · generalize (s.poisonPlace k x).poisonPlaces k l = w
      rw [hx]
    · rcases List.mem_cons.mp hy with rfl | hy
      · refine h2 _ ?_
        rw [hpo, ho]
        exact SMap.get_set_same ..
      · exact h3 y hy o ((hat y).trans ho)
    · refine (h4 n fun y hy => (hat y).symm ▸ hn y (List.mem_cons_of_mem _ hy)).trans ?_
      have hn' := hn x List.mem_cons_self
      rw [hpo]
      cases ho : s.offsetAt k x with
      | none => rfl
      | some o =>
        rw [ho] at hn'
        exact SMap.get_set_other _ _ _ fun he => hn' (congrArg some he.symm)

section
variable {s : State} {stack : Fin 12} {addr : Nat}

theorem exec_granuleRecon_nowhere (ho : s.offsetOf stack.val addr = none) : exec (.granuleRecon stack addr) s = .next s := by
  change execGranuleRecon stack addr s = _
  simp only [execGranuleRecon, ho]

theorem exec_poisonRead_nowhere (ho : s.offsetOf stack.val addr = none) : exec (.poisonRead stack addr) s = .next s := by
  change execPoisonRead stack addr s = _
  simp only [execPoisonRead, ho]

theorem exec_granuleRecon {off : Nat} (ho : s.offsetOf stack.val addr = some off) : exec (.granuleRecon stack addr) s = .next (
    let l := s.redirect stack.val addr
    if s.stackUp stack.val = false then s
    else if (s.stack stack.val).canRebuild (rowOf l).1 = true ∧ s.rowBack stack.val l = false ∧ s.mateBad stack.val l = false then
      ((s.modStack stack.val fun x => { x with recon := x.recon + 1 }).count .granuleRecon stack.val 1).stackFault stack.val .granuleRecon 1 0
    else ({ s with poison := s.poison.set false (off / 64) true } : State).poisonPlaces stack.val (s.byParity stack.val l)) := by
  change execGranuleRecon stack addr s = _
  simp only [execGranuleRecon, ho]
  rw [apply_ite Host.Outcome.next, apply_ite Host.Outcome.next]
  exact if_congr (by grind) rfl (if_congr (by grind) rfl rfl)

theorem exec_poisonRead {off : Nat} (ho : s.offsetOf stack.val addr = some off) : exec (.poisonRead stack addr) s = .next (
    if s.stackUp stack.val = true ∧ s.poisonGranule (off / 64) = true
    then (s.count .poisonRead stack.val 1).stackFault stack.val .poison 0 (s.partNo * 2 ^ 44 + off / 64 * 64) else s) := by
  change execPoisonRead stack addr s = _
  simp only [execPoisonRead, ho]
  rw [apply_ite Host.Outcome.next]
  exact if_congr (by grind) rfl rfl

theorem granule_cases {off : Nat} (hup : s.stackUp stack.val = true) (ho : s.offsetOf stack.val addr = some off) :
    let k := stack.val
    let l := s.redirect k addr
    let sound := (s.stack k).canRebuild (rowOf l).1 = true ∧ s.rowBack k l = false ∧ s.mateBad k l = false
    (sound → exec (.granuleRecon stack addr) s = .next
      (((s.modStack k fun x => { x with recon := x.recon + 1 }).count .granuleRecon k 1).stackFault k .granuleRecon 1 0))
    ∧ (¬ sound → ∃ u : State, exec (.granuleRecon stack addr) s = .next u ∧ u = { s with poison := u.poison } ∧ u.poison.get false (off / 64) = true
      ∧ (∀ n, s.poison.get false n = true → u.poison.get false n = true)
      ∧ (∀ y ∈ s.byParity k l, ∀ o, s.offsetAt k y = some o → u.poison.get false (o / 64) = true)
      ∧ (∀ n, n ≠ off / 64 → (∀ y ∈ s.byParity k l, (s.offsetAt k y).map (· / 64) ≠ some n) → u.poison.get false n = s.poison.get false n)) := by
  dsimp only
  have hrun : ¬ s.stackUp stack.val = false := by rw [hup]; decide
  refine ⟨fun hs => ?_, fun hno =>
    ⟨({ s with poison := s.poison.set false (off / 64) true } : State).poisonPlaces stack.val
      (s.byParity stack.val (s.redirect stack.val addr)), ?_, ?_⟩⟩
  · rw [exec_granuleRecon ho, if_neg hrun, if_pos hs]
  · rw [exec_granuleRecon ho, if_neg hrun, if_neg hno]
  · obtain ⟨h1, h2, h3, h4⟩ := poisonPlaces_spec stack.val (s.byParity stack.val (s.redirect stack.val addr))
      { s with poison := s.poison.set false (off / 64) true }
    refine ⟨h1, h2 _ (SMap.get_set_same false s.poison (off / 64) true), fun n hn => h2 n ?_, h3, fun n hne hn => (h4 n hn).trans (SMap.get_set_other false s.poison true hne)⟩
    rw [SMap.get_set, hn, ite_self]

/-! ### Pseudo-channels and rows -/

variable {pc bank : Fin 64} {row : Fin 16384}

/-- The pseudo-channel has not failed before. -/
def Stack.freshPc (x : Stack) (pc : Nat) : Prop := (∀ e ∈ x.erased, e.1 ≠ pc) ∧ ¬ pc ∈ x.lostPcs

theorem freshPc_iff (x : Stack) (pc : Nat) : x.freshPc pc ↔ ((x.erased.any fun e => e.1 = pc) || x.lostPcs.contains pc) = false := by
  simp [Stack.freshPc]

theorem exec_pcFailed_known (hno : s.stackUp stack.val = false ∨ ¬ (s.stack stack.val).freshPc pc.val) : exec (.pcFailed stack pc) s = .next s := by
  change execPcFailed stack pc s = _
  rw [freshPc_iff] at hno
  exact if_pos (by grind)

section
variable (hup : s.stackUp stack.val = true) (hf : (s.stack stack.val).freshPc pc.val)
include hup hf

theorem pcFailed_runs : (!(s.stackUp stack.val) || ((s.stack stack.val).erased.any fun e => e.1 = pc.val)
    || (s.stack stack.val).lostPcs.contains pc.val) = false := by
  have := (freshPc_iff ..).mp hf
  grind

theorem exec_pcFailed_first (hall : ∀ e ∈ (s.stack stack.val).erased, e.1 / 16 ≠ pc.val / 16) : exec (.pcFailed stack pc) s = .next
    (((s.poisonMates stack.val pc.val).modStack stack.val fun y => { y with erased := (pc.val, false) :: y.erased }).stackFault stack.val
      .pcFailed 6 0) := by
  have hnone : ((s.stack stack.val).erased.find? fun e => e.1 / 16 = pc.val / 16) = none := by simpa using hall
  change execPcFailed stack pc s = _
  refine (if_neg (by rw [pcFailed_runs hup hf]; decide)).trans ?_
  simp only [hnone]

theorem exec_pcFailed_second {first : Nat} {done : Bool}
    (hsome : ((s.stack stack.val).erased.find? fun e => e.1 / 16 = pc.val / 16) = some (first, done)) :
    let x := s.stack stack.val
    let cut := done = false ∧ ¬ first ∈ x.lostPcs
    let gone := (if cut then [pc.val, first] else [pc.val]) ++ x.lostPcs
    let still := if cut then x.halted.set none first (some (s.hallLc (stack.val / 3))) else x.halted
    exec (.pcFailed stack pc) s
      = .next ((s.modStack stack.val fun y => { y with lostPcs := gone, halted := still }).stackFault stack.val .pcSecond 0 0) := by
  have hcut : (!(done || (s.stack stack.val).lostPcs.contains first)) = true ↔ done = false ∧ ¬ first ∈ (s.stack stack.val).lostPcs := by
    cases done <;> simp
  change execPcFailed stack pc s = _
  refine (if_neg (by rw [pcFailed_runs hup hf]; decide)).trans ?_
  simp only [hsome, State.modStack, if_congr hcut]
end
end

/-- The first failed pseudo-channel of a stack that is not rebuilt yet and not lost (R394). -/
def Stack.rebuilding (x : Stack) : Option (Nat × Bool) := x.erased.find? fun e => !e.2 && !(x.lostPcs.contains e.1)

theorem exec_pcRebuildDone (stack : Fin 12) (s : State) : exec (.pcRebuildDone stack) s = .next ((s.stack stack.val).rebuilding.elim s fun e =>
    if s.stackUp stack.val = false then s else
    (s.modStack stack.val fun y => { y with erased := y.erased.map fun d => if d = e then (d.1, true) else d }).stackFault stack.val
      .pcFailed 8 0) := by
  change execPcRebuildDone stack s = _
  unfold execPcRebuildDone Stack.rebuilding
  dsimp only
  cases ((s.stack stack.val).erased.find? fun e => !e.2 && !((s.stack stack.val).lostPcs.contains e.1)) with
  | none => rfl
  | some e =>
    dsimp only [Option.elim_some]
    rw [apply_ite Host.Outcome.next]
    exact if_congr (by grind) rfl rfl

/-- A row takes the next spare of its bank (R395). -/
def State.spareRow (s : State) (k pc bank row : Nat) : State :=
  let b := bank * 64 + pc
  let used := (s.stack k).sparesUsed.get 0 b
  ((s.modStack k fun x => { x with rowMap := x.rowMap.set none (b * 16384 + row) (some used), sparesUsed := x.sparesUsed.set 0 b (used + 1)
                                   remaps := x.remaps + 1 }).count .remaps k 1).stackFault k .rowRemap 4 0

theorem exec_rowRemap (stack : Fin 12) (pc bank : Fin 64) (row : Fin 16384) (s : State) :
    let k := stack.val
    let u := (row.val * 4096 + bank.val * 64 + pc.val) / 32
    exec (.rowRemap stack pc bank row) s = .next (if s.stackUp k = false then s
      else if (s.stack k).sparesUsed.get 0 (bank.val * 64 + pc.val) < 32 then s.spareRow k pc.val bank.val row.val
      else if (k, u) ∈ s.xlt.retiring ∨ u ∈ (s.stack k).retired then s
      else s.setXlt { s.xlt with retiring := s.xlt.retiring ++ [(k, u)] }) := by
  change execRowRemap stack pc bank row s = _
  unfold execRowRemap
  dsimp only
  rw [apply_ite Host.Outcome.next, apply_ite Host.Outcome.next, apply_ite Host.Outcome.next]
  exact if_congr (by grind) rfl (if_congr Iff.rfl rfl (if_congr (by grind) rfl rfl))

/-! ### A unit's retirement -/

/-- A unit moves to the reserve unit found for it, or is dead (R417, R430). -/
def State.placeUnit (s : State) (k unit off : Nat) : State :=
  (s.replacement k (s.ownerUnit k unit)).elim (s.setXlt { s.xlt with dead := (k * 2 ^ 32 + unit) :: s.xlt.dead })
    (s.moveUnitTo k (s.ownerUnit k unit) off)

/-- A unit no longer waits for its retirement. -/
def State.unlistUnit (s : State) (k unit : Nat) : State :=
  s.setXlt { s.xlt with retiring := s.xlt.retiring.filter (fun r => r ≠ (k, unit)), holding := s.xlt.holding.filter fun r => r ≠ (k, unit) }

/-- A retired unit is listed and counted, and reported when the stack has `n` of them (R397, R417). -/
def State.listRetired (s : State) (k unit : Nat) : State :=
  let n := (s.stack k).retired.length + 1
  let u := ((s.modStack k fun y => { y with retired := unit :: y.retired, marked := y.marked || n > 1024 }).count .retired k 1).stackFault k
    .unitRetired 5 0
  if n > 1024 then u.raiseAlert 3 else u

theorem moveUnitTo_frame (s : State) (k v off r : Nat) :
    (s.moveUnitTo k v off r).hbm = s.hbm ∧ (s.moveUnitTo k v off r).trace = s.trace ∧ (s.moveUnitTo k v off r).mem = s.mem := by
  unfold State.moveUnitTo
  dsimp only [State.setXlt]
  exact ⟨rfl, rfl, rfl⟩

theorem placeUnit_frame (s : State) (k unit off : Nat) :
    (s.placeUnit k unit off).hbm = s.hbm ∧ (s.placeUnit k unit off).trace = s.trace ∧ (s.placeUnit k unit off).mem = s.mem := by
  unfold State.placeUnit
  cases s.replacement k (s.ownerUnit k unit) with
  | none => exact ⟨rfl, rfl, rfl⟩
  | some r => exact moveUnitTo_frame ..

theorem placeUnit_dead (s : State) (k unit off : Nat) (hr : s.replacement k (s.ownerUnit k unit) = none) :
    (s.placeUnit k unit off).xlt.dead = (k * 2 ^ 32 + unit) :: s.xlt.dead ∧ (s.placeUnit k unit off).xlt.redirects = s.xlt.redirects := by
  rw [State.placeUnit, hr]
  exact ⟨rfl, rfl⟩

theorem placeUnit_redirects (s : State) (k unit off : Nat) {r : Nat} (hr : s.replacement k (s.ownerUnit k unit) = some r) :
    (s.placeUnit k unit off).xlt.redirects.get none (k * 2 ^ 32 + s.ownerUnit k unit) = some r
      ∧ (s.placeUnit k unit off).xlt.dead = s.xlt.dead := by
  rw [State.placeUnit, hr]
  exact ⟨SMap.get_set_same none s.xlt.redirects _ (some r), rfl⟩

theorem listRetired_stack (s : State) (k unit : Nat) : (s.listRetired k unit).stack k
    = { s.stack k with retired := unit :: (s.stack k).retired, marked := (s.stack k).marked || (s.stack k).retired.length + 1 > 1024 } := by
  unfold State.listRetired
  dsimp only
  split
  · rw [(keepsHbm_raiseAlert ..).stack, (keepsHbm_stackFault ..).stack, (keepsHbm_count ..).stack, modStack_stack]
  · rw [(keepsHbm_stackFault ..).stack, (keepsHbm_count ..).stack, modStack_stack]

theorem listRetired_xlt (s : State) (k unit : Nat) : (s.listRetired k unit).xlt = s.xlt := by
  unfold State.listRetired
  dsimp only
  split
  · rw [(keepsHbm_raiseAlert ..).xlt, (keepsHbm_stackFault ..).xlt, (keepsHbm_count ..).xlt]
    rfl
  · rw [(keepsHbm_stackFault ..).xlt, (keepsHbm_count ..).xlt]
    rfl

theorem mem_stackFault_untraced (s : State) (k : Nat) (cls : FaultClass) (action : Byte) (detail : Nat) (ht : s.trace.cfg = none) :
    (s.stackFault k cls action detail).mem = s.mem := (sends_fault_untraced s _ ht).counts.frame.1

theorem listRetired_mem (s : State) (k unit : Nat) (ht : s.trace.cfg = none) : (s.listRetired k unit).mem = s.mem := by
  have hc := (counts_count (s.modStack k fun y => { y with retired := unit :: y.retired
                                                           marked := y.marked || (s.stack k).retired.length + 1 > 1024 }) .retired k 1).frame
  unfold State.listRetired
  dsimp only
  split
  · rw [(counts_raiseAlert ..).frame.1, mem_stackFault_untraced _ _ _ _ _ (hc.2 ▸ ht), hc.1]
    rfl
  · rw [mem_stackFault_untraced _ _ _ _ _ (hc.2 ▸ ht), hc.1]
    rfl

/-- A pin of this part holds the unit (R413). -/
def State.unitPinned (s : State) (off : Nat) : Prop :=
  ∃ p ∈ s.xlt.pins, p.pa / 2 ^ 44 = s.partNo ∧ p.pa % 2 ^ 44 < off + 65536 ∧ off < p.pa % 2 ^ 44 + p.size

theorem unitPinned_iff (s : State) (off : Nat) : s.unitPinned off
    ↔ (s.xlt.pins.any fun p => p.pa / 2 ^ 44 = s.partNo && p.pa % 2 ^ 44 < off + 65536 && off < p.pa % 2 ^ 44 + p.size) = true := by
  simp [State.unitPinned, and_assoc]

section
variable {s : State} {stack : Fin 12} {unit : Nat}

theorem exec_unitRetire_down (hup : s.stackUp stack.val = false) : exec (.unitRetire stack unit) s = .next s := by
  change execUnitRetire stack unit s = _
  unfold execUnitRetire
  dsimp only
  cases s.offsetOf stack.val (s.ownerUnit stack.val unit * 65536) with
  | none => rfl
  | some off => exact if_pos (by rw [hup]; rfl)

section
variable {off : Nat} (ho : s.offsetOf stack.val (s.ownerUnit stack.val unit * 65536) = some off)
include ho

theorem exec_unitRetire_unlisted (hno : (stack.val, unit) ∉ s.xlt.retiring) : exec (.unitRetire stack unit) s = .next s := by
  change execUnitRetire stack unit s = _
  simp only [execUnitRetire, ho]
  exact if_pos (by simp [hno])

variable (hup : s.stackUp stack.val = true) (hin : (stack.val, unit) ∈ s.xlt.retiring)
include hup hin

theorem exec_unitRetire_pinned (hp : s.unitPinned off) : exec (.unitRetire stack unit) s
    = .next (if (stack.val, unit) ∈ s.xlt.holding then s else s.setXlt { s.xlt with holding := s.xlt.holding ++ [(stack.val, unit)] }) := by
  change execUnitRetire stack unit s = _
  simp only [execUnitRetire, ho]
  refine (if_neg (by simp [hup, hin])).trans ((if_pos ((unitPinned_iff ..).mp hp)).trans (congrArg _ (if_congr (by grind) rfl rfl)))

theorem exec_unitRetire_free (hp : ¬ s.unitPinned off) : exec (.unitRetire stack unit) s
    = .next (((s.placeUnit stack.val unit off).unlistUnit stack.val unit).listRetired stack.val unit).releaseUnit := by
  change execUnitRetire stack unit s = _
  simp only [execUnitRetire, ho]
  refine (if_neg (by simp [hup, hin])).trans ((if_neg (mt (unitPinned_iff ..).mpr hp)).trans ?_)
  unfold State.placeUnit
  cases s.replacement stack.val (s.ownerUnit stack.val unit) with
  | none => rfl
  | some r => rfl

theorem unitRetire_free (hp : ¬ s.unitPinned off) : ∃ u : State, exec (.unitRetire stack unit) s = .next u.releaseUnit
    ∧ ¬ (stack.val, unit) ∈ u.xlt.retiring ∧ ¬ (stack.val, unit) ∈ u.xlt.holding ∧ (u.stack stack.val).retired = unit :: (s.stack stack.val).retired
    ∧ (∀ r, s.replacement stack.val (s.ownerUnit stack.val unit) = some r →
      u.xlt.redirects.get none (stack.val * 2 ^ 32 + s.ownerUnit stack.val unit) = some r ∧ u.xlt.dead = s.xlt.dead)
    ∧ (s.replacement stack.val (s.ownerUnit stack.val unit) = none →
      u.xlt.dead = (stack.val * 2 ^ 32 + unit) :: s.xlt.dead ∧ u.xlt.redirects = s.xlt.redirects)
    ∧ (1024 < (s.stack stack.val).retired.length + 1 → (u.stack stack.val).marked = true) ∧ (s.trace.cfg = none → u.mem = s.mem) := by
  obtain ⟨hhbm, htr, hmem⟩ := placeUnit_frame s stack.val unit off
  have hst : ((s.placeUnit stack.val unit off).unlistUnit stack.val unit).stack stack.val = s.stack stack.val :=
    congrArg (fun m => m.get {} stack.val) hhbm
  refine ⟨_, exec_unitRetire_free ho hup hin hp, ?_, ?_, ?_, fun r hr => ?_, fun hr => ?_, fun hn => ?_, fun ht => ?_⟩
  · rw [listRetired_xlt]
    simp [State.unlistUnit, State.setXlt]
  · rw [listRetired_xlt]
    simp [State.unlistUnit, State.setXlt]
  · rw [listRetired_stack, hst]
  · rw [listRetired_xlt]
    exact placeUnit_redirects s stack.val unit off hr
  · rw [listRetired_xlt]
    exact placeUnit_dead s stack.val unit off hr
  · rw [listRetired_stack, hst]
    simp only [gt_iff_lt, hn, decide_true, Bool.or_true]
  · exact (listRetired_mem ((s.placeUnit stack.val unit off).unlistUnit stack.val unit) stack.val unit
      ((congrArg (·.cfg) htr).trans ht)).trans hmem
end
end

/-! ### Scrub, temperature and refresh -/

section
variable {s : State} {stack : Fin 12}

theorem exec_scrubPass_down (n : Nat) (hup : s.stackUp stack.val = false) : exec (.scrubPass stack n) s = .next s := by
  change execScrubPass stack n s = _
  exact if_pos (by rw [hup]; rfl)

/-- A scrub pass, up to its reading of the on-die counts (R390). -/
def State.scrubbed (s : State) (k n : Nat) : State :=
  let u := s.modStack k fun x => { x with scrubLc := s.hallLc (k / 3), corrCode := x.corrCode + BitVec.ofNat 64 n }
  if n = 0 then u else u.count .correctedCode k n

theorem exec_scrubPass (n : Nat) (hup : s.stackUp stack.val = true) : exec (.scrubPass stack n) s
    = .next ((s.scrubbed stack.val n).readEcs stack.val) := by
  change execScrubPass stack n s = _
  exact if_neg (by rw [hup]; decide)

theorem scrubbed_spec (s : State) (k n : Nat) : ((s.scrubbed k n).stack k).scrubLc = s.hallLc (k / 3)
    ∧ ((s.scrubbed k n).stack k).corrCode = (s.stack k).corrCode + BitVec.ofNat 64 n ∧ (s.scrubbed k n).mem = s.mem
    ∧ (s.scrubbed k n).xlt = s.xlt := by
  unfold State.scrubbed
  dsimp only
  split
  · rw [modStack_stack]
    exact ⟨rfl, rfl, rfl, rfl⟩
  · rw [(keepsHbm_count ..).stack, modStack_stack, (counts_count ..).frame.1, (keepsHbm_count ..).xlt]
    exact ⟨rfl, rfl, rfl, rfl⟩

/-- A stack whose throttle begins is recorded, with an alert (R392). -/
def State.reportThrottle (s : State) (k : Nat) (now : Bool) : State := if now then (s.stackFault k .stackThrottle 6 0).coolingAlert else s

theorem keepsHbm_reportThrottle (s : State) (k : Nat) (now : Bool) : s.KeepsHbm (s.reportThrottle k now) := by
  cases now with
  | true => exact (keepsHbm_stackFault ..).trans (keepsHbm_raiseAlert ..)
  | false => exact ⟨rfl, rfl, rfl⟩

/-- A stack's temperature is taken: its refresh rate, its throttle and the hall's hold follow (R391, R392). -/
def State.hbmTemp (s : State) (k : Nat) (temp : Int) : State :=
  let was := (s.stack k).throttled
  let hot := if was = true then temp > 408 else temp > 420
  let u := s.modStack k fun x => { x with temp := temp, refreshNext := refreshRate x.refreshNext temp, throttled := hot }
  let hold := [3 * (k / 3), 3 * (k / 3) + 1, 3 * (k / 3) + 2].any fun j => (u.stack j).throttled
  let u := (u.modHallPower (k / 3) fun x => { x with hbmHold := hold }).clampHalls
  u.reportThrottle k (hot && !was)

theorem hbmTemp_keeps (s : State) (k : Nat) (temp : Int) :
    let hot := if (s.stack k).throttled = true then temp > 408 else temp > 420
    (s.modStack k fun x => { x with temp := temp, refreshNext := refreshRate x.refreshNext temp, throttled := hot }).KeepsHbm
      (s.hbmTemp k temp) := by
  unfold State.hbmTemp
  dsimp only
  generalize s.modStack k _ = u
  exact ((keepsHbm_modHallPower ..).trans (keepsHbm_clampHalls _)).trans (keepsHbm_reportThrottle ..)

theorem hbmTemp_spec (s : State) (k : Nat) (temp : Int) : ((s.hbmTemp k temp).stack k).temp = temp
    ∧ ((s.hbmTemp k temp).stack k).refreshNext = refreshRate (s.stack k).refreshNext temp
    ∧ ((s.hbmTemp k temp).stack k).throttled = (if (s.stack k).throttled then decide (408 < temp) else decide (420 < temp))
    ∧ (s.hbmTemp k temp).xlt = s.xlt ∧ (s.hbmTemp k temp).graphs = s.graphs := by
  have hk := hbmTemp_keeps s k temp
  rw [hk.stack, hk.xlt, hk.graphs, modStack_stack]
  refine ⟨rfl, rfl, ?_, rfl, rfl⟩
  cases (s.stack k).throttled with
  | true => rfl
  | false => rfl

theorem exec_hbmTempRead (temp : Int) (hup : s.stackUp stack.val = true) : exec (.hbmTempRead stack temp) s
    = .next (if 440 ≤ temp then (s.hbmTemp stack.val temp).orderlyStop .hbmTemp else s.hbmTemp stack.val temp) := by
  change execHbmTempRead stack temp s = _
  simp only [execHbmTempRead, hup]
  rfl

theorem exec_hbmTempRead_down (temp : Int) (hup : s.stackUp stack.val = false) : exec (.hbmTempRead stack temp) s = .next s := by
  change execHbmTempRead stack temp s = _
  simp only [execHbmTempRead, hup]
  rfl

theorem exec_perBankRefresh (pc bank : Fin 64) : exec (.perBankRefresh stack pc bank) s
    = .next (if s.stackUp stack.val = false ∨ (s.stack stack.val).selfRefresh = true then s
      else s.modStack stack.val fun x => { x with refresh := x.refreshNext, refreshes := x.refreshes + 1 }) := by
  change execPerBankRefresh stack pc bank s = _
  unfold execPerBankRefresh
  dsimp only
  rw [apply_ite Host.Outcome.next]
  exact if_congr (by grind) rfl rfl

theorem exec_rowActivationLimit (pc bank : Fin 64) (row : Fin 16384) : exec (.rowActivationLimit stack pc bank row) s
    = .next (if s.stackUp stack.val = true then s.modStack stack.val fun x => { x with rfm := x.rfm + 1 } else s) := by
  change execRowActivationLimit stack pc bank row s = _
  unfold execRowActivationLimit
  rw [apply_ite Host.Outcome.next]
end

section
variable {s : State} {stack : Fin 12} (addr : Nat) (pc bank : Fin 64) (row : Fin 16384)

/-- An event of a stack that is down changes nothing. -/
theorem hbm_events_down (hup : s.stackUp stack.val = false) :
    exec (.granuleRecon stack addr) s = .next s ∧ exec (.poisonRead stack addr) s = .next s ∧ exec (.pcFailed stack pc) s = .next s
    ∧ exec (.pcRebuildDone stack) s = .next s ∧ exec (.rowRemap stack pc bank row) s = .next s ∧ exec (.unitRetire stack addr) s = .next s
    ∧ exec (.rowActivationLimit stack pc bank row) s = .next s ∧ exec (.scrubPass stack addr) s = .next s
    ∧ (∀ t, exec (.hbmTempRead stack t) s = .next s) ∧ exec (.perBankRefresh stack pc bank) s = .next s := by
  have hno : ¬ s.stackUp stack.val = true := by rw [hup]; decide
  refine ⟨?_, ?_, exec_pcFailed_known (.inl hup), ?_, ?_, exec_unitRetire_down hup, ?_, exec_scrubPass_down addr hup,
    fun t => exec_hbmTempRead_down t hup, ?_⟩
  · cases ho : s.offsetOf stack.val addr with
    | none => exact exec_granuleRecon_nowhere ho
    | some off => rw [exec_granuleRecon ho, if_pos hup]
  · cases ho : s.offsetOf stack.val addr with
    | none => exact exec_poisonRead_nowhere ho
    | some off => rw [exec_poisonRead ho, if_neg fun h => hno h.1]
  · rw [exec_pcRebuildDone]
    cases (s.stack stack.val).rebuilding with
    | none => rfl
    | some e => exact congrArg _ (if_pos hup)
  · rw [exec_rowRemap, if_pos hup]
  · rw [exec_rowActivationLimit, if_neg hno]
  · rw [exec_perBankRefresh, if_pos (.inl hup)]
end

/-- Settles O26: each command by its operands and each event by what the stack holds. -/
theorem hbmCommands : Obligations.HbmCommands := by
  unfold Obligations.HbmCommands
  refine ⟨fun h c s stack va v => ?_, fun s stack addr pc bank row => ?_⟩
  · dsimp only
    refine ⟨fun hs => ⟨fun hk => ?_, fun hk => ?_⟩, fun hs => ⟨fun hk => ?_, fun hk => ?_⟩, memScrubSet_cases⟩
    · rw [exec_memHealth hs, if_pos hk]
      rfl
    · have he := exec_memHealth (stack := stack) (va := va) hs
      rw [if_neg (by omega)] at he
      exact ⟨⟨_, he⟩, cmdWrite_cases hs _ _ _ _ he⟩
    · rw [exec_memRetired hs, if_pos hk]
      rfl
    · have he := exec_memRetired (stack := stack) (va := va) (v := v) hs
      rw [if_neg (by omega)] at he
      exact ⟨⟨_, he⟩, cmdWrite_cases hs _ _ _ _ he⟩
  · dsimp only
    refine ⟨hbm_events_down addr pc bank row, fun ho => ⟨exec_granuleRecon_nowhere ho, exec_poisonRead_nowhere ho⟩,
      fun off hup ho => ?_, fun hup => ?_, rfl⟩
    · obtain ⟨h1, h2⟩ := granule_cases hup ho
      refine ⟨h1, h2, ?_⟩
      rw [exec_poisonRead ho]
      exact congrArg _ (if_congr (and_iff_right hup) rfl rfl)
    · have hno : ¬ s.stackUp stack.val = false := by rw [hup]; decide
      refine ⟨⟨fun hf => exec_pcFailed_known (.inr hf), exec_pcFailed_first hup, fun first done hf => exec_pcFailed_second hup hf⟩, ?_,
        ⟨fun hu => ?_, fun hu => ?_⟩, fun unit o ho => ⟨exec_unitRetire_unlisted ho, exec_unitRetire_pinned ho hup, unitRetire_free ho hup⟩,
        ?_, fun n => ⟨_, exec_scrubPass n hup, scrubbed_spec ..⟩, fun temp => ⟨_, exec_hbmTempRead temp hup, hbmTemp_spec ..⟩, ?_⟩
      · rw [exec_pcRebuildDone, Stack.rebuilding]
        cases (s.stack stack.val).erased.find? fun e => !e.2 && !((s.stack stack.val).lostPcs.contains e.1) with
        | none => rfl
        | some e => exact congrArg _ (if_neg hno)
      · rw [exec_rowRemap, if_neg hno, if_pos hu]
        rfl
      · rw [exec_rowRemap, if_neg hno, if_neg (by omega)]
      · rw [exec_rowActivationLimit, if_pos hup]
      · rw [exec_perBankRefresh]
        exact congrArg _ (if_congr (or_iff_right hno) rfl rfl)
end Sys2Proof.Machine
end

section
/-! SUPPORT. Allocation, memory, descriptor, log and claim commands (R124, R135, R152, R153, R351, R531 to R534, R595, R607, R626, R637). -/

namespace Sys2Proof.Machine

@[simp] theorem Cmd.begun_sealed (c : Cmd) (now : W64) : (c.begun now).sealed = c.sealed := by
  unfold Cmd.begun
  split
  · rfl
  · rfl

/-! ### One piece of a copy -/

theorem pieces_single {fuel va n : Nat} (hpos : 0 < n) (hin : n ≤ 65536 - va % 65536) : pieces (fuel + 2) va n = [(va, n)] := by
  simp only [pieces, if_neg (Nat.ne_of_gt hpos), Nat.min_eq_left hin, Nat.sub_self, if_pos]

theorem grains_single {fuel va n : Nat} (hpos : 0 < n) (hin : n ≤ 64 - va % 64) : grains (fuel + 2) va n = [(va, n)] := by
  simp only [grains, if_neg (Nat.ne_of_gt hpos), Nat.min_eq_left hin, Nat.sub_self, if_pos]

section
variable {s : State} {job : Byte} {va : Nat} {bulk : List Byte}

theorem padTo_take_length (bulk : List Byte) : padTo bulk.length (bulk.take bulk.length) = bulk := by
  simp [padTo]

theorem copyIn_single {u : State} (hv : s.vwrite job va bulk = .ok (u, [])) : s.copyIn job [(va, bulk.length)] bulk 0 = (u, [], none) := by
  simp [State.copyIn, hv]

theorem copyIn_window {u : State} {a : Nat} {p : Bool} (hv : s.vwrite job va bulk = .err a p) (hw : s.windowSignal job va bulk = some u) :
    s.copyIn job [(va, bulk.length)] bulk 0 = (u, [], none) := by
  simp [State.copyIn, hv, hw]

theorem copyOut_single {n : Nat} {bs : List Byte} (hr : s.hubRead job va n = .ok bs) : s.copyOut job [(va, n)] = (bs, none) := by
  simp [State.copyOut, hr]

theorem copyOut_window {n a : Nat} {p : Bool} {bs : List Byte} (hr : s.hubRead job va n = .err a p)
    (hw : s.windowPiece job va n = some (.ok bs)) : s.copyOut job [(va, n)] = (bs, none) := by
  simp [State.copyOut, hr, hw]
end

/-! ### What a batch of descriptors answers -/

/-- What DESC_CREATE answers for the batch sealed so far (R153, R637). -/
def State.batchAnswer (u : State) (d : Cmd) (job : Byte) : Batch → State
  | .remote va pa len => ((u.modCmd d fun _ => d).parkCmd d).hubFetch job va pa len
  | .away w l => (((u.modCmd d fun _ => d).dropHub job).remoteWrites (.cmd d.hdr.seq) 0 false l).waitCmd d (.sealing w)
  | .stop err => ((err.elim u fun e => u.accessFault 4 e.2 e.1 0).dropHub job).reply d stAddress
      [BitVec.ofNat 64 d.sealed.length, BitVec.ofNat 64 d.sealed.length]
  | .done code => (u.dropHub job).reply d stOk
      [BitVec.ofNat 64 d.sealed.length, BitVec.ofNat 64 d.sealed.length, BitVec.ofNat 64 code]

section
variable {s : State} {h : CmdHdr} {c : Cmd} {va len v : W64} {bulk : List Byte}

/-! ### Allocations -/

/-- The range is not aligned, too short or too long, or leaves the space (R533). -/
def badRange (va len : W64) : Prop :=
  va.toNat % 128 ≠ 0 ∨ len.toNat % 128 ≠ 0 ∨ len.toNat < 128 ∨ 2 ^ 48 < len.toNat ∨ 2 ^ 64 < va.toNat + len.toNat

/-- An allocation of the job overlaps the range. -/
def State.clashes (s : State) (job : Byte) (va len : W64) : Prop :=
  ∃ x ∈ s.host.allocs, x.job = job ∧ va.toNat < x.va + x.len ∧ x.va < va.toNat + len.toNat

/-- A new allocation, under its handle's next generation (R533). -/
def State.allocate (s : State) (i : Nat) (job : Byte) (va len : W64) : State :=
  let g := nextGen (s.host.lastGen.get 0 i)
  let a : Alloc := { handle := BitVec.ofNat 16 i, gen := g, job := job, va := va.toNat, len := len.toNat }
  (s.setHost { s.host with lastGen := s.host.lastGen.set 0 i g, allocs := s.host.allocs ++ [a] }).claim
    { kind := .allocRange, index := i, job := job, opcode := 0x0201 }

theorem begin_freeHandle (s : State) (c : Cmd) : (s.begin_ c).host.freeHandle = s.host.freeHandle := by
  have ha : (s.begin_ c).host.allocs = s.host.allocs := rfl
  rw [HostIf.freeHandle, ha, HostIf.freeHandle]

open Classical in
theorem exec_allocReg (hs : s.serves 0x0201 2 true h c) : exec (.allocReg h va len) s = .next (
    if badRange va len then (s.begin_ c).reply (s.begun c) stInvalid []
    else if s.clashes h.job va len then (s.begin_ c).reply (s.begun c) stConflict []
    else s.host.freeHandle.elim ((s.begin_ c).reply (s.begun c) stBusy []) fun i =>
      ((s.begin_ c).allocate i h.job va len).reply (s.begun c) stOk
        [BitVec.ofNat 64 i, (nextGen (s.host.lastGen.get 0 i)).setWidth 64]) := by
  change execAllocReg h va len s = _
  rw [execAllocReg, command_runs hs]
  refine congrArg _ (if_congr (by grind [badRange]) rfl (if_congr ?_ rfl ?_))
  · simp only [State.clashes, List.any_eq_true, Bool.and_eq_true, decide_eq_true_eq, and_assoc]
    rfl
  · rw [begin_freeHandle]
    cases s.host.freeHandle with
    | none => rfl
    | some i => rfl

/-- The job has an allocation of this handle. -/
def State.allocOf (s : State) (job : Byte) (v : W64) : Prop := ∃ a ∈ s.host.allocs, a.handle.toNat = v.toNat ∧ a.job = job

/-- An allocation that is dead at once, and whose reply waits for what still names it (R135). -/
def State.freeAlloc (s : State) (c : Cmd) (v : W64) : State :=
  ((s.setHost { s.host with allocs := s.host.allocs.filter fun a => a.handle.toNat ≠ v.toNat }).unclaim fun x =>
    x.kind = .allocRange && x.index = v.toNat).waitCmd c (.allocFree (v.setWidth 16))

open Classical in
theorem exec_allocFree (hs : s.serves 0x0202 1 true h c) : exec (.allocFree h v) s = .next (
    if 65535 < v.toNat then (s.begin_ c).reply (s.begun c) stInvalid []
    else if ¬ s.allocOf h.job v then (s.begin_ c).reply (s.begun c) stNotFound []
    else ((s.begin_ c).freeAlloc (s.begun c) v).finishAllocFrees) := by
  change execAllocFree h v s = _
  rw [execAllocFree, command_runs hs]
  refine congrArg _ (if_congr (by grind [inRange_iff]) rfl (if_congr ?_ rfl rfl))
  simp only [State.allocOf, Bool.not_eq_true', ← Bool.not_eq_true, List.any_eq_true, Bool.and_eq_true, decide_eq_true_eq]
  rfl

theorem freeAlloc_claims (s : State) (c : Cmd) (v : W64) :
    ∀ x ∈ (s.freeAlloc c v).host.claims, ¬ (x.kind = .allocRange ∧ x.index = v.toNat) := by
  intro x hx
  have := (List.mem_filter.mp (show x ∈ s.host.claims.filter fun x => !(x.kind = .allocRange && x.index = v.toNat) from hx)).2
  grind

/-! ### Copies -/

/-- The length is 0 or too long, or bulk does not hold it (R532, R534). -/
def badLength (h : CmdHdr) (n : Nat) : Prop := n = 0 ∨ 2 ^ 32 < n ∨ h.bulkLen.toNat < n

theorem badLength_iff (hs : s.serves op k j h c) (n : Nat) :
    (n = 0 || n > 2 ^ 32 || (s.begun c).hdr.bulkLen.toNat < n) = true ↔ badLength h n := by
  rw [begun_hdr hs]
  grind [badLength]

theorem exec_memWrite_bad (hs : s.serves 0x0203 2 true h c) (hb : badLength h len.toNat) :
    exec (.memWrite h va len bulk) s = (s.begin_ c).answers (s.begun c) stInvalid [] := by
  change execMemWrite h va len bulk s = _
  rw [execMemWrite, command_runs hs]
  exact congrArg _ (if_pos ((badLength_iff hs _).mpr hb))

theorem exec_memWrite (hs : s.serves 0x0203 2 true h c) (hb : ¬ badLength h len.toNat) {u : State} {away : List (Nat × List Byte)}
    {stop : Option Nat} (hc : (s.begin_ c).copyIn h.job (pieces (len.toNat / 65536 + 2) va.toNat len.toNat)
      (padTo len.toNat (bulk.take len.toNat)) 0 = (u, away, stop)) :
    exec (.memWrite h va len bulk) s = .next (stop.elim
      (if away = [] then u.reply (s.begun c) stOk [] else (u.remoteWrites (.cmd h.seq) 0 false away).waitCmd (s.begun c) (.acks []))
      fun done => (u.remoteWrites (.posted h.job) 0 false away).reply (s.begun c) stAddress [BitVec.ofNat 64 done]) := by
  change execMemWrite h va len bulk s = _
  rw [execMemWrite, command_runs hs]
  refine congrArg _ ((if_neg (mt (badLength_iff hs _).mp hb)).trans ?_)
  simp only [hc, begun_hdr hs]
  cases stop with
  | none => exact if_congr (by grind [List.isEmpty_iff]) rfl rfl
  | some done => rfl

theorem exec_memRead_bad (hs : s.serves 0x0204 2 true h c) (hb : badLength h len.toNat) :
    exec (.memRead h va len) s = (s.begin_ c).answers (s.begun c) stInvalid [] := by
  change execMemRead h va len s = _
  rw [execMemRead, command_runs hs]
  exact congrArg _ (if_pos ((badLength_iff hs _).mpr hb))

/-- What a read of memory by MEM_READ answers for what stopped it (R534). -/
def State.copied (u : State) (c : Cmd) (job : Byte) (bs : List Byte) : Option (Acc Unit) → State
  | some (.remote v pa l) => (u.parkCmd c).hubFetch job v pa l
  | some (.err a p) => (((u.dropHub job).accessFault 4 p a 0).bulkOut c bs).reply c stAddress [BitVec.ofNat 64 bs.length]
  | some (.fault _ _ _ _) => ((u.dropHub job).bulkOut c bs).reply c stAddress [BitVec.ofNat 64 bs.length]
  | some (.ok _) => ((u.dropHub job).bulkOut c bs).reply c stAddress [BitVec.ofNat 64 bs.length]
  | none => ((u.dropHub job).bulkOut c bs).reply c stOk []

theorem exec_memRead (hs : s.serves 0x0204 2 true h c) (hb : ¬ badLength h len.toNat) {bs : List Byte} {stop : Option (Acc Unit)}
    (hc : (s.begin_ c).copyOut h.job (grains (len.toNat / 64 + 2) va.toNat len.toNat) = (bs, stop)) :
    exec (.memRead h va len) s = .next ((s.begin_ c).copied (s.begun c) h.job bs stop) := by
  change execMemRead h va len s = _
  rw [execMemRead, command_runs hs]
  refine congrArg _ ((if_neg (mt (badLength_iff hs _).mp hb)).trans ?_)
  simp only [hc]
  rcases stop with _ | (_ | _ | _ | _)
  · rfl
  · rfl
  · rfl
  · rfl
  · rfl

/-! ### Descriptors, logs and claims -/

theorem exec_descCreate (hs : s.serves 0x0301 3 true h c) (drafts count out : W64) :
    let q := (s.begin_ c).sealBatch h.job drafts.toNat out.toNat (count.toNat - c.sealed.length) c.sealed
    exec (.descCreate h drafts count out) s = .next (
      if drafts.toNat % 64 ≠ 0 ∨ out.toNat % 64 ≠ 0 ∨ count.toNat < 1 ∨ 4096 < count.toNat then (s.begin_ c).reply (s.begun c) stInvalid []
      else q.1.batchAnswer { s.begun c with sealed := q.2.1 } h.job q.2.2) := by
  change execDescCreate h drafts count out s = _
  rw [execDescCreate, command_runs hs]
  refine congrArg _ (if_congr (by grind [inRange_iff]) rfl ?_)
  have hsealed : (s.begun c).sealed = c.sealed := Cmd.begun_sealed ..
  simp only [hsealed]
  generalize (s.begin_ c).sealBatch h.job drafts.toNat out.toNat (count.toNat - c.sealed.length) c.sealed = q
  obtain ⟨t, done, e⟩ := q
  cases e with
  | remote => rfl
  | away => rfl
  | stop err => rcases err with _ | ⟨a, p⟩ <;> rfl
  | done => rfl

/-- What DESC_CHECK answers about a descriptor (R152). -/
def State.descCode (s : State) (job : Byte) (w : W512) : W64 :=
  let d := Desc.parse w
  if !(sealOk s.startNo w) || d.job ≠ job then 0x0C else if d.space = 2 && (findAlloc s.host.allocs d).isNone then 0x0D else 0

theorem descCode_eq (s : State) (job : Byte) (w : W512) : s.descCode job w = if sealOk s.startNo w = false ∨ (Desc.parse w).job ≠ job then 0x0C
    else if (Desc.parse w).space = 2 ∧ findAlloc s.host.allocs (Desc.parse w) = none then 0x0D else 0 :=
  if_congr (by grind) rfl (if_congr (by grind [Option.isNone_iff_eq_none]) rfl rfl)

theorem exec_descCheck (hs : s.serves 0x0302 1 true h c) : exec (.descCheck h va) s
    = .next ((s.begin_ c).cmdRead (s.begun c) h.job va.toNat 64 fun bs s =>
      s.reply (s.begun c) stOk [s.descCode h.job (BitVec.ofNat 512 (ofLe bs))]) := by
  change execDescCheck h va s = _
  rw [execDescCheck, command_runs hs]
  rfl

theorem exec_trapLogRead (hs : s.serves 0x0901 1 false h c) : exec (.trapLogRead h v) s
    = .next ((stallOfId v).elim ((s.begin_ c).reply (s.begun c) stInvalid []) fun k =>
      (s.begin_ c).replyBulk (s.begun c) (s.trapBytes k) [BitVec.ofNat 64 (s.stall k).trapLog.length]) := by
  change execTrapLogRead h v s = _
  rw [execTrapLogRead, command_runs hs]
  refine congrArg _ ?_
  cases stallOfId v with
  | none => rfl
  | some k => rfl

theorem exec_claimStatus (hs : s.serves 0x0902 0 false h c) : exec (.claimStatus h) s
    = .next ((s.begin_ c).replyBulk (s.begun c) (s.host.claims.flatMap Claim.bytes) [BitVec.ofNat 64 s.host.claims.length]) := by
  change execClaimStatus h s = _
  rw [execClaimStatus, command_runs hs]
  rfl

theorem exec_faultLogRead (hs : s.serves 0x0950 1 false h c) :
    let l := (s.host.faultLog.take v.toNat).flatMap FaultRec.bytes
    exec (.faultLogRead h v) s = if 1 ≤ v.toNat ∧ v.toNat ≤ 4096 then
        .next ((s.begin_ c).replyBulk (s.begun c) l [BitVec.ofNat 64 l.length])
      else (s.begin_ c).answers (s.begun c) stInvalid [] := by
  change execFaultLogRead h v s = _
  rw [execFaultLogRead, command_runs hs]
  refine (apply_ite Host.Outcome.next ..).trans (if_congr ?_ rfl rfl)
  rw [inRange_iff]

theorem exec_postmortem (hs : s.serves 0x0951 1 false h c) :
    let l := (s.begin_ c).postmortem (v = 1)
    exec (.postmortem h v) s = if v.toNat ≤ 1 then .next ((s.begin_ c).replyBulk (s.begun c) l [BitVec.ofNat 64 l.length])
      else (s.begin_ c).answers (s.begun c) stInvalid [] := by
  change execPostmortem h v s = _
  rw [execPostmortem, command_runs hs, ← ite_not]
  exact (apply_ite Host.Outcome.next ..).trans (if_congr (by grind [inRange_iff]) rfl rfl)

theorem memWrite_cases (hs : s.serves 0x0203 2 true h c) (hb : ¬ badLength h len.toNat) :
    ∃ (u : State) (away : List (Nat × List Byte)) (stop : Option Nat),
      (s.begin_ c).copyIn h.job (pieces (len.toNat / 65536 + 2) va.toNat len.toNat) (padTo len.toNat (bulk.take len.toNat)) 0 = (u, away, stop)
      ∧ exec (.memWrite h va len bulk) s = (match stop with
        | some done => (u.remoteWrites (.posted h.job) 0 false away).answers (s.begun c) stAddress [BitVec.ofNat 64 done]
        | none => if away = [] then u.answers (s.begun c) stOk []
          else .next ((u.remoteWrites (.cmd h.seq) 0 false away).waitCmd (s.begun c) (.acks []))) := by
  refine ⟨_, _, _, rfl, ?_⟩
  rw [exec_memWrite hs hb rfl]
  cases ((s.begin_ c).copyIn h.job (pieces (len.toNat / 65536 + 2) va.toNat len.toNat) (padTo len.toNat (bulk.take len.toNat)) 0).2.2 with
  | none => exact apply_ite Host.Outcome.next ..
  | some done => rfl

section
variable (hs : s.serves 0x0203 2 true h c) (hpos : 0 < len.toNat) (hin : len.toNat ≤ 65536 - va.toNat % 65536)
  (hbulk : len.toNat ≤ h.bulkLen.toNat) (hlen : bulk.length = len.toNat)
include hs hpos hin hbulk hlen

/-- A copy of one piece answers what that piece meets. -/
theorem exec_memWrite_single {u : State} (hc : (s.begin_ c).copyIn h.job [(va.toNat, bulk.length)] bulk 0 = (u, [], none)) :
    exec (.memWrite h va len bulk) s = u.answers (s.begun c) stOk [] := by
  refine exec_memWrite (u := u) (away := []) (stop := none) hs (by simp only [badLength]; omega) ?_
  rw [pieces_single hpos hin, ← hlen, padTo_take_length, hc]

theorem exec_memWrite_ok {u : State} (hv : (s.begin_ c).vwrite h.job va.toNat bulk = .ok (u, [])) :
    exec (.memWrite h va len bulk) s = u.answers (s.begun c) stOk [] :=
  exec_memWrite_single hs hpos hin hbulk hlen (copyIn_single hv)

theorem exec_memWrite_window {u : State} {a : Nat} {p : Bool} (hv : (s.begin_ c).vwrite h.job va.toNat bulk = .err a p)
    (hw : (s.begin_ c).windowSignal h.job va.toNat bulk = some u) :
    exec (.memWrite h va len bulk) s = u.answers (s.begun c) stOk [] :=
  exec_memWrite_single hs hpos hin hbulk hlen (copyIn_window hv hw)
end

section
variable (hs : s.serves 0x0204 2 true h c) (hpos : 0 < len.toNat) (hin : len.toNat ≤ 64 - va.toNat % 64)
  (hbulk : len.toNat ≤ h.bulkLen.toNat)
include hs hpos hin hbulk

theorem exec_memRead_single {bs : List Byte} (hc : (s.begin_ c).copyOut h.job [(va.toNat, len.toNat)] = (bs, none)) :
    exec (.memRead h va len) s = (((s.begin_ c).dropHub h.job).bulkOut (s.begun c) bs).answers (s.begun c) stOk [] := by
  refine exec_memRead (bs := bs) (stop := none) hs (by simp only [badLength]; omega) ?_
  rw [grains_single hpos hin, hc]
end
end

theorem allocate_spec (s : State) (i : Nat) (job : Byte) (va len : W64) :
    (s.allocate i job va len).host.lastGen = s.host.lastGen.set 0 i (nextGen (s.host.lastGen.get 0 i))
    ∧ (s.allocate i job va len).host.allocs = s.host.allocs
      ++ [{ handle := BitVec.ofNat 16 i, gen := nextGen (s.host.lastGen.get 0 i), job := job, va := va.toNat, len := len.toNat }]
    ∧ (s.allocate i job va len).mem = s.mem ∧ (s.allocate i job va len).threads = s.threads := by
  unfold State.allocate
  exact ⟨rfl, rfl, rfl, rfl⟩

theorem freeAlloc_spec (s : State) (c : Cmd) (v : W64) : (s.freeAlloc c v).mem = s.mem
    ∧ (s.freeAlloc c v).host.allocs = s.host.allocs.filter (fun a => a.handle.toNat ≠ v.toNat)
    ∧ (∀ x ∈ (s.freeAlloc c v).host.claims, ¬ (x.kind = .allocRange ∧ x.index = v.toNat))
    ∧ (s.freeAlloc c v).host.lastGen = s.host.lastGen :=
  ⟨rfl, rfl, freeAlloc_claims s c v, rfl⟩

/-- Settles O25: each command by its operands, then by what its reads and writes meet. -/
theorem memoryAndDescriptorCommands : Obligations.MemoryAndDescriptorCommands := by
  unfold Obligations.MemoryAndDescriptorCommands
  refine ⟨fun h c s va len v bulk => ?_, fun s c job va n k bs l => ?_⟩
  · dsimp only
    refine ⟨fun hs => ⟨fun hb => ?_, fun hb hc => ?_, fun hb hc hf => ?_, fun i hb hc hf => ?_⟩, fun hs => ⟨fun hv => ?_, fun hv hm => ?_,
      fun hv hm => ?_⟩, fun hs => ?_, fun hs => ?_, fun hlen hal hb => ?_, fun drafts count out hs => ?_, fun hs => ?_, fun hs => ?_,
      fun hs => ?_, fun hs => ?_, fun hs => ?_⟩
    · rw [exec_allocReg hs, if_pos (show badRange va len from hb)]
      rfl
    · rw [exec_allocReg hs, if_neg (show ¬ badRange va len from hb), if_pos (show s.clashes h.job va len from hc)]
      rfl
    · rw [exec_allocReg hs, if_neg (show ¬ badRange va len from hb), if_neg (show ¬ s.clashes h.job va len from hc), hf]
      rfl
    · refine ⟨_, _, ?_, rfl, allocate_spec (s.begin_ c) i h.job va len⟩
      rw [exec_allocReg hs, if_neg (show ¬ badRange va len from hb), if_neg (show ¬ s.clashes h.job va len from hc), hf]
      rfl
    · rw [exec_allocFree hs, if_pos hv]
      rfl
    · rw [exec_allocFree hs, if_neg (by omega), if_pos (show ¬ s.allocOf h.job v from hm)]
      rfl
    · refine ⟨_, ?_, freeAlloc_spec (s.begin_ c) (s.begun c) v⟩
      rw [exec_allocFree hs, if_neg (by omega), if_neg (Classical.not_not.mpr (show s.allocOf h.job v from hm))]
    · exact ⟨exec_memWrite_bad hs, fun h1 h2 h3 => memWrite_cases hs (by simp only [badLength]; omega), fun u h1 h2 h3 h4 =>
        exec_memWrite_ok hs h1 h2 h3 h4⟩
    · refine ⟨exec_memRead_bad hs, fun h1 h2 h3 => ⟨_, _, rfl, ?_⟩, fun bs h1 h2 h3 hr => exec_memRead_single hs h1 h2 h3 (copyOut_single hr)⟩
      rw [exec_memRead hs (by simp only [badLength]; omega) rfl]
      refine ⟨fun hst => ?_, fun w pa l hst => ?_, fun a p hst => ?_, fun k w lo size hst => ?_⟩
      · rw [hst]
        rfl
      · rw [hst]
        rfl
      · rw [hst]
        rfl
      · rw [hst]
        rfl
    · have hn : len.toNat = 8 := by rw [hlen]; rfl
      refine ⟨fun a p u hs hl hv hw => exec_memWrite_window hs (by omega) (by omega) (by omega) (hl.trans hn.symm) hv hw,
        fun a p bs hs hr hw => exec_memRead_single hs (by omega) (by omega) (by omega) ?_⟩
      rw [hn]
      exact copyOut_window hr hw
    · refine ⟨fun hb => ?_, fun hb => ⟨_, _, _, rfl, ?_⟩⟩
      · rw [exec_descCreate hs, if_pos hb]
        rfl
      · rw [exec_descCreate hs, if_neg hb]
        refine ⟨fun code he => ?_, fun a p he => ?_, fun he => ?_, fun w pa l he => ?_, fun w l he => ?_⟩
        · rw [he]
          rfl
        · rw [he]
          rfl
        · rw [he]
          rfl
        · rw [he]
          rfl
        · rw [he, ← begun_hdr hs]
          rfl
    · refine ⟨fun bs hr => ?_, fun a p hr => ?_, fun k w lo size hr => ?_, fun w pa l hr => ?_⟩
      · rw [exec_descCheck hs, cmdRead_ok hr, descCode_eq]
        rfl
      · rw [exec_descCheck hs, cmdRead_err hr]
        rfl
      · rw [exec_descCheck hs, cmdRead_fault hr]
        rfl
      · rw [exec_descCheck hs, cmdRead_remote hr]
    · refine ⟨fun hk => ?_, fun k hk => ?_⟩
      · rw [exec_trapLogRead hs, hk]
        rfl
      · rw [exec_trapLogRead hs, hk]
        exact replyBulk_of_serves hs ..
    · rw [exec_claimStatus hs, replyBulk_of_serves hs]
    · rw [exec_faultLogRead hs, replyBulk_of_serves hs]
    · rw [exec_postmortem hs, replyBulk_of_serves hs]
  · refine ⟨fun x hr => ⟨?_, cmdRead_ok hr⟩, fun a p hr => ⟨?_, cmdRead_err hr⟩, fun q x lo size hr => ⟨?_, cmdRead_fault hr⟩,
      fun v pa z hr => ⟨?_, cmdRead_remote hr⟩, fun u away hv => ?_, fun a p hv => cmdWrite_err hv, fun q x lo size hv => cmdWrite_fault hv,
      fun q => ⟨rfl, rfl, fun _ _ _ => rfl, fun _ _ => rfl, fun _ _ _ _ => rfl⟩⟩
    · rw [State.cmdPeek, hr]
    · rw [State.cmdPeek, hr]
    · rw [State.cmdPeek, hr]
    · rw [State.cmdPeek, hr]
    · cases away with
      | nil => exact cmdWrite_local hv
      | cons x xs => exact cmdWrite_away hv
end Sys2Proof.Machine
end

section
/-! SUPPORT. The Till and mask commands (R298, R302, R322, R330, R332, R334). -/

namespace Sys2Proof.Machine

/-! ### What a command's read and its busy test do without their continuation -/

theorem cmdRead_of_not_ok {s : State} {c : Cmd} {job : Byte} {va n : Nat} (hno : ∀ bs, s.hubRead job va n ≠ .ok bs)
    (k k' : List Byte → State → State) : s.cmdRead c job va n k = s.cmdRead c job va n k' := by
  rw [State.cmdRead, State.cmdRead, State.cmdPeek, State.cmdPeek]
  cases hr : s.hubRead job va n with
  | ok bs => exact absurd hr (hno bs)
  | fault => rfl
  | err => rfl
  | remote => rfl

theorem unlessBusy_of_ne {s : State} {c : Cmd} {job : Byte} {busy : Acc Bool} (hno : busy ≠ .ok false) (k k' : State → State) :
    s.unlessBusy c job busy k = s.unlessBusy c job busy k' := by
  unfold State.unlessBusy
  rcases busy with (_ | _) | _ | _ | _
  · exact absurd rfl hno
  · rfl
  · rfl
  · rfl
  · rfl

section
variable {s : State} {h : CmdHdr} {c : Cmd} {v w le : W64} {g : TillGroup}

/-! ### Registration of a group -/

/-- The first field of a group's record that breaks its rule, the record's own and the two that the space decides taken together (R298). -/
def State.groupFault (s : State) (bad : Option Nat) (g : TillGroup) : Option Nat :=
  let map : Option Nat := if !(s.areaOk g) then some 0x20 else if !(s.rangeWritable g.job g.digest g.digestSize) then some 0x28 else none
  match bad with
  | some o => if o ≤ 0x20 then some o else if map = some 0x20 then map else if o ≤ 0x28 then some o else if map.isSome then map else some o
  | none => map

section
variable {bad : Option Nat}

theorem groupFault_of_field {o : Nat} (hb : bad = some o)
    (ho : o ≤ 0x20 ∨ (s.areaOk g = true ∧ (o ≤ 0x28 ∨ s.rangeWritable g.job g.digest g.digestSize = true))) :
    s.groupFault bad g = some o := by
  rw [hb]
  unfold State.groupFault
  grind

theorem groupFault_of_area (hsound : ∀ o, bad = some o → 0x20 < o) (ha : ¬ s.areaOk g = true) : s.groupFault bad g = some 0x20 := by
  unfold State.groupFault
  cases bad with
  | none => grind
  | some o =>
    have := hsound o rfl
    grind

theorem groupFault_of_table (hsound : ∀ o, bad = some o → 0x28 < o) (ha : s.areaOk g = true)
    (ht : ¬ s.rangeWritable g.job g.digest g.digestSize = true) : s.groupFault bad g = some 0x28 := by
  unfold State.groupFault
  cases bad with
  | none => grind
  | some o =>
    have := hsound o rfl
    grind

theorem groupFault_eq_none (ha : s.areaOk g = true) (ht : s.rangeWritable g.job g.digest g.digestSize = true) :
    s.groupFault none g = none := by
  simp [State.groupFault, ha, ht]
end

/-- A group clashes with one of its number, or with one of its job whose area it overlaps. -/
def State.groupClash (s : State) (g : TillGroup) : Prop :=
  (∃ x ∈ s.till.groups, x.gid = g.gid) ∨ ∃ x ∈ s.till.groups, x.job = g.job ∧ x.area < g.area + g.units * 65536 ∧ g.area < x.area + x.units * 65536

theorem groupClash_iff (s : State) (g : TillGroup) : s.groupClash g ↔ ((s.tillGroup g.gid).isSome
    || s.till.groups.any fun x => x.job = g.job && x.area < g.area + g.units * 65536 && g.area < x.area + x.units * 65536) = true := by
  simp [State.groupClash, State.tillGroup, List.find?_isSome, and_assoc]

/-- A group whose units are written is registered (R302). -/
def State.registered (s : State) (g : TillGroup) : State :=
  (s.setTill { s.till with groups := s.till.groups ++ [g] }).claim { kind := .tillArea, index := g.gid, job := g.job, opcode := 0x0630 }

/-- What TILL_GROUP_SET answers for the record it read (R298, R302). -/
def State.setTillGroup (q : State) (c : Cmd) (bad : Option Nat) (g : TillGroup) : State :=
  match q.groupFault bad g with
  | some o => q.reply c stInvalid [BitVec.ofNat 64 o]
  | none =>
    if (q.tillGroup g.gid).isSome
      || q.till.groups.any fun x => x.job = g.job && x.area < g.area + g.units * 65536 && g.area < x.area + x.units * 65536
    then q.reply c stConflict []
    else match q.mapUnits g (registerUnit g) (List.range g.units) with
      | .ok s => (match (s.registered g).unitDigests g with
        | .ok ds => (s.registered g).cmdWrite c g.job g.digest (digestTable 0xFFFFFFFF ds) []
        | .err a p => ((s.registered g).accessFault 4 p a 0).reply c stAddress []
        | _ => (s.registered g).reply c stAddress [])
      | .err a p => (q.accessFault 4 p a 0).reply c stAddress []
      | _ => q.reply c stAddress []

section
variable {bad : Option Nat} {q : State}

theorem setTillGroup_of_fault {o : Nat} (hf : q.groupFault bad g = some o) : q.setTillGroup c bad g = q.reply c stInvalid [BitVec.ofNat 64 o] := by
  rw [State.setTillGroup, hf]

variable (hf : q.groupFault bad g = none)
include hf

theorem setTillGroup_of_clash (hc : q.groupClash g) : q.setTillGroup c bad g = q.reply c stConflict [] := by
  rw [State.setTillGroup, hf]
  exact if_pos ((groupClash_iff ..).mp hc)

variable (hc : ¬ q.groupClash g)
include hc

theorem setTillGroup_of_err {a : Nat} {p : Bool} (hm : q.mapUnits g (registerUnit g) (List.range g.units) = .err a p) :
    q.setTillGroup c bad g = (q.accessFault 4 p a 0).reply c stAddress [] := by
  simp only [State.setTillGroup, hf, if_neg (mt (groupClash_iff ..).mpr hc), hm]

theorem setTillGroup_of_ok {u : State} {ds : List (List Byte)} (hm : q.mapUnits g (registerUnit g) (List.range g.units) = .ok u)
    (hd : (u.registered g).unitDigests g = .ok ds) :
    q.setTillGroup c bad g = (u.registered g).cmdWrite c g.job g.digest (digestTable 0xFFFFFFFF ds) [] := by
  simp only [State.setTillGroup, hf, if_neg (mt (groupClash_iff ..).mpr hc), hm, hd]
end

theorem exec_tillGroupSet (hs : s.serves 0x0630 1 true h c) : exec (.tillGroupSet h v) s
    = .next ((s.begin_ c).cmdRead (s.begun c) h.job v.toNat 128 fun bs q =>
      q.setTillGroup (s.begun c) (groupBad bs h.job) (TillGroup.parse bs)) := by
  change execTillGroupSet h v s = _
  rw [execTillGroupSet, command_runs hs]
  rfl

/-! ### Commands on a group that is registered -/

theorem exec_tillGroupClear (hs : s.serves 0x0631 1 true h c) : exec (.tillGroupClear h v) s
    = .next ((s.jobGroup h.job v).elim ((s.begin_ c).reply (s.begun c) stInvalid []) fun g =>
      if s.groupBusy g.gid = true then (s.begin_ c).reply (s.begun c) stBusy []
      else (((s.begin_ c).setTill { s.till with groups := s.till.groups.filter fun x => x.gid ≠ g.gid }).unclaim fun x =>
        x.kind = .tillArea && x.index = g.gid).reply (s.begun c) stOk []) := by
  change execTillGroupClear h v s = _
  rw [execTillGroupClear, command_runs hs]
  change Host.Outcome.next (match s.jobGroup h.job v with | none => _ | some g => _) = _
  cases s.jobGroup h.job v with
  | none => rfl
  | some g => rfl

theorem exec_tillGroupStatus (hs : s.serves 0x0632 2 true h c) : exec (.tillGroupStatus h v w) s
    = .next ((s.jobGroup h.job v).elim ((s.begin_ c).reply (s.begun c) stInvalid []) fun g =>
      (s.begin_ c).cmdWrite (s.begun c) h.job w.toNat g.statusBytes []) := by
  change execTillGroupStatus h v w s = _
  rw [execTillGroupStatus, command_runs hs]
  change Host.Outcome.next (match s.jobGroup h.job v with | none => _ | some g => _) = _
  cases s.jobGroup h.job v with
  | none => rfl
  | some g =>
    dsimp only [Option.elim_some]

theorem exec_tillGroupEpoch (hs : s.serves 0x0633 3 true h c) : exec (.tillGroupEpoch h v w le) s
    = .next ((s.jobGroup h.job v).elim ((s.begin_ c).reply (s.begun c) stInvalid []) fun g =>
      if 0xFFFF < w.toNat ∨ 0xFFFF < le.toNat then (s.begin_ c).reply (s.begun c) stInvalid []
      else if s.groupBusy g.gid = true then (s.begin_ c).reply (s.begun c) stBusy []
      else ((s.begin_ c).modGroup g.gid fun g => { g with wepoch := bits w 0 16, lepoch := bits le 0 16 }).reply (s.begun c) stOk []) := by
  change execTillGroupEpoch h v w le s = _
  rw [execTillGroupEpoch, command_runs hs]
  change Host.Outcome.next (match s.jobGroup h.job v with | none => _ | some g => _) = _
  cases s.jobGroup h.job v with
  | none => rfl
  | some g => exact congrArg _ (if_congr (by grind [inRange_iff]) rfl (if_congr Iff.rfl rfl rfl))

/-- The digests of a group that differ are repaired, or only counted (R302). -/
def State.verifyGroup (q : State) (c : Cmd) (g : TillGroup) (repair : Bool) : State :=
  match q.differing g with
  | .ok l =>
    let res : List W64 := [BitVec.ofNat 64 l.length, BitVec.ofNat 64 (l.headD 0xFFFFFFFF)]
    if !repair then q.reply c stOk res
    else (match q.mapUnits g (fun _ b => b.take 16 ++ unitDigest b ++ b.drop 64) (List.range g.units) with
      | .ok s => (match s.unitDigests g with
        | .ok ds => s.cmdWrite c g.job g.digest (digestTable g.tableStep ds) res
        | .err a p => (s.accessFault 4 p a 0).reply c stAddress []
        | _ => s.reply c stAddress [])
      | .err a p => (q.accessFault 4 p a 0).reply c stAddress []
      | _ => q.reply c stAddress [])
  | .err a p => (q.accessFault 4 p a 0).reply c stAddress []
  | _ => q.reply c stAddress []

theorem exec_tillDigestVerify (hs : s.serves 0x0634 2 true h c) : exec (.tillDigestVerify h v w) s
    = .next ((s.jobGroup h.job v).elim ((s.begin_ c).reply (s.begun c) stInvalid []) fun g =>
      if 1 < w.toNat then (s.begin_ c).reply (s.begun c) stInvalid []
      else if s.groupBusy g.gid = true then (s.begin_ c).reply (s.begun c) stBusy []
      else (s.begin_ c).verifyGroup (s.begun c) g !decide (w = 0)) := by
  change execTillDigestVerify h v w s = _
  rw [execTillDigestVerify, command_runs hs]
  change Host.Outcome.next (match s.jobGroup h.job v with | none => _ | some g => _) = _
  cases s.jobGroup h.job v with
  | none => rfl
  | some g =>
    refine congrArg _ (if_congr Iff.rfl rfl (if_congr Iff.rfl rfl ?_))
    unfold State.verifyGroup
    by_cases hw : w = 0
    · simp only [hw]
      rfl
    · simp only [hw]
      rfl

section
variable {q : State} {l : List Nat}

theorem verifyGroup_counts (hd : q.differing g = .ok l) : q.verifyGroup c g false
    = q.reply c stOk [BitVec.ofNat 64 l.length, BitVec.ofNat 64 (l.headD 0xFFFFFFFF)] := by
  simp only [State.verifyGroup, hd]
  rfl

theorem verifyGroup_repairs (hd : q.differing g = .ok l) {u : State} {ds : List (List Byte)}
    (hm : q.mapUnits g (fun _ x => x.take 16 ++ unitDigest x ++ x.drop 64) (List.range g.units) = .ok u) (hu : u.unitDigests g = .ok ds) :
    q.verifyGroup c g true = u.cmdWrite c g.job g.digest (digestTable g.tableStep ds)
      [BitVec.ofNat 64 l.length, BitVec.ofNat 64 (l.headD 0xFFFFFFFF)] := by
  simp only [State.verifyGroup, hd, hm, hu]
  rfl

theorem verifyGroup_err {a : Nat} {p repair : Bool} (hd : q.differing g = .err a p) :
    q.verifyGroup c g repair = (q.accessFault 4 p a 0).reply c stAddress [] := by
  simp only [State.verifyGroup, hd]
end

/-! ### Masks -/

/-- The mask fits the group, or unbinds it (R330). -/
def State.maskFits (s : State) (job : Byte) (g : TillGroup) (w : W64) : Prop :=
  w = 0xFF ∨ ∃ m, s.mask w.toNat = some m ∧ m.job = job ∧ g.base + g.nelem ≤ m.rows * m.cols

theorem maskFits_iff (s : State) (job : Byte) (g : TillGroup) (w : W64) : s.maskFits job g w
    ↔ ¬ (w ≠ 0xFF && !((s.mask w.toNat).any fun m => m.job = job && g.base + g.nelem ≤ m.rows * m.cols)) = true := by
  unfold State.maskFits
  cases s.mask w.toNat with
  | none => simp
  | some m => simp; grind

/-- What a queued or running task names of the mask that a bind replaces or takes. -/
def State.bindNamed (s : State) (job : Byte) (g : TillGroup) (w : W64) : Acc Bool :=
  if w = 0xFF then (g.mask.map (s.maskNamed job)).getD (.ok false) else s.maskNamed job w.toNat

open Classical in
theorem exec_gmaskBind (hs : s.serves 0x0642 2 true h c) : exec (.gmaskBind h v w) s
    = .next ((s.jobGroup h.job v).elim ((s.begin_ c).reply (s.begun c) stInvalid []) fun g =>
      if ¬ s.maskFits h.job g w then (s.begin_ c).reply (s.begun c) stInvalid []
      else if s.groupBusy g.gid = true then (s.begin_ c).reply (s.begun c) stBusy []
      else (s.begin_ c).unlessBusy (s.begun c) h.job ((s.begin_ c).bindNamed h.job g w) fun q =>
        (q.modGroup g.gid fun x => { x with mask := if w = 0xFF then none else some w.toNat }).reply (s.begun c) stOk []) := by
  change execGmaskBind h v w s = _
  rw [execGmaskBind, command_runs hs]
  change Host.Outcome.next (match s.jobGroup h.job v with | none => _ | some g => _) = _
  cases s.jobGroup h.job v with
  | none => rfl
  | some g =>
    refine congrArg _ (if_congr ?_ rfl (if_congr Iff.rfl rfl ?_))
    · rw [maskFits_iff, not_not]
      rfl
    · unfold State.bindNamed
      by_cases hw : w = 0xFF
      · simp only [hw, if_pos]
      · simp only [hw, if_false]
        rfl

theorem exec_gmaskSet (hs : s.serves 0x0640 1 true h c) : exec (.gmaskSet h v) s
    = .next ((s.begin_ c).cmdRead (s.begun c) h.job v.toNat 160 fun bs q => (maskBad bs h.job).elim
      (if q.mask (leAt bs 0 1) ≠ none then q.reply (s.begun c) stConflict []
        else ({ q with masks := q.masks ++ [Mask.parse bs] }).reply (s.begun c) stOk [])
      fun o => q.reply (s.begun c) stInvalid [BitVec.ofNat 64 o]) := by
  change execGmaskSet h v s = _
  rw [execGmaskSet, command_runs hs]
  refine congrArg (fun k => Host.Outcome.next (State.cmdRead _ _ _ _ _ k)) (funext fun bs => funext fun q => ?_)
  cases maskBad bs h.job with
  | some o => rfl
  | none => exact if_congr Option.isSome_iff_ne_none rfl rfl

/-- A mask is gone, and no group is bound to it any more (R334). -/
def State.dropMask (s : State) (mid : Nat) : State :=
  let u : State := { s with masks := s.masks.filter fun m => m.mid ≠ mid }
  u.setTill { s.till with groups := s.till.groups.map fun g => if g.mask = some mid then { g with mask := none } else g }

theorem dropMask_spec (s : State) (mid : Nat) :
    (∀ x ∈ (s.dropMask mid).masks, x.mid ≠ mid) ∧ ∀ x ∈ (s.dropMask mid).till.groups, x.mask ≠ some mid := by
  refine ⟨fun x hx => ?_, fun x hx => ?_⟩
  · simpa using (List.mem_filter.mp (show x ∈ s.masks.filter fun m => m.mid ≠ mid from hx)).2
  · obtain ⟨g, -, rfl⟩ := List.mem_map.mp (show x ∈ s.till.groups.map fun g => if g.mask = some mid then { g with mask := none } else g from hx)
    split
    · exact nofun
    · assumption

theorem exec_gmaskClear (hs : s.serves 0x0641 1 true h c) : exec (.gmaskClear h v) s
    = .next (if ((s.mask v.toNat).any fun m => m.job = h.job) = false then (s.begin_ c).reply (s.begun c) stInvalid []
      else if s.maskBusy v.toNat = true then (s.begin_ c).reply (s.begun c) stBusy []
      else (s.begin_ c).unlessBusy (s.begun c) h.job ((s.begin_ c).maskNamed h.job v.toNat) fun q =>
        (q.dropMask v.toNat).reply (s.begun c) stOk []) := by
  change execGmaskClear h v s = _
  rw [execGmaskClear, command_runs hs]
  exact congrArg _ (if_congr (by rw [Bool.not_eq_true']; rfl) rfl rfl)

end

/-- Settles O38: each command by what names its group or mask, then by what its reads and writes meet. -/
theorem tillAndMaskCommands : Obligations.TillAndMaskCommands := by
  unfold Obligations.TillAndMaskCommands
  intro h c s v w le g
  dsimp only
  refine ⟨fun hs => ⟨fun k hno => ?_, fun bs hr hg => ?_⟩, fun hj => ⟨fun hs => ?_, fun hs => ?_, fun hs => ?_, fun hs => ?_, fun hs => ?_⟩,
    fun hj => ⟨fun hs => ?_, fun hs => ?_, fun hs => ?_, fun hs => ?_, fun hs => ?_⟩, fun hs k hno => ?_, fun hs bs hr => ?_, fun hs => ?_⟩
  · rw [exec_tillGroupSet hs]
    exact congrArg _ (cmdRead_of_not_ok hno ..)
  · rw [exec_tillGroupSet hs, cmdRead_ok hr, hg]
    refine ⟨fun o ho hin => congrArg _ (setTillGroup_of_fault (groupFault_of_field ho hin)),
      fun hso ha => congrArg _ (setTillGroup_of_fault (groupFault_of_area hso ha)),
      fun hso ha ht => congrArg _ (setTillGroup_of_fault (groupFault_of_table hso ha ht)), fun hb ha ht => ?_⟩
    have hf : ((s.begin_ c).dropHub h.job).groupFault (groupBad bs h.job) g = none := by
      rw [hb]
      exact groupFault_eq_none ha ht
    exact ⟨fun hc => congrArg _ (setTillGroup_of_clash hf hc), fun a p hc hm => congrArg _ (setTillGroup_of_err hf hc hm),
      fun u1 ds hc hm hd => congrArg _ (setTillGroup_of_ok hf hc hm hd)⟩
  · rw [exec_tillGroupClear hs, hj]
    rfl
  · rw [exec_tillGroupStatus hs, hj]
    rfl
  · rw [exec_tillGroupEpoch hs, hj]
    rfl
  · rw [exec_tillDigestVerify hs, hj]
    rfl
  · rw [exec_gmaskBind hs, hj]
    rfl
  · rw [exec_tillGroupClear hs, hj]
    refine ⟨fun hb => congrArg _ (if_pos hb), fun hb => ⟨_, congrArg _ (if_neg (by rw [hb]; decide)), rfl, fun x hx => ?_⟩⟩
    have := (List.mem_filter.mp (show x ∈ s.host.claims.filter fun x => !(x.kind = .tillArea && x.index = g.gid) from hx)).2
    grind
  · rw [exec_tillGroupStatus hs, hj, Option.elim_some]
  · rw [exec_tillGroupEpoch hs, hj, Option.elim_some, apply_ite Host.Outcome.next, apply_ite Host.Outcome.next]
    rfl
  · refine ⟨fun hw => ?_, fun hw hb => ?_, fun l hb hd => ⟨?_, fun u1 ds hm hu => ?_⟩, fun a p hw hb hd => ?_⟩
    · rw [exec_tillDigestVerify hs, hj, Option.elim_some, if_pos hw]
      rfl
    · rw [exec_tillDigestVerify hs, hj, Option.elim_some, if_neg (by omega), if_pos hb]
      rfl
    · rw [exec_tillDigestVerify (w := 0) hs, hj, Option.elim_some, if_neg (by decide), if_neg (by rw [hb]; decide)]
      exact congrArg _ (verifyGroup_counts hd)
    · rw [exec_tillDigestVerify (w := 1) hs, hj, Option.elim_some, if_neg (by decide), if_neg (by rw [hb]; decide)]
      exact congrArg _ (verifyGroup_repairs hd hm hu)
    · rw [exec_tillDigestVerify hs, hj, Option.elim_some, if_neg (by omega), if_neg (by rw [hb]; decide)]
      exact congrArg _ (verifyGroup_err hd)
  · rw [exec_gmaskBind hs, hj, Option.elim_some]
    have hfit : s.maskFits h.job g w ↔ (w = 0xFF ∨ ∃ m, s.mask w.toNat = some m ∧ m.job = h.job ∧ g.base + g.nelem ≤ m.rows * m.cols) := Iff.rfl
    rw [← hfit]
    refine ⟨fun hno => ?_, fun hf hb => ?_, fun k hf hb hn => ?_, fun hf hb hn => ?_⟩
    · rw [if_pos hno]
      rfl
    · rw [if_neg (Classical.not_not.mpr hf), if_pos hb]
      rfl
    · rw [if_neg (Classical.not_not.mpr hf), if_neg (by rw [hb]; decide)]
      exact congrArg _ (unlessBusy_of_ne hn ..)
    · rw [if_neg (Classical.not_not.mpr hf), if_neg (by rw [hb]; decide), show (s.begin_ c).bindNamed h.job g w = .ok false from hn]
      rfl
  · rw [exec_gmaskSet hs]
    exact congrArg _ (cmdRead_of_not_ok hno ..)
  · rw [exec_gmaskSet hs, cmdRead_ok hr]
    refine ⟨fun o ho => ?_, fun hb hm => ?_, fun hb hm => ?_⟩
    · rw [ho]
      rfl
    · rw [hb]
      exact congrArg _ (if_pos hm)
    · rw [hb]
      exact congrArg _ (if_neg (Classical.not_not.mpr hm))
  · refine ⟨fun hno => ?_, fun m hm hj => ?_⟩
    · have hany : ((s.mask v.toNat).any fun m => m.job = h.job) = false := by
        cases hm : s.mask v.toNat with
        | none => rfl
        | some m => simpa [hm] using hno
      rw [exec_gmaskClear hs, if_pos hany]
      rfl
    · have hany : ¬ ((s.mask v.toNat).any fun m => m.job = h.job) = false := by simp [hm, hj]
      rw [exec_gmaskClear hs, if_neg hany]
      refine ⟨fun hb => ?_, fun k hb hn => ?_, fun hb hn => ⟨_, ?_, dropMask_spec ((s.begin_ c).dropHub h.job) v.toNat⟩⟩
      · rw [if_pos hb]
        rfl
      · rw [if_neg (by rw [hb]; decide)]
        exact congrArg _ (unlessBusy_of_ne hn ..)
      · rw [if_neg (by rw [hb]; decide), hn]
        rfl
end Sys2Proof.Machine
end

section
/-! SUPPORT. The weight commands (Table 17.4, R487, R488, R490 to R492, R501, R503, R508, R527). -/

namespace Sys2Proof.Machine

theorem sends_finishInvalidates (s : State) : s.Sends s.finishInvalidates := by
  unfold State.finishInvalidates
  exact sends_foldl _ _ (fun s c => sends_reply ..) s

/-- Pins leave, and the commands that waited for them are answered (R429). -/
theorem unpin_frame (s : State) (p : Pin → Bool) :
    (s.unpin p).xlt.pins = s.xlt.pins.filter (fun q => !(p q)) ∧ (s.unpin p).weights = s.weights := by
  have h := sends_finishInvalidates (s.setXlt { s.xlt with pins := s.xlt.pins.filter fun q => !(p q) })
  rw [State.unpin, h]
  exact ⟨rfl, rfl⟩

section
variable {s : State} {h : CmdHdr} {c : Cmd} {set ncopy base size stride v : W64}

/-! ### What a command's read does without its continuation -/

theorem cmdPeek_ok {s : State} {c : Cmd} {job : Byte} {va n : Nat} {bs : List Byte} (hr : s.hubRead job va n = .ok bs)
    (k : List Byte → State → State) : s.cmdPeek c job va n k = k bs s := by
  rw [State.cmdPeek, hr]

theorem cmdPeek_of_not_ok {s : State} {c : Cmd} {job : Byte} {va n : Nat} (hno : ∀ bs, s.hubRead job va n ≠ .ok bs)
    (k k' : List Byte → State → State) : s.cmdPeek c job va n k = s.cmdPeek c job va n k' := by
  rw [State.cmdPeek, State.cmdPeek]
  cases hr : s.hubRead job va n with
  | ok bs => exact absurd hr (hno bs)
  | fault => rfl
  | err => rfl
  | remote => rfl

/-! ### A set's registration -/

/-- The operands of a registration are in range (R487). -/
def weightSetOk (set ncopy base size stride : W64) : Prop :=
  set.toNat ≤ 15 ∧ 1 ≤ ncopy.toNat ∧ ncopy.toNat ≤ 2 ∧ base.toNat % 65536 = 0 ∧ size.toNat % 65536 = 0
    ∧ (ncopy = 2 → stride.toNat % 65536 = 0 ∧ size.toNat ≤ stride.toNat)

/-- The set that the operands name. -/
def weightSetOf (job : Byte) (set ncopy base size stride : W64) : WSet :=
  { job := job, id := set.toNat, ncopy := ncopy.toNat, base := base.toNat, size := size.toNat, stride := if ncopy = 2 then stride.toNat else 0 }

/-- A set and its pins; a job's first set starts its epoch and its counts (R487, R488). -/
def State.addWeightSet (s : State) (job : Byte) (x : WSet) (ps : List Pin) : State :=
  let first := !(s.weights.sets.any fun y => y.job = job)
  let s := s.setXlt { s.xlt with pins := s.xlt.pins ++ ps }
  let w := s.weights
  let s := s.setWeights { w with
    sets := w.sets ++ [x], refetched := if first then w.refetched.set 0 job.toNat 0 else w.refetched
    drops := if first then w.drops.set 0 job.toNat 0 else w.drops }
  if first then { s with weightEpoch := s.weightEpoch.set 0 job.toNat 0 } else s

theorem addWeightSet_spec (s : State) (job : Byte) (x : WSet) (ps : List Pin) :
    (s.addWeightSet job x ps).weights.sets = s.weights.sets ++ [x] ∧ (s.addWeightSet job x ps).xlt.pins = s.xlt.pins ++ ps := by
  unfold State.addWeightSet
  dsimp only
  split
  · exact ⟨rfl, rfl⟩
  · exact ⟨rfl, rfl⟩

/-- What a registration answers for the pins that its ranges need (R487, R488). -/
def State.regWeightSet (s : State) (c : Cmd) (job : Byte) (x : WSet) : Acc (List Pin) → State
  | .ok ps => if pinRoom < s.pinsIn 4 + ps.length then s.parkCmd c else (s.addWeightSet job x ps).reply c stOk []
  | _ => s.reply c stAddress []

theorem regWeightSet_of_not_ok {job : Byte} {x : WSet} {a : Acc (List Pin)} (hno : ∀ ps, a ≠ .ok ps) :
    s.regWeightSet c job x a = s.reply c stAddress [] := by
  cases a with
  | ok ps => exact absurd rfl (hno ps)
  | fault => rfl
  | err => rfl
  | remote => rfl

open Classical in
theorem exec_weightSetReg (hs : s.serves 0x0601 5 true h c) : exec (.weightSetReg h set ncopy base size stride) s = .next (
    if ¬ weightSetOk set ncopy base size stride then (s.begin_ c).reply (s.begun c) stInvalid []
    else if s.wset h.job set.toNat ≠ none then (s.begin_ c).reply (s.begun c) stConflict []
    else (s.begin_ c).regWeightSet (s.begun c) h.job (weightSetOf h.job set ncopy base size stride) ((s.begin_ c).probeAll 4 (setPinKey h.job)
      set.toNat h.job (weightSetOf h.job set ncopy base size stride).ranges [])) := by
  change execWeightSetReg h set ncopy base size stride s = _
  rw [execWeightSetReg, command_runs hs]
  refine congrArg _ (if_congr (by grind [inRange_iff, weightSetOk]) rfl (if_congr Option.isSome_iff_ne_none rfl ?_))
  change (match (s.begin_ c).probeAll 4 (setPinKey h.job) set.toNat h.job (weightSetOf h.job set ncopy base size stride).ranges [] with
    | .ok ps => _ | _ => _) = _
  cases (s.begin_ c).probeAll 4 (setPinKey h.job) set.toNat h.job (weightSetOf h.job set ncopy base size stride).ranges [] with
  | ok ps => rfl
  | fault => rfl
  | err => rfl
  | remote => rfl

/-! ### A set's clearing -/

/-- A set leaves with its pins. -/
def State.dropWeightSet (s : State) (job : Byte) (set : Nat) : State :=
  (s.setWeights { s.weights with sets := s.weights.sets.filter fun x => !(x.job = job && x.id = set) }).unpin fun p =>
    p.graph = setPinKey job && p.task = set

theorem dropWeightSet_spec (s : State) (job : Byte) (set : Nat) : (s.dropWeightSet job set).wset job set = none
    ∧ ∀ p ∈ (s.dropWeightSet job set).xlt.pins, ¬ (p.graph = setPinKey job ∧ p.task = set) := by
  obtain ⟨hp, hw⟩ := unpin_frame (s.setWeights { s.weights with sets := s.weights.sets.filter fun x => !(x.job = job && x.id = set) })
    fun p => p.graph = setPinKey job && p.task = set
  refine ⟨?_, fun p hin => ?_⟩
  · rw [State.wset, State.dropWeightSet, hw]
    refine List.find?_eq_none.mpr fun x hx => ?_
    have := (List.mem_filter.mp (show x ∈ s.weights.sets.filter fun x => !(x.job = job && x.id = set) from hx)).2
    grind
  · rw [State.dropWeightSet, hp] at hin
    have := (List.mem_filter.mp hin).2
    grind

theorem exec_weightSetClear (hs : s.serves 0x0602 1 true h c) : exec (.weightSetClear h set) s
    = .next ((s.wset h.job set.toNat).elim ((s.begin_ c).reply (s.begun c) stNotFound []) fun _ =>
      if s.loadRuns h.job = true ∨ s.jobResident h.job = true then (s.begin_ c).reply (s.begun c) stBusy []
      else ((s.begin_ c).dropWeightSet h.job set.toNat).reply (s.begun c) stOk []) := by
  change execWeightSetClear h set s = _
  rw [execWeightSetClear, command_runs hs]
  change Host.Outcome.next (match s.wset h.job set.toNat with | none => _ | some _ => _) = _
  cases s.wset h.job set.toNat with
  | none => rfl
  | some x => exact congrArg _ (if_congr (by rw [Bool.or_eq_true]; rfl) rfl rfl)

/-! ### A load -/

/-- The operands of a load are in range, and its sources are queue pairs of the job (R491). -/
def State.loadOk (s : State) (job : Byte) (set v off size n : W64) (srcs : List (W64 × W64 × W64)) (tm fl : W64) : Prop :=
  set.toNat ≤ 15 ∧ v.toNat % 128 = 0 ∧ 1 ≤ n.toNat ∧ n.toNat ≤ 4 ∧ srcs.length = n.toNat ∧ 1000 ≤ tm.toNat ∧ tm.toNat ≤ 10000000
    ∧ fl.toNat ≤ 1 ∧ off.toNat + size.toNat ≤ 0x18000000000 ∧ ∀ q ∈ srcs, ∃ p ∈ s.fab.qps, p.id = q.1.toNat ∧ p.job = job

/-- The epoch that a load of a set fills (R490). -/
def State.loadEpoch (s : State) (job : Byte) (x : WSet) : W16 := if x.ncopy = 2 then nextEpoch (s.epochOf job) else s.epochOf job

/-- A load once its manifest is read: its signature, then its start (R492, R501). -/
def State.signedLoad (q : State) (c : Cmd) (x : WSet) (e : W16) (st : Nat × Nat) (srcs : List (W64 × W64 × W64)) (tm : W64) (sw : Bool)
    (m : List Byte) : State :=
  let key := q.host.wkeys.get [] (leAt m 6 1)
  if key.isEmpty || !(ecdsaVerify ofBe key (manifestDigest m) ((m.drop 0x20).take 96)) then q.reply c 0x0A []
  else q.beginLoad c x e m st (srcs.map fun q => (q.1.toNat, q.2.1, q.2.2)) tm sw

/-- The manifest is signed by the key it names (R492). -/
def State.manifestSigned (q : State) (m : List Byte) : Prop :=
  q.host.wkeys.get [] (leAt m 6 1) ≠ [] ∧ ecdsaVerify ofBe (q.host.wkeys.get [] (leAt m 6 1)) (manifestDigest m) ((m.drop 0x20).take 96) = true

open Classical in
theorem signedLoad_eq (q : State) (x : WSet) (e : W16) (st : Nat × Nat) (srcs : List (W64 × W64 × W64)) (tm : W64) (sw : Bool) (m : List Byte) :
    q.signedLoad c x e st srcs tm sw m = if ¬ q.manifestSigned m then q.reply c 0x0A []
      else q.beginLoad c x e m st (srcs.map fun q => (q.1.toNat, q.2.1, q.2.2)) tm sw :=
  if_congr (by grind [State.manifestSigned, List.isEmpty_iff]) rfl rfl

section
variable {off n : W64} {srcs : List (W64 × W64 × W64)} {tm fl : W64}

theorem loadOk_iff (s : State) (job : Byte) : s.loadOk job set v off size n srcs tm fl ↔
    ¬ (set.toNat > 15 || v.toNat % 128 ≠ 0 || !(inRange n 1 4) || srcs.length ≠ n.toNat || !(inRange tm 1000 10000000)
      || fl.toNat > 1 || off.toNat + size.toNat > 0x18000000000
      || !((srcs.map fun x => (x.1.toNat, x.2.1, x.2.2)).all fun q => s.fab.qps.any fun p => p.id = q.1 && p.job = job)) = true := by
  have hall : ((srcs.map fun x => (x.1.toNat, x.2.1, x.2.2)).all fun q => s.fab.qps.any fun p => p.id = q.1 && p.job = job) = true
      ↔ ∀ q ∈ srcs, ∃ p ∈ s.fab.qps, p.id = q.1.toNat ∧ p.job = job := by
    simp
  rw [State.loadOk, ← hall]
  generalize ((srcs.map fun x => (x.1.toNat, x.2.1, x.2.2)).all fun q => s.fab.qps.any fun p => p.id = q.1 && p.job = job) = b
  grind [inRange_iff]

open Classical in
theorem exec_weightLoad (hs : s.serves 0x0603 (7 + 3 * n.toNat) true h c) : exec (.weightLoad h set v off size n srcs tm fl) s = .next (
    if ¬ s.loadOk h.job set v off size n srcs tm fl then (s.begin_ c).reply (s.begun c) stInvalid []
    else (s.wset h.job set.toNat).elim ((s.begin_ c).reply (s.begun c) stNotFound []) fun x =>
      if s.loadRuns h.job = true ∨ s.copyHeld x (s.loadEpoch h.job x) = true then
        (s.begin_ c).reply (s.begun c) stBusy [BitVec.ofNat 64 s.partNo]
      else s.fab.lost.head?.elim ((s.begin_ c).cmdPeek (s.begun c) h.job v.toNat 128 fun bs q =>
          if manifestBad bs x.size then (q.dropHub h.job).reply (s.begun c) 0x0B []
          else q.cmdRead (s.begun c) h.job v.toNat (128 + 96 * leAt bs 8 4) fun m q =>
            q.signedLoad (s.begun c) x (s.loadEpoch h.job x) (off.toNat, size.toNat) srcs tm (fl = 1) m)
        fun p => (s.begin_ c).reply (s.begun c) stPartLost [BitVec.ofNat 64 p]) := by
  change execWeightLoad h set v off size n srcs tm fl s = _
  rw [execWeightLoad, command_runs hs]
  refine congrArg _ (if_congr ?_ rfl ?_)
  · rw [loadOk_iff, not_not]
    rfl
  · change (match s.wset h.job set.toNat with | none => _ | some x => _) = _
    cases s.wset h.job set.toNat with
    | none => rfl
    | some x =>
      dsimp only [Option.elim_some]
      refine if_congr (by rw [Bool.or_eq_true]; rfl) rfl ?_
      change (match s.fab.lost with | p :: _ => _ | [] => _) = _
      cases s.fab.lost with
      | nil => rfl
      | cons p l => rfl

section
variable {x : WSet} (hs : s.serves 0x0603 (7 + 3 * n.toNat) true h c) (hok : s.loadOk h.job set v off size n srcs tm fl)
  (hx : s.wset h.job set.toNat = some x)
include hs hok hx

theorem exec_weightLoad_busy (hb : s.loadRuns h.job = true ∨ s.copyHeld x (s.loadEpoch h.job x) = true) :
    exec (.weightLoad h set v off size n srcs tm fl) s = (s.begin_ c).answers (s.begun c) stBusy [BitVec.ofNat 64 s.partNo] := by
  rw [exec_weightLoad hs, if_neg (Classical.not_not.mpr hok), hx, Option.elim_some, if_pos hb]
  rfl

variable (hb : ¬ (s.loadRuns h.job = true ∨ s.copyHeld x (s.loadEpoch h.job x) = true))
include hb

theorem exec_weightLoad_lost {p : Nat} {l : List Nat} (hl : s.fab.lost = p :: l) :
    exec (.weightLoad h set v off size n srcs tm fl) s = (s.begin_ c).answers (s.begun c) stPartLost [BitVec.ofNat 64 p] := by
  rw [exec_weightLoad hs, if_neg (Classical.not_not.mpr hok), hx, Option.elim_some, if_neg hb, hl]
  rfl

variable (hl : s.fab.lost = [])
include hl

theorem exec_weightLoad_reads : exec (.weightLoad h set v off size n srcs tm fl) s
    = .next ((s.begin_ c).cmdPeek (s.begun c) h.job v.toNat 128 fun bs q =>
      if manifestBad bs x.size then (q.dropHub h.job).reply (s.begun c) 0x0B []
      else q.cmdRead (s.begun c) h.job v.toNat (128 + 96 * leAt bs 8 4) fun m q =>
        q.signedLoad (s.begun c) x (s.loadEpoch h.job x) (off.toNat, size.toNat) srcs tm (fl = 1) m) := by
  rw [exec_weightLoad hs, if_neg (Classical.not_not.mpr hok), hx, Option.elim_some, if_neg hb, hl]
  rfl

/-- The rest of a manifest is read when its head is sound. -/
theorem exec_weightLoad_rest {bs : List Byte} (hr : (s.begin_ c).hubRead h.job v.toNat 128 = .ok bs) (hm : manifestBad bs x.size = false) :
    exec (.weightLoad h set v off size n srcs tm fl) s
      = .next ((s.begin_ c).cmdRead (s.begun c) h.job v.toNat (128 + 96 * leAt bs 8 4) fun m q =>
        q.signedLoad (s.begun c) x (s.loadEpoch h.job x) (off.toNat, size.toNat) srcs tm (fl = 1) m) := by
  rw [exec_weightLoad_reads hs hok hx hb hl, cmdPeek_ok hr, if_neg (by rw [hm]; decide)]
end
end

/-! ### The job's status -/

/-- The fields of a job's status (R508). -/
def State.weightFields (s : State) (job : Byte) : List W64 :=
  let sets := s.weights.sets.filter fun x => x.job = job
  [(s.epochOf job).setWidth 64]
    ++ (sets.flatMap fun x => (List.range x.ncopy).flatMap fun k => [x.models.getD k 0, BitVec.ofNat 64 (s.copyState x k)])
    ++ [BitVec.ofNat 64 (s.weights.refetched.get 0 job.toNat), BitVec.ofNat 64 (s.weights.drops.get 0 job.toNat)]

theorem exec_weightStatus (hs : s.serves 0x0605 0 true h c) :
    let bs := (s.weightFields h.job).flatMap fun w => leBytes 8 w.toNat
    exec (.weightStatus h) s = if (s.weightFields h.job).length ≤ 6 then (s.begin_ c).answers (s.begun c) stOk (s.weightFields h.job)
      else .next ((s.begin_ c).replyBulk (s.begun c) bs [BitVec.ofNat 64 bs.length]) := by
  change execWeightStatus h s = _
  rw [execWeightStatus, command_runs hs]
  exact apply_ite Host.Outcome.next ..

theorem exec_weightSwitch (hs : s.serves 0x0604 1 true h c) : exec (.weightSwitch h v) s = if 1000 ≤ v.toNat ∧ v.toNat ≤ 10000000
    then .next ((s.begin_ c).startSwitch (s.begun c) v []) else (s.begin_ c).answers (s.begun c) stInvalid [] := by
  change execWeightSwitch h v s = _
  rw [execWeightSwitch, command_runs hs]
  exact (apply_ite Host.Outcome.next ..).trans (if_congr (inRange_iff ..) rfl rfl)
end

/-- Settles O36: each command by its operands, its set and, for a load, its manifest and signature. -/
theorem weightCommands : Obligations.WeightCommands := by
  unfold Obligations.WeightCommands
  intro h c s set ncopy base size stride v
  dsimp only
  refine ⟨fun hs => ⟨fun (hno : ¬ weightSetOk set ncopy base size stride) => ?_, fun (hok : weightSetOk set ncopy base size stride) hx => ?_,
      fun (hok : weightSetOk set ncopy base size stride) hx => ⟨fun hp => ?_, fun ps hp hroom => ?_, fun ps hp hroom => ?_⟩⟩,
    fun hs => ⟨fun hx => ?_, fun x hx => ⟨fun hb => ?_, fun hl hr => ⟨_, ?_, dropWeightSet_spec (s.begin_ c) h.job set.toNat⟩⟩⟩,
    fun off n srcs tm fl hs => ⟨fun (hno : ¬ s.loadOk h.job set v off size n srcs tm fl) => ?_, fun (hok : s.loadOk h.job set v off size n srcs tm fl) hx => ?_,
      fun x (hok : s.loadOk h.job set v off size n srcs tm fl) hx => ?_⟩, exec_weightSwitch, fun hs => ?_⟩
  · rw [exec_weightSetReg hs, if_pos hno]
    rfl
  · rw [exec_weightSetReg hs, if_neg (Classical.not_not.mpr hok), if_pos hx]
    rfl
  · rw [exec_weightSetReg hs, if_neg (Classical.not_not.mpr hok), if_neg (Classical.not_not.mpr hx)]
    exact congrArg _ (regWeightSet_of_not_ok hp)
  · rw [exec_weightSetReg hs, if_neg (Classical.not_not.mpr hok), if_neg (Classical.not_not.mpr hx)]
    refine congrArg _ ((congrArg _ hp).trans (if_pos hroom))
  · refine ⟨_, ?_, addWeightSet_spec (s.begin_ c) h.job (weightSetOf h.job set ncopy base size stride) ps⟩
    rw [exec_weightSetReg hs, if_neg (Classical.not_not.mpr hok), if_neg (Classical.not_not.mpr hx)]
    refine congrArg _ ((congrArg _ hp).trans (if_neg (by omega)))
  · rw [exec_weightSetClear hs, hx]
    rfl
  · rw [exec_weightSetClear hs, hx]
    exact congrArg _ (if_pos hb)
  · rw [exec_weightSetClear hs, hx]
    exact congrArg _ (if_neg (by rw [hl, hr]; decide))
  · rw [exec_weightLoad hs, if_pos hno]
    rfl
  · rw [exec_weightLoad hs, if_neg (Classical.not_not.mpr hok), hx]
    rfl
  · refine ⟨exec_weightLoad_busy hs hok hx, fun p l hb hl => exec_weightLoad_lost hs hok hx hb hl, fun bs hb hl hr hm => ?_,
      fun k hb hl hno => ?_, fun bs k hb hl hr hm hno => ?_, fun bs m hb hl hr hm hr2 => ?_⟩
    · rw [exec_weightLoad_reads hs hok hx hb hl, cmdPeek_ok hr, if_pos hm]
      rfl
    · rw [exec_weightLoad_reads hs hok hx hb hl]
      exact congrArg _ (cmdPeek_of_not_ok hno ..)
    · rw [exec_weightLoad_rest hs hok hx hb hl hr hm]
      exact congrArg _ (cmdRead_of_not_ok hno ..)
    · rw [exec_weightLoad_rest hs hok hx hb hl hr hm, cmdRead_ok hr2, signedLoad_eq]
      exact ⟨fun hno => congrArg _ (if_pos hno), fun hgood => congrArg _ (if_neg (Classical.not_not.mpr hgood))⟩
  · rw [exec_weightStatus hs, replyBulk_of_serves hs]
    rfl
end Sys2Proof.Machine
end

section
/-! SUPPORT. A fetched shard moves on every loader of its job (R493, R494): in a state that lists two, the second goes to the shard
behind its own, where the claim names the shard behind the first's. -/

namespace Sys2Proof.Machine

/-- A shard without bytes, that this part keeps. -/
def emptyShard : Shard :=
  { soff := 0, slen := 0, enc := 0, sfmt := 0, dfmt := 0, layout := 0, tsplit := 0, pstage := 255, rows := 0, cols := 0, doff := 0, scoff := 0
    digest := sha384 [], clean := true }

/-- A loader of job 0 at a shard. -/
def loaderAt (next : Nat) : Loader := { job := 0, stOff := 0, stSize := 0, srcs := [], timeout := 0, andSwitch := false, next := next, since := 0 }

/-- A part that runs a load of two shards of job 0 and lists two loaders for it, at shards 0 and 5. -/
def twoLoaders : State :=
  { weights := { loads := [{ job := 0, set := 0, epoch := 0, loader := 0, copy := 0, model := 0, shards := [emptyShard, emptyShard] }]
                 loaders := [loaderAt 0, loaderAt 5] } }

/-- The shards that the loaders of a part fetch next. -/
def State.nextShards (s : State) : List Nat := s.weights.loaders.map (·.next)

theorem emptyShard_digest : sha384 [] = emptyShard.digest := by
  dsimp only [emptyShard]

theorem twoLoaders_loader : twoLoaders.loader 0 = some (loaderAt 0) := by decide +kernel

theorem exec_shardFetchDone_twoLoaders : (match exec (.shardFetchDone 0 (some [])) twoLoaders with
    | .next v => v.nextShards
    | _ => []) = [1, 6] := by decide +kernel

/-- Refutes O37: the claim has both loaders at shard 1. -/
theorem not_weightSwitchEvents : ¬ Obligations.WeightSwitchEvents := by
  unfold Obligations.WeightSwitchEvents
  rintro ⟨-, h⟩
  obtain ⟨hl, -⟩ := h twoLoaders 0 0
  obtain ⟨-, -, -, -, -, hland⟩ := hl (loaderAt 0) _ emptyShard twoLoaders_loader rfl rfl
  have hrun := exec_shardFetchDone_twoLoaders
  rw [hland [] [] rfl emptyShard_digest rfl] at hrun
  exact absurd hrun (by decide +kernel)
end Sys2Proof.Machine
end

section
/-! SUPPORT. Dispatch, steps, saves, fencing and spares (R54 to R64, R72, R74, R78 to R85, R421 to R427, R505, R610). -/

namespace Sys2Proof.Machine

theorem epochNewer_self (e : W16) : epochNewer e e = false := by
  simp [epochNewer]

/-! ### Placement -/

section
variable {s : State} {g : Fin 8} {t : Nat} {gr : Graph} {ts : TaskSt} {r : TaskRec}

/-- A task that may be placed now: it is ready, its graph runs and is loaded, and dispatch goes on (R54). -/
def State.placeable (s : State) (gr : Graph) (ts : TaskSt) : Prop :=
  ts.st = .ready ∧ gr.phase = .running ∧ gr.loading = none ∧ s.dispatchOn = true

theorem placeable_iff (s : State) (gr : Graph) (ts : TaskSt) :
    s.placeable gr ts ↔ ¬ (ts.st ≠ .ready || gr.phase ≠ .running || gr.loading.isSome || !s.dispatchOn) = true := by
  unfold State.placeable
  cases gr.loading <;> grind

/-- The candidate that a task is. -/
def State.candOf (s : State) (g t : Nat) (gr : Graph) (ts : TaskSt) (r : TaskRec) : Cand :=
  { g := g, t := t, gr := gr, ts := ts, r := r, cls := s.placeClass r }

open Classical in
theorem exec_taskPlace (hg : s.graph g.val = some gr) (ht : s.task g.val t = some ts) (hr : s.rec_ g.val t = some r) :
    let c := s.candOf g.val t gr ts r
    let cur := s.layoutEpoch.get 0 gr.hdr.job.toNat
    exec (.taskPlace g t) s = .next (if ¬ s.placeable gr ts then s
      else if epochNewer cur (tagLayout ts.tags) = true then s.dropStale g.val t ts.tags
      else if tagLayout ts.tags ≠ cur then s.modTask g.val t fun x => { x with st := .waitLayout }
      else if s.weightOk gr.hdr.job ts.tags = false then s.dropStale g.val t ts.tags
      else if r.onStall = true then (s.stallFor c).elim s fun k =>
        if s.blocked c = true ∨ s.restoreFirst c k = true then s else s.place c (some k)
      else if s.fits c = true ∧ s.blocked c = false then s.place c none else s) := by
  change execTaskPlace g t s = _
  simp only [execTaskPlace, hg, ht, hr]
  simp only [apply_ite Host.Outcome.next]
  refine if_congr (by rw [placeable_iff, Classical.not_not]) rfl (if_congr Iff.rfl rfl (if_congr Iff.rfl rfl (if_congr (by grind) rfl
    (if_congr Iff.rfl ?_ ?_))))
  · change (match s.stallFor (s.candOf g.val t gr ts r) with | some k => _ | none => _) = _
    cases s.stallFor (s.candOf g.val t gr ts r) with
    | none => rfl
    | some k =>
      rw [Option.elim_some, apply_ite Host.Outcome.next]
      exact if_congr (by rw [Bool.or_eq_true]; rfl) rfl rfl
  · rw [← ite_not]
    exact if_congr (by simp only [State.candOf]; grind) rfl rfl

theorem exec_taskPlace_none (h : s.graph g.val = none ∨ s.task g.val t = none ∨ s.rec_ g.val t = none) :
    exec (.taskPlace g t) s = .next s := by
  change execTaskPlace g t s = _
  unfold execTaskPlace
  split
  · grind
  · rfl

section
variable (hg : s.graph g.val = some gr) (ht : s.task g.val t = some ts) (hr : s.rec_ g.val t = some r)
include hg ht hr

theorem exec_taskPlace_closed (ho : ¬ s.placeable gr ts) : exec (.taskPlace g t) s = .next s := by
  rw [exec_taskPlace hg ht hr, if_pos ho]

variable (ho : s.placeable gr ts)
include ho

theorem exec_taskPlace_past (he : epochNewer (s.layoutEpoch.get 0 gr.hdr.job.toNat) (tagLayout ts.tags) = true) :
    exec (.taskPlace g t) s = .next (s.dropStale g.val t ts.tags) := by
  rw [exec_taskPlace hg ht hr, if_neg (Classical.not_not.mpr ho), if_pos he]

theorem exec_taskPlace_ahead (he : epochNewer (s.layoutEpoch.get 0 gr.hdr.job.toNat) (tagLayout ts.tags) = false)
    (hne : tagLayout ts.tags ≠ s.layoutEpoch.get 0 gr.hdr.job.toNat) :
    exec (.taskPlace g t) s = .next (s.modTask g.val t fun x => { x with st := .waitLayout }) := by
  rw [exec_taskPlace hg ht hr, if_neg (Classical.not_not.mpr ho), if_neg (by rw [he]; decide), if_pos hne]

variable (heq : tagLayout ts.tags = s.layoutEpoch.get 0 gr.hdr.job.toNat)
include heq

theorem exec_taskPlace_stale (hw : s.weightOk gr.hdr.job ts.tags = false) :
    exec (.taskPlace g t) s = .next (s.dropStale g.val t ts.tags) := by
  rw [exec_taskPlace hg ht hr, if_neg (Classical.not_not.mpr ho), heq, epochNewer_self, if_neg (by decide), if_neg (Classical.not_not.mpr rfl), if_pos hw]

/-- A task of the epochs in force goes where its record says. -/
theorem exec_taskPlace_current (hw : s.weightOk gr.hdr.job ts.tags = true) :
    let c := s.candOf g.val t gr ts r
    exec (.taskPlace g t) s = .next (if r.onStall = true then (s.stallFor c).elim s fun k =>
        if s.blocked c = true ∨ s.restoreFirst c k = true then s else s.place c (some k)
      else if s.fits c = true ∧ s.blocked c = false then s.place c none else s) := by
  rw [exec_taskPlace hg ht hr, if_neg (Classical.not_not.mpr ho), heq, epochNewer_self, if_neg (by decide), if_neg (Classical.not_not.mpr rfl),
    if_neg (by rw [hw]; decide)]
end
end

/-! ### What a placement reads first -/

section
variable {s : State} {c : Cand}

/-- The descriptors that a task's placement reads (R57). -/
def Cand.wanted (c : Cand) : List W64 := if c.r.onStall = true then c.r.drefs else if c.r.kind = 2 then c.r.drefs.take 2 else []

theorem place_of_ok {ds : List (Option W512)} (hr : s.readDrefs c.gr.hdr.job c.wanted = .ok ds) (u : Option Nat) :
    let d := if c.wanted = [] then s else s.dropHub c.gr.hdr.job
    s.place c u = match u with
      | some k => d.startOnStall c k ds
      | none => d.startOnUnit c ds := by
  have hd : (if c.wanted.isEmpty then s else s.dropHub c.gr.hdr.job) = if c.wanted = [] then s else s.dropHub c.gr.hdr.job :=
    if_congr List.isEmpty_iff rfl rfl
  rw [← hd]
  change (match s.readDrefs c.gr.hdr.job c.wanted with | .ok _ => _ | .fault .. => _ | .err .. => _ | .remote .. => _) = _
  rw [hr]
  cases u with
  | some k => rfl
  | none => rfl

theorem place_of_remote {va pa n : Nat} (hr : s.readDrefs c.gr.hdr.job c.wanted = .remote va pa n) (u : Option Nat) :
    s.place c u = s.hubFetch c.gr.hdr.job va pa n := by
  change (match s.readDrefs c.gr.hdr.job c.wanted with | .ok _ => _ | .fault .. => _ | .err .. => _ | .remote .. => _) = _
  rw [hr]

theorem place_of_fault {k va lo n : Nat} (hr : s.readDrefs c.gr.hdr.job c.wanted = .fault k va lo n) (u : Option Nat) :
    let q := s.raise ((c.ts.queue.map (·.1)).getD 4) 2 c.gr.hdr.job k va lo n (BitVec.ofNat 64 c.t)
    s.place c u = q.2.modTask c.g c.t fun x => { x with st := .faultHeld q.1 } := by
  change (match s.readDrefs c.gr.hdr.job c.wanted with | .ok _ => _ | .fault .. => _ | .err .. => _ | .remote .. => _) = _
  rw [hr]

theorem place_of_err {a : Nat} {p : Bool} (hr : s.readDrefs c.gr.hdr.job c.wanted = .err a p) (u : Option Nat) :
    s.place c u = (((s.dropHub c.gr.hdr.job).accessFault ((c.ts.queue.map (·.1)).getD 4) p a c.ts.tags).modTask c.g c.t fun x =>
      { x with st := .aborted, queue := none }).failGraph c.g 0x05 (BitVec.ofNat 64 c.t) := by
  change (match s.readDrefs c.gr.hdr.job c.wanted with | .ok _ => _ | .fault .. => _ | .err .. => _ | .remote .. => _) = _
  rw [hr]
end

/-! ### Completion, deadlock and steps -/

section
variable {s : State} {g : Fin 8} {t : Nat} {gr : Graph} {ts : TaskSt} {r : TaskRec}

theorem exec_taskComplete_none (h : s.task g.val t = none ∨ s.rec_ g.val t = none) : exec (.taskComplete g t) s = .next s := by
  change execTaskComplete g t s = _
  unfold execTaskComplete
  split
  · grind
  · rfl

theorem exec_taskComplete (ht : s.task g.val t = some ts) (hr : s.rec_ g.val t = some r) : exec (.taskComplete g t) s
    = .next (if s.taskFinished g.val t ts r = true then s.completeTask g.val t ts r else s) := by
  change execTaskComplete g t s = _
  simp only [execTaskComplete, ht, hr]
  exact (apply_ite Host.Outcome.next ..).symm

/-- A task that can still move its graph on (R64). -/
def TaskSt.moves (t : TaskSt) : Bool :=
  match t.st with
  | .running => true | .ready => true | .gated => true | .saved _ => true | .waitLayout => true | .faultHeld _ => true
  | _ => false

/-- The tasks of a graph that are neither done nor skipped. -/
def Graph.left (gr : Graph) : Nat := (gr.tasks.filter fun x => !(x.st = .done || x.st = .skipped)).length

/-- A graph that may end for want of a task that moves. -/
def Graph.mayEnd (gr : Graph) : Prop := gr.phase = .running ∧ gr.loading = none ∧ gr.left ≠ 0

open Classical in
theorem exec_deadlockTimeout (hg : s.graph g.val = some gr) : exec (.deadlockTimeout g) s
    = .next (if gr.mayEnd ∧ (gr.tasks.any TaskSt.moves) = false then s.failGraph g.val 0x24 (BitVec.ofNat 64 gr.left) else s) := by
  change execDeadlockTimeout g s = _
  simp only [execDeadlockTimeout, hg, apply_ite Host.Outcome.next]
  refine if_congr ?_ rfl rfl
  simp only [Graph.mayEnd, Bool.and_eq_true, Bool.not_eq_true', decide_eq_true_eq, Option.isNone_iff_eq_none, ne_eq]
  exact ⟨fun ⟨⟨⟨h1, h2⟩, h3⟩, h4⟩ => ⟨⟨h1, h2, h4⟩, h3⟩, fun ⟨⟨h1, h2, h4⟩, h3⟩ => ⟨⟨⟨h1, h2⟩, h3⟩, h4⟩⟩

theorem no_moves_of_stuck (hs : ∀ x ∈ gr.tasks, x.st = .waitPred ∨ x.st = .waitAdmit ∨ x.st = .waitUpdate ∨ x.st = .done ∨ x.st = .skipped
    ∨ x.st = .aborted) : (gr.tasks.any TaskSt.moves) = false := by
  refine List.any_eq_false.mpr fun x hx => ?_
  unfold TaskSt.moves
  rcases hs x hx with h | h | h | h | h | h <;> simp [h]

theorem moves_of_one (hs : ∃ x ∈ gr.tasks, x.st = .running ∨ x.st = .ready ∨ x.st = .gated ∨ x.st = .waitLayout) :
    (gr.tasks.any TaskSt.moves) = true := by
  obtain ⟨x, hx, h⟩ := hs
  refine List.any_eq_true.mpr ⟨x, hx, ?_⟩
  unfold TaskSt.moves
  rcases h with h | h | h | h <;> simp [h]

theorem exec_steps_none (hg : s.graph g.val = none) :
    exec (.deadlockTimeout g) s = .next s ∧ exec (.stepStart g) s = .next s ∧ exec (.holdExpire g) s = .next s := by
  refine ⟨?_, ?_, ?_⟩
  · change execDeadlockTimeout g s = _
    simp only [execDeadlockTimeout, hg]
  · change execStepStart g s = _
    simp only [execStepStart, hg]
  · change execHoldExpire g s = _
    simp only [execHoldExpire, hg]

/-- The next step of a sync master need not wait for an edge (R81, R82). -/
def Graph.pulsed (gr : Graph) : Prop := gr.edge = true ∨ gr.pairLost = true ∨ gr.hdr.holdMs = 0

/-- The start that the sync master has sent for the graph's next step (R83). -/
def Graph.nextStart (gr : Graph) : Option (W32 × Bool) := gr.starts.find? fun p => p.1 = gr.step + 1

open Classical in
theorem exec_stepStart (hg : s.graph g.val = some gr) : exec (.stepStart g) s = .next (if ¬ s.mayStartStep gr = true then s
    else if ¬ 2 ≤ gr.hdr.syncMode.toNat then s.beginStep g.val (gr.step + 1) false
    else if gr.hdr.syncMaster = true then if gr.pulsed then s.masterStart g.val gr false else s
    else gr.nextStart.elim s fun p => s.beginStep g.val (gr.step + 1) p.2) := by
  change execStepStart g s = _
  simp only [execStepStart, hg, apply_ite Host.Outcome.next]
  refine if_congr (by rw [Bool.not_eq_true', Bool.not_eq_true]) rfl (if_congr (by omega) rfl (if_congr Iff.rfl (if_congr ?_ rfl rfl) ?_))
  · simp only [Graph.pulsed, Bool.or_eq_true, decide_eq_true_eq, or_assoc]
  · change (match gr.nextStart with | some p => _ | none => _) = _
    cases gr.nextStart with
    | none => rfl
    | some p => rfl

open Classical in
theorem exec_holdExpire (hg : s.graph g.val = some gr) : exec (.holdExpire g) s = .next (
    if s.mayStartStep gr = true ∧ 2 ≤ gr.hdr.syncMode.toNat ∧ gr.hdr.syncMaster = true ∧ ¬ gr.pulsed
    then (s.graphEvent g.val 2 0 0).masterStart g.val gr true else s) := by
  change execHoldExpire g s = _
  simp only [execHoldExpire, hg, apply_ite Host.Outcome.next]
  refine if_congr ?_ rfl rfl
  simp only [Graph.pulsed]
  grind

/-! ### The sync edge and the master's messages -/

theorem exec_syncInEdge_off (ho : s.power.supply = .off) : exec .syncInEdge s = .next s := by
  change execSyncInEdge s = _
  rw [execSyncInEdge, if_pos ho]

/-- The graph that claims SYNC_IN. -/
def State.edgeGraph (s : State) : Option Nat := (s.host.claims.find? fun c => c.kind = .syncIn).bind (·.graph)

/-- A graph hears the edge while it runs or stands between steps, with its pair there. -/
def Graph.hears (gr : Graph) : Prop := gr.pairLost = false ∧ (gr.phase = .running ∨ gr.phase = .boundary)

theorem exec_syncInEdge_unheard (ho : s.power.supply ≠ .off) (hn : (s.ownMark 2).edgeGraph.bind (s.ownMark 2).graph = none) :
    exec .syncInEdge s = .next (s.ownMark 2) := by
  change execSyncInEdge s = _
  rw [execSyncInEdge, if_neg ho]
  change (match (s.ownMark 2).edgeGraph with | none => _ | some g => _) = _
  cases hk : (s.ownMark 2).edgeGraph with
  | none => rfl
  | some k =>
    rw [hk] at hn
    simp only [show (s.ownMark 2).graph k = none from hn]

open Classical in
theorem exec_syncInEdge {k : Nat} (ho : s.power.supply ≠ .off) (hk : (s.ownMark 2).edgeGraph = some k) (hg : (s.ownMark 2).graph k = some gr) :
    exec .syncInEdge s = .next (if ¬ gr.hears then s.ownMark 2
      else if gr.edge = true then (s.ownMark 2).count .syncEdges 0 1 else (s.ownMark 2).latchEdge k) := by
  change execSyncInEdge s = _
  rw [execSyncInEdge, if_neg ho]
  change (match (s.ownMark 2).edgeGraph with | none => _ | some g => _) = _
  rw [hk]
  simp only [hg, apply_ite Host.Outcome.next]
  refine if_congr ?_ rfl (if_congr Iff.rfl rfl rfl)
  simp only [Graph.hears]
  grind
end

/-! ### Messages of the sync master -/

section
variable {s : State} {job : Byte} {step : W32}

theorem exec_messages_unheard (h : s.slaves job = []) : (∀ m, exec (.admitMb job step m) s = .next s)
    ∧ (∀ n, exec (.close job step n) s = .next s) ∧ ∀ e, exec (.start job step e) s = .next s := by
  refine ⟨fun m => ?_, fun n => ?_, fun e => ?_⟩
  · change execAdmitMb job step m s = _
    rw [execAdmitMb, h]
    rfl
  · change execClose job step n s = _
    rw [execClose, h]
    rfl
  · change execStart job step e s = _
    rw [execStart, h]
    rfl

/-- The message is of the step that the graph runs. -/
def Graph.inStep (gr : Graph) (step : W32) : Prop := gr.step = step ∧ gr.phase = .running ∧ gr.loading = none

theorem inStep_iff (gr : Graph) (step : W32) :
    gr.inStep step ↔ (gr.step = step && gr.phase = .running && gr.loading.isNone) = true := by
  simp only [Graph.inStep, Bool.and_eq_true, decide_eq_true_eq, Option.isNone_iff_eq_none, and_assoc]

section
variable {k : Nat} {gr : Graph} (h : s.slaves job = [(k, gr)])
include h

open Classical in
theorem exec_admitMb_one (m : W16) : exec (.admitMb job step m) s = .next (if gr.inStep step
    then (s.modGraph k fun x => { x with admits := x.admits ++ [(step, m.toNat)] }).readmit k
    else s.modGraph k fun x => { x with admits := x.admits ++ [(step, m.toNat)] }) := by
  change execAdmitMb job step m s = _
  rw [execAdmitMb, h]
  exact congrArg _ (if_congr (inStep_iff ..).symm rfl rfl)

open Classical in
theorem exec_close_one (n : W16) : exec (.close job step n) s = .next (if gr.inStep step
    then ((s.closeStep k n.toNat).readmit k).checkStepEnd k
    else s.modGraph k fun x => { x with closes := x.closes ++ [(step, n.toNat)] }) := by
  change execClose job step n s = _
  rw [execClose, h]
  exact congrArg _ (if_congr (inStep_iff ..).symm rfl rfl)

theorem exec_start_one (e : Bool) : exec (.start job step e) s
    = .next (s.modGraph k fun x => { x with starts := x.starts ++ [(step, e)] }) := by
  change execStart job step e s = _
  rw [execStart, h]
  rfl
end
end

/-! ### What a save leaves in memory -/

/-- With no trace configured, memory is as before. -/
structure State.Untraced (s u : State) : Prop where
  mem : s.trace.cfg = none → u.mem = s.mem
  cfg : s.trace.cfg = none → u.trace.cfg = none

namespace State.Untraced
variable {s u v : State}

theorem refl (s : State) : s.Untraced s := ⟨fun _ => rfl, id⟩

theorem trans (h : s.Untraced u) (k : u.Untraced v) : s.Untraced v :=
  ⟨fun ht => (k.mem (h.cfg ht)).trans (h.mem ht), fun ht => k.cfg (h.cfg ht)⟩

theorem of_eq (hm : u.mem = s.mem) (ht : u.trace = s.trace) : s.Untraced u := ⟨fun _ => hm, fun h => by rw [ht, h]⟩

theorem of_counts (h : s.Counts u) : s.Untraced u := of_eq h.frame.1 h.frame.2

theorem of_links (h : s.Links u) : s.Untraced u := by
  unfold State.Links at h
  exact of_eq (by rw [h]) (by rw [h])

theorem ite {c : Prop} [Decidable c] (h : s.Untraced u) (k : s.Untraced v) : s.Untraced (if c then u else v) := by
  by_cases hc : c
  · rwa [if_pos hc]
  · rwa [if_neg hc]

theorem foldl {α : Type} {f : State → α → State} (l : List α) (h : ∀ (s : State) (a : α), s.Untraced (f s a)) (s : State) :
    s.Untraced (l.foldl f s) := by
  induction l generalizing s with
  | nil => exact refl s
  | cons a l ih => exact (h s a).trans (ih _)
end State.Untraced

section
variable (s : State)

theorem untraced_fault (r : FaultRec) : s.Untraced (s.fault r) :=
  ⟨fun h => (sends_fault_untraced s r h).counts.frame.1, fun h => (congrArg (·.cfg) (sends_fault_untraced s r h).counts.frame.2).trans h⟩

theorem untraced_transmit (input : Nat) (p : Pkt) : s.Untraced (s.transmit input p) := by
  unfold State.transmit
  dsimp only
  split
  · exact .of_links (links_turnAway ..)
  · split
    · exact (untraced_fault s _).trans (.of_links (links_turnAway ..))
    · exact .of_links (links_enqueue ..)

theorem untraced_unregister (part : Nat) (i : W16) (w : Waiter) (id : Nat) : s.Untraced (s.unregister part i w id) := by
  unfold State.unregister
  exact .ite (.refl s) ((State.Untraced.of_links (links_setFab ..)).trans (untraced_transmit ..))

theorem untraced_dropWait (k : Nat) (th : Thread) : s.Untraced (s.dropWait k th) := by
  unfold State.dropWait
  dsimp only
  have hb : ∀ p, s.Untraced (s.dropWatches p) := fun p => .of_eq rfl rfl
  split
  · exact (hb _).trans (untraced_unregister ..)
  · exact (hb _).trans (untraced_unregister ..)
  · exact hb _

theorem untraced_freeContextsOf (l : List (Nat × Thread)) : s.Untraced (s.freeContextsOf l) := by
  unfold State.freeContextsOf
  exact (State.Untraced.foldl l (fun s p => untraced_dropWait s p.1 p.2) s).trans (.of_eq rfl rfl)

theorem untraced_finishAllocFrees : s.Untraced s.finishAllocFrees :=
  .of_counts (sends_foldl _ _ (fun _ _ => sends_reply ..) s).counts

theorem untraced_freeSlots (g t : Nat) : s.Untraced (s.freeSlots g t) := by
  unfold State.freeSlots
  cases (s.task g t).bind (·.place) with
  | none => exact .refl s
  | some k => exact .ite (.of_eq rfl rfl) (.of_eq rfl rfl)

theorem untraced_freeTask (g t : Nat) : s.Untraced (s.freeTask g t) :=
  ((untraced_freeContextsOf ..).trans (untraced_finishAllocFrees _)).trans (untraced_freeSlots ..)

theorem untraced_traceStall (k ev data : Nat) : s.Untraced (s.traceStall k ev data) := by
  have he : s.trace.cfg = none → s.traceStall k ev data = s := fun h => by rw [State.traceStall, State.traceEvent, h]
  exact ⟨fun h => by rw [he h], fun h => by rw [he h, h]⟩

theorem freeTask_graphs (g t : Nat) : (s.freeTask g t).graphs = s.graphs := by
  have hdrop (l : List (Nat × Thread)) : (s.freeContextsOf l).graphs = s.graphs :=
    (State.LeavesTasks.foldl l (fun (s : State) (p : Nat × Thread) => leavesTasks_dropWait s p.1 p.2) s).2.2
  rw [State.freeTask, freeSlots_graphs, (leavesTasks_finishAllocFrees _).2.2]
  exact hdrop _

theorem task_modTask (g t : Nat) (f : TaskSt → TaskSt) : (s.modTask g t f).task g t = (s.task g t).map f := by
  unfold State.modTask State.modGraph State.task
  cases hg : s.graph g with
  | none => simp [hg]
  | some gr => simp

theorem task_of_graphs {s u : State} (h : u.graphs = s.graphs) (g t : Nat) : u.task g t = s.task g t := by
  rw [State.task, State.graph, h]
  rfl
end

/-! ### Saves and restores -/

section
variable {s : State} {g : Fin 8} {t : Nat} {ts : TaskSt}

theorem exec_taskSave_none (ht : s.task g.val t = none) : exec (.taskSave g t) s = .next s := by
  change execTaskSave g t s = _
  simp only [execTaskSave, ht]

theorem exec_taskSave_idle (ht : s.task g.val t = some ts) (hno : ts.saving = none ∨ ts.place = none) : exec (.taskSave g t) s = .next s := by
  change execTaskSave g t s = _
  simp only [execTaskSave, ht]
  split
  · grind
  · rfl

/-- What a save records of a task (R421 to R423). -/
def State.savedOf (s : State) (g t k : Nat) (ts : TaskSt) (cause : SaveCause) (fid off n : Nat) : SavedTask :=
  let ths := (s.taskThreads g t).foldr insThread []
  let span := ts.span.getD (1, 0)
  let spanN := span.2 + 1 - span.1
  let ix := fun (key : Nat) => ((ths.find? fun p => p.1 = key).map fun p => p.2.idx).getD 0
  { hall := hallOf k, off := off, bytes := n, cause := cause, faultId := fid,
    threads := ths.map fun p => (p.1, s.frameOf p.1 p.2),
    slots := ((s.stall k).slots.filter fun x => x.graph = g && x.task = t).map fun x => { x with owner := ix x.owner },
    xmode := match (s.stall k).exact with | some (m, g', t') => if g' = g && t' = t then m else 0 | none => 0
    spanLo := span.1, spanN := spanN,
    lines := Memory.write [] (span.1 * 128) (s.scratch.read (k * 786432 + span.1 * 128) (spanN * 128)),
    lc := s.hallLc (hallOf k), faultIdx := (faulter ths fid).1, faultMove := (faulter ths fid).2 }

/-- The record is written, the task's contexts and slots are free, and the task waits as saved. -/
def State.saveAs (s : State) (g t k : Nat) (tags : W64) (r : SavedTask) : State :=
  let u := ((s.poke r.off (padTo r.bytes (recordBytes g t tags r))).freeTask g t).traceStall k 8 t
  u.modTask g t fun x => { x with st := .saved (!(u.xlt.faults.any fun f => f.id = r.faultId)), saved := some r, saving := none, place := none
                                  span := none, queue := some (hallOf k, 36) }

theorem exec_taskSave {cause : SaveCause} {fid off n k : Nat} (ht : s.task g.val t = some ts) (hs : ts.saving = some (cause, fid, off, n))
    (hp : ts.place = some k) : exec (.taskSave g t) s = .next (if s.saveReady g.val t k = false then s
      else ((s.saveAs g.val t k ts.tags (s.savedOf g.val t k ts cause fid off n)).updateLend (hallOf k)).checkLayouts) := by
  change execTaskSave g t s = _
  simp only [execTaskSave, ht, hs, hp, apply_ite Host.Outcome.next]
  exact if_congr (by rw [Bool.not_eq_true']) rfl rfl

theorem saveAs_task (s : State) (g t k : Nat) (r : SavedTask) (ht : s.task g t = some ts) :
    ∃ x, (s.saveAs g t k ts.tags r).task g t = some x ∧ x.place = none ∧ x.saving = none ∧ x.saved = some r := by
  have htr (v : State) : (v.traceStall k 8 t).graphs = v.graphs := (State.LeavesTasks.of_records (records_traceStall v k 8 t)).2.2
  have hpoke (off : Nat) (bs : List Byte) : (s.poke off bs).graphs = s.graphs := (leavesTasks_poke s off bs).2.2
  have hgr := (htr _).trans ((freeTask_graphs _ g t).trans (hpoke r.off (padTo r.bytes (recordBytes g t ts.tags r))))
  unfold State.saveAs
  dsimp only
  rw [task_modTask, task_of_graphs hgr, ht]
  exact ⟨_, rfl, rfl, rfl, rfl⟩

theorem saveAs_mem (s : State) (g t k : Nat) (tags : W64) (r : SavedTask) (ht : s.trace.cfg = none) :
    (s.saveAs g t k tags r).mem = (s.poke r.off (padTo r.bytes (recordBytes g t tags r))).mem := by
  have hfree := untraced_freeTask (s.poke r.off (padTo r.bytes (recordBytes g t tags r))) g t
  unfold State.saveAs
  dsimp only
  rw [State.modTask_mem, (untraced_traceStall ..).mem (hfree.cfg ht), hfree.mem ht]

theorem exec_taskRestore_none (st : StallId) (ht : s.task g.val t = none) : exec (.taskRestore g t st) s = .next s := by
  change execTaskRestore g t st s = _
  simp only [execTaskRestore, ht]

theorem exec_taskRestore_unsaved (st : StallId) (ht : s.task g.val t = some ts) (hs : ts.saved = none) :
    exec (.taskRestore g t st) s = .next s := by
  change execTaskRestore g t st s = _
  simp only [execTaskRestore, ht, hs]

theorem exec_taskRestore {r : SavedTask} (st : StallId) (ht : s.task g.val t = some ts) (hs : ts.saved = some r) :
    let k := skey st
    let cs := (s.freeContexts k).take r.threads.length
    let u := s.reload g.val t k r cs
    exec (.taskRestore g t st) s = .next (
      if s.restorable g.val ts = true ∧ epochNewer (s.layoutEpoch.get 0 (tagJob ts.tags).toNat) (tagLayout ts.tags) = true then
        (s.dropStale g.val t ts.tags).finishAllocFrees
      else if s.canRestore g.val ts r k = false then s
      else if s.poisoned r.off r.bytes = true then s.redispatch g.val t
      else (cs.foldl (fun (s : State) (c : Nat) => (s.rewait c).resumeMoves c) ((u.tick.unpark (hallOf k)).traceStall k 9 t)).updateLend (hallOf k)) := by
  change execTaskRestore g t st s = _
  simp only [execTaskRestore, ht, hs, apply_ite Host.Outcome.next]
  exact if_congr (by rw [Bool.and_eq_true]) rfl (if_congr (by rw [Bool.not_eq_true']) rfl rfl)

theorem loadThreads_graphs (l : List (Nat × Thread)) (cs : List Nat) (s : State) : (s.loadThreads l cs).graphs = s.graphs := by
  induction l generalizing cs s with
  | nil => rfl
  | cons p l ih =>
    cases cs with
    | nil => rfl
    | cons c cs => exact ih cs _

/-- A restored task runs on its stall (R424). -/
theorem reload_task {k : Nat} {r : SavedTask} {cs : List Nat} (ht : s.task g.val t = some ts) :
    ∃ x, (s.reload g.val t k r cs).task g.val t = some x ∧ x.st = .running ∧ x.place = some k ∧ x.saved = none := by
  have htask (u : State) (hu : u.graphs = (s.loadThreads r.threads cs).graphs) : u.task g.val t = some ts :=
    (task_of_graphs (hu.trans (loadThreads_graphs ..)) ..).trans ht
  unfold State.reload
  dsimp only
  rw [task_modTask, htask]
  · exact ⟨_, rfl, rfl, rfl, rfl⟩
  · rfl

/-! ### Pre-emption by a ready task -/

theorem exec_midtask_none (st : StallId) (h : s.graph g.val = none ∨ s.task g.val t = none ∨ s.rec_ g.val t = none) :
    exec (.midtaskPreemptTimeout g t st) s = .next s := by
  change execMidtaskPreemptTimeout g t st s = _
  unfold execMidtaskPreemptTimeout
  dsimp only
  split
  · grind
  · rfl

/-- No stall of the aisle that runs holds more contexts of lower graphs. -/
def State.mostLower (s : State) (g k : Nat) : Prop :=
  ∀ i, i < 16 → s.stallRuns (aisleOf k * 16 + i) = true → s.lowerContexts g (aisleOf k * 16 + i) ≤ s.lowerContexts g k

theorem mostLower_iff (s : State) (g k : Nat) : s.mostLower g k ↔ (((List.range 16).map fun i => aisleOf k * 16 + i).all fun j =>
    !(s.stallRuns j) || s.lowerContexts g j ≤ s.lowerContexts g k) = true := by
  simp only [State.mostLower, List.all_map, List.all_eq_true, List.mem_range, Function.comp_apply, Bool.or_eq_true, Bool.not_eq_true',
    decide_eq_true_eq]
  exact forall₂_congr fun i _ => by grind

/-- A ready task of a MIDTASK graph pre-empts on the stall (R425). -/
def State.preempts (s : State) (g k : Nat) (gr : Graph) (ts : TaskSt) (r : TaskRec) : Prop :=
  gr.hdr.midtask = true ∧ gr.phase = .running ∧ ts.st = .ready ∧ r.onStall = true ∧ ts.queue = some (hallOf k, aisleOf k % 36)
    ∧ s.stallRuns k = true ∧ (r.placeStall = k % 16 ∨ r.placeStall = 31) ∧ (r.placeStall = 31 → s.mostLower g k)

open Classical in
theorem exec_midtask {gr : Graph} {r : TaskRec} (st : StallId) (hg : s.graph g.val = some gr) (ht : s.task g.val t = some ts)
    (hr : s.rec_ g.val t = some r) : exec (.midtaskPreemptTimeout g t st) s = .next (if s.preempts g.val (skey st) gr ts r
      then s.preemptUntil r.nthreads (s.victims g.val (skey st)) ((s.freeContexts (skey st)).length + s.savingContexts (skey st)) else s) := by
  change execMidtaskPreemptTimeout g t st s = _
  simp only [execMidtaskPreemptTimeout, hg, ht, hr, apply_ite Host.Outcome.next]
  refine if_congr ?_ rfl rfl
  rw [State.preempts, mostLower_iff]
  generalize (List.all _ _) = b
  grind
end

/-! ### Fencing -/

section
variable {s : State}

theorem fenceStall_of_fenced {k : Nat} (q : FaultClass) (h : (s.stall k).fenced = true ∨ s.hallRuns (hallOf k) = false) :
    s.fenceStall k q = s := by
  unfold State.fenceStall
  exact if_pos (by grind)

theorem fenceStall_eq {k : Nat} (q : FaultClass) (hf : (s.stall k).fenced = false) (hh : s.hallRuns (hallOf k) = true) :
    let u := (((s.emptyStall k).stallFault k q 3 0 0).raiseAlert 7).count .fences (hallOf k) 1
    s.fenceStall k q = if (u.aisle (aisleOf k)).sxFor = none then u.relend.updateLend (hallOf k) else u.fenceAisle (aisleOf k) q := by
  unfold State.fenceStall
  refine (if_neg (by rw [hf, hh]; decide)).trans ?_
  rw [← ite_not]
  exact if_congr (by rw [Option.isSome_iff_ne_none, Classical.not_not]) rfl rfl

theorem fenceAisle_of_fenced {a : Nat} (q : FaultClass) (h : (s.aisle a).fenced = true ∨ (s.aisle a).gone = true) : s.fenceAisle a q = s := by
  unfold State.fenceAisle
  exact if_pos (by grind)

theorem fenceAisle_eq {a : Nat} (q : FaultClass) (hf : (s.aisle a).fenced = false) (hg : (s.aisle a).gone = false) :
    let last := (s.hall (a / 36)).axFor ≠ none
    let e := (List.range 16).foldl (fun (s : State) i => s.emptyStall (a * 16 + i))
      (s.setAisle a { s.aisle a with fenced := true, gone := (s.hall (a / 36)).axFor.isSome })
    let u := (e.requeue fun x => x = (a / 36, a % 36)).relend
    s.fenceAisle a q
      = ((((if last then u.degradedFault a q else u.aisleFault a q 3 0 0).raiseAlert 7).count .fences (a / 36) 1).updateLend (a / 36)) := by
  have hlast (x y : State) : (if (s.hall (a / 36)).axFor.isSome = true then x else y) = if (s.hall (a / 36)).axFor ≠ none then x else y :=
    if_congr Option.isSome_iff_ne_none rfl rfl
  unfold State.fenceAisle
  refine (if_neg (by rw [hf, hg]; decide)).trans ?_
  dsimp only
  rw [hlast]

variable {hall : Fin 4} {aisle : Fin 36}

theorem exec_stallQuietPoint_stopped (x : Option (Fin 16)) (pass : Bool) (hr : ¬ s.hallRuns hall.val = true) :
    exec (.stallQuietPoint hall aisle x pass) s = .next s := by
  change execStallQuietPoint hall aisle x pass s = _
  unfold execStallQuietPoint
  exact if_pos (by grind)

/-- A fenced stall of an aisle that serves, whose spare stall is unused (R16, R610). -/
def State.stallDue (s : State) (a n : Nat) : Prop :=
  (s.stall n).fenced = true ∧ (s.aisle a).fenced = false ∧ (s.aisle a).gone = false ∧ (s.aisle a).sxFor = none

open Classical in
theorem exec_stallQuietPoint_stall (i : Fin 16) (pass : Bool) (hr : s.hallRuns hall.val = true) :
    let a := aisleKey hall.val aisle.val
    let n := a * 16 + i.val
    exec (.stallQuietPoint hall aisle (some i) pass) s = .next (if ¬ s.stallDue a n then s
      else if pass = true then (s.useSx n).retireShort a else (s.setAisle a { s.aisle a with sxFor := some 16 }).fenceAisle a .stallUe) := by
  change execStallQuietPoint hall aisle (some i) pass s = _
  simp only [execStallQuietPoint, apply_ite Host.Outcome.next]
  refine (if_neg (by rw [hr]; decide)).trans (if_congr ?_ rfl (if_congr Iff.rfl rfl rfl))
  unfold State.stallDue
  cases (s.aisle (aisleKey hall.val aisle.val)).sxFor <;> grind

/-- A fenced aisle of a hall whose spare aisle is unused (R17, R610). -/
def State.aisleDue (s : State) (h a : Nat) : Prop := (s.aisle a).fenced = true ∧ (s.aisle a).gone = false ∧ (s.hall h).axFor = none

open Classical in
theorem exec_stallQuietPoint_aisle (pass : Bool) (hr : s.hallRuns hall.val = true) :
    let a := aisleKey hall.val aisle.val
    let u := s.setHall hall.val { s.hall hall.val with axFor := some 36 }
    exec (.stallQuietPoint hall aisle none pass) s = .next (if ¬ s.aisleDue hall.val a then s else if pass = true then s.useAx a
      else ((u.setAisle a { u.aisle a with gone := true }).requeue fun q => q = (hall.val, aisle.val)).degradedFault a .aisleUe) := by
  change execStallQuietPoint hall aisle none pass s = _
  simp only [execStallQuietPoint, apply_ite Host.Outcome.next]
  refine (if_neg (by rw [hr]; decide)).trans (if_congr ?_ rfl (if_congr Iff.rfl rfl rfl))
  unfold State.aisleDue
  cases (s.hall hall.val).axFor <;> grind

theorem fenceHall_of_fenced {h : Nat} (mesh : Bool) (q : FaultClass) (hf : (s.hall h).fenced = true) : s.fenceHall h mesh q = s :=
  if_pos hf

variable {t : ThreadRef}

theorem exec_ctxParity_none (h : s.thread (tkey t) = none) : exec (.ctxParity t) s = .next s := by
  change execCtxParity t s = _
  simp only [execCtxParity, h]

theorem exec_ctxParity {th : Thread} (h : s.thread (tkey t) = some th) :
    let u := s.stallFault (skey t.st) .ctxParity 2 (s.threadTags th) 0
    exec (.ctxParity t) s = .next (if th.status = .lent
      then (((u.setThread (tkey t) none).modStall (skey t.st) fun i => i.freeTask th.graph th.task).releaseHeld (skey t.st) fun w _ => w = .xmode).relend
      else u.redispatch th.graph th.task) := by
  change execCtxParity t s = _
  simp only [execCtxParity, h]
end

/-- Settles O32: each event by the branches of its row, and a save by what its parts leave alone. -/
theorem dispatchAndSteps : Obligations.DispatchAndSteps := by
  classical
  unfold Obligations.DispatchAndSteps
  refine ⟨fun s g t => ?_, fun s g t st => ?_, fun s st hall aisle t => ?_⟩
  · dsimp only
    refine ⟨exec_taskPlace_none, exec_taskComplete_none, exec_steps_none, fun ts r => exec_taskComplete, fun gr ts r hg ht hr => ?_,
      fun gr hg => ?_, exec_syncInEdge_off, fun ho => ⟨exec_syncInEdge_unheard ho, fun k gr hk hg => ?_⟩, fun job step => ?_⟩
    · refine ⟨exec_taskPlace_closed hg ht hr, exec_taskPlace_past hg ht hr, exec_taskPlace_ahead hg ht hr,
        fun ho heq => ⟨exec_taskPlace_stale hg ht hr ho heq, fun hw => ⟨fun hon hst => ?_, fun k hon hst => ?_, fun hon => ?_⟩⟩,
        fun u => ⟨fun ds hd => place_of_ok (c := s.candOf g.val t gr ts r) hd u, fun va pa n hd => place_of_remote (c := s.candOf g.val t gr ts r) hd u,
          fun k va lo n hd => place_of_fault (c := s.candOf g.val t gr ts r) hd u, fun a p hd => place_of_err (c := s.candOf g.val t gr ts r) hd u⟩⟩
      · rw [exec_taskPlace_current hg ht hr ho heq hw, if_pos hon, show s.stallFor (s.candOf g.val t gr ts r) = none from hst]
        rfl
      · rw [exec_taskPlace_current hg ht hr ho heq hw, if_pos hon, show s.stallFor (s.candOf g.val t gr ts r) = some k from hst]
        rfl
      · rw [exec_taskPlace_current hg ht hr ho heq hw, if_neg (by rw [hon]; decide)]
        rfl
    · refine ⟨fun hs he => ?_, fun he => ?_, fun hm => ?_, fun hf => ⟨?_, ?_⟩, fun hf hw => ⟨?_, ?_⟩, fun hf hw hm => ?_, fun hf hw hm => ?_,
        fun hf hw hm => ⟨?_, ?_⟩⟩
      · rw [exec_deadlockTimeout hg, if_pos ⟨he, no_moves_of_stuck hs⟩]
        rfl
      · rw [exec_deadlockTimeout hg, if_neg fun h => he h.1]
      · rw [exec_deadlockTimeout hg, if_neg fun h => by rw [moves_of_one hm] at h; exact absurd h.2 (by decide)]
      · rw [exec_stepStart hg, if_pos hf]
      · rw [exec_holdExpire hg, if_neg fun h => hf h.1]
      · rw [exec_stepStart hg, if_neg (Classical.not_not.mpr hf), if_pos hw]
      · rw [exec_holdExpire hg, if_neg fun h => hw h.2.1]
      · rw [exec_stepStart hg, if_neg (Classical.not_not.mpr hf), if_neg (Classical.not_not.mpr hw), if_pos hm]
        exact congrArg _ (if_congr Iff.rfl rfl rfl)
      · rw [exec_holdExpire hg, ← ite_not]
        exact congrArg _ (if_congr (by simp only [hf, hw, hm, true_and]; rw [Classical.not_not]; rfl) rfl rfl)
      · rw [exec_holdExpire hg, if_neg fun h => hm h.2.2.1]
      · rw [exec_stepStart hg, if_neg (Classical.not_not.mpr hf), if_neg (Classical.not_not.mpr hw), if_neg hm, Graph.nextStart]
        cases gr.starts.find? fun p => p.1 = gr.step + 1 with
        | none => rfl
        | some p => rfl
    · refine ⟨fun hn => ?_, fun hh he => ?_, fun hh he => ?_⟩
      · rw [exec_syncInEdge ho hk hg, if_pos (show ¬ gr.hears from hn)]
      · rw [exec_syncInEdge ho hk hg, if_neg (Classical.not_not.mpr (show gr.hears from hh)), if_pos he]
      · rw [exec_syncInEdge ho hk hg, if_neg (Classical.not_not.mpr (show gr.hears from hh)), if_neg (by rw [he]; decide)]
    · refine ⟨exec_messages_unheard, fun k gr hk => ⟨fun m => ?_, fun n => ?_, exec_start_one hk⟩, fun m n e => ⟨_, _, _, rfl, rfl, rfl⟩⟩
      · rw [exec_admitMb_one hk]
        exact congrArg _ (if_congr Iff.rfl rfl rfl)
      · rw [exec_close_one hk]
        exact congrArg _ (if_congr Iff.rfl rfl rfl)
  · dsimp only
    refine ⟨fun ht => ⟨exec_taskSave_none ht, exec_taskRestore_none st ht⟩, fun ts ht => ⟨exec_taskSave_idle ht, fun cause fid off n p hs hp => ⟨fun hr => ?_,
      fun hr => ⟨s.saveAs g.val t p ts.tags (s.savedOf g.val t p ts cause fid off n), ?_, ?_⟩⟩, exec_taskRestore_unsaved st ht, fun r hs => ⟨fun hp => ?_, fun hp hc => ?_, fun hp hc hx => ?_,
      fun hp hc hx => ⟨reload_task ht, ?_⟩⟩⟩, exec_midtask_none st, fun gr ts r hg ht hr => ⟨fun hh => ?_, fun hh => ?_⟩⟩
    · rw [exec_taskSave ht hs hp, if_pos hr]
    · rw [exec_taskSave ht hs hp, if_neg (by rw [hr]; decide)]
    · obtain ⟨x, hx, hplace, hsaving, hsaved⟩ := saveAs_task s g.val t p (s.savedOf g.val t p ts cause fid off n) ht
      exact ⟨x, _, hx, hplace, hsaving, hsaved, rfl, rfl, rfl, rfl, rfl, saveAs_mem s g.val t p ts.tags _⟩
    · rw [exec_taskRestore st ht hs, if_pos hp]
    · rw [exec_taskRestore st ht hs, if_neg hp, if_pos hc]
    · rw [exec_taskRestore st ht hs, if_neg hp, if_neg (by rw [hc]; decide), if_pos hx]
    · rw [exec_taskRestore st ht hs, if_neg hp, if_neg (by rw [hc]; decide), if_neg (by rw [hx]; decide)]
    · rw [exec_midtask st hg ht hr, if_pos (show s.preempts g.val (skey st) gr ts r from hh)]
    · rw [exec_midtask st hg ht hr, if_neg (show ¬ s.preempts g.val (skey st) gr ts r from hh)]
  · dsimp only
    refine ⟨⟨rfl, rfl⟩, fun q => ⟨fenceStall_of_fenced q, fenceStall_eq q⟩, fun q => ⟨fenceAisle_of_fenced q, fenceAisle_eq q⟩, rfl, rfl,
      fun x pass => exec_stallQuietPoint_stopped x pass, fun i pass hr => ?_, fun pass hr => ?_, fun mesh => rfl, rfl,
      fun mesh q => fenceHall_of_fenced mesh q, exec_ctxParity_none, fun th => exec_ctxParity⟩
    · rw [exec_stallQuietPoint_stall i pass hr]
      exact congrArg _ (if_congr Iff.rfl rfl rfl)
    · rw [exec_stallQuietPoint_aisle pass hr]
      exact congrArg _ (if_congr Iff.rfl rfl rfl)
end Sys2Proof.Machine
end

section
/-! SUPPORT. The Tills' commands and units, pins and Porter transfers (R54, R303 to R309, R316, R325, R413, R415, R416). -/

namespace Sys2Proof.Machine

/-! ### A command's start -/

section
variable {s : State} {stack : Fin 12}

theorem exec_tillCommandWrite (src : Fin 8192) (bytes : List Byte) : exec (.tillCommandWrite src stack bytes) s
    = .next (if bytes.length = 128 ∧ s.member src.val = true then s.tillPost { src := src.val, bytes := bytes } else s) := by
  have hlt : stack.val < 12 := stack.isLt
  change execTillCommandWrite src stack bytes s = _
  rw [execTillCommandWrite, apply_ite Host.Outcome.next]
  exact if_congr (by grind) rfl rfl

theorem exec_tillCommandStart_idle (h : s.till.run ≠ none ∨ s.till.queue = []) : exec .tillCommandStart s = .next s := by
  change execTillCommandStart s = _
  unfold execTillCommandStart
  split
  · grind
  · rfl

/-- The oldest command has left the queue, and a waiting one has its place (R304). -/
def State.takeTill (s : State) (q : List TillPost) : State := (s.setTill { s.till with queue := q }).admitPost.finishInvalidates

/-- The run of a command, with its group if it is registered. -/
def State.tillRunOf (v : State) (p : TillPost) : TillRun :=
  { src := p.src, bytes := p.bytes, gid := (v.tillGroup (TillCmd.parse p.bytes).gid).map (·.gid) }

/-- A Till may not start a command now: the supply, the 42 V level or a copy of its group holds it (R305, R325). -/
def State.tillWaits (s : State) (c : TillCmd) : Prop := s.power.supply ≠ .on ∨ s.power.below42 = true ∨ c.gid ∈ s.till.copying

/-- A command of the group `g` is stale, or its run begins (R305, R306). -/
def State.startTill (v : State) (p : TillPost) (g : TillGroup) : State :=
  let c := TillCmd.parse p.bytes
  if tillStale g c = true then
    (((v.setTill { v.till with run := some { v.tillRunOf p with refused := 2 } }).modGroup g.gid fun g => { g with stale := g.stale + 1 }).count
      .tillStale 0 1).partFault .staleTag 3 0 0 c.tags (BitVec.ofNat 64 c.gid)
  else v.setTill { v.till with run := some (v.tillRunOf p) }

section
variable {p : TillPost} {q : List TillPost} (hr : s.till.run = none) (hq : s.till.queue = p :: q)
include hr hq

open Classical in
theorem exec_tillCommandStart : exec .tillCommandStart s = .next (if s.tillWaits (TillCmd.parse p.bytes) then s
    else if (s.takeTill q).tillInvalid p.src (TillCmd.parse p.bytes) = true then
      ((s.takeTill q).setTill { (s.takeTill q).till with run := some { (s.takeTill q).tillRunOf p with refused := 3 } }).partFault .address 3 0 0
        (TillCmd.parse p.bytes).tags (BitVec.ofNat 64 (TillCmd.parse p.bytes).gid)
    else ((s.takeTill q).tillGroup (TillCmd.parse p.bytes).gid).elim (s.takeTill q) fun g => (s.takeTill q).startTill p g) := by
  change execTillCommandStart s = _
  unfold State.startTill State.tillRunOf State.takeTill
  simp only [execTillCommandStart, hr, hq, apply_ite Host.Outcome.next]
  generalize ((s.setTill _).admitPost.finishInvalidates) = v
  refine if_congr (by unfold State.tillWaits; grind) rfl (if_congr Iff.rfl rfl ?_)
  cases v.tillGroup (TillCmd.parse p.bytes).gid with
  | none => rfl
  | some g =>
    rw [Option.elim_some, apply_ite Host.Outcome.next]

theorem exec_tillCommandStart_waits (hw : s.tillWaits (TillCmd.parse p.bytes)) : exec .tillCommandStart s = .next s := by
  rw [exec_tillCommandStart hr hq, if_pos hw]

variable (hw : ¬ s.tillWaits (TillCmd.parse p.bytes))
include hw

theorem exec_tillCommandStart_invalid (hi : (s.takeTill q).tillInvalid p.src (TillCmd.parse p.bytes) = true) : exec .tillCommandStart s
    = .next (((s.takeTill q).setTill { (s.takeTill q).till with run := some { (s.takeTill q).tillRunOf p with refused := 3 } }).partFault .address
      3 0 0 (TillCmd.parse p.bytes).tags (BitVec.ofNat 64 (TillCmd.parse p.bytes).gid)) := by
  rw [exec_tillCommandStart hr hq, if_neg hw, if_pos hi]

theorem exec_tillCommandStart_valid {g : TillGroup} (hi : (s.takeTill q).tillInvalid p.src (TillCmd.parse p.bytes) = false)
    (hg : (s.takeTill q).tillGroup (TillCmd.parse p.bytes).gid = some g) :
    exec .tillCommandStart s = .next ((s.takeTill q).startTill p g) := by
  rw [exec_tillCommandStart hr hq, if_neg hw, if_neg (by rw [hi]; decide), hg, Option.elim_some]
end

/-! ### Units and a command's end -/

theorem exec_tills_idle (h : s.till.run = none) :
    (∀ unit, exec (.tillUnitDone stack unit) s = .next s) ∧ exec .tillCommandDone s = .next s.pumpBoundaries := by
  refine ⟨fun unit => ?_, ?_⟩
  · change execTillUnitDone stack unit s = _
    simp only [execTillUnitDone, h]
  · change execTillCommandDone s = _
    simp only [execTillCommandDone, State.tillCommandDone, h]

/-- A Till in service that may work on the unit (R307, R325). -/
def State.unitServes (s : State) (k : Nat) (r : TillRun) (g : TillGroup) (unit : Nat) : Prop :=
  r.refused = 0 ∧ unit < g.units ∧ ¬ unit ∈ r.done ∧ ¬ unit ∈ r.bad ∧ (s.unitStack g unit = none ∨ s.unitStack g unit = some k)
    ∧ (s.tillOf k).pipes ≠ 0 ∧ (∀ p ∈ r.paused, p.1 ≠ k) ∧ s.power.supply = .on ∧ s.power.below40 = false

theorem unitServes_iff (s : State) (k : Nat) (r : TillRun) (g : TillGroup) (unit : Nat) : s.unitServes k r g unit ↔
    ¬ (r.refused ≠ 0 || unit ≥ g.units || r.done.contains unit || r.bad.contains unit || (s.unitStack g unit).getD k ≠ k
        || (s.tillOf k).pipes = 0 || (r.paused.any fun p => p.1 = k) || s.power.supply ≠ .on || s.power.below40) = true := by
  have hany : (r.paused.any fun p => p.1 = k) = false ↔ ∀ p ∈ r.paused, p.1 ≠ k := by simp
  unfold State.unitServes
  rw [← hany]
  cases s.unitStack g unit <;> grind

/-- What a finished computation of a unit leads to (R307, R308, R316). -/
def State.unitEnds (s : State) (k : Nat) (g : TillGroup) (unit : Nat) : Acc (List Byte × TillCounts) → State
  | .ok (b, x) => (match s.vwrite g.job (g.unitVa unit) b with
    | .ok (t, _) => (((t.dropHub g.job).modRun fun r =>
        { r with done := unit :: r.done, counts := r.counts.add x, perTill := r.perTill.set 0 k (r.perTill.get 0 k + 1) }).modTillOf
          k fun t => { t with elems := t.elems + BitVec.ofNat 64 x.updated }).tallyTill k x
    | _ => s.unitBad k g unit (g.unitVa unit) false)
  | .err a p => s.unitBad k g unit a p
  | .remote va pa n => s.hubFetch g.job va pa n
  | .fault kind va lo n =>
    let f := s.raise (k / 3) 6 g.job kind va lo n 0
    f.2.modRun fun r => { r with paused := (k, f.1, unit) :: r.paused }

theorem unitEnds_written {k unit : Nat} {g : TillGroup} {b : List Byte} {x : TillCounts} {t : State} {away : List (Nat × List Byte)}
    (hv : s.vwrite g.job (g.unitVa unit) b = .ok (t, away)) : s.unitEnds k g unit (.ok (b, x)) = (((t.dropHub g.job).modRun fun r =>
      { r with done := unit :: r.done, counts := r.counts.add x, perTill := r.perTill.set 0 k (r.perTill.get 0 k + 1) }).modTillOf
        k fun t => { t with elems := t.elems + BitVec.ofNat 64 x.updated }).tallyTill k x := by
  simp only [State.unitEnds, hv]

theorem unitEnds_unwritten {k unit : Nat} {g : TillGroup} {b : List Byte} {x : TillCounts}
    (hv : ∀ t away, s.vwrite g.job (g.unitVa unit) b ≠ .ok (t, away)) :
    s.unitEnds k g unit (.ok (b, x)) = s.unitBad k g unit (g.unitVa unit) false := by
  unfold State.unitEnds
  dsimp only
  split
  next t away h => exact absurd h (hv t away)
  next => rfl

section
variable {r : TillRun} {g : TillGroup} (hr : s.till.run = some r) (hg : r.gid.bind s.tillGroup = some g)
include hr hg

theorem exec_tillUnitDone_idle {unit : Nat} (hno : ¬ s.unitServes stack.val r g unit) : exec (.tillUnitDone stack unit) s = .next s := by
  change execTillUnitDone stack unit s = _
  simp only [execTillUnitDone, hr, hg]
  exact if_pos (by rwa [unitServes_iff, Classical.not_not] at hno)

theorem exec_tillUnitDone {unit : Nat} (hs : s.unitServes stack.val r g unit) {a : Acc (List Byte × TillCounts)}
    (ha : s.unitResult g (TillCmd.parse r.bytes) unit = a) : exec (.tillUnitDone stack unit) s = .next (s.unitEnds stack.val g unit a) := by
  change execTillUnitDone stack unit s = _
  simp only [execTillUnitDone, hr, hg]
  refine (if_neg ((unitServes_iff ..).mp hs)).trans ?_
  unfold State.finishUnit State.unitEnds
  rw [ha]
  rcases a with ⟨b, x⟩ | _ | _ | _
  · dsimp only
    cases s.vwrite g.job (g.unitVa unit) b with
    | ok q => rfl
    | fault => rfl
    | err => rfl
    | remote => rfl
  · rfl
  · rfl
  · rfl

/-- DONE is signalled, if the command asks for it (R309). -/
def TillCmd.signal (c : TillCmd) (v : State) : State :=
  if c.donePart.getLsbD 15 then v.signalAt (c.donePart.toNat % 8192) c.doneIndex 1 else v

/-- The digests of a finished command are written, once (R309, R316). -/
def State.digested (s : State) (r : TillRun) (g : TillGroup) : State :=
  if r.digested = true then s else (s.writeDigests g (TillCmd.parse r.bytes).step).modRun fun r => { r with digested := true }

omit hr hg in
theorem exec_tillCommandDone_refused (hr : s.till.run = some r) (hf : r.refused ≠ 0) : exec .tillCommandDone s
    = .next ((TillCmd.parse r.bytes).signal (s.finishRun r r.refused)).pumpBoundaries := by
  change execTillCommandDone s = _
  simp only [execTillCommandDone, State.tillCommandDone, hr, if_pos hf]
  rfl

theorem exec_tillCommandDone (hf : r.refused = 0) : exec .tillCommandDone s = .next (
    if r.done.length + r.bad.length + (s.lostUnits r g).length < g.units then s
    else if (s.digested r g).outstanding (.till 12) = true then s.digested r g
    else (TillCmd.parse r.bytes).signal ((s.digested r g).finishRun r (if s.lostUnits r g ≠ [] then 5 else if r.bad = [] then 1 else 4))).pumpBoundaries
    := by
  have hend : (if (!(s.lostUnits r g).isEmpty) = true then 5 else if r.bad.isEmpty = true then 1 else 4)
      = if s.lostUnits r g ≠ [] then 5 else if r.bad = [] then 1 else 4 :=
    if_congr (by grind [List.isEmpty_iff]) rfl (if_congr List.isEmpty_iff rfl rfl)
  change execTillCommandDone s = _
  rw [← hend]
  simp only [execTillCommandDone, State.tillCommandDone, hr, hg, if_neg (Classical.not_not.mpr hf)]
  rfl
end

theorem exec_tillPipeFail_none (h : (s.tillOf stack.val).pipes = 0) : exec (.tillPipeFail stack) s = .next s := by
  change execTillPipeFail stack s = _
  exact if_pos h

theorem exec_tillPipeFail {n : Nat} (h : (s.tillOf stack.val).pipes = n + 1) :
    let v := (s.modTillOf stack.val fun t => { t with pipes := n }).partFault .tillPipe 5 3 (BitVec.ofNat 16 stack.val) 0 (BitVec.ofNat 64 (4 - (n + 1)))
    exec (.tillPipeFail stack) s = .next (if n = 0 then (v.partFault .tillFailed 5 3 (BitVec.ofNat 16 stack.val) 0 0).raiseAlert 7 else v) := by
  change execTillPipeFail stack s = _
  simp only [execTillPipeFail, h]
  refine (if_neg (by omega)).trans (congrArg _ (if_congr (by omega) rfl rfl))
end

/-- A group after a change that keeps the groups' numbers. -/
theorem tillGroup_modGroup {s : State} {gid : Nat} {g : TillGroup} {f : TillGroup → TillGroup} (hg : s.tillGroup gid = some g)
    (hf : ∀ x, (f x).gid = x.gid) : (s.modGroup gid f).tillGroup gid = some (f g) := by
  have hsame : ((fun x : TillGroup => decide (x.gid = gid)) ∘ fun x => if x.gid = gid then f x else x) = fun x => decide (x.gid = gid) := by
    funext x
    by_cases hx : x.gid = gid
    · simp [hx, hf]
    · simp [hx]
  have hgid : g.gid = gid := by simpa using List.find?_some hg
  change ((s.till.groups.map fun x => if x.gid = gid then f x else x).find? fun x => x.gid = gid) = _
  rw [List.find?_map, hsame, show s.till.groups.find? (fun x => x.gid = gid) = some g from hg, Option.map_some, if_pos hgid]

/-- A command's end frees the Tills and records the outcome in its group (R309, Table 10.10). -/
theorem finishRun_spec {s : State} {r : TillRun} {g : TillGroup} (n : Nat) (hr : r.gid = some g.gid) (hg : s.tillGroup g.gid = some g) :
    (s.finishRun r n).till.run = none ∧ (s.finishRun r n).mem = s.mem
    ∧ ((s.finishRun r n).tillGroup g.gid).map (fun x => (x.outcome, x.step, x.unitsDone, x.counts))
      = some (n, (TillCmd.parse r.bytes).step, r.done.length, r.counts) := by
  unfold State.finishRun
  rw [hr]
  refine ⟨rfl, rfl, ?_⟩
  dsimp only
  rw [tillGroup_modGroup (s := s.setTill { s.till with run := none }) hg]
  · rfl
  · exact fun _ => rfl

/-! ### Pins and Porter transfers -/

section
variable {s : State} {g : Fin 8} {t : Nat}

theorem exec_pinProbe_none (h : s.rec_ g.val t = none) : exec (.pinProbe g t) s = .next s := by
  change execPinProbe g t s = _
  simp only [execPinProbe, h]

theorem exec_pinProbe {r : TaskRec} (h : s.rec_ g.val t = some r) : exec (.pinProbe g t) s = .next (
    if r.kind = 3 then (s.collTake g.val t).collProbe g.val t else if r.kind = 4 then s.rootProbe r.placeHall g.val t
    else if r.kind = 5 then s.solveProbe r.placeHall g.val t else s) := by
  change execPinProbe g t s = _
  simp only [execPinProbe, h, apply_ite Host.Outcome.next]

theorem exec_transfer_none (h : s.transfer g.val t = none) :
    exec (.moveTransferStart g t) s = .next s ∧ exec (.moveTransferDone g t) s = .next s := by
  refine ⟨?_, ?_⟩
  · change execMoveTransferStart g t s = _
    simp only [execMoveTransferStart, h]
  · change execMoveTransferDone g t s = _
    simp only [execMoveTransferDone, h]

/-- The transfer is the first of those that wait (R54, R415). -/
def State.firstTransfer (s : State) (x : Transfer) : Prop :=
  x.channel = none ∧ x.mv.fault = none ∧ ∀ y ∈ s.waitingTransfers, y.before x = false

/-- The Porter serves: the supply stands, and VBUS is not below 40 V. -/
def State.porterServes (s : State) : Prop := s.power.supply = .on ∧ s.power.below40 = false

section
variable {x : Transfer} (hx : s.transfer g.val t = some x)
include hx

theorem exec_moveTransferStart_waits (h : s.freeChannel = none ∨ ¬ s.firstTransfer x ∨ ¬ s.porterServes) :
    exec (.moveTransferStart g t) s = .next s := by
  change execMoveTransferStart g t s = _
  simp only [execMoveTransferStart, hx]
  cases hc : s.freeChannel with
  | none => rfl
  | some c =>
    refine if_pos ?_
    have hany : (s.waitingTransfers.any fun y => y.before x) = false ↔ ∀ y ∈ s.waitingTransfers, y.before x = false := by simp
    simp only [State.firstTransfer, State.porterServes, ← hany] at h
    cases hch : x.channel <;> cases hf : x.mv.fault <;> grind

theorem exec_moveTransferStart {c : Nat} (hc : s.freeChannel = some c) (hf : s.firstTransfer x) (hs : s.porterServes) :
    exec (.moveTransferStart g t) s = .next (s.pumpTransfer { x with channel := some c, started := true }) := by
  have hany : (s.waitingTransfers.any fun y => y.before x) = false := by simpa using hf.2.2
  change execMoveTransferStart g t s = _
  simp only [execMoveTransferStart, hx, hc]
  exact if_neg (by rw [hf.1, hf.2.1, hany, hs.1, hs.2]; decide)

theorem exec_moveTransferDone : exec (.moveTransferDone g t) s = .next (
    if x.channel ≠ none ∧ x.mv.finished = true ∧ s.outstanding (.portWrite g.val t) = false
    then ((s.dropTransfer g.val t).modTask g.val t fun ts => { ts with unitDone := true }).finishAllocFrees else s) := by
  change execMoveTransferDone g t s = _
  simp only [execMoveTransferDone, hx, apply_ite Host.Outcome.next]
  refine if_congr ?_ rfl rfl
  rw [← Option.isSome_iff_ne_none]
  grind
end

/-- A task with one range takes its pins where the table has room (R413). -/
theorem pinTask_one (x unit : Nat) (tags : W64) (w : PinRange) {ps : List Pin} (hp : s.probeAll x g.val t (tagJob tags) [w] [] = .ok ps)
    (hroom : s.pinsIn x + ps.length ≤ pinRoom) : s.pinTask x unit g.val t tags [w]
      = (s.setXlt { s.xlt with pins := s.xlt.pins ++ ps }).modTask g.val t fun ts => { ts with probed := true } := by
  have hw : ([w].filter (·.write) ++ [w].filter fun r => !r.write) = [w] := by
    cases h : w.write <;> simp [h]
  unfold State.pinTask
  simp only [hw, hp]
  exact if_neg (by omega)
end

/-- Settles O39: each row by what it meets, and a command's end by what it records. -/
theorem tillEvents : Obligations.TillEvents := by
  classical
  unfold Obligations.TillEvents
  refine ⟨fun s stack => ?_, fun s r g n => finishRun_spec n, fun s g t => ?_⟩
  · dsimp only
    refine ⟨exec_tillCommandWrite, exec_tillCommandStart_idle, fun p q hr hq => ⟨exec_tillCommandStart_waits hr hq, exec_tillCommandStart_invalid hr hq,
      fun g hw hi hg => ?_⟩, exec_tills_idle, fun r g hr hg => ⟨fun unit => ⟨exec_tillUnitDone_idle hr hg, fun b x t away hs ha hv => ?_,
        fun b x hs ha hv => ?_, fun a p hs ha => exec_tillUnitDone hr hg hs ha, fun va pa n hs ha => exec_tillUnitDone hr hg hs ha,
        fun kind va lo n hs ha => exec_tillUnitDone hr hg hs ha⟩, exec_tillCommandDone_refused hr, fun hf hlt => ?_, fun hf hle => ?_⟩,
      exec_tillPipeFail_none, fun n => exec_tillPipeFail⟩
    · exact exec_tillCommandStart_valid hr hq hw hi hg
    · rw [exec_tillUnitDone hr hg hs ha, unitEnds_written hv]
    · rw [exec_tillUnitDone hr hg hs ha, unitEnds_unwritten hv]
    · rw [exec_tillCommandDone hr hg hf, if_pos hlt]
    · rw [exec_tillCommandDone hr hg hf, if_neg (by omega)]
      rfl
  · dsimp only
    exact ⟨exec_pinProbe_none, fun r => exec_pinProbe, exec_transfer_none, fun x hx => ⟨fun c hc hf hs => exec_moveTransferStart hx hc hf hs,
      exec_moveTransferStart_waits hx, exec_moveTransferDone hx⟩, fun x unit tags w ps hp hroom => pinTask_one x unit tags w hp hroom⟩
end Sys2Proof.Machine
end

section
/-! SUPPORT. Collectives (R399, R468 to R472, R478, R483, R486): their start, their packets, their end and their status. -/

namespace Sys2Proof.Machine

section
variable {s : State} {g : Fin 8} {task : Nat}

/-! ### A collective's start -/

theorem exec_collStart_held (h : s.power.supply ≠ .on ∨ s.hbmHeld = true) : exec (.collStart g task) s = .next s := by
  change execCollStart g task s = _
  exact if_pos (by grind)

/-- The collective has its block and its pins, and has not begun; one that compresses needs 42 V (R468). -/
def State.collStarts (u : State) (ts : TaskSt) (r : CollRun) : Prop :=
  ts.probed = true ∧ r.started = none ∧ ¬ (u.power.below42 = true ∧ (CollParams.parse r.block).comp ≠ 0)

/-- What a task's taken and probed collective does. -/
def State.collBegins (u : State) (g t : Nat) : State :=
  match u.unitTask g t 3, u.collRun g t with
  | some (_, ts, _), some r =>
    if ts.probed && r.started.isNone && !(u.power.below42 && (CollParams.parse r.block).comp ≠ 0) then u.collBegin g t r ts.tags else u
  | _, _ => u

theorem exec_collStart (hon : s.power.supply = .on) (hh : s.hbmHeld = false) :
    exec (.collStart g task) s = .next (((s.collTake g.val task).collProbe g.val task).collBegins g.val task) := by
  change execCollStart g task s = _
  refine (if_neg (by rw [hon, hh]; decide)).trans ?_
  generalize (s.collTake g.val task).collProbe g.val task = u
  unfold State.collBegins
  rcases u.unitTask g.val task 3 with _ | ⟨gr, ts, rec⟩
  · rfl
  · cases u.collRun g.val task with
    | none => rfl
    | some r => exact (apply_ite Host.Outcome.next ..).symm

theorem collBegins_none {u : State} {g t : Nat} (h : u.unitTask g t 3 = none ∨ u.collRun g t = none) : u.collBegins g t = u := by
  unfold State.collBegins
  split
  · grind
  · rfl

open Classical in
theorem collBegins_eq {u : State} {g t : Nat} {gr : Graph} {ts : TaskSt} {rec : TaskRec} {r : CollRun} (ht : u.unitTask g t 3 = some (gr, ts, rec))
    (hr : u.collRun g t = some r) : u.collBegins g t = if u.collStarts ts r then u.collBegin g t r ts.tags else u := by
  simp only [State.collBegins, ht, hr]
  refine if_congr ?_ rfl rfl
  unfold State.collStarts
  cases r.started <;> grind

/-! ### Packets -/

section
variable {p : Pkt} {rank first : Nat} {params data : List Byte} {id step : W32}

/-- The message that a COLL packet carries. -/
def collMsgOf (p : Pkt) (rank : Nat) (params : List Byte) (first : Nat) (data : List Byte) (id step : W32) : CollMsg :=
  { job := tagJob p.tags, step := step, collId := id, rank := rank, tags := p.tags, params := params, first := first, data := data }

theorem exec_coll : exec (.coll p rank params first data id step) s = .next (if p.type ≠ 0x08 then s
    else if pktHeaderOk p = false then s.dropPacket p
    else if p.dst.toNat % 8192 ≠ s.partNo then s.transmit (s.inputOf p) p
    else if (pktReplay p && s.alreadySeen (p.src.toNat % 8192) p.seq) = true then s.countDrop
    else (s.collArrive (p.src.toNat % 8192) p.seq (collMsgOf p rank params first data id step)).pumpBoundary (tagJob p.tags)) := by
  change execColl p rank params first data id step s = _
  simp only [execColl, apply_ite Host.Outcome.next]
  exact if_congr Iff.rfl rfl (if_congr (by rw [Bool.not_eq_true']) rfl rfl)

/-- A packet of an older layout epoch is dropped and counted (R483). -/
theorem collArrive_stale {src : Nat} {seq : W32} {m : CollMsg} (h : epochNewer (s.layoutEpoch.get 0 m.job.toNat) (tagLayout m.tags) = true) :
    (s.collArrive src seq m).layouts.drops.get 0 m.job.toNat = s.layouts.drops.get 0 m.job.toNat + 1
    ∧ (s.collArrive src seq m).colls.runs = s.colls.runs ∧ (s.collArrive src seq m).colls.held = s.colls.held := by
  have hc := counts_count ((s.noteSeq src seq).countColl m.job fun c => { c with received := c.received + m.data.length }) .collDrops 0 1
  unfold State.collArrive
  rw [if_pos h, hc]
  refine ⟨?_, rfl, rfl⟩
  exact SMap.get_set_same 0 s.layouts.drops m.job.toNat (s.layouts.drops.get 0 m.job.toNat + 1)
end

/-! ### A collective's end -/

section
variable {gr : Graph} {ts : TaskSt} {rec : TaskRec} {r : CollRun}

theorem exec_coll_ends_none (h : s.unitTask g.val task 3 = none ∨ s.collRun g.val task = none) :
    exec (.collDone g task) s = .next s ∧ exec (.collTimeout g task) s = .next s := by
  refine ⟨?_, ?_⟩
  · change execCollDone g task s = _
    unfold execCollDone
    dsimp only
    split
    · grind
    · rfl
  · change execCollTimeout g task s = _
    unfold execCollTimeout
    split
    · grind
    · rfl

/-- The elements that a collective awaits (R470). -/
def State.collAwaits (s : State) (r : CollRun) :=
  let p := CollParams.parse r.block
  let l := s.collGroup p.axes
  p.expected l.length (s.rankIn l) ++ if p.op = 3 then p.expectedGather l.length (s.rankIn l) else []

/-- The collective has begun, and every element that it awaits has arrived (R470). -/
def State.collReady (s : State) (r : CollRun) : Prop :=
  r.started.isSome = true ∧ s.power.supply = .on ∧ s.hbmHeld = false ∧ ∀ x ∈ s.collAwaits r, x ∈ r.got

/-- What a complete collective writes: its destination, then its residuals (R471). -/
def State.collWrites (s : State) (r : CollRun) : List (Nat × List Byte) :=
  let p := CollParams.parse r.block
  let l := s.collGroup p.axes
  elemRuns p.dst p.ds ((p.written l.length (s.rankIn l) (s.collMask r)).map fun i => (i, r.out.get 0 i)) ++ elemRuns p.res 2 r.resid

theorem collReady_iff (s : State) (r : CollRun) : s.collReady r
    ↔ ¬ (r.started.isNone || !((s.collAwaits r).all fun x => r.got.contains x) || s.power.supply ≠ .on || s.hbmHeld) = true := by
  have hall : ((s.collAwaits r).all fun x => r.got.contains x) = true ↔ ∀ x ∈ s.collAwaits r, x ∈ r.got := by simp
  rw [State.collReady, ← hall]
  cases r.started <;> grind

section
variable (ht : s.unitTask g.val task 3 = some (gr, ts, rec)) (hr : s.collRun g.val task = some r)
include ht hr

theorem exec_collDone_waits (hno : ¬ s.collReady r) : exec (.collDone g task) s = .next s := by
  change execCollDone g task s = _
  simp only [execCollDone, ht, hr]
  exact if_pos (by rwa [collReady_iff, Classical.not_not] at hno)

theorem exec_collDone_ok (hready : s.collReady r) {t : State} (hw : s.taskWrites g.val task r.job ts.tags (s.collWrites r) = .ok t) :
    exec (.collDone g task) s = .next (((t.dropColl g.val task).countColl r.job fun c => { c with done := c.done + 1 }).modTask g.val task
      fun x => { x with unitDone := true }) := by
  change execCollDone g task s = _
  simp only [execCollDone, ht, hr]
  refine (if_neg ((collReady_iff ..).mp hready)).trans ?_
  change (match s.taskWrites g.val task r.job ts.tags (s.collWrites r) with | .ok _ => _ | .err .. => _ | .fault .. => _ | .remote .. => _) = _
  rw [hw]

theorem exec_collDone_err (hready : s.collReady r) {a : Nat} {q : Bool}
    (hw : s.taskWrites g.val task r.job ts.tags (s.collWrites r) = .err a q) :
    exec (.collDone g task) s = .next ((s.dropColl g.val task).unitAddress 4 g.val task ts.tags a q) := by
  change execCollDone g task s = _
  simp only [execCollDone, ht, hr]
  refine (if_neg ((collReady_iff ..).mp hready)).trans ?_
  change (match s.taskWrites g.val task r.job ts.tags (s.collWrites r) with | .ok _ => _ | .err .. => _ | .fault .. => _ | .remote .. => _) = _
  rw [hw]

theorem exec_collTimeout : exec (.collTimeout g task) s = .next (if r.started.isSome = true
    then ((s.dropColl g.val task).countColl r.job fun c => { c with timeouts := c.timeouts + 1 }).failTask g.val task 0x2E else s) := by
  change execCollTimeout g task s = _
  simp only [execCollTimeout, ht, hr]
  cases r.started with
  | none => rfl
  | some x => rfl
end
end

/-! ### The status -/

section
variable {h : CmdHdr} {c : Cmd}

/-- The counts of a job's collectives, as the status gives them (R486). -/
def CollCounts.fields (x : CollCounts) : List W64 :=
  [BitVec.ofNat 64 x.done, BitVec.ofNat 64 x.mismatches, BitVec.ofNat 64 x.timeouts, BitVec.ofNat 64 x.sent, BitVec.ofNat 64 x.received]

theorem exec_collStatus (hs : s.serves 0x0722 1 true h c) (v : W64) : exec (.collStatus h v) s = .next (if 1 < v.toNat
    then (s.begin_ c).reply (s.begun c) stInvalid []
    else (if v = 1 then (s.begin_ c).countColl h.job fun _ => {} else s.begin_ c).reply (s.begun c) stOk (s.colls.counts.get {} h.job.toNat).fields) := by
  change execCollStatus h v s = _
  rw [execCollStatus, command_runs hs]
  refine congrArg _ (if_congr (by grind [inRange_iff]) rfl ?_)
  by_cases hv : v = 1
  · simp only [hv, if_true]
    rfl
  · simp only [hv, if_false]
    rfl
end
end

/-- Settles O47: each row and packet by what it meets. -/
theorem collectives : Obligations.Collectives := by
  unfold Obligations.Collectives
  intro s g task h c
  dsimp only
  refine ⟨exec_collStart_held, fun u hon hh hu => ⟨fun hn => ?_, fun rec ts gr r ht hr => ⟨fun hs => ?_, fun hs => ?_⟩⟩,
    fun p rank params first data id step => ⟨fun ht => ?_, fun ht => ⟨fun h1 => ?_, fun h1 h2 => ?_, fun h1 h2 h3 => ?_, fun h1 h2 h3 => ?_⟩,
      fun he => ?_⟩, exec_coll_ends_none, fun rec ts gr r ht hr => ⟨exec_collDone_waits ht hr, fun t hready => exec_collDone_ok ht hr hready,
      fun a q hready => exec_collDone_err ht hr hready, exec_collTimeout ht hr⟩, fun v hs => ⟨fun hv => ?_, ?_,
      ⟨(s.begin_ c).countColl h.job fun _ => {}, ?_, SMap.get_set_same {} s.colls.counts h.job.toNat {}⟩⟩⟩
  · rw [exec_collStart hon hh, ← hu, collBegins_none hn]
  · rw [exec_collStart hon hh, ← hu, collBegins_eq ht hr, if_pos (show u.collStarts ts r from hs)]
  · rw [exec_collStart hon hh, ← hu, collBegins_eq ht hr, if_neg (show ¬ u.collStarts ts r from hs)]
  · rw [exec_coll, if_pos ht]
  · rw [exec_coll, if_neg (Classical.not_not.mpr ht), if_pos h1]
  · rw [exec_coll, if_neg (Classical.not_not.mpr ht), if_neg (by rw [h1]; decide), if_pos h2]
  · rw [exec_coll, if_neg (Classical.not_not.mpr ht), if_neg (by rw [h1]; decide), if_neg (Classical.not_not.mpr h2), if_pos h3]
  · rw [exec_coll, if_neg (Classical.not_not.mpr ht), if_neg (by rw [h1]; decide), if_neg (Classical.not_not.mpr h2), if_neg (by rw [h3]; decide)]
    rfl
  · exact collArrive_stale (m := collMsgOf p rank params first data id step) he
  · rw [exec_collStatus hs, if_pos hv]
    rfl
  · rw [exec_collStatus hs, if_neg (by decide), if_neg (by decide)]
    rfl
  · rw [exec_collStatus hs, if_neg (by decide), if_pos rfl]
    rfl
end Sys2Proof.Machine
end

section
/-! SUPPORT. The power manager, cooling and the SMBus target (R569, R583 to R594, R600, R601, R603, R604, Tables 0.2, 20.11 and 21.5). -/

namespace Sys2Proof.Machine

/-! ### The power manager -/

/-- Every hall that is not fenced stands at 0.55 V. -/
def State.allLow (s : State) : Prop := ∀ k, k < 4 → (s.hall k).fenced = true ∨ (s.power.halls.get {} k).mv ≤ 550

theorem allLow_iff (s : State) :
    s.allLow ↔ ([0, 1, 2, 3].all fun h => (s.hall h).fenced || (s.power.halls.get {} h).mv ≤ 550) = true := by
  simp only [State.allLow, List.all_cons, List.all_nil, Bool.and_true, Bool.and_eq_true, Bool.or_eq_true, decide_eq_true_eq]
  exact ⟨fun h => ⟨h 0 (by decide), h 1 (by decide), h 2 (by decide), h 3 (by decide)⟩, fun ⟨h0, h1, h2, h3⟩ k hk => by
    rcases (by omega : k = 0 ∨ k = 1 ∨ k = 2 ∨ k = 3) with rfl | rfl | rfl | rfl <;> assumption⟩

section
variable {s : State} {hall : Fin 4}

theorem exec_power_off (h : s.power.supply ≠ .on) :
    (∀ up, exec (.hallVoltageStep up) s = .next s) ∧ exec (.hallPark hall) s = .next s ∧ exec .powerOvercapTimeout s = .next s := by
  refine ⟨fun up => ?_, ?_, ?_⟩
  · change execHallVoltageStep up s = _
    rw [execHallVoltageStep, if_pos h]
  · change execHallPark hall s = _
    exact if_pos (by grind)
  · change execPowerOvercapTimeout s = _
    exact if_neg (by grind)

section
variable (hon : s.power.supply = .on)
include hon

theorem exec_voltage_down : exec (.hallVoltageStep false) s = match s.hallToLower with
    | some n => if s.power.cap.1 < s.power.mean then .next (s.modHallPower n fun x => { x with mv := x.mv - 5, returning := false }) else .next s
    | none => .next s := by
  change execHallVoltageStep false s = _
  rw [execHallVoltageStep, if_neg (Classical.not_not.mpr hon), if_neg (by decide)]
  by_cases hc : s.power.cap.1 < s.power.mean
  · rw [if_pos hc]
    cases s.hallToLower with
    | none => rfl
    | some n => exact (if_pos hc).symm
  · rw [if_neg hc]
    cases s.hallToLower with
    | none => rfl
    | some n => exact (if_neg hc).symm

theorem exec_voltage_up_held (hh : s.power.slewHold = true) : exec (.hallVoltageStep true) s = .next s := by
  change execHallVoltageStep true s = _
  rw [execHallVoltageStep, if_neg (Classical.not_not.mpr hon), if_pos rfl, if_pos hh]

theorem exec_voltage_up_returning (hh : s.power.slewHold = false) {n : Nat} (hn : s.returningHall = some n) :
    exec (.hallVoltageStep true) s = .next (s.modHallPower n fun x => { x with mv := x.mv + 5 }) := by
  change execHallVoltageStep true s = _
  rw [execHallVoltageStep, if_neg (Classical.not_not.mpr hon), if_pos rfl, if_neg (by rw [hh]; decide), hn]

/-- With no hall that returns, the lowest one rises while the mean lies more than 2 % below the cap (R585). -/
theorem exec_voltage_up (hh : s.power.slewHold = false) (hn : s.returningHall = none) :
    exec (.hallVoltageStep true) s = .next (if s.power.mean * 100 < s.power.cap.1 * 98
      then s.hallToRaise.elim s fun n => s.modHallPower n fun x => { x with mv := x.mv + 5, returning := false } else s) := by
  change execHallVoltageStep true s = _
  rw [execHallVoltageStep, if_neg (Classical.not_not.mpr hon), if_pos rfl, if_neg (by rw [hh]; decide), hn, apply_ite Host.Outcome.next]
  refine if_congr Iff.rfl ?_ rfl
  cases s.hallToRaise with
  | none => rfl
  | some n => rfl

theorem exec_hallPark : exec (.hallPark hall) s = .next (if s.hallActive hall.val = false then s
    else if s.bell.lendable.getLsbD hall.val = true then
      s.modHallPower hall.val fun x => { x with mv := 550, parked := true, lent := true, returning := false }
    else if s.hallIdle hall.val = true then s.modHallPower hall.val fun x => { x with mv := 550, parked := true, returning := false } else s) := by
  change execHallPark hall s = _
  simp only [execHallPark, apply_ite Host.Outcome.next]
  exact if_congr (by grind) rfl rfl

open Classical in
theorem exec_overcap : exec .powerOvercapTimeout s = .next (if s.power.overcap = false ∧ s.power.cap.1 < s.power.mean ∧ s.allLow
    then (s.modPower fun x => { x with overcap := true }).supplyFault .supply 3 7 0 0 else s) := by
  change execPowerOvercapTimeout s = _
  simp only [execPowerOvercapTimeout, apply_ite Host.Outcome.next]
  refine if_congr ?_ rfl rfl
  rw [allLow_iff]
  generalize ([0, 1, 2, 3].all fun h => (s.hall h).fenced || (s.power.halls.get {} h).mv ≤ 550) = b
  grind
end

/-! ### Samples and marks -/

/-- A sample's readings and the energy they add (R586). -/
def Power.sampled (x : Power) (q : PowerSample) (counts : Bool) : Power :=
  { x with pin := q.pin, mean := q.mean1ms, vbusMv := q.vbusMv, iinMa := q.iinMa, hallW := q.hallW,
           hallTemp := q.hallTemp, hubTemp := q.hubTemp, iinHist := (q.iinMa :: x.iinHist).take 200,
           energy := if counts then min (x.energy + q.pin) ((2 ^ 64 - 1) * 100) else x.energy }

theorem exec_powerSample (q : PowerSample) (h : s.power.supply ≠ .off) : exec (.powerSample q) s = .next (s.modPower fun x =>
    { x.sampled q (s.pstate = 1 || s.pstate = 3) with
      overcap := x.overcap && q.mean1ms * 100 ≥ (x.sampled q (s.pstate = 1 || s.pstate = 3)).cap.1 * 95 }) := by
  change execPowerSample q s = _
  rw [execPowerSample, if_neg h]
  rfl

theorem exec_supply_off (h : s.power.supply = .off) :
    (∀ q, exec (.powerSample q) s = .next s) ∧ ∀ o id hops, exec (.lcMarkPacket o id hops) s = .next s := by
  refine ⟨fun q => ?_, fun o id hops => ?_⟩
  · change execPowerSample q s = _
    rw [execPowerSample, if_pos h]
  · change execLcMarkPacket o id hops s = _
    rw [execLcMarkPacket, if_pos h]

theorem exec_lcMarkPacket (o : Fin 8192) (id : W64) (hops : W16) (h : s.power.supply ≠ .off) :
    exec (.lcMarkPacket o id hops) s = .next (s.mark 3 hops o.val id) := by
  change execLcMarkPacket o id hops s = _
  rw [execLcMarkPacket, if_neg h]

theorem exec_lcRecalibrate : exec (.lcRecalibrate hall) s = .next (if (s.hall hall.val).lcRunning = true then s.ownMark 1 else s) := by
  change execLcRecalibrate hall s = _
  rw [execLcRecalibrate, apply_ite Host.Outcome.next]

theorem mark_marks (kind : Nat) (hops : W16) (o : Nat) (id : W64) : (s.mark kind hops o id).power.marks
    = ({ kind := kind, hops := hops, origin := o, id := id, lcs := [0, 1, 2, 3].map s.hallLc } :: s.power.marks).take 256 := by
  unfold State.mark
  dsimp only
  have htr := records_foldl [0, 1, 2, 3] (fun (s : State) (h : Nat) => s.traceEvent h 7 0 (id.toNat % 2 ^ 32)) (fun s h => records_traceEvent ..)
    (s.modPower fun x => { x with marks :=
      (({ kind := kind, hops := hops, origin := o, id := id, lcs := [0, 1, 2, 3].map s.hallLc } : Mark) :: x.marks).take 256 })
  rw [htr]
  rfl
end

/-! ### Cooling -/

section
variable {s : State} {hall : Fin 4} {temp : Int}

theorem exec_cooling_stopped (h : s.pstate ≠ 1) :
    exec (.junctionReduction hall temp) s = .next s ∧ exec .lowFlow s = .next s ∧ ∀ b, exec (.thermistorFault b) s = .next s := by
  refine ⟨?_, ?_, fun b => ?_⟩
  · change execJunctionReduction hall temp s = _
    rw [execJunctionReduction, if_pos h]
  · change execLowFlow s = _
    rw [execLowFlow, if_pos h]
  · change execThermistorFault b s = _
    rw [execThermistorFault, if_pos h]

/-- A hall's ceiling reduced by a further 25 mV, and the halls lowered to their ceilings (R592). -/
def State.reduceHall (s : State) (g : Nat) : State := (s.modHallPower g fun x => { x with jred := min (x.jred + 25) 300 }).clampHalls

theorem halls_modHallPower_same (s : State) (h : Nat) (f : HallPower → HallPower) :
    (s.modHallPower h f).power.halls.get {} h = f (s.power.halls.get {} h) := SMap.get_set_same ..

theorem halls_modHallPower_of_ne (s : State) {h k : Nat} (f : HallPower → HallPower) (hne : k ≠ h) :
    (s.modHallPower h f).power.halls.get {} k = s.power.halls.get {} k := SMap.get_set_other _ _ _ hne

/-- From `s` to `u` voltages may only fall: the ceilings and the reductions are as before. -/
structure State.Lowers (s u : State) : Prop where
  ceiling : ∀ k, u.power.ceiling k = s.power.ceiling k
  jred : ∀ k, (u.power.halls.get {} k).jred = (s.power.halls.get {} k).jred
  mv : ∀ k, (u.power.halls.get {} k).mv ≤ (s.power.halls.get {} k).mv

/-- A hall lowered to its ceiling. -/
def State.clampHall (s : State) (h : Nat) : State := s.modHallPower h fun x => { x with mv := min x.mv (s.power.ceiling h) }

theorem lowers_clampHall (s : State) (h : Nat) : s.Lowers (s.clampHall h) := by
  have hb : (s.clampHall h).power.below44 = s.power.below44 := rfl
  have hk : ∀ k, ((s.clampHall h).power.halls.get {} k).ceil = (s.power.halls.get {} k).ceil
      ∧ ((s.clampHall h).power.halls.get {} k).jred = (s.power.halls.get {} k).jred
      ∧ ((s.clampHall h).power.halls.get {} k).hbmHold = (s.power.halls.get {} k).hbmHold
      ∧ ((s.clampHall h).power.halls.get {} k).mv ≤ (s.power.halls.get {} k).mv := by
    intro k
    by_cases hkh : k = h
    · subst hkh
      rw [State.clampHall, halls_modHallPower_same]
      exact ⟨rfl, rfl, rfl, Nat.min_le_left ..⟩
    · rw [State.clampHall, halls_modHallPower_of_ne _ _ hkh]
      exact ⟨rfl, rfl, rfl, Nat.le_refl _⟩
  refine ⟨fun k => ?_, fun k => (hk k).2.1, fun k => (hk k).2.2.2⟩
  obtain ⟨hc, hj, hh, -⟩ := hk k
  simp only [Power.ceiling, hc, hj, hh, hb]

theorem clampHall_le (s : State) (h : Nat) : ((s.clampHall h).power.halls.get {} h).mv ≤ s.power.ceiling h := by
  rw [State.clampHall, halls_modHallPower_same]
  exact Nat.min_le_right ..

theorem clampHalls_spec (l : List Nat) (s : State) :
    s.Lowers (l.foldl State.clampHall s) ∧ ∀ k ∈ l, ((l.foldl State.clampHall s).power.halls.get {} k).mv ≤ s.power.ceiling k := by
  induction l generalizing s with
  | nil => exact ⟨⟨fun _ => rfl, fun _ => rfl, fun _ => Nat.le_refl _⟩, nofun⟩
  | cons h l ih =>
    have h1 := lowers_clampHall s h
    obtain ⟨h2, h3⟩ := ih (s.clampHall h)
    refine ⟨⟨fun k => (h2.ceiling k).trans (h1.ceiling k), fun k => (h2.jred k).trans (h1.jred k), fun k => Nat.le_trans (h2.mv k) (h1.mv k)⟩,
      fun k hk => ?_⟩
    rcases List.mem_cons.mp hk with rfl | hk
    · exact Nat.le_trans (h2.mv k) (clampHall_le s k)
    · exact Nat.le_trans (h3 k hk) (Nat.le_of_eq (h1.ceiling k))

theorem reduceHall_spec (s : State) (g : Nat) :
    ((s.reduceHall g).power.halls.get {} g).jred = min ((s.power.halls.get {} g).jred + 25) 300
    ∧ ∀ k, k < 4 → ((s.reduceHall g).power.halls.get {} k).mv ≤ (s.reduceHall g).power.ceiling k := by
  obtain ⟨h1, h2⟩ := clampHalls_spec [0, 1, 2, 3] (s.modHallPower g fun x => { x with jred := min (x.jred + 25) 300 })
  refine ⟨(h1.jred g).trans ?_, fun k hk => Nat.le_trans (h2 k ?_) (Nat.le_of_eq (h1.ceiling k).symm)⟩
  · rw [halls_modHallPower_same]
  · rcases (by omega : k = 0 ∨ k = 1 ∨ k = 2 ∨ k = 3) with rfl | rfl | rfl | rfl <;> decide

section
variable (hp : s.pstate = 1)
include hp

theorem exec_junctionReduction : exec (.junctionReduction hall temp) s = .next (if 400 < temp then
      (if (s.power.halls.get {} hall.val).jred = 0 then (s.reduceHall hall.val).raiseAlert 4 else s.reduceHall hall.val).raiseAlert 5
    else if temp ≤ 392 then s.modHallPower hall.val fun x => { x with jred := 0 } else s) := by
  have hfirst (u v : State) : (if decide ((s.power.halls.get {} hall.val).jred = 0) = true then u else v)
      = if (s.power.halls.get {} hall.val).jred = 0 then u else v := if_congr (decide_eq_true_iff) rfl rfl
  change execJunctionReduction hall temp s = _
  simp only [execJunctionReduction, if_neg (Classical.not_not.mpr hp), apply_ite Host.Outcome.next]
  exact if_congr Iff.rfl rfl rfl

theorem exec_lowFlow :
    let d := (s.modPower fun x => { x with flowCap := some (3400 * x.flow / 300), duty := 1024, manualValve := false }).supplyFault .cooling 8 0 0 0
    exec .lowFlow s = .next (if s.power.flowCap = none then d.raiseAlert 4 else d) := by
  change execLowFlow s = _
  rw [execLowFlow, if_neg (Classical.not_not.mpr hp)]
  exact congrArg _ (if_congr Option.isNone_iff_eq_none rfl rfl)

theorem exec_thermistorFault (b : Bool) :
    let d := (s.modPower fun x =>
      { x with thermCap := true, thermFault := x.thermFault ||| (if b then 2 else 1), duty := 1024, manualValve := false }).supplyFault .sensor 8 0 0 0
    exec (.thermistorFault b) s = .next (if s.power.thermCap = false then d.raiseAlert 4 else d) := by
  change execThermistorFault b s = _
  rw [execThermistorFault, if_neg (Classical.not_not.mpr hp)]
  exact congrArg _ (if_congr (by rw [Bool.not_eq_true']) rfl rfl)
end

theorem exec_flowGate_off (edges : Nat) (inlet outlet : Int) (h : s.power.supply = .off) : exec (.flowGate edges inlet outlet) s = .next s := by
  change execFlowGate edges inlet outlet s = _
  rw [execFlowGate, if_pos h]

theorem exec_flowGate (edges : Nat) (inlet outlet : Int) (h : s.power.supply ≠ .off) :
    let d := s.power.duty + 2 * (outlet - inlet - 4 * (s.power.riseTarget : Int)) + (if edges * 5 < 320 then 32 else 0)
    exec (.flowGate edges inlet outlet) s = .next (s.modPower fun x => { x with
      flow := edges * 5, inlet := inlet, outlet := outlet,
      duty := if s.pstate ≠ 1 then 1024 else if s.power.manualValve = true then x.duty else if 220 < outlet then 1024 else min 1024 (max 0 d) }) := by
  have hd (d : Int) : min 1024 (max 0 (if outlet > 220 then 1024 else if edges * 5 < 320 then d + 32 else d))
      = if 220 < outlet then 1024 else min 1024 (max 0 (d + if edges * 5 < 320 then 32 else 0)) := by
    by_cases ho : 220 < outlet
    · rw [if_pos ho, if_pos ho]
      rfl
    · rw [if_neg ho, if_neg ho]
      split
      · rfl
      · rw [Int.add_zero]
  change execFlowGate edges inlet outlet s = _
  rw [execFlowGate, if_neg h]
  dsimp only
  by_cases hp : s.pstate = 1
  · refine (if_neg (Classical.not_not.mpr hp)).trans ?_
    by_cases hm : s.power.manualValve = true
    · refine (if_pos hm).trans ?_
      simp only [hp, hm, ne_eq, not_true, if_true, if_false]
    · refine (if_neg hm).trans ?_
      simp only [hp, hm, ne_eq, not_true, if_false, ← hd]
      rfl
  · refine (if_pos hp).trans ?_
    simp only [hp, ne_eq, not_false_eq_true, if_true]
    rfl
end

/-! ### The SMBus target -/

section
variable {s : State} {v : W16}

theorem clearAlerts_pending (s : State) (v : W16) : (s.clearAlerts v).power.alertPending = s.power.alertPending &&& ~~~v := by
  unfold State.clearAlerts
  dsimp only
  split
  · rfl
  · rfl

theorem exec_smbAlertsWrite : exec (.smbAlertsWrite v) s = .next (if s.smbAnswers = true then s.clearAlerts v else s) := by
  change execSmbAlertsWrite v s = _
  rw [execSmbAlertsWrite, apply_ite Host.Outcome.next]

theorem exec_smbCapWrite : exec (.smbCapWrite v) s = .next (if s.smbAnswers = true ∧ 1800 ≤ v.toNat ∧ v.toNat ≤ 3400
    then s.modPower fun x => { x with smbCap := v.toNat } else s) := by
  change execSmbCapWrite v s = _
  rw [execSmbCapWrite, apply_ite Host.Outcome.next]
  exact if_congr (by grind) rfl rfl

theorem exec_smbRegWrite (code : Byte) : exec (.smbRegWrite code v) s = .next (if s.smbAnswers = false then s
    else if code = 0x02 then s.clearAlerts v
    else if code = 0x0A then if 1800 ≤ v.toNat ∧ v.toNat ≤ 3400 then s.modPower fun x => { x with smbCap := v.toNat } else s
    else if code = 0x10 then s.modPower fun x => { x with smbIndex := v.setWidth 13 } else s) := by
  have hv : bits v 0 13 = v.setWidth 13 := by
    unfold bits
    ext i hi
    simp [BitVec.getElem_extractLsb', BitVec.getElem_setWidth]
  change execSmbRegWrite code v s = _
  simp only [execSmbRegWrite, hv, apply_ite Host.Outcome.next]
  exact if_congr (by rw [Bool.not_eq_true']) rfl (if_congr Iff.rfl rfl (if_congr Iff.rfl (if_congr (by grind) rfl rfl) rfl))

theorem exec_smbTallyValueRead : exec .smbTallyValueRead s = .next (if s.smbAnswers = true
    then (s.send (.smbRead (leBytes 8 (s.tallyAt s.power.smbIndex.toNat).toNat))).modPower fun x => { x with smbIndex := x.smbIndex + 1 } else s) := by
  change execSmbTallyValueRead s = _
  rw [execSmbTallyValueRead, apply_ite Host.Outcome.next]

theorem exec_smbAlertResponse : exec .smbAlertResponse s = .next (if s.smbAnswers = true ∧ s.power.alertPending ≠ 0
    then s.send (.smbRead [BitVec.ofNat 8 (0x58 + s.boot.straps.quadPos.toNat)]) else s) := by
  change execSmbAlertResponse s = _
  rw [execSmbAlertResponse, apply_ite Host.Outcome.next]
  exact if_congr (by grind) rfl rfl

theorem smbRead_values (h : s.smbAnswers = true) :
    (s.smbRead 0x01 = some [BitVec.ofNat 8 (s.pstate.toNat + if s.power.alertPending = 0 then 0 else 8)])
    ∧ (s.smbRead 0x02 = some (leBytes 2 s.power.alertPending.toNat)) ∧ (s.smbRead 0x03 = some (leBytes 2 s.power.mean))
    ∧ (s.smbRead 0x04 = some (leBytes 2 (s.power.vbusMv / 10))) ∧ (s.smbRead 0x05 = some (leBytes 2 (s.power.iinMa / 10)))
    ∧ (s.smbRead 0x06 = some (s16 s.power.inlet)) ∧ (s.smbRead 0x07 = some (s16 s.power.outlet))
    ∧ (s.smbRead 0x08 = some (leBytes 2 s.power.flow)) ∧ (s.smbRead 0x0A = some (leBytes 2 s.power.smbCap))
    ∧ (s.smbRead 0x10 = some (leBytes 2 s.power.smbIndex.toNat)) := by
  have hn : ¬ (!s.smbAnswers) = true := by rw [h]; decide
  exact ⟨if_neg hn, if_neg hn, if_neg hn, if_neg hn, if_neg hn, if_neg hn, if_neg hn, if_neg hn, if_neg hn, if_neg hn⟩

theorem smbRead_off (code : Nat) (h : s.smbAnswers = false) : s.smbRead code = none := by
  unfold State.smbRead
  exact if_pos (by rw [h]; rfl)
end

/-- Settles O49: the rows by what they meet, a clamped hall by its ceiling, and the SMBus by its codes. -/
theorem powerManager : Obligations.PowerManager := by
  classical
  unfold Obligations.PowerManager
  refine ⟨fun s hall => ?_, fun s hall temp => ?_, fun s v => ?_⟩
  · dsimp only
    refine ⟨fun hon => ⟨exec_voltage_down hon, exec_voltage_up_held hon, fun hh => ⟨fun n => exec_voltage_up_returning hon hh, fun n hup hn => ?_,
        fun hr hno => ?_⟩, exec_hallPark hon, fun ho hc hl => ?_, fun hno => ?_⟩, exec_power_off,
      fun q ho => ⟨_, exec_powerSample q ho, rfl, rfl, ?_, rfl⟩, exec_supply_off, fun o id hops => exec_lcMarkPacket o id hops, exec_lcRecalibrate,
      fun kind hops o id => mark_marks kind hops o id⟩
    · rw [exec_voltage_up hon hh hup.1, if_pos hup.2, hn]
      rfl
    · rw [exec_voltage_up hon hh hr]
      by_cases hc : s.power.mean * 100 < s.power.cap.1 * 98
      · have hn : s.hallToRaise = none := by
          apply Classical.byContradiction
          intro h
          exact hno ⟨⟨hr, hc⟩, h⟩
        rw [if_pos hc, hn]
        rfl
      · rw [if_neg hc]
    · rw [exec_overcap hon, if_pos (show _ ∧ _ ∧ s.allLow from ⟨ho, hc, hl⟩)]
    · rw [exec_overcap hon, if_neg (show ¬ (_ ∧ _ ∧ s.allLow) from hno)]
    · exact if_congr (by rw [Bool.or_eq_true, decide_eq_true_iff, decide_eq_true_iff]) rfl rfl
  · dsimp only
    refine ⟨fun hp => ⟨fun ht => ⟨?_, reduceHall_spec s hall.val⟩, fun ht => ?_, fun h1 h2 => ?_, exec_lowFlow hp, exec_thermistorFault hp⟩,
      exec_cooling_stopped, fun edges inlet outlet => ⟨exec_flowGate edges inlet outlet, exec_flowGate_off edges inlet outlet⟩, rfl, rfl⟩
    · rw [exec_junctionReduction hp, if_pos ht]
      rfl
    · rw [exec_junctionReduction hp, if_neg (by omega), if_pos ht]
    · rw [exec_junctionReduction hp, if_neg (by omega), if_neg (by omega)]
  · dsimp only
    refine ⟨fun hs => ⟨?_, ?_, clearAlerts_pending s v, ?_, ?_, ?_, fun code h2 hA h10 => ?_, ?_, ?_, smbRead_values hs⟩,
      fun hs => ⟨?_, ?_, fun code => ?_, ?_, ?_, fun code => smbRead_off code hs⟩⟩
    · rw [exec_smbAlertsWrite, if_pos hs]
    · rw [exec_smbRegWrite, if_neg (by rw [hs]; decide), if_pos rfl]
    · rw [exec_smbCapWrite]
      exact congrArg _ (if_congr (and_iff_right hs) rfl rfl)
    · rw [exec_smbRegWrite, if_neg (by rw [hs]; decide), if_neg (by decide), if_neg (by decide), if_pos rfl]
    · rw [exec_smbRegWrite, if_neg (by rw [hs]; decide), if_neg (by decide), if_pos rfl, exec_smbCapWrite]
      exact congrArg _ (if_congr (and_iff_right hs).symm rfl rfl)
    · rw [exec_smbRegWrite, if_neg (by rw [hs]; decide), if_neg h2, if_neg hA, if_neg h10]
    · rw [exec_smbTallyValueRead, if_pos hs]
    · rw [exec_smbAlertResponse, ← ite_not]
      exact congrArg _ (if_congr (by grind) rfl rfl)
    · rw [exec_smbAlertsWrite, if_neg (by rw [hs]; decide)]
    · rw [exec_smbCapWrite, if_neg fun h => by rw [hs] at h; exact absurd h.1 (by decide)]
    · rw [exec_smbRegWrite, if_pos hs]
    · rw [exec_smbTallyValueRead, if_neg (by rw [hs]; decide)]
    · rw [exec_smbAlertResponse, if_neg fun h => by rw [hs] at h; exact absurd h.1 (by decide)]
end Sys2Proof.Machine
end

section
/-! SUPPORT. Start-up and discovery (R541, R545 to R557, R561). -/

namespace Sys2Proof.Machine

section
variable {s : State} {f : StartupFacts}

theorem exec_supplyCheckDone : exec (.supplyCheckDone f) s
    = .next (if s.power.supply = .on ∧ s.pstate = 0 ∧ s.startStep.toNat ≤ 1 ∧ s.boot.repair.railFail = false then s.startUp f else s) := by
  change execSupplyCheckDone f s = _
  rw [execSupplyCheckDone, apply_ite Host.Outcome.next]
  exact if_congr (by grind) rfl rfl

theorem startUp_noHeader (h : f.noHeader = true ∨ s.boot.header = none) : s.startUp f = s.recover 0 false := by
  have hh : (if f.noHeader = true then none else s.boot.header) = none := by
    cases h with
    | inl h => exact if_pos h
    | inr h => rw [h, ite_self]
  simp only [State.startUp, hh]

theorem startUp_bootSel2 {hd : FlashHeader} (hf : f.noHeader = false) (hh : s.boot.header = some hd) (hb : s.boot.straps.bootSel = 2) :
    s.startUp f = s.recover 0 true := by
  simp only [State.startUp, hf, hh, hb, Bool.false_eq_true, if_false, if_true]

theorem startUp_failedStep {hd : FlashHeader} {i : Nat} {rest : List Nat} (hf : f.noHeader = false) (hh : s.boot.header = some hd)
    (h1 : s.boot.straps.bootSel ≠ 1) (h2 : s.boot.straps.bootSel ≠ 2)
    (hl : mandatorySteps.filter (fun i => failures i s.boot.records ≥ 3) = i :: rest) : s.startUp f = s.recover i true := by
  simp only [State.startUp, hf, hh, h1, h2, hl, Bool.false_eq_true, if_false, List.head?_cons]

/-! ### The record of the start -/

theorem writeStep_eq (i : Nat) (e : StepEntry → StepEntry) :
    s.writeStep i e = { s with boot := { s.boot with records := (s.writeStep i e).boot.records } } := by
  unfold State.writeStep State.modRecord
  split
  · rfl
  · rfl

theorem endStep_eq (i : Nat) (code action : Byte) (detail : Nat) :
    s.endStep i code action detail = { s with boot := { s.boot with records := (s.endStep i code action detail).boot.records } } :=
  writeStep_eq i _

theorem openEntry_svn (i : Nat) : (s.openEntry i).boot.svnFloor = s.boot.svnFloor ∧ (s.openEntry i).boot.fwSvn = s.boot.fwSvn := by
  unfold State.openEntry
  rw [writeStep_eq]
  exact ⟨rfl, rfl⟩

theorem endStep_svn (i : Nat) (code action : Byte) (detail : Nat) :
    (s.endStep i code action detail).boot.svnFloor = s.boot.svnFloor ∧ (s.endStep i code action detail).boot.fwSvn = s.boot.fwSvn := by
  rw [endStep_eq]
  exact ⟨rfl, rfl⟩

theorem ready_svnFloor : s.ready.boot.svnFloor = max s.boot.svnFloor s.boot.fwSvn := by
  change max ((s.openEntry 11).endStep 11 0x00 0 0).boot.svnFloor ((s.openEntry 11).endStep 11 0x00 0 0).boot.fwSvn = _
  obtain ⟨hf, hw⟩ := endStep_svn (s := s.openEntry 11) 11 0x00 0 0
  obtain ⟨of, ow⟩ := openEntry_svn (s := s) 11
  rw [hf, hw, of, ow]

/-! ### The rows -/

theorem exec_startupStepBound (i : Fin 12) (h : s.running = some i.val ∧ i.val ≤ 9) :
    exec (.startupStepBound i) s = .next { s.endStep i.val 0x11 0 0 with boot := { (s.endStep i.val 0x11 0 0).boot with restart := true } } :=
  if_pos (by rw [Bool.and_eq_true, decide_eq_true_iff, decide_eq_true_iff]; exact h)

theorem exec_startupStepBound_none (i : Fin 12) (h : ¬ (s.running = some i.val ∧ i.val ≤ 9)) : exec (.startupStepBound i) s = .next s :=
  if_neg (by rw [Bool.and_eq_true, decide_eq_true_iff, decide_eq_true_iff]; exact h)

/-- Whether the port's partner is the one that the bundle lists (R556). -/
def State.listedPartner (s : State) (n : Nat) (serial : BitVec 128) : Bool :=
  s.listedAs.isSome && decide (serial = s.boot.bundle.members.get 0 (s.partnerOf n))

/-- The boot state once the port's partner has named its serial number. -/
def State.heardPartner (s : State) (n : Nat) (serial : BitVec 128) : Boot :=
  let bit : BitVec 8 := (1 : BitVec 8) <<< n
  if s.listedPartner n serial then { s.boot with partnerOk := s.boot.partnerOk ||| bit, partnerWrong := s.boot.partnerWrong &&& ~~~bit }
  else { s.boot with partnerOk := s.boot.partnerOk &&& ~~~bit, partnerWrong := s.boot.partnerWrong ||| bit }

theorem exec_discoveryPartner (port : Fin 8) (serial : BitVec 128) :
    exec (.discoveryPartner port serial) s = .next (if (s.power.supply = .on ∧ s.pstate = 0 ∧ s.startStep = 10) ∧ (s.port port.val).st = .inService
      then State.discover { s with boot := s.heardPartner port.val serial } else s) := by
  rw [← ite_not, apply_ite Host.Outcome.next]
  exact if_congr (by grind) rfl rfl

theorem exec_discTimeout : exec .discTimeout s
    = .next (if (s.power.supply = .on ∧ s.pstate = 0 ∧ s.startStep = 10) ∧ (s.entry 10).ended = none
        then s.endStep 10 0x12 0 (maskOf (s.partnerPorts.filter fun n => !(s.boot.partnerOk.getLsbD n))) else s) := by
  change execDiscTimeout s = _
  rw [execDiscTimeout, apply_ite Host.Outcome.next]
  exact if_congr (by grind [Option.isNone_iff_eq_none]) rfl rfl

theorem discover_eq : s.discover = if s.listedAs.isSome = true ∧ (∀ n ∈ s.partnerPorts, s.boot.partnerOk.getLsbD n = true)
    then (if (s.entry 10).ended = none then s.endStep 10 0x00 0 0 else s).ready else s := by
  rw [State.discover]
  refine if_congr (by rw [Bool.and_eq_true, List.all_eq_true]) (congrArg _ ?_) rfl
  rw [← ite_not]
  exact if_congr (by rw [Option.not_isSome_iff_eq_none]) rfl rfl
end

/-- Settles O53: the start by its header, straps and failure counts, each row by whether it meets a start. -/
theorem startupEvents : Obligations.StartupEvents := by
  classical
  unfold Obligations.StartupEvents
  intro s f port serial
  dsimp only
  refine ⟨exec_supplyCheckDone, startUp_noHeader, fun hd hf hh => ⟨startUp_bootSel2 hf hh, fun i rest h1 h2 hl => startUp_failedStep hf hh h1 h2 hl⟩,
    fun i readable => ⟨rfl, rfl, rfl⟩, fun i rest cleared hi => if_pos hi, fun i => ⟨fun h => ⟨_, exec_startupStepBound i h, rfl, rfl, ?_⟩,
      exec_startupStepBound_none i⟩, fun h => ?_, fun h10 hp => ⟨{ s with boot := s.heardPartner port.val serial }, ?_, rfl, ?_⟩,
    exec_discTimeout, discover_eq, rfl, ?_⟩
  · dsimp only
    rw [endStep_eq]
    exact ⟨rfl, rfl⟩
  · rw [exec_discoveryPartner, if_neg h]
  · rw [exec_discoveryPartner, if_pos ⟨h10, hp⟩]
  · have hr : s.listedPartner port.val serial = true
        ↔ s.listedAs.isSome = true ∧ serial = s.boot.bundle.members.get 0 (s.partnerOf port.val) := by
      rw [State.listedPartner, Bool.and_eq_true, decide_eq_true_iff]
    dsimp only [State.heardPartner]
    rw [← hr]
    split <;> rename_i h
    · exact ⟨fun _ => ⟨rfl, rfl⟩, fun hn => absurd h hn, rfl, rfl⟩
    · exact ⟨fun hn => absurd hn h, fun _ => ⟨rfl, rfl⟩, rfl, rfl⟩
  · rw [ready_svnFloor]
    exact ⟨Nat.le_max_left _ _, Nat.le_max_right _ _⟩
end Sys2Proof.Machine
end

section
/-! SUPPORT. An inlet above 40 °C is a record (R594), and a record that trace capture has chosen is written to its buffer in memory (R604,
R635): INLET_HOT does not leave memory as it was. -/

namespace Sys2Proof.Machine

/-- A part in PSTATE 1 whose armed trace capture records the fault records of its halls, in a buffer at offset 0. -/
def tracedFaults : State :=
  { pstate := 1
    power := { supply := .on }
    trace := { cfg := some { job := 0, va := 0, size := 262144, units := [], trig := 0, cls := 0, events := 0x3FF, post := 0 }, armed := true } }

/-- The inlet at 42.5 °C writes an entry of the buffer. -/
theorem exec_inletHot_tracedFaults : (match exec (.inletHot 170 false) tracedFaults with
    | .next v => decide (v.mem ≠ tracedFaults.mem)
    | _ => false) = true := by decide +kernel

/-- Refutes O51: the claim has memory stay as it was when the inlet is hot, and the record's trace entry is written to memory. -/
theorem not_supplyEvents : ¬ Obligations.SupplyEvents := by
  unfold Obligations.SupplyEvents
  intro h
  obtain ⟨hsupply, -, -⟩ := h
  obtain ⟨-, -, -, -, -, -, -, -, -, -, -, -, -, -, -, -, hinlet, -⟩ := hsupply tracedFaults .hub
  obtain ⟨-, hhot⟩ := hinlet 170 false
  obtain ⟨u, hu, -, -, -, -, hmem, -⟩ := hhot rfl (by decide)
  have hrun := exec_inletHot_tracedFaults
  rw [hu, if_neg (by decide)] at hrun
  exact absurd hmem (of_decide_eq_true hrun)
end Sys2Proof.Machine
end

section
/-! SUPPORT. REPLICA_RESUME lets go the graphs that are resident, those of handles 0 to 7 (R613). The claim speaks of every handle of
every state, of those too under which no submission places a graph. -/

namespace Sys2Proof.Machine

/-- The header of a command of job 0 without parameters. -/
def resumeHdr : CmdHdr := { plen := 0 }

/-- A graph of job 0 that a rollback holds at its boundary. -/
def heldGraph : Graph := { hdr := GraphHdr.parse [], headerVa := 0, recs := [], tasks := [], roots := [], step := 0, phase := .boundary, resumeHold := true }

/-- The command REPLICA_RESUME in hand. -/
def resumeCmd : Cmd := { op := 0x0943, hdr := resumeHdr, fetched := 0 }

/-- A part with that command in hand and held graphs under the handles 0 and 8. -/
def heldBeyond : State :=
  { pstate := 1, host := { cmds := [resumeCmd] }, graphs := [(0, some heldGraph), (8, some heldGraph)] }

theorem heldBeyond_serves : heldBeyond.serves 0x0943 0 true resumeHdr resumeCmd :=
  ⟨by decide, by decide, by decide, by decide, by decide, by decide⟩

/-- What the reply leaves of the graph under handle 8. -/
theorem exec_replicaResume_heldBeyond : (match exec (.replicaResume resumeHdr) heldBeyond with
    | .next v => (v.graph 8).map (·.resumeHold)
    | _ => none) = some true := by decide +kernel

/-- A reply leaves the graphs. -/
theorem graph_reply (s : State) (c : Cmd) (status : Byte) (results : List W64) (g : Nat) :
    (s.reply c status results).graph g = s.graph g := by
  rw [sends_reply s c status results]
  rfl

/-- Refutes O54: a graph under handle 8 is not resident, and stays held where the claim has it let go. -/
theorem not_replayCommands : ¬ Obligations.ReplayCommands := by
  unfold Obligations.ReplayCommands
  rintro ⟨-, h, -⟩
  obtain ⟨-, -, -, hresume, -⟩ := h resumeHdr resumeCmd heldBeyond 0 0 0 0 0 0 0 0 0
  obtain ⟨-, hheld⟩ := hresume heldBeyond_serves
  obtain ⟨u, hu, -, -, hhold, -⟩ := hheld (by decide)
  have hrun := exec_replicaResume_heldBeyond
  rw [hu] at hrun
  simp only [State.answers, graph_reply] at hrun
  exact absurd (hrun.symm.trans (hhold 8)) (by decide)
end Sys2Proof.Machine
end

section
/-! SUPPORT. Cross-checks, self-test, margins and trace (R237, R238, R530, R604, R630 to R635). -/

namespace Sys2Proof.Machine

/-! ### Claims and the trace configuration stay -/

theorem claims_msix (s : State) (vec : Nat) : (s.msix vec).host.claims = s.host.claims := by
  unfold State.msix
  split
  · rfl
  · rfl

theorem claims_loseEntry (s : State) : s.loseEntry.host.claims = s.host.claims := by
  unfold State.loseEntry State.setErr
  dsimp only
  split
  · rfl
  · exact claims_msix _ _

theorem claims_reply (s : State) (c : Cmd) (status : Byte) (results : List W64) : (s.reply c status results).host.claims = s.host.claims := by
  unfold State.reply
  dsimp only
  split
  · exact claims_loseEntry _
  · split
    · obtain ⟨l, n, q, he⟩ := writeEntry_eq (s.setHost (s.host.without c)) 1 (c.replyBytes status results)
      exact (congrArg (·.host.claims) he).trans rfl
    · rfl

theorem claims_finishInvalidates (s : State) : s.finishInvalidates.host.claims = s.host.claims :=
  List.foldlRecOn (motive := fun u : State => u.host.claims = s.host.claims) _ _ rfl
    fun u hu c _ => (claims_reply u c stOk []).trans hu

theorem traceCfg_count (s : State) (n : TallyName) (unit k : Nat) : (s.count n unit k).trace.cfg = s.trace.cfg := by
  have hc := counts_count s n unit k
  unfold State.Counts at hc
  rw [hc]

theorem traceCfg_traceRecord (s : State) (c : TraceCfg) (h : Nat) (trig : Bool) (b : List Byte) :
    (s.traceRecord c h trig b).trace.cfg = s.trace.cfg := by
  unfold State.traceRecord
  dsimp only
  split
  · rfl
  · split
    · exact traceCfg_count _ .traceDropped h 1
    · split
      · rfl
      · rfl

theorem traceCfg_traceEvent (s : State) (h ev : Nat) (unit : W16) (data : Nat) : (s.traceEvent h ev unit data).trace.cfg = s.trace.cfg := by
  unfold State.traceEvent
  split
  · rfl
  · split
    · exact traceCfg_traceRecord ..
    · rfl

theorem traceCfg_ownMark (s : State) (kind : Nat) : (s.ownMark kind).trace.cfg = s.trace.cfg :=
  List.foldlRecOn (motive := fun u : State => u.trace.cfg = s.trace.cfg) _ _ rfl
    fun u hu h _ => (traceCfg_traceEvent u h 7 0 _).trans hu

section
variable {s : State} {h : CmdHdr} {c : Cmd} {v w x y z : W64}

/-! ### The cross-check -/

/-- The state in which XCHK_CONFIG answers OK. -/
def State.checkConfigured (s : State) (h : CmdHdr) (v w x y z : W64) : State :=
  State.claim { s with xchk := { s.xchk with
    job := h.job, configured := true, base := v, entries := w.toNat, entry := x, threads := y.toNat, alerts := z.toNat, used := [] } }
    { kind := .checkRing, index := 0, job := h.job, opcode := 0x0910 }

theorem claimed_checkConfigured (s : State) : (s.checkConfigured h v w x y z).host.claimed .checkRing 0 = true := by
  simp [HostIf.claimed, State.claim, State.checkConfigured]

theorem exec_xchkConfig (hs : s.serves 0x0910 5 true h c) : exec (.xchkConfig h v w x y z) s
    = .next (if ¬ (v.toNat % 4096 = 0 ∧ 16 ≤ w.toNat ∧ w.toNat ≤ 4096 ∧ 1 ≤ y.toNat ∧ y.toNat ≤ 1024 ∧ z.toNat ≤ 65535)
      then (s.begin_ c).reply (s.begun c) stInvalid []
      else if s.jobResident h.job = true ∨ s.host.claimed .checkRing 0 = true then (s.begin_ c).reply (s.begun c) stConflict []
      else ((s.begin_ c).checkConfigured h v w x y z).reply (s.begun c) stOk []) := by
  change execXchkConfig h v w x y z s = _
  rw [execXchkConfig, command_runs hs]
  exact congrArg _ (if_congr (by grind [inRange_iff]) rfl (if_congr (by rw [Bool.or_eq_true]; rfl) rfl rfl))

/-- A state whose check has widened nothing. -/
def State.unwidened (s : State) : State := { s with xchk := { s.xchk with widened := [] } }

theorem exec_xchkStatus (hs : s.serves 0x0911 2 true h c) : exec (.xchkStatus h w v) s
    = .next (if 1 < w.toNat then (s.begin_ c).reply (s.begun c) stInvalid []
      else (if w = 1 ∧ s.xchk.job = h.job then (s.begin_ c).unwidened else s.begin_ c).cmdWrite (s.begun c) h.job v.toNat
        (padTo 1024 ((s.xchk.widenedOf h.job).flatMap fun q => leBytes 4 q.toNat))
        [(s.xchk.last.get {} h.job.toNat).samples, (s.xchk.last.get {} h.job.toNat).unchecked, (s.xchk.last.get {} h.job.toNat).disagreements,
          (s.xchk.last.get {} h.job.toNat).alerts, BitVec.ofNat 64 (s.xchk.widenedOf h.job).length]) := by
  change execXchkStatus h w v s = _
  rw [execXchkStatus, command_runs hs]
  refine congrArg _ (if_congr (by grind [inRange_iff]) rfl ?_)
  exact congrArg (fun u : State => u.cmdWrite _ _ _ _ _) (if_congr (by
    rw [Bool.and_eq_true, decide_eq_true_iff, decide_eq_true_iff]; rfl) rfl rfl)

/-! ### Self-test (R630, R631) -/

theorem anyResident_iff (s : State) : s.anyResident = true ↔ s.residents ≠ [] := by
  rw [State.anyResident, Bool.not_eq_true', List.isEmpty_eq_false_iff]

/-- A self-test that found nothing to take out. -/
def selfTestPasses (f : SelfTestFacts) : Prop := f.stalls = [] ∧ f.aisles = [] ∧ f.meshes = 0 ∧ f.tills = 0 ∧ f.roots = 0

/-- The counts that SELFTEST answers. -/
def selfTestCounts (f : SelfTestFacts) : List W64 :=
  let per := fun (k : Nat) => (f.stalls.filter fun st => st.hall.val = k).length
  [BitVec.ofNat 64 (per 0 + per 1 * 2 ^ 16 + per 2 * 2 ^ 32 + per 3 * 2 ^ 48), f.tills.setWidth 64, f.roots.setWidth 64]

open Classical in
theorem exec_selftest (hs : s.serves 0x0960 1 false h c) (f : SelfTestFacts) : exec (.selftest h v f) s
    = .next (if 31 < v.toNat then (s.begin_ c).reply (s.begun c) stInvalid []
      else if s.residents ≠ [] then (s.begin_ c).reply (s.begun c) stBusy []
      else if f.sagged = true then ((s.begin_ c).destroyStores v).reply (s.begun c) 0x0F []
      else (((s.begin_ c).destroyStores v).takeFailures (namedFailures f v)).reply (s.begun c)
        (if selfTestPasses (namedFailures f v) then 0x10 else 0x11) (selfTestCounts (namedFailures f v))) := by
  change execSelftest h v f s = _
  rw [execSelftest, command_runs hs]
  refine congrArg _ (if_congr (by grind [inRange_iff]) rfl (if_congr (anyResident_iff (s.begin_ c)) rfl (if_congr Iff.rfl rfl ?_)))
  exact congrArg (fun st => State.reply _ _ st _) (if_congr (by
    simp only [selfTestPasses, Bool.and_eq_true, decide_eq_true_iff, List.isEmpty_iff]
    grind) rfl rfl)

theorem takeFailures_of_passes {f : SelfTestFacts} (hf : selfTestPasses f) (s : State) : s.takeFailures f = s := by
  obtain ⟨hst, ha, hm, ht, hr⟩ := hf
  have hkeep (n : Nat) : (List.range n).foldl (fun (s : State) (_ : Nat) => s) s = s := by
    induction List.range n with
    | nil => rfl
    | cons _ _ ih => exact ih
  simp [State.takeFailures, hst, ha, hm, ht, hr, hkeep]

/-! ### Margins (R632, R633) -/

/-- The pseudo-channels or eyes below their margin, as a mask. -/
def marginBytes (ws : List (Nat × BitVec 64)) (marks : List Nat → List Nat) (n : Nat) (low : BitVec 64 → Bool) : List Byte :=
  (ws.flatMap fun q => windowBytes q.2) ++ leBytes n (maskOf (marks ((ws.filter fun q => low q.2).map (·.1))))

theorem exec_marginHbm (hs : s.serves 0x0961 3 false h c) (ps : List (BitVec 64)) : exec (.marginHbm h v w x ps) s
    = if ¬ (v.toNat ≤ 11 ∧ x.toNat ≤ 3) then (s.begin_ c).answers (s.begun c) stInvalid []
      else if s.residents ≠ [] then (s.begin_ c).answers (s.begun c) stBusy []
      else .next ((s.begin_ c).replyBulk (s.begun c)
        (marginBytes (((List.range 64).filter fun i => w.getLsbD i).zip ps) id 8
          fun p => if x.toNat < 2 then decide (windowPoints p * 100 < 40 * 64) else decide (windowPoints p * 5 < 60))
        [BitVec.ofNat 64 (marginBytes (((List.range 64).filter fun i => w.getLsbD i).zip ps) id 8
          fun p => if x.toNat < 2 then decide (windowPoints p * 100 < 40 * 64) else decide (windowPoints p * 5 < 60)).length]) := by
  change execMarginHbm h v w x ps s = _
  rw [execMarginHbm, command_runs hs, apply_ite Host.Outcome.next, apply_ite Host.Outcome.next]
  exact if_congr (by grind [inRange_iff]) rfl (if_congr (anyResident_iff (s.begin_ c)) rfl rfl)

/-- The lanes of a port that the masks name. -/
def maskedLanes (lo hi : W64) : List Nat := (List.range 128).filter fun i => if i < 64 then lo.getLsbD i else hi.getLsbD (i - 64)

theorem exec_marginLink (hs : s.serves 0x0962 4 false h c) (ps : List (BitVec 64)) :
    let eyes := if y = 1 then (maskedLanes w x).flatMap fun i => [i, i, i] else maskedLanes w x
    let bs := marginBytes (eyes.zip ps) List.eraseDups 16
      fun p => if y = 0 then decide (windowPoints p * 100 < 25 * 64) else decide (windowPoints p * 2 < 20)
    exec (.marginLink h v w x y ps) s
    = if ¬ (v.toNat ≤ 7 ∧ y.toNat ≤ 1 ∧ ∀ i ∈ maskedLanes w x, i < portLanes v.toNat) then (s.begin_ c).answers (s.begun c) stInvalid []
      else if s.residents ≠ [] then (s.begin_ c).answers (s.begun c) stBusy []
      else .next ((s.begin_ c).replyBulk (s.begun c) bs [BitVec.ofNat 64 bs.length]) := by
  change execMarginLink h v w x y ps s = _
  rw [execMarginLink, command_runs hs, apply_ite Host.Outcome.next, apply_ite Host.Outcome.next]
  refine if_congr ?_ rfl (if_congr (anyResident_iff (s.begin_ c)) rfl rfl)
  rw [Bool.or_eq_true, List.any_eq_true, ← maskedLanes]
  grind [inRange_iff]

theorem bits_eq_setWidth {m n : Nat} (x : BitVec m) : bits x 0 n = x.setWidth n := by
  unfold bits
  ext i hi
  simp

/-! ### Trace capture (R634, R635) -/

section
variable {trig cls events post : W64}

/-- The configuration that TRACE_CONFIG makes. -/
def traceCfgOf (h : CmdHdr) (va size trig cls events post : W64) (us : List Nat) : TraceCfg :=
  { job := h.job, va := va.toNat, size := size.toNat, units := us, trig := trig.setWidth 3, cls := cls.setWidth 8, events := events.setWidth 10, post := post.toNat }

theorem exec_traceConfig_refused (hs : s.serves 0x0968 6 true h c)
    (hn : ¬ (v.toNat % 65536 = 0 ∧ w ≠ 0 ∧ w.toNat % 262144 = 0 ∧ trig.toNat ≤ 7 ∧ cls.toNat ≤ 255 ∧ events.toNat ≤ 1023 ∧ events.getLsbD 0 = false)) :
    exec (.traceConfig h v w trig cls events post) s = (s.begin_ c).answers (s.begun c) stInvalid [] := by
  change execTraceConfig h v w trig cls events post s = _
  rw [execTraceConfig, command_runs hs]
  exact congrArg _ (if_pos (by grind [inRange_iff]))

/-- The state in which TRACE_CONFIG answers OK. -/
def State.traceConfigured (s : State) (h : CmdHdr) (trig : W64) (q : TraceCfg) (ps : List Pin) : State :=
  let u : State := { s.setXlt { s.xlt with pins := s.xlt.pins ++ ps } with trace := { cfg := some q } }
  if trig.getLsbD 0 then u.claim { kind := .syncIn, index := 0, job := h.job, opcode := 0x0968 } else u

theorem traceConfigured_spec (s : State) (h : CmdHdr) (q : TraceCfg) (ps : List Pin) :
    (s.traceConfigured h trig q ps).trace = { cfg := some q } ∧ (s.traceConfigured h trig q ps).xlt = { s.xlt with pins := s.xlt.pins ++ ps }
    ∧ (s.traceConfigured h trig q ps).host.claims = if trig.getLsbD 0 then s.host.claims ++ [{ kind := .syncIn, index := 0, job := h.job, opcode := 0x0968 }]
      else s.host.claims := by
  unfold State.traceConfigured
  dsimp only
  split
  · exact ⟨rfl, rfl, rfl⟩
  · exact ⟨rfl, rfl, rfl⟩

/-- The pins of a trace buffer. -/
def State.tracePins (s : State) (h : CmdHdr) (v w : W64) : Acc (List Pin) :=
  s.probeAll 4 tracePinKey 0 h.job [{ va := v.toNat, len := w.toNat, write := true }] []

/-- What TRACE_CONFIG does with sound operands where nothing is taken. -/
def State.configureTrace (s : State) (c : Cmd) (h : CmdHdr) (v w trig cls events post : W64) : State :=
  match s.traceUnits h.job v.toNat (w.toNat / 65536), s.tracePins h v w with
  | some us, .ok ps =>
    if s.pinsIn 4 + ps.length > pinRoom then s.parkCmd c
    else (s.traceConfigured h trig (traceCfgOf h v w trig cls events post us) ps).reply c stOk []
  | _, _ => s.reply c stInvalid []

theorem exec_traceConfig (hs : s.serves 0x0968 6 true h c)
    (hn : v.toNat % 65536 = 0 ∧ w ≠ 0 ∧ w.toNat % 262144 = 0 ∧ trig.toNat ≤ 7 ∧ cls.toNat ≤ 255 ∧ events.toNat ≤ 1023 ∧ events.getLsbD 0 = false) :
    exec (.traceConfig h v w trig cls events post) s
    = .next (if s.trace.cfg ≠ none ∨ (trig.getLsbD 0 = true ∧ s.host.claimed .syncIn 0 = true) then (s.begin_ c).reply (s.begun c) stConflict []
      else (s.begin_ c).configureTrace (s.begun c) h v w trig cls events post) := by
  change execTraceConfig h v w trig cls events post s = _
  rw [execTraceConfig, command_runs hs]
  refine congrArg _ ((if_neg (by grind [inRange_iff])).trans (if_congr ?_ rfl ?_))
  · rw [Bool.or_eq_true, Bool.and_eq_true, Option.isSome_iff_ne_none]
    rfl
  · simp only [bits_eq_setWidth]
    rfl

theorem configureTrace_noUnits (c : Cmd) (hu : s.traceUnits h.job v.toNat (w.toNat / 65536) = none) :
    s.configureTrace c h v w trig cls events post = s.reply c stInvalid [] := by
  rw [State.configureTrace, hu]

theorem configureTrace_noPins (c : Cmd) (hp : ∀ ps, s.tracePins h v w ≠ .ok ps) :
    s.configureTrace c h v w trig cls events post = s.reply c stInvalid [] := by
  unfold State.configureTrace
  split
  · next hq => exact absurd hq (hp _)
  · rfl

theorem configureTrace_ok (c : Cmd) {us : List Nat} {ps : List Pin} (hu : s.traceUnits h.job v.toNat (w.toNat / 65536) = some us)
    (hp : s.tracePins h v w = .ok ps) : s.configureTrace c h v w trig cls events post = if pinRoom < s.pinsIn 4 + ps.length then s.parkCmd c
      else (s.traceConfigured h trig (traceCfgOf h v w trig cls events post us) ps).reply c stOk [] := by
  rw [State.configureTrace, hu, hp]
end

/-- The trace once it is armed: an armed trace that has not fired stays as it is. -/
def State.armTrace (s : State) (q : TraceCfg) : State :=
  if s.trace.armed = true ∧ s.trace.fired = false then s else { s with trace := { cfg := some q, armed := true } }

theorem exec_traceArm (hs : s.serves 0x0969 1 false h c) : exec (.traceArm h v) s
    = .next (s.trace.cfg.elim ((s.begin_ c).reply (s.begun c) stNotFound []) fun q =>
      if 1 < v.toNat then (s.begin_ c).reply (s.begun c) stInvalid []
      else (if v = 1 ∧ q.trig.getLsbD 2 = true then ((s.begin_ c).armTrace q).traceTrigger else (s.begin_ c).armTrace q).reply (s.begun c) stOk []) := by
  change execTraceArm h v s = _
  rw [execTraceArm, command_runs hs]
  change Host.Outcome.next (match s.trace.cfg with | none => _ | some q => _) = _
  cases s.trace.cfg with
  | none => rfl
  | some q =>
    rw [Option.elim_some]
    by_cases hv : 1 < v.toNat
    · rw [if_pos hv]
      exact congrArg _ (if_pos (by grind [inRange_iff]))
    · rw [if_neg hv]
      have h1 : v.getLsbD 0 = true ↔ v = 1 := by
        have : v = 0 ∨ v = 1 := by bv_omega
        rcases this with rfl | rfl <;> decide
      refine congrArg _ ((if_neg (by grind [inRange_iff])).trans (congrArg (fun u : State => u.reply _ _ _) ?_))
      have ha : (if ((s.begin_ c).trace.armed && !(s.begin_ c).trace.fired) = true then s.begin_ c
          else { s.begin_ c with trace := { cfg := some q, armed := true } }) = (s.begin_ c).armTrace q :=
        if_congr (by rw [Bool.and_eq_true, Bool.not_eq_true']) rfl rfl
      rw [ha]
      exact if_congr (by rw [Bool.and_eq_true, h1]) rfl rfl

/-- The state in which TRACE_RELEASE answers. -/
def State.traceReleased (s : State) : State :=
  (State.unpin { s with trace := {} } fun p => p.graph = tracePinKey).unclaim fun x => x.kind = .syncIn && x.opcode = 0x0968

theorem traceReleased_spec (s : State) : s.traceReleased.trace = {} ∧ s.traceReleased.mem = s.mem
    ∧ s.traceReleased.host.claims = s.host.claims.filter fun x => !(x.kind = .syncIn && x.opcode = 0x0968) := by
  let t : State := { s with trace := {} }
  let u := t.setXlt { t.xlt with pins := t.xlt.pins.filter fun q => !(decide (q.graph = tracePinKey)) }
  have hu := sends_finishInvalidates u
  refine ⟨?_, ?_, congrArg (List.filter _) (claims_finishInvalidates u)⟩
  · change u.finishInvalidates.trace = {}
    rw [hu]
    rfl
  · change u.finishInvalidates.mem = s.mem
    rw [hu]
    rfl

theorem exec_traceRelease (hs : s.serves 0x096A 0 false h c) :
    exec (.traceRelease h) s = .next ((s.begin_ c).traceReleased.reply (s.begun c) stOk []) := by
  change execTraceRelease h s = _
  rw [execTraceRelease, command_runs hs]
  rfl

/-- The record that TRACE_STATUS answers. -/
def State.traceBytesOf (s : State) : List Byte := [0, 1, 2, 3].flatMap fun i =>
  leBytes 8 (s.traceHall i).written ++ leBytes 8 (s.traceHall i).dropped ++ leBytes 8 (if (s.traceHall i).stopped then 1 else 0)
    ++ leBytes 8 (s.traceHall i).trigAt

theorem traceBytesOf_length (s : State) : s.traceBytesOf.length = 128 := by
  simp [State.traceBytesOf, length_leBytes]

theorem exec_traceStatus (hs : s.serves 0x096B 0 false h c) :
    exec (.traceStatus h) s = .next ((s.begin_ c).replyBulk (s.begun c) s.traceBytesOf [128]) := by
  change execTraceStatus h s = _
  rw [execTraceStatus, command_runs hs]
  change Host.Outcome.next ((s.begin_ c).replyBulk (s.begun c) s.traceBytesOf [BitVec.ofNat 64 s.traceBytesOf.length]) = _
  rw [traceBytesOf_length]
  rfl

open Classical in
theorem exec_trigInEdge : exec .trigInEdge s = .next (if s.power.supply = .off then s
    else if (∃ q, s.trace.cfg = some q ∧ q.trig.getLsbD 0 = true) then (s.ownMark 2).traceTrigger else s.ownMark 2) := by
  change execTrigInEdge s = _
  simp only [execTrigInEdge, traceCfg_ownMark, apply_ite Host.Outcome.next]
  exact if_congr Iff.rfl rfl (if_congr (by rw [Option.any_eq_true]) rfl rfl)
end

/-- Settles O55: each command by its operands and by what the part holds. -/
theorem checkTestAndTrace : Obligations.CheckTestAndTrace := by
  classical
  unfold Obligations.CheckTestAndTrace
  intro h c s v w x y z
  dsimp only
  refine ⟨fun hs => ⟨fun hn => ?_, fun hok ht => ?_, fun hok ht => ⟨(s.begin_ c).checkConfigured h v w x y z, ?_, claimed_checkConfigured _, rfl⟩⟩, fun hs => ⟨fun hw => ?_, fun hw => ?_⟩,
    fun f hs => ⟨fun hv => ?_, fun hv hi => ?_, fun hv hi hf => ?_, fun hv hi hf => ⟨?_, fun hp => takeFailures_of_passes hp _⟩⟩,
    fun ps => ⟨fun hs => ⟨fun hn => ?_, fun hv hx hi => ?_, fun hv hx hi => ?_⟩, fun hs => ⟨fun hn => ?_, fun hok hi => ?_, fun hok hi => ?_⟩⟩,
    fun trig cls events post hs => ⟨exec_traceConfig_refused hs, fun hok ht => ?_, fun hok ht => ⟨fun hu => ?_, fun hp => ?_,
      fun us ps hu hp => ⟨fun hr => ?_, fun hr => ⟨_, ?_, traceConfigured_spec (s.begin_ c) h _ ps⟩⟩⟩⟩,
    fun hs => ⟨fun hn => ?_, fun q hq => ⟨fun hv => ?_, fun hv => ?_⟩⟩,
    fun hs => ⟨_, exec_traceRelease hs, traceReleased_spec (s.begin_ c)⟩,
    fun hs => ⟨traceBytesOf_length s, ?_⟩, exec_trigInEdge⟩
  · rw [exec_xchkConfig hs, if_pos hn]
    rfl
  · rw [exec_xchkConfig hs, if_neg (Classical.not_not.mpr hok), if_pos ht]
    rfl
  · rw [exec_xchkConfig hs, if_neg (Classical.not_not.mpr hok), if_neg ht]
    rfl
  · rw [exec_xchkStatus hs, if_pos hw]
    rfl
  · rw [exec_xchkStatus hs, if_neg (by omega)]
    rfl
  · rw [exec_selftest hs, if_pos hv]
    rfl
  · rw [exec_selftest hs, if_neg (by omega), if_pos hi]
    rfl
  · rw [exec_selftest hs, if_neg (by omega), if_neg (Classical.not_not.mpr hi), if_pos hf]
    rfl
  · rw [exec_selftest hs, if_neg (by omega), if_neg (Classical.not_not.mpr hi), if_neg (by rw [hf]; decide)]
    exact congrArg (fun st => Host.Outcome.next (State.reply _ _ st _)) (if_congr Iff.rfl rfl rfl)
  · rw [exec_marginHbm hs, if_pos hn]
  · rw [exec_marginHbm hs, if_neg (Classical.not_not.mpr ⟨hv, hx⟩), if_pos hi]
  · rw [exec_marginHbm hs, if_neg (Classical.not_not.mpr ⟨hv, hx⟩), if_neg (Classical.not_not.mpr hi), replyBulk_of_serves hs]
    rfl
  · rw [exec_marginLink hs, if_pos (show ¬ (_ ∧ _ ∧ ∀ i ∈ maskedLanes w x, _) from hn)]
  · rw [exec_marginLink hs, if_neg (Classical.not_not.mpr (show _ ∧ _ ∧ ∀ i ∈ maskedLanes w x, _ from hok)), if_pos hi]
  · rw [exec_marginLink hs, if_neg (Classical.not_not.mpr (show _ ∧ _ ∧ ∀ i ∈ maskedLanes w x, _ from hok)), if_neg (Classical.not_not.mpr hi), replyBulk_of_serves hs]
    rfl
  · rw [exec_traceConfig hs hok, if_pos ht]
    rfl
  · rw [exec_traceConfig hs hok, if_neg ht, configureTrace_noUnits _ hu]
    rfl
  · rw [exec_traceConfig hs hok, if_neg ht, configureTrace_noPins _ hp]
    rfl
  · rw [exec_traceConfig hs hok, if_neg ht, configureTrace_ok _ hu hp, if_pos hr]
  · rw [exec_traceConfig hs hok, if_neg ht, configureTrace_ok _ hu hp, if_neg (by omega)]
    rfl
  · rw [exec_traceArm hs, hn]
    rfl
  · rw [exec_traceArm hs, hq, Option.elim_some, if_pos hv]
    rfl
  · rw [exec_traceArm hs, hq, Option.elim_some, if_neg (by omega)]
    rfl
  · rw [exec_traceStatus hs, replyBulk_of_serves hs]
    rfl
end Sys2Proof.Machine
end

section
/-! SUPPORT. ROOT and SLV: the commands of both units, root tasks and solves (R241, R249 to R264, R284 to R296, R413). -/

namespace Sys2Proof.Machine

/-! ### The commands (Tables 8.4 and 9.6) -/

section
variable {s : State} {h : CmdHdr} {c : Cmd} {v w : W64}

/-- What ROOT_FACTOR_SET answers for the record it has read. -/
def State.setFactor (s : State) (c : Cmd) (job : Byte) (bs : List Byte) : State :=
  match factorBad bs job with
  | some o => s.reply c stInvalid [BitVec.ofNat 64 o]
  | none => if s.factor (RootFactor.parse bs).fid = none then
      (s.setRoots { s.roots with factors := s.roots.factors ++ [RootFactor.parse bs] }).reply c stOk []
    else s.reply c stConflict []

theorem exec_rootFactorSet (hs : s.serves 0x0B01 1 true h c) : exec (.rootFactorSet h v) s
    = .next ((s.begin_ c).cmdRead (s.begun c) h.job v.toNat 256 fun bs u => u.setFactor (s.begun c) h.job bs) := by
  change execRootFactorSet h v s = _
  rw [execRootFactorSet, command_runs hs]
  refine congrArg (fun k => Host.Outcome.next (State.cmdRead _ _ _ _ _ k)) (funext fun bs => funext fun u => ?_)
  unfold State.setFactor
  cases factorBad bs h.job with
  | some o => rfl
  | none =>
    dsimp only
    rw [← ite_not]
    exact if_congr Option.not_isSome_iff_eq_none rfl rfl

theorem exec_rootFactorClear (hs : s.serves 0x0B02 1 true h c) : exec (.rootFactorClear h v) s
    = .next ((s.factorOf h.job v).elim ((s.begin_ c).reply (s.begun c) stInvalid []) fun f =>
      (s.begin_ c).unlessBusy (s.begun c) f.job ((s.begin_ c).factorBusy f) fun u =>
        (u.setRoots { u.roots with factors := u.roots.factors.filter fun x => x.fid ≠ f.fid }).reply (s.begun c) stOk []) := by
  change execRootFactorClear h v s = _
  rw [execRootFactorClear, command_runs hs]
  change Host.Outcome.next (match s.factorOf h.job v with | none => _ | some f => _) = _
  cases s.factorOf h.job v with
  | none => rfl
  | some f => rfl

theorem exec_rootStatus (hs : s.serves 0x0B03 2 true h c) : exec (.rootStatus h v w) s
    = .next ((s.factorOf h.job v).elim ((s.begin_ c).reply (s.begun c) stInvalid []) fun f =>
      (s.begin_ c).cmdWrite (s.begun c) h.job w.toNat (if f.status = [] then RootStat.bytes {} f 0 else f.status) []) := by
  change execRootStatus h v w s = _
  rw [execRootStatus, command_runs hs]
  change Host.Outcome.next (match s.factorOf h.job v with | none => _ | some f => _) = _
  cases s.factorOf h.job v with
  | none => rfl
  | some f =>
    refine congrArg (fun bs => Host.Outcome.next (State.cmdWrite _ _ _ _ bs _)) (if_congr ?_ rfl rfl)
    rw [List.isEmpty_iff]

/-- What ROOT_RESET does to an idle factor. -/
def State.resetFactor (s : State) (c : Cmd) (job : Byte) (f : RootFactor) (w : W64) : State :=
  let f := if w.getLsbD 0 then { f with fValid := false, written := [] } else f
  let f := if w.getLsbD 1 then { f with rootValid := false, inService := [] } else f
  if w.getLsbD 0 then (s.putFactor f).cmdWrite c job f.fPtr (List.replicate (4 * f.elems) 0) [] else (s.putFactor f).reply c stOk []

theorem exec_rootReset (hs : s.serves 0x0B04 2 true h c) : exec (.rootReset h v w) s
    = .next ((s.factorOf h.job v).elim ((s.begin_ c).reply (s.begun c) stInvalid []) fun f =>
      if 3 < w.toNat then (s.begin_ c).reply (s.begun c) stInvalid []
      else (s.begin_ c).unlessBusy (s.begun c) f.job ((s.begin_ c).factorBusy f) fun u => u.resetFactor (s.begun c) h.job f w) := by
  change execRootReset h v w s = _
  rw [execRootReset, command_runs hs]
  change Host.Outcome.next (match s.factorOf h.job v with | none => _ | some f => _) = _
  cases s.factorOf h.job v with
  | none => rfl
  | some f => rfl

theorem exec_rootSelftest (hs : s.serves 0x0B05 1 false h c) (pass : Bool) : exec (.rootSelftest h v pass) s
    = if 3 < v.toNat then (s.begin_ c).answers (s.begun c) stInvalid []
      else if (s.begin_ c).rootBusy v.toNat = true then (s.begin_ c).answers (s.begun c) stBusy []
      else if pass = true then (s.begin_ c).answers (s.begun c) 0x10 []
      else (((s.begin_ c).failRoot v.toNat).stopSolves v.toNat).answers (s.begun c) 0x11 [] := by
  change execRootSelftest h v pass s = _
  rw [execRootSelftest, command_runs hs, apply_ite Host.Outcome.next, apply_ite Host.Outcome.next, apply_ite Host.Outcome.next]
  rfl

/-- The lowest free image id. -/
def State.freeImage (s : State) : Option Nat := (List.range 256).find? fun k => (s.image k).isNone

/-- What SOLVE_IMAGE_SET answers for an image it has read. -/
def State.setImage (s : State) (c : Cmd) (job : Byte) (va : Nat) (bs : List Byte) : State :=
  match s.freeImage with
  | none => s.reply c stBusy []
  | some id => match imageBodyBad bs (SolveImage.parse id s.solver.nextReg job va bs) with
    | some o => s.reply c stInvalid [BitVec.ofNat 64 o]
    | none => (s.setSolver { s.solver with images := s.solver.images ++ [SolveImage.parse id s.solver.nextReg job va bs], nextReg := s.solver.nextReg + 1 }).reply
        c stOk [BitVec.ofNat 64 id]

/-- What SOLVE_IMAGE_SET does once it has the header. -/
def State.readImage (s : State) (c : Cmd) (job : Byte) (va : Nat) (hd : List Byte) : State :=
  match imageHeaderBad hd with
  | some o => (s.dropHub job).reply c stInvalid [BitVec.ofNat 64 o]
  | none => s.cmdRead c job va (leAt hd 0xA0 8) fun bs u => u.setImage c job va bs

theorem exec_solveImageSet (hs : s.serves 0x0B10 1 true h c) : exec (.solveImageSet h v) s
    = .next (if v.toNat % 128 ≠ 0 then (s.begin_ c).reply (s.begun c) stInvalid [0]
      else (s.begin_ c).cmdPeek (s.begun c) h.job v.toNat 192 fun hd u => u.readImage (s.begun c) h.job v.toNat hd) := by
  change execSolveImageSet h v s = _
  rw [execSolveImageSet, command_runs hs]
  rfl

open Classical in
theorem exec_solveImageClear (hs : s.serves 0x0B11 1 true h c) : exec (.solveImageClear h v) s
    = (s.imageOf h.job v).elim ((s.begin_ c).answers (s.begun c) stInvalid []) fun i =>
      if ∃ q ∈ (s.begin_ c).tasksOfKind 5, q.2.2.1.hdr.job = h.job ∧ q.2.2.2.body.toNat = i.va then (s.begin_ c).answers (s.begun c) stBusy []
      else ((s.begin_ c).setSolver { (s.begin_ c).solver with
        images := (s.begin_ c).solver.images.filter fun x => x.id ≠ i.id }).answers (s.begun c) stOk [] := by
  change execSolveImageClear h v s = _
  rw [execSolveImageClear, command_runs hs]
  change Host.Outcome.next (match s.imageOf h.job v with | none => _ | some i => _) = _
  cases s.imageOf h.job v with
  | none => rfl
  | some i =>
    rw [Option.elim_some]
    dsimp only
    rw [apply_ite Host.Outcome.next]
    refine if_congr ?_ rfl rfl
    rw [List.any_eq_true]
    simp only [Bool.and_eq_true, decide_eq_true_iff]

theorem exec_solveStatus (hs : s.serves 0x0B12 2 true h c) : exec (.solveStatus h v w) s
    = .next ((s.imageOf h.job v).elim ((s.begin_ c).reply (s.begun c) stInvalid []) fun i =>
      (s.begin_ c).cmdWrite (s.begun c) h.job w.toNat (padTo 64 i.status) []) := by
  change execSolveStatus h v w s = _
  rw [execSolveStatus, command_runs hs]
  change Host.Outcome.next (match s.imageOf h.job v with | none => _ | some i => _) = _
  cases s.imageOf h.job v with
  | none => rfl
  | some i => rfl
end

/-! ### Root tasks (R249 to R264) -/

theorem reached_iff (n gone : Nat) (passed : Bool) : reached n gone passed = true ↔ n ≠ 0 ∧ (n < gone ∨ n = gone ∧ passed = true) := by
  simp [reached]

section
variable {s : State} {hall : Fin 4} {past : Bool} {g : Fin 8} {task : Nat} {r : RootRun} {f : RootFactor}

theorem exec_rootTaskRun_waits (h : s.power.supply ≠ .on ∨ s.rootRun hall.val ≠ none ∨ s.hallRuns hall.val = false) :
    exec (.rootTaskRun hall g task) s = .next s :=
  if_pos (by
    simp only [Bool.or_eq_true, decide_eq_true_iff, Option.isSome_iff_ne_none, Bool.not_eq_true', or_assoc]
    exact h)

/-- What ROOT_TASK_RUN does once the task has probed. -/
def State.rootRuns (s : State) (h g task : Nat) : State :=
  match s.unitTask g task 4 with
  | some (gr, ts, rec) =>
    if !ts.probed || rec.placeHall ≠ h then s
    else match s.rootRead h gr rec with
      | .ok (some (b, fs)) => s.rootDo h (s.rootBegin h g task gr ts b fs).1 (s.rootBegin h g task gr ts b fs).2
      | .ok none => (s.dropHub gr.hdr.job).failTask g task 0x22
      | e => s.unitStop h g task gr.hdr.job ts.tags e
  | none => s

theorem exec_rootTaskRun (hon : s.power.supply = .on) (hn : s.rootRun hall.val = none) (hr : s.hallRuns hall.val = true) :
    exec (.rootTaskRun hall g task) s = .next ((s.rootProbe hall.val g.val task).rootRuns hall.val g.val task) := by
  change execRootTaskRun hall g task s = _
  rw [execRootTaskRun]
  refine (if_neg (by simp [hon, hn, hr])).trans ?_
  unfold State.rootRuns
  dsimp only
  cases (s.rootProbe hall.val g.val task).unitTask g.val task 4 with
  | none => rfl
  | some q =>
    obtain ⟨gr, ts, rec⟩ := q
    dsimp only
    rw [apply_ite Host.Outcome.next]
    refine if_congr Iff.rfl rfl ?_
    generalize (s.rootProbe hall.val g.val task).rootRead hall.val gr rec = a
    rcases a with (_ | ⟨_, _⟩) | _ | _ | _
    · rfl
    · rfl
    · rfl
    · rfl
    · rfl

theorem rootRuns_noTask {h gi : Nat} (hu : s.unitTask gi task 4 = none) : s.rootRuns h gi task = s := by
  rw [State.rootRuns, hu]

section
variable {h gi : Nat} {gr : Graph} {ts : TaskSt} {rec : TaskRec}

theorem rootRuns_unprobed (hu : s.unitTask gi task 4 = some (gr, ts, rec)) (hp : ts.probed = false ∨ rec.placeHall ≠ h) :
    s.rootRuns h gi task = s := by
  rw [State.rootRuns, hu]
  exact if_pos (by simpa using hp)

theorem rootRuns_probed (hu : s.unitTask gi task 4 = some (gr, ts, rec)) (hp : ts.probed = true) (hh : rec.placeHall = h) :
    s.rootRuns h gi task = match s.rootRead h gr rec with
      | .ok (some (b, fs)) => s.rootDo h (s.rootBegin h gi task gr ts b fs).1 (s.rootBegin h gi task gr ts b fs).2
      | .ok none => (s.dropHub gr.hdr.job).failTask gi task 0x22
      | e => s.unitStop h gi task gr.hdr.job ts.tags e := by
  rw [State.rootRuns, hu]
  exact if_neg (by simp [hp, hh])
end

/-! #### Newton iterations -/

theorem exec_rootIterationBoundary_none (h : s.power.below42 = true ∨ s.rootRun hall.val = none) :
    exec (.rootIterationBoundary hall past) s = .next s := by
  have hn : (if s.power.below42 = true then none else s.rootRun hall.val) = none := by
    rcases h with h | h
    · exact if_pos h
    · rw [h, ite_self]
  change execRootIterationBoundary hall past s = _
  rw [execRootIterationBoundary, hn]

theorem exec_rootPanelBoundary_none (h : s.power.below42 = true ∨ s.rootRun hall.val = none) :
    exec (.rootPanelBoundary hall past) s = .next s := by
  have hn : (if s.power.below42 = true then none else s.rootRun hall.val) = none := by
    rcases h with h | h
    · exact if_pos h
    · rw [h, ite_self]
  change execRootPanelBoundary hall past s = _
  rw [execRootPanelBoundary, hn]

section
variable (h42 : s.power.below42 = false) (hr : s.rootRun hall.val = some r)
include h42 hr

/-- The root task of a hall whose supply stands. -/
theorem rootRun_above42 : (if s.power.below42 = true then none else s.rootRun hall.val) = some r := by
  rw [if_neg (by rw [h42]; decide), hr]

theorem exec_rootIterationBoundary_other (hp : ∀ w, r.phase ≠ .newton w) : exec (.rootIterationBoundary hall past) s = .next s := by
  change execRootIterationBoundary hall past s = _
  rw [execRootIterationBoundary, rootRun_above42 h42 hr]
  dsimp only
  split
  · next hq _ => exact absurd hq (hp _)
  · rfl

theorem exec_rootPanelBoundary_other (hp : ∀ l x m, r.phase ≠ .direct l x m) : exec (.rootPanelBoundary hall past) s = .next s := by
  change execRootPanelBoundary hall past s = _
  rw [execRootPanelBoundary, rootRun_above42 h42 hr]
  dsimp only
  split
  · next hq _ => exact absurd hq (hp _ _ _)
  · rfl

/-- The root run whose current factor has the residual of its iteration. -/
def RootRun.residual (r : RootRun) (f : RootFactor) (w : Newton) : RootRun :=
  r.modStat r.fac fun st => { st with resid := amaxOf (newtonE (f.blkn.getD r.blk 0) w.m) }

/-- The residual of an iteration. -/
def RootRun.res (r : RootRun) (f : RootFactor) (w : Newton) : Nat := amaxOf (newtonE (f.blkn.getD r.blk 0) w.m)

/-- The stalls in a row, with this iteration. -/
def RootRun.stalls (r : RootRun) (f : RootFactor) (w : Newton) : Nat :=
  if 3 ≤ w.k ∧ (val32 (r.res f w)).lt (val32 w.rPrev) = false then w.stall + 1 else 0

open Classical in
theorem exec_rootIterationBoundary {w : Newton} (hf : s.factor (r.facs.getD r.fac 0) = some f) (hp : r.phase = .newton w) :
    let n := f.blkn.getD r.blk 0
    let q := r.residual f w
    let late := s.rootIsLate hall.val r past
    exec (.rootIterationBoundary hall past) s = .next (s.rootDo hall.val q (
      if w.warm = true ∧ w.k = 0 ∧ (val32 f.omega).lt (val32 (r.res f w)) = true then .ok (if late = true then s.rootLate hall.val (q.flag 0x40)
        else s.setRootRun hall.val (some { q.flag 0x40 with phase := .newton (coldStart f w.scale n w.a) }))
      else if (val32 f.tol).lt (val32 (r.res f w)) = false then s.rootInstall hall.val q f (if w.warm then 1 else 2) w.root
      else if w.breached = true ∨ (r.stalls f w = 2 ∨ w.k = w.itmax) then
        s.rootFallback hall.val (q.flag (if w.breached = true then 0x04 else 0x08)) f w.scale late
      else if late = true then .ok (s.rootLate hall.val q)
      else .ok (s.setRootRun hall.val (some { (q.modStat r.fac fun st => { st with iters := st.iters + 1 }) with
        phase := .newton (w.advance f.logp n (newtonE n w.m) (r.res f w) (r.stalls f w)) })))) := by
  have hst : (if (decide (w.k ≥ 3) && !((val32 (amaxOf (newtonE (f.blkn.getD r.blk 0) w.m))).lt (val32 w.rPrev))) = true
      then w.stall + 1 else 0) = r.stalls f w :=
    if_congr (by rw [Bool.and_eq_true, Bool.not_eq_true', decide_eq_true_iff]; rfl) rfl rfl
  change execRootIterationBoundary hall past s = _
  rw [execRootIterationBoundary, rootRun_above42 h42 hr]
  dsimp only
  rw [hp, hf]
  dsimp only
  refine congrArg (fun a => Host.Outcome.next (s.rootDo hall.val (r.residual f w) a)) ?_
  rw [State.rootBoundary]
  dsimp only
  refine if_congr ?_ rfl (if_congr ?_ rfl ?_)
  · rw [Bool.and_eq_true, Bool.and_eq_true, decide_eq_true_iff, and_assoc]
    rfl
  · rw [Bool.not_eq_true']
    rfl
  · rw [hst]
    by_cases hb : w.breached = true
    · rw [if_pos hb, if_pos (.inl hb), if_pos hb]
      rfl
    · rw [if_neg hb]
      by_cases hl : r.stalls f w = 2 ∨ w.k = w.itmax
      · rw [if_pos (by simpa using hl), if_pos (.inr hl), if_neg hb]
        rfl
      · rw [if_neg (by simpa using hl), if_neg (not_or.mpr ⟨hb, hl⟩)]
        rfl

section
variable {w : Newton} (hf : s.factor (r.facs.getD r.fac 0) = some f) (hp : r.phase = .newton w)
include hf hp

/-- A warm start above OMEGA starts cold (R257). -/
theorem rootIteration_warm (ht : w.warm = true ∧ w.k = 0 ∧ (val32 f.omega).lt (val32 (r.res f w)) = true) :
    exec (.rootIterationBoundary hall past) s = .next ((if s.rootIsLate hall.val r past = true then s.rootLate hall.val ((r.residual f w).flag 0x40)
      else s.setRootRun hall.val (some { (r.residual f w).flag 0x40 with
        phase := .newton (coldStart f w.scale (f.blkn.getD r.blk 0) w.a) })).dropHub r.job) := by
  have hx := exec_rootIterationBoundary (past := past) h42 hr hf hp
  dsimp only at hx
  rw [hx, if_pos ht]
  rfl

variable (ht : ¬ (w.warm = true ∧ w.k = 0 ∧ (val32 f.omega).lt (val32 (r.res f w)) = true))
include ht

/-- A block at or below its tolerance installs its root. -/
theorem rootIteration_done (hd : (val32 f.tol).lt (val32 (r.res f w)) = false) :
    exec (.rootIterationBoundary hall past) s = .next (s.rootDo hall.val (r.residual f w)
      (s.rootInstall hall.val (r.residual f w) f (if w.warm then 1 else 2) w.root)) := by
  have hx := exec_rootIterationBoundary (past := past) h42 hr hf hp
  dsimp only at hx
  rw [hx, if_neg ht, if_pos hd]

variable (hd : ¬ (val32 f.tol).lt (val32 (r.res f w)) = false)
include hd

/-- A breached guard, a second stall and the last iteration take the direct path (R259, R260). -/
theorem rootIteration_fallback (hb : w.breached = true ∨ (r.stalls f w = 2 ∨ w.k = w.itmax)) :
    exec (.rootIterationBoundary hall past) s = .next (s.rootDo hall.val (r.residual f w)
      (s.rootFallback hall.val ((r.residual f w).flag (if w.breached = true then 0x04 else 0x08)) f w.scale (s.rootIsLate hall.val r past))) := by
  have hx := exec_rootIterationBoundary (past := past) h42 hr hf hp
  dsimp only at hx
  rw [hx, if_neg ht, if_neg hd, if_pos hb]

/-- Otherwise the next iteration follows, or the task ends past its deadline. -/
theorem rootIteration_next (hb : w.breached = false) (hl : ¬ (r.stalls f w = 2 ∨ w.k = w.itmax)) :
    exec (.rootIterationBoundary hall past) s = .next ((if s.rootIsLate hall.val r past = true then s.rootLate hall.val (r.residual f w)
      else s.setRootRun hall.val (some { ((r.residual f w).modStat r.fac fun st => { st with iters := st.iters + 1 }) with
        phase := .newton (w.advance f.logp (f.blkn.getD r.blk 0) (newtonE (f.blkn.getD r.blk 0) w.m) (r.res f w) (r.stalls f w)) })).dropHub r.job) := by
  have hx := exec_rootIterationBoundary (past := past) h42 hr hf hp
  dsimp only at hx
  rw [hx, if_neg ht, if_neg hd, if_neg (not_or.mpr ⟨by rw [hb]; decide, hl⟩)]
  split
  · rfl
  · rfl
end

/-! #### The direct path -/

/-- The root run that has counted a panel's pivots. -/
def RootRun.pivots (r : RootRun) (p : Nat) : RootRun := r.modStat r.fac fun st => { st with pivReg := st.pivReg + p }

/-- The state that has counted a panel's pivots. -/
def State.pivots (s : State) (p : Nat) : State := if p = 0 then s else s.count .rootPivots 0 p

/-- An ill-conditioned block keeps its root, and the next one follows. -/
def State.rootKeep (s : State) (h : Nat) (q : RootRun) (lc : W64) : State :=
  s.rootDo h q (s.rootNext h ((q.flag 0x20).outcome q.fac q.blk 5 lc))

omit h42 hr in
theorem hallLc_pivots (s : State) (p h : Nat) : (s.pivots p).hallLc h = s.hallLc h := by
  unfold State.pivots
  split
  · rfl
  · have hc := counts_count s .rootPivots 0 p
    unfold State.Counts at hc
    rw [hc]
    rfl

theorem exec_rootPanelBoundary {p : Nat} {rest : List Nat} {result : Option (List Nat)} {mid : Bool}
    (hf : s.factor (r.facs.getD r.fac 0) = some f) (hp : r.phase = .direct (p :: rest) result mid) :
    exec (.rootPanelBoundary hall past) s = .next (
      if rest = [] ∧ mid = true then (s.pivots p).rootKeep hall.val (r.pivots p) (s.hallLc hall.val)
      else if s.rootIsLate hall.val r past = true then (s.pivots p).rootLate hall.val (r.pivots p)
      else if rest = [] then result.elim ((s.pivots p).rootKeep hall.val (r.pivots p) (s.hallLc hall.val)) fun root =>
        (s.pivots p).rootDo hall.val (r.pivots p) ((s.pivots p).rootInstall hall.val (r.pivots p) f 3 root)
      else (s.pivots p).setRootRun hall.val (some { r.pivots p with phase := .direct rest result mid })) := by
  have hlc := hallLc_pivots s p hall.val
  change execRootPanelBoundary hall past s = _
  rw [execRootPanelBoundary, rootRun_above42 h42 hr]
  dsimp only
  rw [hp, hf]
  dsimp only
  rw [← State.pivots, hlc]
  simp only [apply_ite Host.Outcome.next]
  refine if_congr (by rw [Bool.and_eq_true, decide_eq_true_iff]) rfl (if_congr Iff.rfl rfl ?_)
  cases rest with
  | cons p' rest => rfl
  | nil =>
    cases result with
    | none => rfl
    | some root => rfl
end

/-! #### The end of a root task -/

theorem exec_rootTaskDone_none (h : ∀ r, s.rootRun hall.val = some r → r.phase ≠ .finished) : exec (.rootTaskDone hall) s = .next s := by
  change execRootTaskDone hall s = _
  unfold execRootTaskDone
  dsimp only
  split
  · rfl
  · next r hr => exact if_pos (h r hr)

/-- The status records of a root task. -/
def State.rootRecords (s : State) (r : RootRun) : List (List Byte) :=
  (r.facs.zip r.stats).map fun p => (s.factor p.1).elim (List.replicate 64 0) fun f => p.2.bytes f r.step

/-- The factors once each has the record of its last task. -/
def State.keepRecords (s : State) (r : RootRun) (recs : List (List Byte)) : State :=
  (r.facs.zip recs).foldl (fun (s : State) p => match s.factor p.1 with
    | some f => s.putFactor { f with status := p.2 }
    | none => s) s

theorem keepRecords_frame (s : State) (r : RootRun) (recs : List (List Byte)) :
    s.keepRecords r recs = s.setRoots { s.roots with factors := (s.keepRecords r recs).roots.factors } :=
  List.foldlRecOn (motive := fun u : State => u = s.setRoots { s.roots with factors := u.roots.factors }) _ _ rfl
    fun u hu p _ => by
      split
      · rw [hu]
        rfl
      · exact hu

/-- The state in which a root task is over. -/
def State.rootEnds (s : State) (h : Nat) (r : RootRun) (recs : List (List Byte)) : State :=
  ((s.keepRecords r recs).setRootRun h none).modTask r.graph r.task fun ts => { ts with unitDone := true }

theorem exec_rootTaskDone (hr : s.rootRun hall.val = some r) (hp : r.phase = .finished) : exec (.rootTaskDone hall) s
    = .next (s.rootDo hall.val r (accMap (fun u => u.rootEnds hall.val r (s.rootRecords r))
      (s.taskWrite r.graph r.task r.job r.tags r.statusPtr (s.rootRecords r).flatten))) := by
  change execRootTaskDone hall s = _
  rw [execRootTaskDone]
  dsimp only
  rw [hr]
  exact if_neg (Classical.not_not.mpr hp)
end

theorem accMap_of_not_ok {α β : Type} {a : Acc α} (h : ∀ t, a ≠ .ok t) (f f' : α → β) : accMap f a = accMap f' a := by
  cases a with
  | ok t => exact absurd rfl (h t)
  | _ => rfl

theorem accMap_accBind {α β γ : Type} (a : Acc α) (f : α → Acc β) (k : β → γ) :
    accMap k (accBind a f) = accBind a fun x => accMap k (f x) := by
  cases a with
  | ok t => rfl
  | _ => rfl

/-! ### Solves (R284 to R293) -/

section
variable {s : State} {hall : Fin 4} {past : Bool} {g : Fin 8} {task : Nat} {peer : SolvePeer} {r : SolveRun} {i : SolveImage}

theorem exec_solveTaskRun_waits (h : s.power.supply ≠ .on ∨ s.hallRuns hall.val = false) : exec (.solveTaskRun hall g task peer) s = .next s :=
  if_pos (by
    simp only [Bool.or_eq_true, decide_eq_true_iff, Bool.not_eq_true']
    exact h)

/-- What SOLVE_TASK_RUN does once the task has probed. -/
def State.solveRuns (s : State) (h g task : Nat) : State :=
  match s.unitTask g task 5 with
  | some (gr, ts, rec) =>
    if !ts.probed || rec.placeHall ≠ h then s
    else match s.solveRead h gr rec with
      | .ok (some (i, p)) =>
        if i.halls.any fun k => !(s.hallRuns k) || s.roots.failed.getLsbD k then (s.dropHub gr.hdr.job).failTask g task 0x2A
        else (s.solveEngage h g task gr ts i p).dropHub gr.hdr.job
      | .ok none => (s.dropHub gr.hdr.job).failTask g task 0x22
      | e => s.unitStop h g task gr.hdr.job ts.tags e
  | none => s

theorem exec_solveTaskRun (hon : s.power.supply = .on) (hh : s.hallRuns hall.val = true) (hn : s.solveRun hall.val = none) :
    exec (.solveTaskRun hall g task peer) s = .next ((s.solveProbe hall.val g.val task).solveRuns hall.val g.val task) := by
  change execSolveTaskRun hall g task peer s = _
  rw [execSolveTaskRun]
  refine (if_neg (by simp [hon, hh])).trans ((if_neg (by rw [hn]; decide)).trans ?_)
  unfold State.solveRuns
  dsimp only
  cases (s.solveProbe hall.val g.val task).unitTask g.val task 5 with
  | none => rfl
  | some q =>
    obtain ⟨gr, ts, rec⟩ := q
    dsimp only
    rw [apply_ite Host.Outcome.next]
    refine if_congr Iff.rfl rfl ?_
    generalize (s.solveProbe hall.val g.val task).solveRead hall.val gr rec = a
    rcases a with (_ | ⟨_, _⟩) | _ | _ | _
    · rfl
    · dsimp only
      rw [apply_ite Host.Outcome.next]
    · rfl
    · rfl
    · rfl

theorem exec_solveTaskRun_engaged (hr : s.solveRun hall.val = some r) (hi : s.image r.image = some i) (hon : s.power.supply = .on)
    (hh : s.hallRuns hall.val = true) : exec (.solveTaskRun hall g task peer) s
    = .next (if r.stage = .setup ∧ r.graph = g.val ∧ r.task = task then s.solveDo hall.val g.val task r.job r.tags (s.solveBegin hall.val i r peer) else s) := by
  change execSolveTaskRun hall g task peer s = _
  rw [execSolveTaskRun]
  refine (if_neg (by simp [hon, hh])).trans ?_
  rw [hr]
  dsimp only
  rw [if_pos (show (some r).isSome = true from rfl), hi]
  dsimp only
  rw [apply_ite Host.Outcome.next]
  exact if_congr (by rw [Bool.and_eq_true, Bool.and_eq_true, decide_eq_true_iff, decide_eq_true_iff, decide_eq_true_iff, and_assoc]) rfl rfl

theorem exec_solveTaskRun_noImage (hr : s.solveRun hall.val = some r) (hi : s.image r.image = none) :
    exec (.solveTaskRun hall g task peer) s = .next s := by
  change execSolveTaskRun hall g task peer s = _
  rw [execSolveTaskRun, hr]
  dsimp only
  rw [hi, if_pos (show (some r).isSome = true from rfl)]
  exact ite_self _

section
variable {h gi : Nat} {gr : Graph} {ts : TaskSt} {rec : TaskRec}

theorem solveRuns_noTask (hu : s.unitTask gi task 5 = none) : s.solveRuns h gi task = s := by
  rw [State.solveRuns, hu]

theorem solveRuns_unprobed (hu : s.unitTask gi task 5 = some (gr, ts, rec)) (hp : ts.probed = false ∨ rec.placeHall ≠ h) :
    s.solveRuns h gi task = s := by
  rw [State.solveRuns, hu]
  exact if_pos (by simpa using hp)

theorem solveRuns_probed (hu : s.unitTask gi task 5 = some (gr, ts, rec)) (hp : ts.probed = true) (hh : rec.placeHall = h) :
    s.solveRuns h gi task = match s.solveRead h gr rec with
      | .ok (some (i, p)) =>
        if i.halls.any fun k => !(s.hallRuns k) || s.roots.failed.getLsbD k then (s.dropHub gr.hdr.job).failTask gi task 0x2A
        else (s.solveEngage h gi task gr ts i p).dropHub gr.hdr.job
      | .ok none => (s.dropHub gr.hdr.job).failTask gi task 0x22
      | e => s.unitStop h gi task gr.hdr.job ts.tags e := by
  rw [State.solveRuns, hu]
  exact if_neg (by simp [hp, hh])
end

theorem solve_none (hr : s.solveRun hall.val = none) : exec (.solveIterationBoundary hall past peer) s = .next s
    ∧ exec (.solvePeerTimeout hall) s = .next s ∧ exec (.solveDone hall) s = .next s
    ∧ ∀ part words, exec (.solveReadiness hall part words peer) s = .next s := by
  refine ⟨?_, ?_, ?_, fun part words => ?_⟩
  · change execSolveIterationBoundary hall past peer s = _
    rw [execSolveIterationBoundary, hr]
  · change execSolvePeerTimeout hall s = _
    rw [execSolvePeerTimeout, hr]
  · change execSolveDone hall s = _
    rw [execSolveDone, hr]
  · change execSolveReadiness hall part words peer s = _
    rw [execSolveReadiness, hr]

theorem solve_noImage (hr : s.solveRun hall.val = some r) (hi : s.image r.image = none) :
    exec (.solveIterationBoundary hall past peer) s = .next s ∧ exec (.solvePeerTimeout hall) s = .next s
    ∧ ∀ part words, exec (.solveReadiness hall part words peer) s = .next s := by
  refine ⟨?_, ?_, fun part words => ?_⟩
  · change execSolveIterationBoundary hall past peer s = _
    rw [execSolveIterationBoundary, hr]
    dsimp only
    rw [hi]
  · change execSolvePeerTimeout hall s = _
    rw [execSolvePeerTimeout, hr]
    dsimp only
    rw [hi]
    exact if_pos (by simp)
  · change execSolveReadiness hall part words peer s = _
    rw [execSolveReadiness, hr]
    dsimp only
    rw [hi]

section
variable (hr : s.solveRun hall.val = some r) (hi : s.image r.image = some i)
include hr hi

theorem exec_solveIterationBoundary : exec (.solveIterationBoundary hall past peer) s = .next (if r.stage = .boundary
    then s.solveGo hall.val (({ img := i, run := r, peer := peer } : Sv).test (s.solveIsLate hall.val r past)) else s) := by
  change execSolveIterationBoundary hall past peer s = _
  rw [execSolveIterationBoundary, hr]
  dsimp only
  rw [hi]
  dsimp only
  rw [ite_not, apply_ite Host.Outcome.next]

/-- The halo once a peer's words have filled its slots. -/
def SolveRun.filled (r : SolveRun) (i : SolveImage) (part : Nat) (words : List W32) : SMap Int :=
  let slots := ((List.range i.nhalo).zip i.gather).filterMap fun p => if p.2.src = part then some p.1 else none
  ((slots.zip words).map fun p => (p.1, p.2.toInt)).foldl (fun (m : SMap Int) p => m.set 0 p.1 p.2) r.halo

theorem exec_solveReadiness (part : Nat) (words : List W32) : exec (.solveReadiness hall part words peer) s
    = .next (if r.stage.gathers = true ∧ part ∈ i.sources ∧ ¬ part ∈ r.ready
      then s.solveGo hall.val { img := i, run := { r with halo := r.filled i part words, ready := r.ready ++ [part] }, peer := peer } else s) := by
  change execSolveReadiness hall part words peer s = _
  rw [execSolveReadiness, hr]
  dsimp only
  rw [hi]
  dsimp only
  rw [← ite_not, apply_ite Host.Outcome.next]
  exact if_congr (by simp [and_assoc]) rfl rfl

theorem exec_solvePeerTimeout : exec (.solvePeerTimeout hall) s = .next (if r.stage = .finished ∨ i.npart = 1 then s
    else s.solveDo hall.val r.graph r.task r.job r.tags (accMap (fun (s : State) => (s.setSolveRun hall.val none).failTask r.graph r.task 0x29)
      (s.solveRecord hall.val { r with outcome := 8 }))) := by
  change execSolvePeerTimeout hall s = _
  rw [execSolvePeerTimeout, hr]
  dsimp only
  rw [hi, apply_ite Host.Outcome.next]
  exact if_congr (by simp) rfl rfl
end

/-- What the end of a solve writes: x where it converged, and the record. -/
def State.solveWrites (s : State) (h : Nat) (r : SolveRun) : Acc State :=
  accBind (if r.outcome ≤ 4 then s.taskWrite r.graph r.task r.job r.tags r.params.xPtr
      (wordBytes ((List.range r.vals.x.w.length).map fun k => f32 (r.vals.x.val k))) else .ok s) fun u => u.solveRecord h r

theorem exec_solveDone (hr : s.solveRun hall.val = some r) : exec (.solveDone hall) s = .next (if r.stage ≠ .finished then s
    else s.solveDo hall.val r.graph r.task r.job r.tags (accMap (fun (s : State) =>
      (s.setSolveRun hall.val none).modTask r.graph r.task fun ts => { ts with unitDone := true }) (s.solveWrites hall.val r))) := by
  change execSolveDone hall s = _
  rw [execSolveDone, hr]
  dsimp only
  rw [apply_ite Host.Outcome.next]
  refine if_congr Iff.rfl rfl (congrArg (fun a => Host.Outcome.next (s.solveDo hall.val r.graph r.task r.job r.tags a)) ?_)
  exact (accMap_accBind _ _ _).symm
end

/-! ### The claim's three parts -/

section
variable {s : State} {h : CmdHdr} {c : Cmd} {v w : W64}

theorem setFactor_ok (s : State) (c : Cmd) (job : Byte) (bs : List Byte) (hb : factorBad bs job = none) : s.setFactor c job bs
    = if s.factor (RootFactor.parse bs).fid = none then
        (s.setRoots { s.roots with factors := s.roots.factors ++ [RootFactor.parse bs] }).reply c stOk []
      else s.reply c stConflict [] := by
  rw [State.setFactor, hb]

theorem factorOf_job {f : RootFactor} (hf : s.factorOf h.job v = some f) : f.job = h.job := by
  obtain ⟨-, hj⟩ := Option.filter_eq_some_iff.mp hf
  exact of_decide_eq_true hj

theorem unlessBusy_idle {s : State} {c : Cmd} {job : Byte} {busy : Acc Bool} (hb : busy = .ok false) (k : State → State) :
    s.unlessBusy c job busy k = k (s.dropHub job) := by
  rw [hb]
  rfl

theorem exec_rootReset_idle {f : RootFactor} (hs : s.serves 0x0B04 2 true h c) (hf : s.factorOf h.job v = some f)
    (hb : (s.begin_ c).factorBusy f = .ok false) (hw : w.toNat ≤ 3) :
    exec (.rootReset h v w) s = .next (((s.begin_ c).dropHub h.job).resetFactor (s.begun c) h.job f w) := by
  rw [exec_rootReset hs, hf, Option.elim_some, if_neg (by omega), unlessBusy_idle hb, factorOf_job hf]

section
variable (s : State) (c : Cmd) (job : Byte) (f : RootFactor)

theorem resetFactor_none : s.resetFactor c job f 0 = (s.putFactor f).reply c stOk [] := by
  simp [State.resetFactor]

theorem resetFactor_factor : s.resetFactor c job f 1
    = (s.putFactor { f with fValid := false, written := [] }).cmdWrite c job f.fPtr (List.replicate (4 * f.elems) 0) [] := by
  simp [State.resetFactor]
  rfl

theorem resetFactor_root : s.resetFactor c job f 2 = (s.putFactor { f with rootValid := false, inService := [] }).reply c stOk [] := by
  simp [State.resetFactor]

theorem resetFactor_both : s.resetFactor c job f 3
    = (s.putFactor { f with fValid := false, written := [], rootValid := false, inService := [] }).cmdWrite c job f.fPtr
      (List.replicate (4 * f.elems) 0) [] := by
  simp [State.resetFactor]
  rfl
end

theorem exec_solveImageSet_read {hd : List Byte} (hs : s.serves 0x0B10 1 true h c) (hv : v.toNat % 128 = 0)
    (hr : (s.begin_ c).hubRead h.job v.toNat 192 = .ok hd) :
    exec (.solveImageSet h v) s = .next ((s.begin_ c).readImage (s.begun c) h.job v.toNat hd) := by
  rw [exec_solveImageSet hs, if_neg (Classical.not_not.mpr hv), cmdPeek_ok hr]

theorem exec_solveImageSet_image {hd bs : List Byte} (hs : s.serves 0x0B10 1 true h c) (hv : v.toNat % 128 = 0)
    (hr : (s.begin_ c).hubRead h.job v.toNat 192 = .ok hd) (hb : imageHeaderBad hd = none)
    (hbs : (s.begin_ c).hubRead h.job v.toNat (leAt hd 0xA0 8) = .ok bs) :
    exec (.solveImageSet h v) s = .next (((s.begin_ c).dropHub h.job).setImage (s.begun c) h.job v.toNat bs) := by
  rw [exec_solveImageSet_read hs hv hr, State.readImage, hb]
  dsimp only
  rw [cmdRead_ok hbs]

theorem readImage_bad (s : State) (c : Cmd) (job : Byte) (va : Nat) {hd : List Byte} {o : Nat} (hb : imageHeaderBad hd = some o) :
    s.readImage c job va hd = (s.dropHub job).reply c stInvalid [BitVec.ofNat 64 o] := by
  rw [State.readImage, hb]

theorem readImage_ok (s : State) (c : Cmd) (job : Byte) (va : Nat) {hd : List Byte} (hb : imageHeaderBad hd = none) :
    s.readImage c job va hd = s.cmdRead c job va (leAt hd 0xA0 8) fun bs u => u.setImage c job va bs := by
  rw [State.readImage, hb]

theorem setImage_full (s : State) (c : Cmd) (job : Byte) (va : Nat) (bs : List Byte) (hn : s.freeImage = none) :
    s.setImage c job va bs = s.reply c stBusy [] := by
  rw [State.setImage, hn]

theorem setImage_free (s : State) (c : Cmd) (job : Byte) (va : Nat) (bs : List Byte) {id : Nat} (hid : s.freeImage = some id) :
    s.setImage c job va bs = (imageBodyBad bs (SolveImage.parse id s.solver.nextReg job va bs)).elim
      ((s.setSolver { s.solver with images := s.solver.images ++ [SolveImage.parse id s.solver.nextReg job va bs], nextReg := s.solver.nextReg + 1 }).reply
        c stOk [BitVec.ofNat 64 id])
      fun o => s.reply c stInvalid [BitVec.ofNat 64 o] := by
  rw [State.setImage, hid]
  dsimp only
  cases imageBodyBad bs (SolveImage.parse id s.solver.nextReg job va bs) with
  | none => rfl
  | some o => rfl

theorem setFactor_bad (s : State) (c : Cmd) (job : Byte) (bs : List Byte) {o : Nat} (hb : factorBad bs job = some o) :
    s.setFactor c job bs = s.reply c stInvalid [BitVec.ofNat 64 o] := by
  rw [State.setFactor, hb]

end

/-- Settles O56: the commands by their operands, root tasks and solves by the phase and stage in which a row finds them. -/
theorem rootAndSolveCommands : Obligations.RootAndSolveCommands := by
  classical
  unfold Obligations.RootAndSolveCommands
  refine ⟨fun h c s v w => ?_, fun s hall past g task => ?_, fun s hall past g task peer => ?_⟩
  · dsimp only
    refine ⟨fun hs => ⟨fun k hr => ?_, fun bs hr => ⟨fun o hb => ?_, fun hb => ?_⟩⟩, fun hf => ⟨fun hs => ?_, fun hs => ?_, fun hs => ?_⟩,
      fun f hf => ⟨fun hs => ⟨fun k hb => ?_, fun hb => ?_⟩, fun hs => ?_, fun hs => ⟨fun hw => ?_, fun k hw hb => ?_, fun hb => ?_⟩⟩,
      fun hs pass => exec_rootSelftest hs pass,
      fun hs => ⟨fun hv => ?_, fun k hv hr => ?_, fun hd hv hr => ⟨fun o hb => ?_, fun hb => ⟨fun k hn => ?_, fun bs hbs => ⟨fun hn => ?_, fun id hid =>
        ⟨fun o ho => ?_, fun ho => ?_⟩⟩⟩⟩⟩,
      fun hi => ⟨fun hs => ?_, fun hs => ?_⟩, fun i hi => ⟨fun hs => ?_, fun hs => ?_⟩⟩
    · rw [exec_rootFactorSet hs]
      exact congrArg _ (cmdRead_of_not_ok hr _ _)
    · rw [exec_rootFactorSet hs, cmdRead_ok hr, setFactor_bad _ _ _ _ hb]
      rfl
    · rw [exec_rootFactorSet hs, cmdRead_ok hr, setFactor_ok _ _ _ _ hb, apply_ite Host.Outcome.next]
      rfl
    · rw [exec_rootFactorClear hs, hf]
      rfl
    · rw [exec_rootStatus hs, hf]
      rfl
    · rw [exec_rootReset hs, hf]
      rfl
    · rw [exec_rootFactorClear hs, hf, Option.elim_some]
      exact congrArg _ (unlessBusy_of_ne hb ..)
    · rw [exec_rootFactorClear hs, hf, Option.elim_some, unlessBusy_idle hb, factorOf_job hf]
      rfl
    · rw [exec_rootStatus hs, hf]
      rfl
    · rw [exec_rootReset hs, hf, Option.elim_some, if_pos hw]
      rfl
    · rw [exec_rootReset hs, hf, Option.elim_some, if_neg (by omega)]
      exact congrArg _ (unlessBusy_of_ne hb ..)
    · rw [exec_rootReset_idle hs hf hb (by decide), exec_rootReset_idle hs hf hb (by decide), exec_rootReset_idle hs hf hb (by decide),
        exec_rootReset_idle hs hf hb (by decide), resetFactor_none, resetFactor_factor, resetFactor_root, resetFactor_both]
      exact ⟨rfl, rfl, rfl, rfl⟩
    · rw [exec_solveImageSet hs, if_pos hv]
      rfl
    · rw [exec_solveImageSet hs, if_neg (Classical.not_not.mpr hv)]
      exact congrArg _ (cmdPeek_of_not_ok hr _ _)
    · rw [exec_solveImageSet_read hs hv hr, readImage_bad _ _ _ _ hb]
      rfl
    · rw [exec_solveImageSet_read hs hv hr, readImage_ok _ _ _ _ hb]
      exact congrArg _ (cmdRead_of_not_ok hn _ _)
    · rw [exec_solveImageSet_image hs hv hr hb hbs, setImage_full ((s.begin_ c).dropHub h.job) _ _ _ _ hn]
      rfl
    · rw [exec_solveImageSet_image hs hv hr hb hbs, setImage_free ((s.begin_ c).dropHub h.job) _ _ _ _ hid]
      exact (congrArg (fun o : Option Nat => Host.Outcome.next (o.elim _ _)) ho).trans rfl
    · rw [exec_solveImageSet_image hs hv hr hb hbs, setImage_free ((s.begin_ c).dropHub h.job) _ _ _ _ hid]
      exact (congrArg (fun o : Option Nat => Host.Outcome.next (o.elim _ _)) ho).trans rfl
    · rw [exec_solveImageClear hs, hi]
      rfl
    · rw [exec_solveStatus hs, hi]
      rfl
    · rw [exec_solveImageClear hs, hi, Option.elim_some]
    · rw [exec_solveStatus hs, hi]
      rfl
  · dsimp only
    refine ⟨exec_rootTaskRun_waits, fun hon hn hr => ⟨fun hu => ?_, fun gr ts rec hu => ⟨fun hp => ?_, fun hp hh => ?_⟩⟩,
      fun h => ⟨exec_rootIterationBoundary_none h, exec_rootPanelBoundary_none h⟩,
      fun r h42 hr => ⟨reached_iff .., exec_rootIterationBoundary_other h42 hr, exec_rootPanelBoundary_other h42 hr,
        fun f hf => ⟨fun w hp => ?_, fun p rest result mid hp => ?_⟩, fun q f sc => rfl, fun q f sc bs hb => ?_⟩,
      fun r a => ⟨?_, ?_, ?_, ?_⟩, exec_rootTaskDone_none, fun r hr hp => ⟨fun t ht => ⟨t.keepRecords r (s.rootRecords r), ?_, ?_⟩, fun k hk => ?_⟩⟩
    · rw [exec_rootTaskRun hon hn hr, rootRuns_noTask hu]
    · rw [exec_rootTaskRun hon hn hr, rootRuns_unprobed hu hp]
    · rw [exec_rootTaskRun hon hn hr, rootRuns_probed hu hp hh]
      generalize (s.rootProbe hall.val g.val task).rootRead hall.val gr rec = a
      rcases a with (_ | ⟨_, _⟩) | _ | _ | _
      · rfl
      · rfl
      · rfl
      · rfl
      · rfl
    · exact ⟨rootIteration_warm h42 hr hf hp, rootIteration_done h42 hr hf hp, rootIteration_fallback h42 hr hf hp, rootIteration_next h42 hr hf hp⟩
    · rw [exec_rootPanelBoundary h42 hr hf hp]
      refine ⟨fun hr hm => ?_, fun hn hl => ?_, fun hr hm hl => ?_, fun hr hl => ?_⟩
      · rw [if_pos ⟨hr, hm⟩]
        rfl
      · rw [if_neg hn, if_pos hl]
        rfl
      · rw [if_neg (by rw [hm]; simp), if_neg hl, if_pos hr]
        cases result with
        | none => rfl
        | some root => rfl
      · rw [if_neg (fun h => hr h.1), if_neg hl, if_neg hr]
        rfl
    · rw [State.rootFallback, hb]
      rfl
    · rintro t rfl
      rfl
    · rintro va pa n rfl
      rfl
    · rintro x p rfl
      rfl
    · rintro k va lo n rfl
      rfl
    · rw [exec_rootTaskDone hr hp]
      exact congrArg (fun a => Host.Outcome.next (s.rootDo hall.val r (accMap _ a))) ht
    · have hk := keepRecords_frame t r (s.rootRecords r)
      exact ⟨(congrArg (·.mem) hk).trans rfl, (congrArg (·.graphs) hk).trans rfl, hk⟩
    · rw [exec_rootTaskDone hr hp]
      exact congrArg (fun a => Host.Outcome.next (s.rootDo hall.val r a)) (accMap_of_not_ok hk _ _)
  · dsimp only
    refine ⟨exec_solveTaskRun_waits, fun hon hh hn => ⟨fun hu => ?_, fun gr ts rec hu => ⟨fun hp => ?_, fun hp hr => ?_⟩⟩,
      fun hn => solve_none hn, fun r hr hi => ⟨exec_solveTaskRun_noImage hr hi, solve_noImage hr hi⟩,
      fun r i hr hi => ⟨reached_iff .., exec_solveTaskRun_engaged hr hi, exec_solveIterationBoundary hr hi, exec_solveReadiness hr hi,
        fun hf => ?_, fun t hf hn ht => ?_, fun k hf hn hk => ?_⟩,
      fun r hr => ⟨fun hf => ?_, fun t hf ht => ?_, fun k hf hk => ?_⟩, fun job tags a => ⟨?_, ?_, ?_, ?_⟩⟩
    · rw [exec_solveTaskRun hon hh hn, solveRuns_noTask hu]
    · rw [exec_solveTaskRun hon hh hn, solveRuns_unprobed hu hp]
    · rw [exec_solveTaskRun hon hh hn, solveRuns_probed hu hp hr]
      generalize (s.solveProbe hall.val g.val task).solveRead hall.val gr rec = a
      rcases a with (_ | ⟨i, p⟩) | _ | _ | _
      · rfl
      · exact congrArg _ (if_congr (by simp) rfl rfl)
      · rfl
      · rfl
      · rfl
    · rw [exec_solvePeerTimeout hr hi, if_pos hf]
    · rw [exec_solvePeerTimeout hr hi, if_neg (not_or.mpr ⟨hf, hn⟩), ht]
      rfl
    · rw [exec_solvePeerTimeout hr hi, if_neg (not_or.mpr ⟨hf, hn⟩)]
      exact congrArg (fun a => Host.Outcome.next (s.solveDo hall.val r.graph r.task r.job r.tags a)) (accMap_of_not_ok hk _ _)
    · rw [exec_solveDone hr, if_pos hf]
    · rw [exec_solveDone hr, if_neg (Classical.not_not.mpr hf)]
      exact congrArg (fun a => Host.Outcome.next (s.solveDo hall.val r.graph r.task r.job r.tags (accMap _ a))) ht
    · rw [exec_solveDone hr, if_neg (Classical.not_not.mpr hf)]
      exact congrArg (fun a => Host.Outcome.next (s.solveDo hall.val r.graph r.task r.job r.tags a)) (accMap_of_not_ok hk _ _)
    · rintro t rfl
      rfl
    · rintro va pa n rfl
      rfl
    · rintro x p rfl
      rfl
    · rintro k va lo n rfl
      rfl
end Sys2Proof.Machine
end

section
/-! SUPPORT. PASS and the copies (R107, R108, R115, R116, R193). -/

namespace Sys2Proof.Machine

section
variable {t : ThreadRef} {s : State} {th : Thread}

/-! ### PASS -/

/-- The runs that a PASS reads. -/
def passReads (f : ChainF) (th : Thread) (s : State) (st : Nat) : List Run :=
  let p := passOps f th st
  let e := passEnv f th s
  let n := passRow e.cfg p.ds p.dd (th.originOf f.xis)
  let ext := if e.cfg.rout = 0 then p.ext else p.ds.movedExt.set 0 n
  p.ds.runs p.os (if p.ds.fmt = 0xB then ext.set 2 (p.ds.extent 2) else ext) false
    ++ (match p.ds2 with | some d => d.runs p.os2 (p.ext.set 0 n) false | none => [])

/-- The runs that a PASS writes. -/
def passWrites (f : ChainF) (th : Thread) (st : Nat) : List Run :=
  (passOps f th st).dd.runs (passOps f th st).od (passOps f th st).dd.movedExt true

/-- The state in which a PASS has streamed its sources through its chain (R193). -/
def State.passed (s : State) (f : ChainF) (th : Thread) (k st : Nat) : State :=
  let p := passOps f th st
  let e := passEnv f th s
  let n := passRow e.cfg p.ds p.dd (th.originOf f.xis)
  ((p.run e n s).touchRuns th.graph th.task (passReads f th s st ++ passWrites f th st)).retire k th.wroteScratch

theorem exec_pass_bad {f : ChainF} {cause : Cause} {d : W64} (h : s.issues t (chainWord 0 f) th) (hc : passCheck f th s = some (cause, d)) :
    exec (.pass t f) s = .next (s.trap (tkey t) cause d (chainWord 0 f)) := by
  change execPass t f s = _
  rw [execPass, issue_runs h, hc]

theorem exec_pass_sound {f : ChainF} (h : s.issues t (chainWord 0 f) th) (hc : passCheck f th s = none) : exec (.pass t f) s
    = .next (s.unlessHeld (tkey t) th (passReads f th s (skey t.st)) (passWrites f th (skey t.st)) (s.passed f th (tkey t) (skey t.st))) := by
  change execPass t f s = _
  rw [execPass, issue_runs h, hc, stallOf_tkey]
  rfl

/-! ### The copies -/

/-- The instruction of a copy's OP. -/
def copyInstr (op : Fin 3) (t : ThreadRef) (f : CopyF) : Instr := match op with | 0 => .copy t f | 1 => .tcopy t f | 2 => .pcopy t f

theorem exec_copy {f : CopyF} (h : s.issues t (copyWord 0 f) th) : exec (.copy t f) s = .next (runCopy 0 0 f (tkey t) th s) := by
  change execCopy t f s = _
  rw [execCopy, issue_runs h]

theorem exec_tcopy {f : CopyF} (h : s.issues t (copyWord 1 f) th) : exec (.tcopy t f) s = .next (runCopy 1 1 f (tkey t) th s) := by
  change execTcopy t f s = _
  rw [execTcopy, issue_runs h]

theorem exec_pcopy {f : CopyF} (h : s.issues t (copyWord 2 f) th) : exec (.pcopy t f) s = .next (runCopy 2 2 f (tkey t) th s) := by
  change execPcopy t f s = _
  rw [execPcopy, issue_runs h]

theorem exec_copies (op : Fin 3) (f : CopyF) (h : s.issues t (copyWord (BitVec.ofNat 6 op.val) f) th) :
    exec (copyInstr op t f) s = .next (runCopy op.val (BitVec.ofNat 6 op.val) f (tkey t) th s) := by
  obtain rfl | rfl | rfl : op = 0 ∨ op = 1 ∨ op = 2 := by omega
  · exact exec_copy h
  · exact exec_tcopy h
  · exact exec_pcopy h

/-- The move that a copy starts. -/
def copyMove (op : Nat) (f : CopyF) (th : Thread) : Move :=
  { tok := if f.async then f.tok.toNat else 4, word := copyWord (BitVec.ofNat 6 op) f, pc := th.pc, ds := (th.dr f.ds).getD 0,
    dd := (th.dr f.dd).getD 0, os := th.originOf f.xis, od := th.originOf f.xid, op := op, perm := f.perm }

/-- The thread whose copy is accepted: it goes on while the copy is asynchronous. -/
def Thread.copies (th : Thread) (f : CopyF) (m : Move) : Thread :=
  let th' := { th with moves := th.moves ++ [m], status := if f.async then .ready else .syncMove }
  if (Desc.parse m.dd).space = 0 then th'.wroteScratch else th'

theorem copies_spec (th : Thread) (f : CopyF) (m : Move) : (th.copies f m).moves = th.moves ++ [m] ∧ (th.copies f m).x = th.x
    ∧ (th.copies f m).d = th.d ∧ (th.copies f m).status = if f.async then .ready else .syncMove := by
  unfold Thread.copies
  dsimp only
  split
  · exact ⟨rfl, rfl, rfl, rfl⟩
  · exact ⟨rfl, rfl, rfl, rfl⟩

theorem runCopy_bad {op k : Nat} {f : CopyF} {cause : Cause} {d : W64} (hc : copyCheck op f th s = some (cause, d)) :
    runCopy op (BitVec.ofNat 6 op) f k th s = s.trap k cause d (copyWord (BitVec.ofNat 6 op) f) := by
  rw [runCopy, hc]

theorem runCopy_sound {op k : Nat} {f : CopyF} (hc : copyCheck op f th s = none) : runCopy op (BitVec.ofNat 6 op) f k th s
    = if (∃ x ∈ th.moves, x.tok = (copyMove op f th).tok) then s.hold k th .token
      else s.unlessHeld k th (copyMove op f th).srcRuns (copyMove op f th).dstRuns
        (((s.touchRuns th.graph th.task ((copyMove op f th).srcRuns ++ (copyMove op f th).dstRuns)).retire k
          (th.copies f (copyMove op f th))).pumpMove k (copyMove op f th)) := by
  rw [runCopy, hc]
  exact if_congr (by simp only [List.any_eq_true, decide_eq_true_iff]; rfl) rfl rfl
end

/-- Settles O11: each instruction by its check, its token and what a pending move or drain overlaps. -/
theorem passAndCopies : Obligations.PassAndCopies := by
  unfold Obligations.PassAndCopies
  intro t s th
  refine ⟨fun f h => ⟨fun cause d hc => exec_pass_bad h hc, fun hc => ⟨fun why hw => ?_, fun hw => ?_⟩⟩, fun op f => ?_⟩
  · rw [exec_pass_sound h hc]
    exact congrArg _ (State.unlessHeld_of_some (reads := passReads f th s (skey t.st)) _ hw)
  · rw [exec_pass_sound h hc]
    exact congrArg _ (State.unlessHeld_of_none (reads := passReads f th s (skey t.st)) _ hw)
  · intro w c m h
    change (∀ cause d, _ → exec (copyInstr op t f) s = _) ∧ (_ → (_ → exec (copyInstr op t f) s = _)
      ∧ (_ → ∀ why, _ → exec (copyInstr op t f) s = _) ∧ (_ → _ → ∃ th', _ ∧ _ ∧ _ ∧ _ ∧ exec (copyInstr op t f) s = _))
    rw [exec_copies op f h]
    refine ⟨fun cause d hc => ?_, fun hc => ?_⟩
    · rw [runCopy_bad hc]
    · rw [runCopy_sound hc]
      refine ⟨fun ht => ?_, fun ht why hw => ?_, fun ht hw => ⟨th.copies f m, ?_⟩⟩
      · exact congrArg _ (if_pos ht)
      · exact congrArg _ ((if_neg fun ⟨x, hx, he⟩ => ht x hx he).trans (State.unlessHeld_of_some _ hw))
      · obtain ⟨h1, h2, h3, h4⟩ := copies_spec th f m
        exact ⟨h1, h2, h3, h4, congrArg _ ((if_neg fun ⟨x, hx, he⟩ => ht x hx he).trans (State.unlessHeld_of_none _ hw))⟩
end Sys2Proof.Machine
end

section
/-! SUPPORT. Events of a stall: moves, drains, slots, SPLITK and XSLICE (R116, R120, R121, R165 to R168, R174 to R177). -/

namespace Sys2Proof.Machine

section
variable {t : ThreadRef} {s : State} {th : Thread} (ht : s.thread (tkey t) = some th)
include ht

theorem exec_moveComplete (tok : Fin 5) (hm : ∃ m ∈ th.moves, m.tok = tok.val ∧ m.finished = true)
    (hw : ∀ w ∈ s.till.waiting, w.who.writeOf (tkey t) = false) : exec (.moveComplete t tok) s
    = .next (((s.setThread (tkey t) (some { th with moves := th.moves.filter fun m => m.tok ≠ tok.val })).moveFreed (tkey t)).finishAllocFrees) := by
  have hc : ((th.moves.any fun m => m.tok = tok.val && m.finished) && !(s.till.waiting.any fun w => w.who.writeOf (tkey t))) = true := by
    rw [Bool.and_eq_true, Bool.not_eq_true', List.any_eq_false, List.any_eq_true]
    exact ⟨by simpa using hm, by simpa using hw⟩
  change execMoveComplete t tok s = _
  rw [execMoveComplete, ht]
  exact if_pos hc

theorem exec_slotBeginGrant {op : Nat} {f : TensorF} {since : W64} (hst : th.status = .slotWait op f since)
    (hn : mmaNeeds f { th with status := .ready } (tkey t) (s.stall (skey t.st)) (s.widens f { th with status := .ready })
      ≤ 64 - (s.stall (skey t.st)).usedSlots)
    (hc : s.canIssue (tkey t) { th with status := .ready } = true) :
    exec (.slotBeginGrant t) s = .next (runMma op f (tkey t) { th with status := .ready } s) := by
  change execSlotBeginGrant t s = _
  rw [execSlotBeginGrant, ht]
  dsimp only
  rw [hst]
  exact if_pos (by rw [Bool.and_eq_true, decide_eq_true_iff]; exact ⟨hn, hc⟩)

theorem exec_slotPressureTimeout {op : Nat} {f : TensorF} {since : W64} {p : Nat × Nat} {u : State} (hst : th.status = .slotWait op f since)
    (hv : s.slotVictim (skey t.st) th.graph th.task = some p) (hu : s.beginSave p.1 p.2 .slotPressure 0 = some u) :
    exec (.slotPressureTimeout t) s = .next u := by
  change execSlotPressureTimeout t s = _
  rw [execSlotPressureTimeout, ht]
  dsimp only
  rw [hst]
  dsimp only
  rw [hv]
  dsimp only
  rw [hu]
  rfl

/-! ### SPLITK and XSLICE -/

theorem splitkResult_thread {xd : BitVec 5} {slot : BitVec 6} {nm1 : BitVec 4} (v : W64) (hst : th.status = .splitk xd slot nm1) :
    s.splitkResult (tkey t) v = s.setThread (tkey t) (some (th.setX xd v).past) := by
  rw [State.splitkResult, State.modThread, ht]
  dsimp only
  rw [hst]

theorem exec_splitkTimeout {xd : BitVec 5} {slot : BitVec 6} {nm1 : BitVec 4} (hst : th.status = .splitk xd slot nm1) :
    exec (.splitkTimeout t) s = .next (s.setThread (tkey t) (some (th.setX xd 3).past)) := by
  change execSplitkTimeout t s = _
  rw [execSplitkTimeout, ht]
  dsimp only
  rw [hst]
  exact congrArg _ (splitkResult_thread ht 3 hst)

section
variable {xd : BitVec 5} {mode : BitVec 3} (hst : th.status = .xslice xd mode) (ho : (s.stall (skey t.st)).otherFormat = false)
  (hn : (s.stall (skey t.st)).nextIs th.graph th.task = true)
include hst ho hn

theorem exec_xsliceModeSet_sets (he : (s.stall (skey t.st)).exact = none ∨ (s.stall (skey t.st)).exact = some (mode, th.graph, th.task)) :
    exec (.xsliceModeSet t) s = .next (s.setExact (tkey t) xd mode) := by
  change execXsliceModeSet t s = _
  rw [execXsliceModeSet, ht]
  dsimp only
  rw [hst]
  dsimp only
  rw [if_neg (by rw [ho, hn]; decide)]
  rcases he with he | he
  · rw [he]
  · rw [he]
    exact if_pos (by simp)

theorem exec_xsliceModeSet_refuses {e : BitVec 3 × Nat × Nat} (he : (s.stall (skey t.st)).exact = some e) (hne : e ≠ (mode, th.graph, th.task)) :
    exec (.xsliceModeSet t) s = .next (s.setThread (tkey t) (some (th.setX xd 1).past)) := by
  obtain ⟨m, g, k⟩ := e
  change execXsliceModeSet t s = _
  rw [execXsliceModeSet, ht]
  dsimp only
  rw [hst]
  dsimp only
  rw [if_neg (by rw [ho, hn]; decide), he]
  refine if_neg fun hc => hne ?_
  simp only [Bool.and_eq_true, decide_eq_true_iff] at hc
  obtain ⟨⟨rfl, rfl⟩, rfl⟩ := hc
  rfl
end
end

/-! ### Drains -/

/-- The state whose oldest drain has written its tile, with what saturated counted (R158, R165). -/
def State.drained (s : State) (st : Nat) (d : Drain) : State :=
  let v := if d.mode = 1 then drainRaw s st d else drainChain s st d
  if d.slot.kind = .i32 then v.count .int32Saturated (hallOf st) d.slot.sat.length
  else if d.slot.kind.isInt then v.count .exactSaturated (hallOf st) d.slot.sat.length else v

theorem exec_drainComplete {s : State} {st : StallId} {d : Drain} {r : List Drain} (hd : (s.stall (skey st)).drains = d :: r)
    (hs : d.sample = none) (hr : s.hallRuns (hallOf (skey st)) = true) (hf : (s.stall (skey st)).fenced = false) (hh : s.hbmHeld = false) :
    exec (.drainComplete st) s = .next (finishDrain (s.drained (skey st) d) (skey st) d) := by
  change execDrainComplete st s = _
  rw [execDrainComplete]
  dsimp only
  rw [hd]
  dsimp only
  rw [if_neg (by rw [hr, hf, hh]; decide), hs]
  rfl

/-! ### A SPLITK group -/

section
variable {hall : Fin 4} {aisle : Fin 36} {slot : BitVec 6} {nm1 : BitVec 4} {job : Byte} {s : State} {ps : List (Nat × Thread)} {xs : List Slot}

/-- The stalls of a group. -/
def groupStalls (hall : Fin 4) (aisle : Fin 36) (nm1 : BitVec 4) : List Nat := (List.range (nm1.toNat + 1)).map (aisleKey hall.val aisle.val * 16 + ·)

/-- A group's slots that combine: one open slot of one kind on each stall. -/
def groupSound (sts : List Nat) (xs : List Slot) : Prop :=
  xs.length = sts.length ∧ ∀ y ∈ xs, y.st = .open_ ∧ xs.head?.all (fun z => y.kind = z.kind) = true

theorem groupSound_iff (sts : List Nat) (xs : List Slot) : groupSound sts xs
    ↔ (decide (xs.length = sts.length) && xs.all fun x => x.st = .open_ && (xs.head?.all fun y => x.kind = y.kind)) = true := by
  simp only [groupSound, Bool.and_eq_true, decide_eq_true_iff, List.all_eq_true]

theorem exec_splitkGroupForm_sound (hp : (groupStalls hall aisle nm1).filterMap (fun st => s.splitkOn st slot nm1 job) = ps)
    (hl : ps.length = (groupStalls hall aisle nm1).length)
    (hx : ps.filterMap (fun p => (s.stall (stallOf p.1)).find p.1 slot.toNat false) = xs) (hs : groupSound (groupStalls hall aisle nm1) xs)
    {x : Slot} {rest : List Slot} (ht : slotTree xs = x :: rest) : exec (.splitkGroupForm hall aisle slot nm1 job) s
    = .next (ps.foldl (fun u p => u.splitkResult p.1 0)
        ((xs.foldl (fun u y => u.modStall (stallOf y.owner) fun i => i.remove y) s).modStall (stallOf x.owner)
          fun i => i.put { x with st := .heldSplit })) := by
  subst hp hx
  change execSplitkGroupForm hall aisle slot nm1 job s = _
  rw [execSplitkGroupForm]
  refine (if_neg (Classical.not_not.mpr hl)).trans ((if_neg ?_).trans ?_)
  · rw [Bool.not_eq_true', Bool.not_eq_false]
    exact (groupSound_iff _ _).mp hs
  · dsimp only [groupStalls] at ht
    dsimp only
    rw [ht]
    rfl

theorem exec_splitkGroupForm_unsound (hp : (groupStalls hall aisle nm1).filterMap (fun st => s.splitkOn st slot nm1 job) = ps)
    (hl : ps.length = (groupStalls hall aisle nm1).length)
    (hx : ps.filterMap (fun p => (s.stall (stallOf p.1)).find p.1 slot.toNat false) = xs) (hs : ¬ groupSound (groupStalls hall aisle nm1) xs) :
    exec (.splitkGroupForm hall aisle slot nm1 job) s = .next (ps.foldl (fun u p => u.splitkResult p.1 2) s) := by
  subst hp hx
  change execSplitkGroupForm hall aisle slot nm1 job s = _
  rw [execSplitkGroupForm]
  refine (if_neg (Classical.not_not.mpr hl)).trans (if_pos ?_)
  rw [Bool.not_eq_true', ← Bool.not_eq_true]
  exact fun h => hs ((groupSound_iff _ _).mpr h)
end

/-- What the thread of a decided SPLITK or XSLICE shows: its XD, its PC and its status. -/
theorem past_shows (s : State) (k : Nat) (th : Thread) (xd : BitVec 5) (v : W64) :
    ((s.setThread k (some (th.setX xd v).past)).thread k).map (fun x => (x.xr xd, x.pc, x.status)) = some (v, th.pc + 8, .ready) := by
  rw [State.setThread_thread]
  exact congrArg (fun w => some (w, th.pc + 8, ThreadStatus.ready)) (xr_setX_same th xd v)

/-- Settles O16: each event by the state of its thread, its stall and, for SPLITK, its group. -/
theorem stallEvents : Obligations.StallEvents := by
  unfold Obligations.StallEvents
  refine ⟨fun t s th ht => ?_, fun hall aisle slot nm1 job s ps xs => ?_⟩
  · refine ⟨exec_moveComplete ht, fun d r hd hs hr hf hh => exec_drainComplete hd hs hr hf hh,
      fun op f since hst hn hc => exec_slotBeginGrant ht hst hn hc, fun op f since p u hst hv hu => exec_slotPressureTimeout ht hst hv hu,
      fun xd slot nm1 hst => ⟨_, exec_splitkTimeout ht hst, past_shows .., rfl⟩,
      fun xd mode hst ho hn => ⟨fun he => ⟨_, exec_xsliceModeSet_sets ht hst ho hn he, ?_, ?_⟩,
        fun e he hne => ⟨_, exec_xsliceModeSet_refuses ht hst ho hn he hne, rfl, past_shows ..⟩⟩⟩
    · rw [setExact_eq ht, ← stallOf_tkey]
      exact congrArg (·.exact) (State.setStall_stall ..)
    · rw [setExact_eq ht]
      exact past_shows ..
  · intro sts hp hl hx sound
    exact ⟨fun x rest hs hr => exec_splitkGroupForm_sound hp hl hx hs hr, fun hs => exec_splitkGroupForm_unsound hp hl hx hs⟩
end Sys2Proof.Machine
end

section
/-! SUPPORT. MMA, MMA_TA and MMA_TB (R120, R122, R156 to R164, R171, R177, R181, R186 to R188, R639). -/

namespace Sys2Proof.Machine

/-! ### Tiles -/

section
variable {α : Type}

theorem length_grid (g : Nat → Nat → α) (n : Nat) : ((List.range n).flatMap fun r => (List.range 32).map fun c => g r c).length = n * 32 := by
  simp only [List.length_flatMap, List.length_map, List.length_range, List.map_const', List.sum_replicate_nat]

/-- Element (r, c) of a row-major grid of rows of 32. -/
theorem getD_grid (g : Nat → Nat → α) (d : α) {n r c : Nat} (hr : r < n) (hc : c < 32) :
    ((List.range n).flatMap fun r => (List.range 32).map fun c => g r c).getD (r * 32 + c) d = g r c := by
  induction n with
  | zero => omega
  | succ n ih =>
    rw [List.range_succ (n := n), List.flatMap_append]
    by_cases hn : r < n
    · rw [List.getD_eq_getElem?_getD, List.getElem?_append_left (by rw [length_grid]; omega), ← List.getD_eq_getElem?_getD, ih hn]
    · obtain rfl : r = n := by omega
      rw [List.getD_eq_getElem?_getD, List.getElem?_append_right (by rw [length_grid]; omega), length_grid]
      simp [hc]

theorem getD_map_range (g : Nat → α) (d : α) {n e : Nat} (he : e < n) : ((List.range n).map g).getD e d = g e := by
  simp [List.getD_eq_getElem?_getD, he]
end

theorem length_mmaSums (a b : List FVal) : (mmaSums a b).length = 1024 := length_grid _ 32

/-- Each element of a product is the exact sum of its 32 products (R156). -/
theorem tileAt_mmaSums (a b : List FVal) (r c : Fin 32) :
    tileAt (mmaSums a b) r.val c.val = FVal.sum ((List.range 32).map fun k => (tileAt a r.val k).mul (tileAt b k c.val)) :=
  getD_grid (fun r c => FVal.sum (dotTerms a b r c)) _ r.isLt c.isLt

/-! ### Slots -/

theorem clampI_fst (lo hi v : Int) (h : lo ≤ hi) : (clampI lo hi v).1 = max lo (min hi v) := by
  unfold clampI
  split
  · show lo = _
    omega
  · split
    · show hi = _
      omega
    · show v = _
      omega

theorem range_le (k : SlotKind) : k.range.1 ≤ k.range.2 := by
  cases k <;> decide

section
variable (x : Slot) (fresh : Bool) (sums : List FVal) (e : Fin 1024)

/-- A floating-point slot rounds each element once to its format (R156). -/
theorem accumulate_float (h : x.kind.isInt = false) : (x.accumulate fresh sums).vals.getD e.val 0
    = (x.ffmt.encode (if fresh then sums.getD e.val (.fin false 0 0)
        else (x.ffmt.decode (x.vals.getD e.val 0).toNat).add (sums.getD e.val (.fin false 0 0))) : Nat) := by
  rw [Slot.accumulate, if_neg (by rw [h]; decide)]
  dsimp only
  rw [getD_map_range _ _ e.isLt]

/-- An integer slot saturates, and a saturated element stays so (R158). -/
theorem accumulate_int (h : x.kind.isInt = true) : (x.accumulate fresh sums).vals.getD e.val 0
    = if fresh = false ∧ e.val ∈ x.sat then x.vals.getD e.val 0
      else max x.kind.range.1 (min x.kind.range.2 ((if fresh then 0 else x.vals.getD e.val 0) + (sums.getD e.val (.fin false 0 0)).trunc)) := by
  rw [Slot.accumulate, if_pos h]
  dsimp only
  rw [List.map_map, getD_map_range _ _ e.isLt]
  dsimp only [Function.comp]
  rw [apply_ite Prod.fst, clampI_fst _ _ _ (range_le _)]
  refine ite_congr (propext (by simp)) (fun hc => ?_) fun _ => rfl
  rw [if_neg (by rw [hc.1]; decide)]
end

/-- The slot of a thread under an index: half or full. -/
structure Slot.Keyed (x : Slot) (k idx : Nat) (half : Bool) : Prop where
  owner : x.owner = k
  idx : x.idx = idx
  half : x.half = half

section
variable {x : Slot} {i : StallInfo} {k idx : Nat} {half : Bool}

theorem keyed_iff : x.Keyed k idx half ↔ (decide (x.owner = k) && decide (x.idx = idx) && decide (x.half = half)) = true := by
  simp only [Bool.and_eq_true, decide_eq_true_iff, and_assoc]
  exact ⟨fun h => ⟨h.owner, h.idx, h.half⟩, fun h => ⟨h.1, h.2.1, h.2.2⟩⟩

theorem Slot.Keyed.accumulate (h : x.Keyed k idx half) (fresh : Bool) (sums : List FVal) : (x.accumulate fresh sums).Keyed k idx half := by
  unfold Slot.accumulate
  split
  · exact ⟨h.owner, h.idx, h.half⟩
  · exact ⟨h.owner, h.idx, h.half⟩

theorem Slot.Keyed.of_find (h : i.find k idx half = some x) : x.Keyed k idx half := by
  obtain ⟨hp, -⟩ := List.find?_eq_some_iff_append.mp h
  exact keyed_iff.mpr hp

theorem find_remove_same (h : x.Keyed k idx half) : (i.remove x).find k idx half = none := by
  obtain ⟨rfl, rfl, rfl⟩ := h
  rw [StallInfo.find, StallInfo.remove, List.find?_filter]
  refine List.find?_eq_none.mpr fun y _ => ?_
  grind

theorem find_put_same (h : x.Keyed k idx half) : (i.put x).find k idx half = some x := by
  obtain ⟨rfl, rfl, rfl⟩ := h
  have hn : (i.remove x).find x.owner x.idx x.half = none := find_remove_same ⟨rfl, rfl, rfl⟩
  rw [StallInfo.find, StallInfo.put, List.find?_append]
  refine (congrArg (fun o => Option.or o _) hn).trans ?_
  simp

theorem find_remove_other (h : ¬ x.Keyed k idx half) : (i.remove x).find k idx half = i.find k idx half := by
  rw [StallInfo.find, StallInfo.find, StallInfo.remove, List.find?_filter]
  congr 1
  funext y
  rw [keyed_iff] at h
  grind

theorem find_put_other (h : ¬ x.Keyed k idx half) : (i.put x).find k idx half = i.find k idx half := by
  have hx : List.find? (fun y => decide (y.owner = k) && decide (y.idx = idx) && decide (y.half = half)) [x] = none := by
    simpa using mt keyed_iff.mpr h
  have hr := find_remove_other (i := i) h
  rw [StallInfo.find, StallInfo.put, List.find?_append, hx, Option.or_none]
  exact hr
end

/-! ### What an MMA leaves of its stall and its thread -/

theorem touchRuns_stalls_threads (s : State) (g t : Nat) (rs : List Run) :
    (s.touchRuns g t rs).stalls = s.stalls ∧ (s.touchRuns g t rs).threads = s.threads :=
  List.foldlRecOn (motive := fun u : State => u.stalls = s.stalls ∧ u.threads = s.threads) _ _ ⟨rfl, rfl⟩ fun u hu r _ => by
    split
    · exact ⟨(State.modTask_stalls ..).trans hu.1, (State.modTask_threads ..).trans hu.2⟩
    · exact hu

theorem touchRuns_stall (s : State) (g t : Nat) (rs : List Run) (st : Nat) : (s.touchRuns g t rs).stall st = s.stall st :=
  congrArg (fun m => SMap.get ({} : StallInfo) m st) (touchRuns_stalls_threads s g t rs).1

theorem retire_stall (s : State) (k : Nat) (th : Thread) (st : Nat) : (s.retire k th).stall st = s.stall st := rfl

theorem retire_pc (s : State) (k : Nat) (th : Thread) : ((s.retire k th).thread k).map (·.pc) = some (th.pc + 8) := by
  change ((s.setThread k (some { th with pc := th.pc + 8, issued := s.clock, fetched := none })).thread k).map (·.pc) = _
  rw [State.setThread_thread]
  rfl

/-- The drain that a closed slot starts (R164, R193, R231). -/
def closingDrain (s : State) (k : Nat) (th : Thread) (f : TensorF) (x : Slot) : Drain :=
  { owner := k, graph := th.graph, task := th.task, thread := th.idx, tags := s.threadTags th, step := s.threadStep th,
    seed := s.seedOf (tagJob (s.threadTags th)), slot := x, mode := f.drain, dc := (th.dr f.dc).getD 0,
    origin := th.originOf f.xic, cfg := th.c.get 0 f.cc.toNat, x27 := th.xr 27, x28 := th.xr 28, x29 := th.xr 29,
    x30 := th.xr 30, sample := (sampleDecision s th (th.desc f.dc)).2 }

/-- A closed slot leaves the stall and is its newest drain, with what it needs captured (R164, R193). -/
theorem closeSlot_stall (s : State) (k : Nat) (th : Thread) (f : TensorF) (x : Slot) :
    (closeSlot s k th f x).stall (stallOf k)
      = { (s.stall (stallOf k)).remove x with drains := (s.stall (stallOf k)).drains ++ [closingDrain s k th f x] } := by
  unfold closeSlot
  dsimp only
  rw [retire_stall, touchRuns_stall]
  exact State.setStall_stall ..

theorem closeSlot_pc (s : State) (k : Nat) (th : Thread) (f : TensorF) (x : Slot) :
    ((closeSlot s k th f x).thread k).map (·.pc) = some (th.pc + 8) := retire_pc ..

section
variable (op : Nat) (f : TensorF) (k : Nat) (th : Thread) (s : State)

/-- The slices of an operand tile: none but in exact-slice mode (R181). -/
def mmaSlices (f : TensorF) (i : StallInfo) : Nat := if f.fmt = 0xB then (if (i.exact.map (·.1)).getD 0 = 1 then 7 else 4) else 0

/-- The A tile of an MMA, transposed for MMA_TA. -/
def mmaA (op : Nat) (f : TensorF) (k : Nat) (th : Thread) (s : State) : List FVal :=
  let n := mmaSlices f (s.stall (stallOf k))
  let r := (operandTile s (stallOf k) th f.da f.xia n th.reuseA).1
  if op = 1 then tilesT n r else r

/-- The B tile of an MMA, transposed for MMA_TB. -/
def mmaB (op : Nat) (f : TensorF) (k : Nat) (th : Thread) (s : State) : List FVal :=
  let n := mmaSlices f (s.stall (stallOf k))
  let r := (operandTile s (stallOf k) th f.db f.xib n th.reuseB).1
  if op = 2 then tilesT n r else r

/-- The product of an MMA. -/
def mmaProduct (op : Nat) (f : TensorF) (k : Nat) (th : Thread) (s : State) : List FVal :=
  if f.fmt = 0xB then
    sliceSums (mmaSlices f (s.stall (stallOf k))) (if ((s.stall (stallOf k)).exact.map (·.1)).getD 0 = 1 then 8 else 5) (mmaA op f k th s) (mmaB op f k th s)
  else mmaSums (mmaA op f k th s) (mmaB op f k th s)

/-- The slot that a BEGIN opens. -/
def mmaFresh (f : TensorF) (k : Nat) (th : Thread) (i : StallInfo) : Slot :=
  { owner := k, graph := th.graph, task := th.task, idx := tensorIdx f, half := f.accw = 1, kind := targetKind f th k i, fmt := f.fmt, accw := f.accw, vals := [] }

/-- The slot that a product meets. -/
def mmaCurrent (f : TensorF) (k : Nat) (th : Thread) (i : StallInfo) : Slot :=
  if f.beginF then mmaFresh f k th i else (i.find k (tensorIdx f) (f.accw = 1)).getD (mmaFresh f k th i)

/-- The slot once it holds the product. -/
def mmaSlot (op : Nat) (f : TensorF) (k : Nat) (th : Thread) (s : State) : Slot :=
  let cur := mmaCurrent f k th (s.stall (stallOf k))
  (if s.widens f th then (if f.beginF then { cur with widened := true } else cur.widen) else cur).accumulate f.beginF (mmaProduct op f k th s)

/-- The slot that a tap opens. -/
def tapFresh (f : TensorF) (k : Nat) (th : Thread) (p : TapPartner) : Slot :=
  { owner := k, graph := th.graph, task := th.task, idx := f.tslot.toNat, st := .heldTap,
    kind := if f.fmt = 9 && intKind (th.desc p.dreg) (th.desc f.da) then SlotKind.i32 else .f32, fmt := f.fmt, vals := [] }

/-- The product of a tap: the transposed partner times A (R186). -/
def tapProduct (op : Nat) (f : TensorF) (k : Nat) (th : Thread) (s : State) (p : TapPartner) : List FVal :=
  let pt := s.readTile (stallOf k) (th.desc p.dreg) p.origin
  mmaSums (tileT (if p.transposed then tileT pt else pt)) (mmaA op f k th s)

/-- The stall once a tap has accumulated. -/
def StallInfo.tapped (i : StallInfo) (f : TensorF) (k : Nat) (th : Thread) (p : TapPartner) (sums : List FVal) : StallInfo :=
  i.put (((i.find k f.tslot.toNat false).getD (tapFresh f k th p)).accumulate (i.find k f.tslot.toNat false).isNone sums)

/-- The stall once an MMA has formed its products. -/
def mmaStall (op : Nat) (f : TensorF) (k : Nat) (th : Thread) (s : State) : StallInfo :=
  let i := (s.stall (stallOf k)).put (mmaSlot op f k th s)
  match (if f.tap then partnerOf op f th else none) with
  | none => i
  | some p => i.tapped f k th p (tapProduct op f k th s p)

/-- The state once an MMA has formed its products, before its thread goes on. -/
def mmaFormed (op : Nat) (f : TensorF) (k : Nat) (th : Thread) (s : State) : State :=
  (s.setStall (stallOf k) (mmaStall op f k th s)).touchRuns th.graph th.task
    ((th.desc f.da).runs (originIdx (th.originOf f.xia)) (th.desc f.da).tileExt false
      ++ (th.desc f.db).runs (originIdx (th.originOf f.xib)) (th.desc f.db).tileExt false)

/-- The thread of an MMA, with the partner and the tiles that it keeps (R161, R186). -/
def mmaThread (op : Nat) (f : TensorF) (k : Nat) (th : Thread) (s : State) : Thread :=
  let n := mmaSlices f (s.stall (stallOf k))
  { th with partner := partnerOf op f th, reuseA := some (operandTile s (stallOf k) th f.da f.xia n th.reuseA).2,
            reuseB := some (operandTile s (stallOf k) th f.db f.xib n th.reuseB).2 }

theorem mmaEffect_eq : mmaEffect op f k th s = if f.close then closeSlot (mmaFormed op f k th s) k (mmaThread op f k th s) f (mmaSlot op f k th s)
    else (mmaFormed op f k th s).retire k (mmaThread op f k th s) := rfl

theorem mmaFormed_stall : (mmaFormed op f k th s).stall (stallOf k) = mmaStall op f k th s :=
  (touchRuns_stall ..).trans (State.setStall_stall ..)

theorem mmaEffect_pc : ((mmaEffect op f k th s).thread k).map (·.pc) = some (th.pc + 8) := by
  rw [mmaEffect_eq]
  split
  · exact closeSlot_pc ..
  · exact retire_pc ..

theorem mmaEffect_stall_open (hc : f.close = false) : (mmaEffect op f k th s).stall (stallOf k) = mmaStall op f k th s := by
  rw [mmaEffect_eq, if_neg (by rw [hc]; decide), retire_stall, mmaFormed_stall]

theorem mmaStall_drains : (mmaStall op f k th s).drains = (s.stall (stallOf k)).drains := by
  unfold mmaStall
  dsimp only
  split
  · rfl
  · rfl

theorem mmaEffect_stall_close (hc : f.close = true) : ∃ d : Drain, (mmaEffect op f k th s).stall (stallOf k)
      = { (mmaStall op f k th s).remove (mmaSlot op f k th s) with drains := (s.stall (stallOf k)).drains ++ [d] }
    ∧ d.slot = mmaSlot op f k th s ∧ d.mode = f.drain ∧ d.dc = (th.dr f.dc).getD 0 ∧ d.origin = th.originOf f.xic := by
  refine ⟨closingDrain (mmaFormed op f k th s) k (mmaThread op f k th s) f (mmaSlot op f k th s), ?_, rfl, rfl, rfl, rfl⟩
  rw [mmaEffect_eq, if_pos hc, closeSlot_stall, mmaFormed_stall, mmaStall_drains]

/-! ### Its slots -/

theorem mmaSlot_keyed : (mmaSlot op f k th s).Keyed k (tensorIdx f) (decide (f.accw = 1)) := by
  have hc : (mmaCurrent f k th (s.stall (stallOf k))).Keyed k (tensorIdx f) (decide (f.accw = 1)) := by
    unfold mmaCurrent
    split
    · exact ⟨rfl, rfl, rfl⟩
    · cases hf : (s.stall (stallOf k)).find k (tensorIdx f) (decide (f.accw = 1)) with
      | none => exact ⟨rfl, rfl, rfl⟩
      | some x => exact .of_find hf
  unfold mmaSlot
  refine .accumulate ?_ _ _
  split
  · split
    · exact ⟨hc.owner, hc.idx, hc.half⟩
    · exact ⟨hc.owner, hc.idx, hc.half⟩
  · exact hc

theorem mmaSlot_eq {old : Slot} (hw : s.widens f th = false)
    (ho : if f.beginF then old = mmaFresh f k th (s.stall (stallOf k)) else (s.stall (stallOf k)).find k (tensorIdx f) (decide (f.accw = 1)) = some old) :
    mmaSlot op f k th s = old.accumulate f.beginF (mmaProduct op f k th s) := by
  have hcur : mmaCurrent f k th (s.stall (stallOf k)) = old := by
    unfold mmaCurrent
    split <;> rename_i hb
    · rw [if_pos hb] at ho
      exact ho.symm
    · rw [if_neg hb] at ho
      rw [ho]
      rfl
  rw [mmaSlot, hcur, if_neg (by rw [hw]; decide)]

/-- A tap's slot is not the product's (R104, R188). -/
theorem tap_key_ne (ht : f.tap = true) (hl : tensorIllegal f = false) {x : Slot} (hx : x.Keyed k (tensorIdx f) (decide (f.accw = 1))) :
    ¬ x.Keyed k f.tslot.toNat false := by
  intro hk
  have hne : f.tslot ≠ f.slot ∧ ¬ f.accw = 1 := by
    simp only [tensorIllegal, Bool.or_eq_false_iff, Bool.and_eq_false_iff, decide_eq_false_iff_not] at hl
    grind
  have hidx : tensorIdx f = f.tslot.toNat := hx.idx.symm.trans hk.idx
  rw [tensorIdx, if_neg hne.2] at hidx
  exact hne.1 (BitVec.eq_of_toNat_eq hidx.symm)

theorem mmaStall_find_slot (hl : tensorIllegal f = false) :
    (mmaStall op f k th s).find k (tensorIdx f) (decide (f.accw = 1)) = some (mmaSlot op f k th s) := by
  have hs := mmaSlot_keyed op f k th s
  unfold mmaStall
  dsimp only
  split
  · exact find_put_same hs
  · next p hp =>
    have ht : f.tap = true := by
      apply Classical.byContradiction
      intro h
      rw [if_neg h] at hp
      cases hp
    have htap : ((((s.stall (stallOf k)).put (mmaSlot op f k th s)).find k f.tslot.toNat false).getD (tapFresh f k th p)).Keyed k f.tslot.toNat false := by
      cases hf : ((s.stall (stallOf k)).put (mmaSlot op f k th s)).find k f.tslot.toNat false with
      | none => exact ⟨rfl, rfl, rfl⟩
      | some x => exact .of_find hf
    rw [StallInfo.tapped, find_put_other, find_put_same hs]
    exact fun h => tap_key_ne f k ht hl h (htap.accumulate _ _)

theorem mmaStall_find_tap (hl : tensorIllegal f = false) (ht : f.tap = true) {p : TapPartner} (hp : partnerOf op f th = some p) :
    (mmaStall op f k th s).find k f.tslot.toNat false
      = some ((((s.stall (stallOf k)).find k f.tslot.toNat false).getD (tapFresh f k th p)).accumulate
        ((s.stall (stallOf k)).find k f.tslot.toNat false).isNone (tapProduct op f k th s p)) := by
  have hother : ((s.stall (stallOf k)).put (mmaSlot op f k th s)).find k f.tslot.toNat false = (s.stall (stallOf k)).find k f.tslot.toNat false :=
    find_put_other (tap_key_ne f k ht hl (mmaSlot_keyed op f k th s))
  unfold mmaStall
  dsimp only
  rw [if_pos ht, hp]
  dsimp only
  rw [StallInfo.tapped, hother]
  refine find_put_same (.accumulate ?_ _ _)
  cases hf : (s.stall (stallOf k)).find k f.tslot.toNat false with
  | none => exact ⟨rfl, rfl, rfl⟩
  | some x => exact .of_find hf

/-- The slot of a product that stays open. -/
theorem mmaEffect_find_open (hl : tensorIllegal f = false) (hc : f.close = false) :
    ((mmaEffect op f k th s).stall (stallOf k)).find k (tensorIdx f) (decide (f.accw = 1)) = some (mmaSlot op f k th s) := by
  rw [mmaEffect_stall_open op f k th s hc, mmaStall_find_slot op f k th s hl]

/-- The slot of a tap, whether the product closes or not. -/
theorem mmaEffect_find_tap (hl : tensorIllegal f = false) (ht : f.tap = true) {p : TapPartner} (hp : partnerOf op f th = some p) :
    ((mmaEffect op f k th s).stall (stallOf k)).find k f.tslot.toNat false
      = some ((((s.stall (stallOf k)).find k f.tslot.toNat false).getD (tapFresh f k th p)).accumulate
        ((s.stall (stallOf k)).find k f.tslot.toNat false).isNone (tapProduct op f k th s p)) := by
  cases hc : f.close with
  | false => rw [mmaEffect_stall_open op f k th s hc, mmaStall_find_tap op f k th s hl ht hp]
  | true =>
    obtain ⟨d, hd, -⟩ := mmaEffect_stall_close op f k th s hc
    rw [hd]
    exact (find_remove_other (tap_key_ne f k ht hl (mmaSlot_keyed op f k th s))).trans (mmaStall_find_tap op f k th s hl ht hp)
end

/-! ### The instructions -/

theorem firstBad_cons_none {b : Bad} {l : List Bad} (h : firstBad (b :: l) = none) : b = none := by
  cases b with
  | none => rfl
  | some b => cases h

theorem tensorIllegal_of_mmaCheck {op k : Nat} {f : TensorF} {th : Thread} {s : State} (h : mmaCheck op f th k s = none) : tensorIllegal f = false := by
  have hb := firstBad_cons_none h
  apply Classical.byContradiction
  intro hn
  rw [if_pos (by rw [Bool.not_eq_false] at hn; rw [hn, Bool.true_or])] at hb
  cases hb

theorem mmaCheck_of_tensorIllegal {op k : Nat} {f : TensorF} {th : Thread} {s : State} (h : tensorIllegal f = true) :
    mmaCheck op f th k s = some (.illegal, 0) := by
  rw [mmaCheck, h]
  rfl

/-- The tensor instruction of an OP. -/
def tensorInstr (op : Fin 3) (t : ThreadRef) (f : TensorF) : Instr := match op with | 0 => .mma t f | 1 => .mmaTa t f | 2 => .mmaTb t f

section
variable {op : Fin 3} {t : ThreadRef} {f : TensorF} {s : State} {th : Thread}

theorem exec_mma (h : s.issues t (tensorWord 0 f) th) : exec (.mma t f) s = .next (runMma 0 f (tkey t) th s) := by
  change execMma t f s = _
  rw [execMma, issue_runs h]

theorem exec_mmaTa (h : s.issues t (tensorWord 1 f) th) : exec (.mmaTa t f) s = .next (runMma 1 f (tkey t) th s) := by
  change execMmaTa t f s = _
  rw [execMmaTa, issue_runs h]

theorem exec_mmaTb (h : s.issues t (tensorWord 2 f) th) : exec (.mmaTb t f) s = .next (runMma 2 f (tkey t) th s) := by
  change execMmaTb t f s = _
  rw [execMmaTb, issue_runs h]

theorem exec_tensor (h : s.issues t (tensorWord (BitVec.ofNat 6 op.val) f) th) :
    exec (tensorInstr op t f) s = .next (runMma op.val f (tkey t) th s) := by
  obtain rfl | rfl | rfl : op = 0 ∨ op = 1 ∨ op = 2 := by omega
  · exact exec_mma h
  · exact exec_mmaTa h
  · exact exec_mmaTb h
end

section
variable {op k : Nat} {f : TensorF} {s : State} {th : Thread}

theorem runMma_bad {cause : Cause} {d : W64} (hc : mmaCheck op f th k s = some (cause, d)) :
    runMma op f k th s = s.trap k cause d (tensorWord (BitVec.ofNat 6 op) f) := by
  unfold runMma
  dsimp only
  rw [hc]

/-- Whether an MMA must wait for the exact-slice mode of another task (R177). -/
def StallInfo.xmodeBars (i : StallInfo) (f : TensorF) : Prop := i.exact ≠ none ∨ (f.beginF = true ∧ i.exactNext ≠ none)

theorem runMma_xmode (hc : mmaCheck op f th k s = none) (hf : f.fmt ≠ 0xB) (hx : (s.stall (stallOf k)).xmodeBars f) :
    runMma op f k th s = s.hold k th .xmode := by
  unfold runMma
  dsimp only
  rw [hc]
  refine if_pos ?_
  rw [Bool.and_eq_true, Bool.or_eq_true, Bool.and_eq_true, decide_eq_true_iff, Option.isSome_iff_ne_none, Option.isSome_iff_ne_none]
  exact ⟨hf, hx⟩

/-- A product or a drain form that no exact-slice mode bars. -/
theorem runMma_unbarred (hc : mmaCheck op f th k s = none)
    (hx : f.fmt = 0xB ∨ ((s.stall (stallOf k)).exact = none ∧ (f.beginF = true → (s.stall (stallOf k)).exactNext = none))) :
    runMma op f k th s = match drainTarget op f k (s.stall (stallOf k)) with
      | some x => s.unlessHeld k th [] (mmaWrites f th) (closeSlot s k th f x)
      | none => if mmaNeeds f th k (s.stall (stallOf k)) (s.widens f th) > 64 - (s.stall (stallOf k)).usedSlots then
          if (s.stall (stallOf k)).exhausted th.graph th.task then
            s.trap k .slotExhausted (BitVec.ofNat 64 (tensorIdx f)) (tensorWord (BitVec.ofNat 6 op) f)
          else s.setThread k (some { th with status := .slotWait op f (s.hallLc (hallOf (stallOf k))) })
        else s.unlessHeld k th (mmaReads op f th) (mmaWrites f th) ((mmaEffect op f k th s).trapExhausted (stallOf k)) := by
  unfold runMma
  dsimp only
  rw [hc]
  refine if_neg fun hb => ?_
  rw [Bool.and_eq_true, Bool.or_eq_true, Bool.and_eq_true, decide_eq_true_iff, Option.isSome_iff_ne_none, Option.isSome_iff_ne_none] at hb
  rcases hx with hx | ⟨he, hn⟩
  · exact hb.1 hx
  · rcases hb.2 with h | ⟨h1, h2⟩
    · exact h he
    · exact h2 (hn h1)

section
variable (hc : mmaCheck op f th k s = none)
  (hx : f.fmt = 0xB ∨ ((s.stall (stallOf k)).exact = none ∧ (f.beginF = true → (s.stall (stallOf k)).exactNext = none)))
include hc hx

theorem runMma_drains {x : Slot} (hd : drainTarget op f k (s.stall (stallOf k)) = some x) (hh : s.holdFor k th [] (mmaWrites f th) = none) :
    runMma op f k th s = closeSlot s k th f x := by
  rw [runMma_unbarred hc hx, hd]
  exact State.unlessHeld_of_none _ hh

variable (hd : drainTarget op f k (s.stall (stallOf k)) = none)
include hd

theorem runMma_noSlot (hn : 64 - (s.stall (stallOf k)).usedSlots < mmaNeeds f th k (s.stall (stallOf k)) (s.widens f th)) :
    runMma op f k th s = if (s.stall (stallOf k)).exhausted th.graph th.task then
        s.trap k .slotExhausted (BitVec.ofNat 64 (tensorIdx f)) (tensorWord (BitVec.ofNat 6 op) f)
      else s.setThread k (some { th with status := .slotWait op f (s.hallLc (hallOf (stallOf k))) }) := by
  rw [runMma_unbarred hc hx, hd]
  exact if_pos hn

variable (hn : mmaNeeds f th k (s.stall (stallOf k)) (s.widens f th) ≤ 64 - (s.stall (stallOf k)).usedSlots)
include hn

theorem runMma_held {why : HoldWhy} (hh : s.holdFor k th (mmaReads op f th) (mmaWrites f th) = some why) : runMma op f k th s = s.hold k th why := by
  rw [runMma_unbarred hc hx, hd]
  exact (if_neg (by omega)).trans (State.unlessHeld_of_some _ hh)

theorem runMma_forms (hh : s.holdFor k th (mmaReads op f th) (mmaWrites f th) = none) :
    runMma op f k th s = (mmaEffect op f k th s).trapExhausted (stallOf k) := by
  rw [runMma_unbarred hc hx, hd]
  exact (if_neg (by omega)).trans (State.unlessHeld_of_none _ hh)
end
end

/-- Settles O10: the instructions by their checks, the mode, the slots and what overlaps; the arithmetic by the element. -/
theorem tensorProducts : Obligations.TensorProducts := by
  unfold Obligations.TensorProducts
  refine ⟨fun op t f s th => ?_, ⟨fun a b r c => ⟨length_mmaSums a b, tileAt_mmaSums a b r c⟩,
    fun x fresh sums e => ⟨accumulate_float x fresh sums e, accumulate_int x fresh sums e⟩⟩, fun op t f s th h hl => ?_⟩
  · intro k st i w c half free h
    have hst : stallOf k = st := stallOf_tkey t
    have hi : s.stall (stallOf k) = i := congrArg s.stall hst
    have hx : exec c s = .next (runMma op.val f k th s) := exec_tensor h
    rw [hx]
    refine ⟨fun cause d hc => congrArg _ (runMma_bad hc), fun hc => ⟨fun hf hm => ?_, fun hm => ⟨fun x hd hh => ?_, fun hd => ⟨fun hn => ?_,
      fun hn => ⟨fun why hh => ?_, fun hh => ⟨mmaEffect op.val f k th s, ?_, mmaEffect_pc .., ?_⟩⟩⟩⟩⟩⟩
    · exact congrArg _ (runMma_xmode hc hf (by rw [hi]; exact hm))
    · exact congrArg _ (runMma_drains hc (by rw [hi]; exact hm) (by rw [hi]; exact hd) hh)
    · rw [runMma_noSlot hc (by rw [hi]; exact hm) (by rw [hi]; exact hd) (by rw [hi]; exact hn), hi, hst]
    · exact congrArg _ (runMma_held hc (by rw [hi]; exact hm) (by rw [hi]; exact hd) (by rw [hi]; exact hn) hh)
    · rw [runMma_forms hc (by rw [hi]; exact hm) (by rw [hi]; exact hd) (by rw [hi]; exact hn) hh, hst]
    · intro mode n ra rb a b sums
      have hl := tensorIllegal_of_mmaCheck hc
      have hA : mmaA op.val f k th s = a := by
        rw [mmaA, hst]
        exact if_congr (Fin.ext_iff (b := 1)).symm rfl rfl
      have hB : mmaB op.val f k th s = b := by
        rw [mmaB, hst]
        exact if_congr (Fin.ext_iff (b := 2)).symm rfl rfl
      have hS : mmaProduct op.val f k th s = sums := by
        rw [mmaProduct, hA, hB, hi]
        rfl
      refine ⟨fun old hw ho => ?_, fun p ht hp => ?_⟩
      · have hslot : mmaSlot op.val f k th s = old.accumulate f.beginF sums := by
          rw [mmaSlot_eq op.val f k th s hw (by rw [hi]; exact ho), hS]
        rw [← hst]
        refine ⟨fun hcl => (mmaEffect_find_open op.val f k th s hl hcl).trans (congrArg some hslot), fun hcl => ?_⟩
        obtain ⟨d, hd, hx, hmode, hdc, ho⟩ := mmaEffect_stall_close op.val f k th s hcl
        rw [hd]
        exact ⟨d, congrArg (fun j : StallInfo => j.drains ++ [d]) hi, hx.trans hslot, hmode, hdc, ho, find_remove_same (mmaSlot_keyed op.val f k th s)⟩
      · have htap := mmaEffect_find_tap op.val f k th s hl ht hp
        rw [tapProduct, hA, hst] at htap
        exact htap
  · have hx : exec (tensorInstr op t f) s = .next (runMma op.val f (tkey t) th s) := exec_tensor h
    exact hx.trans (congrArg _ (runMma_bad (mmaCheck_of_tensorIllegal hl)))
end Sys2Proof.Machine
end
